-- ==== Sys2Proof/Word.lean ====
section
/-! DEFINITION. The byte and word types, the key-value tables and the interval sets of the model, and their plainest
arithmetic. -/

namespace Sys2Proof

/-- One byte (SCOPE, conventions: sizes in bytes, little-endian). -/
abbrev Byte := BitVec 8

/-- A 32-bit register word. -/
abbrev W32 := BitVec 32

/-- A 64-bit word. -/
abbrev W64 := BitVec 64

/-- Bytes in ascending address order. -/
abbrev Bytes := List Byte

/-- What a step reads from host memory: `none` when the read still fails after the reissues of R309. -/
abbrev HostRead := Option Bytes

/-- A table of values by number, kept in strictly rising order of the number. -/
abbrev Tab (α : Type) := List (Nat × α)

/-- A set of numbers as disjoint half-open intervals `[lo, hi)` in rising order (the bits that are 1 of a bank). -/
abbrev Iset := List (Nat × Nat)

/-- The number that bytes spell, the first byte least significant. -/
def leNat : Bytes → Nat
  | [] => 0
  | b :: bs => b.toNat + 256 * leNat bs

/-- `k` bytes of a number, the least significant first. -/
def toLE (k : Nat) (n : Nat) : Bytes :=
  match k with
  | 0 => []
  | k + 1 => BitVec.ofNat 8 n :: toLE k (n / 256)

/-- The number that bytes spell, the first byte most significant. -/
def beNat (bs : Bytes) : Nat := leNat bs.reverse

/-- `k` bytes of a number, the most significant first. -/
def toBE (k : Nat) (n : Nat) : Bytes := (toLE k n).reverse

/-- `len` bytes from `off` on; bytes beyond the end read as zero. -/
def slice (bs : Bytes) (off len : Nat) : Bytes :=
  let t := (bs.drop off).take len
  t ++ List.replicate (len - t.length) 0

/-- The little-endian number of `len` bytes at `off`. -/
def fld (bs : Bytes) (off len : Nat) : Nat := leNat (slice bs off len)

/-- Bits `[hi:lo]` of a number. -/
def bits (n hi lo : Nat) : Nat := (n / 2 ^ lo) % 2 ^ (hi + 1 - lo)

/-- Bit `i` of a number. -/
def bit (n i : Nat) : Bool := n.testBit i

/-- The number 1 or 0 of a flag. -/
def b2n (b : Bool) : Nat := if b then 1 else 0

/-- Division rounded up. -/
def cdiv (a b : Nat) : Nat := (a + b - 1) / b

/-- Rounded up to a multiple of `b`. -/
def roundUp (a b : Nat) : Nat := cdiv a b * b

/-- A count that stops at `top` (the saturating counters of R173, R235, R270, R323, R370). -/
def satAdd (top n k : Nat) : Nat := min top (n + k)

end Sys2Proof
end

