-- ==== Sys2Proof/Syntax.lean ====
section
/-! DEFINITION. The commands the block takes: one constructor per row of spec/opcode_table.json, with the row's
operands. An operand is what comes from outside the block at that step: register values, the bytes a step reads from
host memory (`HostRead`), the vault sectors a step reads (by vault sector number), response data, tap beats, message
ports. A ring command is named by its queue and sequence number; its body is the item that the ledger journals. -/

namespace Sys2Proof

/-- What a launch reads in PREP from outside the block (R88, R93, R117, R123, R276). -/
structure LaunchReads where
  /-- the plan list, reread -/
  list : HostRead
  /-- the forecast list -/
  forecast : HostRead
  /-- the row list of each KIND 2 forecast record, by record index -/
  rowLists : Tab HostRead
  /-- the 4,096 B tracking-region header of each ROWTABLE entry, by entry index -/
  headers : Tab Bytes
  /-- sectors of the plan's vault, by vault sector number -/
  sectors : Tab Bytes
  deriving DecidableEq, Repr

/-- A DBG_DR request (R382). -/
structure DbgReq where
  /-- the reserved bits [15:8] of the request -/
  rsvd : Nat
  sel : Nat
  arg : Nat
  data : W64
  deriving DecidableEq, Repr

/-- Where an uncorrectable SRAM error is found (the sites of R321). -/
inductive EccSite where
  | seqFetch (addr : Nat) (rom : Bool)
  | seqData
  | context (ix mover : Nat)
  | staging (block : Nat)
  | passant (tag : Nat)
  | ledger (macroB : Bool) (word : Nat) (bothLost mirrorHas : Bool)
  | bank (collecting : Bool) (firstPlate : Nat)
  | trackerClean (entry group : Nat)
  | trackerDirty (entry group : Nat)
  | assayCache (handle : Nat)
  | digestOut (slot : Nat)
  | digestIn (port : Nat)
  | queueState (q : Nat)
  | recipe (slot : Nat)
  | key (slot : Nat)
  deriving DecidableEq, Repr

/-- The fields of a recipe word that its opcode uses (R184). -/
structure RFields where
  d : Nat := 0
  a : Nat := 0
  b : Nat := 0
  w : Nat := 0
  f : Bool := false
  imm : W32 := 0
  deriving DecidableEq, Repr

/-- One constructor per row of the table of operations and events. -/
inductive Instr where
  -- ring commands (R72)
  | vaultCreate (q seq : Nat)
  | vaultDelete (q seq : Nat)
  | queueCreate (q seq : Nat) (desc : HostRead)
  | queueDelete (q seq : Nat) (slots : List Bytes)
  | bufGrant (q seq : Nat)
  | bufFree (q seq : Nat)
  | planStore (q seq : Nat) (list : HostRead)
  | planPatch (q seq : Nat) (list recs : HostRead)
  | recipeLoad (q seq : Nat) (prog : HostRead)
  | keyLoad (q seq : Nat) (wrapped : HostRead)
  | keyDerive (q seq : Nat) (sectors : Tab Bytes)
  | powerSet (q seq : Nat)
  | laneRetire (q seq : Nat)
  | laneReturn (q seq : Nat) (pass : Bool)
  | buddySet (q seq : Nat)
  | topologySet (q seq : Nat) (table : HostRead)
  | touchstoneLoad (q seq : Nat) (pkg : HostRead)
  | touchstoneRun (q seq : Nat) (pkg : HostRead) (faulty : List Nat)
  | ledgerCompact (q seq : Nat)
  | fenceRaise (q seq : Nat)
  | epochOpen (q seq : Nat) (rd : LaunchReads)
  | capture (q seq : Nat)
  | rowCapture (q seq : Nat)
  | sealCmd (q seq : Nat)
  | restore (q seq : Nat) (sectors : Tab Bytes)
  | gatherRestore (q seq : Nat) (sectors : Tab Bytes)
  | digest (q seq : Nat)
  | checkvalue (q seq : Nat)
  | barrier (q seq : Nat)
  | planLaunch (q seq : Nat) (rd : LaunchReads)
  | cancel (q seq : Nat)
  | flush (q seq : Nat) (slots : List Bytes)
  -- register port
  | ringEnable (desc0 evDesc mirror : HostRead)
  | adminFlush (slots : List Bytes)
  | castleBegin
  | castleCommit
  | castleRollback
  | shadowedRegisterWrite (off : Nat) (val : W32)
  | castleApply
  | crcValWrite (val : W32)
  | crcIn8 (val : W32)
  | crcIn16 (val : W32)
  | crcIn32 (val : W32)
  | xfCntClr (val : W32)
  | assayClr (val : W32)
  | spillClr (val : W32)
  | eccClr (val : W32)
  | bufClr (val : W32)
  | mirrorRetry (val : W32)
  | flipArm (val : W32)
  | lastGaspClear (val : W32)
  | aonTimeLoRead
  | registerWrite (off : Nat) (val : W32)
  | sqTailDoorbell (q : Nat) (val : W32)
  | cqHeadDoorbell (q : Nat) (val : W32)
  | eventHeadDoorbell (val : W32)
  -- rings and ledger
  /-- `seen`: for each queue the slot bytes (R40) that the ring unit sees from its next slot to fetch on -/
  | dispatchOpportunity (seen : Tab Bytes)
  | slotRepoll (q : Nat)
  /-- `fails`: the engines whose self-check fails, one after the other, for the first sector that it brings (R194) -/
  | hostReadResponse (id err : Nat) (data : Bytes) (fails : List (Nat × Nat))
  | hostWriteResponse (id err : Nat)
  | itemAccept (q : Nat)
  | commandStart (q seq : Nat)
  | completionWrite (q : Nat)
  | headShadowWrite (q : Nat)
  | queueStall (q : Nat)
  | eventFlush
  | tick
  | replay (headers : Tab Bytes)
  | mirrorFault (id : Nat)
  | ledgerLost (macroB : Bool) (cause : Nat)
  | faultHold (cause : Nat)
  | eccUe (site : EccSite)
  | channelRetired (kind index cause : Nat)
  | contextScan
  | bitmapVerifyPass
  -- cut and capture
  | prepDone
  | holdAck (c : Nat)
  | cutSlow (c : Nat)
  | harvestBeat (c : Nat) (beat : Bytes)
  | harvestPushOk (c : Nat)
  | harvestPushErr (c : Nat)
  | filterWritePresent (n src addr bytes : Nat)
  | filterWriteAccept (n src addr : Nat) (data : Bytes)
  | injectedReadAccept (n : Nat)
  | trackerGroupReadReturn (entry group : Nat) (data : Bytes)
  -- streams
  | fabricReadResponse (id err : Nat) (data : Bytes) (last : Bool)
  | fabricWriteResponse (id err : Nat)
  | moverDescriptor (mover ctx : Nat)
  | deadlineRecompute
  | crucibleBlock (lane : Nat) (checkPasses : Bool)
  | sectorSeal (checkFails : Option (Nat × Nat))
  | sealRecordWrite (epoch : Nat)
  -- spill link
  | codewordLock (port lane : Nat) (lock : Bool)
  | phyTrainingDone (port : Nat) (failed : List Nat)
  | align (port lane : Nat) (block : Bytes)
  | lctl (port : Nat) (block : Bytes)
  | linit (port : Nat) (block : Bytes)
  | linitAck (port : Nat) (block : Bytes)
  | linitRepeat (port : Nat)
  | frame (port : Nat) (block : Bytes) (data : Bytes)
  | lctlDue (port : Nat)
  | frameResendTimeout (port : Nat)
  | helloRepeat (peer : Nat)
  | requestTimeout (tag : Nat)
  | laterResend
  -- transaction messages, taken from a port's received messages
  | hello (port : Nat)
  | helloAck (port : Nat)
  | fence (port : Nat)
  | fenced (port : Nat)
  | vaultOpen (port : Nat)
  | vaultClose (port : Nat)
  | vaultReply (port : Nat)
  | sectorWrite (port : Nat)
  | sectorAck (port : Nat)
  | sectorRead (port : Nat) (sectors : Tab Bytes)
  /-- `fails`: as for hostReadResponse -/
  | sectorData (port : Nat) (fails : List (Nat × Nat))
  | digestMessage (port : Nat)
  | digestVerdict (port : Nat)
  | tiding (port : Nat)
  -- Assay taps
  | tileStart (word : W64)
  | tileEnd (word : W64)
  | load (word : W64)
  | loadVerify (word : W64)
  | operandRow (data exps : Bytes) (eref : Byte)
  | weightData (data : Bytes)
  | weightExponents (exps : Bytes) (eref : Byte)
  | poolHeader (data : Bytes)
  | poolIndices (data : Bytes)
  | pooledVector (data exps : Bytes)
  | poolCheck
  | rowSum (sums : List W32) (faulty : List Nat)
  -- power, resets, clocks
  | powerQuiescence
  | branchGate
  | powerOnReset
  | coldReset
  | warmReset
  | resetRelease (failed : List (Nat × Nat))
  | rootLockLoss
  | clockLost (c : Nat)
  | fabSlip (port : Nat)
  -- debug port
  | tapReset
  | dbgNop (r : DbgReq)
  | dbgStatus (r : DbgReq)
  | dbgChallenge (r : DbgReq)
  | dbgUnlock (r : DbgReq)
  | unlockLockoutExpiry
  | dbgLock (r : DbgReq)
  | dbgHalt (r : DbgReq)
  | haltReached
  | dbgResume (r : DbgReq)
  | dbgStep (r : DbgReq)
  | stepDone
  | dbgRstep (r : DbgReq)
  | dbgRresume (r : DbgReq)
  | dbgBpSet (r : DbgReq)
  | dbgBpClear (r : DbgReq)
  | breakpointFire (slot : Nat)
  | dbgSetaddr (r : DbgReq)
  | dbgRead (r : DbgReq)
  | dbgWrite (r : DbgReq)
  | otpWrite (r : DbgReq)
  | otpBurn (r : DbgReq) (verified : Bool)
  -- recipe instructions of a Crucible lane (R184)
  | rNop (l : Nat) (r : RFields)
  | rEnd (l : Nat) (r : RFields)
  | rTrap (l : Nat) (r : RFields)
  | rJmp (l : Nat) (r : RFields)
  | rBz (l : Nat) (r : RFields)
  | rBnz (l : Nat) (r : RFields)
  | rLoop (l : Nat) (r : RFields)
  | rSli (l : Nat) (r : RFields)
  | rSadd (l : Nat) (r : RFields)
  | rSaddi (l : Nat) (r : RFields)
  | rSsub (l : Nat) (r : RFields)
  | rSand (l : Nat) (r : RFields)
  | rSor (l : Nat) (r : RFields)
  | rSxor (l : Nat) (r : RFields)
  | rSshl (l : Nat) (r : RFields)
  | rSsra (l : Nat) (r : RFields)
  | rSblen (l : Nat) (r : RFields)
  | rSget (l : Nat) (r : RFields)
  | rVld (l : Nat) (r : RFields)
  | rVldb (l : Nat) (r : RFields)
  | rVst (l : Nat) (r : RFields)
  | rSld (l : Nat) (r : RFields)
  | rSst (l : Nat) (r : RFields)
  | rVadd (l : Nat) (r : RFields)
  | rVsub (l : Nat) (r : RFields)
  | rVmin (l : Nat) (r : RFields)
  | rVmax (l : Nat) (r : RFields)
  | rVand (l : Nat) (r : RFields)
  | rVor (l : Nat) (r : RFields)
  | rVxor (l : Nat) (r : RFields)
  | rVshl (l : Nat) (r : RFields)
  | rVsra (l : Nat) (r : RFields)
  | rVbcast (l : Nat) (r : RFields)
  | rVext (l : Nat) (r : RFields)
  | rVins (l : Nat) (r : RFields)
  | rVcmpz (l : Nat) (r : RFields)
  | rVabsmax (l : Nat) (r : RFields)
  | rVrq (l : Nat) (r : RFields)
  | rVnarrow (l : Nat) (r : RFields)
  | rVwiden (l : Nat) (r : RFields)
  -- later rows of the table
  | alignDue (port : Nat)
  | filterReadPresent (n addr bytes ctx : Nat)
  | clockRunning (c : Nat)
  deriving DecidableEq, Repr

end Sys2Proof
end

