-- ==== Sys2Proof/Machine/Tab.lean ====
section
/-! DEFINITION. Operations of the number-keyed tables and of the interval sets. -/

namespace Sys2Proof

/-- The value a table holds under a number. -/
def Tab.get? {α : Type} (t : Tab α) (k : Nat) : Option α :=
  match t with
  | [] => none
  | (j, v) :: r => if j = k then some v else Tab.get? r k

/-- The value a table holds, or a default. -/
def Tab.getD {α : Type} (t : Tab α) (k : Nat) (d : α) : α := (Tab.get? t k).getD d

/-- The table with one value replaced or added; the numbers stay in rising order. -/
def Tab.put {α : Type} (t : Tab α) (k : Nat) (v : α) : Tab α :=
  match t with
  | [] => [(k, v)]
  | (j, w) :: r =>
    if k < j then (k, v) :: (j, w) :: r
    else if k = j then (k, v) :: r
    else (j, w) :: Tab.put r k v

/-- The table without one number. -/
def Tab.del {α : Type} (t : Tab α) (k : Nat) : Tab α :=
  match t with
  | [] => []
  | (j, w) :: r => if j = k then Tab.del r k else (j, w) :: Tab.del r k

/-- The table with one value changed where it holds one. -/
def Tab.upd {α : Type} (t : Tab α) (k : Nat) (f : α → α) : Tab α :=
  t.map fun e => if e.1 = k then (e.1, f e.2) else e

/-- Every value changed. -/
def Tab.mapv {α β : Type} (t : Tab α) (f : α → β) : Tab β := t.map fun e => (e.1, f e.2)

/-- The values in rising order of their numbers. -/
def Tab.vals {α : Type} (t : Tab α) : List α := t.map (·.2)

/-- The numbers of a table strictly rise. -/
def Tab.wf {α : Type} : Tab α → Bool
  | [] => true
  | (j, _) :: r => (match r with | [] => true | (k, _) :: _ => decide (j < k)) && Tab.wf r

/-- The lowest number below `n` that a table does not hold. -/
def Tab.free? {α : Type} (t : Tab α) (n : Nat) : Option Nat :=
  (List.range n).find? fun k => (Tab.get? t k).isNone

/-- The lowest number from `k` on that a table in rising order does not hold. -/
def Tab.gap {α : Type} (t : Tab α) (k : Nat) : Nat :=
  match t with
  | [] => k
  | (j, _) :: r => if j = k then Tab.gap r (k + 1) else k

/-- Membership of a number in an interval set. -/
def Iset.mem (s : Iset) (p : Nat) : Bool := s.any fun i => decide (i.1 ≤ p) && decide (p < i.2)

/-- The set with the interval `[lo, hi)` added, touching intervals joined. -/
def Iset.add (s : Iset) (lo hi : Nat) : Iset :=
  match s with
  | [] => [(lo, hi)]
  | (a, b) :: r =>
    if hi < a then (lo, hi) :: (a, b) :: r
    else if b < lo then (a, b) :: Iset.add r lo hi
    else Iset.add r (min lo a) (max hi b)

/-- The union of two sets (the OR of two banks, R27, R114). -/
def Iset.union (s t : Iset) : Iset := t.foldl (fun acc i => Iset.add acc i.1 i.2) s

/-- Replaces every element of a list that meets a test. -/
def updWhere {α : Type} (p : α → Bool) (f : α → α) (l : List α) : List α :=
  l.map fun x => if p x then f x else x

/-- Cuts a list into pieces of `n` elements; `fuel` bounds their number. -/
def chunks {α : Type} (fuel n : Nat) (l : List α) : List (List α) :=
  match fuel with
  | 0 => []
  | k + 1 => if l.isEmpty then [] else l.take n :: chunks k n (l.drop n)

/-- Overwrites bytes of a buffer from `off` on. -/
def overwrite (buf : Bytes) (off : Nat) (d : Bytes) : Bytes :=
  buf.take off ++ d ++ buf.drop (off + d.length)

/-- Zero bytes. -/
def zeros (n : Nat) : Bytes := List.replicate n 0

end Sys2Proof
end

