-- ==== Sys2Proof/Machine/Crypto.lean ====
section
/-! DEFINITION. The check value, digest and cipher functions of the sealing unit: CRC-32C (R197), SHA-256 and
HMAC-SHA-256 (R200, R202), AES-256 with XTS (R195) and AES Key Wrap (R207). -/

namespace Sys2Proof

/-! ### CRC-32C (R197) -/

/-- The generator polynomial 0x1EDC_6F41, bit-reflected. -/
def crcPoly : W32 := 0x82F63B78#32

/-- One bit step of the reflected CRC register. -/
def crcBit (c : W32) : W32 := if c.getLsbD 0 then (c >>> 1) ^^^ crcPoly else c >>> 1

/-- One byte folded into the running value (R199). -/
def crcByte (c : W32) (b : Byte) : W32 :=
  let x := c ^^^ b.setWidth 32
  crcBit (crcBit (crcBit (crcBit (crcBit (crcBit (crcBit (crcBit x)))))))

/-- Bytes folded in ascending order. -/
def crcFold (c : W32) (bs : Bytes) : W32 := bs.foldl crcByte c

/-- The CRC-32C of bytes: initial value and final XOR all ones (R197). -/
def crc32c (bs : Bytes) : W32 := crcFold 0xFFFFFFFF#32 bs ^^^ 0xFFFFFFFF#32

/-- The CRC-32C as a number. -/
def crcN (bs : Bytes) : Nat := (crc32c bs).toNat

/-! ### SHA-256 (R200, FIPS 180-4) -/

/-- The floor of the k-th root of `n`, found from its highest bit down; `r` holds the bits found so far. -/
def rootBits (k n : Nat) : Nat → Nat → Nat
  | 0, r => r
  | b + 1, r => rootBits k n b (if (r + 2 ^ b) ^ k ≤ n then r + 2 ^ b else r)

/-- FIPS 180-4 takes its constants from roots of primes: the first 32 bits of the fractional part of the k-th root of `p`. -/
def rootFraction (k p : Nat) : W32 := BitVec.ofNat 32 (rootBits k (p * 2 ^ (32 * k)) 36 0)

/-- The primes below `n`. -/
def primesBelow (n : Nat) : List Nat :=
  (List.range n).filter fun p => decide (2 ≤ p) && (List.range p).all fun d => decide (d < 2) || p % d != 0

/-- The round constants: cube roots of the first 64 primes. -/
def shaK : List W32 := (primesBelow 312).map (rootFraction 3)

/-- The eight chaining words. -/
structure Sha where
  a : W32
  b : W32
  c : W32
  d : W32
  e : W32
  f : W32
  g : W32
  h : W32
  deriving DecidableEq, Repr

/-- The chaining value of eight words. -/
def Sha.ofWords (l : List W32) : Sha :=
  let w := fun i => l.getD i 0
  ⟨w 0, w 1, w 2, w 3, w 4, w 5, w 6, w 7⟩

/-- The initial chaining value of SHA-256: square roots of the first eight primes. -/
def shaInit : Sha := Sha.ofWords ((primesBelow 20).map (rootFraction 2))

/-- The message schedule: extends the sixteen words (newest first) by `n` more. -/
def shaExt (n : Nat) (w : List W32) : List W32 :=
  match n with
  | 0 => w
  | k + 1 =>
    let x2 := w.getD 1 0
    let x15 := w.getD 14 0
    let s1 := x2.rotateRight 17 ^^^ x2.rotateRight 19 ^^^ (x2 >>> 10)
    let s0 := x15.rotateRight 7 ^^^ x15.rotateRight 18 ^^^ (x15 >>> 3)
    shaExt k ((s1 + w.getD 6 0 + s0 + w.getD 15 0) :: w)

/-- One round. -/
def shaRound (s : Sha) (kw : W32 × W32) : Sha :=
  let s1 := s.e.rotateRight 6 ^^^ s.e.rotateRight 11 ^^^ s.e.rotateRight 25
  let ch := (s.e &&& s.f) ^^^ (~~~s.e &&& s.g)
  let t1 := s.h + s1 + ch + kw.1 + kw.2
  let s0 := s.a.rotateRight 2 ^^^ s.a.rotateRight 13 ^^^ s.a.rotateRight 22
  let mj := (s.a &&& s.b) ^^^ (s.a &&& s.c) ^^^ (s.b &&& s.c)
  ⟨t1 + (s0 + mj), s.a, s.b, s.c, s.d + t1, s.e, s.f, s.g⟩

/-- One compression of a 64 B block. -/
def shaCompress (s : Sha) (blk : Bytes) : Sha :=
  let w16 := (List.range 16).map fun i => BitVec.ofNat 32 (beNat (slice blk (4 * i) 4))
  let w := (shaExt 48 w16.reverse).reverse
  let r := (shaK.zip w).foldl shaRound s
  ⟨s.a + r.a, s.b + r.b, s.c + r.c, s.d + r.d, s.e + r.e, s.f + r.f, s.g + r.g, s.h + r.h⟩

/-- The padding of a message of which `total` bytes precede its end. -/
def shaPad (total : Nat) : Bytes :=
  [0x80#8] ++ zeros ((119 - total % 64) % 64) ++ toBE 8 (8 * total)

/-- The 32 bytes of a chaining value, big-endian words (R200). -/
def Sha.bytes (s : Sha) : Bytes :=
  [s.a, s.b, s.c, s.d, s.e, s.f, s.g, s.h].flatMap fun w => toBE 4 w.toNat

/-- The chaining value that 32 bytes spell. -/
def Sha.ofBytes (b : Bytes) : Sha :=
  let g := fun i => BitVec.ofNat 32 (beNat (slice b (4 * i) 4))
  ⟨g 0, g 1, g 2, g 3, g 4, g 5, g 6, g 7⟩

/-- SHA-256 continued from a state over a message, `before` bytes having been taken already (R202). -/
def shaFrom (s : Sha) (before : Nat) (msg : Bytes) : Bytes :=
  let m := msg ++ shaPad (before + msg.length)
  ((chunks (m.length / 64 + 1) 64 m).foldl shaCompress s).bytes

/-- SHA-256 of a message. -/
def sha256 (msg : Bytes) : Bytes := shaFrom shaInit 0 msg

/-- The two HMAC states IS and OS of a 32 B key (R207). -/
def hmacStates (k : Bytes) : Bytes :=
  let p := k ++ zeros (64 - k.length)
  (shaCompress shaInit (p.map (· ^^^ 0x36#8))).bytes ++ (shaCompress shaInit (p.map (· ^^^ 0x5C#8))).bytes

/-- HMAC-SHA-256 under two states, 64 B (R202). -/
def hmac (states msg : Bytes) : Bytes :=
  let inner := shaFrom (Sha.ofBytes (states.take 32)) 64 msg
  shaFrom (Sha.ofBytes (states.drop 32)) 64 inner

/-! ### AES-256 (FIPS 197), XTS (R195) and AES Key Wrap (R207) -/

/-- Multiplication by x in GF(2^8). -/
def xtime (b : Byte) : Byte := if b.getLsbD 7 then (b <<< 1) ^^^ 0x1B#8 else b <<< 1

/-- Multiplication in GF(2^8), over the bits of the second factor. -/
def gmul (n : Nat) (a b : Byte) : Byte :=
  match n with
  | 0 => 0
  | k + 1 => (if b.getLsbD 0 then a else 0) ^^^ gmul k (xtime a) (b >>> 1)

/-- `a` to the power 254 is its inverse in GF(2^8). -/
def ginv (a : Byte) : Byte :=
  let m := gmul 8
  let a2 := m a a
  let a4 := m a2 a2
  let a8 := m a4 a4
  let a16 := m a8 a8
  let a32 := m a16 a16
  let a64 := m a32 a32
  let a128 := m a64 a64
  m a128 (m a64 (m a32 (m a16 (m a8 (m a4 a2)))))

/-- The S-box. -/
def sbox (a : Byte) : Byte :=
  let b := ginv a
  b ^^^ b.rotateLeft 1 ^^^ b.rotateLeft 2 ^^^ b.rotateLeft 3 ^^^ b.rotateLeft 4 ^^^ 0x63#8

/-- The inverse S-box. -/
def sboxInv (a : Byte) : Byte :=
  ginv (a.rotateLeft 1 ^^^ a.rotateLeft 3 ^^^ a.rotateLeft 6 ^^^ 0x05#8)

/-- XOR of two byte strings. -/
def xorB (a b : Bytes) : Bytes := a.zipWith (· ^^^ ·) b

/-- The key schedule of AES-256: extends the words (newest first) by `n` more; `i` is the next word's index. -/
def aesExpand (n i : Nat) (rcon : Byte) (w : List Bytes) : List Bytes :=
  match n with
  | 0 => w
  | k + 1 =>
    let t := w.headD []
    let t' :=
      if i % 8 = 0 then
        match (t.drop 1 ++ t.take 1).map sbox with
        | x :: r => (x ^^^ rcon) :: r
        | [] => []
      else if i % 8 = 4 then t.map sbox else t
    let rcon' := if i % 8 = 0 then xtime rcon else rcon
    aesExpand k (i + 1) rcon' (xorB (w.getD 7 []) t' :: w)

/-- The fifteen round keys of a 32 B key. -/
def aesKeys (key : Bytes) : List Bytes :=
  let w := (aesExpand 52 8 0x01#8 (chunks 8 4 key).reverse).reverse
  (chunks 15 4 w).map List.flatten

/-- The rows of the state shifted by `k` columns per row. -/
def shiftRows (k : Nat) (s : Bytes) : Bytes :=
  (List.range 16).map fun i => s.getD ((i + 4 * k * (i % 4)) % 16) 0

/-- MixColumns with the first row of its matrix. -/
def mixCols (m0 m1 m2 m3 : Byte) (s : Bytes) : Bytes :=
  let g := gmul 8
  (List.range 16).map fun i =>
    let c := 4 * (i / 4)
    let r := i % 4
    let e := fun k => s.getD (c + (r + k) % 4) 0
    g (e 0) m0 ^^^ g (e 1) m1 ^^^ g (e 2) m2 ^^^ g (e 3) m3

/-- AES-256 encryption of one block. PRESUMED, log entry 126. -/
def aesEnc (key blk : Bytes) : Bytes :=
  let ks := aesKeys key
  let s0 := xorB blk (ks.headD [])
  let s := ((ks.drop 1).take 13).foldl (fun st k => xorB (mixCols 2 3 1 1 (shiftRows 1 (st.map sbox))) k) s0
  xorB (shiftRows 1 (s.map sbox)) (ks.getD 14 [])

/-- AES-256 decryption of one block. -/
def aesDec (key blk : Bytes) : Bytes :=
  let ks := (aesKeys key).reverse
  let s0 := xorB blk (ks.headD [])
  let s := ((ks.drop 1).take 13).foldl
    (fun st k => mixCols 14 11 13 9 (xorB ((shiftRows 3 st).map sboxInv) k)) s0
  xorB ((shiftRows 3 s).map sboxInv) (ks.getD 14 [])

/-- The next XTS tweak: multiplication by x in GF(2^128), little-endian. -/
def xtsNext (t : Bytes) : Bytes :=
  let n := leNat t * 2
  toLE 16 (if bit n 128 then (n % 2 ^ 128) ^^^ 0x87 else n)

/-- The blocks of a data unit through the cipher `f` with rising tweaks. -/
def xtsGo (f : Bytes → Bytes) (t : Bytes) : List Bytes → Bytes
  | [] => []
  | b :: r => xorB (f (xorB b t)) t ++ xtsGo f (xtsNext t) r

/-- AES-256-XTS encryption of a data unit; the sequence number is the vault-relative sector number (R195). -/
def xtsEnc (keys : Bytes) (sector : Nat) (d : Bytes) : Bytes :=
  xtsGo (aesEnc (keys.take 32)) (aesEnc (keys.drop 32) (toLE 16 sector)) (chunks (d.length / 16 + 1) 16 d)

/-- AES-256-XTS decryption of a data unit. -/
def xtsDec (keys : Bytes) (sector : Nat) (d : Bytes) : Bytes :=
  xtsGo (aesDec (keys.take 32)) (aesEnc (keys.drop 32) (toLE 16 sector)) (chunks (d.length / 16 + 1) 16 d)

/-- The steps of the RFC 3394 unwrap, the last one first. `t` counts down. -/
def unwrapGo (kek : Bytes) (n t : Nat) (a : Bytes) (r : List Bytes) : Bytes × List Bytes :=
  match t with
  | 0 => (a, r)
  | k + 1 =>
    let i := k % n
    let b := aesDec kek (toBE 8 (beNat a ^^^ (k + 1)) ++ r.getD i [])
    unwrapGo kek n k (b.take 8) (r.set i (b.drop 8))

/-- AES Key Wrap: the unwrapped bytes, `none` when the integrity check against the initial value fails. -/
def keyUnwrap (kek iv wrapped : Bytes) : Option Bytes :=
  let n := wrapped.length / 8 - 1
  let x := unwrapGo kek n (6 * n) (wrapped.take 8) (chunks n 8 (wrapped.drop 8))
  if x.1 = iv then some x.2.flatten else none

end Sys2Proof
end

