-- ==== Sys2Proof/Config.lean ====
section
/-! DEFINITION. What the specification leaves open as a value: constants without a body, so that nothing can be proved
about them but what holds of every value. -/

namespace Sys2Proof

/-- The free values (DESIGN CHOICE, log entry 9): the model applies it to the counter `State.time.free` and advances the counter.
It stands for the debug challenge words (R386) and the words of block SRAM whose layout the manual does not give
(R384). -/
opaque Config.freeWord : Nat → BitVec 64

/-- The 32 B capture summary, whose layout R97 does not give (DESIGN CHOICE, log entry 9): byte `i` of a drawn summary. -/
opaque Config.summaryByte : Nat → Nat → BitVec 8

/-- The bytes written for restored bad data, which R159 marks with the poison attribute and does not give (DESIGN CHOICE, log
entry 9). -/
opaque Config.badByte : Nat → Nat → BitVec 8

/-- A choice of two that the manual leaves open: the field that a buddy's MALFORMED reply names (R261); see log entry 9. -/
opaque Config.freeFlag : Nat → Bool

/-- How the 512 KiB of the control sequencer divide into its data (0) and firmware (1) SRAM, which chapter 1 does not
give; see log entry 9. -/
opaque Config.seqBytes : Nat → Nat

end Sys2Proof
end

