-- ==== Sys2Proof/Machine/State.lean ====
section
/-! DEFINITION. The state of the block: every register, queue, buffer, counter, mode and pin that the manual gives it,
one structure per unit, and the reasons a step can stop. -/

namespace Sys2Proof.Machine

/-- Time, and the model's own counter of free values. -/
structure Time where
  /-- AON cycle count (R66, R369) -/
  aon : Nat := 0
  /-- CORE cycle count (R138, R146) -/
  core : Nat := 0
  /-- AON cycles in ACTIVE and not halted: the stall intervals of R65 count these (R359, R388) -/
  act : Nat := 0
  /-- MODEL'S OWN: free values drawn so far (DESIGN CHOICE, log entry 9) -/
  free : Nat := 0
  deriving DecidableEq, Repr

/-- Pins, tie-offs and one-time-programmable fields (R345, R347, R353, R387). -/
structure Pins where
  rstDone : Bool := true
  /-- reset asserted and not yet released: 0 none, 1 warm, 2 cold, 3 power-on (R353) -/
  rst : Nat := 0
  /-- the reset was caused by loss of ROOT lock (R349) -/
  rstRoot : Bool := false
  /-- the reset ended OFF (R365) -/
  rstOff : Bool := false
  /-- hz rel_all held high (R353) -/
  relAll : Bool := false
  /-- hv len_tie of the 64 chains; absent means 0 (R347; DESIGN CHOICE, log entry 11) -/
  hvLen : Tab Nat := []
  /-- root field, when programmed (R205) -/
  otpRoot : Option Bytes := none
  /-- unlock field, when programmed (R386) -/
  otpUnlock : Option Bytes := none
  /-- unlock field that applies until the port is next locked (R387) -/
  unlockUse : Option Bytes := none
  /-- staged words, 4 × field + word (R387) -/
  otpStage : Tab W64 := []
  deriving DecidableEq, Repr

/-- SC_CLK_STAT (R364). -/
structure Clk where
  rootLock : Bool := true
  fabRun : Bool := true
  hostifRun : Bool := true
  tapRun : Bool := true
  hvRun : Bool := true
  fabLost : Bool := false
  hostifLost : Bool := false
  tapLost : Bool := false
  hvLost : Bool := false
  fabSlip : Bool := false
  rootLost : Bool := false
  deriving DecidableEq, Repr

/-- SC_LAST_GASP (R316). -/
structure Gasp where
  cause : Nat := 0
  hold : Bool := false
  valid : Bool := false
  lsn : Nat := 0
  deriving DecidableEq, Repr

/-- SC_QCTL (R370), with the memory of RING_READY since the last reset (R378). -/
structure QCtl where
  enable : Bool := false
  ready : Bool := false
  err : Bool := false
  flush : Bool := false
  errOff : Nat := 0
  errSrc : Nat := 0
  sawReady : Bool := false
  deriving DecidableEq, Repr

/-- SC_CASTLE_CTL and SC_CASTLE_GEN (R372). -/
structure Castle where
  isOpen : Bool := false
  pend : Bool := false
  result : Nat := 0
  misuse : Bool := false
  reason : Nat := 0
  reg : Nat := 0
  gen : W32 := 0
  deriving DecidableEq, Repr

/-- SC_FLIP_MASK, SC_FLIP_MASK_HI, SC_FLIP_CTL (R322, R323). -/
structure Flip where
  lo : W32 := 0
  hi : W32 := 0
  check : Byte := 0
  store : Nat := 0
  arm : Bool := false
  deriving DecidableEq, Repr

/-- The shadowed registers and the castle that changes them (R367, R372 to R379). -/
structure Shadow where
  /-- applied values of shadowed registers by offset; absent: the power-on value -/
  applied : Tab W32 := []
  /-- staged values of the open or pending transaction, by offset (R373) -/
  staged : Tab W32 := []
  castle : Castle := {}
  /-- committed mirror registers that wait for LEDGER_COMPACT: offset and value (R378) -/
  mirrorWait : Tab W32 := []
  deriving DecidableEq, Repr

/-- The setup registers that hold a value of their own (R368). -/
structure Regs where
  shadow : Shadow := {}
  qctl : QCtl := {}
  /-- a write of RING_ENABLE waits for a pending SC_QBASE commit: the memory it will read (R379) -/
  enableWait : Option (HostRead × HostRead × HostRead) := none
  bufNotHeld : Nat := 0
  bufForeign : Nat := 0
  crcRun : W32 := 0xFFFFFFFF
  keySel : Nat := 0
  xfSat : Nat := 0
  xfRail : Nat := 0
  aonHi : W32 := 0
  flip : Flip := {}
  eccCe : Nat := 0
  eccUe : Nat := 0
  eccLast : W32 := 0
  clk : Clk := {}
  gasp : Gasp := {}
  deriving DecidableEq, Repr

/-- STATE of a queue (R49, R55, R62). -/
inductive QState where
  | run | error | flushing
  deriving DecidableEq, Repr

/-- A whole item read from a submission queue and not yet accepted. -/
structure Item where
  /-- position of its first slot, on the count modulo 2 × size -/
  pos : Nat
  bytes : Bytes
  deriving DecidableEq, Repr

/-- A take in flight (R51, R52): its slot reads and what has arrived. -/
structure Take where
  start : Nat
  /-- whole items that are taken; 0 for the reread of a slot that was not published (R43) -/
  want : Nat
  /-- slots it reads from `start` on, and the number of its reads -/
  slots : Nat
  reads : Nat
  /-- reads not presented to the arbiter yet: (part, slot index, slots) (R52) -/
  todo : List (Nat × Nat × Nat) := []
  parts : Tab Bytes := []
  failed : Bool := false
  deriving DecidableEq, Repr

/-- A completion entry that has been issued and not yet journalled COMPLETED (R300). -/
structure CqOut where
  /-- position in the CQ, modulo 2 × size -/
  pos : Nat
  bytes : Bytes
  /-- first and last sequence number covered; (0, 0) for QUEUE_ERROR -/
  first : Nat
  last : Nat
  /-- a tiding still has to be acknowledged by the link (R300), and the sequence number it carries (R60) -/
  tid : Bool := false
  tidSeq : Nat := 0
  /-- an item it covers carries IRQ (R41) -/
  irq : Bool := false
  acked : Bool := false
  /-- the write failed after its reissues and is held (R55) -/
  held : Bool := false
  deriving DecidableEq, Repr

/-- One queue in service: its 128 B of queue state (R34, R45, R49, R51, R55, R57, R62, R65). -/
structure Queue where
  /-- the copied 64 B descriptor -/
  desc : Bytes
  state : QState := .run
  /-- latched start position and cause of an ERROR -/
  errPos : Nat := 0
  errCause : Nat := 0
  /-- STATE from which a flush started -/
  before : QState := .run
  /-- position of the next slot to consume, of the next item to journal (the two differ only while a retired ledger macro
  makes consumption wait for the mirror, R4, R314), and the rung tail -/
  head : Nat := 0
  acc : Nat := 0
  tail : Nat := 0
  cqHead : Nat := 0
  cqDone : Nat := 0
  nextSeq : Nat := 1
  credit : Nat := 0
  /-- an item that is not whole: its first slot, and the slot before the tail that is waited for (R43) -/
  waitPub : Option (Nat × Nat) := none
  /-- takes whose slots are being read, oldest first -/
  takes : List Take := []
  fetched : List Item := []
  /-- SQ tail doorbells held during a flush, oldest first -/
  held : List W32 := []
  /-- highest sequence number covered by a completion, and by a COMPLETED record -/
  covered : Nat := 0
  completed : Nat := 0
  /-- a QUEUE_ERROR completion is still to be written, after the commands up to this sequence number (R55) -/
  errDue : Bool := false
  errSeq : Nat := 0
  cqOut : List CqOut := []
  /-- completions whose COMPLETED record is not in the mirror yet: a cold reset writes them again (R48, R306) -/
  redo : List CqOut := []
  /-- head and sequence number of the last command in the mirror -/
  mirHead : Nat := 0
  mirSeq : Nat := 0
  shadowDue : Bool := false
  /-- no CQ head doorbell since the reset (R308) -/
  fresh : Bool := false
  /-- the FLUSH or QUEUE_DELETE that flushes it, (0, 0) for ADMIN_FLUSH, and the head at the snapshot (R62, R64) -/
  flushBy : Option (Nat × Nat) := none
  flushHead : Nat := 0
  /-- counts of `Time.act` at the last stall report, at the last completion, and when slots last began to wait (R65) -/
  stallFrom : Nat := 0
  doneAt : Nat := 0
  waitFrom : Nat := 0
  deriving DecidableEq, Repr

/-- An event as formed (R66). -/
structure Event where
  code : Nat
  sev : Nat
  queue : Nat
  time : Nat
  seq : Nat
  detail : Nat
  deriving DecidableEq, Repr

/-- The event ring (R36, R66, R69, R398). -/
structure EvRing where
  desc : Bytes := []
  written : Nat := 0
  head : Nat := 0
  held : List Event := []
  dropped : Nat := 0
  deriving DecidableEq, Repr

structure Ring where
  queues : Tab Queue := []
  /-- DOORBELL_RANGE counters: 2 × q for SQ tail, 2 × q + 1 for CQ head, 8,192 for the event ring (R45) -/
  dbRange : Tab Nat := []
  lastU : Nat := 0
  lastW : Nat := 0
  ev : EvRing := {}
  /-- next sequence number of queue IDs used before (R49) -/
  nextSeqOf : Tab Nat := []
  deriving DecidableEq, Repr

/-- State of a command in the journal (R21). -/
inductive CState where
  | accepted | started | durable
  deriving DecidableEq, Repr

/-- A command between acceptance and COMPLETED (R21, R298). -/
structure Cmd where
  q : Nat
  seq : Nat
  item : Bytes
  pos : Nat
  /-- formed by ADMIN_FLUSH: occupies no slot -/
  admin : Bool := false
  /-- its ACCEPTED record is in the host mirror -/
  mirrored : Bool := false
  st : CState := .accepted
  /-- its DURABLE record is in the host mirror -/
  kept : Bool := false
  /-- its opcode's step has run -/
  ran : Bool := false
  status : Nat := 0
  detail : Nat := 0
  epoch : Nat := 0
  gen : Nat := 0
  /-- in-flight slot (R74) -/
  slot : Nat := 0
  /-- holds the maintenance token (R102) -/
  maint : Bool := false
  /-- position that its completion reports as SQ_HEAD, for FLUSH (R58) -/
  headPos : Option Nat := none
  /-- plates or rows that a CAPTURE or ROW_CAPTURE names: (first, count) (R97); targets of a CANCEL: queue and sequence number,
  those accepted when it started (R156) -/
  items : List (Nat × Nat) := []
  /-- EPOCH_OPEN: the older of the two epochs that were unresolved when it arrived, whose fate it waits for (R19) -/
  waitFor : Nat := 0
  /-- run again after a reset (R306) -/
  replayed : Bool := false
  /-- a work command that a cold reset found not DURABLE: it waits for the keys of its slots (R210) -/
  keyWait : Bool := false
  /-- worst bad-data code met so far, 0 none (R159), with its DETAIL -/
  bad : Nat := 0
  badDetail : Nat := 0
  /-- POISON_MARK events raised (R159) -/
  marks : Nat := 0
  /-- commands of this CANCEL that were cancelled, or 1 when a FLUSH discarded slots -/
  count : Nat := 0
  /-- CONTEXT_WAIT raised (R139) -/
  waited : Bool := false
  /-- status and DETAIL with which it ends whatever bad data it met: a rejected index (R154) -/
  instead : Option (Nat × Nat) := none
  /-- count of `Time.act` at its last transition (R65) -/
  since : Nat := 0
  deriving DecidableEq, Repr

/-- A log record (R297). -/
structure Rec where
  kind : Nat
  state : Nat
  queue : Nat
  lsn : Nat
  seq : Nat
  arg : Bytes
  dead : Bool := false
  mirrored : Bool := false
  deriving DecidableEq, Repr

structure Ledger where
  /-- log words from tail to head (R294, R297) -/
  log : List Rec := []
  lsn : Nat := 0
  cmds : List Cmd := []
  /-- queue and sequence number of the command that last changed an object: (region, slot) keyed 8 × slot + region
  (R295, R296) -/
  marks : Tab (Nat × Nat) := []
  /-- object-table word of the next rewrite (R300) -/
  rot : Nat := 0
  /-- highest epoch number opened -/
  highest : Nat := 0
  /-- the macros hold the journal (R306, R353) -/
  live : Bool := false
  mirrorFault : Bool := false
  lowRaised : Bool := false
  /-- a replay is due: 1 warm, 2 cold (R306) -/
  replayDue : Nat := 0
  /-- reset that RESET_CAUSE will report (R365) -/
  resetCause : Nat := 0
  /-- buffers whose grant-table words are kept on-block, 256 at most, the one used last first (R303) -/
  grantUsed : List Nat := []
  deriving DecidableEq, Repr

/-- A layout: AREA, T, M_s, S_R (R272, R273). -/
structure Layout where
  area : Nat
  tail : Nat
  ms : Nat
  shared : Nat
  deriving DecidableEq, Repr

structure Vault where
  /-- VAULT_CREATE item (R77) -/
  item : Bytes
  /-- the journalled AREA (R272), when fixed, with the tail length last met -/
  area : Option Nat := none
  tail : Nat := 0
  /-- the vault ID that a seal record read from it records, when that is not its own (R197, R283) -/
  vid : Option Nat := none
  deriving DecidableEq, Repr

structure Grant where
  owner : Nat
  tdid : Nat
  base : Nat
  len : Nat
  gen : Nat
  deriving DecidableEq, Repr

/-- A generation record (R85 to R92). -/
structure Gen where
  plan : Nat
  num : Nat
  list : Nat
  tdid : Nat
  count : Nat
  crc : Nat
  /-- the list as validated: what the record's entries name (R87, R90) -/
  bytes : Bytes
  current : Bool := true
  freed : Bool := false
  /-- the plan is withdrawn -/
  withdrawn : Bool := false
  /-- records of a committed pending patch (R92) -/
  pending : Option Bytes := none
  deriving DecidableEq, Repr

/-- A key slot: form 1 KEY32, 2 XTS, 3 STATES (R205, R206). -/
structure Key where
  form : Nat
  content : Bytes
  kcv : Bytes
  deriving DecidableEq, Repr

/-- A Touchstone package slot (R231). -/
structure Package where
  addr : Nat
  len : Nat
  serial : Nat
  tdid : Nat
  sha : Bytes
  deriving DecidableEq, Repr

/-- A PLAN_PATCH staged in the open transaction (R92); `lost`: a reset discarded the transaction (R379). -/
structure StagedPatch where
  q : Nat
  seq : Nat
  plan : Nat
  recs : Bytes
  lost : Bool := false
  deriving DecidableEq, Repr

/-- Writes of patch records into a plan list in host memory, issued by a PLAN_PATCH or by the launch that follows a committed
patch (R92): the command, the plan, the list that they make. -/
structure ListWrite where
  q : Nat
  seq : Nat
  plan : Nat
  bytes : Bytes
  /-- 0 writing, 1 acknowledged, 2 failed -/
  st : Nat := 0
  deriving DecidableEq, Repr

structure Admin where
  vaults : Tab Vault := []
  grants : Tab Grant := []
  gens : List Gen := []
  /-- slots 0–255 and 256 + HMAC slot (R205) -/
  keys : Tab Key := []
  keyLost : List Nat := []
  keyLoads : Tab Nat := []
  /-- key-epoch records: form and KCV (R210, R295) -/
  keyRec : Tab (Nat × Bytes) := []
  /-- slot 255 stays empty until the next reset after the port is locked again (R211) -/
  rootOff : Bool := false
  recipes : Tab (List Nat) := []
  packages : Tab Package := []
  /-- installed topology records, 32 B each (R252) -/
  topo : List Bytes := []
  /-- where the table lies in host memory, its records there, and the replica and correspondent records, by number, that are kept
  on-block, the one used last first (R252) -/
  topoAddr : Nat := 0
  topoTdid : Nat := 0
  topoMem : List Bytes := []
  topoUsed : List Nat := []
  topoSet : Bool := false
  ringGen : Nat := 0
  coord : Nat := 0
  /-- a self record has been installed in this journal, and its device ID (R303, R369) -/
  selfDev : Option Nat := none
  selfGen : Nat := 0
  /-- expected fence generations raised by FENCE_RAISE or R262 -/
  fenceExp : Tab Nat := []
  fenceBy : Nat := 0
  fenced : Bool := false
  stagedPatch : Option StagedPatch := none
  /-- lists being written (R92) -/
  listWrites : List ListWrite := []
  deriving DecidableEq, Repr

/-- One ingot being built or complete (R278). -/
structure Ingot where
  entry : Nat
  stream : Nat
  /-- payload bytes emitted so far -/
  payload : Nat := 0
  /-- payload not yet cut into a sector (R167), and whether it holds bad bytes -/
  tail : Bytes := []
  tailBad : Bool := false
  /-- index: block → (payload offset, encoded length) (R279) -/
  index : Tab (Nat × Nat) := []
  /-- rows of a ROWTABLE ingot (R280), and the rows at hand whose extents are not staged yet: bytes, and whether they are bad -/
  rows : Iset := []
  gather : Tab (Bytes × Bool) := []
  data : Nat := 0
  /-- digests by ingot sector (R201) -/
  digests : Tab Bytes := []
  /-- ingot sectors handed over, and acknowledged -/
  sent : Nat := 0
  acked : List Nat := []
  /-- 0 data, 1 index and maps issued, 2 header issued, 3 complete -/
  stage : Nat := 0
  blocks : Nat := 0
  sat : Nat := 0
  rail : Nat := 0
  elems : Nat := 0
  delta : Bool := false
  deriving DecidableEq, Repr

/-- A unit of the copy order: plates of a RANGE entry or rows of a ROWTABLE entry (R117). -/
structure CopyItem where
  entry : Nat
  first : Nat
  count : Nat
  deriving DecidableEq, Repr

/-- An epoch (R19, R295): what its launch bound and how far it is. -/
structure Epoch where
  num : Nat
  plan : Nat
  gen : Nat
  list : Bytes
  /-- CUT 1, CAPTURING 2, DRAINING 3, SEALING 4, SEALED 5, ABANDONED 6, CANCELLED 7 -/
  phase : Nat
  base : Nat
  anchor : Nat
  incr : Bool
  q : Nat
  seq : Nat
  poison : Bool := false
  /-- status and DETAIL with which its SEAL ends when it is not sealed -/
  why : Nat × Nat := (0x11, 1)
  /-- items whose copy a filter's permanent fault has made worthless: they are captured POISONED (R135) -/
  lost : List CopyItem := []
  /-- entries captured in full (R93, R133, R400), entries with delta in effect (R177) -/
  full : List Nat := []
  delta : List Nat := []
  /-- entries with their base ingot's anchor image: entry → anchor sectors as read (R177) -/
  anchors : Tab (Tab Bytes) := []
  /-- copy order still to go, and DEFERRED entries not yet named (R24, R25) -/
  order : List CopyItem := []
  deferred : List Nat := []
  ingots : Tab Ingot := []
  /-- contexts reserved (R139) -/
  reserved : Nat := 256
  /-- disputes: (sector, copy) of the seal's dispute records (R281) -/
  disputes : List (Nat × Nat) := []
  diverged : Bool := false
  /-- entries whose tracking region had RESYNC set at the cut (R400) -/
  resync : List Nat := []
  /-- seal: list sectors sent, acknowledged; header issued; header bytes; hallmark (R282) -/
  sealSent : Nat := 0
  sealAcked : Nat := 0
  sealIssued : Bool := false
  header : Bytes := []
  /-- the header's sector once the sealing unit has released it (R193, R282) -/
  sealedHdr : Bytes := []
  hallmark : Bytes := []
  fenceGen : Nat := 0
  sealCmd : Option (Nat × Nat) := none
  /-- our EPOCH_DURABLE tidings were sent (R260) -/
  durableSent : Bool := false
  /-- POISON_MARK events raised for streams that no command owns (R159) -/
  marks : Nat := 0
  deriving DecidableEq, Repr

/-- State of the cut (R108). -/
inductive CutState where
  | none | prep | holdReq | harvest | push
  deriving DecidableEq, Repr

structure Chain where
  /-- beats received in the current pull, and pulls so far -/
  beats : List Bytes := []
  pulls : Nat := 0
  done : Bool := false
  ack : Bool := false
  slow : Bool := false
  /-- failed its check twice, or its push was refused (R112, R337) -/
  bad : Bool := false
  deriving DecidableEq, Repr

structure Cut where
  st : CutState := .none
  epoch : Nat := 0
  /-- chains named, by number; hold_req is high on each of them in HOLD_REQ to HARVEST -/
  chains : Tab Chain := []
  /-- the command that pushes chains (R289) -/
  owner : Option (Nat × Nat) := none
  /-- filters whose window is stop-copied in this cut (R133) -/
  stopCopy : List Nat := []
  /-- bytes that the stop-copy of each filter reads (R136) -/
  copied : Tab Nat := []
  /-- a CANCEL or a retirement waits for RELEASE (R110, R135) -/
  cancel : Bool := false
  deriving DecidableEq, Repr

/-- A segment of a filter (R117, R119): plates of one RANGE entry, or the part of one ROWTABLE extent in the window. -/
structure Seg where
  entry : Nat
  lo : Nat
  hi : Nat
  cursor : Nat
  rows : Bool := false
  deriving DecidableEq, Repr

/-- A write held at an insertion point (R120, R125). -/
structure Held where
  src : Nat
  addr : Nat
  bytes : Nat
  /-- plate, or rows (entry, first row, count), it waits for -/
  plate : Option Nat := none
  rows : List (Nat × Nat × Nat) := []
  /-- waits for reserve or a tag (R121, R127), or behind an earlier write of its source -/
  wait : Bool := false
  deriving DecidableEq, Repr

structure Inj where
  tag : Nat
  addr : Nat
  len : Nat
  port : Nat
  id : Nat
  deriving DecidableEq, Repr

structure Filter where
  segs : List Seg := []
  held : List Held := []
  inj : List Inj := []
  deriving DecidableEq, Repr

/-- A passant copy (R120, R122, R125): its tag, what it copies, reserve units, reads left and data. -/
structure Passant where
  filter : Nat
  epoch : Nat
  entry : Nat
  /-- plate index, or row number when `row` -/
  item : Nat
  row : Bool
  units : Nat
  /-- injected reads not yet accepted, and not yet returned -/
  toAccept : Nat
  toReturn : Nat
  tagged : Bool := true
  data : Tab Bytes := []
  bad : Bool := false
  drop : Bool := false
  /-- stored check value before the write (R126) -/
  cv : Option Nat := none
  deriving DecidableEq, Repr

/-- A group record (R123) as cached. -/
structure Group where
  d : BitVec 128 := 0
  w : BitVec 128 := 0
  done : BitVec 128 := 0
  stale : BitVec 128 := 0
  gepoch : Nat := 0
  dirty : Bool := false
  deriving DecidableEq, Repr

/-- One tracking region as the tracker knows it: keyed by its TRACK address (R123, R400). -/
structure Region where
  plan : Nat
  entry : Nat
  lastCut : Nat
  rows : Nat
  rowSize : Nat
  cv : Bool
  cached : Bool := false
  /-- the write that sets CACHED has completed: the cache may hold dirty groups of the region (R400) -/
  isOpen : Bool := false
  resync : Bool := false
  touched : Bool := false
  sweep : Bool := false
  groups : Tab Group := []
  /-- check values that the cache holds, by row; a 64 B granule of the CHECK array is held whole (R126, R227) -/
  check : Tab Nat := []
  deriving DecidableEq, Repr

/-- A change of a group that waits for the group, for CACHED or for check values (R125, R126, R400): masks of W, STALE and DONE
to set and of STALE to clear, and check values to store by row. -/
structure GroupOp where
  region : Nat
  group : Nat
  w : Nat := 0
  stale : Nat := 0
  done : Nat := 0
  fresh : Nat := 0
  vals : Tab Nat := []
  deriving DecidableEq, Repr

structure Capture where
  epochs : Tab Epoch := []
  cut : Cut := {}
  /-- bank 0 and bank 1; `coll` collects (R113 to R116) -/
  bank0 : Iset := [(0, 8388608)]
  bank1 : Iset := []
  coll : Bool := false
  /-- epoch whose capture bank the other bank is, 0 none -/
  capOf : Nat := 0
  filters : Tab Filter := []
  passants : Tab Passant := []
  /-- passant reserve units free (R122) -/
  units : Nat := 131072
  regions : Tab Region := []
  /-- recent-write table: (entry, row, AON count), newest last; overflow time (R228) -/
  recent : List (Nat × Nat × Nat) := []
  overflow : Option Nat := none
  /-- changes of groups that wait, oldest first -/
  waiting : List GroupOp := []
  /-- the walk of the epoch in CAPTURING is over and its groups are being written back (R125) -/
  flushing : Bool := false
  sweepPend : Bool := false
  deriving DecidableEq, Repr

/-- A chunk whose sectors a restore may read in full, and its hallmark in the seal record (R284, R286). -/
structure ChunkRef where
  vid : Nat
  epoch : Nat
  stream : Nat
  chunk : Nat
  first : Nat
  count : Nat
  hslot : Nat
  hm : Bytes
  deriving DecidableEq, Repr

/-- One decoded unit a restore has still to deliver (R286): where its encoded bytes lie and where its bytes go. -/
structure Job where
  ctx : Nat
  vault : Nat
  /-- epoch whose ingot holds it, its block number -/
  epoch : Nat
  stream : Nat
  block : Nat
  /-- first vault sector, sector count, byte offset in the first, encoded length, decoded length -/
  first : Nat
  count : Nat
  off : Nat
  elen : Nat
  want : Nat
  /-- bytes of the encoded block before those read, and its whole length: a gather reads the part it needs (R153) -/
  pre : Nat := 0
  full : Nat
  /-- fold prefix, data key slot and ISECTOR of the first sector; where each sector's bytes lie (R284, R286) -/
  vid : Nat := 0
  kslot : Nat := 0
  isector : Nat := 0
  places : List Nat := []
  /-- base address and translation domain of the staging buffer that holds the ingot (R287 SRC_BUF) -/
  buf : Option (Nat × Nat) := none
  codec : Nat
  fmt : Nat
  codetab : Bytes := []
  decSlot : Nat := 0
  /-- DELTA is in effect: it is decoded against its anchor's block (R178, R286) -/
  delta : Bool := false
  /-- pieces: (offset in the decoded unit, length, fabric address, position in an index list) -/
  dest : List (Nat × Nat × Nat × Nat)
  /-- the last position of an index list that it serves (R154) -/
  pos : Nat := 0
  /-- or the chain that receives the bytes (R289) -/
  chain : Option Nat := none
  /-- the decode program that the ingot header carries (R187) -/
  prog : List Nat := []
  /-- or the staged source block, and its indexed block, that is encoded against the result (R177) -/
  forBlk : Option (Nat × Nat) := none
  deriving DecidableEq, Repr

/-- A stream context (R138). -/
structure Ctx where
  /-- 1 WAIT, 2 RUN, 3 DRAIN, 4 DONE, 5 STOPPING; FREE contexts are absent -/
  state : Nat
  kind : Nat
  cls : Nat
  poisonSeen : Bool := false
  credit : Bool := false
  linked : Bool := false
  epoch : Nat := 0
  fenceGen : Nat := 0
  q : Nat
  slot : Nat
  link : Nat := 0
  tdid : Nat := 0
  deadline : Nat := 0
  drainDl : Nat := 0
  cursor : Nat := 0
  remain : Nat := 0
  held : Nat := 0
  dest : Nat := 0
  /-- the mover that serves it (R141, R152) -/
  mover : Option Nat := none
  /-- saturations and elements of a restore stream (R173) -/
  sat : Nat := 0
  elems : Nat := 0
  /-- the command, and the plan entry or ingot stream it works on -/
  seq : Nat
  entry : Nat := 0
  /-- digests of the vault sectors read so far, and the chunks they may complete (R286) -/
  digests : Tab Bytes := []
  chunks : List ChunkRef := []
  /-- sectors that its command read before its first data sector: seals, headers, index, maps, anchors (R286, R288) -/
  known : Tab Bytes := []
  /-- key slots (256 added for HMAC slots) and decode slots that its sectors and blocks need (R96, R206, R209) -/
  keys : List Nat := []
  codes : List Nat := []
  /-- decoded units that a later index may share: the unit, its bytes, the bad ones among them (R154) -/
  recent : List (Job × Bytes × Iset) := []
  /-- destination range, its unit (0: 4 KiB sectors; else rows of that size), pieces of units not yet whole: list position
  times 2^64 plus address → (bytes, poisoned) (R101, R153, R288) -/
  lo : Nat := 0
  hi : Nat := 0
  unit : Nat := 0
  asm : Tab (Bytes × Bool) := []
  /-- bytes filled into and drained from staging, with the CORE cycle of each, over the last 4,096 cycles (R146) -/
  fills : List (Nat × Nat) := []
  drains : List (Nat × Nat) := []
  deriving DecidableEq, Repr

/-- What a staging block is for. -/
inductive BKind where
  /-- source block to be encoded: entry of an epoch, block number -/
  | enc (epoch entry block : Nat)
  /-- row of an entry on its way to the row's extent -/
  | row (epoch entry row : Nat)
  /-- encoded unit to be decoded -/
  | dec (j : Job)
  /-- part of a fabric range whose digest is taken, by its number (R204) -/
  | raw (part : Nat)
  /-- row that a CHECKVALUE reads (R226) -/
  | cvRow (row : Nat)
  deriving DecidableEq, Repr

/-- A block slot of staging in use (R143, R144). -/
structure Blk where
  id : Nat
  ctx : Nat
  kind : BKind
  /-- bytes expected, and parts arrived by offset -/
  need : Nat
  parts : Tab Bytes := []
  /-- fabric address of its first byte; bytes requested, and bytes whose requests passed the filter (R119) -/
  base : Nat := 0
  issued : Nat := 0
  passed : Nat := 0
  /-- Crucible lane whose staging area holds it; none: it waits for a slot, or takes the light path (R144, R150) -/
  lane : Option Nat := none
  /-- it passes through the passant slot, not a block slot (R144) -/
  passant : Bool := false
  /-- it stands for a passant copy that has not returned yet (R127) -/
  tag : Option Nat := none
  /-- its reads draw no tokens: HOLD (R134) -/
  hold : Bool := false
  /-- bad data: 0 none, else 1 + the cause of POISON_MARK, with the bad units: addresses of 4 KiB, or for sectors of a unit
  8 times the position plus that number -/
  bad : Nat := 0
  badUnits : List Nat := []
  /-- reruns so far, and lanes that failed (R166) -/
  tries : Nat := 0
  lanes : List Nat := []
  /-- first of the two invocations of a recipe encode: its lane, its saturations and the block it left (R186) -/
  half : Option (Nat × Nat × Bytes) := none
  /-- a row: its stored check value when its copy passed the filter; none: refreshed (R126) -/
  cv : Option Nat := none
  /-- decoded anchor of its next indexed block or of its unit: bytes, and 0 or the bad data in them, code and cause (R177,
  R286) -/
  anchor : Option (Bytes × Nat × Nat) := none
  /-- indexed blocks of it already encoded, and reserve units to free when it leaves (R122) -/
  next : Nat := 0
  units : Nat := 0
  deriving DecidableEq, Repr

/-- The registers of a Crucible lane (R183, R384). -/
structure Lane where
  v : List (BitVec 512) := List.replicate 16 0
  r : List W64 := List.replicate 8 0
  src : Bytes := []
  base : Option Bytes := none
  out : Bytes := []
  pc : Nat := 1
  cycles : Nat := 0
  lfsr : W32 := 1
  sat : Nat := 0
  /-- 0 running, 1 to 6 trapped by that cause of R185, 7 ended -/
  trap : Nat := 0
  code : Nat := 0
  outLen : Nat := 0
  block : Nat := 0
  epoch : Nat := 0
  stream : Nat := 0
  fmt : Nat := 0
  /-- recipe slot, and the staging block that a halted lane keeps (R188, R389) -/
  slot : Nat := 0
  blk : Option Nat := none
  deriving DecidableEq, Repr

structure Streams where
  ctxs : Tab Ctx := []
  blocks : List Blk := []
  nextBlk : Nat := 0
  /-- restore units not yet read -/
  jobs : List Job := []
  /-- streams of a PLAN_LAUNCH that have not started, in order: context and units (R137) -/
  starts : List (Ctx × List Job) := []
  /-- decoded bytes of HARVEST entries that a PLAN_LAUNCH is to push: queue, sequence number, chain (R289) -/
  harvest : List (Nat × Nat × Nat × Bytes) := []
  /-- read-budget tokens (R147) -/
  tokens : Nat := 262144
  lanes : Tab Lane := []
  deriving DecidableEq, Repr

/-- A sector payload handed to the sealing unit (R191, R193). -/
structure SealJob where
  epoch : Nat
  entry : Nat
  /-- 1 header, 2 data, 3 index, 4 map, 5 seal list (R277) -/
  kind : Nat
  isector : Nat
  payload : Bytes
  bad : Bool := false
  /-- engines that failed their self-check on it (R194) -/
  failed : List (Nat × Nat) := []
  /-- ESCROW_FULL raised for it (R264) -/
  waited : Bool := false
  /-- Crucible lane whose output area holds it (R144) -/
  lane : Option Nat := none
  deriving DecidableEq, Repr

/-- A sealed sector gathered for the next SECTOR_WRITE (R151, R259). -/
structure Egress where
  epoch : Nat
  entry : Nat
  isector : Nat
  sector : Nat
  data : Bytes
  deriving DecidableEq, Repr

/-- Digests gathered for a writer (R264). -/
structure DigOut where
  epoch : Nat
  entry : Nat
  writer : Nat
  sectors : List Nat
  digests : List Bytes
  deriving DecidableEq, Repr

/-- A digest received for a sector not yet sealed (R266). -/
structure DigIn where
  sector : Nat
  dev : Nat
  tag : Nat
  epoch : Nat
  digest : Bytes
  deriving DecidableEq, Repr

structure Seal where
  jobs : List SealJob := []
  egress : List Egress := []
  digOut : List DigOut := []
  /-- escrowed sectors: sector → (epoch, slot, bytes) (R264) -/
  escrow : Tab (Nat × Nat × Bytes) := []
  stored : List DigIn := []
  /-- DIGEST messages whose verdicts are not all known -/
  digMsgs : List Bytes := []
  /-- digests of own replicated sectors: sector → (epoch, digest, replicas compared) (R268) -/
  own : Tab (Nat × Bytes × List Nat) := []
  /-- digests sent and without AGREE or DIFFER: (epoch, sector, writer) (R268) -/
  sentDig : List (Nat × Nat × Nat) := []
  /-- digests answered LATER: (epoch, sector, writer, time) -/
  later : List (Nat × Nat × Nat × Nat) := []
  /-- engines whose self-check fails, one after the other, for the next sector that is read back (R194) -/
  readFails : List (Nat × Nat) := []
  /-- dispute copies outstanding: (epoch, sector, copy) -/
  dispOut : List (Nat × Nat × Nat) := []
  deriving DecidableEq, Repr

/-- A checksum-cache entry (R216): w_k and the w_kg by row, the rotation at its load. -/
structure Handle where
  fmt : Nat
  w : List W32 := []
  wg : List (List W32) := []
  rot : Nat := 0
  deriving DecidableEq, Repr

/-- A weight load in progress (R216, R219). -/
structure WLoad where
  handle : Nat
  verify : Bool
  /-- E^B, and the exponents of the current K block by column -/
  eref : Int := 0
  exps : List Int := []
  /-- the first half of an I4 row has arrived: its group checksums -/
  half : Option (List W32) := none
  cur : Handle
  deriving DecidableEq, Repr

/-- A failing row of a tile (R223, R224): its position; the exact value of each K block, and what the slice set of the first run
computed for it; the array's row sum; the slices that computed wrongly; the group that differs. -/
structure RowFail where
  row : Nat
  parts : List W32
  first : List W32
  total : W32
  faulty : List Nat := []
  group : Nat := 0xF0
  deriving DecidableEq, Repr

/-- A tile whose END or row sums are outstanding (R220, R221). -/
structure Tile where
  id : Nat
  handle : Nat
  fmt : Nat
  replay : Bool
  dual : Nat
  /-- SC_ASSAY_CTL at its START (R235), and whether ENABLE was set -/
  ctl : Nat
  on : Bool
  /-- slices in service at its START, in ascending order, and the rotation of its handle (R217) -/
  slices : List Nat
  rot : Nat
  rows : Nat := 0
  sums : Nat := 0
  ended : Bool := false
  skip : Bool := false
  /-- the verdict, when it is known, with tap_replay_req; and whether it has been driven (R222) -/
  verdict : Option (Nat × Bool) := none
  driven : Bool := false
  /-- the parts of R_i, one for each K block, of rows whose sums have not arrived -/
  rhs : List (List W32) := []
  /-- row positions to capture, and the parts of their 16 group values (R223) -/
  capture : List Nat := []
  groups : Tab (List (List W32)) := []
  /-- failing rows, at most 64 -/
  fails : List RowFail := []
  /-- CRC-32C signature of the run (R229) -/
  sig : W32 := 0xFFFFFFFF
  deriving DecidableEq, Repr

/-- A failed tile awaiting replay (R223). -/
structure Failed where
  id : Nat
  replays : Nat
  rows : List Nat
  deriving DecidableEq, Repr

/-- The bag in progress (R227). -/
structure Bag where
  entry : Nat
  n : Nat
  id : Nat
  rows : List Nat := []
  elems : List Int := []
  exps : List Int := []
  deriving DecidableEq, Repr

/-- A verdict driven on the taps (R222). -/
structure Verdict where
  tile : Nat
  code : Nat
  replay : Bool
  deriving DecidableEq, Repr

structure Assay where
  /-- handles, least recently named first -/
  handles : List (Nat × Handle) := []
  loads : Nat := 0
  load : Option WLoad := none
  tiles : List Tile := []
  failed : List Failed := []
  /-- first-run signatures, oldest first (R229) -/
  sigs : List (Nat × W32) := []
  bag : Option Bag := none
  /-- counters of R235 in register order, ten of them -/
  counts : List Nat := List.replicate 10 0
  sliceOut : List Nat := []
  /-- the tile of the last row-sum beat that belonged to one -/
  lastSum : Nat := 0
  verdicts : List Verdict := []
  deriving DecidableEq, Repr

/-- A spill lane's receiver (R242, R243). -/
structure RxLane where
  lock : Bool := false
  /-- LANE, DEVICE and COUNT of the last ALIGN, and consistent intervals in a row (R243) -/
  align : Option (Nat × Nat × Nat) := none
  good : Nat := 0
  trainFails : Nat := 0
  deriving DecidableEq, Repr

/-- A message that waits for a frame: its virtual channel, the class of what produced it and the context whose deadline it carries
(R249); one whose frame was lost with its link goes before all others (R248). -/
structure OutMsg where
  vc : Nat
  msg : Bytes
  cls : Nat := 1
  ctx : Option Nat := none
  again : Bool := false
  deriving DecidableEq, Repr

/-- A frame kept until acknowledged (R248). -/
structure TxFrame where
  vc : Nat
  msg : Bytes
  cls : Nat := 1
  ctx : Option Nat := none
  fseq : Nat
  sends : Nat := 1
  deriving DecidableEq, Repr

/-- A spill port (R237 to R251, R270). -/
structure Port where
  /-- 0 OFF, 1 TRAINING, 2 FEC_LOCK, 3 ALIGNING, 4 LINIT, 5 UP, 6 CONFLICT, 7 ERROR -/
  state : Nat := 0
  mask : Nat := 15
  newMask : Nat := 15
  rxMask : Nat := 15
  partner : Nat := 0
  lanes : Tab RxLane := []
  /-- alignment count of the next ALIGN sent (R243) -/
  count : Nat := 0
  fseq : Nat := 0
  expect : Nat := 0
  sent : List Nat := [0, 0, 0, 0]
  cred : List Nat := [0, 0, 0, 0]
  /-- credit limits declared to the partner (R247) -/
  given : List Nat := [256, 8204, 16408, 8204]
  /-- frames sent and not acknowledged, messages waiting -/
  unacked : List TxFrame := []
  queued : List OutMsg := []
  nakSent : Bool := false
  /-- received messages not yet processed -/
  rx : List Bytes := []
  /-- retrain times, uncorrectable codewords (R248) -/
  retrains : List Nat := []
  /-- codewords lost with a lane's lock: lane and time (R242, R248) -/
  lost : List (Nat × Nat) := []
  /-- MODE and PRECODE of SC_SPILL_CTL at the last bring-up (R238, R270) -/
  mode : Nat := 0
  precode : Bool := false
  /-- what the next stripe positions carry (R249): ALIGN by logical lane, other control blocks due, the blocks left of the frame in
  progress, FSEQ of the frames to be resent; stripe positions since the last LCTL, up to 64 (R246) -/
  aligns : Tab Bytes := []
  ctl : List Bytes := []
  tx : List Bytes := []
  again : List Nat := []
  gap : Nat := 64
  /-- the 58 bits of each lane's scrambler (R238) -/
  scr : Tab (BitVec 58) := []
  /-- the follower has sent LINIT_ACK (R251) -/
  acked : Bool := false
  deriving DecidableEq, Repr

structure Peer where
  port : Nat
  ready : Bool := false
  conflict : Bool := false
  ringGen : Nat := 0
  coord : Nat := 0
  /-- fence generation that its last accepted message carried, once it has sent one (R262) -/
  gen : Nat := 0
  heard : Bool := false
  lost : Bool := false
  deriving DecidableEq, Repr

/-- A transaction request outstanding (R258). -/
structure Req where
  tag : Nat
  peer : Nat
  mtype : Nat
  msg : Bytes
  sends : Nat := 1
  /-- the command that waits for it, or the sectors it carries: (epoch, entry, isectors) -/
  owner : Option (Nat × Nat) := none
  epoch : Nat := 0
  entry : Nat := 0
  isectors : List Nat := []
  dispute : Bool := false
  /-- resends or rereads of the sectors it carries (R309) -/
  again : Nat := 0
  /-- class and context of what produced it (R249) -/
  cls : Nat := 1
  ctx : Option Nat := none
  deriving DecidableEq, Repr

structure Spill where
  ports : Tab Port := []
  peers : Tab Peer := []
  reqs : List Req := []
  nextTag : Nat := 1
  /-- highest SEQ delivered by (device × 65,536 + queue); EPOCH_DURABLE seen (R260) -/
  tidHigh : Tab Nat := []
  durSeen : List (Nat × Nat) := []
  /-- export vaults opened: (vault, device) (R261) -/
  opens : List (Nat × Nat) := []
  /-- time of the last FENCED sent to a device (R262) -/
  fencedAt : Tab Nat := []
  /-- received sector writes in progress: (device, tag, writes left, mask of sectors that failed) (R259, R261) -/
  rxWrites : List (Nat × Nat × Nat × Nat) := []
  /-- verdicts already given for digests: (device, sector, epoch, verdict) (R258) -/
  given : List (Nat × Nat × Nat × Nat) := []
  uncorr : Nat := 0
  replays : Nat := 0
  fenceDrops : Nat := 0
  refused : Nat := 0
  deriving DecidableEq, Repr

/-- Power (R356 to R364). `state`: 0 ACTIVE, 1 IDLE, 2 ADJOURNED, 3 OFF. -/
structure Power where
  state : Nat := 0
  entering : Bool := false
  target : Nat := 0
  awake : Bool := false
  /-- commands accepted during the entry, and the POWER_SET in progress -/
  delayed : Nat := 0
  cmd : Option (Nat × Nat) := none
  /-- OFF is entered once the COMPLETED record of this sequence number of queue 0 is in the mirror (R362) -/
  off : Option Nat := none
  deriving DecidableEq, Repr

structure Bp where
  kind : Nat
  arg : Nat
  data : Nat
  deriving DecidableEq, Repr

/-- The debug port (R381 to R391). -/
structure Debug where
  /-- SC_DBG_STAT.STATE -/
  state : Nat := 0
  /-- IR: 0x01 IDCODE after reset (R381) -/
  ir : Nat := 1
  challenge : Option Bytes := none
  resp : Tab W64 := []
  fails : Nat := 0
  lockout : Bool := false
  space : Nat := 0
  addr : Nat := 0
  bps : Tab Bp := []
  lastBp : Nat := 0xFF
  haltReq : Option Nat := none
  /-- breakpoints whose condition was met and that have not fired yet (R390) -/
  hits : List Nat := []
  stepping : Bool := false
  haltedAt : Nat := 0
  lanes : List Nat := []
  /-- response: OP, STATUS, SEL, DATA (R382) -/
  ansOp : Nat := 0
  ansStatus : Nat := 0
  ansSel : Nat := 0
  ansData : W64 := 0
  /-- block SRAM words written: space × 2^32 + lane (R385) -/
  sram : Tab W64 := []
  /-- responses that arrived while halted and whose effect waits for the end of the halt (R388) -/
  late : List Instr := []
  /-- the word of a fabric WRITE whose granule is being read -/
  wr : Option W64 := none
  /-- CMD and EPOCH records appended, and their count at the last STEP (R389) -/
  recs : Nat := 0
  stepFrom : Nat := 0
  deriving DecidableEq, Repr

/-- An entry of a macro's merge buffer (R318): store, lane, bits written, and since when it waits. -/
structure Merge where
  store : Nat
  lane : Nat
  mask : W64
  since : Nat
  deriving DecidableEq, Repr

/-- Faults and retirements (R309 to R311). -/
structure Faults where
  /-- retired channels: 32 × kind + index → cause -/
  retired : Tab Nat := []
  /-- AON times of charged failures by channel -/
  charged : Tab (List Nat) := []
  /-- upsets since the last TRANSIENT by kind, and its time -/
  upsets : Tab Nat := []
  upsetAt : Tab Nat := []
  /-- sequencer fetch traps: address → time (R321) -/
  traps : Tab Nat := []
  /-- uncorrectable ledger words: macro, word, time (R310) -/
  ledgerUe : List (Nat × Nat × Nat) := []
  /-- corrected errors not reported yet by store, and the time of the last ECC_CE (R325) -/
  ceSince : Tab Nat := []
  ceAt : Tab Nat := []
  /-- lane words corrupted by SC_FLIP: store, data mask, check mask (R322) -/
  flipped : List (Nat × W64 × Byte) := []
  /-- merge buffers, 8 entries for each store (R318) -/
  merge : List Merge := []
  deriving DecidableEq, Repr

/-- What a host-bridge request is for. -/
inductive HbKind where
  | slots (q start part : Nat)
  | mirror (lsn queue seq : Nat) (accepted : Bool)
  | grant (q seq : Nat)
  | cq (q pos : Nat)
  | seqWord (q seq : Nat)
  | shadow (q : Nat)
  | event
  | sector (epoch entry isector : Nat)
  | sealSec (epoch : Nat)
  | sealHdr (epoch : Nat)
  | dispute (epoch sector : Nat)
  | peerSec (dev tag ix : Nat)
  | result (q seq off : Nat)
  | vread (blk sector : Nat)
  | ixPage (ctx page : Nat)
  | planList (q seq : Nat)
  | image (q seq : Nat)
  deriving DecidableEq, Repr

/-- A host-bridge request outstanding (R341 to R343). -/
structure HbReq where
  id : Nat
  kind : HbKind
  write : Bool
  addr : Nat
  tdid : Nat
  len : Nat
  data : Bytes := []
  /-- its class (R15), its channel (R342), the context whose deadline it carries (R146) -/
  cls : Nat := 1
  chan : Nat := 0
  ctx : Option Nat := none
  /-- its arbiter has granted it (R16) -/
  granted : Bool := false
  tries : Nat := 0
  /-- rereads of a sector that failed its check (R309) -/
  again : Nat := 0
  deriving DecidableEq, Repr

inductive FabKind where
  | source (blk off : Nat)
  | passant (tag off : Nat)
  | dest (q seq : Nat)
  | escrow (sector : Nat)
  | group (region group : Nat)
  | header (region : Nat)
  /-- a 64 B granule of a CHECK array -/
  | check (region granule : Nat)
  | dbg
  deriving DecidableEq, Repr

/-- A fabric request outstanding (R327 to R331). -/
structure FabReq where
  id : Nat
  kind : FabKind
  port : Nat
  write : Bool
  addr : Nat
  len : Nat
  data : Bytes := []
  poison : Bool := false
  /-- its class (R15), the mover that keeps it outstanding (R141, R150), the context whose deadline it carries (R146) -/
  cls : Nat := 4
  mover : Option Nat := none
  ctx : Option Nat := none
  /-- it draws no tokens (R134) -/
  hold : Bool := false
  /-- its arbiter has granted it (R16) -/
  granted : Bool := false
  tries : Nat := 0
  /-- worst response error so far (R329), the ports that failed, and whether the request passed its filter (R119) -/
  err : Nat := 0
  failed : List Nat := []
  seen : Bool := false
  deriving DecidableEq, Repr

/-- An arbiter's window (R16): grants made in it, grants of each class 0 to 5, and the context granted last (R148). -/
structure Arb where
  n : Nat := 0
  used : List Nat := [0, 0, 0, 0, 0, 0]
  last : Nat := 0
  deriving DecidableEq, Repr

/-- A read of a control structure by the step that used it: a descriptor, list, table, package or key (R33, R75). -/
structure CtlRead where
  addr : Nat
  tdid : Nat
  len : Nat
  /-- 1 through the host bridge (R15) -/
  cls : Nat := 1
  deriving DecidableEq, Repr

structure Out where
  hb : List HbReq := []
  fab : List FabReq := []
  nextId : Nat := 1
  /-- arbiters: fabric port p reads p, writes 16 + p; host-bridge channel c 32 + c; Crucible lane l 40 + l (R16) -/
  arbs : Tab Arb := []
  /-- control structures read since the last idle cycle -/
  reads : List CtlRead := []
  /-- MSI-X vectors pending, with their TDID (R344) -/
  msix : Tab Nat := []
  /-- chain pulls and pushes driven, rel pulses: (filter, source) and rel_all (R335, R332) -/
  pulls : List Nat := []
  pushes : Tab (List Bytes) := []
  rels : List (Nat × Nat) := []
  relAll : List Nat := []
  /-- codewords sent in the last idle cycle: port, lane, 5,440 bits with bit 0 sent first (R239) -/
  line : List (Nat × Nat × BitVec 5440) := []
  /-- verdicts of insertion points: (filter, source, hold) -/
  vld : List (Nat × Nat × Bool) := []
  deriving DecidableEq, Repr

/-- The state of the block, and the queue of commands that wait. -/
structure State where
  time : Time := {}
  pins : Pins := {}
  regs : Regs := {}
  ring : Ring := {}
  ldg : Ledger := {}
  adm : Admin := {}
  cap : Capture := {}
  str : Streams := {}
  pun : Seal := {}
  asy : Assay := {}
  spl : Spill := {}
  pwr : Power := {}
  dbg : Debug := {}
  flt : Faults := {}
  out : Out := {}
  pending : List Instr := []
  deriving DecidableEq, Repr

/-- The reasons a step can stop with a fault: the block has none (an error of the manual is a completion status, an
event, a register bit or a retirement), and no meaning raises this one. -/
inductive Fault where
  /-- raised by nothing; safe -/
  | stuck
  deriving DecidableEq, Repr

/-- The reasons a command can be refused. -/
inductive Refusal where
  /-- raised by the dispatch for a command without a meaning; safe -/
  | notModelled (mnemonic : String)
  deriving DecidableEq, Repr

/-- The block right after RESET_RELEASE of a power-on reset (DESIGN CHOICE, log entry 10): every field at its default
above, the event RESET_CAUSE due with cause 0 (R365). -/
def State.reset : State := {}

end Sys2Proof.Machine
end

