-- ==== Sys2Proof/Machine/Ops.lean ====
section
/-! DEFINITION. The shared operations of the block: updates of one queue, command or epoch; the guards of a step; the
event ring; host-bridge and fabric requests; the journal. A block has no exception entry: what an error raises is an
event, a status or a register bit, written by these operations. -/

namespace Sys2Proof.Machine

/-! ### Access to one object -/

/-- The queue state of a queue in service. -/
def queue? (s : State) (q : Nat) : Option Queue := Tab.get? s.ring.queues q

/-- Changes one queue in service. -/
def onQ (q : Nat) (f : Queue → Queue) (s : State) : State := { s with ring.queues := Tab.upd s.ring.queues q f }

/-- The command with a queue and sequence number. -/
def cmd? (s : State) (q seq : Nat) : Option Cmd := s.ldg.cmds.find? fun c => c.q == q && c.seq == seq

/-- Changes one command. -/
def onCmd (q seq : Nat) (f : Cmd → Cmd) (s : State) : State :=
  { s with ldg.cmds := updWhere (fun c => c.q == q && c.seq == seq) f s.ldg.cmds }

def epoch? (s : State) (e : Nat) : Option Epoch := Tab.get? s.cap.epochs e

def onEpoch (e : Nat) (f : Epoch → Epoch) (s : State) : State := { s with cap.epochs := Tab.upd s.cap.epochs e f }

def onPort (p : Nat) (f : Port → Port) (s : State) : State := { s with spl.ports := Tab.upd s.spl.ports p f }

def onCtx (c : Nat) (f : Ctx → Ctx) (s : State) : State := { s with str.ctxs := Tab.upd s.str.ctxs c f }

def onRegion (r : Nat) (f : Region → Region) (s : State) : State := { s with cap.regions := Tab.upd s.cap.regions r f }

/-- Does nothing when a condition fails: a step whose occasion does not hold (DESIGN CHOICE, log entry 2). -/
def when (c : Bool) (f : State → State) (s : State) : State := if c then f s else s

/-- Runs an operation once for every element of a list, in order. -/
def each {α : Type} (l : List α) (f : α → State → State) (s : State) : State := l.foldl (fun t x => f x t) s

/-! ### Guards -/

/-- No reset is asserted and power is not OFF. -/
def up (s : State) : Bool := s.pins.rst == 0 && s.pwr.state != 3

/-- The port is unlocked and the block halted (R388); a STEP is over once a CMD or EPOCH record is appended (R389). -/
def halted (s : State) : Bool := s.dbg.state == 2 || (s.dbg.stepping && s.dbg.recs != s.dbg.stepFrom)

/-- Dispatch, acceptance, completion and streams may proceed: not in reset, OFF, FAULT_HOLD (R315) or halted (R388). -/
def runs (s : State) : Bool := up s && !s.regs.gasp.hold && !halted s

/-- The transaction layer processes messages: as `runs`, in ACTIVE only (R356). -/
def txRuns (s : State) : Bool := runs s && s.pwr.state == 0

/-! ### Registers that are shadowed (R367, R368) -/

/-- The power-on value of a shadowed register. -/
def shReset (off : Nat) : Nat :=
  if 0x300 ≤ off ∧ off < 0x400 then 0x10000
  else if off = 0x400 then 0x2008
  else if off = 0x404 then 0x4003E8
  else if off = 0x40C then 1
  else if off = 0x500 then 0x400040
  else if off = 0x510 then 1
  else if off = 0x700 then 0x28
  else 0

/-- The writable bits of a shadowed register (R13, R366). -/
def shMask (off : Nat) : Nat :=
  if off = 0x40 ∨ off = 0x60 then 0xFFFFF000
  else if off = 0x48 ∨ off = 0x68 then 0xFFFF
  else if 0x120 ≤ off ∧ off < 0x140 then 0x7FFFFF
  else if 0x140 ≤ off ∧ off < 0x160 then 0xFFFFFF
  else if off = 0x400 then 0x3F0F
  else if off = 0x404 then 0x0FFF0FFF
  else if off = 0x408 ∨ off = 0x510 then 1
  else if off = 0x40C then 0x7FFFF
  else if off = 0x414 then 0x3FFFFF
  else if off = 0x700 then 0x3F
  else if off = 0x704 then 0x3FF
  else if off = 0x800 then 0xFFF
  else 0xFFFFFFFF

/-- Whether an offset holds a shadowed register (R368). -/
def isShadowed (off : Nat) : Bool :=
  off % 4 == 0 && ([0x40, 0x44, 0x48, 0x60, 0x64, 0x68, 0x100, 0x400, 0x404, 0x408, 0x40C, 0x410, 0x414, 0x500, 0x510,
    0x700, 0x704, 0x800].contains off || (decide (0x120 ≤ off) && decide (off < 0x160)) ||
    (decide (0x300 ≤ off) && decide (off < 0x400)))

/-- The applied value of a shadowed register. -/
def sh (s : State) (off : Nat) : Nat := ((Tab.get? s.regs.shadow.applied off).map (·.toNat)).getD (shReset off)

def queueBase (s : State) : Nat := sh s 0x40 + 2 ^ 32 * sh s 0x44
def mirrorBase (s : State) : Nat := sh s 0x60 + 2 ^ 32 * sh s 0x64
def plateBase (s : State) : Nat := sh s 0x100 * 65536
def winFirst (s : State) (n : Nat) : Nat := sh s (0x120 + 4 * n)
def winLen (s : State) (n : Nat) : Nat := sh s (0x140 + 4 * n)
def laneUnits (s : State) : Nat := bits (sh s 0x400) 13 8
def assayCtl (s : State) (i : Nat) : Bool := bit (sh s 0x700) i
def jobSpan (s : State) : Nat := sh s 0x40C
def escrowSlots (s : State) : Nat := sh s 0x414

/-! ### Channels (R95, R310) -/

/-- The number of channels of a kind. -/
def kindCount (k : Nat) : Nat := [16, 4, 32, 32, 16, 16, 20, 16, 8, 2].getD k 0

def retired (s : State) (kind ix : Nat) : Bool := (Tab.get? s.flt.retired (32 * kind + ix)).isSome

def inService (s : State) (kind : Nat) : List Nat := (List.range (kindCount kind)).filter fun i => !retired s kind i

/-- The port of a fabric address, the next one in service when it is retired (R141). -/
def fabPort (s : State) (addr try_ : Nat) : Nat :=
  let p0 := bits addr 15 12 + try_
  (((List.range 16).map fun i => (p0 + i) % 16).find? fun p => !retired s 7 p).getD (p0 % 16)

/-- A lane is written anew: an earlier corruption of it is gone. -/
def laneClean (store lane : Nat) (s : State) : State :=
  { s with flt.flipped := s.flt.flipped.filter fun x => x.1 != store * 2 ^ 32 + lane }

/-- The next write of an armed store corrupts the lane it writes and clears ARM (R322). -/
def flipHook (store lane : Nat) (s : State) : State :=
  let s := laneClean store lane s
  let f := s.regs.flip
  if f.arm ∧ f.store = store then
    { s with
      regs.flip.arm := false
      flt.flipped := (store * 2 ^ 32 + lane, f.hi ++ f.lo, f.check) :: s.flt.flipped }
  else s

/-- A 32 B word of a ledger macro is written: four lanes. -/
def wordWrite (store word : Nat) (s : State) : State :=
  flipHook store (4 * word) (laneClean store (4 * word + 3) (laneClean store (4 * word + 2) (laneClean store (4 * word + 1) s)))

/-! ### Host bridge and fabric requests -/

/-- Presents a request to the arbiter of a host-bridge channel (R16, R342). -/
def hbReq (kind : HbKind) (write : Bool) (addr tdid len : Nat) (data : Bytes) (cls chan : Nat) (ctx : Option Nat)
    (s : State) : State :=
  { s with
    out.hb := s.out.hb ++ [{ id := s.out.nextId, kind, write, addr, tdid, len, data, cls, chan, ctx }]
    out.nextId := s.out.nextId + 1 }

/-- A class 1 write: channel 0 carries every class 1 transfer (R15, R342). -/
def hbWrite (kind : HbKind) (addr tdid : Nat) (data : Bytes) : State → State :=
  hbReq kind true addr tdid data.length data 1 0 none

/-- A class 1 read. -/
def hbRead (kind : HbKind) (addr tdid len : Nat) : State → State := hbReq kind false addr tdid len [] 1 0 none

/-- A write of one sector of a HOST vault or staging buffer, on the channel of its sector number (R342). -/
def hbSector (kind : HbKind) (addr tdid sector cls : Nat) (ctx : Option Nat) (data : Bytes) : State → State :=
  hbReq kind true addr tdid data.length data cls (sector % 4) ctx

/-- A control structure is read by the step that uses it: its address, translation domain, length and class (R33, R75;
DESIGN CHOICE, log entry 3). -/
def readCtl (addr tdid len cls : Nat) (s : State) : State :=
  { s with out.reads := s.out.reads ++ [{ addr, tdid, len, cls }] }

/-- The grant-table word of a buffer whose grant is not kept on-block is read from the mirror, in class 1; the 256 used last
are kept (R15, R303). DEDUCED, log entry 158: which grants the cache of 256 keeps. -/
def useGrant (buf : Nat) (s : State) : State :=
  let s := if s.ldg.grantUsed.contains buf then s else readCtl (mirrorBase s + 0x91000 + 32 * buf) (sh s 0x68) 32 1 s
  { s with ldg.grantUsed := (buf :: s.ldg.grantUsed.erase buf).take 256 }

/-- An address watch of the debug port that a fabric access touches (R390 kind 3). -/
def watched (s : State) (write : Bool) (addr len : Nat) : List Nat :=
  (s.dbg.bps.filter fun b =>
    let size := 2 ^ bits b.2.arg 5 0
    b.2.kind == 3 && bit b.2.arg (if write then 9 else 8) && decide (addr < b.2.data + size) &&
      decide (b.2.data < addr + len)).map (·.1)

/-- Records breakpoints whose condition is met (R390). -/
def hit (slots : List Nat) (s : State) : State :=
  { s with dbg.hits := s.dbg.hits ++ slots.filter fun b => !s.dbg.hits.contains b }

/-- Records the breakpoints of a kind that meet a test. -/
def hitKind (kind : Nat) (p : Bp → Bool) (s : State) : State :=
  hit ((s.dbg.bps.filter fun b => b.2.kind == kind && p b.2).map (·.1)) s

/-- Presents a request of a mover, for a context, to the arbiter of its fabric port (R16, R141). -/
def fabReqBy (mover ctx : Option Nat) (hold : Bool) (kind : FabKind) (write : Bool) (addr len cls : Nat) (data : Bytes)
    (poison : Bool) (s : State) : State :=
  hit (watched s write addr len) { s with
    out.fab := s.out.fab ++
      [{ id := s.out.nextId, kind, port := fabPort s addr 0, write, addr, len, data, poison, cls, mover, ctx, hold }]
    out.nextId := s.out.nextId + 1 }

/-- A fabric request that no mover keeps. -/
def fabReq (kind : FabKind) (write : Bool) (addr len cls : Nat) (data : Bytes) (poison : Bool) : State → State :=
  fabReqBy none none false kind write addr len cls data poison

/-- An MSI-X request; a pending one of the same vector takes it in (R344). -/
def msix (vector tdid : Nat) (s : State) : State := { s with out.msix := Tab.put s.out.msix vector tdid }

/-! ### Events (R66, R69, R398) -/

def evSize (s : State) : Nat := 2 ^ fld s.ring.ev.desc 8 1

/-- The 32 B entry of an event in lap phase `p` (R66). -/
def eventBytes (e : Event) (p : Nat) : Bytes :=
  toLE 1 p ++ toLE 1 e.sev ++ toLE 2 e.code ++ toLE 2 e.queue ++ zeros 2 ++ toLE 8 e.time ++ toLE 8 e.seq ++
    toLE 8 e.detail

/-- Writes an event into the next entry of the ring. -/
def writeEvent (e : Event) (s : State) : State :=
  let n := s.ring.ev.written
  let tdid := fld s.ring.ev.desc 12 2
  let s := hbWrite .event (fld s.ring.ev.desc 0 8 + 32 * (n % evSize s)) tdid
    (eventBytes e (1 - n / evSize s % 2)) s
  let s := { s with ring.ev.written := n + 1 }
  if fld s.ring.ev.desc 9 1 = 2 then msix (fld s.ring.ev.desc 10 2) tdid s else s

def evRoom (s : State) : Nat := evSize s - (s.ring.ev.written - s.ring.ev.head)

/-- EVENT_OVERFLOW, when events were dropped and an entry is free (R69). -/
def writeOverflow (s : State) : State :=
  if s.ring.ev.dropped ≠ 0 ∧ 0 < evRoom s then
    writeEvent ⟨0x0104, 1, 0xFFFF, s.time.aon, 0, s.ring.ev.dropped⟩ { s with ring.ev.dropped := 0 }
  else s

/-- The event ring is in service and the command branch is not gated (R398, R359). -/
def evUp (s : State) : Bool := s.regs.qctl.ready && up s && (s.pwr.state == 0 || s.pwr.awake)

/-- Whether the event ring can be written: in FAULT_HOLD no further event is written (R315). -/
def evOpen (s : State) : Bool := evUp s && !s.regs.gasp.hold

/-- Writes held events, in the order formed, while the ring has room; then EVENT_OVERFLOW (R398). -/
def flushHeld (l : List Event) (s : State) : State :=
  match l with
  | [] => writeOverflow { s with ring.ev.held := [] }
  | e :: rest =>
    if 0 < evRoom s then flushHeld rest (writeEvent e s) else { s with ring.ev.held := e :: rest }

/-- Brings the ring up to date: what is held and the count of what was dropped come before a later event. -/
def catchUp (s : State) : State := if evOpen s then flushHeld s.ring.ev.held s else s

/-- Drops and counts an event (R69). -/
def dropEvent (s : State) : State := { s with ring.ev.dropped := s.ring.ev.dropped + 1 }

/-- An event formed: written, held (64 at most) or dropped (R69, R398). -/
def emit (e : Event) (s : State) : State :=
  let s := hitKind 5 (fun b => bits b.arg 15 0 == e.code) s
  let s := if e.code = 0x0701 then hitKind 4 (fun b => bit b.arg (bits e.detail 61 60)) s else s
  if !evUp s then
    if s.ring.ev.held.length < 64 then { s with ring.ev.held := s.ring.ev.held ++ [e] } else dropEvent s
  else if s.regs.gasp.hold then dropEvent s
  else
    let s := catchUp s
    if s.ring.ev.held = [] ∧ s.ring.ev.dropped = 0 ∧ 0 < evRoom s then writeEvent e s else dropEvent s

/-- Forms an event now. DEDUCED, log entry 87. -/
def raise (code sev queue seq detail : Nat) (s : State) : State :=
  emit ⟨code, sev, queue, s.time.aon, seq, detail⟩ s

/-- An event that names no queue. -/
def raise0 (code sev detail : Nat) : State → State := raise code sev 0xFFFF 0 detail

/-! ### The journal (R297 to R303) -/

def logWords : Nat := 47104

def freeWords (s : State) : Nat := logWords - s.ldg.log.length

/-- The 32 B word of a record (R297). -/
def recBytes (r : Rec) : Bytes :=
  let b := if r.kind = 2 then toLE 1 2 ++ toLE 1 r.state ++ toLE 2 r.lsn ++ slice r.arg 0 24
    else toLE 1 r.kind ++ toLE 1 r.state ++ toLE 2 r.queue ++ toLE 4 r.lsn ++ toLE 8 r.seq ++ slice r.arg 0 12
  b ++ toLE 4 (crcN b)

/-- The 4 KiB mirror header (R303); log entry 18 says when it is written. -/
def mirrorHeader (s : State) : Bytes :=
  let dev := match s.adm.selfDev with
    | some d => d
    | none => 2 ^ 31
  let tail := match s.ldg.log with
    | r :: _ => r.lsn
    | [] => s.ldg.lsn
  let h := [0x4C, 0x44, 0x47, 0x4D] ++ toLE 2 1 ++ zeros 2 ++ toLE 4 dev ++ toLE 4 tail ++ zeros 44
  h ++ toLE 4 (crcN h) ++ zeros 4032

def writeMirrorHeader (s : State) : State := hbWrite (.grant 0xFFFF 0) (mirrorBase s) (sh s 0x68) (mirrorHeader s) s

/-- Issues the mirror write of a record: the log image at its log position (R303). -/
def mirrorRec (r : Rec) (s : State) : State :=
  hbWrite (.mirror r.lsn r.queue r.seq (r.kind == 1 && r.state % 16 == 1))
    (mirrorBase s + 0x291000 + 32 * (r.lsn % logWords)) (sh s 0x68) (recBytes r) s

/-- Appends one record without moving the tail; the next object word is rewritten in rotation (R300). -/
def appendRec (r : Rec) (s : State) : State :=
  let r := { r with lsn := s.ldg.lsn }
  mirrorRec r <| wordWrite 4 (18432 + r.lsn % logWords) <| wordWrite 3 (18432 + r.lsn % logWords) { s with
    ldg.log := s.ldg.log ++ [r]
    ldg.lsn := (s.ldg.lsn + 1) % 2 ^ 32
    ldg.rot := (s.ldg.rot + 1) % 18432 }

/-- The BODY records and their ACCEPTED record at the tail, as one unit to carry (R301). -/
def carryUnit : List Rec → List Rec × List Rec
  | [] => ([], [])
  | r :: rest =>
    if r.kind = 2 then
      let n := ((r :: rest).takeWhile fun x => x.kind == 2 && !x.dead).length + 1
      ((r :: rest).take n, (r :: rest).drop n)
    else ([r], rest)

/-- Moves the tail past dead records, carrying the live records before them to the head (R301; DEDUCED, log entry 16). -/
def reclaim (fuel : Nat) (s : State) : State :=
  match fuel with
  | 0 => s
  | k + 1 =>
    match s.ldg.log with
    | [] => s
    | r :: rest =>
      if r.dead then reclaim k { s with ldg.log := rest }
      else if rest.any (·.dead) then
        let c := carryUnit (r :: rest)
        let s := each c.1 (fun x => appendRec { x with mirrored := false }) { s with ldg.log := c.2 }
        reclaim k s
      else s

/-- LEDGER_LOW, once each time the free words fall below 4,096 (R302). -/
def checkLow (s : State) : State :=
  if freeWords s < 4096 then
    if s.ldg.lowRaised then s else raise0 0x0A03 1 (freeWords s) { s with ldg.lowRaised := true }
  else { s with ldg.lowRaised := false }

/-- Appends a record and reclaims dead words. -/
def append (kind state queue seq : Nat) (arg : Bytes) (dead : Bool) (s : State) : State :=
  let s := appendRec { kind, state, queue, lsn := 0, seq, arg, dead } s
  let s : State := if kind = 1 ∨ kind = 3 then { s with dbg.recs := s.dbg.recs + 1 } else s
  checkLow (reclaim (2 * s.ldg.log.length + 2) s)

/-- Marks records dead (R301). -/
def kill (p : Rec → Bool) (s : State) : State :=
  { s with ldg.log := updWhere p (fun r => { r with dead := true }) s.ldg.log }

/-- Journals an epoch's phase in its object slot and as an EPOCH record (R298, R301). -/
def setPhase (e phase : Nat) (s : State) : State :=
  let s := onEpoch e (fun x => { x with phase }) s
  let s := if 5 ≤ phase then kill (fun r => r.kind == 3 && leNat (r.arg.take 4) == e) s else s
  append 3 phase 0xFFFF 0 (toLE 4 e) (decide (5 ≤ phase)) s

/-- Names the command that last changed an object word (R295, R296): regions 0 queues, 1 vaults, 2 generations, 3 keys,
4 peers, 5 grants. -/
def mark (region slot q seq : Nat) (s : State) : State :=
  { s with ldg.marks := Tab.put s.ldg.marks (8 * slot + region) (q, seq) }

/-- Whether an object word carries the command's own WQ and WSEQ (R296). -/
def marked (s : State) (region slot q seq : Nat) : Bool :=
  Tab.get? s.ldg.marks (8 * slot + region) == some (q, seq)

/-! ### Launches (R89, R90) -/

def itemOp (b : Bytes) : Nat := fld b 1 1

/-- EPOCH_OPEN and PLAN_LAUNCH are launches (R89). -/
def isLaunch (b : Bytes) : Bool := itemOp b == 0x40 || itemOp b == 0x49

/-- An epoch whose launch is not retired. -/
def unresolved (e : Epoch) : Bool := decide (e.phase < 5)

/-- An unretired launch holds a generation: from its start to its end, or to the end of its epoch (R89). -/
def launched (s : State) (plan num : Nat) : Bool :=
  (Tab.vals s.cap.epochs).any (fun e => unresolved e && e.plan == plan && e.gen == num) ||
    s.ldg.cmds.any fun c => isLaunch c.item && c.st == .started && fld c.item 8 2 == plan && c.gen == num

/-- A generation is freed now: no longer current, and no launch holds it (R90). -/
def goesFree (s : State) (g : Gen) : Bool := !g.freed && (!g.current || g.withdrawn) && !launched s g.plan g.num

/-- Frees the generations that go free; raises PLAN_FREED (R90). -/
def freeGens (s : State) : State :=
  each (s.adm.gens.filter (goesFree s)) (fun g => raise0 0x0202 0 (g.plan + 2 ^ 32 * g.num))
    { s with adm.gens := s.adm.gens.map fun g => if goesFree s g then { g with freed := true } else g }

/-! ### The end of a command -/

/-- A command enters DURABLE: its record is appended, its BODY records die, its token is returned (R298, R301, R102); a launch
whose epoch does not go on retires (R89). -/
def finish (q seq status detail : Nat) (s : State) : State :=
  match cmd? s q seq with
  | none => s
  | some c =>
    if c.st = .durable then s else
    let detail := if status = 0 ∧ c.headPos.isNone ∧ c.count = 0 then 0 else min detail 255
    let s := onCmd q seq (fun x => { x with st := .durable, since := s.time.act, ran := true, status, detail, maint := false }) s
    let s := kill (fun r => r.kind == 2 && r.queue == q && r.seq == seq) s
    let s := append 1 3 q seq (toLE 1 status ++ toLE 1 detail) false s
    if isLaunch c.item then freeGens s else s

/-- A command ends MALFORMED at an offset. -/
def malformed (q seq off : Nat) : State → State := finish q seq 0x03 off

/-- A refused plan structure: PLAN_REJECT (R105). Its DETAIL has 16 bits for the index; a topology record beyond 65,535 is named by
the low ones (DEDUCED, log entry 138). -/
def planReject (plan ix off : Nat) : State → State :=
  raise0 0x0203 1 (plan + ix % 65536 * 2 ^ 16 + off * 2 ^ 32)

/-- Draws a free value (DESIGN CHOICE, log entry 9). -/
def free (s : State) : W64 × State := (Config.freeWord s.time.free, { s with time.free := s.time.free + 1 })

/-- The state after a free string of bytes that is named by the counter. -/
def drawn (s : State) : State := { s with time.free := s.time.free + 1 }

end Sys2Proof.Machine
end

