-- ==== Sys2Proof/Machine/Flags.lean ====
section
/-! DEFINITION. Status bits, counters and the register map: what a read of each setup register returns (R364, R367 to
R370 and the register tables of the other chapters). -/

namespace Sys2Proof.Machine

/-- A bit mask of the numbers below `n` that meet a test. -/
def maskOf (n : Nat) (p : Nat → Bool) : Nat := ((List.range n).filter p).foldl (fun a i => a + 2 ^ i) 0

/-- SC_QCTL (R370). -/
def readQctl (c : QCtl) : Nat :=
  b2n c.enable + 2 * b2n c.ready + 4 * b2n c.err + 8 * b2n c.flush + 2 ^ 8 * c.errOff + 2 ^ 16 * c.errSrc

/-- SC_CASTLE_CTL (R372). -/
def readCastle (c : Castle) : Nat :=
  b2n c.isOpen + 2 * b2n c.pend + 4 * c.result + 2 ^ 6 * b2n c.misuse + 2 ^ 8 * c.reason + 2 ^ 16 * c.reg

/-- SC_CLK_STAT (R364). -/
def readClk (c : Clk) : Nat :=
  b2n c.rootLock + 2 * b2n c.fabRun + 4 * b2n c.hostifRun + 8 * b2n c.tapRun + 16 * b2n c.hvRun +
    2 ^ 16 * b2n c.fabLost + 2 ^ 17 * b2n c.hostifLost + 2 ^ 18 * b2n c.tapLost + 2 ^ 19 * b2n c.hvLost +
    2 ^ 20 * b2n c.fabSlip + 2 ^ 21 * b2n c.rootLost

/-- SC_LAST_GASP (R316). -/
def readGasp (g : Gasp) : Nat := g.cause + 16 * b2n g.hold + 32 * b2n g.valid + 2 ^ 16 * g.lsn

/-- SC_LEDGER_STAT (R324). -/
def readLedgerStat (s : State) : Nat :=
  freeWords s % 2 ^ 16 + 2 ^ 16 * b2n (retired s 9 0) + 2 ^ 17 * b2n (retired s 9 1) +
    2 ^ 18 * b2n s.ldg.mirrorFault + 2 ^ 19 * b2n s.regs.gasp.hold

/-- SC_POWER (R364). -/
def readPower (s : State) : Nat :=
  s.pwr.state % 4 + 4 * b2n s.pwr.entering + 8 * s.pwr.target + 32 * b2n s.pwr.awake + 64 * b2n s.cap.sweepPend

/-- SC_DEVICE (R369). -/
def readDevice (s : State) : Nat :=
  match s.adm.selfDev with
  | none => 0
  | some d => d + 2 ^ 18

/-- SC_KEY_STAT (R213). -/
def readKeyStat (s : State) : Nat :=
  let k := s.regs.keySel
  if 320 ≤ k then 0 else
    ((Tab.get? s.adm.keys k).map (·.form)).getD 0 + 4 * b2n (k == 255 && (Tab.get? s.adm.keys 255).isSome) +
      8 * b2n (s.adm.keyLost.contains k) + 2 ^ 16 * (Tab.getD s.adm.keyLoads k 0 % 65536)

/-- The KCV bytes of the slot that SC_KEY_SEL names; zeros when it is empty (R213). -/
def selKcv (s : State) : Bytes :=
  if 320 ≤ s.regs.keySel then zeros 8 else ((Tab.get? s.adm.keys s.regs.keySel).map (·.kcv)).getD (zeros 8)

/-- SC_SPILL_STATn (R270). -/
def readSpillStat (s : State) (n : Nat) : Nat :=
  let p := (Tab.get? s.spl.ports n).getD {}
  p.state + 8 * b2n (retired s 1 n) + 16 * (if p.state = 0 then 0 else p.mask) + 2 ^ 8 * p.partner

/-- A read at an offset of the register port; `none` is an unmapped offset (R339, R340, R368). Write-only registers and the doorbell
window read as zero (R44). -/
def readReg (s : State) (off : Nat) : Option Nat :=
  if off % 4 ≠ 0 then none
  else if 0x10000 ≤ off ∧ off ≤ 0x18000 then some 0
  else if isShadowed off then some (sh s off)
  else if off = 0 then some 0x01025A1A
  else if off = 4 then some 0x04848FFF
  else if off = 8 then some 0x07FFFFFF
  else if off = 0xC then some 0x7FD3FFFF
  else if off = 0x10 then some (0x0FFE3FFF + 2 ^ 28 * b2n s.pins.otpRoot.isSome)
  else if off = 0x14 then some (readDevice s)
  else if off = 0x18 then some (s.time.aon % 2 ^ 32)
  else if off = 0x1C then some s.regs.aonHi.toNat
  else if off = 0x20 then some (readCastle s.regs.shadow.castle)
  else if off = 0x24 then some s.regs.shadow.castle.gen.toNat
  else if off = 0x30 then some s.dbg.state
  else if off = 0x4C then some (readQctl s.regs.qctl)
  else if off = 0x50 then some (s.regs.bufNotHeld + 2 ^ 16 * s.regs.bufForeign)
  else if off = 0x54 ∨ off = 0x6C then some 0
  else if off = 0x70 then some (readLedgerStat s)
  else if off = 0x80 then some (readPower s)
  else if off = 0x84 then some (readClk s.regs.clk)
  else if off = 0x88 then some (readGasp s.regs.gasp)
  else if 0x200 ≤ off ∧ off < 0x300 then some (Tab.getD s.pins.hvLen ((off - 0x200) / 4) 0)
  else if off = 0x504 then some s.regs.xfSat
  else if off = 0x508 then some s.regs.xfRail
  else if off = 0x50C ∨ off = 0x604 ∨ off = 0x608 ∨ off = 0x60C then some 0
  else if off = 0x600 then some s.regs.crcRun.toNat
  else if off = 0x610 then some s.regs.keySel
  else if off = 0x614 then some (readKeyStat s)
  else if off = 0x618 then some (fld (selKcv s) 0 4)
  else if off = 0x61C then some (fld (selKcv s) 4 4)
  else if off = 0x708 then some (maskOf 16 s.asy.sliceOut.contains)
  else if 0x710 ≤ off ∧ off < 0x738 then some (s.asy.counts.getD ((off - 0x710) / 4) 0)
  else if off = 0x738 ∨ off = 0x840 ∨ off = 0xA1C then some 0
  else if 0x810 ≤ off ∧ off < 0x820 then some (readSpillStat s ((off - 0x810) / 4))
  else if off = 0x820 then some s.adm.selfGen
  else if off = 0x824 then some s.adm.fenceBy
  else if off = 0x830 then some s.spl.uncorr
  else if off = 0x834 then some s.spl.replays
  else if off = 0x838 then some s.spl.fenceDrops
  else if off = 0x83C then some s.spl.refused
  else if off = 0xA00 then some s.regs.flip.lo.toNat
  else if off = 0xA04 then some s.regs.flip.hi.toNat
  else if off = 0xA08 then some (s.regs.flip.check.toNat + 2 ^ 8 * s.regs.flip.store + 2 ^ 16 * b2n s.regs.flip.arm)
  else if off = 0xA10 then some s.regs.eccCe
  else if off = 0xA14 then some s.regs.eccUe
  else if off = 0xA18 then some s.regs.eccLast.toNat
  else if off = 0xA20 then some (maskOf 32 (retired s 2))
  else if off = 0xA24 then some (maskOf 32 (retired s 3))
  else if off = 0xA28 then some (maskOf 16 (retired s 4) + 2 ^ 16 * maskOf 16 (retired s 5))
  else if off = 0xA2C then some (maskOf 20 (retired s 6))
  else if off = 0xA30 then some (maskOf 16 (retired s 0) + 2 ^ 16 * maskOf 4 (retired s 1) +
    2 ^ 20 * maskOf 8 (retired s 8) + 2 ^ 28 * maskOf 2 (retired s 9))
  else if off = 0xA34 then some (maskOf 16 (retired s 7))
  else none

/-- Counts an error of a store in SC_ECC_* and SC_ECC_LAST (R323). -/
def eccCount (store lane : Nat) (ue : Bool) (s : State) : State :=
  { s with
    regs.eccCe := if ue then s.regs.eccCe else satAdd 0xFFFFFFFF s.regs.eccCe 1
    regs.eccUe := if ue then satAdd 0xFFFFFFFF s.regs.eccUe 1 else s.regs.eccUe
    regs.eccLast := BitVec.ofNat 32 (store + 32 * b2n ue + 2 ^ 8 * (lane % 2 ^ 24)) }

/-- Adds to one of Assay's ten counters (R235). -/
def assayCount (i k : Nat) (s : State) : State :=
  { s with asy.counts := s.asy.counts.modify i (fun n => satAdd 0xFFFFFFFF n k) }

/-- Latches a cause in SC_LAST_GASP: the first one stays, but a cause that enters FAULT_HOLD replaces one that does not
(R316). -/
def latchGasp (cause : Nat) (s : State) : State :=
  let g := s.regs.gasp
  let holds := fun n => n == 3 || n == 4 || n == 6
  if !g.valid || (holds cause && !holds g.cause) then
    { s with regs.gasp := { g with cause, valid := true, lsn := (s.ldg.lsn + 2 ^ 32 - 1) % 2 ^ 16 } }
  else s

end Sys2Proof.Machine
end

