-- ==== Sys2Proof/Machine/Operands.lean ====
section
/-! DEFINITION. The operand forms of the ring commands: the bodies of R77 to R97, R207, R252 and the plan entries of R86,
read from the item's bytes; the reserved bytes and field ranges that R12 and R56 check; the rule of R397 that names the
offending field. -/

namespace Sys2Proof.Machine

/-- Slots that an opcode requires, least and most; `none`: not assigned (R72). -/
def slotsOf (op : Nat) : Option (Nat × Nat) :=
  if (1 ≤ op ∧ op ≤ 0x14) then some (1, 1)
  else if op = 0x41 ∨ op = 0x44 ∨ op = 0x45 then some (2, 2)
  else if op = 0x42 then some (1, 2)
  else if 0x40 ≤ op ∧ op ≤ 0x4B then some (1, 1)
  else none

/-- Whether a queue may carry an opcode (R72, R73): admin commands queue 0, BUF_FREE any, work commands the others. -/
def queueOk (op q : Nat) : Bool := op == 6 || (if op < 0x40 then q == 0 else q != 0)

/-- The (offset, size) of the body fields of an opcode (R77, R80, R81, R83, R85, R91, R94, R97). Every other body byte is
reserved (R12). `two` is the 2-slot form of ROW_CAPTURE. -/
def bodyFields (op : Nat) (two : Bool) : List (Nat × Nat) :=
  match op with
  | 0x01 => [(8, 4), (12, 1), (13, 1), (14, 2), (16, 8), (24, 8), (32, 4), (36, 4), (40, 2)]
  | 0x02 => [(8, 4)]
  | 0x03 | 0x04 => [(8, 2)]
  | 0x05 => [(8, 2), (10, 2), (12, 2), (16, 8), (24, 8)]
  | 0x06 => [(8, 2), (12, 4)]
  | 0x07 => [(8, 2), (12, 4), (16, 8), (24, 2)]
  | 0x08 => [(8, 2), (10, 1), (12, 4), (16, 8), (24, 8), (32, 2)]
  | 0x09 => [(8, 1), (10, 2), (12, 2), (16, 8)]
  | 0x0A => [(8, 1), (9, 1), (10, 1), (11, 1), (12, 2), (16, 8)]
  | 0x0B => [(8, 1), (9, 1), (10, 1), (12, 4), (16, 4), (20, 4), (24, 8)]
  | 0x0C => [(8, 1)]
  | 0x0D | 0x0E => [(8, 1), (9, 1)]
  | 0x0F => [(8, 1), (9, 1), (10, 1), (12, 4), (16, 4)]
  | 0x10 => [(8, 4), (12, 2), (16, 8), (24, 4), (28, 4)]
  | 0x11 | 0x12 => [(8, 1), (10, 2), (12, 4), (16, 8), (24, 2)]
  | 0x13 => []
  | 0x14 => [(8, 4), (12, 4)]
  | 0x40 => [(8, 2), (10, 2), (12, 4), (16, 4), (20, 4), (24, 8)]
  | 0x41 => [(8, 4), (12, 4), (16, 8), (24, 8), (72, 8), (80, 2)]
  | 0x42 => if two then [(8, 4), (12, 4), (16, 8), (24, 8), (72, 8), (80, 4), (84, 2)]
    else [(8, 4), (12, 4), (16, 8), (24, 8)]
  | 0x43 => [(8, 4), (16, 8), (24, 2)]
  | 0x44 | 0x45 => [(8, 4), (12, 4), (16, 4), (20, 2), (22, 2), (24, 4), (32, 8), (40, 8), (72, 8), (80, 2), (82, 2)]
  | 0x46 => [(8, 1), (9, 1), (10, 2), (12, 4), (16, 8), (24, 8), (32, 8), (40, 2)]
  | 0x47 => [(8, 2), (12, 4), (16, 8), (24, 8), (32, 1), (40, 8), (48, 2)]
  | 0x48 => [(8, 2), (16, 8)]
  | 0x49 => [(8, 2), (12, 4)]
  | 0x4A => [(8, 2), (10, 1), (12, 4), (16, 8), (24, 8)]
  | 0x4B => [(8, 2)]
  | _ => []

def itemSlots (b : Bytes) : Nat := b.length / 64
def itemTag (b : Bytes) : Nat := fld b 4 4
def itemEnd (b : Bytes) : Bool := bit (fld b 2 2) 0
def itemIrq (b : Bytes) : Bool := bit (fld b 2 2) 1

/-- Reserved bytes of the body that are not zero (R12); slot bytes are framing, not body. -/
def reservedBad (b : Bytes) : List Nat :=
  let fs := bodyFields (itemOp b) (itemSlots b == 2)
  (List.range b.length).filter fun i =>
    decide (8 ≤ i) && i % 64 != 0 && !(fs.any fun f => decide (f.1 ≤ i) && decide (i < f.1 + f.2)) && fld b i 1 != 0

/-- The reserved bits of FLAGS (R41). -/
def flagsBad (b : Bytes) : List Nat := if fld b 2 2 / 4 = 0 then [] else [2]

/-- Offsets of the fields that meet their conditions. -/
def offsets (l : List (Nat × Bool)) : List Nat := (l.filter (·.2)).map (·.1)

/-- The lowest of the offending offsets (R397). -/
def lowest (l : List Nat) : Option Nat := l.min?

/-- The offending field of an item's body: reserved bytes, reserved FLAGS and the opcode's own conditions (R397). -/
def bodyBad (b : Bytes) (own : List (Nat × Bool)) : Option Nat := lowest (flagsBad b ++ reservedBad b ++ offsets own)

/-- Two intervals of addresses overlap. -/
def overlap (a la b lb : Nat) : Bool := decide (0 < la) && decide (0 < lb) && decide (a < b + lb) && decide (b < a + la)

/-! ### The shape of a ring command's step -/

/-- The command of an opcode's row, when it is STARTED with that opcode and has not run (DESIGN CHOICE, log entry 2). -/
def due (op q seq : Nat) (s : State) : Option Cmd :=
  if runs s then
    (cmd? s q seq).bind fun c => if c.st = .started && !c.ran && itemOp c.item == op then some c else none
  else none

/-- Runs a command once: its body is checked first (R397), and the command is marked as run. DEDUCED, log entry 15. -/
def runCmd (op q seq : Nat) (own : Cmd → State → List (Nat × Bool)) (f : Cmd → State → State) (s : State) : State :=
  match due op q seq s with
  | none => s
  | some c =>
    let s := onCmd q seq (fun x => { x with ran := true }) s
    match bodyBad c.item (own c s) with
    | some off => malformed q seq off s
    | none => f c s

/-! ### Queue descriptors (R34 to R37) -/

def sqLog (d : Bytes) : Nat := fld d 32 1
def cqLog (d : Bytes) : Nat := fld d 33 1
def sqSize (d : Bytes) : Nat := 2 ^ sqLog d
def cqSize (d : Bytes) : Nat := 2 ^ cqLog d
def qTdid (d : Bytes) : Nat := fld d 40 2
def qClass (d : Bytes) : Nat := fld d 34 1
def qTidings (d : Bytes) : Bool := bit (fld d 37 1) 0
def qIntMode (d : Bytes) : Nat := bits (fld d 37 1) 2 1

/-- The class of a command's streams and of what they write (R15, R137): 4 for the work of an epoch, 3 from an URGENT queue,
else 4 for a restore and 5 for the rest. -/
def cmdClass (s : State) (c : Cmd) : Nat :=
  let op := itemOp c.item
  if op = 0x40 ∨ op = 0x41 ∨ op = 0x42 ∨ op = 0x43 then 4
  else if (queue? s c.q).any fun x => qClass x.desc == 0 then 3
  else if op = 0x44 ∨ op = 0x45 ∨ op = 0x49 then 4
  else 5

/-- Offending fields of a queue descriptor (R35, R37). The reserved field of the table is reported at its offset 52.
WEIGHT 0 is refused of an URGENT queue too, though its value is ignored there; areas are tested with the sizes that
SQ_LOG2 and CQ_LOG2 spell even where these are out of range (DESIGN CHOICE, log entry 127). -/
def descBad (d : Bytes) (zero : Bool) : Option Nat :=
  let sq := fld d 0 8; let cq := fld d 8 8; let sw := fld d 16 8; let hs := fld d 24 8
  let sl := 64 * sqSize d; let cl := 16 * cqSize d; let wl := if sw = 0 then 0 else 8
  lowest (offsets [
    (0, sq == 0 || sq % 4096 != 0),
    (8, cq == 0 || cq % 4096 != 0 || overlap sq sl cq cl),
    (16, sw % 8 != 0 || overlap sq sl sw wl || overlap cq cl sw wl),
    (24, hs == 0 || hs % 16 != 0 || overlap sq sl hs 16 || overlap cq cl hs 16 || overlap sw wl hs 16),
    (32, decide (sqLog d < 4) || decide (16 < sqLog d)),
    (33, decide (cqLog d < 4) || decide (16 < cqLog d)),
    (34, decide (3 < qClass d) || (zero && qClass d != 0)),
    (35, fld d 35 1 == 0),
    (36, fld d 36 1 == 0 || decide (64 < fld d 36 1) || (zero && fld d 36 1 != 1)),
    (37, decide (7 < fld d 37 1) || qIntMode d == 3 || (qTidings d && qIntMode d != 0) || (zero && qTidings d)),
    (38, decide (2048 ≤ fld d 38 2)),
    (44, decide (2 ^ 18 ≤ fld d 44 4)),
    (52, fld d 52 12 != 0)])

/-- Offending fields of the event ring descriptor (R36). -/
def evDescBad (d : Bytes) : Option Nat :=
  lowest (offsets [
    (0, fld d 0 8 == 0 || fld d 0 8 % 4096 != 0),
    (8, decide (fld d 8 1 < 6) || decide (16 < fld d 8 1)),
    (9, fld d 9 1 != 0 && fld d 9 1 != 2),
    (10, decide (2048 ≤ fld d 10 2)),
    (14, fld d 14 50 != 0)])

/-! ### Plan entries (R86) -/

def entryAt (list : Bytes) (i : Nat) : Bytes := slice list (64 * i) 64
def entryCount (list : Bytes) : Nat := list.length / 64
def eKind (e : Bytes) : Nat := fld e 0 1
def eCodec (e : Bytes) : Nat := fld e 1 1
def eFormat (e : Bytes) : Nat := fld e 2 1
def eSel (e : Bytes) : Nat := fld e 3 1
def eFlags (e : Bytes) : Nat := fld e 4 2
def eLossy (e : Bytes) : Bool := bit (eFlags e) 0
def eDeferred (e : Bytes) : Bool := bit (eFlags e) 1
def eRepl (e : Bytes) : Bool := bit (eFlags e) 2
def eDelta (e : Bytes) : Bool := bit (eFlags e) 3
def eCheck (e : Bytes) : Bool := bit (eFlags e) 4
def eAddr (e : Bytes) : Nat := fld e 8 8
def eSize (e : Bytes) : Nat := fld e 16 8
def eStream (e : Bytes) : Nat := fld e 24 4
def eRow (e : Bytes) : Nat := fld e 28 2
def eOff (e : Bytes) : Nat := fld e 32 8
def eTrack (e : Bytes) : Nat := fld e 40 8
def hVault (l : Bytes) : Nat := fld l 4 4
def hDataKey (l : Bytes) : Nat := fld l 8 1
def hHmac (l : Bytes) : Nat := fld l 9 1
def hReplicas (l : Bytes) : Nat := fld l 12 4
def hIx (l : Bytes) : Nat := fld l 16 4
def hAbandon (l : Bytes) : Bool := bit (fld l 1 1) 0

/-- The entries that are neither HEADER nor VOID, with their index. -/
def liveEntries (list : Bytes) : List (Nat × Bytes) :=
  ((List.range (entryCount list)).map fun i => (i, entryAt list i)).filter fun e => eKind e.2 != 0 && eKind e.2 != 0xF

/-- Fabric bytes of an entry: SIZE, or SIZE × ROW_SIZE for a row table. -/
def eBytes (e : Bytes) : Nat := if eKind e = 2 then eSize e * eRow e else eSize e

/-- The current generation of a plan that is not withdrawn. -/
def current? (s : State) (plan : Nat) : Option Gen :=
  s.adm.gens.find? fun g => g.plan == plan && g.current && !g.withdrawn

def gen? (s : State) (plan num : Nat) : Option Gen := s.adm.gens.find? fun g => g.plan == plan && g.num == num

/-- The unit that holds a fabric address in a filter window: the filter whose window holds the whole range. -/
def windowOf (s : State) (addr len : Nat) : Option Nat :=
  (List.range 8).find? fun n =>
    let lo := plateBase s + 65536 * winFirst s n
    decide (0 < winLen s n) && decide (lo ≤ addr) && decide (addr + len ≤ lo + 65536 * winLen s n)

/-- A range lies in the filter windows, which may be several that touch. -/
def inWindows (s : State) (addr len : Nat) : Bool :=
  let ps := (List.range 8).map fun n => (plateBase s + 65536 * winFirst s n, 65536 * winLen s n)
  let cov := ps.foldl (fun a w => if w.2 = 0 then a else Iset.add a w.1 (w.1 + w.2)) []
  cov.any fun i => decide (i.1 ≤ addr) && decide (addr + len ≤ i.2)

/-! ### Keys (R206) -/

/-- KEY_ABSENT DETAIL of a slot used in a form, with the recorded KCV when there is one. -/
def keyBad (s : State) (slot form : Nat) (kcv : Option Bytes) : Option Nat :=
  match Tab.get? s.adm.keys slot with
  | none => some 0
  | some k => if k.form ≠ form ∨ (kcv.isSome ∧ kcv ≠ some k.kcv) then some 2 else none

def keyBytes (s : State) (slot : Nat) : Bytes := ((Tab.get? s.adm.keys slot).map (·.content)).getD []

/-- The KCV of key content in a form (R206). -/
def kcvOf (form : Nat) (c : Bytes) : Bytes :=
  if form = 3 then (hmac c []).take 8 else (aesEnc (c.take 32) (zeros 16)).take 8

end Sys2Proof.Machine
end

