-- ==== Sys2Proof/Machine/Registers.lean ====
section
/-! DEFINITION. The register port: immediate registers, castle transactions, safe points and the enabling of the rings
(R13, R37, R173, R199, R235, R270, R304, R305, R316, R322, R323, R366 to R379). -/

namespace Sys2Proof.Machine

/-! ### Castle transactions (R372 to R378) -/

/-- The proposed value of a shadowed register (R374). -/
def proposed (s : State) (off : Nat) : Nat := ((Tab.get? s.regs.shadow.staged off).map (·.toNat)).getD (sh s off)

def stagedAny (s : State) (offs : List Nat) : Bool := offs.any fun o => (Tab.get? s.regs.shadow.staged o).isSome

/-- The conditions of R375 in ascending register offset: reason, whether it is met, registers involved. -/
def refusals (s : State) : List (Nat × Bool × List Nat) :=
  let v := proposed s
  let win := fun n => (v (0x120 + 4 * n), v (0x140 + 4 * n))
  let qb := [0x40, 0x44, 0x48]
  let mb := [0x60, 0x64, 0x68]
  let st := v 0x400
  [(7, stagedAny s qb && (s.regs.qctl.enable || (v 0x40 == 0 && v 0x44 == 0)), qb),
   (8, stagedAny s mb && v 0x60 == 0 && v 0x64 == 0, mb),
   (1, bits (v 0x100) 22 0 != 0, [0x100])] ++
  ((List.range 8).map fun n => (1, decide (8388608 < (win n).2) ||
      (decide (0 < (win n).2) && decide (8388608 < (win n).1 + (win n).2)) ||
      ((List.range 8).any fun m => m != n && overlap (win n).1 (win n).2 (win m).1 (win m).2),
      [0x120 + 4 * n, 0x140 + 4 * n] ++ ((List.range 8).filter fun m => m != n &&
        overlap (win n).1 (win n).2 (win m).1 (win m).2).flatMap fun m => [0x120 + 4 * m, 0x140 + 4 * m])) ++
  [(2, bits st 3 0 == 0 || decide (8 < bits st 3 0) || decide (bits st 13 8 < 4) ||
      decide (bits st 3 0 * 8 * 2 ^ 20 < 32 * bits st 13 8 * 65536), [0x400]),
   (3, decide (bits (v 0x404) 11 0 < 125) || decide (2048 < bits (v 0x404) 11 0) || bits (v 0x404) 27 16 == 0, [0x404]),
   (4, v 0x40C == 0 || decide (262144 < v 0x40C), [0x40C]),
   (6, decide (2097152 < v 0x414) || decide (2 ^ 48 < v 0x410 * 65536 + 4096 * v 0x414), [0x410, 0x414]),
   (5, bits (v 0x700) 5 4 == 0, [0x700])]

/-- The refusal of the proposed configuration: REASON and REG (R372, R375). -/
def refusal? (s : State) : Option (Nat × Nat) :=
  ((refusals s).find? (·.2.1)).map fun r =>
    (r.1, ((r.2.2.filter fun o => (Tab.get? s.regs.shadow.staged o).isSome).min?.getD 0) / 4)

/-- A staged PLAN_PATCH ends CANCELLED with its transaction (R92, R379). One whose transaction a reset discarded waits for
REPLAY. -/
def dropPatch (s : State) : State :=
  match s.adm.stagedPatch with
  | none => s
  | some p => if p.lost then s else finish p.q p.seq 1 0 { s with adm.stagedPatch := none }

/-- A refusal: RESULT 2, REASON and REG, nothing changed (R374). -/
def castleRefuse (r : Nat × Nat) (s : State) : State :=
  dropPatch { s with
    regs.shadow.castle := { s.regs.shadow.castle with isOpen := false, pend := false, result := 2, reason := r.1, reg := r.2 }
    regs.shadow.staged := [] }

def castleMisuse (s : State) : State := { s with regs.shadow.castle.misuse := true }

def castleBegin (s : State) : State :=
  if !s.regs.shadow.castle.isOpen && !s.regs.shadow.castle.pend then
    { s with
      regs.shadow.castle := { s.regs.shadow.castle with isOpen := true, result := 0, reason := 0, reg := 0 }
      regs.shadow.staged := [] }
  else castleMisuse s

def castleCommit (s : State) : State :=
  if s.regs.shadow.castle.isOpen then
    let s := { s with regs.shadow.castle := { s.regs.shadow.castle with isOpen := false, pend := true } }
    match refusal? s with
    | some r => castleRefuse r s
    | none => s
  else castleMisuse s

def castleRollback (s : State) : State :=
  if s.regs.shadow.castle.isOpen || s.regs.shadow.castle.pend then
    dropPatch { s with
      regs.shadow.castle := { s.regs.shadow.castle with isOpen := false, pend := false, result := 3 }
      regs.shadow.staged := [] }
  else castleMisuse s

/-- The safe-point class conditions of the staged registers (R376). -/
def safePoint (s : State) : Bool :=
  let offs := s.regs.shadow.staged.map (·.1)
  let e := offs.any fun o => o == 0x100 || (decide (0x120 ≤ o) && decide (o < 0x160)) || o == 0x410 || o == 0x414
  let st := offs.contains 0x400
  let noEpoch := !(Tab.vals s.cap.epochs).any unresolved
  (!(e || st) || noEpoch) && (!st || s.str.ctxs.isEmpty)

/-- Brings the collecting bank to all ones and the other to zero (R116, R378). -/
def banksAllDirty (s : State) : State :=
  { s with
    cap.bank0 := if s.cap.coll then [] else [(0, 8388608)]
    cap.bank1 := if s.cap.coll then [(0, 8388608)] else []
    cap.capOf := 0 }

/-- A committed pending patch (R92). -/
def commitPatch (s : State) : State :=
  match s.adm.stagedPatch with
  | none => s
  | some p =>
    if p.lost then s else
    finish p.q p.seq 0 0 { s with
      adm.stagedPatch := none
      adm.gens := updWhere (fun g => g.plan == p.plan && g.current) (fun g => { g with pending := some p.recs }) s.adm.gens }

/-- The mirror registers of an apply: used at once, or waiting for LEDGER_COMPACT (R378). -/
def isMirror (o : Nat) : Bool := o == 0x60 || o == 0x64 || o == 0x68

/-- Applies the staged values in one cycle, with the further effects of R378. -/
def applyStaged (s : State) : State :=
  let offs := s.regs.shadow.staged.map (·.1)
  let wait := s.regs.qctl.sawReady
  let now := if wait then s.regs.shadow.staged.filter fun e => !isMirror e.1 else s.regs.shadow.staged
  let later := if wait then s.regs.shadow.staged.filter fun e => isMirror e.1 else []
  let s := { s with
    regs.shadow.applied := now.foldl (fun t e => Tab.put t e.1 e.2) s.regs.shadow.applied
    regs.shadow.mirrorWait := later.foldl (fun t e => Tab.put t e.1 e.2) s.regs.shadow.mirrorWait
    regs.shadow.staged := []
    regs.shadow.castle := { s.regs.shadow.castle with pend := false, result := 1, gen := s.regs.shadow.castle.gen + 1 } }
  let s := when (offs.any fun o => o == 0x100 || (decide (0x120 ≤ o) && decide (o < 0x160))) banksAllDirty s
  let s := when (offs.contains 0x404)
    (fun s => { s with str.tokens := min s.str.tokens (bits (sh s 0x404) 27 16 * 4096) }) s
  commitPatch s

/-! ### Enabling the rings (R37, R304, R70, R371) -/

def ringErr (src off : Nat) (s : State) : State :=
  { s with regs.qctl := { s.regs.qctl with enable := false, err := true, errSrc := src, errOff := off } }

/-- Starts a new journal: empty macros (R304). Channels that failed their built-in test at the reset stay retired. -/
def newJournal (s : State) : State :=
  { s with
    ring.queues := []
    ring.nextSeqOf := []
    ldg := { resetCause := s.ldg.resetCause, replayDue := s.ldg.replayDue }
    adm := { s.adm with
      vaults := [], grants := [], gens := [], keyRec := [], topo := [], topoSet := false, selfDev := none, selfGen := 0,
      fenceExp := [], fenceBy := 0, fenced := false, stagedPatch := none }
    cap.epochs := []
    flt.retired := s.flt.retired.filter fun e => e.2 == 3 }

/-- The mirror header's verdict: 0 all zero, 1 valid, 2 anything else (R304). `img` is the header and the first word of
the object image. -/
def headerKind (img : Bytes) : Nat :=
  let h := slice img 0 4096
  if h.all (· == 0) then 0
  else if slice h 0 4 = [0x4C, 0x44, 0x47, 0x4D] ∧ fld h 4 2 = 1 ∧ crcN (slice h 0 60) = fld h 60 4 ∧
      bits (fld h 8 4) 30 18 = 0 ∧ fld h 8 4 = fld img 4096 4 then 1
  else 2

/-- Queue 0 and the event ring come into service. -/
def ringsUp (d0 de : Bytes) (s : State) : State :=
  let q0 : Queue := match queue? s 0 with
    | some q => { q with desc := d0 }
    | none => { desc := d0, nextSeq := Tab.getD s.ring.nextSeqOf 0 1 }
  let cause : Event := ⟨0x0B03, 0, 0xFFFF, s.time.aon, 0, s.ldg.resetCause + 16 * b2n s.pins.rstOff⟩
  { s with
    ring.queues := Tab.put s.ring.queues 0 q0
    ring.ev := { s.ring.ev with desc := de, written := 0, head := 0, held := cause :: s.ring.ev.held }
    ldg.live := true
    ldg.replayDue := if s.ldg.resetCause = 2 then 1 else 2
    regs.qctl := { s.regs.qctl with ready := true, sawReady := true } }

/-- The reads of RING_ENABLE: the descriptors of queue 0 and of the event ring in the queue table that SC_QBASE names, and the ledger
header with the mirror behind it at SC_MIRROR (R33, R37, R304). -/
def enableReads (s : State) : State :=
  readCtl (queueBase s) (sh s 0x48) 64 1 (readCtl (queueBase s + 0x40000) (sh s 0x48) 64 1
    (readCtl (mirrorBase s) (sh s 0x68) (0x291000 + 32 * logWords) 1 s))

def ringEnableGo (desc0 evDesc mirror : HostRead) (s : State) : State :=
  let s := enableReads s
  let s := { s with regs.qctl := { s.regs.qctl with enable := true, err := false, errOff := 0, errSrc := 0 } }
  match desc0 with
  | none => ringErr 0 0xFF s
  | some d0 =>
    match descBad (slice d0 0 64) true with
    | some o => ringErr 0 o s
    | none =>
      match evDesc with
      | none => ringErr 1 0xFF s
      | some de =>
        match evDescBad (slice de 0 64) with
        | some o => ringErr 1 o s
        | none =>
          match mirror with
          | none => ringErr 2 0xFF s
          | some m =>
            match headerKind m with
            | 0 => ringsUp (slice d0 0 64) (slice de 0 64) (writeMirrorHeader (newJournal s))
            | 1 => ringsUp (slice d0 0 64) (slice de 0 64) s
            | _ => ringErr 2 0xFF s

/-- A write of RING_ENABLE 1 (R370, R379). DEDUCED, log entry 85. -/
def ringEnable (desc0 evDesc mirror : HostRead) (s : State) : State :=
  if s.regs.qctl.ready || s.regs.gasp.hold then s
  else if s.regs.shadow.castle.pend && stagedAny s [0x40, 0x44, 0x48] then
    { s with regs.enableWait := some (desc0, evDesc, mirror) }
  else ringEnableGo desc0 evDesc mirror s

/-- A ring enable that waited for a commit goes on (R379). -/
def enableResume (s : State) : State :=
  match s.regs.enableWait with
  | some w => if s.regs.shadow.castle.pend then s else ringEnableGo w.1 w.2.1 w.2.2 { s with regs.enableWait := none }
  | none => s

/-- A pending commit at a safe point in ACTIVE: tested once more and applied, or refused (R374, R376). -/
def castleTry (s : State) : State :=
  if s.regs.shadow.castle.pend && safePoint s then
    enableResume <| match refusal? s with
      | some r => castleRefuse r s
      | none => applyStaged s
  else s

/-! ### Meanings -/

def regWhen (f : State → State) (s : State) : Host.Outcome State Fault Refusal := .next (when (up s) f s)

def execCastleBegin (s : State) : Host.Outcome State Fault Refusal := regWhen castleBegin s
def execCastleCommit (s : State) : Host.Outcome State Fault Refusal := regWhen castleCommit s
def execCastleRollback (s : State) : Host.Outcome State Fault Refusal := regWhen (fun s => enableResume (castleRollback s)) s

def execCastleApply (s : State) : Host.Outcome State Fault Refusal :=
  .next (when (runs s && s.pwr.state == 0) castleTry s)

/-- R367, R373: staged while a transaction is open, otherwise dropped with MISUSE. -/
def stageWrite (off : Nat) (val : W32) (s : State) : State :=
  if isShadowed off then
    if s.regs.shadow.castle.isOpen then
      { s with regs.shadow.staged := Tab.put s.regs.shadow.staged off (val &&& BitVec.ofNat 32 (shMask off)) }
    else castleMisuse s
  else s

def execShadowedRegisterWrite (off : Nat) (val : W32) (s : State) : Host.Outcome State Fault Refusal :=
  regWhen (stageWrite off val) s

def execRingEnable (desc0 evDesc mirror : HostRead) (s : State) : Host.Outcome State Fault Refusal :=
  regWhen (ringEnable desc0 evDesc mirror) s

/-- R199: the running value replaced. -/
def execCrcValWrite (val : W32) (s : State) : Host.Outcome State Fault Refusal :=
  regWhen (fun s => { s with regs.crcRun := val }) s

/-- R199: `k` bytes folded, lowest-addressed first. -/
def crcIn (k : Nat) (val : W32) (s : State) : State :=
  { s with regs.crcRun := crcFold s.regs.crcRun (toLE k val.toNat) }

def execCrcIn8 (val : W32) (s : State) : Host.Outcome State Fault Refusal := regWhen (crcIn 1 val) s
def execCrcIn16 (val : W32) (s : State) : Host.Outcome State Fault Refusal := regWhen (crcIn 2 val) s
def execCrcIn32 (val : W32) (s : State) : Host.Outcome State Fault Refusal := regWhen (crcIn 4 val) s

def execXfCntClr (val : W32) (s : State) : Host.Outcome State Fault Refusal :=
  regWhen (when (val.getLsbD 0) fun s => { s with regs.xfSat := 0, regs.xfRail := 0 }) s

def execAssayClr (val : W32) (s : State) : Host.Outcome State Fault Refusal :=
  regWhen (when (val.getLsbD 0) fun s => { s with asy.counts := List.replicate 10 0 }) s

def execSpillClr (val : W32) (s : State) : Host.Outcome State Fault Refusal :=
  regWhen (when (val.getLsbD 0) fun s =>
    { s with spl.uncorr := 0, spl.replays := 0, spl.fenceDrops := 0, spl.refused := 0 }) s

def execEccClr (val : W32) (s : State) : Host.Outcome State Fault Refusal :=
  regWhen (when (val.getLsbD 0) fun s => { s with regs.eccCe := 0, regs.eccUe := 0, regs.eccLast := 0 }) s

def execBufClr (val : W32) (s : State) : Host.Outcome State Fault Refusal :=
  regWhen (when (val.getLsbD 0) fun s => { s with regs.bufNotHeld := 0, regs.bufForeign := 0 }) s

/-- R305: every mirror write still pending is reissued. A failed one is kept with four tries. -/
def mirrorRetry (s : State) : State :=
  { s with out.hb := s.out.hb.map fun r =>
      match r.kind with
      | .mirror .. | .grant .. | .image .. => if 4 ≤ r.tries then { r with tries := 0 } else r
      | _ => r }

def execMirrorRetry (val : W32) (s : State) : Host.Outcome State Fault Refusal :=
  regWhen (when (val.getLsbD 0 && !s.regs.gasp.hold) mirrorRetry) s

/-- R322, R323: SC_FLIP_CTL; a reserved store leaves ARM clear. -/
def flipArm (val : W32) (s : State) : State :=
  let m := bits val.toNat 12 8
  { s with regs.flip := { s.regs.flip with
      check := BitVec.ofNat 8 val.toNat, store := m, arm := val.getLsbD 16 && decide (m < 14) } }

def execFlipArm (val : W32) (s : State) : Host.Outcome State Fault Refusal := regWhen (flipArm val) s

/-- R316: VALID is W1C; HOLD and LSN stay. -/
def execLastGaspClear (val : W32) (s : State) : Host.Outcome State Fault Refusal :=
  regWhen (when (val.getLsbD 5) fun s => { s with regs.gasp := { s.regs.gasp with cause := 0, valid := false } }) s

/-- R369: the read latches the upper bits. -/
def execAonTimeLoRead (s : State) : Host.Outcome State Fault Refusal :=
  regWhen (fun s => { s with regs.aonHi := BitVec.ofNat 32 (s.time.aon / 2 ^ 32) }) s

/-- SC_CLK_STAT W1C bits (R364). -/
def clkClear (v : Nat) (c : Clk) : Clk :=
  { c with
    fabLost := c.fabLost && !bit v 16, hostifLost := c.hostifLost && !bit v 17, tapLost := c.tapLost && !bit v 18,
    hvLost := c.hvLost && !bit v 19, fabSlip := c.fabSlip && !bit v 20, rootLost := c.rootLost && !bit v 21 }

/-- A write of any other register (R13, R366): RW and W1C fields change at once, everything else is ignored. -/
def registerWrite (off : Nat) (val : W32) (s : State) : State :=
  if off = 0x20 then { s with regs.shadow.castle.misuse := s.regs.shadow.castle.misuse && !val.getLsbD 6 }
  else if off = 0x610 then { s with regs.keySel := bits val.toNat 8 0 }
  else if off = 0xA00 then { s with regs.flip.lo := val }
  else if off = 0xA04 then { s with regs.flip.hi := val }
  else if off = 0x84 then { s with regs.clk := clkClear val.toNat s.regs.clk }
  else s

def execRegisterWrite (off : Nat) (val : W32) (s : State) : Host.Outcome State Fault Refusal :=
  regWhen (registerWrite off val) s

end Sys2Proof.Machine
end

