-- ==== Sys2Proof/Machine/Msg.lean ====
section
/-! DEFINITION. Transaction messages: the topology records, the choice of a port, message headers, link frames and their
credits, requests (R245 to R249, R252, R256 to R258). -/

namespace Sys2Proof.Machine

/-! ### Topology records (R252) -/

def tDev (r : Bytes) : Nat := fld r 0 4
def tRole (r : Bytes) : Nat := fld r 4 1
def tIndex (r : Bytes) : Nat := fld r 5 1
def tPorts (r : Bytes) : Nat := fld r 6 1
def tVia (r : Bytes) : Nat := fld r 7 1
def tGen (r : Bytes) : Nat := fld r 8 4
def tRepl (r : Bytes) : Nat := fld r 12 4

/-- The record of a role and index. -/
def topoBy (s : State) (role ix : Nat) : Option Bytes := s.adm.topo.find? fun r => tRole r == role && tIndex r == ix

/-- A record of a device other than this one. -/
def topoDev (s : State) (d : Nat) : Option Bytes := s.adm.topo.find? fun r => tRole r != 0 && tDev r == d

/-- The device that holds a replica index of the group (R253). -/
def replicaDev (s : State) (ix : Nat) : Option Nat :=
  (s.adm.topo.find? fun r => tRole r == 3 && tRepl r == ix).map tDev

/-- The ports that lead to a device, directly or through its sink (R252). -/
def routeMask (s : State) (d : Nat) : Nat :=
  match topoDev s d with
  | none => 0
  | some r => if tVia r = 0xFF then tPorts r else ((topoBy s 2 (tVia r)).map tPorts).getD 0

/-- The direct peer that a message to a device goes through. -/
def hopOf (s : State) (d : Nat) : Nat :=
  match topoDev s d with
  | none => d
  | some r => if tVia r = 0xFF then d else ((topoBy s 2 (tVia r)).map tDev).getD d

/-- The generation expected from a device: the table's or one raised above it (R252, R262, R263). -/
def expectedGen (s : State) (d : Nat) : Nat :=
  max (((topoDev s d).map tGen).getD 0) (Tab.getD s.adm.fenceExp d 0)

/-- This device has fenced a peer: it expects a higher generation than the peer last carried. DEDUCED, log entry
114. -/
def peerFenced (s : State) (d : Nat) : Bool :=
  (Tab.get? s.spl.peers d).any fun p => p.heard && decide (p.gen < expectedGen s d)

def port? (s : State) (p : Nat) : Option Port := Tab.get? s.spl.ports p

/-- Blocks queued on a port, those left of the frame in progress among them. -/
def queuedBlocks (p : Port) : Nat := p.queued.foldl (fun a m => a + cdiv m.msg.length 32 + 1) p.tx.length

/-- The lanes of a port that work: not retired. -/
def workLanes (s : State) (p : Nat) : List Nat := (List.range 4).filter fun l => !retired s 0 (4 * p + l)

def inMask (m l : Nat) : Bool := m.testBit l

/-- Ports in service and up that lead to a device, whose peer is handshaken and not in CONFLICT (R249, R254, R255). -/
def upPorts (s : State) (d : Nat) : List Nat :=
  (List.range 4).filter fun p => bit (routeMask s d) p && !retired s 1 p && (port? s p).any (fun x => x.state == 5)

def routeUp (s : State) (d : Nat) : Bool :=
  !(upPorts s d).isEmpty && (Tab.get? s.spl.peers (hopOf s d)).any (fun x => x.ready && !x.conflict && !x.lost) &&
    !(Tab.get? s.spl.peers d).any (·.lost)

/-- The allowed port with the fewest blocks queued, the lowest on a tie (R249). -/
def bestPort (s : State) (d : Nat) : Option Nat :=
  (upPorts s d).foldl (fun best p =>
    let n := ((port? s p).map queuedBlocks).getD 0
    match best with
    | none => some p
    | some b => if n < ((port? s b).map queuedBlocks).getD 0 then some p else some b) none

/-! ### Frames (R245 to R248) -/

/-- The CRC of a control block and the block itself (R241). -/
def ctlBlock (b : Bytes) : Bytes := let c := slice b 0 28; c ++ toLE 4 (crcN c)

def padBlock (m : Bytes) : Bytes := slice m 0 (roundUp m.length 32)

/-- A FRAME block and its data blocks. -/
def frameBytes (vc fseq : Nat) (msg : Bytes) : Bytes :=
  let d := padBlock msg
  ctlBlock ([0x10] ++ toLE 1 vc ++ toLE 2 (d.length / 32) ++ toLE 4 fseq ++ toLE 4 (crcN d)) ++ d

def frameBlocks (msg : Bytes) : Nat := cdiv msg.length 32 + 1

/-- The credit rule: SENT + BLOCKS + 1 − CRED at most 0 as a signed 32-bit value (R247). -/
def creditOk (p : Port) (vc : Nat) (msg : Bytes) : Bool :=
  let x := BitVec.ofNat 32 (p.sent.getD vc 0 + frameBlocks msg) - BitVec.ofNat 32 (p.cred.getD vc 0)
  decide (x.toInt ≤ 0)

/-! ### Messages (R256, R257) -/

structure Msg where
  mtype : Nat
  status : Nat := 0
  flags : Nat := 0
  dst : Nat
  tag : Nat := 0
  vault : Nat := 0
  epoch : Nat := 0
  count : Nat := 0
  sector : Nat := 0
  stride : Nat := 0
  pvault : Nat := 0
  arg : Nat := 0
  body : Bytes := []
  /-- class and context of what produces it (R249) -/
  cls : Nat := 1
  ctx : Option Nat := none
  deriving DecidableEq, Repr

/-- The bytes of a message: the 64 B header and the body. -/
def msgBytes (s : State) (m : Msg) : Bytes :=
  toLE 1 m.mtype ++ toLE 1 m.status ++ toLE 2 m.flags ++ toLE 4 (s.adm.selfDev.getD 0) ++ toLE 4 m.dst ++
    toLE 4 s.adm.selfGen ++ toLE 8 m.tag ++ toLE 4 (64 + m.body.length) ++ toLE 4 m.vault ++ toLE 4 m.epoch ++
    toLE 2 m.count ++ zeros 2 ++ toLE 8 m.sector ++ toLE 4 m.stride ++ toLE 4 m.pvault ++ toLE 8 m.arg ++ m.body

/-- The virtual channel of a type (R245, R257). -/
def vcOf (mtype : Nat) : Nat :=
  if mtype = 0x10 then 1 else if mtype = 0x13 then 2 else if mtype = 0x20 ∨ mtype = 0x21 then 3 else 0

/-- A message joins those that wait on a port. -/
def queueMsg (p : Nat) (m : OutMsg) : State → State := onPort p fun x => { x with queued := x.queued ++ [m] }

/-- Queues a message on a port. In the fenced state only HELLO_ACK and FENCED leave (R263); in FAULT_HOLD none (R315). -/
def sendOn (p : Nat) (m : Msg) (s : State) : State :=
  if s.regs.gasp.hold ∨ (s.adm.fenced ∧ m.mtype ≠ 2 ∧ m.mtype ≠ 4) then s else
  queueMsg p { vc := vcOf m.mtype, msg := msgBytes s m, cls := m.cls, ctx := m.ctx } s

/-- The record of a replica or correspondent that is not kept on-block is read from the table, in class 1; 1,024 others that were
used last are kept (R15, R252). -/
def useRecord (d : Nat) (s : State) : State :=
  match s.adm.topoMem.findIdx? fun r => tDev r == d with
  | none => s
  | some i =>
    if ((s.adm.topoMem[i]?).map tRole).getD 0 < 3 then s else
    let s := if s.adm.topoUsed.contains i then s else readCtl (s.adm.topoAddr + 32 * i) s.adm.topoTdid 32 1 s
    { s with adm.topoUsed := (i :: s.adm.topoUsed.erase i).take 1024 }

/-- Sends a message to a device on its best port; nothing when none is up. -/
def send (m : Msg) (s : State) : State :=
  let s := useRecord m.dst s
  match bestPort s m.dst with
  | none => s
  | some p => if routeUp s m.dst ∨ m.mtype ≤ 2 then sendOn p m s else s

/-- Sends a request and keeps it for resending (R258). -/
def request (m : Msg) (r : Req) (s : State) : State :=
  let m := { m with tag := s.spl.nextTag }
  send m { s with
    spl.reqs := s.spl.reqs ++ [{ r with
      tag := m.tag, peer := m.dst, mtype := m.mtype, msg := msgBytes s m, cls := m.cls, ctx := m.ctx }]
    spl.nextTag := (s.spl.nextTag + 1) % 2 ^ 64 }

/-! ### Header fields of a received message -/

def mType (m : Bytes) : Nat := fld m 0 1
def mStatus (m : Bytes) : Nat := fld m 1 1
def mFlags (m : Bytes) : Nat := fld m 2 2
def mSrc (m : Bytes) : Nat := fld m 4 4
def mDst (m : Bytes) : Nat := fld m 8 4
def mGen (m : Bytes) : Nat := fld m 12 4
def mTag (m : Bytes) : Nat := fld m 16 8
def mLen (m : Bytes) : Nat := fld m 24 4
def mVault (m : Bytes) : Nat := fld m 28 4
def mEpoch (m : Bytes) : Nat := fld m 32 4
def mCount (m : Bytes) : Nat := fld m 36 2
def mSector (m : Bytes) : Nat := fld m 40 8
def mStride (m : Bytes) : Nat := fld m 48 4
def mPvault (m : Bytes) : Nat := fld m 52 4
def mArg (m : Bytes) : Nat := fld m 56 8
def mBody (m : Bytes) : Bytes := m.drop 64

/-! ### Vaults and their peers (R77) -/

def vWhere (v : Vault) : Nat := fld v.item 12 1
def vBase (v : Vault) : Nat := fld v.item 16 8
def vSectors (v : Vault) : Nat := fld v.item 24 8
def vRemote (v : Vault) : Nat := fld v.item 32 4
def vTdid (v : Vault) : Nat := fld v.item 40 2
def vExport (v : Vault) : Option Nat := if bit (fld v.item 14 2) 0 then some (fld v.item 36 4) else none

/-- The device of a peer vault. -/
def vPeer (s : State) (v : Vault) : Option Nat :=
  if vWhere v = 0 then none
  else (topoBy s (if vWhere v = 1 then 1 else 2) (fld v.item 13 1)).map tDev

def vault? (s : State) (id : Nat) : Option Vault := Tab.get? s.adm.vaults id

/-- Issues the write of one sector of a vault: a host-bridge write, or a SECTOR_WRITE to the peer (R259). -/
def writeSector (vid : Nat) (v : Vault) (sector epoch : Nat) (data : Bytes) (kind : HbKind) (r : Req) (flags arg : Nat)
    (s : State) : State :=
  let ctx := (s.str.ctxs.find? fun c => c.2.epoch == epoch && c.2.kind == 6).map (·.1)
  if vWhere v = 0 then
    hbSector kind (vBase v + 4096 * sector) (vTdid v) sector 4 ctx data s
  else
    match vPeer s v with
    | none => s
    | some d =>
      let m : Msg := {
        mtype := 0x10, dst := d, flags := flags, vault := vRemote v, epoch := epoch, count := 1, sector := sector
        stride := 1, pvault := vid, arg := arg, body := data, cls := 4, ctx }
      request m r s

end Sys2Proof.Machine
end

