-- ==== Sys2Proof/Machine/Codec.lean ====
section
/-! DEFINITION. The transforms of Crucible on blocks of bytes: the host number formats (R162), the lossless codec L
(R167 to R171), the requantizer (R172), the fixed-rate codecs F2 and F4 (R174 to R176) and delta (R178, R179). -/

namespace Sys2Proof

/-! ### Encoded blocks and codec L -/

/-- Bits of a byte, least significant first (R169: bit i is bit i mod 8). -/
def byteBits (b : Byte) : List Bool := (List.range 8).map b.getLsbD

/-- The bits of bytes in stream order. -/
def toBits (bs : Bytes) : List Bool := bs.flatMap byteBits

/-- A number from bits, the least significant first. -/
def bitsNat : List Bool → Nat
  | [] => 0
  | b :: r => b2n b + 2 * bitsNat r

/-- `n` bits of a number, the least significant first. -/
def natBits (n k : Nat) : List Bool := (List.range n).map k.testBit

/-- Bytes from bits, the last byte padded with zero bits. -/
def ofBits (l : List Bool) : Bytes :=
  (chunks (l.length / 8 + 1) 8 l).map fun c => BitVec.ofNat 8 (bitsNat c)

/-- The symbols of a code in canonical order: by length, then by value (R168). -/
def canonOrder (lens : List Nat) : List (Nat × Nat) :=
  (List.range 16).flatMap fun l => if l = 0 then [] else
    ((List.range lens.length).filter fun s => lens.getD s 0 = l).map fun s => (s, l)

/-- Canonical codes: each symbol with its code bits, the most significant first (R168). -/
def canonCodes (lens : List Nat) : List (Nat × List Bool) :=
  let go := fun (acc : Nat × Nat × List (Nat × List Bool)) (sl : Nat × Nat) =>
    let code := if acc.2.1 = 0 then 0 else (acc.1 + 1) * 2 ^ (sl.2 - acc.2.1)
    (code, sl.2, (sl.1, (natBits sl.2 code).reverse) :: acc.2.2)
  ((canonOrder lens).foldl go (0, 0, [])).2.2.reverse

/-- The code of a symbol. -/
def codeOf (codes : List (Nat × List Bool)) (s : Nat) : List Bool :=
  ((codes.find? fun c => c.1 = s).map (·.2)).getD []

/-- The lengths are a complete prefix code: their Kraft sum is 1 (R168). -/
def kraftComplete (lens : List Nat) : Bool :=
  (lens.foldl (fun a l => a + if l = 0 then 0 else 2 ^ (15 - l)) 0) == 2 ^ 15

/-- Lengths of G, H and L of a table set (R168): G LIT, ZERO, ZRUN, RAW, FILL, REPEAT. -/
def lensG : List Nat := [1, 3, 3, 3, 4, 4]

/-- Lengths of the high-nibble code, both sets. -/
def lensH : List Nat := [1, 4, 6, 6, 7, 7, 7, 7, 7, 7, 7, 7, 6, 6, 4, 2]

/-- Lengths of the low-nibble code of set A or B. -/
def lensL (setB : Bool) : List Nat := if setB then lensH else List.replicate 16 4

/-- Table set B is used for FORMAT 1 and 2 (R168). -/
def setOfFormat (fmt : Nat) : Bool := fmt == 1 || fmt == 2

/-- Four-bit lengths packed, symbol 0 in the low nibble of the first byte. -/
def packNibbles (lens : List Nat) : Bytes :=
  (chunks lens.length 2 lens).map fun p => BitVec.ofNat 8 (p.headD 0 + 16 * p.getD 1 0)

/-- The lengths packed in bytes. -/
def unpackNibbles (bs : Bytes) : List Nat := bs.flatMap fun b => [b.toNat % 16, b.toNat / 16]

/-- The 24 B code-table record of an encoder (R168). -/
def codeTable (setB : Bool) : Bytes :=
  [BitVec.ofNat 8 (b2n setB), 0, 0, 0] ++ packNibbles lensG ++ packNibbles lensH ++ packNibbles (lensL setB) ++ [0]

/-- A reader's code table: the lengths of G, H, L; `none` when the record is damaged (R168). -/
def readCodeTable (r : Bytes) : Option (List Nat × List Nat × List Nat) :=
  let g := unpackNibbles (slice r 4 3)
  let h := unpackNibbles (slice r 7 8)
  let l := unpackNibbles (slice r 15 8)
  if fld r 0 1 ≤ 1 ∧ fld r 1 3 = 0 ∧ fld r 23 1 = 0 ∧ kraftComplete g ∧ kraftComplete h ∧ kraftComplete l
  then some (g, h, l) else none

/-- The 64 B granules of a block, the last padded with zeros (R169). -/
def granules (src : Bytes) : List Bytes :=
  (chunks (src.length / 64 + 1) 64 src).map fun g => g ++ zeros (64 - g.length)

/-- The LIT bits of a granule after its token. -/
def litBits (h l : List (Nat × List Bool)) (g : Bytes) : List Bool :=
  (g.flatMap fun b => codeOf h (b.toNat / 16)) ++ (g.flatMap fun b => codeOf l (b.toNat % 16))

/-- All bytes of a granule are equal. -/
def allEq (g : Bytes) : Bool := g.all (· == g.headD 0)

/-- The leading all-zero granules. -/
def zeroRun (gs : List Bytes) : Nat := (gs.takeWhile fun g => g.all (· == 0)).length

/-- The token choice of the encoder (R170); `fuel` bounds the granules. -/
def encodeGranules (fuel : Nat) (cg ch cl : List (Nat × List Bool)) (prev : Option Bytes) (gs : List Bytes) :
    List Bool :=
  match fuel, gs with
  | 0, _ => []
  | _, [] => []
  | k + 1, g :: rest =>
    let r := zeroRun gs
    let lit := litBits ch cl g
    let next := fun (tok : List Bool) => tok ++ encodeGranules k cg ch cl (some g) rest
    if 5 ≤ r then
      codeOf cg 2 ++ natBits 10 (r - 2) ++ encodeGranules k cg ch cl (some g) (gs.drop r)
    else if 1 ≤ r then next (codeOf cg 1)
    else if prev = some g then next (codeOf cg 5)
    else if allEq g then next (codeOf cg 4 ++ natBits 8 (g.headD 0).toNat)
    else if 1 + lit.length ≤ 515 then next (codeOf cg 0 ++ lit)
    else next (codeOf cg 3 ++ toBits g)

/-- The bit stream of a block under a table set (R169, R170). -/
def encodeBitsL (setB : Bool) (src : Bytes) : List Bool :=
  let gs := granules src
  encodeGranules gs.length (canonCodes lensG) (canonCodes lensH) (canonCodes (lensL setB)) none gs

/-- A block stored: BMODE 0x00 and the source bytes (R167). -/
def storedBlock (src : Bytes) : Bytes := [0, 0] ++ toLE 2 (src.length - 1) ++ zeros 4 ++ src

/-- The L block of source bytes (R167, R170). -/
def encodeL (setB : Bool) (src : Bytes) : Bytes :=
  let bs := encodeBitsL setB src
  if src.length ≤ cdiv bs.length 8 then storedBlock src
  else [1, 0] ++ toLE 2 (src.length - 1) ++ toLE 4 bs.length ++ ofBits bs

/-- One symbol of a prefix code: the symbol and the bits after it. -/
def decodeSym (codes : List (Nat × List Bool)) (l : List Bool) : Option (Nat × List Bool) :=
  (codes.find? fun c => c.2.isPrefixOf l).map fun c => (c.1, l.drop c.2.length)

/-- `n` symbols. -/
def decodeSyms (n : Nat) (codes : List (Nat × List Bool)) (l : List Bool) : Option (List Nat × List Bool) :=
  match n with
  | 0 => some ([], l)
  | k + 1 => (decodeSym codes l).bind fun s => (decodeSyms k codes s.2).map fun t => (s.1 :: t.1, t.2)

/-- The granules of a coded block; `none` is an invalid construct, cause 4 of R189. -/
def decodeGranules (fuel want : Nat) (cg ch cl : List (Nat × List Bool)) (prev : Option Bytes) (l : List Bool) :
    Option (List Bytes × List Bool) :=
  match fuel with
  | 0 => if want = 0 then some ([], l) else none
  | k + 1 =>
    if want = 0 then some ([], l) else
    (decodeSym cg l).bind fun t =>
      let one := fun (g : Bytes) (rest : List Bool) =>
        (decodeGranules k (want - 1) cg ch cl (some g) rest).map fun x => (g :: x.1, x.2)
      let z := zeros 64
      if t.1 = 0 then
        (decodeSyms 64 ch t.2).bind fun h => (decodeSyms 64 cl h.2).bind fun lo =>
          one ((h.1.zip lo.1).map fun p => BitVec.ofNat 8 (16 * p.1 + p.2)) lo.2
      else if t.1 = 1 then one z t.2
      else if t.1 = 2 then
        let n := bitsNat (t.2.take 10)
        if t.2.length < 10 ∨ n = 1023 ∨ want < n + 2 then none
        else (decodeGranules k (want - (n + 2)) cg ch cl (some z) (t.2.drop 10)).map fun x =>
          (List.replicate (n + 2) z ++ x.1, x.2)
      else if t.1 = 3 then if t.2.length < 512 then none else one (ofBits (t.2.take 512)) (t.2.drop 512)
      else if t.1 = 4 then
        if t.2.length < 8 then none
        else one (List.replicate 64 (BitVec.ofNat 8 (bitsNat (t.2.take 8)))) (t.2.drop 8)
      else match prev with
        | none => none
        | some g => one g t.2

/-- The result of decoding a block: its bytes, or the damage cause of R189. -/
inductive Decoded where
  | ok (d : Bytes)
  | damaged (cause : Nat)
  deriving DecidableEq, Repr

/-- Decodes an L block of `elen` encoded bytes by the index that must decode to `want` bytes (R167, R168, R171). -/
def decodeL (table : Bytes) (enc : Bytes) (elen want : Nat) : Decoded :=
  match readCodeTable table with
  | none => .damaged 1
  | some (g, h, l) =>
    let mode := fld enc 0 1
    let len := fld enc 2 2 + 1
    let body := fld enc 4 4
    if 1 < mode ∨ fld enc 1 1 ≠ 0 ∨ (mode = 0 ∧ body ≠ 0) then .damaged 1
    else if len ≠ want then .damaged 2
    else if elen ≠ 8 + (if mode = 0 then len else cdiv body 8) then .damaged 3
    else if mode = 0 then .ok (slice enc 8 len)
    else
      let all := toBits (slice enc 8 (cdiv body 8))
      let gn := cdiv len 64
      match decodeGranules gn gn (canonCodes g) (canonCodes h) (canonCodes l) none (all.take body) with
      | none => .damaged 4
      | some (gs, rest) =>
        let out := gs.flatten
        if !rest.isEmpty || (all.drop body).any id || (out.drop len).any (· != 0) then .damaged 4
        else .ok (out.take len)

/-! ### Requantization (R172) -/

/-- The rails of a width: clamps and says whether it clamped. -/
def clampW (w : Nat) (y : Int) : Int × Bool :=
  let lo : Int := -(2 ^ (w - 1) : Nat)
  let hi : Int := (2 ^ (w - 1) : Nat) - 1
  if y < lo then (lo, true) else if hi < y then (hi, true) else (y, false)

/-- The rounded shift of R172 before the clamp: NEAREST to even, or STOCHASTIC with the LFSR value `u`. -/
def rqShift (x : Int) (k : Nat) (stoch : Option Nat) : Int :=
  if k = 0 then x else
  let p : Int := (2 ^ k : Nat)
  match stoch with
  | some u => (x + (u % 2 ^ k : Nat)).fdiv p
  | none =>
    let y := x.fdiv p
    let r := x.fmod p
    let h : Int := (2 ^ (k - 1) : Nat)
    if h < r ∨ (r = h ∧ y.fmod 2 = 1) then y + 1 else y

/-- rq(x, k, w, mode) and whether it clamped (R172). -/
def rq (x : Int) (k w : Nat) (stoch : Option Nat) : Int × Bool := clampW w (rqShift x k stoch)

/-- One step of the Galois register (R172). -/
def lfsrStep (s : W32) : W32 := if s.getLsbD 0 then (s >>> 1) ^^^ 0x80200003#32 else s >>> 1

/-- The seed of an F block or recipe invocation (R172). -/
def lfsrSeed (stream epoch block : Nat) : W32 :=
  let s := BitVec.ofNat 32 stream ^^^ (BitVec.ofNat 32 epoch).rotateLeft 16 ^^^ BitVec.ofNat 32 block
    ^^^ BitVec.ofNat 32 (block / 2 ^ 32)
  if s = 0 then 1 else s

/-- The signed bit length of an integer: the smallest n ≥ 1 with x in [−2^(n−1), 2^(n−1) − 1] (R176). -/
def signedLen (x : Int) : Nat :=
  let m := if x < 0 then (-x - 1).toNat else x.toNat
  if m = 0 then 1 else Nat.log2 m + 2

/-- The signed bit length of a set. -/
def signedLens (xs : List Int) : Nat := xs.foldl (fun a x => max a (signedLen x)) 1

/-- The signed value of the low `w` bits of a number. -/
def sext (w n : Nat) : Int :=
  let m := n % 2 ^ w
  if 2 ^ (w - 1) ≤ m then (m : Int) - (2 ^ w : Nat) else m

/-- The low `w` bits of an integer. -/
def wrapN (w : Nat) (x : Int) : Nat := (x.emod (2 ^ w : Nat)).toNat

/-! ### Formats (R162) -/

/-- Element width of FORMAT 1 to 5. -/
def fmtWidth (f : Nat) : Nat := [8, 2, 4, 8, 16, 32].getD f 8

/-- Unit size of a FORMAT in bytes. -/
def fmtUnit (f : Nat) : Nat := [1, 256, 256, 256, 512, 1024].getD f 1

/-- Element blocks of a unit of FORMAT 1 to 3. -/
def fmtBlocks (f : Nat) : Nat := [0, 28, 14, 7, 1, 1].getD f 0

/-- Elements of width `w` of bytes, element i in bits [i·w + w − 1 : i·w] (R162). -/
def elems (w : Nat) (bs : Bytes) : List Int :=
  (chunks (8 * bs.length / w + 1) w (toBits bs)).map fun c => sext w (bitsNat c)

/-- Elements packed at width `w`. -/
def packElems (w : Nat) (xs : List Int) : Bytes := ofBits (xs.flatMap fun x => natBits w (wrapN w x))

/-- An element block: its exponent and its elements. -/
structure EBlock where
  e : Int
  q : List Int
  deriving DecidableEq, Repr

/-- The element blocks of a byte string of FORMAT 1 to 5, unit by unit (R162). A short last unit reads as if padded
with zeros. -/
def eblocks (f : Nat) (bs : Bytes) : List EBlock :=
  (chunks (bs.length / fmtUnit f + 1) (fmtUnit f) bs).flatMap fun u0 =>
    let u := slice u0 0 (fmtUnit f)
    if f ≤ 3 then
      let per := 4 * fmtWidth f
      (List.range (fmtBlocks f)).map fun i =>
        ⟨sext 8 (fld u i 1), elems (fmtWidth f) (slice u (32 + per * i) per)⟩
    else
      let xs := elems (fmtWidth f) u
      [⟨sext 8 (fld u 0 1), xs.drop 1⟩]

/-- Units from element blocks; reserved bytes are written as zero, the upper bits of slot 0 as the sign extension
(R162, R176). -/
def ofEblocks (f : Nat) (bl : List EBlock) : Bytes :=
  if f ≤ 3 then
    (chunks (bl.length / fmtBlocks f + 1) (fmtBlocks f) bl).flatMap fun u =>
      let ex := u.map fun b => BitVec.ofNat 8 (wrapN 8 b.e)
      ex ++ zeros (32 - ex.length) ++ u.flatMap fun b => packElems (fmtWidth f) b.q
  else bl.flatMap fun b => packElems (fmtWidth f) (b.e :: b.q)

/-- The rail elements of bytes of FORMAT 1 or 2 (R173). -/
def railCount (f : Nat) (bs : Bytes) : Nat :=
  if f = 1 ∨ f = 2 then
    let w := fmtWidth f
    let hi : Int := (2 ^ (w - 1) : Nat) - 1
    (chunks (bs.length / 256 + 1) 256 bs).foldl (fun a u =>
      a + ((elems w (u.drop 32)).filter fun x => x = hi ∨ x = -(hi + 1)).length) 0
  else 0

/-- The elements of bytes of a FORMAT that a stream's thresholds count (R173). -/
def elemCount (f : Nat) (bs : Bytes) : Nat :=
  match f with
  | 0 => bs.length
  | 1 | 2 => (chunks (bs.length / 256 + 1) 256 bs).foldl (fun a u => a + (u.length - 32) * 8 / fmtWidth f) 0
  | 3 => bs.length / 256 * 224
  | 4 => bs.length / 512 * 255
  | _ => bs.length / 1024 * 255

/-! ### Fixed-rate codecs (R174 to R176) -/

/-- Output width of codec 2 (F2) or 3 (F4) for a FORMAT, 0 when the pair is not allowed (R163). -/
def fWidth (codec f : Nat) : Nat :=
  if codec = 2 then [0, 0, 2, 4, 8, 16].getD f 0 else if codec = 3 then [0, 0, 0, 2, 0, 8].getD f 0 else 0

/-- Element blocks per F block: eight of FORMAT 1 to 3, one of 4 and 5 (R174). -/
def fGroup (f : Nat) : Nat := if f ≤ 3 then 8 else 1

/-- Encoded bytes S of an F block (R175). -/
def fSize (codec f : Nat) : Nat := if f ≤ 3 then 8 + 32 * fWidth codec f else 32 * fWidth codec f

/-- F blocks of a 64 KiB extent (R175). -/
def fPerExtent (f : Nat) : Nat := 65536 / fmtUnit f * fmtBlocks f / fGroup f

/-- F blocks of an extent of `len` decoded bytes: a short last extent is padded to a whole F block (R174). -/
def fCount (f len : Nat) : Nat := cdiv (cdiv len (fmtUnit f) * fmtBlocks f) (fGroup f)

/-- The requantized values of a block with shift `k`, the LFSR stepping for every element (R176). -/
def rqStoch (k w : Nat) (s : W32) : List Int → List Int × Nat × W32
  | [] => ([], 0, s)
  | x :: r =>
    let s1 := lfsrStep s
    let y := rq x k w (some s1.toNat)
    let t := rqStoch k w s1 r
    (y.1 :: t.1, b2n y.2 + t.2.1, t.2.2)

/-- The rail of a value's sign, zero staying zero. -/
def railOf (w : Nat) (y : Int) : Int :=
  if y < 0 then -(2 ^ (w - 1) : Nat) else if 0 < y then (2 ^ (w - 1) : Nat) - 1 else 0

/-- R176's exponent clamp: the block and the saturations it counts. -/
def clampExp (w : Nat) (b : EBlock) : EBlock × Nat :=
  if 127 < b.e then (⟨127, b.q.map (railOf w)⟩, (b.q.filter (· ≠ 0)).length) else (b, 0)

/-- Encodes values at an exponent: the block, its saturations and the LFSR after it (R176). -/
def encodeE (wo : Nat) (s : W32) (b : EBlock) : EBlock × Nat × W32 :=
  let k := signedLens b.q - wo
  let t := rqStoch k wo s b.q
  let c := clampExp wo ⟨b.e + k, t.1⟩
  (c.1, t.2.1 + c.2, t.2.2)

/-- A value moved to the common exponent `em`: left, or right to the nearest even (R179). -/
def alignTo (em e : Int) (q : Int) : Int :=
  if em ≤ e then q * (2 ^ (e - em).toNat : Nat) else rqShift q (em - e).toNat none

/-- The common exponent of two exponents (R179). -/
def commonExp (e er : Int) : Int := max (min e er) (max e er - 24)

/-- The difference of a source block against the anchor's block (R179). -/
def diffBlock (b r : EBlock) : EBlock :=
  let em := commonExp b.e r.e
  ⟨em, b.q.zipWith (fun x y => alignTo em b.e x - alignTo em r.e y) r.q⟩

/-- The reader's sum of a decoded difference and the anchor's block, requantized to width `wi`, with its saturations (R173,
R179). -/
def sumBlock (wi : Nat) (d r : EBlock) : EBlock × Nat :=
  let em := commonExp d.e r.e
  let v := d.q.zipWith (fun x y => alignTo em d.e x + alignTo em r.e y) r.q
  let k := signedLens v - wi
  let y := v.map fun x => rq x k wi none
  let c := clampExp wi ⟨em + k, y.map (·.1)⟩
  (c.1, y.foldl (fun a x => a + b2n x.2) 0 + c.2)

/-- The bytes of one encoded F block (R175). -/
def packF (f wo : Nat) (bl : List EBlock) : Bytes :=
  if f ≤ 3 then
    (bl.map fun b => BitVec.ofNat 8 (wrapN 8 b.e)) ++ bl.flatMap fun b => packElems wo b.q
  else bl.flatMap fun b => packElems wo (b.e :: b.q)

/-- Encodes the element blocks of one F block from its seed. -/
def encodeFBlock (wo : Nat) (s : W32) : List EBlock → List EBlock × Nat
  | [] => ([], 0)
  | b :: r =>
    let x := encodeE wo s b
    let t := encodeFBlock wo x.2.2 r
    (x.1 :: t.1, x.2.1 + t.2)

/-- The element blocks of an extent padded with zero blocks to whole F blocks (R174). -/
def padBlocks (f n : Nat) (bl : List EBlock) : List EBlock :=
  let z : EBlock := ⟨0, List.replicate (if f ≤ 3 then 32 else 255) 0⟩
  bl ++ List.replicate (n - bl.length) z

/-- The encoded extent and its saturations: `first` is the index of its first F block in the ingot; an anchor's decoded
extent gives delta (R176, R179). -/
def encodeF (codec f stream epoch first : Nat) (anchor : Option Bytes) (src : Bytes) : Bytes × Nat :=
  let wo := fWidth codec f
  let n := fCount f src.length
  let bl := padBlocks f (n * fGroup f) (eblocks f src)
  let bl' := match anchor with
    | none => bl
    | some a => bl.zipWith diffBlock (padBlocks f (n * fGroup f) (eblocks f a))
  let fs := chunks (n + 1) (fGroup f) bl'
  let r := ((List.range fs.length).zip fs).map fun p =>
    let x := encodeFBlock wo (lfsrSeed stream epoch (first + p.1)) p.2
    (packF f wo x.1, x.2)
  (r.flatMap (·.1), r.foldl (fun a x => a + x.2) 0)

/-- The element blocks of one encoded F block. -/
def unpackF (f wo : Nat) (bs : Bytes) : List EBlock :=
  if f ≤ 3 then
    (List.range 8).map fun i => ⟨sext 8 (fld bs i 1), elems wo (slice bs (8 + 4 * wo * i) (4 * wo))⟩
  else
    let xs := elems wo bs
    [⟨sext 8 (fld bs 0 1), xs.drop 1⟩]

/-- An exponent slot of I16 or I32 holds the sign extension of its low byte (R176). -/
def slotOk (f wo : Nat) (bs : Bytes) : Bool :=
  f ≤ 3 || sext wo (fld bs 0 (wo / 8)) == sext 8 (fld bs 0 1)

/-- A decoded block at the source width, without delta (R176). -/
def decodeE (wi wo : Nat) (b : EBlock) : EBlock :=
  let eo := max (-128) (b.e - ((wi : Int) - wo))
  ⟨eo, b.q.map fun y => y * (2 ^ (b.e - eo).toNat : Nat)⟩

/-- Decodes an extent of `want` decoded bytes, with its saturations (R173, R175, R176, R179). -/
def decodeF (codec f : Nat) (anchor : Option Bytes) (enc : Bytes) (elen want : Nat) : Decoded × Nat :=
  let wo := fWidth codec f
  let wi := fmtWidth f
  let n := fCount f want
  let s := fSize codec f
  if elen ≠ n * s then (.damaged 3, 0) else
  let raw := chunks (n + 1) s enc
  let bl := raw.flatMap (unpackF f wo)
  let keep := cdiv want (fmtUnit f) * fmtBlocks f
  if raw.any (fun r => !slotOk f wo r) || (bl.drop keep).any (fun b => b.e != 0 || b.q.any (· != 0)) then (.damaged 5, 0)
  else
    let out := match anchor with
      | none => bl.map fun b => (decodeE wi wo b, 0)
      | some a => bl.zipWith (sumBlock wi) (padBlocks f bl.length (eblocks f a))
    (.ok ((ofEblocks f ((out.take keep).map (·.1))).take want), (out.take keep).foldl (fun a b => a + b.2) 0)

end Sys2Proof
end

