-- ==== Sys2Proof/Machine/Recipe.lean ====
section
/-! DEFINITION. The recipe instructions of a Crucible lane: fields and their checks, one meaning per instruction, traps
and the budget (R182 to R185). -/

namespace Sys2Proof.Machine

/-! ### Words and fields (R184) -/

/-- Which fields an opcode uses, and how: D, A, B as 0 unused, 1 scalar, 2 vector; W, F and IMM used. -/
structure RUse where
  d : Nat := 0
  a : Nat := 0
  b : Nat := 0
  w : Bool := false
  f : Bool := false
  imm : Bool := false
  deriving DecidableEq, Repr

/-- The fields of each opcode (R184); `none` is an unassigned opcode. HDR is not an instruction of a lane. -/
def rUse (op : Nat) : Option RUse :=
  match op with
  | 0x00 => some {}
  | 0x01 => some { a := 1 }
  | 0x02 | 0x03 => some { imm := true }
  | 0x04 | 0x05 | 0x06 => some { a := 1, imm := true }
  | 0x10 | 0x1A => some { d := 1, imm := true }
  | 0x11 | 0x13 | 0x14 | 0x15 | 0x16 => some { d := 1, a := 1, b := 1 }
  | 0x12 | 0x17 | 0x18 | 0x23 => some { d := 1, a := 1, imm := true }
  | 0x19 => some { d := 1, a := 1 }
  | 0x20 | 0x21 => some { d := 2, a := 1, imm := true }
  | 0x22 => some { a := 1, b := 2, imm := true }
  | 0x24 => some { a := 1, b := 1, imm := true }
  | 0x30 | 0x31 => some { d := 2, a := 2, b := 2, w := true, f := true }
  | 0x32 | 0x33 => some { d := 2, a := 2, b := 2, w := true }
  | 0x34 | 0x35 | 0x36 => some { d := 2, a := 2, b := 2 }
  | 0x37 => some { d := 2, a := 2, w := true, f := true, imm := true }
  | 0x38 => some { d := 2, a := 2, w := true, imm := true }
  | 0x39 => some { d := 2, a := 1, w := true }
  | 0x3A => some { d := 1, a := 2, w := true, imm := true }
  | 0x3B => some { d := 2, a := 1, w := true, imm := true }
  | 0x3C => some { d := 1, a := 2 }
  | 0x3D => some { d := 1, a := 2, w := true }
  | 0x3E => some { d := 2, a := 2, b := 1, w := true, f := true, imm := true }
  | 0x3F => some { d := 2, a := 2, w := true, imm := true }
  | 0x40 => some { d := 2, a := 2, w := true, f := true, imm := true }
  | _ => none

/-- The fields that a 64-bit word holds. -/
def rFields (w : Nat) : RFields :=
  { d := bits w 55 52, a := bits w 51 48, b := bits w 47 44, w := bits w 43 41, f := bit w 40
    imm := BitVec.ofNat 32 w }

def rOp (w : Nat) : Nat := bits w 63 56

/-- Element width of a width code (R184). -/
def wBits (c : Nat) : Nat := 2 ^ (c + 1)

/-- Elements of a vector at a width code. -/
def wElems (c : Nat) : Nat := 512 / wBits c

/-- Reason 5 of R182: a W value that the opcode does not allow. VNARROW needs a narrower width than W, VWIDEN a wider. -/
def rWidthBad (op : Nat) (r : RFields) : Bool :=
  decide (4 < r.w) || (op == 0x3F && r.w == 0) || (op == 0x40 && r.w == 4)

/-- Reason 6 of R182: an immediate out of range. -/
def rImmBad (op : Nat) (r : RFields) : Bool :=
  let i := r.imm.toNat
  let lo := i % 8
  let p := bits i 15 8
  match op with
  | 0x02 => decide (255 < i)
  | 0x17 | 0x18 => decide (63 < i)
  | 0x1A => decide (7 < i)
  | 0x37 | 0x38 => decide (wBits r.w ≤ i)
  | 0x3A | 0x3B => decide (wElems r.w ≤ i)
  | 0x3E => decide (7 < i) || decide (r.w < lo)
  | 0x3F => bits i 7 3 != 0 || decide (65535 < i) || decide (r.w ≤ lo) ||
      decide (wElems lo < (p + 1) * wElems r.w)
  | 0x40 => bits i 7 3 != 0 || decide (65535 < i) || decide (4 < lo) || decide (lo ≤ r.w) ||
      decide (wElems r.w < (p + 1) * wElems lo)
  | _ => false

def isBranch (op : Nat) : Bool := decide (3 ≤ op) && decide (op ≤ 6)

/-- The first failing check of R182 for an instruction in a program of `count` words; 0 when it passes. -/
def rReason (op count : Nat) (r : RFields) : Nat :=
  match rUse op with
  | none => 2
  | some u =>
    if (u.d == 0 && r.d != 0) || (u.a == 0 && r.a != 0) || (u.b == 0 && r.b != 0) || (!u.w && r.w != 0) ||
        (!u.f && r.f) || (!u.imm && r.imm != 0) then 3
    else if (u.d == 1 && decide (7 < r.d)) || (u.a == 1 && decide (7 < r.a)) || (u.b == 1 && decide (7 < r.b)) then 4
    else if rWidthBad op r then 5
    else if rImmBad op r then 6
    else if isBranch op && (r.imm.toNat == 0 || decide (count ≤ r.imm.toNat)) then 7
    else 0

/-- The first failing check of one program word, 0 when it passes (R182). -/
def wordReason (ix count w : Nat) : Nat :=
  if rOp w = 0xF0 then
    if ix ≠ 0 then 1
    else
      let i := w % 2 ^ 32
      let fmt := bits i 18 16
      if bits w 55 32 ≠ 0 ∨ bits i 7 5 ≠ 0 ∨ bits i 15 10 ≠ 0 ∨ bits i 31 19 ≠ 0 then 3
      else if bits i 4 0 < 10 ∨ 16 < bits i 4 0 ∨ fmt = 6 then 6
      else 0
  else if ix = 0 then 1
  else if (rUse (rOp w)).isNone then 2
  else if bits w 39 32 ≠ 0 then 3
  else rReason (rOp w) count (rFields w)

/-! ### Registers and elements -/

def sGet (l : Lane) (i : Nat) : W64 := l.r.getD i 0
def sSet (i : Nat) (v : W64) (l : Lane) : Lane := { l with r := l.r.set i v }
def vGet (l : Lane) (i : Nat) : BitVec 512 := l.v.getD i 0
def vSet (i : Nat) (x : BitVec 512) (l : Lane) : Lane := { l with v := l.v.set i x }

/-- The immediate as a 64-bit value (R184). -/
def immVal (r : RFields) : W64 := r.imm.signExtend 64

/-- The address S[A] + IMM. -/
def rAddr (l : Lane) (r : RFields) : Nat := (sGet l r.a + immVal r).toNat

/-- The signed elements of a vector at a width code. -/
def vElems (c : Nat) (x : BitVec 512) : List Int :=
  (List.range (wElems c)).map fun i => sext (wBits c) (x.toNat / 2 ^ (i * wBits c))

/-- A vector from elements, each kept at the width. -/
def ofElems (c : Nat) (xs : List Int) : BitVec 512 :=
  BitVec.ofNat 512 (xs.foldr (fun x a => wrapN (wBits c) x + 2 ^ wBits c * a) 0)

/-- Clamps every element and counts the clamps. -/
def clampAll (c : Nat) (xs : List Int) : List Int × Nat :=
  let ys := xs.map (clampW (wBits c))
  (ys.map (·.1), (ys.filter (·.2)).length)

/-- Writes the elements of a result: clamped and counted when `sat`, otherwise wrapped. -/
def putElems (d c : Nat) (sat : Bool) (xs : List Int) (l : Lane) : Lane :=
  if sat then
    let k := clampAll c xs
    { vSet d (ofElems c k.1) l with sat := l.sat + k.2 }
  else vSet d (ofElems c xs) l

/-! ### Ends, traps and the budget (R183, R185) -/

def rTrapWith (cause : Nat) (l : Lane) : Lane := { l with trap := cause }

/-- Spends the cycles of an instruction, or traps with cause 2 when the budget would be exceeded. -/
def spend (n : Nat) (f : Lane → Lane) (l : Lane) : Lane :=
  if 1024 < l.cycles + n then rTrapWith 2 l else f { l with cycles := l.cycles + n }

/-- An instruction that goes on to the next word when it does not trap. -/
def straight (f : Lane → Lane) (l : Lane) : Lane :=
  spend 1 (fun l => let m := f l; if m.trap = 0 then { m with pc := m.pc + 1 } else m) l

/-- A branch: one cycle, one more when taken. -/
def branch (taken : Bool) (target : Nat) (f : Lane → Lane) (l : Lane) : Lane :=
  if taken then spend 2 (fun l => { f l with pc := target }) l
  else spend 1 (fun l => { f l with pc := l.pc + 1 }) l

/-! ### The instructions -/

def laneNop (_ : RFields) : Lane → Lane := straight id
def laneEnd (r : RFields) : Lane → Lane := spend 1 fun l =>
  let n := (sGet l r.a).toNat
  if 65536 < n then rTrapWith 6 l else { l with trap := 7, outLen := n }
def laneTrap (r : RFields) : Lane → Lane := spend 1 fun l => { l with trap := 1, code := r.imm.toNat % 256 }
def laneJmp (r : RFields) : Lane → Lane := branch true r.imm.toNat id
def laneBz (r : RFields) (l : Lane) : Lane := branch (sGet l r.a == 0) r.imm.toNat id l
def laneBnz (r : RFields) (l : Lane) : Lane := branch (sGet l r.a != 0) r.imm.toNat id l
def laneLoop (r : RFields) (l : Lane) : Lane :=
  branch (sGet l r.a - 1 != 0) r.imm.toNat (fun l => sSet r.a (sGet l r.a - 1) l) l
def laneSli (r : RFields) : Lane → Lane := straight fun l => sSet r.d (immVal r) l
def laneSadd (r : RFields) : Lane → Lane := straight fun l => sSet r.d (sGet l r.a + sGet l r.b) l
def laneSaddi (r : RFields) : Lane → Lane := straight fun l => sSet r.d (sGet l r.a + immVal r) l
def laneSsub (r : RFields) : Lane → Lane := straight fun l => sSet r.d (sGet l r.a - sGet l r.b) l
def laneSand (r : RFields) : Lane → Lane := straight fun l => sSet r.d (sGet l r.a &&& sGet l r.b) l
def laneSor (r : RFields) : Lane → Lane := straight fun l => sSet r.d (sGet l r.a ||| sGet l r.b) l
def laneSxor (r : RFields) : Lane → Lane := straight fun l => sSet r.d (sGet l r.a ^^^ sGet l r.b) l
def laneSshl (r : RFields) : Lane → Lane := straight fun l => sSet r.d (sGet l r.a <<< (r.imm.toNat % 64)) l
def laneSsra (r : RFields) : Lane → Lane := straight fun l => sSet r.d ((sGet l r.a).sshiftRight (r.imm.toNat % 64)) l
def laneSblen (r : RFields) : Lane → Lane := straight fun l =>
  sSet r.d (BitVec.ofNat 64 (signedLen (sGet l r.a).toInt)) l

/-- The special values of SGET (R184). -/
def special (l : Lane) (i : Nat) : W64 := BitVec.ofNat 64 <|
  match i with
  | 0 => l.src.length
  | 1 => l.block % 2 ^ 32
  | 2 => l.block / 2 ^ 32
  | 3 => l.epoch
  | 4 => l.stream
  | 5 => b2n l.base.isSome
  | 6 => l.fmt
  | _ => l.sat

def laneSget (r : RFields) : Lane → Lane := straight fun l => sSet r.d (special l (r.imm.toNat % 8)) l

/-- Reads `n` bytes of a buffer, or traps with cause 3. -/
def rRead (buf : Bytes) (n : Nat) (r : RFields) (f : Nat → Lane → Lane) (l : Lane) : Lane :=
  let a := rAddr l r
  if buf.length < a + n then rTrapWith 3 l else f (fld buf a n) l

def laneVld (r : RFields) : Lane → Lane := straight fun l =>
  rRead l.src 64 r (fun x => vSet r.d (BitVec.ofNat 512 x)) l
def laneVldb (r : RFields) : Lane → Lane := straight fun l =>
  match l.base with
  | none => rTrapWith 5 l
  | some b => rRead b 64 r (fun x => vSet r.d (BitVec.ofNat 512 x)) l
def laneSld (r : RFields) : Lane → Lane := straight fun l =>
  rRead l.src 8 r (fun x => sSet r.d (BitVec.ofNat 64 x)) l

/-- Writes bytes of OUT, or traps with cause 4. OUT is held up to its last byte written; the rest is zero. -/
def rWrite (d : Bytes) (r : RFields) (l : Lane) : Lane :=
  let a := rAddr l r
  if 65536 < a + d.length then rTrapWith 4 l
  else { l with out := overwrite (slice l.out 0 (max l.out.length (a + d.length))) a d }

def laneVst (r : RFields) : Lane → Lane := straight fun l => rWrite (toLE 64 (vGet l r.b).toNat) r l
def laneSst (r : RFields) : Lane → Lane := straight fun l => rWrite (toLE 8 (sGet l r.b).toNat) r l

/-- An element-wise operation of two vectors. -/
def zipElems (r : RFields) (sat : Bool) (f : Int → Int → Int) : Lane → Lane := straight fun l =>
  putElems r.d r.w sat ((vElems r.w (vGet l r.a)).zipWith f (vElems r.w (vGet l r.b))) l

def laneVadd (r : RFields) : Lane → Lane := zipElems r r.f (· + ·)
def laneVsub (r : RFields) : Lane → Lane := zipElems r r.f (· - ·)
def laneVmin (r : RFields) : Lane → Lane := zipElems r false min
def laneVmax (r : RFields) : Lane → Lane := zipElems r false max
def laneVand (r : RFields) : Lane → Lane := straight fun l => vSet r.d (vGet l r.a &&& vGet l r.b) l
def laneVor (r : RFields) : Lane → Lane := straight fun l => vSet r.d (vGet l r.a ||| vGet l r.b) l
def laneVxor (r : RFields) : Lane → Lane := straight fun l => vSet r.d (vGet l r.a ^^^ vGet l r.b) l
def laneVshl (r : RFields) : Lane → Lane := straight fun l =>
  putElems r.d r.w r.f ((vElems r.w (vGet l r.a)).map (· * (2 ^ (r.imm.toNat % 32) : Nat))) l
def laneVsra (r : RFields) : Lane → Lane := straight fun l =>
  putElems r.d r.w false ((vElems r.w (vGet l r.a)).map (·.fdiv (2 ^ (r.imm.toNat % 32) : Nat))) l
def laneVbcast (r : RFields) : Lane → Lane := straight fun l =>
  vSet r.d (ofElems r.w (List.replicate (wElems r.w) (sGet l r.a).toInt)) l
def laneVext (r : RFields) : Lane → Lane := straight fun l =>
  sSet r.d (BitVec.ofInt 64 ((vElems r.w (vGet l r.a)).getD (r.imm.toNat % 256) 0)) l
def laneVins (r : RFields) : Lane → Lane := straight fun l =>
  vSet r.d (ofElems r.w ((vElems r.w (vGet l r.d)).set (r.imm.toNat % 256) (sGet l r.a).toInt)) l
def laneVcmpz (r : RFields) : Lane → Lane := straight fun l =>
  sSet r.d (BitVec.ofNat 64 (b2n (vGet l r.a == 0))) l
def laneVabsmax (r : RFields) : Lane → Lane := straight fun l =>
  sSet r.d (BitVec.ofNat 64 ((vElems r.w (vGet l r.a)).foldl (fun a x => max a x.natAbs) 0)) l

/-- The requantized elements of VRQ with their clamps and the register after them: with STOCHASTIC the register steps
before each element, as in R172. -/
def rqElems (k w : Nat) (stoch : Bool) (s : W32) (xs : List Int) : List Int × Nat × W32 :=
  if stoch then rqStoch k w s xs
  else
    let ys := xs.map fun x => rq x k w none
    (ys.map (·.1), (ys.filter (·.2)).length, s)

def laneVrq (r : RFields) : Lane → Lane := straight fun l =>
  let y := rqElems ((sGet l r.b).toNat % 64) (wBits (r.imm.toNat % 8)) r.f l.lfsr (vElems r.w (vGet l r.a))
  { vSet r.d (ofElems r.w y.1) l with sat := l.sat + y.2.1, lfsr := y.2.2 }

def laneVnarrow (r : RFields) : Lane → Lane := straight fun l =>
  let wo := r.imm.toNat % 8
  let n := wElems r.w
  let k := clampAll wo (vElems r.w (vGet l r.a))
  let old := vElems wo (vGet l r.d)
  let p := bits r.imm.toNat 15 8 * n
  { vSet r.d (ofElems wo (old.take p ++ k.1 ++ old.drop (p + n))) l with sat := l.sat + k.2 }

def laneVwiden (r : RFields) : Lane → Lane := straight fun l =>
  let wo := r.imm.toNat % 8
  let m := wElems wo
  let xs := ((vElems r.w (vGet l r.a)).drop (bits r.imm.toNat 15 8 * m)).take m
  vSet r.d (ofElems wo (if r.f then xs.map (fun x => ((wrapN (wBits r.w) x : Nat) : Int)) else xs)) l

/-- The instruction of an opcode. -/
def laneOp (op : Nat) (r : RFields) : Lane → Lane :=
  match op with
  | 0x01 => laneEnd r
  | 0x02 => laneTrap r
  | 0x03 => laneJmp r
  | 0x04 => laneBz r
  | 0x05 => laneBnz r
  | 0x06 => laneLoop r
  | 0x10 => laneSli r
  | 0x11 => laneSadd r
  | 0x12 => laneSaddi r
  | 0x13 => laneSsub r
  | 0x14 => laneSand r
  | 0x15 => laneSor r
  | 0x16 => laneSxor r
  | 0x17 => laneSshl r
  | 0x18 => laneSsra r
  | 0x19 => laneSblen r
  | 0x1A => laneSget r
  | 0x20 => laneVld r
  | 0x21 => laneVldb r
  | 0x22 => laneVst r
  | 0x23 => laneSld r
  | 0x24 => laneSst r
  | 0x30 => laneVadd r
  | 0x31 => laneVsub r
  | 0x32 => laneVmin r
  | 0x33 => laneVmax r
  | 0x34 => laneVand r
  | 0x35 => laneVor r
  | 0x36 => laneVxor r
  | 0x37 => laneVshl r
  | 0x38 => laneVsra r
  | 0x39 => laneVbcast r
  | 0x3A => laneVext r
  | 0x3B => laneVins r
  | 0x3C => laneVcmpz r
  | 0x3D => laneVabsmax r
  | 0x3E => laneVrq r
  | 0x3F => laneVnarrow r
  | 0x40 => laneVwiden r
  | _ => laneNop r

/-- One instruction of a program: words beyond it read as zero, which is NOP (R182). -/
def laneStep (prog : List Nat) (l : Lane) : Lane :=
  let w := prog.getD l.pc 0
  laneOp (rOp w) (rFields w) l

/-- Runs a lane until it ends, traps or meets a word at which it is to halt (R390 kind 6). -/
def laneRun (fuel : Nat) (stop : Nat → Bool) (prog : List Nat) (l : Lane) : Lane :=
  match fuel with
  | 0 => l
  | k + 1 =>
    if l.trap ≠ 0 then l
    else
      let m := laneStep prog l
      if m.trap = 0 ∧ stop m.pc then m else laneRun k stop prog m

/-- The lane set up for an invocation (R183). -/
def laneStart (src : Bytes) (base : Option Bytes) (stream epoch block fmt : Nat) : Lane :=
  { src, base, lfsr := lfsrSeed stream epoch block, stream, epoch, block, fmt }

/-! ### The rows -/

/-- The registers of a lane; those of a lane that ran no invocation are zero (R183; DESIGN CHOICE, log entry 6). -/
def lane (s : State) (l : Nat) : Lane := Tab.getD s.str.lanes l {}

def setLane (l : Nat) (x : Lane) (s : State) : State := { s with str.lanes := Tab.put s.str.lanes l x }

/-- A lane executes one instruction whose fields R182 accepts, while its invocation runs (DESIGN CHOICE, log entry 2). -/
def recipeStep (op l : Nat) (r : RFields) (f : Lane → Lane) (s : State) : State :=
  when (up s && decide (l < 32) && (lane s l).trap == 0 && rReason op 256 r == 0) (fun s => setLane l (f (lane s l)) s) s

def execRNop (l : Nat) (r : RFields) (s : State) : Host.Outcome State Fault Refusal := .next (recipeStep 0x00 l r (laneNop r) s)
def execREnd (l : Nat) (r : RFields) (s : State) : Host.Outcome State Fault Refusal := .next (recipeStep 0x01 l r (laneEnd r) s)
def execRTrap (l : Nat) (r : RFields) (s : State) : Host.Outcome State Fault Refusal := .next (recipeStep 0x02 l r (laneTrap r) s)
def execRJmp (l : Nat) (r : RFields) (s : State) : Host.Outcome State Fault Refusal := .next (recipeStep 0x03 l r (laneJmp r) s)
def execRBz (l : Nat) (r : RFields) (s : State) : Host.Outcome State Fault Refusal := .next (recipeStep 0x04 l r (laneBz r) s)
def execRBnz (l : Nat) (r : RFields) (s : State) : Host.Outcome State Fault Refusal := .next (recipeStep 0x05 l r (laneBnz r) s)
def execRLoop (l : Nat) (r : RFields) (s : State) : Host.Outcome State Fault Refusal := .next (recipeStep 0x06 l r (laneLoop r) s)
def execRSli (l : Nat) (r : RFields) (s : State) : Host.Outcome State Fault Refusal := .next (recipeStep 0x10 l r (laneSli r) s)
def execRSadd (l : Nat) (r : RFields) (s : State) : Host.Outcome State Fault Refusal := .next (recipeStep 0x11 l r (laneSadd r) s)
def execRSaddi (l : Nat) (r : RFields) (s : State) : Host.Outcome State Fault Refusal := .next (recipeStep 0x12 l r (laneSaddi r) s)
def execRSsub (l : Nat) (r : RFields) (s : State) : Host.Outcome State Fault Refusal := .next (recipeStep 0x13 l r (laneSsub r) s)
def execRSand (l : Nat) (r : RFields) (s : State) : Host.Outcome State Fault Refusal := .next (recipeStep 0x14 l r (laneSand r) s)
def execRSor (l : Nat) (r : RFields) (s : State) : Host.Outcome State Fault Refusal := .next (recipeStep 0x15 l r (laneSor r) s)
def execRSxor (l : Nat) (r : RFields) (s : State) : Host.Outcome State Fault Refusal := .next (recipeStep 0x16 l r (laneSxor r) s)
def execRSshl (l : Nat) (r : RFields) (s : State) : Host.Outcome State Fault Refusal := .next (recipeStep 0x17 l r (laneSshl r) s)
def execRSsra (l : Nat) (r : RFields) (s : State) : Host.Outcome State Fault Refusal := .next (recipeStep 0x18 l r (laneSsra r) s)
def execRSblen (l : Nat) (r : RFields) (s : State) : Host.Outcome State Fault Refusal := .next (recipeStep 0x19 l r (laneSblen r) s)
def execRSget (l : Nat) (r : RFields) (s : State) : Host.Outcome State Fault Refusal := .next (recipeStep 0x1A l r (laneSget r) s)
def execRVld (l : Nat) (r : RFields) (s : State) : Host.Outcome State Fault Refusal := .next (recipeStep 0x20 l r (laneVld r) s)
def execRVldb (l : Nat) (r : RFields) (s : State) : Host.Outcome State Fault Refusal := .next (recipeStep 0x21 l r (laneVldb r) s)
def execRVst (l : Nat) (r : RFields) (s : State) : Host.Outcome State Fault Refusal := .next (recipeStep 0x22 l r (laneVst r) s)
def execRSld (l : Nat) (r : RFields) (s : State) : Host.Outcome State Fault Refusal := .next (recipeStep 0x23 l r (laneSld r) s)
def execRSst (l : Nat) (r : RFields) (s : State) : Host.Outcome State Fault Refusal := .next (recipeStep 0x24 l r (laneSst r) s)
def execRVadd (l : Nat) (r : RFields) (s : State) : Host.Outcome State Fault Refusal := .next (recipeStep 0x30 l r (laneVadd r) s)
def execRVsub (l : Nat) (r : RFields) (s : State) : Host.Outcome State Fault Refusal := .next (recipeStep 0x31 l r (laneVsub r) s)
def execRVmin (l : Nat) (r : RFields) (s : State) : Host.Outcome State Fault Refusal := .next (recipeStep 0x32 l r (laneVmin r) s)
def execRVmax (l : Nat) (r : RFields) (s : State) : Host.Outcome State Fault Refusal := .next (recipeStep 0x33 l r (laneVmax r) s)
def execRVand (l : Nat) (r : RFields) (s : State) : Host.Outcome State Fault Refusal := .next (recipeStep 0x34 l r (laneVand r) s)
def execRVor (l : Nat) (r : RFields) (s : State) : Host.Outcome State Fault Refusal := .next (recipeStep 0x35 l r (laneVor r) s)
def execRVxor (l : Nat) (r : RFields) (s : State) : Host.Outcome State Fault Refusal := .next (recipeStep 0x36 l r (laneVxor r) s)
def execRVshl (l : Nat) (r : RFields) (s : State) : Host.Outcome State Fault Refusal := .next (recipeStep 0x37 l r (laneVshl r) s)
def execRVsra (l : Nat) (r : RFields) (s : State) : Host.Outcome State Fault Refusal := .next (recipeStep 0x38 l r (laneVsra r) s)
def execRVbcast (l : Nat) (r : RFields) (s : State) : Host.Outcome State Fault Refusal := .next (recipeStep 0x39 l r (laneVbcast r) s)
def execRVext (l : Nat) (r : RFields) (s : State) : Host.Outcome State Fault Refusal := .next (recipeStep 0x3A l r (laneVext r) s)
def execRVins (l : Nat) (r : RFields) (s : State) : Host.Outcome State Fault Refusal := .next (recipeStep 0x3B l r (laneVins r) s)
def execRVcmpz (l : Nat) (r : RFields) (s : State) : Host.Outcome State Fault Refusal := .next (recipeStep 0x3C l r (laneVcmpz r) s)
def execRVabsmax (l : Nat) (r : RFields) (s : State) : Host.Outcome State Fault Refusal := .next (recipeStep 0x3D l r (laneVabsmax r) s)
def execRVrq (l : Nat) (r : RFields) (s : State) : Host.Outcome State Fault Refusal := .next (recipeStep 0x3E l r (laneVrq r) s)
def execRVnarrow (l : Nat) (r : RFields) (s : State) : Host.Outcome State Fault Refusal := .next (recipeStep 0x3F l r (laneVnarrow r) s)
def execRVwiden (l : Nat) (r : RFields) (s : State) : Host.Outcome State Fault Refusal := .next (recipeStep 0x40 l r (laneVwiden r) s)

end Sys2Proof.Machine
end

