-- ==== Sys2Proof/Machine/VaultFormat.lean ====
section
/-! DEFINITION. The format of a vault: where an epoch lies (R272 to R276), the sealed sector (R192, R195, R197), ingot
headers, index and map sectors (R277 to R280), seal records, hallmarks and their checks (R201 to R203, R281 to R284). -/

namespace Sys2Proof.Machine

/-! ### Sizes of an entry (R164, R274) -/

/-- The words of a recipe slot. -/
def recipe (s : State) (slot : Nat) : List Nat := Tab.getD s.adm.recipes slot []

def rcpLog2 (w : List Nat) : Nat := bits (w.headD 0) 4 0
def rcpDecode (w : List Nat) : Bool := bit (w.headD 0) 8
def rcpLossy (w : List Nat) : Bool := bit (w.headD 0) 9
def rcpFormat (w : List Nat) : Nat := bits (w.headD 0) 18 16

/-- BLOCK_LOG2 of an entry: 16 for codecs 0 to 3. -/
def blockLog2 (s : State) (e : Bytes) : Nat := if eCodec e = 4 then rcpLog2 (recipe s (eSel e)) else 16

def blockSize (s : State) (e : Bytes) : Nat := 2 ^ blockLog2 s e

def nBlocks (s : State) (e : Bytes) : Nat := cdiv (eBytes e) (blockSize s e)

/-- P_max of R274. -/
def pMax (s : State) (e : Bytes) : Nat :=
  let d := eBytes e
  match eCodec e with
  | 0 => d
  | 1 => d + 8 * nBlocks s e
  | 4 => 65544 * nBlocks s e
  | c => cdiv d 65536 * (fPerExtent (eFormat e) * fSize c (eFormat e))

/-- Map sectors of an entry. -/
def mapCount (e : Bytes) : Nat := if eKind e = 2 then cdiv (eSize e) 32448 else 0

/-- X of R274: the largest ingot of an entry. -/
def xMax (s : State) (e : Bytes) : Nat := 1 + cdiv (pMax s e) 4064 + cdiv (nBlocks s e) 336 + mapCount e

/-! ### Areas (R272, R273) -/

/-- The layout that a plan list needs, before an AREA is journalled. -/
def layoutOf (s : State) (l : Bytes) : Layout :=
  let es := (liveEntries l).map (·.2)
  let c := es.foldl (fun a e => a + cdiv (xMax s e) 256) 0
  let ms := 1 + cdiv (32 * es.length + 32 * c + 16 * 4096) 4064
  let top := fun (r : Bool) => es.foldl (fun a e => if eRepl e == r then max a (eOff e + xMax s e) else a) 0
  let t := ms + top false + 2048
  { area := cdiv (hReplicas l * t + top true) 256 * 256, tail := t, ms, shared := top true }

/-- The layout of a generation in its vault: the journalled AREA stays (R272). -/
def vaultLay (s : State) (v : Vault) (l : Bytes) : Layout :=
  let a := layoutOf s l
  { a with area := v.area.getD a.area }

/-- Areas of a vault. -/
def areas (v : Vault) (a : Layout) : Nat := vSectors v / a.area

/-- First sector of the area of an epoch. -/
def areaBase (v : Vault) (a : Layout) (e : Nat) : Nat := (e - 1) % areas v a * a.area

/-- First sector of the tail of a replica index, from AREA and the tail length. -/
def tailAt (v : Vault) (a : Nat × Nat) (e ix : Nat) : Nat := (e - 1) % (vSectors v / a.1) * a.1 + ix * a.2

/-- First sector of the tail of a replica. -/
def tailBase (v : Vault) (a : Layout) (e ix : Nat) : Nat := areaBase v a e + ix * a.tail

/-- Vault sector of an entry's ingot header. -/
def ingotBase (v : Vault) (a : Layout) (l en : Bytes) (e : Nat) : Nat :=
  if eRepl en then areaBase v a e + hReplicas l * a.tail + eOff en
  else tailBase v a e (hIx l) + a.ms + eOff en

/-- First sector of the dispute range of a tail. -/
def disputeBase (v : Vault) (a : Layout) (e ix : Nat) : Nat := tailBase v a e ix + a.tail - 2048

/-! ### Sectors (R192, R195, R197, R277) -/

def foldPrefix (vid sector epoch : Nat) : Bytes := toLE 4 vid ++ toLE 8 sector ++ toLE 4 epoch

def sectorHeader (kind : Nat) (poison : Bool) (kslot hslot epoch stream isector : Nat) : Bytes :=
  toLE 1 kind ++ toLE 1 (b2n poison) ++ toLE 1 kslot ++ toLE 1 hslot ++ toLE 4 epoch ++ toLE 4 stream ++ toLE 4 isector

/-- A finished sector: ciphertext, header, check value, reserved bytes. -/
def sealedSector (key : Bytes) (vid sector epoch : Nat) (hdr payload : Bytes) : Bytes :=
  let b := xtsEnc key sector (slice payload 0 4064) ++ hdr
  b ++ toLE 4 (crcN (foldPrefix vid sector epoch ++ b)) ++ zeros 12

/-- The check value of a stored sector under a vault ID (R198); the epoch is the one in its header. -/
def sectorCrcOk (vid sector : Nat) (b : Bytes) : Bool :=
  b.length == 4096 && crcN (foldPrefix vid sector (fld b 4068 4) ++ slice b 0 4080) == fld b 4080 4

def hKind (b : Bytes) : Nat := fld b 4064 1
def hPoison (b : Bytes) : Bool := bit (fld b 4065 1) 0
def hKslot (b : Bytes) : Nat := fld b 4066 1
def hHslot (b : Bytes) : Nat := fld b 4067 1
def hEpoch (b : Bytes) : Nat := fld b 4068 4
def hStream (b : Bytes) : Nat := fld b 4072 4
def hIsector (b : Bytes) : Nat := fld b 4076 4

def payloadOf (key : Bytes) (sector : Nat) (b : Bytes) : Bytes := xtsDec key sector (slice b 0 4064)

/-! ### Hallmarks (R201 to R203) -/

def chunkDesc (vid epoch stream chunk first count : Nat) : Bytes :=
  toLE 4 vid ++ toLE 4 epoch ++ toLE 4 stream ++ toLE 4 chunk ++ toLE 8 first ++ toLE 2 count ++ zeros 6

def chunkHallmark (states : Bytes) (vid epoch stream chunk first : Nat) (digests : List Bytes) : Bytes :=
  hmac states (chunkDesc vid epoch stream chunk first digests.length ++ digests.flatten)

/-- The seal descriptor of R203. -/
def sealDesc (vid epoch base plan chunkCount ingots disputes : Nat) : Bytes :=
  toLE 4 vid ++ toLE 4 epoch ++ toLE 4 base ++ toLE 2 plan ++ zeros 2 ++ toLE 8 chunkCount ++ toLE 4 ingots ++
    toLE 2 disputes ++ zeros 2

/-- The epoch hallmark of a seal header's payload and its list stream (R203). -/
def epochHallmark (states hdr list : Bytes) : Bytes := hmac states (slice hdr 8 32 ++ slice hdr 72 72 ++ list)

/-! ### Reading sectors -/

/-- What reading a sector that has to be of a kind, epoch, stream and position gives. -/
inductive SecRead where
  | ok (payload : Bytes)
  | poisoned (payload : Bytes)
  | bad
  deriving DecidableEq, Repr

/-- Reads one sector: `at_` is where its bytes lie (a dispute copy, R286), `n` the sector it is checked as (R284). -/
def readSector (sectors : Tab Bytes) (key : Bytes) (vid n at_ kind epoch stream isector : Nat) : SecRead :=
  match Tab.get? sectors at_ with
  | none => .bad
  | some b =>
    if sectorCrcOk vid n b ∧ hKind b = kind ∧ hEpoch b = epoch ∧ hStream b = stream ∧ hIsector b = isector then
      if hPoison b then .poisoned (payloadOf key n b) else .ok (payloadOf key n b)
    else .bad

/-! ### Seal records (R281 to R286, R290) -/

/-- A seal record that has passed its checks. -/
structure SealRec where
  vid : Nat
  epoch : Nat
  base : Nat
  anchor : Nat
  plan : Nat
  fenceGen : Nat
  lay : Layout
  kslot : Nat
  hslot : Nat
  kcv : Bytes
  hkcv : Bytes
  hallmark : Bytes
  /-- 32 B ingot records -/
  ingots : List Bytes
  hms : List Bytes
  /-- (sector, copy) -/
  disputes : List (Nat × Nat)
  deriving DecidableEq, Repr

inductive SealRead where
  | ok (r : SealRec)
  /-- STALE DETAIL 1: no header, or one of a lower epoch -/
  | stale (found : Nat)
  /-- a header of a higher epoch -/
  | later
  | key (detail : Nat)
  /-- refused with this cause of SEAL_REJECT (R293) -/
  | bad (cause : Nat)
  deriving DecidableEq, Repr

/-- The KEY_ABSENT DETAIL of the two slots that a sector names, by form. -/
def slotsBad (s : State) (k h : Nat) : Option Nat :=
  match keyBad s k 2 none with
  | some d => some d
  | none => keyBad s (256 + h) 3 none

def kcvOfSlot (s : State) (slot : Nat) : Bytes := ((Tab.get? s.adm.keys slot).map (·.kcv)).getD (zeros 8)

def layoutIn (p : Bytes) : Layout := { area := fld p 96 8, tail := fld p 108 4, ms := fld p 112 4, shared := fld p 116 4 }

/-- One sector of a seal record's list, read under the key slot that it names, and its slots' KEY_ABSENT DETAIL (R206, R286). -/
def listSector (s : State) (sectors : Tab Bytes) (vid t epoch i : Nat) : SecRead × Option Nat :=
  let b := Tab.getD sectors t []
  (readSector sectors (keyBytes s (hKslot b)) vid t t 5 epoch 0 i, slotsBad s (hKslot b) (hHslot b))

/-- The list stream of a seal record split into its parts. -/
def listParts (p list : Bytes) : List Bytes × List Bytes × List (Nat × Nat) :=
  let ni := fld p 120 4
  let nc := fld p 24 8
  let nd := fld p 124 2
  ((List.range ni).map (fun i => slice list (32 * i) 32),
   (List.range nc).map (fun i => slice list (32 * ni + 32 * i) 32),
   (List.range nd).map fun i =>
     let o := 32 * ni + 32 * nc + 16 * i
     (fld list o 8, fld list (o + 8) 8))

/-- Reads and checks the seal header of an epoch at sector `t` (R277, R283, R284): its payload, or what is wrong with it. A sector that
could not be read fails as one whose check value fails (DEDUCED, log entry 124). -/
def readSealHead (s : State) (sectors : Tab Bytes) (t epoch : Nat) : SealRead ⊕ Bytes :=
  match Tab.get? sectors t with
  | none => .inl (.bad 1)
  | some b =>
    if hKind b ≠ 5 ∨ b.length ≠ 4096 then .inl (.stale 0)
    else if hEpoch b < epoch then .inl (.stale (hEpoch b))
    else if epoch < hEpoch b then .inl .later
    else
      match slotsBad s (hKslot b) (hHslot b) with
      | some d => .inl (.key d)
      | none =>
        let p := payloadOf (keyBytes s (hKslot b)) t b
        if !sectorCrcOk (fld p 8 4) t b ∨ hPoison b ∨ hStream b ≠ 0 ∨ hIsector b ≠ 0 then .inl (.bad 1)
        else if slice p 0 4 ≠ [0x53, 0x45, 0x41, 0x4C] ∨ fld p 4 2 ≠ 1 then .inl (.bad 2)
        else if slice p 128 8 ≠ kcvOfSlot s (hKslot b) ∨ slice p 136 8 ≠ kcvOfSlot s (256 + hHslot b) then .inl (.key 2)
        else .inr p

/-- Reads and checks the list sectors of a seal record and its epoch hallmark (R202, R284). -/
def readSealList (s : State) (sectors : Tab Bytes) (t epoch k h : Nat) (p : Bytes) : SealRead :=
  let l := layoutIn p
  let vid := fld p 8 4
  let len := 32 * fld p 120 4 + 32 * fld p 24 8 + 16 * fld p 124 2
  let rd := (List.range (l.ms - 1)).map fun i => listSector s sectors vid (t + 1 + i) epoch (1 + i)
  if rd.any (fun r => match r.1 with
      | .ok _ => false
      | .poisoned _ | .bad => true) then .bad 1
  else if let some d := rd.findSome? (·.2) then .key d
  else
    let list := (rd.flatMap fun r => match r.1 with
      | .ok q | .poisoned q => q
      | .bad => []).take len
    if epochHallmark (keyBytes s (256 + h)) p list ≠ slice p 40 32 then .bad 4
    else
      let parts := listParts p list
      .ok { vid, epoch, base := fld p 16 4, anchor := fld p 72 4, plan := fld p 20 2, fenceGen := fld p 92 4
            lay := l, kslot := k, hslot := h, kcv := slice p 128 8, hkcv := slice p 136 8
            hallmark := slice p 40 32, ingots := parts.1, hms := parts.2.1, disputes := parts.2.2 }

/-- Reads and checks the seal record of an epoch whose tail begins at sector `t` (R284, seal part). -/
def readSeal (s : State) (sectors : Tab Bytes) (area : Option Nat) (t epoch : Nat) : SealRead :=
  match readSealHead s sectors t epoch with
  | .inl x => x
  | .inr p =>
    if area.any (· ≠ (layoutIn p).area) then .bad 5
    else
      let b := Tab.getD sectors t []
      readSealList s sectors t epoch (hKslot b) (hHslot b) p

def irStream (r : Bytes) : Nat := fld r 0 4
def irKind (r : Bytes) : Nat := fld r 4 1
def irFirst (r : Bytes) : Nat := fld r 8 8
def irSectors (r : Bytes) : Nat := fld r 16 4
def irChunks (r : Bytes) : Nat := fld r 20 4
def irHm (r : Bytes) : Nat := fld r 24 8

def ingotRec (r : SealRec) (stream : Nat) : Option Bytes := r.ingots.find? fun x => irStream x == stream

/-- Where a sector's bytes are read: the dispute copy when the seal lists one (R286). -/
def placeOf (r : SealRec) (n : Nat) : Nat :=
  match r.disputes.find? fun d => d.1 == n && d.2 != 2 ^ 64 - 1 with
  | some d => d.2
  | none => n

/-- One sector of an ingot by its position. -/
def ingotSector (s : State) (sectors : Tab Bytes) (r : SealRec) (ir : Bytes) (kind isector : Nat) : SecRead :=
  let n := irFirst ir + isector
  readSector sectors (keyBytes s r.kslot) r.vid n (placeOf r n) kind r.epoch (irStream ir) isector

/-! ### Ingot headers, index and maps (R278 to R280) -/

def ihKind (h : Bytes) : Nat := fld h 6 1
def ihCodec (h : Bytes) : Nat := fld h 7 1
def ihFormat (h : Bytes) : Nat := fld h 8 1
def ihDelta (h : Bytes) : Bool := bit (fld h 9 1) 1
def ihRow (h : Bytes) : Nat := fld h 10 2
def ihSize (h : Bytes) : Nat := fld h 16 8
def ihPayload (h : Bytes) : Nat := fld h 24 8
def ihData (h : Bytes) : Nat := fld h 32 4
def ihIndex (h : Bytes) : Nat := fld h 36 4
def ihMaps (h : Bytes) : Nat := fld h 40 4
def ihBlocks (h : Bytes) : Nat := fld h 44 4
def ihBase (h : Bytes) : Nat := fld h 48 4
def ihAnchor (h : Bytes) : Nat := fld h 52 4
def ihLog2 (h : Bytes) : Nat := fld h 72 1
def ihDecSlot (h : Bytes) : Nat := fld h 73 1
def ihDecCount (h : Bytes) : Nat := fld h 74 2
def ihCodetab (h : Bytes) : Bytes := slice h 80 24
def ihProg (h : Bytes) : List Nat := (List.range (ihDecCount h)).map fun i => fld h (128 + 8 * i) 8

/-- The decoded bytes of the whole entry. -/
def ihBytes (h : Bytes) : Nat := if ihKind h = 2 then ihSize h * ihRow h else ihSize h

/-- The checked header of a stream's ingot in an epoch (R284). -/
def readIngot (s : State) (sectors : Tab Bytes) (r : SealRec) (ir : Bytes) : Option Bytes :=
  match ingotSector s sectors r ir 1 0 with
  | .ok h =>
    if slice h 0 4 = [0x49, 0x4E, 0x47, 0x54] ∧ fld h 4 2 = 1 ∧ fld h 12 4 = irStream ir ∧ ihKind h = irKind ir ∧
        irSectors ir = 1 + ihData h + ihIndex h + ihMaps h ∧ ihData h = cdiv (ihPayload h) 4064 ∧
        slice h 56 8 = r.kcv ∧ slice h 64 8 = r.hkcv then some h
    else none
  | _ => none

/-- The index entry of a block: payload offset and encoded length when PRESENT; `none` when the index sector is bad. -/
def indexEntry (s : State) (sectors : Tab Bytes) (r : SealRec) (ir h : Bytes) (b : Nat) : Option (Option (Nat × Nat)) :=
  match ingotSector s sectors r ir 3 (1 + ihData h + b / 336) with
  | .ok p =>
    let o := 32 + 12 * (b % 336)
    some (if bit (fld p (o + 6) 1) 0 then some (fld p o 4 + 2 ^ 32 * fld p (o + 4) 2, fld p (o + 8) 4) else none)
  | _ => none

/-- The rank of a row in a ROWTABLE ingot when its bit is set; `none` when the map sector is bad. -/
def rowRank (s : State) (sectors : Tab Bytes) (r : SealRec) (ir h : Bytes) (row : Nat) : Option (Option Nat) :=
  match ingotSector s sectors r ir 4 (1 + ihData h + ihIndex h + row / 32448) with
  | .ok p =>
    let i := row % 32448
    let set := fun j => bit (fld p (8 + j / 8) 1) (j % 8)
    some (if set i then some (fld p 0 8 + ((List.range i).filter set).length) else none)
  | _ => none

/-- AREA and tail length of a vault, from its record or from vault sector 0 read as a seal header (R285); when that gives none,
the epoch in sector 0 and what the read gave. -/
def layoutRead (s : State) (v : Vault) (sectors : Tab Bytes) : (Nat × SealRead) ⊕ (Nat × Nat) :=
  match v.area with
  | some a => .inr (a, v.tail)
  | none =>
    match Tab.get? sectors 0 with
    | none => .inl (0, .stale 0)
    | some b =>
      if hKind b = 5 then
        match readSealHead s sectors 0 (hEpoch b) with
        | .inr p => .inr ((layoutIn p).area, (layoutIn p).tail)
        | .inl x => .inl (hEpoch b, x)
      else .inl (0, .stale 0)

def vaultLayout (s : State) (v : Vault) (sectors : Tab Bytes) : Option (Nat × Nat) :=
  match layoutRead s v sectors with
  | .inr l => some l
  | .inl _ => none

/-- The replica index whose tail this device reads (R285). -/
def readIx (s : State) : Nat := ((topoBy s 0 0).map tRepl).getD 0

/-- SEAL_REJECT (R293). -/
def sealReject (epoch cause : Nat) : State → State := raise0 0x0901 2 (epoch + 2 ^ 32 * cause)

/-! ### Layouts written by SEAL (R281) -/

def sealHeader (s : State) (e : Epoch) (vid : Nat) (lay : Layout) (n chunkCount ingots : Nat) (hm : Bytes) : Bytes :=
  let l := e.list
  [0x53, 0x45, 0x41, 0x4C] ++ toLE 2 1 ++ zeros 2 ++
    sealDesc vid e.num e.base e.plan chunkCount ingots e.disputes.length ++ hm ++ toLE 4 e.anchor ++ toLE 4 e.gen ++
    toLE 4 (hReplicas l) ++ toLE 4 (hIx l) ++ toLE 4 (s.adm.selfDev.getD 0) ++ toLE 4 e.fenceGen ++
    toLE 8 lay.area ++ toLE 4 n ++ toLE 4 lay.tail ++ toLE 4 lay.ms ++ toLE 4 lay.shared ++ toLE 4 ingots ++
    toLE 2 e.disputes.length ++ zeros 2 ++ kcvOfSlot s (hDataKey l) ++ kcvOfSlot s (256 + hHmac l)

/-- The ingot header payload (R278). -/
def ingotHeader (s : State) (e : Epoch) (en : Bytes) (g : Ingot) (index maps : Nat) : Bytes :=
  let l := e.list
  let c := eCodec en
  let prog := if c = 4 then recipe s (eSel en + 1) else []
  [0x49, 0x4E, 0x47, 0x54] ++ toLE 2 1 ++ toLE 1 (eKind en) ++ toLE 1 c ++ toLE 1 (eFormat en) ++
    toLE 1 (b2n (eRepl en) + 2 * b2n g.delta +
      4 * b2n (c == 2 || c == 3 || (c == 4 && rcpLossy (recipe s (eSel en))))) ++
    toLE 2 (eRow en) ++ toLE 4 (eStream en) ++ toLE 8 (eSize en) ++ toLE 8 g.payload ++ toLE 4 g.data ++
    toLE 4 index ++ toLE 4 maps ++ toLE 4 g.blocks ++ toLE 4 e.base ++ toLE 4 e.anchor ++
    kcvOfSlot s (hDataKey l) ++ kcvOfSlot s (256 + hHmac l) ++ toLE 1 (blockLog2 s en) ++
    toLE 1 (if c = 4 then eSel en + 1 else 0) ++ toLE 2 prog.length ++ toLE 4 e.gen ++
    (if c = 1 then codeTable (setOfFormat (eFormat en)) else zeros 24) ++ zeros 24 ++
    slice (prog.flatMap (toLE 8)) 0 2048

end Sys2Proof.Machine
end

