-- ==== Sys2Proof/Machine/Plans.lean ====
section
/-! DEFINITION. Plans and generations: validation of a list (R86, R87, R163, R272, R275, R397), PLAN_STORE (R85),
PLAN_PATCH (R91, R92). -/

namespace Sys2Proof.Machine

/-! ### Validation of one entry -/

/-- Bytes of an entry that no field covers and that are not zero. -/
def gaps (b : Bytes) (fields : List (Nat × Nat)) : List Nat :=
  (List.range b.length).filter fun i =>
    !(fields.any fun f => decide (f.1 ≤ i) && decide (i < f.1 + f.2)) && fld b i 1 != 0

/-- Generations that are not freed. -/
def unfreed (s : State) : List Gen := s.adm.gens.filter fun g => !g.freed

/-- Offsets of the header that offend by a rule of their own (R86, R87, R272). -/
def headerBad (s : State) (plan : Nat) (b : Bytes) : List Nat :=
  gaps b [(0, 2), (4, 4), (8, 1), (9, 1), (12, 4), (16, 4)] ++ offsets [
    (1, decide (1 < fld b 1 1)),
    (4, (vault? s (hVault b)).isNone || (unfreed s).any fun g => g.plan != plan && hVault g.bytes == hVault b),
    (9, decide (63 < hHmac b)),
    (12, hReplicas b == 0 || decide (262144 < hReplicas b)),
    (16, decide (hReplicas b ≤ hIx b))]

/-- CODEC, FORMAT and KIND combinations of R163. -/
def comboOk (codec fmt kind : Nat) : Bool :=
  match codec with
  | 0 | 1 | 4 => true
  | 2 => kind != 3 && [2, 3, 4, 5].contains fmt
  | 3 => kind != 3 && [3, 5].contains fmt
  | _ => false

/-- The recipe pair of an entry breaks R163 or R87. -/
def pairBad (s : State) (e : Bytes) : Bool :=
  let enc := recipe s (eSel e)
  let dec := recipe s (eSel e + 1)
  let fmtOk := fun w => rcpFormat w == 7 || rcpFormat w == eFormat e
  eSel e % 2 == 1 || decide (62 < eSel e) || enc.isEmpty || dec.isEmpty || rcpDecode enc || !rcpDecode dec ||
    rcpLog2 enc != rcpLog2 dec || !fmtOk enc || !fmtOk dec

/-- Bytes of a tracking region (R123). -/
def trackBytes (e : Bytes) : Nat :=
  let groups := cdiv (eSize e) 128
  if eCheck e then roundUp (4096 + 128 * groups) 4096 + 4 * eSize e else 4096 + 128 * groups

/-- Offsets of a RANGE, ROWTABLE or HARVEST entry that offend by a rule of their own (R86, R87, R123, R163). An extent is
named by its ADDR (R397); it is the one that ADDR, SIZE and ROW_SIZE spell even where a size breaks its rule (DESIGN CHOICE, log
entry 138). SEL of a HARVEST entry with CODEC 4 is a recipe slot and a chain at once; it is checked as a recipe pair, whose even
slots up to 62 are chains too (DESIGN CHOICE, log entry 141). -/
def dataBad (s : State) (e : Bytes) : List Nat :=
  let k := eKind e
  let c := eCodec e
  let f := eFormat e
  let sizeBad := eSize e == 0 || (k == 1 && (eSize e % 65536 != 0 || decide (2 ^ 40 < eSize e)))
  let rowBad := if k = 2 then decide (eRow e < 64) || decide (4096 < eRow e) || eRow e % 64 != 0 ||
      eRow e % fmtUnit f != 0 else eRow e != 0
  gaps e [(0, 6), (8, 8), (16, 8), (24, 4), (28, 2), (32, 8), (40, 8)] ++ offsets [
    (1, decide (f ≤ 5) && !comboOk c f k),
    (2, decide (5 < f)),
    (3, if c = 4 then pairBad s e else if k = 3 then decide (63 < eSel e) else eSel e != 0),
    (4, decide (31 < eFlags e) || ((c == 2 || c == 3) && !eLossy e) ||
      (c == 4 && rcpLossy (recipe s (eSel e)) && !eLossy e) || (k == 3 && (eRepl e || eDelta e)) || (k != 2 && eCheck e)),
    (8, if k = 3 then eAddr e != 0
      else (if k = 1 then eAddr e % 65536 != 0 else eAddr e % 64 != 0) ||
        !inWindows s (eAddr e) (eBytes e)),
    (16, sizeBad),
    (28, rowBad),
    (40, if k = 2 then eTrack e % 4096 != 0 || (windowOf s (eTrack e) (trackBytes e)).isNone else eTrack e != 0)]

/-- Offsets of entry `i` that offend by a rule of their own. -/
def entryBad (s : State) (plan i : Nat) (e : Bytes) : List Nat :=
  let k := eKind e
  if (i == 0) != (k == 0) then [0]
  else if k = 0 then headerBad s plan e
  else if k = 0xF then gaps e [(0, 1)]
  else if 3 < k then [0]
  else dataBad s e

/-! ### Validation of a list -/

/-- Extents of an entry in fabric memory. -/
def extentOf (e : Bytes) : Nat × Nat := (eAddr e, eBytes e)

/-- Conditions between entry `i` and the entries before it (R87, R275, R397): offsets of entry `i`. -/
def pairOffends (s : State) (before : List (Nat × Bytes)) (i : Nat) (e : Bytes) : List Nat :=
  offsets [
    (24, before.any fun x => eStream x.2 == eStream e),
    (8, eKind e != 3 && before.any fun x =>
      eKind x.2 != 3 && overlap (extentOf x.2).1 (extentOf x.2).2 (extentOf e).1 (extentOf e).2),
    (32, decide (0 < i) && before.any fun x =>
      eRepl x.2 == eRepl e && overlap (eOff x.2) (xMax s x.2) (eOff e) (xMax s e))]

/-- Offsets of entry `i` of a list that offend, by its own rules or beside the entries before it (R397). -/
def entryOffends (s : State) (plan : Nat) (l : Bytes) (i : Nat) : List Nat :=
  let e := entryAt l i
  entryBad s plan i e ++ (if eKind e == 0 || decide (3 < eKind e) then []
    else pairOffends s ((liveEntries l).filter fun x => decide (x.1 < i) && decide (eKind x.2 ≤ 3)) i e)

/-- The entries of a list that offend, in order, each with its offset (R397). -/
def listOffends (s : State) (plan : Nat) (l : Bytes) : List (Nat × Nat) :=
  (List.range (entryCount l)).filterMap fun i => (lowest (entryOffends s plan l i)).map fun o => (i, o)

/-- A vault in which the epochs of a list do not fit is refused at VAULT_ID (R275). -/
def roomBad (s : State) (l : Bytes) : Bool :=
  match vault? s (hVault l) with
  | none => true
  | some v =>
    let need := (layoutOf s l).area
    match v.area with
    | some a => decide (vSectors v / a < 3) || decide (a < need)
    | none => decide (vSectors v / need < 3)

/-- The first entry of a list that offends, with its offset (R397). -/
def listBad (s : State) (plan : Nat) (l : Bytes) : Option (Nat × Nat) :=
  match listOffends s plan l with
  | p :: _ => some p
  | [] => if roomBad s l then some (0, 4) else none

/-! ### PLAN_STORE (R85) -/

def storeBad (c : Cmd) (s : State) : List (Nat × Bool) :=
  let b := c.item
  let plan := fld b 8 2
  let n := fld b 12 4
  [(8, decide (1023 < plan) || (!marked s 2 plan c.q c.seq &&
      (if n = 0 then (current? s plan).isNone else s.adm.gens.any fun g => g.plan == plan))),
   (12, n == 1 || decide (65536 < n)),
   (16, n != 0 && fld b 16 8 % 64 != 0)]

/-- The refusal of a structure in a plan list or patch (R76). -/
def rejectPlan (q seq plan ix off : Nat) (s : State) : State := finish q seq 0x03 (128 + off) (planReject plan ix off s)

/-- PLAN_STORE. Without a free generation record the list is not read (DESIGN CHOICE, log entry 140). -/
def planStore (list : HostRead) (c : Cmd) (s : State) : State :=
  let b := c.item
  let plan := fld b 8 2
  let n := fld b 12 4
  if marked s 2 plan c.q c.seq then finish c.q c.seq 0 0 s
  else if n = 0 then
    if s.adm.gens.any fun g => g.plan == plan && g.pending.isSome then finish c.q c.seq 0x06 3 s
    else
      let s := mark 2 plan c.q c.seq { s with
        adm.gens := updWhere (fun g => g.plan == plan) (fun g => { g with withdrawn := true, current := false }) s.adm.gens }
      finish c.q c.seq 0 0 (freeGens s)
  else if 4096 ≤ s.adm.gens.length then finish c.q c.seq 0x06 2 s
  else
    let s := readCtl (fld b 16 8) (fld b 24 2) (64 * n) 1 s
    match list with
    | none => malformed c.q c.seq 16 s
    | some l =>
      let l := slice l 0 (64 * n)
      match listBad s plan l with
      | some (ix, off) => rejectPlan c.q c.seq plan ix off s
      | none =>
        let g : Gen := { plan, num := 1, list := fld b 16 8, tdid := fld b 24 2, count := n, crc := crcN l, bytes := l }
        finish c.q c.seq 0 0 (mark 2 plan c.q c.seq { s with adm.gens := s.adm.gens ++ [g] })

def execPlanStore (q seq : Nat) (list : HostRead) (s : State) : Host.Outcome State Fault Refusal :=
  .next (runCmd 0x07 q seq storeBad (planStore list) s)

/-! ### PLAN_PATCH (R91, R92) -/

/-- The offending field of a patch record's own 64 bytes, for a list of `n` entries (R91). -/
def recHeadBad (n : Nat) (r : Bytes) : Option Nat :=
  let i := fld r 0 4
  let op := fld r 4 1
  lowest (offsets [(0, if op = 0 then decide (n ≤ i) else op == 1 && (i != n || decide (65536 ≤ n))), (4, decide (1 < op))] ++
    gaps (slice r 0 64) [(0, 5)])

/-- Applies one patch record to a list; a record that offends by itself changes nothing. -/
def applyRec (l r : Bytes) : Bytes :=
  let i := fld r 0 4
  if (recHeadBad (entryCount l) r).isSome then l
  else if i < entryCount l then overwrite l (64 * i) (slice r 64 64) else l ++ slice r 64 64

/-- The first record that offends by itself, with its offset. -/
def firstBadRec (l : Bytes) (ix : Nat) : List Bytes → Option (Nat × Nat)
  | [] => none
  | r :: rest =>
    match recHeadBad (entryCount l) r with
    | some o => some (ix, o)
    | none => firstBadRec (applyRec l r) (ix + 1) rest

/-- Patch records of 128 B. -/
def patchRecs (recs : Bytes) : List Bytes := chunks (recs.length / 128 + 1) 128 recs

/-- A list with patch records applied, in order. -/
def applyRecs (l recs : Bytes) : Bytes := (patchRecs recs).foldl applyRec l

/-- The last record that names entry `i`. -/
def recOf (recs : List Bytes) (i : Nat) : Option Nat :=
  ((List.range recs.length).filter fun k => fld (recs.getD k []) 0 4 == i).getLast?

/-- The patched list, or the structure and field to report (R76, R397): the first record that offends, by itself or by the entry
that it leaves in the list; else the first entry that a record made offend. -/
def patched (s : State) (plan : Nat) (l recs : Bytes) : Bytes ⊕ (Nat × Nat) :=
  let rs := patchRecs recs
  let m := applyRecs l recs
  let bad := listOffends s plan m
  let inRecs := bad.filterMap fun p => (recOf rs p.1).map fun k => (k, p.2 + 64)
  let all := (firstBadRec l 0 rs).toList ++ inRecs
  match (all.map (·.1)).min? with
  | some k => match all.find? fun p => p.1 == k with
    | some p => .inr p
    | none => .inl m
  | none =>
    match bad with
    | p :: _ => .inr p
    | [] =>
      if roomBad s m then
        match recOf rs 0 with
        | some k => .inr (k, 68)
        | none => .inr (0, 4)
      else .inl m

def patchBad (c : Cmd) (s : State) : List (Nat × Bool) :=
  let b := c.item
  let mode := fld b 10 1
  let n := fld b 12 4
  [(8, mode != 2 && (current? s (fld b 8 2)).isNone && !marked s 2 (fld b 8 2) c.q c.seq),
   (10, decide (2 < mode)),
   (12, if mode = 2 then n != 0 else n == 0 || decide (256 < n)),
   (16, mode != 2 && fld b 16 8 % 64 != 0),
   (24, mode == 0 && fld b 24 8 % 64 != 0)]

/-- Generation g takes over its own record as g + 1 with a new list (R92, R90). -/
def advanceGen (g : Gen) (l : Bytes) (s : State) : State :=
  raise0 0x0202 0 (g.plan + 2 ^ 32 * g.num) { s with
    adm.gens := updWhere (fun x => x.plan == g.plan && x.num == g.num)
      (fun x => { x with num := g.num + 1, count := entryCount l, crc := crcN l, bytes := l, pending := none }) s.adm.gens }

/-! ### Writes into a list (R92, R399) -/

/-- Class 1 writes of bytes at a virtual address, none across a 4 KiB boundary. -/
def listPieces (q seq addr tdid : Nat) (d : Bytes) (s : State) : State :=
  each (List.range (cdiv (addr % 4096 + d.length) 4096)) (fun j t =>
    let lo := 4096 * j - addr % 4096
    let hi := min d.length (4096 * (j + 1) - addr % 4096)
    hbWrite (.planList q seq) (addr + lo) tdid (slice d lo (hi - lo)) t) s

/-- Patch records are written into the list of their generation. -/
def recWrites (q seq : Nat) (g : Gen) (recs : Bytes) (s : State) : State :=
  each (patchRecs recs) (fun r t => listPieces q seq (g.list + 64 * fld r 0 4) g.tdid (slice r 64 64) t) s

def listWriteOf (s : State) (q seq : Nat) : Option ListWrite := s.adm.listWrites.find? fun w => w.q == q && w.seq == seq

def dropListWrite (q seq : Nat) (s : State) : State :=
  { s with adm.listWrites := s.adm.listWrites.filter fun w => !(w.q == q && w.seq == seq) }

/-- A list starts to be written. -/
def startWrite (q seq plan : Nat) (m : Bytes) (s : State) : State :=
  { s with adm.listWrites := (s.adm.listWrites.filter fun w => !(w.q == q && w.seq == seq)) ++ [{ q, seq, plan, bytes := m }] }

/-- A launch of a plan writes the records of its committed patch into the list (R92). -/
def writePending (q seq : Nat) (g : Gen) (recs : Bytes) (s : State) : State :=
  recWrites q seq g recs (startWrite q seq g.plan (applyRecs g.bytes recs) s)

/-- A PLAN_PATCH whose list is written makes its generation current (R89, R92). -/
def patchDone (c : Cmd) (w : ListWrite) (s : State) : State :=
  let b := c.item
  match current? s w.plan with
  | none => malformed c.q c.seq 8 s
  | some g =>
    if fld b 10 1 = 1 then finish c.q c.seq 0 0 (mark 2 w.plan c.q c.seq (advanceGen g w.bytes s))
    else
      let n : Gen := { plan := w.plan, num := g.num + 1, list := fld b 24 8, tdid := fld b 32 2
                       count := entryCount w.bytes, crc := crcN w.bytes, bytes := w.bytes }
      let s := { s with
        adm.gens := updWhere (fun x => x.plan == w.plan) (fun x => { x with current := false }) s.adm.gens ++ [n] }
      finish c.q c.seq 0 0 (freeGens (mark 2 w.plan c.q c.seq s))

/-- The last of a command's list writes is acknowledged: a PLAN_PATCH is done, a launch may start. -/
def listWritten (q seq : Nat) (s : State) : State :=
  if s.out.hb.any fun r => r.kind == .planList q seq then s else
  match listWriteOf s q seq, cmd? s q seq with
  | some w, some c =>
    if w.st ≠ 0 then s
    else if itemOp c.item = 8 then patchDone c w (dropListWrite q seq s)
    else { s with adm.listWrites := updWhere (fun x => x.q == q && x.seq == seq) (fun x => { x with st := 1 }) s.adm.listWrites }
  | _, _ => dropListWrite q seq s

/-- A list write that still fails after its reissues (R399): MALFORMED 24 for NEW_LIST, else 0xFE; a committed patch stays
pending. -/
def listFailed (q seq : Nat) (s : State) : State :=
  match listWriteOf s q seq, cmd? s q seq with
  | some _, some c =>
    if itemOp c.item = 8 then malformed q seq (if fld c.item 10 1 = 0 then 24 else 0xFE) (dropListWrite q seq s)
    else { s with adm.listWrites := updWhere (fun x => x.q == q && x.seq == seq) (fun x => { x with st := 2 }) s.adm.listWrites }
  | _, _ => s

/-- Records of freed generations are reclaimed, and with the last one its plan (R85, R92 MODE 2). -/
def collect (s : State) : State := { s with adm.gens := s.adm.gens.filter fun g => !g.freed }

/-- What a PLAN_PATCH reads: its records, then the list of the generation that it patches. -/
def readPatch (c : Cmd) (g : Gen) (s : State) : State :=
  readCtl g.list g.tdid (64 * g.count) 1 (readCtl (fld c.item 16 8) (fld c.item 32 2) (128 * fld c.item 12 4) 1 s)

def planPatch (list recs : HostRead) (c : Cmd) (s : State) : State :=
  let b := c.item
  let plan := fld b 8 2
  let mode := fld b 10 1
  let q := c.q
  let seq := c.seq
  if mode = 2 then finish q seq 0 0 (collect s)
  else if marked s 2 plan q seq then
    -- a replayed patch that took effect is done; one that was only staged went with its transaction (R379)
    finish q seq 0 0 s
  else
    match current? s plan with
    | none => malformed q seq 8 s
    | some g =>
      if g.pending.isSome then finish q seq 0x06 3 s
      else
        let castle := mode == 1 && s.regs.shadow.castle.isOpen
        if mode = 1 ∧ !castle ∧ launched s plan g.num then finish q seq 0x06 1 s
        else if mode = 0 ∧ 4096 ≤ s.adm.gens.length then finish q seq 0x06 2 s
        else
          let s := readPatch c g s
          match recs, list with
          | none, _ => malformed q seq 16 s
          | _, none => malformed q seq 0xFF s
          | some r, some l =>
            let r := slice r 0 (128 * fld b 12 4)
            match patched s plan (slice l 0 (64 * g.count)) r with
            | .inr (ix, off) => rejectPlan q seq plan ix off s
            | .inl m =>
              if castle then { s with adm.stagedPatch := some { q, seq, plan, recs := r } }
              else
                let s := startWrite q seq plan m s
                if mode = 0 then listPieces q seq (fld b 24 8) (fld b 32 2) m s else recWrites q seq g r s

/-- PLAN_PATCH: MODE 0 and 1 end when their writes are acknowledged. -/
def execPlanPatch (q seq : Nat) (list recs : HostRead) (s : State) : Host.Outcome State Fault Refusal :=
  .next (runCmd 0x08 q seq patchBad (planPatch list recs) s)

end Sys2Proof.Machine
end

