-- ==== Sys2Proof/Machine/Arbiter.lean ====
section
/-! DEFINITION. The arbiters of R16: windows of 64 grants with a reserve for each class, the oldest request of a class first,
class 4 by earliest deadline (R146) or in round robin of contexts (R148). A request waits in `out` until its arbiter
grants it: one opportunity comes with each idle cycle, and a response shows that its request has been granted (DESIGN
CHOICE, log entry 128). -/

namespace Sys2Proof.Machine

/-! ### The window -/

/-- Grants of each class 0 to 5 that a window of 64 keeps (R16). -/
def reserves : List Nat := [32, 4, 4, 12, 8, 4]

/-- The class that is granted next, of those with a waiting request (R16). -/
def Arb.choose (a : Arb) (waiting : List Nat) : Option Nat :=
  let cand := (List.range 6).filter waiting.contains
  match cand.find? fun c => decide (a.used.getD c 0 < reserves.getD c 0) with
  | some c => some c
  | none => cand.head?

/-- The window after a grant of a class to a context. -/
def Arb.count (a : Arb) (c last : Nat) : Arb :=
  if a.n + 1 = 64 then { last } else { n := a.n + 1, used := a.used.modify c (· + 1), last }

def arb (s : State) (k : Nat) : Arb := (Tab.get? s.out.arbs k).getD {}

/-- A request as an arbiter sees it, in order of age. -/
structure Wait where
  id : Nat
  cls : Nat
  ctx : Option Nat
  /-- into staging: the fill deadline applies, else the drain deadline (R146) -/
  fill : Bool
  deriving DecidableEq, Repr

/-- Deadline `a` is not after `b`, compared modulo 2^32 (R146). -/
def notAfter (a b : Nat) : Bool := decide ((b + 2 ^ 32 - a % 2 ^ 32) % 2 ^ 32 < 2 ^ 31)

/-- The deadline of a request; one whose stream keeps none counts as due now (DESIGN CHOICE, log entry 128). -/
def deadlineOf (s : State) (w : Wait) : Nat :=
  match w.ctx.bind (Tab.get? s.str.ctxs) with
  | some c => if w.fill then c.deadline else c.drainDl
  | none => s.time.core % 2 ^ 32

/-- Earliest deadline first, a tie to the lower context index, then to the older request (R146). -/
def earliest (s : State) (l : List Wait) : Option Wait :=
  l.foldl (fun best w =>
    match best with
    | none => some w
    | some b =>
      let dw := deadlineOf s w; let db := deadlineOf s b
      let lower := dw == db && decide (w.ctx.getD 131072 < b.ctx.getD 131072)
      if (dw != db && notAfter dw db) || lower then some w else some b) none

/-- Round robin by context index: the first context above the one granted last, wrapping (R148). -/
def nextInTurn (last : Nat) (l : List Wait) : Option Wait :=
  let lowest := fun (l : List Wait) => l.foldl (fun (best : Option Wait) w =>
    match best with
    | none => some w
    | some b => if w.ctx.getD 131072 < b.ctx.getD 131072 then some w else some b) none
  match lowest (l.filter fun w => decide (last < w.ctx.getD 131072)) with
  | some w => some w
  | none => lowest l

/-- The request an arbiter grants next: in class 4 by deadline or, in credit mode, in turn; else the oldest (R16, R146,
R148). -/
def pick (s : State) (a : Arb) (l : List Wait) : Option Wait :=
  (a.choose (l.map (·.cls))).bind fun c =>
    let mine := l.filter fun w => w.cls == c
    if c = 4 then (if sh s 0x408 = 1 then nextInTurn a.last mine else earliest s mine) else mine.head?

/-- Counts a grant at an arbiter. -/
def counted (k : Nat) (w : Wait) (s : State) : State :=
  { s with out.arbs := Tab.put s.out.arbs k ((arb s k).count w.cls (w.ctx.getD (arb s k).last)) }

/-! ### The host bridge -/

def hbWaiting (s : State) (c : Nat) : List Wait :=
  (s.out.hb.filter fun r => !r.granted && r.chan == c).map fun r => { id := r.id, cls := r.cls, ctx := r.ctx, fill := !r.write }

/-- Presents the next read of a take, after the one before it has been granted (R52). -/
def presentSlots (q start : Nat) (s : State) : State :=
  match queue? s q with
  | none => s
  | some x =>
    match (x.takes.find? fun t => t.start == start).map (·.todo) with
    | some ((part, i, n) :: rest) =>
      hbRead (.slots q start part) (fld x.desc 0 8 + 64 * i) (fld x.desc 40 2) (64 * n)
        (onQ q (fun x => { x with takes := updWhere (fun t => t.start == start) (fun t => { t with todo := rest }) x.takes }) s)
    | _ => s

/-- One grant at a host-bridge channel. -/
def grantHb (c : Nat) (s : State) : State :=
  match pick s (arb s (32 + c)) (hbWaiting s c) with
  | none => s
  | some w =>
    let s := counted (32 + c) w { s with out.hb := updWhere (fun r => r.id == w.id) (fun r => { r with granted := true }) s.out.hb }
    match s.out.hb.find? fun r => r.id == w.id with
    | none => s
    | some r =>
      match r.kind with
      | .slots q start _ => presentSlots q start s
      | _ => s

/-- Grants at a channel until a request has been granted. -/
def grantHbTo (fuel id c : Nat) (s : State) : State :=
  match fuel with
  | 0 => s
  | k + 1 => if s.out.hb.any fun r => r.id == id && !r.granted then grantHbTo k id c (grantHb c s) else s

/-- Reads of takes that are not presented yet. -/
def slotsToPresent (s : State) : Nat :=
  s.ring.queues.foldl (fun a e => a + e.2.takes.foldl (fun b t => b + t.todo.length) 0) 0

/-- A response to a request shows that its arbiter has granted it. -/
def hbGranted (r : HbReq) (s : State) : State := grantHbTo (s.out.hb.length + slotsToPresent s) r.id r.chan s

/-! ### The fabric ports, each in each direction -/

def fabArb (port : Nat) (write : Bool) : Nat := port + 16 * b2n write

/-- Injected reads enter at their insertion point, not at a port (R334). -/
def isInjected (r : FabReq) : Bool :=
  match r.kind with
  | .passant .. => true
  | _ => false

/-- Light slots of a mover that are taken, of its 32 (R150). -/
def lightUsed (s : State) (m : Nat) : Nat :=
  (s.out.fab.filter fun r => decide (r.len ≤ 512) && r.granted && r.mover == some m).length

/-- A mover that has a light slot for a transfer that no stream's mover issues: the lowest-numbered one (DESIGN CHOICE, log
entry 128). -/
def lightMover (s : State) : Option Nat := (inService s 2).find? fun m => decide (lightUsed s m < 32)

/-- The mover whose light slot a transfer of 512 B or less takes (R150). -/
def slotFor (s : State) (r : FabReq) : Option Nat :=
  match r.mover with
  | some m => if lightUsed s m < 32 then some m else none
  | none => lightMover s

/-- The tokens that a fabric read draws: its size, in classes 3 to 5, except under HOLD (R18, R134, R147). -/
def tokensOf (r : FabReq) : Nat := if r.write ∨ r.cls < 3 ∨ r.hold then 0 else r.len

/-- A request may be granted: a light slot and tokens are there (R147, R150). -/
def mayGrant (s : State) (r : FabReq) : Bool :=
  decide (tokensOf r ≤ s.str.tokens) && (decide (512 < r.len) || (slotFor s r).isSome)

def fabWaiting (s : State) (port : Nat) (write : Bool) : List Wait :=
  (s.out.fab.filter fun r => !r.granted && r.port == port && r.write == write && !isInjected r && mayGrant s r).map fun r =>
    { id := r.id, cls := r.cls, ctx := r.ctx, fill := !r.write }

/-- One grant at a fabric port in one direction: its tokens are drawn and its light slot taken. -/
def grantFab (port : Nat) (write : Bool) (s : State) : State :=
  match pick s (arb s (fabArb port write)) (fabWaiting s port write) with
  | none => s
  | some w =>
    match s.out.fab.find? fun r => r.id == w.id with
    | none => s
    | some r =>
      let mover := if r.len ≤ 512 then slotFor s r else r.mover
      counted (fabArb port write) w { s with
        str.tokens := s.str.tokens - tokensOf r
        out.fab := updWhere (fun r => r.id == w.id) (fun r => { r with granted := true, mover }) s.out.fab }

/-- Grants at a port until a request has been granted. -/
def grantFabTo (fuel id port : Nat) (write : Bool) (s : State) : State :=
  match fuel with
  | 0 => s
  | k + 1 => if s.out.fab.any fun r => r.id == id && !r.granted then grantFabTo k id port write (grantFab port write s) else s

def fabGranted (r : FabReq) (s : State) : State :=
  if isInjected r then s else grantFabTo s.out.fab.length r.id r.port r.write s

/-- A response to a fabric request takes effect when the request has been granted by then. -/
def fabAnswered (r : FabReq) (f : State → State) (s : State) : State :=
  let s := fabGranted r s
  if s.out.fab.any fun x => x.id == r.id && x.granted then f s else s

/-- A response to a host-bridge request takes effect when the request has been granted by then. -/
def hbAnswered (r : HbReq) (f : State → State) (s : State) : State :=
  let s := hbGranted r s
  if s.out.hb.any fun x => x.id == r.id && x.granted then f s else s

/-! ### Idle cycles -/

/-- One grant opportunity at every arbiter of the host bridge and of the fabric. -/
def grantAll (s : State) : State :=
  each (List.range 16) (fun p t => grantFab p true (grantFab p false t)) (each (List.range 4) grantHb s)

/-- The requests of a context that no arbiter has granted are withdrawn (R157). -/
def withdraw (ctx : Nat) (s : State) : State :=
  { s with
    out.hb := s.out.hb.filter fun r => r.granted || r.ctx != some ctx
    out.fab := s.out.fab.filter fun r => r.granted || r.ctx != some ctx }

end Sys2Proof.Machine
end

