-- ==== Sys2Proof/Machine/Rings.lean ====
section
/-! DEFINITION. Doorbells, dispatch and takes, acceptance, completions, head shadows, flushing, stall reports, the event
ring and TICK (R33 to R70, R298 to R302, R308, R398). -/

namespace Sys2Proof.Machine

/-! ### Doorbells (R44, R45, R62, R308) -/

def dbIndex (v : W32) : Nat := bits v.toNat 15 0
def dbLap (v : W32) : Nat := bits v.toNat 16 16

/-- The position a doorbell names on the count modulo 2 × size. INDEX not below the size names no slot of the ring and is out
of range (DESIGN CHOICE, log entry 129). -/
def dbPos (v : W32) (size : Nat) : Option Nat := if dbIndex v < size then some (dbLap v * size + dbIndex v) else none

/-- Distance from `a` to `b` modulo `2 × size`. -/
def dist (size a b : Nat) : Nat := (b + 2 * size - a % (2 * size)) % (2 * size)

/-- Counts and reports a doorbell out of range (R45, R68). -/
def dbBad (key which q : Nat) (v : W32) (absent : Bool) (s : State) : State :=
  raise 0x0103 1 q 0 (v.toNat + which * 2 ^ 32 + b2n absent * 2 ^ 34)
    { s with ring.dbRange := Tab.put s.ring.dbRange key (Tab.getD s.ring.dbRange key 0 + 1) }

/-- The rung tail after an SQ tail doorbell that R45 accepts. -/
def sqTailOk (x : Queue) (v : W32) : Option Nat :=
  let n := sqSize x.desc
  (dbPos v n).bind fun p =>
    if dist n x.head x.tail ≤ dist n x.head p ∧ dist n x.head p ≤ n then some p else none

/-- A queue that doorbells reach: one in service since RING_READY. -/
def inService? (s : State) (q : Nat) : Option Queue := if s.regs.qctl.ready then queue? s q else none

/-- Applies an SQ tail doorbell. -/
def sqTail (q : Nat) (v : W32) (s : State) : State :=
  match inService? s q with
  | none => dbBad (2 * q) 0 q v true s
  | some x =>
    if x.flushBy.isSome then onQ q (fun x => { x with held := x.held ++ [v] }) s
    else
      match sqTailOk x v with
      | none => dbBad (2 * q) 0 q v false s
      | some p => when (q == 0 && s.pwr.state != 0) (fun s => { s with pwr.awake := true, regs.clk.rootLock := true })
          (onQ q (fun x => { x with tail := p, waitFrom := if x.acc = x.tail then s.time.act else x.waitFrom }) s)

/-- The CQ head after a doorbell that R45 (and, for the first one after a reset, R308) accepts. -/
def cqHeadOk (x : Queue) (v : W32) : Option Nat :=
  let n := cqSize x.desc
  (dbPos v n).bind fun p =>
    if x.fresh then (if dist n p x.cqDone < n then some p else none)
    else if dist n x.cqHead p ≤ dist n x.cqHead x.cqDone then some p else none

def cqHead (q : Nat) (v : W32) (s : State) : State :=
  match inService? s q with
  | none => dbBad (2 * q + 1) 1 q v true s
  | some x =>
    match cqHeadOk x v with
    | none => dbBad (2 * q + 1) 1 q v false s
    | some p => onQ q (fun x => { x with cqHead := p, fresh := false }) s

/-- The event ring head (R45, R70); freed entries let EVENT_OVERFLOW be written (R69). -/
def evHead (v : W32) (s : State) : State :=
  let n := evSize s
  if !s.regs.qctl.ready then dbBad 8192 2 0xFFFF v true s
  else
    match dbPos v n with
    | none => dbBad 8192 2 0xFFFF v false s
    | some p =>
      let d := dist n (s.ring.ev.head % (2 * n)) p
      if d ≤ s.ring.ev.written - s.ring.ev.head then
        catchUp { s with ring.ev.head := s.ring.ev.head + d }
      else dbBad 8192 2 0xFFFF v false s

def execSqTailDoorbell (q : Nat) (val : W32) (s : State) : Host.Outcome State Fault Refusal := regWhen (sqTail q val) s
def execCqHeadDoorbell (q : Nat) (val : W32) (s : State) : Host.Outcome State Fault Refusal := regWhen (cqHead q val) s
def execEventHeadDoorbell (val : W32) (s : State) : Host.Outcome State Fault Refusal := regWhen (evHead val) s

/-! ### Eligibility and arbitration (R50, R51) -/

/-- Accepted commands of a queue not yet covered by a completion. -/
def uncovered (s : State) (q : Nat) (x : Queue) : Nat :=
  (s.ldg.cmds.filter fun c => c.q == q && decide (x.covered < c.seq)).length

/-- Accepted and not COMPLETED commands of all queues: A of R302. -/
def outstanding (s : State) : Nat := s.ldg.cmds.length

def bodyWords (slots : Nat) : Nat := cdiv (64 * slots) 24

/-- The room rule of R302 for an item of `n` slots. -/
def roomFor (s : State) (n : Nat) : Bool :=
  decide (bodyWords n + 1 + 3 * (outstanding s + 1) + 1024 ≤ freeWords s)

/-- CQ room of R50. -/
def cqRoom (s : State) (q : Nat) (x : Queue) : Bool :=
  let n := cqSize x.desc
  decide (uncovered s q x + 1 < n - dist n x.cqHead x.cqDone)

/-- The queues that power leaves served (R356, R358, R359). -/
def served (s : State) (q : Nat) : Bool := s.pwr.state == 0 || (q == 0 && s.pwr.awake)

/-- The position of the next slot to fetch: behind the takes in flight, the items read and the items journalled. -/
def fetchPos (x : Queue) : Nat :=
  let n := 2 * sqSize x.desc
  match x.takes.getLast? with
  | some t => (t.start + t.slots) % n
  | none => match x.fetched.getLast? with
    | some i => (i.pos + itemSlots i.bytes) % n
    | none => x.acc

/-- A queue that power, publication, CQ room and ledger room leave to be served (R43, R50, R302, R308). -/
def openForTake (s : State) (q : Nat) (x : Queue) : Bool :=
  x.state == .run && !x.fresh && x.waitPub.isNone && cqRoom s q x && roomFor s 1 && s.regs.qctl.ready &&
    !s.ldg.mirrorFault && served s q && s.ldg.replayDue == 0

/-- Slots before the rung tail that are not fetched yet. -/
def unfetched (x : Queue) : Nat := dist (sqSize x.desc) (fetchPos x) x.tail

/-- The queue may hold a whole item that has not been fetched. -/
def mayTake (s : State) (q : Nat) (x : Queue) : Bool := openForTake s q x && unfetched x != 0

/-! ### Slot bytes and items (R40 to R43, R54) -/

/-- What the slot bytes of one item show. -/
inductive Found where
  /-- a whole item of so many slots -/
  | item (slots : Nat)
  | wait (pos : Nat)
  | unframed (slot : Nat)
  | short
  deriving DecidableEq, Repr

/-- The phase that publishes a slot at a position. -/
def phaseAt (size pos : Nat) : Nat := 1 - pos / size % 2

/-- Byte 0 of slot `i` (R40), if it is at hand. -/
def slotByte (v : Bytes) (i : Nat) : Option Nat := (v[i]?).map (·.toNat)

/-- Checks the continuation slots `i` to `n` of an item at `pos`. -/
def contSlots (fuel size pos i n : Nat) (v : Bytes) : Found :=
  match fuel with
  | 0 => .short
  | k + 1 =>
    if n ≤ i then .item n else
    match slotByte v i with
    | none => .short
    | some sb =>
      let p := (pos + i) % (2 * size)
      if sb % 2 ≠ phaseAt size p then .wait p
      else if bit sb 1 ∨ bits sb 3 2 ≠ i ∨ sb / 16 ≠ 0 then .unframed i
      else contSlots k size pos (i + 1) n v

/-- The item at a position: `avail` slots lie before the rung tail, `v` holds the slot bytes from there on. -/
def readItem (size pos avail : Nat) (v : Bytes) : Found :=
  match slotByte v 0 with
  | none => .short
  | some sb =>
    let n := bits sb 3 2 + 1
    if sb % 2 ≠ phaseAt size pos then .wait pos
    else if !bit sb 1 ∨ sb / 16 ≠ 0 then .unframed 0
    else if avail < n then .wait pos
    else contSlots 5 size pos 1 n v

/-- The slot counts of the whole items from a position on, what follows them, and where. -/
def seenItems (fuel size pos avail : Nat) (v : Bytes) : List Nat × Found × Nat :=
  match fuel with
  | 0 => ([], .short, pos)
  | k + 1 =>
    if avail = 0 then ([], .short, pos) else
    match readItem size pos avail v with
    | .item n =>
      let r := seenItems k size ((pos + n) % (2 * size)) (avail - n) (v.drop n)
      (n :: r.1, r.2.1, r.2.2)
    | f => ([], f, pos)

/-- The items of so many slots each, cut from the bytes read from a position on. -/
def cutItems (size pos : Nat) (b : Bytes) : List Nat → List Item
  | [] => []
  | n :: r => ⟨pos, b.take (64 * n)⟩ :: cutItems size ((pos + n) % (2 * size)) (b.drop (64 * n)) r

/-- The slot bytes of whole slots. -/
def slotBytes (b : Bytes) : Bytes := (List.range (b.length / 64)).map fun i => b.getD (64 * i) 0

/-- The whole items among slots read from a position on, at most `want`, and what follows them. -/
def readItems (want size pos avail : Nat) (b : Bytes) : List Item × Found × Nat :=
  let r := seenItems want size pos avail (slotBytes b)
  (cutItems size pos b r.1, r.2)

/-! ### Eligibility and takes (R50 to R52) -/

/-- What the ring unit sees of a queue from its next slot to fetch on (R42). `seen` holds the slot bytes; a slot that is not
among them is not published. -/
def lookAt (seen : Tab Bytes) (q : Nat) (x : Queue) : List Nat × Found × Nat :=
  let a := unfetched x
  seenItems a (sqSize x.desc) (fetchPos x) a ((Tab.getD seen q []).take a)

/-- Eligibility (R50): the queue is open and holds a whole item that is not fetched, or an unframed one to be met (R55). -/
def eligible (s : State) (seen : Tab Bytes) (q : Nat) (x : Queue) : Bool :=
  mayTake s q x && (let l := lookAt seen q x
    !l.1.isEmpty || match l.2.1 with
      | .unframed _ => true
      | _ => false)

/-- The first element after `last` in numbering order, wrapping. -/
def firstAfter (last : Nat) (l : List Nat) : Option Nat :=
  match l.find? (fun q => decide (last < q)) with
  | some q => some q
  | none => l.head?

def creditOf (x : Queue) : Nat := fld x.desc 35 1 * [1, 4, 2, 1].getD (qClass x.desc) 1

/-- The slot reads of a take: at most 64 slots each, cut at the end of the ring (R52). -/
def slotReads (fuel size start n : Nat) : List (Nat × Nat) :=
  match fuel with
  | 0 => []
  | k + 1 =>
    if n = 0 then [] else
    let i := start % size
    let m := min n (min 64 (size - i))
    (i, m) :: slotReads k size (start + m) (n - m)

/-- Begins the reads of `slots` slots from a position: the first is presented at once, each further one when the one before
it has been granted (R52). -/
def issueTake (q start want slots : Nat) (s : State) : State :=
  match queue? s q with
  | none => s
  | some x =>
    let rs := slotReads 8 (sqSize x.desc) start slots
    presentSlots q start (onQ q (fun x => { x with
      takes := x.takes ++ [{ start, want, slots, reads := rs.length, todo := (List.range rs.length).zip rs }] }) s)

/-- The ring unit is occupied by a take that has not issued all of its reads (R52). -/
def ringBusy (s : State) : Bool := s.ring.queues.any fun e => e.2.takes.any fun t => !t.todo.isEmpty

/-- The items a take may hold: as many as four reads carry (R52; DESIGN CHOICE, log entry 61). -/
def fitItems (size start : Nat) (l : List Nat) : List Nat :=
  ((List.range (l.length + 1)).reverse.find? fun k => decide ((slotReads 8 size start ((l.take k).foldl (· + ·) 0)).length ≤ 4)).elim
    [] l.take

/-- Takes up to `want` of the whole items in view; an unframed item behind them is read as well, to be met (R55). -/
def takeQ (q want : Nat) (seen : Tab Bytes) (s : State) : State :=
  match queue? s q with
  | none => s
  | some x =>
    let l := lookAt seen q x
    let items := fitItems (sqSize x.desc) (fetchPos x) (l.1.take want)
    let more := match l.2.1 with
      | .unframed i =>
        let n := items.foldl (· + ·) 0 + i + 1
        if items.length = l.1.length ∧ l.1.length < want ∧ (slotReads 8 (sqSize x.desc) (fetchPos x) n).length ≤ 4 then i + 1
        else 0
      | _ => 0
    issueTake q (fetchPos x) (items.length + b2n (more != 0)) (items.foldl (· + ·) 0 + more)
      (onQ q (fun x => { x with credit := x.credit - items.length }) s)

/-- R43: a queue that waits for nothing else stops at the slot that its next item still needs. -/
def seeWaits (seen : Tab Bytes) (s : State) : State :=
  { s with ring.queues := s.ring.queues.map fun e =>
      let x := e.2
      let l := lookAt seen e.1 x
      if x.state = .run ∧ x.takes = [] ∧ x.fetched = [] ∧ x.waitPub.isNone ∧ unfetched x ≠ 0 ∧ l.1 = [] ∧ !x.fresh then
        match l.2.1 with
        | .wait p => (e.1, { x with waitPub := some (l.2.2, p) })
        | .short => (e.1, { x with waitPub := some (l.2.2, l.2.2) })
        | _ => e
      else e }

/-- One dispatch opportunity (R51): `seen` is what the ring unit sees of the slots of each queue. -/
def dispatch (seen : Tab Bytes) (s : State) : State :=
  if ringBusy s then s else
  let s := seeWaits seen s
  let el := (s.ring.queues.filter fun e => eligible s seen e.1 e.2)
  let urgent := (el.filter fun e => qClass e.2.desc == 0).map (·.1)
  let burst := fun (x : Queue) => fld x.desc 36 1
  match firstAfter s.ring.lastU urgent with
  | some q => takeQ q (((queue? s q).map burst).getD 1) seen { s with ring.lastU := q }
  | none =>
    let others := el.filter fun e => qClass e.2.desc != 0
    let withCredit := others.filter fun e => decide (0 < e.2.credit)
    let refill := withCredit.isEmpty
    let s := if refill then
        { s with ring.queues := s.ring.queues.map fun e =>
          if others.any (·.1 == e.1) then (e.1, { e.2 with credit := creditOf e.2 }) else e }
      else s
    match firstAfter s.ring.lastW ((if refill then others else withCredit).map (·.1)) with
    | none => s
    | some q =>
      match queue? s q with
      | none => s
      | some x => takeQ q (min (burst x) x.credit) seen { s with ring.lastW := q }

def execDispatchOpportunity (seen : Tab Bytes) (s : State) : Host.Outcome State Fault Refusal :=
  .next (when (runs s) (dispatch seen) s)

/-- R43: the slot that was not published is read again. -/
def slotRepoll (q : Nat) (s : State) : State :=
  match queue? s q with
  | none => s
  | some x =>
    match x.waitPub with
    | none => s
    | some p => if x.takes ≠ [] ∨ x.state ≠ .run then s else issueTake q p.2 0 1 s

def execSlotRepoll (q : Nat) (s : State) : Host.Outcome State Fault Refusal := .next (when (runs s) (slotRepoll q) s)

/-! ### Slots that arrive (R43, R52, R55) -/

/-- The takes of a queue and their reads are given up: what they would bring is never read as an item (R55, R63). -/
def dropTakes (q : Nat) (s : State) : State :=
  onQ q (fun x => { x with takes := [] })
    { s with out.hb := s.out.hb.filter fun r => match r.kind with
      | .slots k _ _ => k != q
      | _ => true }

/-- The queue stops at an unframed item or a host-bridge fault (R55). DEDUCED, log entry 86. -/
def queueError (q pos cause : Nat) (s : State) : State :=
  match queue? s q with
  | none => s
  | some x =>
    if x.state = .error then s else
    let n := sqSize x.desc
    let fetched := if cause < 4 then x.fetched else []
    let s := onQ q (fun x => { x with
      state := .error, errPos := pos, errCause := cause, errDue := true, errSeq := x.nextSeq - 1 + fetched.length
      fetched := fetched, waitPub := none, shadowDue := true }) (dropTakes q s)
    raise 0x0102 2 q 0 (pos % n + 2 ^ 16 * (pos / n % 2) + 2 ^ 24 * cause) s

/-- The reread slot is published, and a first slot's item now ends before the rung tail (R43). -/
def published (x : Queue) (p : Nat × Nat) (b : Bytes) : Bool :=
  let n := sqSize x.desc
  let sb := fld b 0 1
  sb % 2 == phaseAt n p.2 && (p.1 != p.2 || !bit sb 1 || decide (bits sb 3 2 + 1 ≤ dist n p.2 x.tail))

/-- The slots of the oldest take have arrived. -/
def takeDone (q : Nat) (t : Take) (s : State) : State :=
  match queue? s q with
  | none => s
  | some x =>
    let s := onQ q (fun x => { x with takes := x.takes.tail }) s
    let n := sqSize x.desc
    if t.failed then queueError q x.acc 0x10 s
    else
      let b := (Tab.vals t.parts).flatten
      if t.want = 0 then
        if x.waitPub.any fun p => published x p b then onQ q (fun x => { x with waitPub := none }) s else s
      else
        let r := readItems t.want n t.start (dist n t.start x.tail) b
        let s := onQ q (fun x => { x with fetched := x.fetched ++ r.1 }) s
        match r.2.1 with
        | .wait p => onQ q (fun x => { x with waitPub := some (r.2.2, p) }) (dropTakes q s)
        | .unframed i => queueError q r.2.2 i s
        | _ => if r.1.length < t.want then dropTakes q s else s

/-- The takes whose slots have all arrived are used in slot order. -/
def takesDone (fuel q : Nat) (s : State) : State :=
  match fuel with
  | 0 => s
  | k + 1 =>
    match (queue? s q).bind (·.takes.head?) with
    | some t => if t.parts.length = t.reads then takesDone k q (takeDone q t s) else s
    | none => s

/-- A read response of a take. -/
def slotsArrive (q start part : Nat) (data : HostRead) (s : State) : State :=
  let got := fun (t : Take) => { t with parts := Tab.put t.parts part (data.getD []), failed := t.failed || data.isNone }
  let s := onQ q (fun x => { x with takes := updWhere (fun t => t.start == start) got x.takes }) s
  takesDone (((queue? s q).map (·.takes.length)).getD 0) q s

/-! ### Acceptance (R21, R49, R56, R298, R299) -/

/-- The 24 B pieces of an item, with their positions, as BODY records (R299). -/
def bodyRecs (q seq : Nat) (b : Bytes) : List Rec :=
  (List.range (bodyWords (itemSlots b))).map fun i =>
    { kind := 2, state := i, queue := q, lsn := 0, seq, arg := slice b (24 * i) 24 }

/-- The ARG of an ACCEPTED record (R298). -/
def acceptedArg (x : Queue) (pos : Nat) (b : Bytes) (admin : Bool) : Bytes :=
  let n := sqSize x.desc
  toLE 2 (pos % n) ++
    toLE 1 (pos / n % 2 + 2 * (itemSlots b - 1) + 8 * b2n (itemEnd b) + 16 * b2n (itemIrq b) + 32 * b2n admin) ++
    toLE 1 (itemOp b) ++ toLE 4 (itemTag b) ++ toLE 1 (bodyWords (itemSlots b))

/-- Exactly one ledger macro is in service: the mirror stands in for the other (R4, R314). -/
def oneMacro (s : State) : Bool := retired s 9 0 != retired s 9 1

/-- The epoch that an arriving EPOCH_OPEN waits for: the older of two that are unresolved (R19). -/
def olderEpoch (b : Bytes) (s : State) : Nat :=
  let es := ((Tab.vals s.cap.epochs).filter unresolved).map (·.num)
  if itemOp b = 0x40 ∧ 2 ≤ es.length then es.min?.getD 0 else 0

/-- Journals an item and gives it the queue's next sequence number. It is consumed at once, or, while the mirror stands in
for a retired ledger macro, when its ACCEPTED record is in the mirror (R4, R314). -/
def acceptItem (q pos : Nat) (b : Bytes) (admin : Bool) (s : State) : State :=
  match queue? s q with
  | none => s
  | some x =>
    let seq := x.nextSeq
    let s := each (bodyRecs q seq b) appendRec s
    let s := append 1 1 q seq (acceptedArg x pos b admin) false s
    let s := { s with
      ldg.cmds := s.ldg.cmds ++ [{ q, seq, item := b, pos, admin, since := s.time.act, waitFor := olderEpoch b s }]
      ring.nextSeqOf := Tab.put s.ring.nextSeqOf q (seq + 1)
      pwr.delayed := if s.pwr.entering ∧ q ≠ 0 then s.pwr.delayed + 1 else s.pwr.delayed }
    let n := sqSize x.desc
    let s := hitKind 1 (fun p => !admin && bits p.arg 11 0 == q && bits p.data 15 0 == pos % n &&
      bits p.data 16 16 == pos / n % 2) s
    onQ q (fun x => { x with
      nextSeq := seq + 1
      acc := if admin then x.acc else (pos + itemSlots b) % (2 * n)
      head := if admin || oneMacro s then x.head else (pos + itemSlots b) % (2 * n)
      waitFrom := s.time.act }) s

/-- The offset of an item that is framed but invalid by its opcode, slot count or queue (R56, R73). -/
def itemBad (q : Nat) (b : Bytes) : Option Nat :=
  match slotsOf (itemOp b) with
  | none => some 1
  | some r =>
    if itemSlots b < r.1 ∨ r.2 < itemSlots b then some 0 else if queueOk (itemOp b) q then none else some 1

/-! ### Completions (R47, R57 to R60, R298, R300) -/

/-- What the next completion of a queue covers: commands in order and whether they ended OK. The FLUSH that ADMIN_FLUSH
forms has FLAGS 0 and closes its batch all the same (R64). -/
def nextCover (x : Queue) (l : List Cmd) : Option (List Cmd) :=
  match l with
  | [] => none
  | c :: rest =>
    if c.st ≠ .durable then none
    else if c.status ≠ 0 then some [c]
    else if itemEnd c.item || c.admin then some [c]
    else
      match nextCover x rest with
      | some (d :: ds) => if d.status = 0 then some (c :: d :: ds) else some [c]
      | some [] => some [c]
      | none => if x.errDue ∧ c.seq = x.errSeq then some [c] else none

/-- Commands of a queue in sequence order from a sequence number on. -/
def cmdsFrom (s : State) (q seq : Nat) : List Cmd :=
  (s.ldg.cmds.filter fun c => c.q == q && decide (seq < c.seq)).mergeSort fun a b => decide (a.seq ≤ b.seq)

/-- SQ_HEAD with HEAD_LAP at bit 16 after a command (R58). -/
def headAfter (x : Queue) (c : Cmd) : Nat :=
  let n := sqSize x.desc
  c.headPos.getD (let p := if c.admin then c.pos else c.pos + itemSlots c.item; p % n + 2 ^ 16 * (p / n % 2))

/-- The 16 B completion entry (R47). -/
def cqEntry (pos size tag seq head count status detail : Nat) : Bytes :=
  toLE 4 tag ++ toLE 4 seq ++ toLE 2 head ++ toLE 2 (count - 1) ++ toLE 1 status ++ toLE 1 detail ++
    toLE 1 (phaseAt size pos + 2 * bit' head) ++ [0]
where
  /-- HEAD_LAP of an encoded head -/
  bit' (h : Nat) : Nat := h / 2 ^ 16 % 2

/-- The body of a COMPLETION tiding (R260). -/
def tidingBody (status q tag seq ctx : Nat) : Bytes :=
  [0] ++ toLE 1 status ++ toLE 2 q ++ toLE 4 tag ++ toLE 8 seq ++ toLE 4 ctx ++ zeros 12

/-- Writes the sequence word of a queue that has one (R59). -/
def writeSeqWord (q seq : Nat) (s : State) : State :=
  match queue? s q with
  | none => s
  | some x => if fld x.desc 16 8 = 0 then s else hbWrite (.seqWord q seq) (fld x.desc 16 8) (qTdid x.desc) (toLE 8 seq) s

/-- The fallback of R60 for one completion: its sequence word and the event. -/
def tidingFallback (q seq target : Nat) (s : State) : State :=
  raise 0x0105 1 q seq (target + 2 ^ 32 * (seq % 2 ^ 32)) (writeSeqWord q seq s)

/-- Writes a completion entry into its slot and announces it (R59, R60, R344). -/
def issueCompletion (q : Nat) (o : CqOut) (s : State) : State :=
  match queue? s q with
  | none => s
  | some x =>
    let s := hbWrite (.cq q o.pos) (fld x.desc 8 8 + 16 * (o.pos % cqSize x.desc)) (qTdid x.desc) o.bytes s
    let target := fld x.desc 44 4
    let seq := if o.last = 0 then x.errSeq else o.last
    let tid := qTidings x.desc && routeUp s target && !s.adm.fenced && !peerFenced s target
    let s := onQ q (fun x => { x with cqOut := x.cqOut ++ [{ o with tid, tidSeq := seq, acked := false, held := false }] }) s
    if tid then
      send { mtype := 0x30, dst := target
             body := tidingBody (fld o.bytes 12 1) q (fld o.bytes 0 4) seq (fld x.desc 48 4) } s
    else if qTidings x.desc then
      tidingFallback q seq target s
    else
      let s := writeSeqWord q seq s
      if qIntMode x.desc = 2 ∨ (qIntMode x.desc = 1 ∧ o.irq) then msix (fld x.desc 38 2) (qTdid x.desc) s else s

/-- The next completion of a queue, in the next slot of its CQ (R57, R58). -/
def writeCompletion (q first last tag seqLo head count status detail : Nat) (irq : Bool) (s : State) : State :=
  match queue? s q with
  | none => s
  | some x =>
    let n := cqSize x.desc
    let o : CqOut :=
      { pos := x.cqDone, bytes := cqEntry x.cqDone n tag seqLo head count status detail, first, last, irq }
    issueCompletion q o (onQ q (fun x => { x with
      cqDone := (x.cqDone + 1) % (2 * n), covered := max x.covered last, doneAt := s.time.act }) s)

/-- A CQ write fault stopped the queue, and it has not returned to RUN: completions are held (R55). -/
def cqStopped (x : Queue) : Bool :=
  x.errCause == 0x11 && (x.state == .error || (x.state == .flushing && x.before == .error))

/-- COMPLETION_WRITE: the next completion that the queue's commands determine (R55, R57); none while a replay is due
(R306). -/
def completionWrite (q : Nat) (s : State) : State :=
  match queue? s q with
  | none => s
  | some x =>
    if cqStopped x ∨ s.ldg.replayDue ≠ 0 then s else
    let l := (cmdsFrom s q x.covered).filter fun c => !x.errDue || decide (c.seq ≤ x.errSeq)
    match nextCover x l with
    | some cs =>
      match cs.head?, cs.getLast? with
      | some a, some c =>
        writeCompletion q a.seq c.seq (itemTag c.item) c.seq (headAfter x c) cs.length c.status c.detail
          (cs.any fun c => itemIrq c.item) s
      | _, _ => s
    | none =>
      if x.errDue ∧ l.isEmpty ∧ x.errSeq < x.nextSeq then
        let n := sqSize x.desc
        writeCompletion q 0 0 0 x.errSeq (x.errPos % n + 2 ^ 16 * (x.errPos / n % 2)) 1 0x13 x.errCause false
          (onQ q (fun x => { x with errDue := false }) s)
      else s

def execCompletionWrite (q : Nat) (s : State) : Host.Outcome State Fault Refusal :=
  .next (when (runs s) (completionWrite q) s)

/-- The COMPLETED record of an acknowledged completion (R298, R300, R301). -/
def journalCompleted (q : Nat) (o : CqOut) (s : State) : State :=
  let b := o.bytes
  let s := kill (fun r => r.kind == 1 && r.queue == q &&
    (r.state % 16 == 4 || (decide (o.first ≤ r.seq) && decide (r.seq ≤ o.last)))) s
  let s := append 1 (4 + 16 * (fld b 14 1 % 2) + 32 * (fld b 14 1 / 2 % 2)) q o.last
    (toLE 2 (o.pos % 2 ^ 16) ++ slice b 8 4 ++ slice b 12 2 ++ zeros 2 ++ slice b 0 4) false s
  let s := { s with ldg.cmds := s.ldg.cmds.filter fun c => !(c.q == q && decide (c.seq ≤ o.last)) }
  onQ q (fun x => { x with completed := max x.completed o.last, redo := x.redo ++ [o] }) s

/-- Journals, in order, the completions whose writes and tidings are acknowledged. -/
def settleCq (fuel q : Nat) (s : State) : State :=
  match fuel with
  | 0 => s
  | k + 1 =>
    match (queue? s q).map (·.cqOut) with
    | some (o :: rest) =>
      if o.acked ∧ !o.tid then
        settleCq k q (onQ q (fun x => { x with cqOut := rest })
          (if o.last = 0 then s else journalCompleted q o s))
      else s
    | _ => s

/-- A COMPLETION tiding is that of this completion: its sequence number, and whether it is a QUEUE_ERROR. -/
def tidingOf (m : Bytes) (o : CqOut) : Bool := o.tidSeq == fld m 72 8 && (o.last == 0) == (fld m 65 1 == 0x13)

/-- The completion of a COMPLETION tiding no longer waits for its frame (R300). -/
def tidingSettled (m : Bytes) (s : State) : State :=
  let q := fld m 66 2
  settleCq 4096 q (onQ q (fun x => { x with
    cqOut := updWhere (tidingOf m) (fun o => { o with tid := false }) x.cqOut }) s)

/-- A COMPLETION tiding that will not be sent any more: the fallback, and its completion no longer waits for a frame
(R60, R300). -/
def tidingDropped (m : Bytes) (s : State) : State :=
  if mType m = 0x30 ∧ fld m 64 1 = 0 then tidingSettled m (tidingFallback (fld m 66 2) (fld m 72 8) (mDst m) s) else s

/-! ### Head shadow, stall reports, events, TICK -/

/-- The 16 B head shadow (R49). -/
def shadowBytes (x : Queue) : Bytes :=
  let n := sqSize x.desc
  let st := match x.state with
    | .run => 0
    | .error => 1
    | .flushing => 2
  toLE 2 (x.mirHead % n) ++ toLE 1 (x.mirHead / n % 2) ++ toLE 1 st ++ zeros 4 ++ toLE 8 x.mirSeq

/-- HEAD_SHADOW_WRITE (R49): when the mirror has advanced for the queue or its STATE has changed. -/
def headShadow (q : Nat) (s : State) : State :=
  match queue? s q with
  | none => s
  | some x =>
    if x.shadowDue then
      hbWrite (.shadow q) (fld x.desc 24 8) (qTdid x.desc) (shadowBytes x) (onQ q (fun x => { x with shadowDue := false }) s)
    else s

def execHeadShadowWrite (q : Nat) (s : State) : Host.Outcome State Fault Refusal := .next (when (runs s) (headShadow q) s)

/-- The number of a ledger state (R298). -/
def stateNo : CState → Nat
  | .accepted => 1
  | .started => 2
  | .durable => 3

/-- The cause of a stall of slots that wait (R65, R68): publication, CQ room or ledger room; a mirror fault counts as ledger
room, the CQ head ring that R308 asks for as CQ room, and reads under way as publication (DESIGN CHOICE, log entry
64). -/
def stallCause (s : State) (q : Nat) (x : Queue) : Nat :=
  if x.waitPub.isSome then 1 else if x.fresh || !cqRoom s q x then 2 else if s.ldg.mirrorFault || !roomFor s 1 then 3 else 1

/-- QUEUE_STALL (R65): a full interval without a transition of the oldest command that has no completion, or without
consumption of slots that wait. An interval begins with its condition and again at each report. DESIGN CHOICE, log
entry 64. -/
def queueStall (q : Nat) (s : State) : State :=
  match queue? s q with
  | none => s
  | some x =>
    let ivl := fld x.desc 42 2 * 1000
    let late := fun (t : Nat) => ivl != 0 && decide (max t x.stallFrom + ivl ≤ s.time.act)
    let again := onQ q (fun x => { x with stallFrom := s.time.act }) s
    match (cmdsFrom s q x.covered).head?.filter fun c => late (max c.since x.doneAt) with
    | some c => raise 0x0101 1 q c.seq (stateNo c.st) again
    | none =>
      if x.state = .run ∧ x.acc ≠ x.tail ∧ late x.waitFrom then raise 0x0101 1 q 0 (2 ^ 56 * stallCause s q x) again
      else s

/-- Stall intervals do not advance outside ACTIVE (R359) and while halted (R388). -/
def execQueueStall (q : Nat) (s : State) : Host.Outcome State Fault Refusal :=
  .next (when (runs s && s.pwr.state == 0) (queueStall q) s)

/-- EVENT_FLUSH (R398): what was held or dropped is written as far as the ring has room. -/
def execEventFlush (s : State) : Host.Outcome State Fault Refusal := .next (catchUp s)

/-- TICK (R300): appended whenever nothing else was, also while halted (R388). -/
def execTick (s : State) : Host.Outcome State Fault Refusal :=
  .next (when (up s && !s.regs.gasp.hold && s.ldg.live) (append 5 0 0xFFFF 0 [] true) s)

/-! ### Flushing a queue (R61 to R64) -/

/-- Completes every accepted, not started command of a queue with FLUSHED (R62 step 3). -/
def flushAccepted (q : Nat) (s : State) : State :=
  each ((cmdsFrom s q 0).filter fun c => c.st == .accepted && !(c.admin && itemOp c.item == 0x4B))
    (fun c => finish q c.seq 2 0) s

/-- Completions that could not be written leave when the queue returns to RUN (R55). -/
def releaseHeld (q : Nat) (s : State) : State :=
  match queue? s q with
  | none => s
  | some x =>
    let s := onQ q (fun x => { x with cqOut := x.cqOut.map fun o => { o with held := false } }) s
    each (x.cqOut.filter (·.held))
      (fun o => hbWrite (.cq q o.pos) (fld x.desc 8 8 + 16 * (o.pos % cqSize x.desc)) (qTdid x.desc) o.bytes) s

/-- Steps 1 to 3 of R62 with the slots read from the head to the rung tail: the snapshot, the FLUSHED end of what was
accepted; `fetched` holds the whole items that are still to be accepted. An unframed item that the flush of a queue in
RUN meets is discarded with what follows it, as a partial item is, and is no QUEUE_ERROR (DESIGN CHOICE, log entry 130).
Takes under way are given up (R63). -/
def flushBegin (q : Nat) (owner : Nat × Nat) (slots : List Bytes) (s : State) : State :=
  match queue? s q with
  | none => s
  | some x =>
    let n := sqSize x.desc
    let avail := dist n x.acc x.tail
    let r := readItems avail n x.acc avail (slots.flatten.take (64 * avail))
    let before := if x.state = .flushing then x.before else x.state
    let stopAt := before == .error && decide (x.errCause < 4)
    let items := if stopAt then r.1.takeWhile fun i => decide (dist n x.acc i.pos < dist n x.acc x.errPos) else r.1
    let s := onQ q (fun x => { x with
      before, state := .flushing, fetched := items, waitPub := none, shadowDue := true,
      flushBy := some owner, flushHead := x.acc }) (dropTakes q s)
    let s := each (slotReads 1025 n x.acc avail) (fun r => readCtl (fld x.desc 0 8 + 64 * r.1) (qTdid x.desc) (64 * r.2) 1) s
    flushAccepted q s

/-- An item of `n` slots has room in the ledger and the CQ (R50, R302, R305). -/
def roomHere (s : State) (q n : Nat) : Bool :=
  roomFor s n && (queue? s q).any (cqRoom s q) && !s.ldg.mirrorFault

/-- Accepts the held items in order, each with its FLUSHED end (R62 step 3). -/
def flushItems (q : Nat) (items : List Item) (s : State) : State :=
  match items with
  | [] => s
  | i :: rest =>
    if roomHere s q (itemSlots i.bytes) then
      let seq := ((queue? s q).map (·.nextSeq)).getD 0
      flushItems q rest (finish q seq 2 0 (acceptItem q i.pos i.bytes false (onQ q (fun x => { x with fetched := rest }) s)))
    else s

/-- Accepts what a flush still holds of its target as far as R50 leaves room; the rest follows by ITEM_ACCEPT as the driver
frees CQ entries (R62; DEDUCED, log entry 62). -/
def flushAccept (q : Nat) (s : State) : State := flushItems q (((queue? s q).map (·.fetched)).getD []) s

/-- Steps 4 and 5 of R62: what follows the last whole item is discarded, and STATE becomes RUN. The reported head follows as
the ACCEPTED records of the flushed items reach the mirror (R21). -/
def flushStop (q : Nat) (s : State) : State :=
  releaseHeld q (onQ q (fun z => { z with
    tail := z.acc, state := .run, errSeq := min z.errSeq (z.nextSeq - 1), shadowDue := true }) s)

/-- The end of a flush: whether anything was discarded, and the state. -/
def flushEnd (q : Nat) (s : State) : Bool × State :=
  ((queue? s q).any fun y => y.acc != y.tail, onQ q (fun z => { z with flushBy := none }) (flushStop q s))

/-- Held doorbells are applied once FLUSH completes (R62, R63). -/
def applyHeld (q : Nat) (s : State) : State :=
  match queue? s q with
  | none => s
  | some x => each x.held (sqTail q) (onQ q (fun x => { x with held := [] }) s)

/-- The encoded head of a queue after a flush, the first slot not completed, for SQ_HEAD and HEAD_LAP (R58, R62). -/
def headOf (s : State) (q : Nat) : Nat :=
  match queue? s q with
  | none => 0
  | some x => let n := sqSize x.desc; x.acc % n + 2 ^ 16 * (x.acc / n % 2)

/-- A command that has flushed its target ends with the target's new head and its DETAIL (R62 step 6). -/
def flushOver (t q seq : Nat) (s : State) : State :=
  let r := flushEnd t s
  applyHeld t (finish q seq 0 (b2n r.1)
    (onCmd q seq (fun c => { c with headPos := some (headOf r.2 t), count := b2n r.1 }) r.2))

/-- FLUSH of a queue by a command (R62): its snapshot, the items that have room, and its end once none is left. -/
def runFlush (c : Cmd) (slots : List Bytes) (s : State) : State :=
  let t := fld c.item 8 2
  match queue? s t with
  | none => s
  | some x =>
    if x.flushBy.isSome ∧ x.flushBy ≠ some (c.q, c.seq) then s
    else
      let s := flushAccept t (if x.flushBy.isSome then s else flushBegin t (c.q, c.seq) slots s)
      if (queue? s t).any fun x => x.fetched.isEmpty then flushOver t c.q c.seq s else s

/-- The targets that R61 refuses. A FLUSH that names queue 0, which only ADMIN_FLUSH flushes (R64), is refused at TARGET_Q as
well (DESIGN CHOICE, log entry 131). -/
def flushBad (c : Cmd) (s : State) : List (Nat × Bool) :=
  let t := fld c.item 8 2
  [(8, !c.admin && (t == c.q || t == 0 || (queue? s t).isNone))]

/-- FLUSH (R61, R62): while its target holds items without room, the row may come again. -/
def execFlush (q seq : Nat) (slots : List Bytes) (s : State) : Host.Outcome State Fault Refusal :=
  .next (match due 0x4B q seq s with
    | none => s
    | some c => if (bodyBad c.item (flushBad c s)).isSome then runCmd 0x4B q seq flushBad (fun _ s => s) s
      else runFlush c slots s)

/-- The 1-slot FLUSH item of R64. -/
def adminFlushItem : Bytes := [3, 0x4B] ++ zeros 62

/-- R64: once queue 0 holds no more items, the synthesized FLUSH is accepted behind them, with the head at the snapshot, and
ends. -/
def adminFlushEnd (s : State) : State :=
  match queue? s 0 with
  | none => s
  | some x =>
    if x.state = .flushing ∧ x.flushBy = some (0, 0) ∧ x.fetched.isEmpty ∧ roomHere s 0 1 then
      flushOver 0 0 x.nextSeq (acceptItem 0 x.flushHead adminFlushItem true s)
    else s

/-- ADMIN_FLUSH (R64): queue 0 is flushed; a write while the flush waits for room changes nothing more. -/
def adminFlush (slots : List Bytes) (s : State) : State :=
  match queue? s 0 with
  | none => s
  | some x =>
    if !s.regs.qctl.ready then s else
    let s : State := { s with regs.qctl.flush := true }
    if x.state = .flushing then s
    else adminFlushEnd (flushAccept 0 (flushBegin 0 (0, 0) slots s))

/-- ADMIN_FLUSH. The register port is served while the block is halted: the request stands and the flush runs at the end of
the halt (R388). -/
def adminFlushWrite (slots : List Bytes) (s : State) : State :=
  if up s && !s.regs.gasp.hold && halted s && s.regs.qctl.ready then
    { s with regs.qctl.flush := true, dbg.late := s.dbg.late ++ [.adminFlush slots] }
  else when (runs s) (adminFlush slots) s

def execAdminFlush (slots : List Bytes) (s : State) : Host.Outcome State Fault Refusal := .next (adminFlushWrite slots s)

/-! ### ITEM_ACCEPT -/

/-- The oldest item read is journalled and consumed (R21); a queue that is being flushed accepts what its flush holds. -/
def itemAccept (q : Nat) (s : State) : State :=
  match queue? s q with
  | none => s
  | some x =>
    if x.state = .flushing then when (q == 0) adminFlushEnd (flushAccept q s) else
    match x.fetched with
    | [] => s
    | it :: rest =>
      if (x.state == .run || decide (x.errCause < 4)) && roomHere s q (itemSlots it.bytes) && served s q then
        acceptItem q it.pos it.bytes false (onQ q (fun x => { x with fetched := rest }) s)
      else s

def execItemAccept (q : Nat) (s : State) : Host.Outcome State Fault Refusal := .next (when (runs s) (itemAccept q) s)

end Sys2Proof.Machine
end

