-- ==== Sys2Proof/Machine/Lanes.lean ====
section
/-! DEFINITION. The 64-bit lanes of the block SRAMs: writes narrower than a lane and the merge buffers (R318), corrected and
uncorrectable errors met by a read (R317, R321, R325), the lanes of a context (R138, R319), the key store (R212). -/

namespace Sys2Proof.Machine

/-! ### Errors of a lane -/

/-- A corrected error: counted, and reported at most once per 1 ms for each store (R325). -/
def ceCount (store lane : Nat) (s : State) : State :=
  let n := Tab.getD s.flt.ceSince store 0 + 1
  let s := laneClean store lane (eccCount store lane false s)
  if (Tab.get? s.flt.ceAt store).all fun t => decide (t + 100000 ≤ s.time.aon) then
    raise0 0x0A06 0 (store + 2 ^ 8 * (lane % 2 ^ 24) + 2 ^ 32 * n)
      { s with flt.ceSince := Tab.del s.flt.ceSince store, flt.ceAt := Tab.put s.flt.ceAt store s.time.aon }
  else { s with flt.ceSince := Tab.put s.flt.ceSince store n }

/-- Counts and reports an uncorrectable error (R321, R325). -/
def ueCount (store lane : Nat) (s : State) : State :=
  raise0 0x0A07 2 (store + 2 ^ 8 * (lane % 2 ^ 24)) (laneClean store lane (eccCount store lane true s))

/-- The number of bits in error of a corrupted lane. -/
def flips (x : Nat × W64 × Byte) : Nat :=
  ((List.range 64).filter x.2.1.getLsbD).length + ((List.range 8).filter x.2.2.getLsbD).length

/-! ### Merge buffers (R318) -/

def isLane (store lane : Nat) (e : Merge) : Bool := e.store == store && e.lane == lane

def dropMerge (store lane : Nat) (s : State) : State :=
  { s with flt.merge := s.flt.merge.filter fun e => !isLane store lane e }

/-- A whole lane is written: nothing of it is read first, and what its entry held is overwritten. -/
def laneWrite1 (store lane : Nat) (s : State) : State := flipHook store lane (dropMerge store lane s)

/-- The masks of SC_FLIP are XORed onto the check bits that a lane is written with. -/
def invertChecks (store lane : Nat) (s : State) : State :=
  let f := s.regs.flip
  let hit := f.arm && f.store == store
  let s := laneClean store lane s
  { s with
    regs.flip.arm := f.arm && !hit
    flt.flipped := (store * 2 ^ 32 + lane, if hit then f.hi ++ f.lo else 0, if hit then ~~~f.check else 0xFF) :: s.flt.flipped }

/-- An entry retires by a read-merge-write. One bit in error is corrected on the read; more are uncorrectable, and the merged lane is
written with its check bits inverted, so that the next read finds the error. -/
def mergeOut (e : Merge) (s : State) : State :=
  let s := dropMerge e.store e.lane s
  match s.flt.flipped.find? fun x => x.1 == e.store * 2 ^ 32 + e.lane with
  | none => flipHook e.store e.lane s
  | some x =>
    if flips x ≤ 1 then flipHook e.store e.lane (if flips x = 1 then ceCount e.store e.lane s else s)
    else invertChecks e.store e.lane (ueCount e.store e.lane s)

/-- A write of some bits of a lane. -/
def partWrite (store lane : Nat) (mask : W64) (s : State) : State :=
  if mask = 0 then s else
  let old := s.flt.merge.find? (isLane store lane)
  let m := mask ||| ((old.map (·.mask)).getD 0)
  if m = BitVec.allOnes 64 then laneWrite1 store lane s
  else
    let mine := s.flt.merge.filter fun e => e.store == store
    let s := match old, mine with
      | none, e :: _ => if 8 ≤ mine.length then mergeOut e s else s
      | _, _ => s
    let since := (old.map (·.since)).getD s.time.aon
    { s with flt.merge := (s.flt.merge.filter fun e => !isLane store lane e) ++ [{ store, lane, mask := m, since }] }

/-- Consecutive whole lanes are written. -/
def lanesWrite (store lane n : Nat) (s : State) : State :=
  let lo := store * 2 ^ 32 + lane
  let s : State := { s with
    flt.merge := s.flt.merge.filter fun e => !(e.store == store && decide (lane ≤ e.lane) && decide (e.lane < lane + n))
    flt.flipped := s.flt.flipped.filter fun x => decide (x.1 < lo) || decide (lo + n ≤ x.1) }
  if n = 0 then s else flipHook store lane s

/-- Entries that a read of lanes of their store, or the end of their wait, retires. -/
def mergeDrain (p : Merge → Bool) (s : State) : State := each (s.flt.merge.filter p) mergeOut s

/-- Entries that have waited 16 cycles of their macro's clock: two AON cycles are no fewer (DEDUCED, log entry 148). -/
def mergeAge (s : State) : State := mergeDrain (fun e => decide (e.since + 2 ≤ s.time.aon)) s

/-- The writes that turn one content of consecutive lanes into another. -/
def diffWrite (store lane : Nat) (old new : Bytes) (s : State) : State :=
  each (List.range (cdiv new.length 8)) (fun i => partWrite store (lane + i)
    (BitVec.ofNat 64 (((List.range 8).filter fun k => old.getD (8 * i + k) 0 != new.getD (8 * i + k) 0).foldl
      (fun a k => a + 255 * 2 ^ (8 * k)) 0))) s

/-- Plates `[lo, hi)` of a bank whose lanes start at `base` are written. -/
def bankWrite (base lo hi : Nat) (s : State) : State :=
  if hi ≤ lo then s else
  let a := lo / 64
  let b := (hi - 1) / 64
  let ones := fun (x y : Nat) => BitVec.ofNat 64 (2 ^ y - 2 ^ x)
  if a = b then partWrite 5 (base + a) (ones (lo % 64) ((hi - 1) % 64 + 1)) s
  else partWrite 5 (base + b) (ones 0 ((hi - 1) % 64 + 1))
    (lanesWrite 5 (base + a + 1) (b - a - 1) (partWrite 5 (base + a) (ones (lo % 64) 64) s))

/-! ### Reads -/

/-- The corrupted lanes of a store that a pass reads. -/
def corrupted (s : State) (store : Nat) (p : Nat → Bool) : List (Nat × W64 × Byte) :=
  s.flt.flipped.filter fun x => x.1 / 2 ^ 32 == store && p (x.1 % 2 ^ 32)

/-- A lane is read: one bit in error is corrected and written back, more are uncorrectable (R317; DEDUCED, log entry 51). -/
def readLane (lost : Nat → State → State) (x : Nat × W64 × Byte) (s : State) : State :=
  let store := x.1 / 2 ^ 32
  let lane := x.1 % 2 ^ 32
  match flips x with
  | 0 => laneClean store lane s
  | 1 => ceCount store lane s
  | _ => lost lane (ueCount store lane s)

/-- Reads every lane of a store that meets a test: its merge entries retire first. -/
def readLanes (store : Nat) (p : Nat → Bool) (lost : Nat → State → State) (s : State) : State :=
  let s := mergeDrain (fun e => e.store == store && p e.lane) s
  each (corrupted s store p) (readLane lost) s

/-! ### Contexts (R138) -/

/-- A 48 B context (R138). -/
def ctxBytes (c : Ctx) : Bytes :=
  toLE 1 c.state ++ toLE 1 c.kind ++ toLE 1 c.cls ++ toLE 1 (b2n c.poisonSeen + 2 * b2n c.credit + 4 * b2n c.linked) ++
    toLE 4 c.epoch ++ toLE 4 c.fenceGen ++ toLE 3 (c.q + 2 ^ 12 * c.slot) ++ toLE 3 c.link ++ toLE 2 c.tdid ++
    toLE 4 c.deadline ++ toLE 8 c.cursor ++ toLE 6 c.remain ++ toLE 2 c.held ++ toLE 8 c.dest

/-- A context with the fields of 48 bytes. -/
def ctxFrom (c : Ctx) (b : Bytes) : Ctx :=
  { c with
    state := fld b 0 1, kind := fld b 1 1, cls := fld b 2 1, poisonSeen := bit (fld b 3 1) 0, credit := bit (fld b 3 1) 1
    linked := bit (fld b 3 1) 2, epoch := fld b 4 4, fenceGen := fld b 8 4, q := fld b 12 3 % 4096
    slot := bits (fld b 12 3) 17 12, link := fld b 15 3 % 131072, tdid := fld b 18 2, deadline := fld b 20 4
    cursor := fld b 24 8, remain := fld b 32 6, held := fld b 38 2, dest := fld b 40 8 }

/-- A context changes: its lanes are written as they differ. -/
def ctxWrite (ix : Nat) (old new : Ctx) (s : State) : State := diffWrite 2 (6 * ix) (ctxBytes old) (ctxBytes new) s

/-! ### Key store (R212) -/

/-- KEY_SLOT_LOST (R212). -/
def keySlotLost (k : Nat) (s : State) : State :=
  raise0 0x0603 2 k { s with
    adm.keys := Tab.del s.adm.keys k
    adm.keyLost := if s.adm.keyLost.contains k then s.adm.keyLost else s.adm.keyLost ++ [k] }

/-- Key slots are read by what uses them: eight lanes each. -/
def readKeys (slots : List Nat) : State → State := readLanes 13 (fun lane => slots.contains (lane / 8)) fun lane => keySlotLost (lane / 8)

/-- A recipe slot is read by the lane that runs it: 256 lanes; a lost word empties it (R321). -/
def readRecipe (slot : Nat) : State → State :=
  readLanes 12 (fun lane => lane / 256 == slot) fun _ s => { s with adm.recipes := Tab.del s.adm.recipes slot }

end Sys2Proof.Machine
end

