-- ==== Sys2Proof/Machine/Epochs.lean ====
section
/-! DEFINITION. The end of an epoch and of streams: reservations (R139), stopping (R157), disarming (R128, R130), bad data
(R158 to R160), abandonment and cancellation (R27, R110). -/

namespace Sys2Proof.Machine

/-! ### Contexts (R139) -/

def ctxsOfEpoch (s : State) (e : Nat) : Nat := (s.str.ctxs.filter fun c => c.2.epoch == e).length

/-- Reserved contexts that the epochs do not use yet. -/
def reservedOut (s : State) : Nat :=
  (s.cap.epochs.filter fun e => unresolved e.2).foldl (fun a e => a + (e.2.reserved - ctxsOfEpoch s e.1)) 0

/-- Contexts free for a stream of no epoch. -/
def ctxFree (s : State) : Nat := 131072 - s.str.ctxs.length - reservedOut s

/-- Whether a stream of an epoch (0 for none) finds a context. -/
def ctxRoom (s : State) (e : Nat) : Bool :=
  decide (0 < ctxFree s) || (e != 0 && (epoch? s e).any fun x => decide (ctxsOfEpoch s e < x.reserved))

/-- Allocates the lowest free context (R139). -/
def newCtx (c : Ctx) (s : State) : Nat × State :=
  let i := Tab.gap s.str.ctxs 0
  (i, lanesWrite 2 (6 * i) 6 { s with str.ctxs := Tab.put s.str.ctxs i c })

/-- CONTEXT_WAIT, once for each command (R139, R161). -/
def contextWait (q seq : Nat) (s : State) : State :=
  match cmd? s q seq with
  | none => s
  | some c => if c.waited then s else
    raise 0x0401 0 q seq (q + 2 ^ 12 * c.slot) (onCmd q seq (fun x => { x with waited := true }) s)

/-- Requests of a context are in flight. -/
def inFlight (s : State) (ctx : Nat) : Bool :=
  (s.out.hb.any fun r => r.ctx == some ctx) || s.out.fab.any fun r => r.ctx == some ctx

/-- Stops streams: requests not granted yet are withdrawn, staging blocks and unread units go; a context with transfers in
flight is STOPPING until they have completed, their data discarded (R157). -/
def stopStreams (p : Ctx → Bool) (s : State) : State :=
  let gone := (s.str.ctxs.filter fun c => p c.2 && c.2.state != 5).map (·.1)
  let s := each gone withdraw s
  { s with
    str.ctxs := (s.str.ctxs.filter fun c => !gone.contains c.1 || inFlight s c.1).map fun c =>
      if gone.contains c.1 then (c.1, { c.2 with state := 5, mover := none, asm := [] }) else c
    str.blocks := s.str.blocks.filter fun b => !gone.contains b.ctx
    str.jobs := s.str.jobs.filter fun j => !gone.contains j.ctx
    str.starts := s.str.starts.filter fun x => !p x.1 }

/-- Contexts whose last transfer has completed after they were stopped are free (R139, R157). -/
def dropStopped (s : State) : State :=
  { s with str.ctxs := s.str.ctxs.filter fun c => c.2.state != 5 || inFlight s c.1 }

def stopCmd (q seq : Nat) : State → State := stopStreams fun c => c.q == q && c.seq == seq && c.epoch == 0

/-! ### Filters (R120, R122, R128) -/

/-- Units taken by passant copies and by their blocks in staging. -/
def unitsUsed (s : State) : Nat :=
  s.cap.passants.foldl (fun a p => a + p.2.units) 0 + s.str.blocks.foldl (fun a b => a + b.units) 0

/-- The free units of the passant reserve after copies have come or gone (R122). -/
def fixUnits (s : State) : State := { s with cap.units := 131072 - unitsUsed s }

/-- Every filter disarms and every held write is released. -/
def disarmFilters (s : State) : State :=
  { s with
    out.relAll := s.out.relAll ++ (s.cap.filters.filter fun f => !f.2.segs.isEmpty || !f.2.held.isEmpty).map (·.1)
    cap := { s.cap with filters := [], flushing := false } }

/-- Units and tags of an epoch's passant copies are freed; data of injected reads already accepted is discarded. -/
def dropPassants (e : Nat) (s : State) : State :=
  fixUnits { s with cap.passants := s.cap.passants.filter fun p => p.2.epoch != e }

/-! ### The fate of an epoch -/

/-- Ends commands of an epoch that have started, by opcode. -/
def endCmds (e : Nat) (ops : List Nat) (status detail : Nat) (s : State) : State :=
  each (s.ldg.cmds.filter fun c => c.st == .started && ops.contains (itemOp c.item) && c.epoch == e)
    (fun c t => finish c.q c.seq status detail (stopStreams (fun x => x.q == c.q && x.seq == c.seq && x.epoch == e) t)) s

/-- What an epoch holds besides its streams: sealing work, escrow, digests, requests (R266, R268, R137). -/
def dropSealing (e : Nat) (s : State) : State :=
  { s with
    str.blocks := s.str.blocks.filter fun b => match b.kind with
      | .enc x _ _ | .row x _ _ => x != e
      | .dec _ | .raw _ | .cvRow _ => true
    pun.jobs := s.pun.jobs.filter fun j => j.epoch != e
    pun.escrow := s.pun.escrow.filter fun x => x.2.1 != e
    pun.own := s.pun.own.filter fun x => x.2.1 != e
    pun.sentDig := s.pun.sentDig.filter fun x => x.1 != e
    pun.later := s.pun.later.filter fun x => x.1 != e
    pun.dispOut := s.pun.dispOut.filter fun x => x.1 != e
    pun.stored := s.pun.stored.filter fun x => x.epoch != e
    pun.egress := s.pun.egress.filter fun x => x.epoch != e
    pun.digOut := s.pun.digOut.filter fun x => x.epoch != e
    pun.digMsgs := s.pun.digMsgs.filter fun m => fld m 32 4 != e
    spl.reqs := s.spl.reqs.filter fun r => !(r.epoch == e && r.owner.isNone) }

/-- Releases the hold of a cut (R110). -/
def dropCut (e : Nat) (s : State) : State :=
  if s.cap.cut.epoch = e ∧ s.cap.cut.owner.isNone then { s with cap.cut := {} } else s

/-- An epoch reaches a fate other than SEALED: streams stop, filters disarm, the reservation returns, its launch retires
(R27, R89, R128, R130, R157). The OR of R27 is made by the next bank preparation (R114). -/
def endEpoch (e phase : Nat) (why : Nat × Nat) (s : State) : State :=
  match epoch? s e with
  | none => s
  | some x =>
    if !unresolved x then s else
    let s := if x.phase ≤ 2 then disarmFilters s else s
    let s := dropPassants e (dropSealing e (dropCut e (stopStreams (fun c => c.epoch == e) s)))
    let s := setPhase e phase (onEpoch e (fun y => { y with reserved := 0, order := [], deferred := [], why }) s)
    freeGens s

/-- DETAIL of an EPOCH_ABANDONED for an epoch's fate; a lost key and a failed header have none of their own (R104; DESIGN CHOICE,
log entry 99). -/
def abandonDetail (why : Nat × Nat) : Nat := if why.1 = 0x11 then why.2 else if why.1 = 0x10 then 0x10 else 0

/-- A CAPTURE or ROW_CAPTURE of an epoch that has not run yet. -/
def namesUnrun (e : Nat) (c : Cmd) : Bool :=
  (itemOp c.item == 0x41 || itemOp c.item == 0x42) && !c.ran && c.st != .durable && fld c.item 8 4 == e

/-- An epoch becomes ABANDONED with the status and DETAIL of its SEAL. An EPOCH_OPEN still in CUT completes: HOLD is
released (R72, R89). Its CAPTURE and ROW_CAPTURE commands end KEY_ABSENT when a key is gone (R211, R212), else
EPOCH_ABANDONED, with DETAIL 0x10 after an abort (R104, R160); those accepted and not yet run end so when they run (R99). -/
def abandonEpoch (e : Nat) (why : Nat × Nat) (s : State) : State :=
  match epoch? s e with
  | none => s
  | some x =>
    if !unresolved x then s else
    let s := endEpoch e 6 why s
    let s := if x.phase = 1 then finish x.q x.seq 0 0 s else s
    let s := { s with ldg.cmds := updWhere (namesUnrun e) (fun c => { c with instead := some (0x11, abandonDetail why) }) s.ldg.cmds }
    let c := if why.1 = 0x0E then (0x0E, 0) else (0x11, abandonDetail why)
    let s := endCmds e [0x41, 0x42] c.1 c.2 s
    match x.sealCmd with
    | some (q, seq) => finish q seq why.1 why.2 s
    | none => s

/-- An epoch becomes CANCELLED; commands that work on it end CANCELLED (R110, R130, R157). -/
def cancelEpoch (e : Nat) (s : State) : State :=
  match epoch? s e with
  | none => s
  | some x =>
    if !unresolved x then s else
    let s := endEpoch e 7 (0x01, 0) s
    let s := if x.phase = 1 then finish x.q x.seq 1 0 s else s
    endCmds e [0x41, 0x42, 0x43] 1 0 s

/-- Any item of the epoch is marked POISONED: its SEAL will end EPOCH_ABANDONED with DETAIL 0x0B (R104). -/
def poisonEpoch (e : Nat) : State → State := onEpoch e fun x => { x with poison := true }

/-! ### Bad data (R158 to R160) -/

/-- POISON_MARK (R161), cause 0 read error, 1 staging, 2 media CRC, 3 codec. DEDUCED, log entry 123. -/
def poisonMark (q seq unit cause : Nat) : State → State := raise 0x0403 1 q seq (unit % 2 ^ 48 + 2 ^ 48 * cause)

/-- The lower of two worst codes of R159, in the order MEDIA_CRC, CODEC_DAMAGED, POISONED; 0 is none. -/
def worse (a b : Nat) : Nat := if a = 0 then b else if b = 0 then a else
  let rank := fun n => if n = 0x0C then 0 else if n = 0x0D then 1 else 2
  if rank b < rank a then b else a

/-- A command notes bad data: the first applicable code with its first DETAIL. -/
def noteBad (q seq code detail : Nat) : State → State := onCmd q seq fun c =>
  let w := worse c.bad code
  { c with bad := w, badDetail := if w = c.bad then c.badDetail else detail }

/-- SPAN_ABORT (R160). -/
def spanAbortEvent (ctx q epoch : Nat) : State → State := raise 0x0404 2 q 0 (ctx % 2 ^ 17 + 2 ^ 20 * q + 2 ^ 32 * epoch)

/-- Bad data of a command (q, seq) or of an epoch (0 for none), in a context: marked, or the task aborts when the job
spans more than 4,096 devices. `units` are the bad 4 KiB units, `cause` as in POISON_MARK, `code` the status it gives. -/
def badAt (ctx q seq epoch : Nat) (units : List Nat) (cause code detail : Nat) (s : State) : State :=
  let own := (cmd? s q seq).any fun x => x.st == .started
  let cap := own && (cmd? s q seq).any fun x => itemOp x.item == 0x41 || itemOp x.item == 0x42
  if 4096 < jobSpan s then
    let s := spanAbortEvent ctx q epoch s
    let s := stopStreams (fun x => x.q == q && x.seq == seq && x.epoch == epoch) s
    if epoch = 0 then finish q seq 0x10 0 s
    else
      let s := if cap then finish q seq 0x10 0 s else s
      abandonEpoch epoch (if cap then (0x11, 0x10) else (0x10, 0)) s
  else
    let seen := if own then ((cmd? s q seq).map (·.marks)).getD 0 else ((epoch? s epoch).map (·.marks)).getD 0
    let now := units.take (64 - seen)
    let s := each now (fun u => poisonMark q seq u cause) s
    let s := if own then onCmd q seq (fun x => { x with marks := x.marks + now.length }) s
      else onEpoch epoch (fun x => { x with marks := x.marks + now.length }) s
    let s := onCtx ctx (fun x => { x with poisonSeen := true }) s
    let s := if own then noteBad q seq code detail s else s
    if epoch = 0 then s else poisonEpoch epoch s

/-- Bad data of a stream. -/
def badData (ctx : Nat) (units : List Nat) (cause code detail : Nat) (s : State) : State :=
  match Tab.get? s.str.ctxs ctx with
  | none => s
  | some c => badAt ctx c.q c.seq c.epoch units cause code detail s

/-- Bad data that no stream carries, in some vault sectors: a command ends with its code, or with ABORTED_SPAN (R158 to R160). -/
def badEnd (q seq : Nat) (units : List Nat) (code detail : Nat) (s : State) : State :=
  if 4096 < jobSpan s then finish q seq 0x10 0 (spanAbortEvent 0 q 0 (stopCmd q seq s))
  else finish q seq code detail (stopCmd q seq (each (units.take 64) (fun u => poisonMark q seq u 2) s))

end Sys2Proof.Machine
end

