-- ==== Sys2Proof/Machine/Tracker.lean ====
section
/-! DEFINITION. Row check values (R225, R226) and the row-table tracker: regions, group records, cuts, touches, flags of
the header, the cache (R123 to R126, R360, R400). -/

namespace Sys2Proof.Machine

/-! ### Check values (R225) -/

/-- The prime p. -/
def cvP : Nat := 0xFFFFFFFB

def powMod (fuel b e : Nat) : Nat :=
  match fuel with
  | 0 => 1
  | k + 1 => if e = 0 then 1 else
    let h := powMod k (b * b % cvP) (e / 2)
    if e % 2 = 1 then b * h % cvP else h

/-- 2^e modulo p, by the inverse for a negative e. -/
def pow2Mod (e : Int) : Nat :=
  if 0 ≤ e then powMod 16 2 e.toNat else powMod 48 (powMod 16 2 (-e).toNat) (cvP - 2)

/-- Σ c_j · q_j over the elements of a block from coefficient `c` = c_j on: the sum and the next coefficient. -/
def cvBlock (c : Nat) (acc : Nat) : List Int → Nat × Nat
  | [] => (acc, c)
  | q :: r => cvBlock (3 * c % cvP) ((acc + c * (q.emod cvP).toNat) % cvP) r

/-- The sum over blocks of (exponent, elements). -/
def cvBlocks (c : Nat) (acc : Nat) : List (Int × List Int) → Nat
  | [] => acc
  | b :: r =>
    let s := cvBlock c 0 b.2
    cvBlocks s.2 ((acc + pow2Mod b.1 * s.1) % cvP) r

/-- The check value of a row of a FORMAT (R225). -/
def rowCv (fmt : Nat) (row : Bytes) : Nat :=
  if fmt = 0 then cvBlocks 3 0 [(0, row.map fun b => (b.toNat : Int))]
  else cvBlocks 3 0 ((eblocks fmt row).map fun b => (b.e, b.q))

/-! ### Regions and groups (R123) -/

/-- The entries of the current cut's epochs and generations that a region serves: a region is keyed by its TRACK. -/
def region? (s : State) (t : Nat) : Option Region := Tab.get? s.cap.regions t

def cvOffset (r : Region) : Nat := roundUp (4096 + 128 * cdiv r.rows 128) 4096

/-- Bytes 0 to 31 of a region header. -/
def headerBytes (r : Region) : Bytes :=
  toLE 2 r.plan ++ toLE 2 r.entry ++ toLE 4 r.lastCut ++ toLE 8 r.rows ++ toLE 2 r.rowSize ++
    toLE 2 (b2n r.cv + 2 * b2n r.cached + 4 * b2n r.resync) ++ zeros 4 ++ toLE 8 (cvOffset r)

/-- Writes the header of a region (class 0). -/
def writeHeader (t : Nat) (s : State) : State :=
  match region? s t with
  | none => s
  | some r => fabReq (.header t) true t 64 0 (slice (headerBytes r) 0 64) false s

def groupBytes (g : Group) : Bytes :=
  toLE 16 g.d.toNat ++ toLE 16 g.w.toNat ++ toLE 16 g.done.toNat ++ toLE 16 g.stale.toNat ++ toLE 4 g.gepoch ++ zeros 60

def groupOf (b : Bytes) : Group :=
  { d := BitVec.ofNat 128 (fld b 0 16), w := BitVec.ofNat 128 (fld b 16 16), done := BitVec.ofNat 128 (fld b 32 16)
    stale := BitVec.ofNat 128 (fld b 48 16), gepoch := fld b 64 4 }

def group? (s : State) (t g : Nat) : Option Group := (region? s t).bind fun r => Tab.get? r.groups g

/-- A request of some kind is outstanding in one direction. -/
def fabOut (s : State) (kind : FabKind) (write : Bool) : Bool := s.out.fab.any fun r => r.kind == kind && r.write == write

/-- Writes one group record back (R125). -/
def writeGroup (t g : Nat) (s : State) : State :=
  match group? s t g with
  | none => s
  | some x =>
    let s := fabReq (.group t g) true (t + 4096 + 128 * g) 128 0 (groupBytes x) false s
    onRegion t (fun r => { r with groups := Tab.upd r.groups g fun y => { y with dirty := false } }) s

/-- Writes back every dirty group of a region (R125). -/
def writeBack (t : Nat) (s : State) : State :=
  match region? s t with
  | none => s
  | some r => each ((r.groups.filter fun g => g.2.dirty).map (·.1)) (writeGroup t) s

def writeBackAll (s : State) : State := each (s.cap.regions.map (·.1)) writeBack s

/-- Group records of a region, or of any, that are being written back. -/
def writingBack (s : State) (t : Option Nat) : Bool :=
  s.out.fab.any fun r => r.write && match r.kind with
    | .group x _ => t.all (· == x)
    | _ => false

/-- A write-back has completed: CACHED is cleared when every group of the region has been written back (R400). -/
def groupWritten (t : Nat) (s : State) : State :=
  match region? s t with
  | none => s
  | some r =>
    if r.cached && !writingBack s (some t) && !(r.groups.any fun g => g.2.dirty) then
      writeHeader t (onRegion t (fun x => { x with cached := false, isOpen := false }) s)
    else s

/-- Sets CACHED before the cache first holds a dirty group of the region (R400). -/
def openRegion (t : Nat) (s : State) : State :=
  match region? s t with
  | none => s
  | some r => if r.cached then s else writeHeader t (onRegion t (fun x => { x with cached := true }) s)

/-- Groups held by the cache. -/
def cachedGroups (s : State) : Nat := s.cap.regions.foldl (fun a r => a + r.2.groups.length) 0

/-- Groups that a change, a copy in flight or a CHECKVALUE still needs stay in the cache (DESIGN CHOICE, log entry 20). -/
def groupInUse (s : State) (t g : Nat) : Bool :=
  let isT := fun (e entry : Nat) => (epoch? s e).any fun x => eTrack (entryAt x.list entry) == t
  (s.cap.waiting.any fun o => o.region == t && o.group == g) ||
  (s.str.blocks.any fun b => match b.kind with
    | .row e entry row => row / 128 == g && isT e entry
    | _ => false) ||
  s.cap.passants.any fun p => p.2.row && p.2.item / 128 == g && decide (0 < p.2.toReturn) && isT p.2.epoch p.2.entry

/-- Makes room in a full cache of 8,192 groups: the first group not in use goes, written back when dirty, and its check
values with it (DESIGN CHOICE, log entry 20). -/
def evict (s : State) : State :=
  if cachedGroups s < 8192 then s else
  match s.cap.regions.find? fun r => r.2.groups.any fun g => !groupInUse s r.1 g.1 with
  | none => s
  | some (t, r) =>
    match r.groups.filter fun g => !groupInUse s t g.1 with
    | [] => s
    | (g, x) :: _ =>
      let s := if x.dirty then writeGroup t g s else s
      onRegion t (fun y => { y with
        groups := Tab.del y.groups g, check := y.check.filter fun v => v.1 / 128 != g }) s

/-- The first touch of a region after a reset finds CACHED set: RESYNC; the new cache holds no dirty group of it (R400). -/
def touchRegion (t : Nat) (s : State) : State :=
  match region? s t with
  | none => s
  | some r =>
    if r.touched then s else
    let s := onRegion t (fun x => { x with touched := true }) s
    if r.cached then
      writeHeader t (onRegion t (fun x => { x with resync := true, cached := false, isOpen := false }) s)
    else s

/-- Whether the fate kept for an epoch number is SEALED (R124). -/
def fateSealed (s : State) (n : Nat) : Bool :=
  decide (s.ldg.highest < n + 4096) && (epoch? s n).any fun e => e.phase == 5

/-- R124: a cut is applied to a group the first time it is touched after it. -/
def applyCut (s : State) (e : Nat) (g : Group) : Group :=
  if g.gepoch < e then
    { g with
      d := if g.gepoch = 0 ∨ fateSealed s g.gepoch then g.w else g.d ||| g.w
      w := 0, done := 0, gepoch := e, dirty := true }
  else g

def maskBits (m : Nat) : BitVec 128 := BitVec.ofNat 128 m

/-- The group as it stands once touched. -/
def touched? (s : State) (t g : Nat) : Option Group :=
  match region? s t, group? s t g with
  | some r, some x => some (applyCut s r.lastCut x)
  | _, _ => none

/-- Reads a group record when the cache lacks it; one request at a time per group (R125). -/
def fetchGroup (t g : Nat) (s : State) : State :=
  if (group? s t g).isSome || fabOut s (.group t g) false || fabOut s (.group t g) true then s
  else fabReq (.group t g) false (t + 4096 + 128 * g) 128 0 [] false (touchRegion t s)

/-! ### Check values of rows (R126, R226) -/

/-- A check value that the cache holds. -/
def cvAt (s : State) (t row : Nat) : Option Nat := (region? s t).bind fun r => Tab.get? r.check row

/-- Reads the granule of the CHECK array that holds a row's value (class 2, R15) when the cache lacks it. -/
def fetchCv (t row : Nat) (s : State) : State :=
  match region? s t with
  | none => s
  | some r =>
    if (Tab.get? r.check row).isSome || fabOut s (.check t (row / 16)) false || fabOut s (.check t (row / 16)) true then s
    else fabReq (.check t (row / 16)) false (t + cvOffset r + 64 * (row / 16)) 64 2 [] false s

/-- Writes the granule that holds a row's check value (class 0). -/
def writeCv (t k : Nat) (s : State) : State :=
  match region? s t with
  | none => s
  | some r => fabReq (.check t k) true (t + cvOffset r + 64 * k) 64 0
      ((List.range 16).flatMap fun i => toLE 4 (Tab.getD r.check (16 * k + i) 0)) false s

/-! ### Changes of groups (R124 to R126, R400) -/

/-- A touch without another change. -/
def touchOf (t g : Nat) : GroupOp := { region := t, group := g }

/-- The group after a change, the cut applied first. -/
def opGroup (s : State) (o : GroupOp) : Option Group :=
  (touched? s o.region o.group).map fun g =>
    { g with
      w := g.w ||| maskBits o.w, done := g.done ||| maskBits o.done
      stale := (g.stale ||| maskBits o.stale) &&& ~~~(maskBits o.fresh) }

/-- The check values that a change stores: 0xFFFFFFFF for a row that becomes STALE (R226). -/
def opVals (o : GroupOp) : Tab Nat :=
  o.vals ++ ((List.range 128).filter o.stale.testBit).map fun b => (128 * o.group + b, 0xFFFFFFFF)

/-- A change can be made: its group and the check values it touches are held, and CACHED is set when it leaves the group
dirty. -/
def opReady (s : State) (o : GroupOp) : Bool :=
  match region? s o.region, opGroup s o with
  | some r, some y => (r.isOpen || group? s o.region o.group == some y) && (opVals o).all fun v => (Tab.get? r.check v.1).isSome
  | _, _ => false

/-- Makes a change. -/
def applyOp (o : GroupOp) (s : State) : State :=
  match opGroup s o with
  | none => s
  | some y =>
    let old := group? s o.region o.group
    let s := if old = some y then s else diffWrite 7 (16 * o.group) (groupBytes (old.getD y)) (groupBytes y)
      (onRegion o.region (fun r => { r with groups := Tab.put r.groups o.group { y with dirty := true } }) s)
    let vs := opVals o
    let s := onRegion o.region (fun r => { r with check := vs.foldl (fun t v => Tab.put t v.1 v.2) r.check }) s
    each ((vs.map fun v => v.1 / 16).dedup) (writeCv o.region) s

/-- Asks for what a change lacks. -/
def prepareOp (o : GroupOp) (s : State) : State :=
  let s := fetchGroup o.region o.group s
  let s := if (opGroup s o).all fun y => group? s o.region o.group == some y then s else openRegion o.region s
  each (opVals o) (fun v => fetchCv o.region v.1) s

/-- Makes the changes of a region that are ready, those of one group in order. -/
def settleOps (t : Nat) (s : State) : State :=
  let r := s.cap.waiting.foldl (fun (acc : State × List GroupOp) o =>
    if o.region != t || acc.2.any (fun p => p.region == o.region && p.group == o.group) || !opReady acc.1 o then
      (acc.1, acc.2 ++ [o])
    else (applyOp o acc.1, acc.2)) (s, [])
  let s : State := { r.1 with cap.waiting := r.2 }
  each (s.cap.waiting.filter fun o => o.region == t) prepareOp s

/-- Makes a change, or keeps it until its group, CACHED and its check values are there. A change that repeats the last one
waiting for its group adds nothing. -/
def groupOp (o : GroupOp) (s : State) : State :=
  let last := (s.cap.waiting.filter fun p => p.region == o.region && p.group == o.group).getLast?
  if last == some o then s else settleOps o.region { s with cap.waiting := s.cap.waiting ++ [o] }

/-- A group record arrives (R125). -/
def groupArrives (t g : Nat) (data : Bytes) (s : State) : State :=
  let s := lanesWrite 7 (16 * g) 16 (evict s)
  settleOps t (onRegion t (fun r => { r with groups := Tab.put r.groups g (groupOf (slice data 0 128)) }) s)

/-- A granule of the CHECK array arrives. -/
def cvArrives (t k : Nat) (data : Bytes) (s : State) : State :=
  settleOps t (onRegion t (fun r => { r with
    check := (List.range 16).foldl (fun c i => Tab.put c (16 * k + i) (fld data (4 * i) 4)) r.check }) s)

/-- A header write has completed: with CACHED set the cache may hold dirty groups (R400). -/
def headerWritten (t : Nat) (s : State) : State :=
  settleOps t (if fabOut s (.header t) true then s
    else onRegion t (fun r => { r with isOpen := r.cached }) s)

/-! ### Rows -/

/-- Rows of a table that a range of bytes touches: first row and count. -/
def rowsOf (base rowSize addr len : Nat) : Nat × Nat :=
  let a := (addr - base) / rowSize
  (a, (addr + len - 1 - base) / rowSize + 1 - a)

/-- The groups that rows lie in, with the mask of the rows in each. -/
def groupMasks (first count : Nat) : List (Nat × Nat) :=
  let g0 := first / 128
  let g1 := (first + count - 1) / 128
  (List.range (g1 + 1 - g0)).map fun i =>
    let g := g0 + i
    (g, maskOf 128 fun b => decide (first ≤ 128 * g + b) && decide (128 * g + b < first + count))

/-- Rows that a range of bytes touches and does not cover whole. -/
def partialRows (base rowSize addr len first count : Nat) : List Nat :=
  ((List.range count).map (first + ·)).filter fun r =>
    decide (base + r * rowSize < addr) || decide (addr + len < base + (r + 1) * rowSize)

/-- Sets W, and STALE with its check value, for written rows of a group (R125, R126, R226). -/
def markRows (t g w stale : Nat) (s : State) : State :=
  groupOp { region := t, group := g, w, stale := if (region? s t).any (·.cv) then stale else 0 } s

/-- RESYNC of a region (R400). -/
def setResync (t : Nat) (s : State) : State :=
  match region? s t with
  | none => s
  | some r => if r.resync then s else writeHeader t (onRegion t (fun x => { x with resync := true }) s)

/-- Enters rows in the recent-write table of 4,096 entries, kept for 4,096 ns (R228). -/
def recentWrite (entry : Nat) (rows : List Nat) (s : State) : State :=
  let live := s.cap.recent.filter fun e => decide (s.time.aon < e.2.2 + 410)
  let all := live ++ rows.map fun r => (entry, r, s.time.aon)
  if 4096 < all.length then { s with cap.recent := all.drop (all.length - 4096), cap.overflow := some s.time.aon }
  else { s with cap.recent := all }

/-- The tracker meets a table that no cut has named yet, for the check values of its rows. -/
def openTable (plan entry : Nat) (en : Bytes) (s : State) : State :=
  if (region? s (eTrack en)).isSome then s else
  { s with cap.regions := Tab.put s.cap.regions (eTrack en) {
    plan, entry, lastCut := 0, rows := eSize en, rowSize := eRow en, cv := true } }

/-- The cut of an epoch for one table (R123, R124, R400): the header names the cut, and is written at the first one. -/
def cutRegion (plan entry e : Nat) (en : Bytes) (s : State) : State :=
  let t := eTrack en
  let s := touchRegion t s
  let r : Region := match region? s t with
    | some r => { r with lastCut := e, plan, entry }
    | none => { plan, entry, lastCut := e, rows := eSize en, rowSize := eRow en, cv := eCheck en, touched := true }
  writeHeader t { s with cap.regions := Tab.put s.cap.regions t r }

end Sys2Proof.Machine
end

