-- ==== Sys2Proof/Machine/Filters.lean ====
section
/-! DEFINITION. The hazard filters: dirty-plate banks, pending items, held writes, passant copies and the requests at the
insertion points (R113, R119 to R128, R131, R133, R226, R228, R333, R334, R360). -/

namespace Sys2Proof.Machine

/-! ### Banks (R113, R114) -/

/-- The plate index of a fabric address. -/
def plateOf (s : State) (addr : Nat) : Nat := (addr - plateBase s) / 65536

def collBank (s : State) : Iset := if s.cap.coll then s.cap.bank1 else s.cap.bank0
def capBank (s : State) : Iset := if s.cap.coll then s.cap.bank0 else s.cap.bank1

/-- Sets collecting-bank bits of plates `[lo, hi)`. -/
def setColl (lo hi : Nat) (s : State) : State :=
  bankWrite (if s.cap.coll then 131072 else 0) lo hi <|
    if s.cap.coll then { s with cap.bank1 := Iset.add s.cap.bank1 lo hi }
    else { s with cap.bank0 := Iset.add s.cap.bank0 lo hi }

/-! ### Parts of intervals -/

/-- The part of `[lo, hi)` outside a set. -/
def isetMinus (lo hi : Nat) : Iset → List (Nat × Nat)
  | [] => if lo < hi then [(lo, hi)] else []
  | (a, b) :: r =>
    if hi ≤ a then (if lo < hi then [(lo, hi)] else [])
    else if b ≤ lo then isetMinus lo hi r
    else (if lo < a then [(lo, a)] else []) ++ isetMinus (max b lo) hi r

/-- The part of `[lo, hi)` inside a set. -/
def isetInter (lo hi : Nat) (s : Iset) : List (Nat × Nat) :=
  s.filterMap fun i => if max lo i.1 < min hi i.2 then some (max lo i.1, min hi i.2) else none

/-- Address of an item of an entry: a plate or a row. -/
def itemAddr (en : Bytes) (i : Nat) : Nat := eAddr en + i * (if eKind en = 2 then eRow en else 65536)

/-- Cuts an item where it enters and leaves the windows of some filters: the parts inside, then those outside. -/
def splitWindows (s : State) (x : Epoch) (ns : List Nat) (i : CopyItem) : List CopyItem × List CopyItem :=
  let en := entryAt x.list i.entry
  let size := if eKind en = 2 then eRow en else 65536
  let wins := (ns.filter fun n => decide (0 < winLen s n)).map fun n =>
    (plateBase s + 65536 * winFirst s n, plateBase s + 65536 * (winFirst s n + winLen s n))
  -- items with a byte in such a window
  let inside := wins.foldl (fun a w => let lo := (w.1 - eAddr en) / size; let hi := cdiv (w.2 - eAddr en) size
    if w.1 < w.2 ∧ lo < hi then Iset.add a lo hi else a) []
  ((isetInter i.first (i.first + i.count) inside).map (fun r => ⟨i.entry, r.1, r.2 - r.1⟩),
    (isetMinus i.first (i.first + i.count) inside).map fun r => ⟨i.entry, r.1, r.2 - r.1⟩)

/-! ### Filters -/

/-- The epoch in CUT or CAPTURING (R19). -/
def capEpoch (s : State) : Option Epoch := (Tab.vals s.cap.epochs).find? fun e => e.phase == 1 || e.phase == 2

def filterOf (s : State) (n : Nat) : Filter := (Tab.get? s.cap.filters n).getD {}

def onFilter (n : Nat) (f : Filter → Filter) (s : State) : State :=
  { s with cap.filters := Tab.upd s.cap.filters n f }

/-- A segment overlaps a range of bytes. -/
def segMeets (s : State) (addr bytes : Nat) (g : Seg) : Bool :=
  if g.rows then decide (addr < g.hi) && decide (g.lo < addr + bytes)
  else decide (g.lo ≤ plateOf s addr) && decide (plateOf s addr < g.hi)

/-- Whether an epoch captures an entry in full: a full epoch, or an entry that R93, R133 or R400 names. -/
def wholeEntry (e : Epoch) (entry : Nat) : Bool := !e.incr || e.full.contains entry

/-- A pending plate (R119). -/
def pendingPlate (s : State) (n p : Nat) : Bool :=
  match capEpoch s with
  | none => false
  | some e =>
    (filterOf s n).segs.any fun g => !g.rows && decide (g.lo ≤ p) && decide (p < g.hi) && decide (g.cursor ≤ p) &&
      (wholeEntry e g.entry || (capBank s).mem p) && !(collBank s).mem p

/-- The changes that wait for one group. -/
def opsOf (s : State) (t g : Nat) : List GroupOp := s.cap.waiting.filter fun o => o.region == t && o.group == g

/-- A row has been copied: DONE is set, or about to be (R125). -/
def rowCopied (s : State) (t row : Nat) (g : Group) : Bool :=
  g.done.getLsbD (row % 128) || (opsOf s t (row / 128)).any fun o => o.done.testBit (row % 128)

/-- A pending row (R125); `none` while the tracker has not read the row's group. -/
def pendingRow (s : State) (e : Epoch) (entry row : Nat) : Option Bool :=
  let t := eTrack (entryAt e.list entry)
  (touched? s t (row / 128)).map fun g => !rowCopied s t row g && (wholeEntry e entry || g.d.getLsbD (row % 128))

/-- A passant copy of an item whose injected reads have not all been accepted. -/
def copying (s : State) (entry item : Nat) (row : Bool) : Bool :=
  s.cap.passants.any fun p => p.2.entry == entry && p.2.item == item && p.2.row == row && decide (0 < p.2.toAccept)

/-- The entry whose segment holds a plate. -/
def plateEntry (s : State) (n p : Nat) : Nat :=
  (((filterOf s n).segs.find? fun g => !g.rows && decide (g.lo ≤ p) && decide (p < g.hi)).map (·.entry)).getD 0

/-- The rows of a held write. -/
def heldRows (h : Held) : List (Nat × Nat) :=
  h.rows.flatMap fun r => (List.range r.2.2).map fun i => (r.1, r.2.1 + i)

/-- A held write may be released (R120, R125). DEDUCED, log entry 90. -/
def heldClear (s : State) (n : Nat) (h : Held) : Bool :=
  (match h.plate with
    | none => true
    | some p => !pendingPlate s n p && !s.cap.passants.any fun x =>
        x.2.item == p && !x.2.row && x.2.filter == n && decide (0 < x.2.toAccept)) &&
  (match capEpoch s with
    | none => true
    | some e => (heldRows h).all fun r => pendingRow s e r.1 r.2 == some false && !copying s r.1 r.2 true)

/-! ### Passant copies (R120, R122, R125, R127, R128) -/

/-- The injected reads of `[addr, addr + len)`: one for each 4 KiB block (R125, R328). -/
def splitPages (fuel addr len : Nat) : List (Nat × Nat) :=
  match fuel with
  | 0 => []
  | k + 1 =>
    if len = 0 then [] else
    let m := min len (4096 - addr % 4096)
    (addr, m) :: splitPages k (addr + m) (len - m)

/-- Starts a passant copy: units, a tag and its injected reads (R120 items 2 and 3). -/
def startCopy (n : Nat) (p : Passant) (addr len : Nat) (s : State) : State :=
  let rs := splitPages 17 addr len
  let tag := Tab.gap s.cap.passants 0
  let inj := (List.range rs.length).zip rs
  let s := lanesWrite 1 (32 * tag) 32 { s with
    cap.passants := Tab.put s.cap.passants tag { p with toAccept := rs.length, toReturn := rs.length }
    cap.units := s.cap.units - p.units }
  each inj (fun r t => onFilter n
    (fun f => { f with inj := f.inj ++ [⟨tag, r.2.1, r.2.2, fabPort t r.2.1 0, t.out.nextId⟩] })
    { t with out.nextId := t.out.nextId + 1 }) s

/-- The write as it was presented. -/
def sameHeld (h x : Held) : Bool := { x with wait := false } == { h with wait := false }

/-- A hazard finds the reserve full: STALL, with one event for each write, or ABANDON (R127, R128); ABANDON while the block
is halted (R388). -/
def reserveFull (n : Nat) (e : Epoch) (h : Held) (s : State) : State :=
  if hAbandon e.list ∨ halted s then raise0 0x0304 2 (e.num + n * 2 ^ 32) (abandonEpoch e.num (0x11, 0x11) s)
  else if (filterOf s n).held.any fun x => sameHeld h x && x.wait then s
  else raise0 0x0303 1 (e.num + n * 2 ^ 32 + s.cap.units * 2 ^ 40)
    (onFilter n (fun f => { f with held := f.held.map fun x => if sameHeld h x then { x with wait := true } else x }) s)

/-- Light slots of all movers that no transfer and no injected read waiting for its acceptance will take (R125, R150). -/
def lightFree (s : State) : Nat :=
  (inService s 2).foldl (fun a m => a + (32 - lightUsed s m)) 0 -
    s.cap.filters.foldl (fun a f => a + (f.2.inj.filter fun i => decide (i.len ≤ 512)).length) 0

/-- Starts a copy when the reserve has room, one of the 128 tags is free and its requests of 512 B or less find light slots;
a write without them waits (R121, R125, R150). -/
def tryCopy (n : Nat) (e : Epoch) (h : Held) (p : Passant) (addr len : Nat) (s : State) : State :=
  if s.cap.units < p.units then reserveFull n e h s
  else if 128 ≤ (s.cap.passants.filter fun x => x.2.tagged).length then s
  else if lightFree s < ((splitPages 17 addr len).filter fun r => decide (r.2 ≤ 512)).length then s
  else startCopy n p addr len s

/-- The background copy of a plate is partly issued (R120). -/
def partlyIssued (s : State) (e entry plate : Nat) : Bool :=
  s.str.blocks.any fun b => b.kind == .enc e entry plate && decide (0 < b.issued)

/-- A background copy of which no request has been issued yields to the passant copy just started: a plate's block stands for
it, a row's is not read. DEDUCED, log entry 93. -/
def supersede (e entry item k : Nat) (row : Bool) (s : State) : State :=
  match s.cap.passants.find? fun p => p.2.epoch == e && p.2.entry == entry && p.2.item == item && p.2.row == row && !p.2.drop with
  | none => s
  | some (tag, _) =>
    if row then { s with str.blocks := s.str.blocks.filter fun b => b.kind != .row e entry item }
    else
      let stand := fun (b : Blk) => { b with tag := some tag, lane := none, passant := true, issued := b.need, passed := b.need }
      { s with str.blocks := updWhere (fun b => b.kind == .enc e entry k && b.tag.isNone && b.issued == 0) stand s.str.blocks }

/-- The copy of a plate that a held write needs. -/
def servePlate (n : Nat) (h : Held) (p : Nat) (s : State) : State :=
  match capEpoch s with
  | none => s
  | some e =>
    let entry := plateEntry s n p
    if pendingPlate s n p && !copying s entry p false then
      let k := p - plateOf s (eAddr (entryAt e.list entry))
      supersede e.num entry p k false <|
        tryCopy n e h { filter := n, epoch := e.num, entry, item := p, row := false, units := 256, toAccept := 0, toReturn := 0
                        drop := partlyIssued s e.num entry k } (plateBase s + 65536 * p) 65536 s
    else s

/-- A change of the row's STALE bit or check value waits. -/
def cvChanging (s : State) (t row : Nat) : Bool :=
  (opsOf s t (row / 128)).any fun o => o.stale.testBit (row % 128) || o.fresh.testBit (row % 128)

/-- What a copy of a row is compared with (R126): nothing when the row is STALE, has no check value or is captured under
RESYNC; `none` while the stored value is not known. DEDUCED, log entry 92. -/
def compareCv (s : State) (e : Epoch) (entry row : Nat) : Option (Option Nat) :=
  let t := eTrack (entryAt e.list entry)
  match region? s t, touched? s t (row / 128) with
  | some r, some g =>
    if !r.cv || e.resync.contains entry then some none
    else if cvChanging s t row then none
    else if g.stale.getLsbD (row % 128) then some none
    else (cvAt s t row).map some
  | _, _ => none

/-- Asks for a row's stored check value when a copy of the row waits for it. -/
def askCv (e : Epoch) (entry row : Nat) (s : State) : State :=
  let t := eTrack (entryAt e.list entry)
  if (touched? s t (row / 128)).isNone then fetchGroup t (row / 128) s
  else if cvChanging s t row then s else fetchCv t row s

/-- The copy of one row that a held write needs. -/
def serveRow (n : Nat) (h : Held) (entry row : Nat) (s : State) : State :=
  match capEpoch s with
  | none => s
  | some e =>
    let en := entryAt e.list entry
    if pendingRow s e entry row == some true && !copying s entry row true then
      match compareCv s e entry row with
      | none => askCv e entry row s
      | some cv =>
        supersede e.num entry row 0 true <|
          tryCopy n e h { filter := n, epoch := e.num, entry, item := row, row := true, units := cdiv (eRow en) 256
                          toAccept := 0, toReturn := 0, cv } (itemAddr en row) (eRow en) s
    else s

/-- W is set, or about to be, for some rows of a group. -/
def written (s : State) (t g m : Nat) : Bool :=
  let w := (opsOf s t g).foldl (fun a o => a ||| o.w) (((touched? s t g).map fun x => x.w.toNat).getD 0)
  w &&& m == m

/-- The tracker decides the rows of a held write: groups are read, W is set, copies start (R125). -/
def serveRows (n : Nat) (h : Held) (r : Nat × Nat × Nat) (s : State) : State :=
  match capEpoch s with
  | none => s
  | some e =>
    let t := eTrack (entryAt e.list r.1)
    let ms := groupMasks r.2.1 r.2.2
    let s := each ms (fun m t' => if written t' t m.1 m.2 then t' else markRows t m.1 m.2 0 t') s
    each ((List.range r.2.2).map (r.2.1 + ·)) (fun row => serveRow n h r.1 row) s

def serveHeld (n : Nat) (h : Held) (s : State) : State :=
  let s := match h.plate with
    | none => s
    | some p => servePlate n h p s
  each h.rows (serveRows n h) s

/-- Releases the sources whose every held write is clear (R332). -/
def releaseClear (n : Nat) (s : State) : State :=
  let f := filterOf s n
  let stuck := (f.held.filter fun h => !heldClear s n h).map (·.src)
  let go := (f.held.map (·.src)).dedup.filter fun x => !stuck.contains x
  if go.isEmpty then s else
  onFilter n (fun f => { f with held := f.held.filter fun h => !go.contains h.src })
    { s with out.rels := s.out.rels ++ go.map fun x => (n, x) }

/-- Held writes go on: copies start, clear writes are released. -/
def serveFilter (n : Nat) (s : State) : State := releaseClear n (each (filterOf s n).held (serveHeld n) s)

def serveFilters (s : State) : State := each (s.cap.filters.map (·.1)) serveFilter s

/-! ### Requests at the insertion points -/

/-- The rows of armed extents that a range touches: entry, first row, count. -/
def rowsTouched (s : State) (e : Epoch) (segs : List Seg) (addr bytes : Nat) : List (Nat × Nat × Nat) :=
  (segs.filter fun g => g.rows && segMeets s addr bytes g).map fun g =>
    let en := entryAt e.list g.entry
    let lo := max addr g.lo
    let r := rowsOf (eAddr en) (eRow en) lo (min (addr + bytes) g.hi - lo)
    (g.entry, r.1, r.2)

/-- FILTER_WRITE_PRESENT (R119, R120, R125, R332, R333). -/
def filterWritePresent (n src addr bytes : Nat) (s : State) : State :=
  let f := filterOf s n
  if f.segs.isEmpty ∨ bytes = 0 then s else
  match capEpoch s with
  | none => s
  | some e =>
    let p := plateOf s addr
    let rows := rowsTouched s e f.segs addr bytes
    let flight := s.cap.passants.any fun x => x.2.item == p && !x.2.row && x.2.filter == n && decide (0 < x.2.toAccept)
    let plate := if pendingPlate s n p || flight then some p else none
    let behind := f.held.any fun h => h.src == src
    let srcs := (f.held.map (·.src)).dedup.length
    if !behind && rows.isEmpty && plate.isNone then { s with out.vld := s.out.vld ++ [(n, src, false)] }
    else if !behind && decide (256 ≤ srcs) then s
    else
      let s := onFilter n (fun f => { f with held := f.held ++ [{ src, addr, bytes, plate, rows }] })
        { s with out.vld := s.out.vld ++ [(n, src, true)] }
      serveFilter n s

def execFilterWritePresent (n src addr bytes : Nat) (s : State) : Host.Outcome State Fault Refusal :=
  .next (when (up s) (filterWritePresent n src addr bytes) s)

/-- The row tables that the tracker follows: entry of an unfreed generation whose region has met a cut. -/
def tables (s : State) : List (Nat × Bytes) :=
  let all := (s.adm.gens.filter fun g => !g.freed).flatMap fun g =>
    (liveEntries g.bytes).filter fun e => eKind e.2 == 2 && (region? s (eTrack e.2)).isSome
  all.foldl (fun acc e => if acc.any (fun x => eTrack x.2 == eTrack e.2) then acc else acc ++ [e]) []

/-- A write overtakes the reads that a CHECKVALUE has issued for some rows of a table: they are read again (DESIGN CHOICE, log
entry 41). -/
def overtake (t : Nat) (r : Nat × Nat) (s : State) : State :=
  { s with str.blocks := s.str.blocks.map fun b =>
      match b.kind with
      | .cvRow row =>
        if r.1 ≤ row ∧ row < r.1 + r.2 ∧ (Tab.get? s.str.ctxs b.ctx).any (fun c => c.lo == t) then { b with tries := 1 } else b
      | _ => b }

/-- An accepted write into one row table (R125, R126, R226, R228, R360). -/
def tableWrite (entry : Nat) (en : Bytes) (addr : Nat) (data : Bytes) (s : State) : State :=
  let base := eAddr en
  let size := eRow en
  let t := eTrack en
  let lo := max addr base
  let hi := min (addr + data.length) (base + eSize en * size)
  if hi ≤ lo then s
  else if s.pwr.state ≠ 0 then
    { onRegion t (fun r => { r with sweep := true }) s with cap.sweepPend := true }
  else
    let r := rowsOf base size lo (hi - lo)
    let part := partialRows base size lo (hi - lo) r.1 r.2
    let whole := ((List.range r.2).map (r.1 + ·)).filter fun x => !part.contains x
    let s := recentWrite entry ((List.range r.2).map (r.1 + ·)) s
    let cv := (region? s t).any (·.cv)
    each (groupMasks r.1 r.2) (fun m t' =>
      let in_ := fun (l : List Nat) => maskOf 128 fun b => cv && m.2.testBit b && l.contains (128 * m.1 + b)
      groupOp { region := t, group := m.1, w := m.2, stale := in_ part, fresh := in_ whole
                vals := if cv then (whole.filter fun x => x / 128 == m.1).map fun row =>
                  (row, rowCv (eFormat en) (slice data (base + row * size - addr) size)) else [] } t') (overtake t r s)

/-- FILTER_WRITE_ACCEPT (R113, R126, R133 item 3): a retired filter sets no bank bits and refers nothing to the
tracker. -/
def filterWriteAccept (n addr : Nat) (data : Bytes) (s : State) : State :=
  if retired s 8 n ∨ data.isEmpty then s else
  let p0 := plateOf s addr
  let p1 := plateOf s (addr + data.length - 1)
  let first := max p0 (winFirst s n)
  let last := min (p1 + 1) (winFirst s n + winLen s n)
  let s := if plateBase s ≤ addr ∧ first < last then setColl first last s else s
  each (tables s) (fun e => tableWrite e.1 e.2 addr data) s

def execFilterWriteAccept (n src addr : Nat) (data : Bytes) (s : State) : Host.Outcome State Fault Refusal :=
  .next (when (up s && decide (n < 8) && decide (src < 65536)) (filterWriteAccept n addr data) s)

/-- A row's copy counts as copied: DONE is set (R125). -/
def setDone (t row : Nat) : State → State := groupOp { region := t, group := row / 128, done := 2 ^ (row % 128) }

/-- Every injected read of a copy has been accepted: the item is copied, its tag is free (R120 items 4 and 5). -/
def copyAccepted (tag : Nat) (p : Passant) (s : State) : State :=
  let s := { s with cap.passants := Tab.upd s.cap.passants tag fun x => { x with tagged := false } }
  let s := if p.row then
      match capEpoch s with
      | some e => if e.num = p.epoch then setDone (eTrack (entryAt e.list p.entry)) p.item s else s
      | none => s
    else setColl p.item (p.item + 1) s
  serveFilters s

/-- INJECTED_READ_ACCEPT: the oldest injected read of a filter is accepted (R107, R334). -/
def injectedReadAccept (n : Nat) (s : State) : State :=
  match (filterOf s n).inj with
  | [] => s
  | i :: rest =>
    let s := onFilter n (fun f => { f with inj := rest }) s
    match Tab.get? s.cap.passants i.tag with
    | none => s
    | some p =>
      let p := { p with toAccept := p.toAccept - 1 }
      let base := if p.row then
          (match capEpoch s with
            | some e => itemAddr (entryAt e.list p.entry) p.item
            | none => i.addr)
        else plateBase s + 65536 * p.item
      let s := { s with
        cap.passants := Tab.put s.cap.passants i.tag p
        out.fab := s.out.fab ++ [{ id := i.id, kind := .passant i.tag (i.addr - base), port := i.port, write := false
                                   addr := i.addr, len := i.len, cls := 0, granted := true
                                   mover := if i.len ≤ 512 then lightMover s else none }] }
      if p.toAccept = 0 then copyAccepted i.tag p s else s

def execInjectedReadAccept (n : Nat) (s : State) : Host.Outcome State Fault Refusal :=
  .next (when (up s) (injectedReadAccept n) s)

/-- TRACKER_GROUP_READ_RETURN (R125): the group is cached, the cut applied, the waiting writes decided. -/
def trackerGroupReadReturn (t g : Nat) (data : Bytes) (s : State) : State :=
  match s.out.fab.find? fun r => r.kind == .group t g && !r.write with
  | none => s
  | some r => fabAnswered r (fun s => serveFilters (groupArrives t g data
      { s with out.fab := s.out.fab.filter fun x => x.id != r.id })) s

/-- The region of an entry of the current cut or of a table that the tracker follows; entries are numbered per plan, and
a number that two plans share names the epoch's own. -/
def trackOf (s : State) (entry : Nat) : Option Nat :=
  match s.cap.regions.find? (fun r => r.2.entry == entry && (capEpoch s).any fun e => e.plan == r.2.plan) with
  | some r => some r.1
  | none => (s.cap.regions.find? fun r => r.2.entry == entry).map (·.1)

def execTrackerGroupReadReturn (entry group : Nat) (data : Bytes) (s : State) : Host.Outcome State Fault Refusal :=
  .next (when (up s && s.pwr.state == 0)
    (fun s => match trackOf s entry with
      | none => s
      | some t => trackerGroupReadReturn t group data s) s)

end Sys2Proof.Machine
end

