-- ==== Sys2Proof/Machine/Channels.lean ====
section
/-! DEFINITION. Channels: transient upsets and their charge (R309, R310), retirement and what it moves (R311, R314,
R133), FAULT_HOLD (R315), the fall of a link (R248, R271). -/

namespace Sys2Proof.Machine

/-! ### Links that go down -/

/-- Peers that no port in UP reaches any more are no longer handshaken, and one that was unreachable is tried again once a link is up
(R254, R258). -/
def dropPeers (s : State) : State :=
  { s with spl.peers := s.spl.peers.map fun p => if (upPorts s p.1).isEmpty then (p.1, { p.2 with ready := false, lost := false }) else p }

/-- A link leaves UP, or its bring-up starts again: LINK_DOWN when it was up (R248, R271). Frames not acknowledged stay
with the port. -/
def linkDown (p cause state : Nat) (s : State) : State :=
  match port? s p with
  | none => s
  | some x =>
    let s := dropPeers (onPort p (fun y => { y with
      state, lanes := Tab.mapv y.lanes fun l => { trainFails := l.trainFails }, nakSent := false, acked := false, rxMask := 15
      aligns := [], ctl := [], tx := [], again := [] }) s)
    if x.state = 5 ∨ x.state = 6 then raise0 0x0802 1 (p + cause * 2 ^ 8) s else s

/-- The message of a frame that was lost with its link: it is sent again before new ones (R248). -/
def lostFrame (f : TxFrame) : OutMsg := { vc := f.vc, msg := f.msg, cls := f.cls, ctx := f.ctx, again := true }

/-- Messages of a port that will not carry them go to other ports of their destinations (R249, R311). -/
def moveMessages (p : Nat) (s : State) : State :=
  match port? s p with
  | none => s
  | some x =>
    let ms := x.unacked.map lostFrame ++ x.queued
    let s := onPort p (fun y => { y with unacked := [], queued := [] }) s
    each ms (fun m t => match bestPort t (mDst m.msg) with
      | none => tidingDropped m.msg t
      | some q => queueMsg q { m with again := false } t) s

/-! ### FAULT_HOLD (R315, R316) -/

/-- A FAULT record: channel kind, index and cause of a retirement or return (R298; DEDUCED, log entry 30). It dies with the
channel's object slot, which is written with it. -/
def faultRecord (kind ix cause state : Nat) : State → State :=
  append 4 state 0xFFFF 0 (toLE 1 kind ++ toLE 1 ix ++ toLE 1 cause) true

/-- FAULT_HOLD: last gasp, its event, release of every hold and held write (R315). -/
def faultHold (cause : Nat) (s : State) : State :=
  if s.regs.gasp.hold then s else
  let s := latchGasp cause s
  let s := faultRecord 0xFF 0 cause 2 s
  let s := raise0 0x0A02 3 (cause + 2 ^ 16 * ((s.ldg.lsn + 2 ^ 32 - 1) % 2 ^ 32)) s
  let s := disarmFilters { s with cap.cut := {} }
  let s := fixUnits { s with cap.passants := [] }
  { s with regs.gasp.hold := true }

/-! ### Retirement (R310, R311) -/

/-- A block slot of staging. -/
def blk? (s : State) (id : Nat) : Option Blk := s.str.blocks.find? fun b => b.id == id

/-- Events of a retirement (R325). -/
def retiredEvent (kind ix cause : Nat) : State → State := raise0 0x0A08 2 (kind + ix * 2 ^ 8 + cause * 2 ^ 16)

/-- Tables with a part in a filter's window (R133, R400). -/
def tablesIn (s : State) (n : Nat) : List (Nat × Bytes) :=
  let lo := plateBase s + 65536 * winFirst s n
  (tables s).filter fun e => overlap lo (65536 * winLen s n) (eAddr e.2) (eBytes e.2)

/-- A source read that must be reissued after its filter passed it: its content is the epoch's only while the plate or
row has not been written since the cut (R311). -/
def reissueBad (s : State) (r : FabReq) : Bool :=
  match r.kind with
  | .source b _ => r.seen && ((blk? s b).any fun x =>
      match x.kind with
      | .enc .. => (collBank s).mem (plateOf s r.addr)
      | .row e entry row => (epoch? s e).any fun ep => written s (eTrack (entryAt ep.list entry)) (row / 128) (2 ^ (row % 128))
      | _ => false)
  | .passant tag _ => (Tab.get? s.cap.passants tag).any fun p => !p.row || p.toAccept == 0
  | _ => false

/-- Marks what a lost read carried as bad: its unit, and the epoch as poisoned. -/
def markReadBad (r : FabReq) (s : State) : State :=
  match r.kind with
  | .source b _ =>
    let s := { s with
      str.blocks := updWhere (fun x => x.id == b) (fun x =>
        { x with bad := max x.bad 1, badUnits := x.badUnits ++ [r.addr - r.addr % 4096] }) s.str.blocks }
    match (blk? s b).map Blk.kind with
    | some (.enc e _ _) | some (.row e _ _) => poisonEpoch e s
    | _ => s
  | .passant tag _ =>
    let s := { s with cap.passants := Tab.upd s.cap.passants tag fun p => { p with bad := true } }
    match capEpoch s with
    | some e => poisonEpoch e.num s
    | none => s
  | _ => s

/-- Requests outstanding on a retired fabric port go to the next port in service (R311, R331). -/
def moveRequests (ix : Nat) (s : State) : State :=
  let mine := s.out.fab.filter fun r => r.port == ix
  let s := each (mine.filter (reissueBad s)) markReadBad s
  { s with out.fab := s.out.fab.map fun r =>
      if r.port = ix then
        { r with port := fabPort s r.addr 0, data := if r.write then r.data else [], err := 0, granted := isInjected r }
      else r }

/-- The streams of a retired mover continue on other movers from their contexts; read data already requested still lands
(R311). -/
def moverGone (ix : Nat) (s : State) : State :=
  { s with
    str.ctxs := Tab.mapv s.str.ctxs fun c => if c.mover = some ix then { c with mover := none } else c
    out.fab := s.out.fab.map fun r => if r.mover = some ix then { r with mover := none } else r }

/-- The blocks of a retired lane rerun on another lane from staging (R311). -/
def laneRetired (ix : Nat) (s : State) : State :=
  { s with str.blocks := s.str.blocks.map fun b =>
      { b with
        lane := if b.lane = some ix then none else b.lane
        half := if b.half.any fun h => h.1 == ix then none else b.half } }

/-- The source block or row that a block stands for still has requests that have not passed filter `n`. -/
def openIn (s : State) (n e : Nat) (b : Blk) : Bool :=
  (match b.kind with
    | .enc x _ _ | .row x _ _ => x == e
    | _ => false) && decide (b.passed < b.need) && windowOf s b.base 1 == some n

/-- Items whose passant copy through a retired filter was not accepted go back to the copy order; after a permanent fault
they, and every item of the window not yet copied, are captured POISONED (R135). -/
def itemsBack (n cause : Nat) (e : Epoch) (back : List CopyItem) (s : State) : State :=
  let s := onEpoch e.num (fun x => { x with order := back ++ x.order }) s
  if cause = 0 then s else
    let lost := back ++ e.order.flatMap fun i => (splitWindows s e [n] i).1
    poisonEpoch e.num (onEpoch e.num (fun x => { x with lost := x.lost ++ lost })
      { s with str.blocks := updWhere (openIn s n e.num) (fun b => { b with bad := max b.bad 1 }) s.str.blocks })

/-- A filter that is retired: its segments and held writes go, RESYNC is set for the tables of its window; through a
permanent fault in CAPTURING the items not yet copied are marked POISONED (R133, R135, R400). -/
def filterGone (n cause : Nat) (s : State) : State :=
  let s := each (tablesIn s n) (fun e => setResync (eTrack e.2)) s
  let open_ := !(filterOf s n).segs.isEmpty
  let s := if open_ then { s with out.relAll := s.out.relAll ++ [n], cap.filters := Tab.del s.cap.filters n } else s
  let mine := s.cap.passants.filter fun p => p.2.filter == n && decide (0 < p.2.toAccept)
  let gone := fun (tag : Nat) => mine.any fun p => p.1 == tag
  let s := fixUnits { s with
    cap.passants := s.cap.passants.filter fun p => !gone p.1
    str.blocks := s.str.blocks.filter fun b => !b.tag.any gone }
  match capEpoch s with
  | none => s
  | some e => if open_ then itemsBack n cause e ((mine.filter fun p => !p.2.drop).map fun p =>
      ⟨p.2.entry, if p.2.row then p.2.item else p.2.item - plateOf s (eAddr (entryAt e.list p.2.entry)), 1⟩) s else s

/-- The port of a spill lane loses the lane at its next ALIGN; its last lane retires it (R244, R248). -/
def laneGone (ix : Nat) (s : State) : State :=
  onPort (ix / 4) (fun p => { p with newMask := if p.newMask.testBit (ix % 4) then p.newMask - 2 ^ (ix % 4) else p.newMask }) s

def lanesLeft (s : State) (p : Nat) : Bool := (List.range 4).any fun l => !retired s 0 (4 * p + l)

/-- A ledger macro is retired (R314): cause 1 or 2 latched, LEDGER_LOST; the second one enters FAULT_HOLD (R315). No macro
is left to journal the second retirement: 16 is added to its cause, and the next cold reset ends it (DESIGN CHOICE, log entry 52). -/
def macroGone (ix cause : Nat) (s : State) : State :=
  let both := retired s 9 0 && retired s 9 1
  let s := raise0 0x0A01 2 (ix + cause * 2 ^ 8) (if both then s else latchGasp (1 + ix) s)
  if both then faultHold 3 { s with flt.retired := Tab.put s.flt.retired (288 + ix) (cause + 16) } else s

/-- Retirement of a channel: journalled, reported, its work moved (R310, R311). -/
def retire1 (kind ix cause : Nat) (s : State) : State :=
  if retired s kind ix then s else
  let s := retiredEvent kind ix cause (faultRecord kind ix cause 0
    { s with flt.retired := Tab.put s.flt.retired (32 * kind + ix) cause, flt.charged := Tab.del s.flt.charged (32 * kind + ix) })
  match kind with
  | 0 => laneGone ix s
  | 1 => moveMessages ix (linkDown ix 2 0 s)
  | 2 => moverGone ix s
  | 3 => laneRetired ix s
  | 7 => moveRequests ix s
  | 8 => filterGone ix cause s
  | 9 => macroGone ix cause s
  | _ => s

/-- A port whose last lane is retired is retired as well (R248). -/
def retire (kind ix cause : Nat) (s : State) : State :=
  let s := retire1 kind ix cause s
  if kind = 0 ∧ !lanesLeft s (ix / 4) then retire1 1 (ix / 4) cause s else s

/-! ### Transient faults (R309, R310) -/

/-- Counts an upset of a channel kind; TRANSIENT at most once per 1 ms (R309). -/
def upset (kind : Nat) (s : State) : State :=
  let n := Tab.getD s.flt.upsets kind 0 + 1
  if (Tab.get? s.flt.upsetAt kind).all fun t => decide (t + 100000 ≤ s.time.aon) then
    raise0 0x0A0A 0 (kind + 2 ^ 32 * n)
      { s with flt.upsets := Tab.del s.flt.upsets kind, flt.upsetAt := Tab.put s.flt.upsetAt kind s.time.aon }
  else { s with flt.upsets := Tab.put s.flt.upsets kind n }

/-- Charged failures of a kind within a window that retire the channel (R310). -/
def chargeLimit (kind : Nat) : Nat := if kind = 7 then 8 else if kind = 2 then 2 else 3

/-- Charges a failure to a channel: at the limit within 1 s it is retired with cause 1. -/
def charge (kind ix : Nat) (s : State) : State :=
  let old := (Tab.getD s.flt.charged (32 * kind + ix) []).filter fun t => decide (s.time.aon < t + 100000000)
  let now := old ++ [s.time.aon]
  let s := { s with flt.charged := Tab.put s.flt.charged (32 * kind + ix) now }
  if chargeLimit kind ≤ now.length then retire kind ix 1 s else s

/-! ### The rows -/

/-- CHANNEL_RETIRED: a channel of R95 reaches a limit or fails a test, causes 1 to 3 of R310. -/
def execChannelRetired (kind index cause : Nat) (s : State) : Host.Outcome State Fault Refusal :=
  .next (when (up s && decide (kind < 10) && decide (index < kindCount kind) && decide (1 ≤ cause) && decide (cause ≤ 3))
    (retire kind index cause) s)

/-- LEDGER_LOST: a macro is retired by a cause of R310 (R314). -/
def execLedgerLost (macroB : Bool) (cause : Nat) (s : State) : Host.Outcome State Fault Refusal :=
  .next (when (up s && decide (cause ≤ 3)) (retire 9 (b2n macroB) cause) s)

/-- FAULT_HOLD with one of the causes that enter it (R315). -/
def execFaultHold (cause : Nat) (s : State) : Host.Outcome State Fault Refusal :=
  .next (when (up s && (cause == 3 || cause == 4 || cause == 6)) (faultHold cause) s)

end Sys2Proof.Machine
end

