-- ==== Sys2Proof/Machine/Ingots.lean ====
section
/-! DEFINITION. The ingots of an epoch and the sealing unit: emission of blocks, sectors, index and maps (R167, R192 to
R195, R264, R277 to R280), acknowledgement (R259, R278), thresholds (R173), the end of DRAINING (R19) and of CAPTURE and
ROW_CAPTURE (R72, R97), EPOCH_DURABLE (R260). -/

namespace Sys2Proof.Machine

/-! ### Ingots -/

def ingotOf (e : Epoch) (entry : Nat) : Ingot :=
  (Tab.get? e.ingots entry).getD { entry, stream := eStream (entryAt e.list entry) }

def onIngot (e entry : Nat) (f : Ingot → Ingot) : State → State :=
  onEpoch e fun x => { x with ingots := Tab.put x.ingots entry (f (ingotOf x entry)) }

/-- A source stream that an epoch's plates or rows are read for: range, row range, or the data stream of a listed ROW_CAPTURE
(R137). -/
def isSource (c : Ctx) : Bool := c.epoch != 0 && (decide (c.kind ≤ 1) || c.kind == 3)

/-- The context of an epoch's source stream for an entry; that of the epoch's launch rather than a CAPTURE's. -/
def ctxFor (s : State) (e entry : Nat) : Option Nat :=
  let mine := s.str.ctxs.filter fun c => c.2.epoch == e && c.2.entry == entry && c.2.state != 5 && (isSource c.2 || c.2.kind == 5)
  let launch := (epoch? s e).map fun x => (x.q, x.seq)
  ((mine.find? fun c => launch == some (c.2.q, c.2.seq)).or mine.head?).map (·.1)

def addJobs (js : List SealJob) (s : State) : State := { s with pun.jobs := s.pun.jobs ++ js }

/-- Cuts whole sector payloads from an ingot's tail into the output area of a lane (R144); `bad` says that the block appended
last is bad data (R159). -/
def cutPayload (fuel e entry : Nat) (lane : Option Nat) (bad : Bool) (g : Ingot) : Ingot × List SealJob :=
  match fuel with
  | 0 => (g, [])
  | k + 1 =>
    if g.tail.length < 4064 then ({ g with tailBad := g.tailBad || (bad && !g.tail.isEmpty) }, [])
    else
      let j : SealJob := { epoch := e, entry, kind := 2, isector := 1 + g.data, payload := g.tail.take 4064
                           bad := g.tailBad || bad, lane }
      let r := cutPayload k e entry lane bad { g with tail := g.tail.drop 4064, data := g.data + 1, tailBad := false }
      (r.1, j :: r.2)

/-- Emits an encoded block into its ingot (R164, R167, R279). -/
def emitBlock (e entry block : Nat) (lane : Option Nat) (bytes : Bytes) (bad : Bool) (sat rail els : Nat) (s : State) : State :=
  match epoch? s e with
  | none => s
  | some x =>
    let g := ingotOf x entry
    let g := { g with
      index := Tab.put g.index block (g.payload, bytes.length), payload := g.payload + bytes.length
      tail := g.tail ++ bytes, sat := g.sat + sat, rail := g.rail + rail, elems := g.elems + els }
    let r := cutPayload (g.tail.length / 4064 + 1) e entry lane bad g
    addJobs r.2 (onIngot e entry (fun _ => r.1) { s with
      regs.xfSat := satAdd 0xFFFFFFFF s.regs.xfSat sat
      regs.xfRail := satAdd 0xFFFFFFFF s.regs.xfRail rail })

/-- Rows of an interval set below a row number. -/
def rowsBelow (rows : Iset) (n : Nat) : Nat := rows.foldl (fun a i => a + (min i.2 n - min i.1 n)) 0

/-- The rows of an ingot: all of them when the entry is captured in full (R280). -/
def ingotRows (e : Epoch) (entry : Nat) : Iset :=
  if wholeEntry e entry then [(0, eSize (entryAt e.list entry))] else (ingotOf e entry).rows

/-- Indexed blocks of an ingot's decoded stream (R279, R280). -/
def ingotBlocks (s : State) (e : Epoch) (entry : Nat) : Nat :=
  let en := entryAt e.list entry
  if eKind en = 2 then cdiv (rowsBelow (ingotRows e entry) (eSize en) * eRow en) (blockSize s en) else nBlocks s en

/-- Payload of index sector `j` (R279). -/
def indexPayload (g : Ingot) (blocks j : Nat) : Bytes :=
  toLE 4 (336 * j) ++ toLE 2 (min 336 (blocks - 336 * j)) ++ zeros 26 ++
    (List.range 336).flatMap fun i => match Tab.get? g.index (336 * j + i) with
      | some (off, len) => toLE 4 off ++ toLE 2 (off / 2 ^ 32) ++ [1, 0] ++ toLE 4 len
      | none => zeros 12

/-- Payload of map sector `m` (R280). -/
def mapPayload (rows : Iset) (size m : Nat) : Bytes :=
  toLE 8 (rowsBelow rows (min size (32448 * m))) ++ (List.range 4056).map fun b =>
    BitVec.ofNat 8 (maskOf 8 fun i => decide (32448 * m + 8 * b + i < size) && rows.mem (32448 * m + 8 * b + i))

/-- XF_SATURATION and XF_RAIL at the end of a stream (R173). -/
def checkThresholds (stream sat rail els : Nat) (s : State) : State :=
  let above := fun thr n => thr != 0 && decide (thr * els < n * 65536)
  let s := if above (bits (sh s 0x500) 15 0) sat then raise0 0x0502 1 (sat % 2 ^ 32 + 2 ^ 32 * stream) s else s
  if above (bits (sh s 0x500) 31 16) rail then raise0 0x0503 1 (rail % 2 ^ 32 + 2 ^ 32 * stream) s else s

/-- The stream of an entry has drained: the last data sector, index and map sectors are handed over (R278). -/
def finishIngot (x : Epoch) (entry : Nat) (s : State) : State :=
  let e := x.num
  let en := entryAt x.list entry
  let g := ingotOf x entry
  let last : List SealJob := if g.tail.isEmpty then [] else
    [{ epoch := e, entry, kind := 2, isector := 1 + g.data, payload := slice g.tail 0 4064, bad := g.tailBad }]
  let data := g.data + last.length
  let blocks := ingotBlocks s x entry
  let nIx := cdiv blocks 336
  let maps := mapCount en
  let ix : List SealJob := (List.range nIx).map fun j =>
    { epoch := e, entry, kind := 3, isector := 1 + data + j, payload := indexPayload g blocks j }
  let mp : List SealJob := (List.range maps).map fun m =>
    { epoch := e, entry, kind := 4, isector := 1 + data + nIx + m, payload := mapPayload (ingotRows x entry) (eSize en) m }
  checkThresholds g.stream g.sat g.rail g.elems <| addJobs (last ++ ix ++ mp) <| onIngot e entry (fun g =>
    { g with tail := [], tailBad := false, data, stage := 1, blocks, sent := data + nIx + maps }) s

/-! ### What remains of an entry -/

def orderHas (e : Epoch) (entry : Nat) : Bool := e.order.any fun i => i.entry == entry

/-- No item of an entry is still to be read, staged or encoded. -/
def entryDone (s : State) (e : Epoch) (entry : Nat) : Bool :=
  !orderHas e entry && !e.deferred.contains entry && decide (2 ≤ e.phase) && (ingotOf e entry).gather.isEmpty &&
    !(s.str.blocks.any fun b => match b.kind with
      | .enc en i _ | .row en i _ => en == e.num && i == entry
      | _ => false) &&
    !(s.cap.passants.any fun p => p.2.epoch == e.num && p.2.entry == entry && !p.2.drop)

/-- Every ingot of the epoch is complete: it has left DRAINING (R19). -/
def drained (e : Epoch) : Bool :=
  decide (e.phase = 3) && (liveEntries e.list).all fun x => (ingotOf e x.1).stage == 3

/-! ### Vault placement and egress -/

def epochVault (s : State) (e : Epoch) : Option (Vault × Layout) :=
  (vault? s (hVault e.list)).map fun v => (v, vaultLay s v e.list)

def sectorOf (v : Vault) (a : Layout) (e : Epoch) (entry isector : Nat) : Nat :=
  ingotBase v a e.list (entryAt e.list entry) e.num + isector

/-- Whether this device writes a sector of an entry (R31). -/
def mine (l en : Bytes) (sector : Nat) : Bool := !eRepl en || sector % hReplicas l == hIx l

/-- In place of an entry index: the list sectors (0) and the header (1) of the seal record. -/
def sealMark (kind : Nat) : Nat := 65536 + kind

/-- The context of an epoch's seal stream (R137). -/
def sealCtx (s : State) (e : Nat) : Option Nat := (s.str.ctxs.find? fun c => c.2.epoch == e && c.2.kind == 6).map (·.1)

/-- Sends the gathered sectors of an entry as one SECTOR_WRITE (R151, R259). -/
def flushEgress (e entry : Nat) (s : State) : State :=
  let go := s.pun.egress.filter fun x => x.epoch == e && x.entry == entry
  match go, epoch? s e with
  | g :: _, some x =>
    let s := { s with pun.egress := s.pun.egress.filter fun x => !(x.epoch == e && x.entry == entry) }
    match epochVault s x with
    | none => s
    | some (v, _) =>
      match vPeer s v with
      | none => s
      | some d =>
        let m : Msg := {
          mtype := 0x10, dst := d, vault := vRemote v, epoch := e, count := go.length, sector := g.sector
          stride := if eRepl (entryAt x.list entry) then hReplicas x.list else 1
          pvault := hVault x.list, body := go.flatMap (·.data), cls := 4
          ctx := if entry = sealMark 0 then sealCtx s e else ctxFor s e entry }
        request m { tag := 0, peer := d, mtype := 0x10, msg := [], epoch := e, entry, isectors := go.map (·.isector) } s
  | _, _ => s

/-- Releases a sealed sector to its vault: a host-bridge write, or a place in the next SECTOR_WRITE (R193, R151). -/
def releaseSector (x : Epoch) (v : Vault) (entry isector n : Nat) (data : Bytes) (s : State) : State :=
  if vWhere v = 0 then
    let list := entry = sealMark 0
    hbSector (if list then .sealSec x.num else .sector x.num entry isector) (vBase v + 4096 * n) (vTdid v) n 4
      (if list then sealCtx s x.num else ctxFor s x.num entry) data s
  else
    let stride := if eRepl (entryAt x.list entry) then hReplicas x.list else 1
    let same := s.pun.egress.filter fun y => y.epoch == x.num && y.entry == entry
    let s := match same.getLast? with
      | some y => if y.sector + stride = n then s else flushEgress x.num entry s
      | none => s
    let s : State := { s with pun.egress := s.pun.egress ++ [{ epoch := x.num, entry, isector, sector := n, data }] }
    if 16 ≤ (s.pun.egress.filter fun y => y.epoch == x.num && y.entry == entry).length then flushEgress x.num entry s else s

/-! ### Digests between replicas (R264 to R268) -/

def escrowUsed (s : State) : Nat := s.pun.escrow.length + cdiv s.pun.stored.length 128

/-- The lowest escrow slot that holds no sector. -/
def freeSlot (s : State) : Nat :=
  (((List.range (s.pun.escrow.length + 1)).find? fun i => s.pun.escrow.all fun x => x.2.2.1 != i)).getD 0

/-- Sends one gathered DIGEST message (R264). -/
def sendDigests (o : DigOut) (s : State) : State :=
  match epoch? s o.epoch, o.sectors, replicaDev s o.writer with
  | some x, n :: _, some d =>
    let m : Msg := {
      mtype := 0x20, dst := d, vault := hVault x.list, epoch := o.epoch, count := o.sectors.length, sector := n
      stride := hReplicas x.list, body := o.digests.flatten, cls := 4 }
    request m { tag := 0, peer := d, mtype := 0x20, msg := [], epoch := o.epoch, entry := o.entry }
      { s with pun.sentDig := s.pun.sentDig ++ o.sectors.map fun n => (o.epoch, n, o.writer) }
  | _, _, _ => s

/-- Sends every gathered DIGEST message that meets a test. -/
def flushDigests (p : DigOut → Bool) (s : State) : State :=
  each (s.pun.digOut.filter p) sendDigests (readLanes 8 (fun _ => true) (fun _ t => t)
    { s with pun.digOut := s.pun.digOut.filter fun o => !p o })

/-- Adds a digest to the message for a sector's writer; the message closes at min(2,048, ⌊24,576 ÷ D⌋) (R264). -/
def addDigest (e entry writer sector : Nat) (d : Bytes) (s : State) : State :=
  let is := fun (o : DigOut) => o.epoch == e && o.entry == entry && o.writer == writer
  let s := lanesWrite 8 0 4 s
  let s := if s.pun.digOut.any is then
      { s with
        pun.digOut := updWhere is (fun o => { o with sectors := o.sectors ++ [sector], digests := o.digests ++ [d] }) s.pun.digOut }
    else { s with pun.digOut := s.pun.digOut ++ [⟨e, entry, writer, [sector], [d]⟩] }
  let cap := min 2048 (24576 / max 1 (s.pun.digOut.map (·.writer)).dedup.length)
  flushDigests (fun o => is o && decide (cap ≤ o.sectors.length)) s

/-- The verdict of a comparison already made, if any. -/
def verdictOf (s : State) (dev sector epoch : Nat) : Option Nat :=
  (s.spl.given.find? fun g => g.1 == dev && g.2.1 == sector && g.2.2.1 == epoch).map (·.2.2.2)

/-- Sectors that a message names. -/
def msgSectors (m : Bytes) : List Nat := (List.range (mCount m)).map fun i => mSector m + i * mStride m

/-- Two bits per verdict, padded to a whole block (R257). -/
def verdictBody (vs : List Nat) : Bytes :=
  let bs := (chunks (vs.length + 1) 4 vs).map fun c =>
    BitVec.ofNat 8 (c.foldr (fun v a => v % 4 + 4 * a) 0)
  slice bs 0 (roundUp bs.length 32)

/-- Answers a DIGEST message whose digests all have a verdict, LATER where none is known. -/
def answerDigest (m : Bytes) (s : State) : State :=
  let vs := (msgSectors m).map fun n => (verdictOf s (mSrc m) n (mEpoch m)).getD 2
  sendTo (mSrc m) { mtype := 0x21, dst := mSrc m, tag := mTag m, count := mCount m, body := verdictBody vs, cls := 4 } s
where
  /-- A response leaves on the best port of its destination. -/
  sendTo (d : Nat) (x : Msg) (s : State) : State :=
    match bestPort s d with
    | none => s
    | some p => sendOn p x s

/-- The writer compares a digest that came under `epoch` with its own of epoch `mine` (R196, R267): the verdict is kept; a difference
is counted and DIVERGED raised. -/
def compareDigest (dev sector epoch mine : Nat) (own d : Bytes) (s : State) : State :=
  let v := if own = d ∧ epoch = mine then 0 else 1
  let s := { s with
    spl.given := s.spl.given ++ [(dev, sector, epoch, v)]
    pun.own := Tab.upd s.pun.own sector fun o => (o.1, o.2.1, o.2.2 ++ [dev]) }
  if v = 0 then s else
    let first := (epoch? s mine).any fun x => x.disputes.all fun y => y.1 != sector
    let s := onEpoch mine (fun x => { x with
      diverged := true, disputes := if first then x.disputes ++ [(sector, 2 ^ 64 - 1)] else x.disputes }) s
    raise0 0x0809 2 (sector % 2 ^ 40 + 2 ^ 40 * dev) (assayCount 8 1 s)

/-- Verdicts of DIGEST messages that wait for no sector any more. -/
def answerReady (s : State) : State :=
  let ready := fun (m : Bytes) => !(s.pun.stored.any fun x => x.tag == mTag m && x.dev == mSrc m)
  each (s.pun.digMsgs.filter ready) answerDigest { s with pun.digMsgs := s.pun.digMsgs.filter fun m => !ready m }

/-- Own replicated sector sealed: its digest is kept and compared with those that arrived before, under whatever epoch number (R196,
R266; DEDUCED, log entry 144). -/
def ownSealed (e sector : Nat) (d : Bytes) (s : State) : State :=
  let early := s.pun.stored.filter fun x => x.sector == sector
  let s := { s with
    pun.own := Tab.put s.pun.own sector (e, d, [])
    pun.stored := s.pun.stored.filter fun x => x.sector != sector }
  answerReady (each early (fun x => compareDigest x.dev sector x.epoch e d x.digest) s)

/-! ### Progress of an epoch -/

/-- EPOCH_DURABLE to every other replica once every replicated sector that this device wrote is acknowledged (R260). -/
def sendDurable (x : Epoch) (devs : List Nat) (s : State) : State :=
  each devs (fun d => send { mtype := 0x30, dst := d
                             body := [1, 0, 0xFF, 0xFF] ++ zeros 16 ++ toLE 4 x.num ++ zeros 8 }) s

def otherReplicas (s : State) (l : Bytes) : List Nat :=
  ((s.adm.topo.filter fun r => tRole r == 3 && tRepl r != hIx l).map tDev).dedup

def durableDue (x : Epoch) : Bool :=
  decide (1 < hReplicas x.list) && !x.durableSent && decide (3 ≤ x.phase) && decide (x.phase ≤ 5) &&
    (liveEntries x.list).all fun e => !eRepl e.2 || (ingotOf x e.1).stage == 3

/-- Sectors whose acknowledgement an item of a CAPTURE waits for: ingot sectors of its indexed blocks. -/
def blockSectors (g : Ingot) (b : Nat) : List Nat :=
  match Tab.get? g.index b with
  | none => []
  | some (off, len) => (List.range ((off + len - 1) / 4064 + 1 - off / 4064)).map fun i => 1 + off / 4064 + i

/-- An item that a CAPTURE or ROW_CAPTURE names (plate or row) is captured and its sectors are acknowledged, or the epoch
does not capture it. -/
def itemDone (s : State) (e : Epoch) (entry item : Nat) : Bool :=
  let en := entryAt e.list entry
  let g := ingotOf e entry
  let bsz := blockSize s en
  let copying := e.order.any fun i => i.entry == entry && decide (i.first ≤ item) && decide (item < i.first + i.count)
  let acked := fun b => (blockSectors g b).all g.acked.contains
  if copying || e.deferred.contains entry then false
  else if eKind en = 2 then
    if wholeEntry e entry then
      let b0 := item * eRow en / bsz
      let b1 := ((item + 1) * eRow en - 1) / bsz
      (List.range (b1 + 1 - b0)).all fun i => (Tab.get? g.index (b0 + i)).isSome && acked (b0 + i)
    else decide (1 ≤ g.stage) && (List.range g.data).all fun i => g.acked.contains (1 + i)
  else
    let staged := s.str.blocks.any fun b => b.kind == .enc e.num entry item
    let flying := s.cap.passants.any fun p => !p.2.row && p.2.epoch == e.num && p.2.entry == entry &&
      p.2.item == item + plateOf s (eAddr en)
    !staged && !flying && (List.range (max 1 (65536 / bsz))).all fun i => acked (item * 65536 / bsz + i)

/-- Ends a command with the code of the bad data it met (R159), after its result has been written (R399). -/
def endWithResult (q seq addr tdid off : Nat) (data : Bytes) (s : State) : State :=
  match cmd? s q seq with
  | none => s
  | some c => if addr = 0 then finish q seq c.bad c.badDetail s
    else hbReq (.result q seq off) true addr tdid data.length data (cmdClass s c) 0 none s

/-- The 32 B capture summary: its layout is not given (DESIGN CHOICE, log entry 9). -/
def summary (k : Nat) : Bytes := (List.range 32).map (Config.summaryByte k)

/-- Ends the CAPTURE and ROW_CAPTURE commands of an epoch whose items are done (R72). -/
def endCaptures (x : Epoch) (s : State) : State :=
  let due := s.ldg.cmds.filter fun c =>
    (itemOp c.item == 0x41 || itemOp c.item == 0x42) && c.st == .started && c.ran && c.epoch == x.num &&
      !(s.out.hb.any fun r => match r.kind with
        | .result q seq _ => q == c.q && seq == c.seq
        | _ => false) &&
      !(s.str.ctxs.any fun k => k.2.q == c.q && k.2.seq == c.seq && k.2.kind == 2) &&
      c.items.all fun i => (List.range i.2).all fun k => itemDone s x (fld c.item 12 4) (i.1 + k)
  each due (fun c t =>
    let t : State := { t with
      str.ctxs := t.str.ctxs.filter fun k => !(k.2.q == c.q && k.2.seq == c.seq && k.2.epoch == x.num) }
    let b := c.item
    if itemOp b = 0x41 then endWithResult c.q c.seq (fld b 72 8) (fld b 80 2) 72 (summary t.time.free) (drawn t)
    else finish c.q c.seq c.bad c.badDetail t) s

/-- Streams of an epoch that are over give their contexts back (R139). -/
def endStreams (x : Epoch) (s : State) : State :=
  { s with
    str.ctxs := s.str.ctxs.filter fun c => !(c.2.epoch == x.num && (isSource c.2 || c.2.kind == 5) &&
      decide (1 ≤ (ingotOf x c.2.entry).stage)) }

/-- One entry moves on: data drained, index and maps acknowledged, header acknowledged (R278). -/
def entryStep (e entry : Nat) (s : State) : State :=
  match epoch? s e with
  | none => s
  | some x =>
    let g := ingotOf x entry
    let done := fun lo hi => (List.range (hi - lo)).all fun i => g.acked.contains (lo + i)
    if g.stage = 0 ∧ entryDone s x entry then finishIngot x entry s
    else if g.stage = 1 ∧ done (1 + g.data) (1 + g.sent) then
      let en := entryAt x.list entry
      let maps := mapCount en
      addJobs [{ epoch := e, entry, kind := 1, isector := 0, payload := ingotHeader s x en g (g.sent - g.data - maps) maps }]
        (onIngot e entry (fun g => { g with stage := 2 }) s)
    else if g.stage = 2 ∧ done 0 (1 + g.sent) then onIngot e entry (fun g => { g with stage := 3 }) s
    else s

/-- The stream contexts, ingots, CAPTURE commands and phase of an epoch after anything about it has moved. -/
def progress (e : Nat) (s : State) : State :=
  match epoch? s e with
  | none => s
  | some x =>
    if x.phase < 2 ∨ 3 < x.phase then s else
    let es := (liveEntries x.list).map (·.1)
    -- an ingot without index and map sectors goes from stage 0 to its header at once
    let s := each es (entryStep e) (each es (entryStep e) s)
    match epoch? s e with
    | none => s
    | some x =>
      let s := endCaptures x (endStreams x s)
      if durableDue x then
        sendDurable x (otherReplicas s x.list) (onEpoch e (fun y => { y with durableSent := true }) s)
      else s

/-- An ingot sector is acknowledged by its vault. -/
def ackSector (e entry isector : Nat) (s : State) : State :=
  progress e (onIngot e entry (fun g => { g with acked := if g.acked.contains isector then g.acked else isector :: g.acked }) s)

/-- A sector that cannot be written ends the epoch (R309): EPOCH_ABANDONED, DETAIL 0x0C. -/
def sectorLost (e : Nat) : State → State := abandonEpoch e (0x11, 0x0C)

/-! ### SECTOR_SEAL -/

/-- A key that sealing needs is gone (R211, R212). -/
def keyGone (e : Nat) : State → State := abandonEpoch e (0x0E, 0)

/-- The finished sector leaves the sealing unit: to its vault, or to escrow with its digest to the writer (R193, R264). -/
def sealRelease (x : Epoch) (v : Vault) (j : SealJob) (n : Nat) (b : Bytes) (s : State) : State :=
  let en := entryAt x.list j.entry
  let d := sha256 b
  let s := onIngot j.epoch j.entry (fun g => { g with digests := Tab.put g.digests j.isector d }) s
  let s := if mine x.list en n then
      let s := releaseSector x v j.entry j.isector n b s
      if eRepl en && decide (1 < hReplicas x.list) then ownSealed j.epoch n d s else s
    else
      let slot := freeSlot s
      let s := { s with pun.escrow := Tab.put s.pun.escrow n (j.epoch, slot, b) }
      let s := fabReqBy none (ctxFor s j.epoch j.entry) false (.escrow n) true (sh s 0x410 * 65536 + 4096 * slot) 4096 4 b false s
      -- the writer of the sector acknowledges it to its own epoch only (R32)
      ackSector j.epoch j.entry j.isector (addDigest j.epoch j.entry (n % hReplicas x.list) n d s)
  -- messages close when their stream has drained (R151, R264)
  let more := s.pun.jobs.any fun k => k.epoch == j.epoch && k.entry == j.entry
  let drainedNow := (epoch? s j.epoch).any fun x => decide (1 ≤ (ingotOf x j.entry).stage)
  if !more && drainedNow then
    flushDigests (fun o => o.epoch == j.epoch && o.entry == j.entry) (flushEgress j.epoch j.entry s)
  else s

/-- The vault sector that a payload is sealed for. -/
def jobSector (v : Vault) (a : Layout) (x : Epoch) (j : SealJob) : Nat :=
  if j.kind = 5 then tailBase v a x.num (hIx x.list) + j.isector else sectorOf v a x j.entry j.isector

/-- Sealing engines that take part: AES engines, sector check units and digest cores in service (R194). -/
def engineOk (s : State) (f : Option (Nat × Nat)) : Bool :=
  f.all fun k => (k.1 == 4 || k.1 == 5 || k.1 == 6) && decide (k.2 < kindCount k.1) && !retired s k.1 k.2

/-- The other engine that an engine's failed self-check has been shown against is charged (R194, R309). -/
def chargeEngine (j : SealJob) (s : State) : State :=
  match j.failed with
  | [(k, i)] => charge k i s
  | _ => s

/-- A sector of the seal record leaves the sealing unit: a list sector to its vault; the header waits for R32 and R268 (R282).
One that no engine seals without a failure would be bad data: the epoch is not sealed (R158). -/
def releaseSeal (x : Epoch) (v : Vault) (j : SealJob) (n : Nat) (b : Bytes) (s : State) : State :=
  if j.bad then abandonEpoch x.num (0x11, 0x0B) s
  else if j.isector = 0 then onEpoch x.num (fun y => { y with sealedHdr := b }) s
  else
    let s := releaseSector x v (sealMark 0) j.isector n b s
    if s.pun.jobs.any fun k => k.epoch == x.num && k.kind == 5 && k.isector != 0 then s else flushEgress x.num (sealMark 0) s

/-- Seals the payload handed over first (R191, R193). -/
def sealJob (j : SealJob) (rest : List SealJob) (s : State) : State :=
  match epoch? s j.epoch with
  | none => { s with pun.jobs := rest }
  | some x =>
    match epochVault s x with
    | none => { s with pun.jobs := rest }
    | some (v, a) =>
      let l := x.list
      let en := entryAt l j.entry
      let n := jobSector v a x j
      let s := readKeys [hDataKey l] s
      match keyBad s (hDataKey l) 2 none with
      | some _ => keyGone j.epoch { s with pun.jobs := rest }
      | none =>
        if j.kind = 5 then
          releaseSeal x v j n (sealedSector (keyBytes s (hDataKey l)) (hVault l) n x.num
            (sectorHeader 5 false (hDataKey l) (hHmac l) x.num 0 j.isector) j.payload) (chargeEngine j { s with pun.jobs := rest })
        else if !mine l en n && decide (escrowSlots s ≤ escrowUsed s) then
          if j.waited then s
          else raise0 0x080A 1 j.epoch { s with pun.jobs := { j with waited := true } :: rest }
        else
          let s := chargeEngine j s
          let hdr := sectorHeader j.kind j.bad (hDataKey l) (hHmac l) j.epoch (eStream en) j.isector
          sealRelease x v j n (sealedSector (keyBytes s (hDataKey l)) (hVault l) n j.epoch hdr j.payload)
            { s with pun.jobs := rest }

/-- SECTOR_SEAL: the sealing unit takes the next payload; a failed self-check reruns it on another engine of the kind, and
after four reruns its content is bad data (R194, R309, R158). -/
def sectorSeal (checkFails : Option (Nat × Nat)) (s : State) : State :=
  match s.pun.jobs with
  | [] => s
  | j :: rest =>
    match checkFails with
    | none => sealJob j rest s
    | some (k, i) =>
      let n := match epoch? s j.epoch with
        | some x => ((epochVault s x).map fun va => jobSector va.1 va.2 x j).getD 0
        | none => 0
      let s := upset k (raise0 0x0601 1 (k + i * 2 ^ 8 + 2 ^ 32 * (n % 2 ^ 32)) s)
      if 4 ≤ j.failed.length then
        let bad := { j with bad := true, failed := [] }
        sealJob bad rest (poisonEpoch j.epoch { s with pun.jobs := bad :: rest })
      else { s with pun.jobs := { j with failed := j.failed ++ [(k, i)] } :: rest }

def execSectorSeal (checkFails : Option (Nat × Nat)) (s : State) : Host.Outcome State Fault Refusal :=
  .next (when (runs s && engineOk s checkFails) (fun s => serveFilters (sectorSeal checkFails s)) s)

end Sys2Proof.Machine
end

