-- ==== Sys2Proof/Machine/Crucible.lean ====
section
/-! DEFINITION. What a Crucible lane computes: the encoding and decoding of one indexed block (R163 to R189), recipe
invocations with their traps and halts (R182 to R188, R390 kind 6), and blocks read from an ingot (R177, R279, R286). -/

namespace Sys2Proof.Machine

/-! ### Recipe invocations -/

/-- A breakpoint of kind 6 names this word of a slot (R390). -/
def stopAt (s : State) (slot pc : Nat) : Bool :=
  s.dbg.bps.any fun b => b.2.kind == 6 && bits b.2.arg 5 0 == slot && b.2.data == pc

/-- Runs a lane on to its end, its trap or a breakpoint; the budget bounds the instructions. -/
def runLane (s : State) (l : Lane) : Lane := laneRun 1100 (stopAt s l.slot) (recipe s l.slot) l

/-- A whole invocation of a slot. -/
def invoke (s : State) (slot : Nat) (src : Bytes) (base : Option Bytes) (stream epoch block fmt : Nat) : Lane :=
  let l := { laneStart src base stream epoch block fmt with slot := slot }
  if stopAt s slot 1 then l else runLane s l

/-- RECIPE_TRAP (R185, R190). -/
def recipeTrap (l : Lane) : State → State :=
  raise0 0x0501 1 (l.slot + l.trap * 2 ^ 8 + l.code * 2 ^ 16 + l.pc % 256 * 2 ^ 24 + l.block % 2 ^ 32 * 2 ^ 32)

/-- The block that an encode invocation leaves (R185). -/
def recipeBlock (l : Lane) : Bytes :=
  if l.trap = 7 then [2, 0] ++ toLE 2 (l.src.length - 1) ++ toLE 4 l.outLen ++ slice l.out 0 l.outLen
  else storedBlock l.src

/-! ### Built-in codecs -/

/-- Source bytes XOR the anchor's bytes (R178). -/
def xorAnchor (anchor : Option Bytes) (b : Bytes) : Bytes :=
  match anchor with
  | none => b
  | some a => xorB b (slice a 0 b.length)

/-- Encodes a block of codecs 0 to 3 with its saturations. -/
def builtinEnc (en : Bytes) (epoch block : Nat) (anchor : Option Bytes) (src : Bytes) : Bytes × Nat :=
  let f := eFormat en
  match eCodec en with
  | 0 => (xorAnchor anchor src, 0)
  | 1 => (encodeL (setOfFormat f) (xorAnchor anchor src), 0)
  | c => encodeF c f (eStream en) epoch (block * fPerExtent f) anchor src

def mapDecoded (f : Bytes → Bytes) : Decoded → Decoded
  | .ok b => .ok (f b)
  | .damaged c => .damaged c

/-- Decodes a block of codecs 0 to 3, with its saturations. -/
def builtinDec (codec fmt : Nat) (codetab : Bytes) (anchor : Option Bytes) (enc : Bytes) (elen want : Nat) : Decoded × Nat :=
  match codec with
  | 0 => (if elen = want then .ok (xorAnchor anchor (slice enc 0 want)) else .damaged 2, 0)
  | 1 => (mapDecoded (xorAnchor anchor) (decodeL codetab enc elen want), 0)
  | c => decodeF c fmt anchor enc elen want

/-- The header of a recipe block (R167): a damage, the stored bytes, or the body to run. -/
def recipeHead (enc : Bytes) (elen want : Nat) : Decoded × Option Bytes :=
  let mode := fld enc 0 1
  let len := fld enc 2 2 + 1
  let body := fld enc 4 4
  if (mode ≠ 0 ∧ mode ≠ 2) ∨ fld enc 1 1 ≠ 0 ∨ (mode = 0 ∧ body ≠ 0) then (.damaged 1, none)
  else if len ≠ want then (.damaged 2, none)
  else if elen ≠ 8 + (if mode = 0 then len else body) then (.damaged 3, none)
  else if mode = 0 then (.ok (slice enc 8 len), none)
  else (.ok [], some (slice enc 8 body))

/-- What a decode invocation leaves (R185). -/
def recipeDecoded (l : Lane) (want : Nat) : Decoded :=
  if l.trap ≠ 7 then .damaged 6 else if l.outLen ≠ want then .damaged 2 else .ok (slice l.out 0 want)

/-! ### Blocks of an ingot -/

/-- Decoded bytes of block `b` of an ingot whose decoded stream has `total` bytes. -/
def blockWant (h : Bytes) (total b : Nat) : Nat := min (2 ^ ihLog2 h) (total - b * 2 ^ ihLog2 h)

/-- The payload sectors, by ISECTOR, that hold `len` bytes from payload offset `off`. -/
def payloadSectors (off len : Nat) : Nat × Nat :=
  (1 + off / 4064, (off + len - 1) / 4064 + 1 - off / 4064)

/-- The decode slot of a CODEC 4 ingot is empty or holds other words than the ingot's copy (R187). -/
def slotDiffers (s : State) (codec slot : Nat) (prog : List Nat) : Bool :=
  codec == 4 && ((recipe s slot).isEmpty || recipe s slot != prog)

/-- The unit that holds encoded bytes [part.1, part.1 + part.2) of block `b` of an ingot, whose `full` bytes begin at payload
offset `off`; `total` is the length of the ingot's decoded stream. -/
def ingotUnit (r : SealRec) (ir h : Bytes) (ctx vault b off full total : Nat) (part : Nat × Nat) : Job :=
  let ps := payloadSectors (off + part.1) part.2
  let first := irFirst ir + ps.1
  { ctx, vault, epoch := r.epoch, stream := irStream ir, block := b, first, count := ps.2
    off := (off + part.1) % 4064, elen := part.2, want := blockWant h total b, pre := part.1, full
    vid := r.vid, kslot := r.kslot, isector := ps.1
    places := (List.range ps.2).map fun i => placeOf r (first + i)
    codec := ihCodec h, fmt := ihFormat h, codetab := ihCodetab h, decSlot := ihDecSlot h, prog := ihProg h
    delta := ihDelta h, dest := [] }

/-- The tail of a replica where the seal record of an epoch lies, in this vault's layout. -/
def sealAt (v : Vault) (lay : Nat × Nat) (epoch ix : Nat) : Nat := tailAt v lay epoch ix

/-- The unit that holds the anchor's block for block `b` of an entry with DELTA in effect, or the status code and DETAIL of its
damage (R177, R189). The seal, header and index sectors were read in PREP. -/
def anchorUnit (s : State) (x : Epoch) (entry b ctx : Nat) (forBlk : Nat × Nat) : Job ⊕ (Nat × Nat) :=
  let sectors := Tab.getD x.anchors entry []
  let media : Nat × Nat := (0x0C, 0)
  let gone : Nat × Nat := (0x0D, 8)
  match vault? s (hVault x.list) with
  | none => .inr media
  | some v =>
    match vaultLayout s v sectors with
    | none => .inr media
    | some lay =>
      match readSeal s sectors v.area (sealAt v lay x.anchor (hIx x.list)) x.anchor with
      | .ok r =>
        match ingotRec r (eStream (entryAt x.list entry)) with
        | none => .inr gone
        | some ir =>
          match readIngot s sectors r ir with
          | none => .inr media
          | some h =>
            if slotDiffers s (ihCodec h) (ihDecSlot h) (ihProg h) then .inr gone else
            match indexEntry s sectors r ir h b with
            | none => .inr media
            | some none => .inr gone
            | some (some (off, elen)) =>
              .inl { ingotUnit r ir h ctx (hVault x.list) b off elen (ihBytes h) (0, elen) with forBlk := some forBlk }
      | _ => .inr media

end Sys2Proof.Machine
end

