-- ==== Sys2Proof/Machine/Staging.lean ====
section
/-! DEFINITION. Staging and movers: block slots and lane areas (R144, R146, R148), the reads of a block (R140, R141, R149,
R150), bytes filled and drained (R146), and the vault reads of an encoded unit (R198, R259, R286, R309, R343). -/

namespace Sys2Proof.Machine

/-! ### Block slots (R143, R144, R146, R148) -/

/-- A block that holds a block slot of its lane's area; a passant block passes through the passant slot. -/
def holdsSlot (b : Blk) : Bool := b.lane.isSome && !b.passant

/-- Free block slots of a lane. -/
def laneRoom (s : State) (l : Nat) : Nat :=
  laneUnits s - 2 - (s.str.blocks.filter fun b => b.lane == some l && !b.passant).length

/-- The lane, not one of those named, in whose area the next block slot is reserved: the one in service with the most free
slots, the lowest-numbered on a tie (DESIGN CHOICE, log entry 94). -/
def freeLane (s : State) (no : List Nat) : Option Nat :=
  ((inService s 3).filter fun l => !no.contains l).foldl (fun best l =>
    if laneRoom s l = 0 then best else
    match best with
    | none => some l
    | some b => if laneRoom s b < laneRoom s l then some l else best) none

/-- Free block slots of all lanes in service. -/
def slotsFree (s : State) : Nat := (inService s 3).foldl (fun a l => a + laneRoom s l) 0

def heldBy (s : State) (ctx : Nat) : Nat := (s.str.blocks.filter fun b => b.ctx == ctx && holdsSlot b).length

/-- A stream may reserve one more block slot: its window of 32 in deadline mode, its share in credit mode (R146, R148). -/
def windowOpen (s : State) (ctx : Nat) (c : Ctx) : Bool :=
  decide (0 < slotsFree s) &&
    (if c.credit then
      let run := (s.str.ctxs.filter fun x => x.2.cls == c.cls && x.2.state == 2).length
      decide (heldBy s ctx < max 1 ((slotsFree s + heldBy s ctx) / max 1 run))
    else decide (heldBy s ctx < 32))

/-- In credit mode streams beyond the number of free block slots wait (R148). -/
def creditState (s : State) (c : Ctx) : Nat :=
  let run := s.str.ctxs.filter fun x => x.2.credit && x.2.state == 2
  if c.credit && decide (slotsFree s + run.foldl (fun a x => a + heldBy s x.1) 0 ≤ run.length) then 1 else 2

def onBlk (id : Nat) (f : Blk → Blk) (s : State) : State :=
  { s with str.blocks := updWhere (fun b => b.id == id) f s.str.blocks }

def dropBlk (id : Nat) (s : State) : State := { s with str.blocks := s.str.blocks.filter fun b => b.id != id }

/-- Adds a block under the next number. -/
def newBlk (b : Blk) (front : Bool) (s : State) : State :=
  let b := { b with id := s.str.nextBlk }
  flipHook 0 (8192 * b.id) { s with
    str.blocks := if front then b :: s.str.blocks else s.str.blocks ++ [b]
    str.nextBlk := s.str.nextBlk + 1 }

/-- The bytes of a staged block. -/
def blkBytes (b : Blk) : Bytes := (Tab.vals b.parts).flatten

def blkWhole (b : Blk) : Bool := b.tag.isNone && decide (b.need ≤ (blkBytes b).length)

/-- Notes bytes filled into or drained from staging (R146). -/
def noteFill (ctx bytes : Nat) (s : State) : State :=
  onCtx ctx (fun c => { c with
    fills := (c.fills.filter fun f => decide (s.time.core < f.1 + 4096)) ++ [(s.time.core, bytes)] }) s

def noteDrain (ctx bytes : Nat) (s : State) : State :=
  onCtx ctx (fun c => { c with
    drains := (c.drains.filter fun f => decide (s.time.core < f.1 + 4096)) ++ [(s.time.core, bytes)] }) s

/-! ### Lanes (R144, R164, R166, R186) -/

/-- A block that takes the light path: a row of 512 B or less, or an unencoded row of an indexed data stream whose rows have
512 B or less (R150). It has no lane. -/
def isLight (s : State) (b : Blk) : Bool :=
  match b.kind with
  | .row .. | .cvRow _ => decide (b.need ≤ 512)
  | .dec j => j.codec == 0 && !j.delta && j.forBlk.isNone &&
      (Tab.get? s.str.ctxs b.ctx).any fun c => c.kind == 3 && decide (c.unit ≤ 512)
  | _ => false

/-- Lanes on which a block is not to run: those that failed on it, and that of its first invocation, while others are in
service (R166, R186). -/
def lanesBarred (s : State) (b : Blk) : List Nat :=
  let no := b.lanes ++ (b.half.map (·.1)).toList
  if (inService s 3).all no.contains then [] else no

/-- The lane that takes a block waiting for one: passant data goes to a lane whose passant slot is free (R144). -/
def laneFor (s : State) (b : Blk) : Option Nat :=
  if b.passant then (inService s 3).find? fun l =>
    !(lanesBarred s b).contains l && !(s.str.blocks.any fun x => x.passant && x.lane == some l && x.id != b.id)
  else freeLane s (lanesBarred s b)

/-- Gives a lane to every block that waits for one: data whole in staging, or a block whose lane was retired or failed. -/
def assignLanes (s : State) : State :=
  each (s.str.blocks.filter fun b => b.lane.isNone && b.tag.isNone && !isLight s b && (blkWhole b || decide (0 < b.issued)))
    (fun b t => match laneFor t b with
      | some l => onBlk b.id (fun x => { x with lane := some l }) t
      | none => t) s

/-! ### Fabric reads of a block (R140, R141, R149, R150) -/

/-- Fabric reads that a mover keeps outstanding: in light slots, or of its 16 block reads. -/
def readsOf (s : State) (mover : Nat) (light : Bool) : Nat :=
  (s.out.fab.filter fun r => !r.write && r.mover == some mover && decide (r.len ≤ 512) == light).length

/-- A mover may issue one more read (R141, R149, R150). -/
def mayRead (s : State) (mover len : Nat) : Bool :=
  if len ≤ 512 then decide (readsOf s mover true < 32) else decide (readsOf s mover false < 16)

/-- Counts bytes read under HOLD in the window of a filter that is stop-copied (R136). -/
def countStop (addr len : Nat) (s : State) : State :=
  match windowOf s addr 1 with
  | some n => if s.cap.cut.stopCopy.contains n then
      { s with cap.cut.copied := Tab.put s.cap.cut.copied n (Tab.getD s.cap.cut.copied n 0 + len) } else s
  | none => s

/-- Issues the reads of a block, none across a 4 KiB boundary, while its mover may read (R140, R141, R328). -/
def issueReads (fuel id mover cls : Nat) (s : State) : State :=
  match fuel with
  | 0 => s
  | k + 1 =>
    match blk? s id with
    | none => s
    | some b =>
      let a := b.base + b.issued
      let n := min (b.need - b.issued) (4096 - a % 4096)
      if b.need ≤ b.issued ∨ !mayRead s mover n then s else
      issueReads k id mover cls (onBlk id (fun b => { b with issued := b.issued + n })
        (countStop a n (fabReqBy (some mover) (some b.ctx) b.hold (.source id b.issued) false a n cls [] false s)))

/-! ### Vault reads of a unit (R259, R286, R343) -/

/-- Runs of consecutive sectors of at most 16 (R257). -/
def runsOf (l : List (Nat × Nat)) : List (List (Nat × Nat)) :=
  l.foldl (fun acc p =>
    match acc.getLast? with
    | some r => if r.length < 16 ∧ (r.getLast?.any fun x => x.2 + 1 == p.2) then acc.dropLast ++ [r ++ [p]] else acc ++ [[p]]
    | none => [[p]]) []

/-- A SECTOR_READ for some sectors of a job: positions in the job with the sectors read. -/
def readPeer (id : Nat) (j : Job) (v : Vault) (again : Nat) (run : List (Nat × Nat)) (s : State) : State :=
  match vPeer s v, run.head? with
  | some d, some p =>
    let o := ((Tab.get? s.str.ctxs j.ctx).map fun c => (c.q, c.seq)).getD (0, 0)
    request { mtype := 0x12, dst := d, vault := vRemote v, count := run.length, sector := p.2, stride := 1 }
      { tag := 0, peer := d, mtype := 0x12, msg := [], owner := some o, entry := id, isectors := run.map (·.1), again } s
  | _, _ => s

/-- Reads some sectors of a job, by their positions in it. -/
def readSectors (id : Nat) (j : Job) (again : Nat) (ix : List Nat) (s : State) : State :=
  let cls := ((Tab.get? s.str.ctxs j.ctx).map (·.cls)).getD 4
  let hb := fun (addr td n i : Nat) (t : State) =>
    let t := hbReq (.vread id i) false addr td 4096 [] cls (n % 4) (some j.ctx) t
    { t with out.hb := updWhere (fun r => r.id + 1 == t.out.nextId) (fun r => { r with again }) t.out.hb }
  match j.buf, vault? s j.vault with
  | some b, _ => each ix (fun i => hb (b.1 + 4096 * (j.isector + i)) b.2 (j.isector + i) i) s
  | none, some v =>
    if vWhere v = 0 then each ix (fun i =>
      hb (vBase v + 4096 * j.places.getD i 0) (vTdid v) (j.places.getD i 0) i) s
    else each (runsOf (ix.map fun i => (i, j.places.getD i 0))) (readPeer id j v again) s
  | none, none => s

/-- The codec number of a unit whose sectors are taken whole, as stored, for a DIGEST (R204); that of sectors which are only
read (R289) is 255. -/
def rawCodec : Nat := 254

/-- The checks of a sector of a unit (R198, R284). -/
def dataSectorOk (j : Job) (i : Nat) (b : Bytes) : Bool :=
  sectorCrcOk j.vid (j.first + i) b && (j.codec == rawCodec ||
    (hKind b == 2 && hEpoch b == j.epoch && hStream b == j.stream && hIsector b == j.isector + i && !hPoison b))

/-- The self-checks of a sector read back (R194): each failure reruns it on another engine of the kind; the first one is charged when
the rerun passes, and after four reruns the sector is bad data (R309). -/
def readCheck (n : Nat) (s : State) : Bool × State :=
  let l := (s.pun.readFails.filter fun k => engineOk s (some k)).take 5
  let s := each l (fun k t => upset k.1 (raise0 0x0601 1 (k.1 + k.2 * 2 ^ 8 + 2 ^ 16 + 2 ^ 32 * (n % 2 ^ 32)) t))
    { s with pun.readFails := [] }
  (decide (5 ≤ l.length), match l with
    | [k] => charge k.1 k.2 s
    | _ => s)

/-- A sector that needs a key slot that is empty: its command ends KEY_ABSENT, or its epoch does (R206, R211, R212). -/
def keyMissed (j : Job) (s : State) : State :=
  match Tab.get? s.str.ctxs j.ctx with
  | none => s
  | some c => if c.epoch ≠ 0 then abandonEpoch c.epoch (0x0E, 0) s else finish c.q c.seq 0x0E 0 (stopCmd c.q c.seq s)

/-- A sector of a unit has arrived; `bad`: 0 good, else 1 + cause of POISON_MARK. -/
def keepSector (id i : Nat) (b : Bytes) (bad : Nat) (s : State) : State :=
  match blk? s id with
  | none => s
  | some x =>
    match x.kind with
    | .dec j =>
      let check := if bad = 0 then readCheck (j.first + i) s else (false, s)
      let s := if j.codec = rawCodec then check.2 else readKeys [j.kslot] check.2
      if bad = 0 ∧ j.codec ≠ rawCodec ∧ (Tab.get? s.adm.keys j.kslot).isNone then keyMissed j s else
      let bad := if check.1 then 1 else bad
      let p := if j.codec = rawCodec then (if bad = 1 then (List.range 4096).map (Config.badByte s.time.free) else slice b 0 4096)
        else if bad = 0 then payloadOf (keyBytes s j.kslot) (j.first + i) b else zeros 4064
      let s := noteFill x.ctx 4096 (onBlk id (fun x => { x with
        parts := Tab.put x.parts i p, bad := max x.bad bad
        badUnits := if bad = 0 then x.badUnits else x.badUnits ++ [8 * i + bad] }) (if bad = 1 then drawn s else s))
      if bad = 1 ∨ j.codec = rawCodec then s
      else onCtx j.ctx (fun c => { c with digests := Tab.put c.digests (j.first + i) (sha256 b) }) s
    | _ => s

/-- A sector read of a unit is answered: a sector that fails its check is read again, twice at most (R309). -/
def sectorArrives (id i again : Nat) (b : Bytes) (s : State) : State :=
  match blk? s id with
  | none => s
  | some x =>
    match x.kind with
    | .dec j =>
      if dataSectorOk j i b then keepSector id i b 0 s
      else if again < 2 then readSectors id j (again + 1) [i] s
      else keepSector id i b 3 s
    | _ => s

/-- Puts a unit into a block slot of a lane and reads its sectors. -/
def startUnit (j : Job) (lane : Option Nat) (passant : Bool) (s : State) : State :=
  let size := if j.codec = rawCodec then 4096 else 4064
  readSectors s.str.nextBlk j 0 (List.range j.count) (newBlk
    { id := 0, ctx := j.ctx, kind := .dec j, need := size * j.count, issued := size * j.count, passed := size * j.count
      lane, passant } false s)

end Sys2Proof.Machine
end

