-- ==== Sys2Proof/Machine/Streams.lean ====
section
/-! DEFINITION. The source streams of an epoch: contexts in copy order (R137 to R139), plates and rows read into staging
(R140 to R150), requests that pass the filters (R119, R125), data that arrives (R126, R127, R158, R329), blocks encoded
and emitted (R164 to R186), deadlines (R146). -/

namespace Sys2Proof.Machine

/-! ### Contexts of an epoch -/

/-- The command that an entry's bad data is charged to: a CAPTURE or ROW_CAPTURE that names it, else the launch (R160). -/
def ownerOf (s : State) (x : Epoch) (entry : Nat) : Nat × Nat :=
  match s.ldg.cmds.find? fun c => (itemOp c.item == 0x41 || itemOp c.item == 0x42) && c.st == .started && c.ran &&
      c.epoch == x.num && fld c.item 12 4 == entry with
  | some c => (c.q, c.seq)
  | none => (x.q, x.seq)

/-- Bad data captured for an entry (R158 to R160). -/
def captureBad (e entry : Nat) (units : List Nat) (cause code detail : Nat) (s : State) : State :=
  match epoch? s e with
  | none => s
  | some x =>
    let o := ownerOf s x entry
    badAt ((ctxFor s e entry).getD 0) o.1 o.2 e units cause code detail s

/-- FENCE_GEN of a stream that reads from or writes to a vault: its peer's generation, 0 for a HOST vault (R138). -/
def vaultGen (s : State) (vid : Nat) : Nat := (((vault? s vid).bind (vPeer s)).map (expectedGen s)).getD 0

/-- A context of a command (q, seq): its mode is that of the moment it starts (R148). -/
def streamCtx (s : State) (q seq kind cls : Nat) : Ctx :=
  let c : Ctx := { state := 2, kind, cls, credit := sh s 0x408 == 1, q, seq, slot := ((cmd? s q seq).map (·.slot)).getD 0 }
  { c with state := creditState s c }

/-- A context of an epoch's source stream, started by the launch, a CAPTURE or a ROW_CAPTURE. -/
def sourceCtx (s : State) (x : Epoch) (q seq entry kind : Nat) : Ctx :=
  let en := entryAt x.list entry
  { streamCtx s q seq kind 4 with
    epoch := x.num, fenceGen := vaultGen s (hVault x.list), entry, cursor := eAddr en, remain := eBytes en }

/-! ### The copy order (R24, R117) -/

/-- Takes a number out of an item. -/
def splitItem (i : CopyItem) (n : Nat) : List CopyItem :=
  (if i.first < n then [{ i with count := n - i.first }] else []) ++
    (if n + 1 < i.first + i.count then [{ i with first := n + 1, count := i.first + i.count - n - 1 }] else [])

/-- Takes the first number of an entry that `pick` finds in an item `[lo, hi)`. -/
def popItem (entry : Nat) (pick : Nat → Nat → Option Nat) : List CopyItem → Option (Nat × List CopyItem)
  | [] => none
  | i :: r =>
    match (if i.entry = entry then pick i.first (i.first + i.count) else none) with
    | some n => some (n, splitItem i n ++ r)
    | none => (popItem entry pick r).map fun x => (x.1, i :: x.2)

def setOrder (e : Nat) (o : List CopyItem) : State → State := onEpoch e fun x => { x with order := o }

/-- Some number of `[lo, hi)` of an entry is still in the copy order. -/
def inOrder (x : Epoch) (entry lo hi : Nat) : Bool :=
  x.order.any fun i => i.entry == entry && decide (i.first < hi) && decide (lo < i.first + i.count)

/-- An item that a filter's permanent fault has made worthless (R135). -/
def isLost (x : Epoch) (entry i : Nat) : Bool :=
  x.lost.any fun l => l.entry == entry && decide (l.first ≤ i) && decide (i < l.first + l.count)

/-- The items of a running CAPTURE or ROW_CAPTURE, as a set. -/
def itemSet (s : State) (q seq : Nat) : Iset :=
  (((cmd? s q seq).map (·.items)).getD []).foldl (fun a i => Iset.add a i.1 (i.1 + i.2)) []

/-- The context belongs to the epoch's launch. -/
def ofLaunch (x : Epoch) (c : Ctx) : Bool := c.q == x.q && c.seq == x.seq

/-- The list of a ROW_CAPTURE is still being read and checked (R154). -/
def listing (s : State) (c : Ctx) : Bool := s.str.ctxs.any fun k => k.2.kind == 2 && k.2.q == c.q && k.2.seq == c.seq

/-- Items of an entry that the streams of CAPTURE and ROW_CAPTURE commands read. -/
def claims (s : State) (x : Epoch) (entry : Nat) : Iset :=
  (s.str.ctxs.filter fun k => k.2.epoch == x.num && k.2.entry == entry && isSource k.2 && k.2.state != 5 &&
    !ofLaunch x k.2 && !listing s k.2).foldl (fun a k => Iset.union a (itemSet s k.2.q k.2.seq)) []

/-- The next item of a stream's entry in the copy order, with the order without it: a CAPTURE's stream reads the items that the
command names, the launch's stream the others (R137). The blocks of a REPLICATED entry stay in copy order (R118): there a
stream waits until the entry's first remaining item is its own. -/
def nextItem (s : State) (x : Epoch) (c : Ctx) : Option (Nat × List CopyItem) :=
  let mine := fun lo hi => if ofLaunch x c then (isetMinus lo hi (claims s x c.entry)).head?.map (·.1)
    else (isetInter lo hi (itemSet s c.q c.seq)).head?.map (·.1)
  if listing s c then none
  else if eRepl (entryAt x.list c.entry) then
    (popItem c.entry (fun lo _ => some lo) x.order).filter fun r => (mine r.1 (r.1 + 1)).isSome
  else popItem c.entry mine x.order

/-- An item has a byte in a window that is copied under HOLD (R133, R135). -/
def inStop (s : State) (en : Bytes) (i : Nat) : Bool :=
  [itemAddr en i, itemAddr en (i + 1) - 1].any fun a => (windowOf s a 1).any s.cap.cut.stopCopy.contains

/-- Items that may be read now: those of windows copied under HOLD (R133, R135), and in CAPTURING those of every entry
that is not DEFERRED (R25). DEDUCED, log entry 102. -/
def readable (s : State) (x : Epoch) (entry i : Nat) : Bool :=
  (x.phase == 2 && !x.deferred.contains entry) || inStop s (entryAt x.list entry) i

/-- An item is read under HOLD: its reads draw no tokens (R134). -/
def underHold (s : State) (x : Epoch) (entry i : Nat) : Bool :=
  x.phase == 1 || inStop s (entryAt x.list entry) i

/-- Entries of the copy order, in order, without a stream of the launch, whose items may be read now (R25, R133). -/
def waitingEntries (s : State) (x : Epoch) : List Nat :=
  (((x.order.filter fun i => readable s x i.entry i.first).map (·.entry)).dedup).filter fun i =>
    !(s.str.ctxs.any fun c => c.2.epoch == x.num && c.2.entry == i && isSource c.2 && ofLaunch x c.2)

/-- Source streams of an epoch's launch that run. -/
def runningOf (s : State) (x : Epoch) : Nat :=
  (s.str.ctxs.filter fun c => c.2.epoch == x.num && isSource c.2 && ofLaunch x c.2).length

/-- Starts source streams in copy order, at most 32 at once (R137); one without a context waits (R139). -/
def startStreams (e : Nat) (s : State) : State :=
  match epoch? s e with
  | none => s
  | some x =>
    each (waitingEntries s x) (fun entry t =>
      if 32 ≤ runningOf t x then t
      else if !ctxRoom t e then contextWait x.q x.seq t
      else (newCtx (sourceCtx t x x.q x.seq entry (if eKind (entryAt x.list entry) = 2 then 1 else 0)) t).2) s

/-! ### Cursors (R119, R130) -/

/-- Plates of a segment that its cursor has not passed: still in the order, with requests that have not passed, or with a
passant copy that is not accepted. -/
def plateWaits (s : State) (x : Epoch) (g : Seg) : List Nat :=
  let p0 := plateOf s (eAddr (entryAt x.list g.entry))
  let clip := fun (lo hi : Nat) => if lo < min hi g.hi ∧ g.cursor < hi then [max lo g.cursor] else []
  (x.order.filter fun i => i.entry == g.entry).flatMap (fun i => clip (p0 + i.first) (p0 + i.first + i.count)) ++
    s.str.blocks.flatMap (fun b => match b.kind with
      | .enc e entry k =>
        if e == x.num && entry == g.entry && b.tag.isNone && decide (b.passed < b.need) then clip (p0 + k) (p0 + k + 1) else []
      | _ => []) ++
    (s.cap.passants.filter fun p => !p.2.row && p.2.epoch == x.num && p.2.entry == g.entry && decide (0 < p.2.toAccept)).flatMap
      fun p => clip p.2.item (p.2.item + 1)

/-- Rows of an extent are still to be copied. -/
def rowsWait (s : State) (x : Epoch) (entry : Nat) : Bool :=
  orderHas x entry ||
  (s.str.blocks.any fun b => match b.kind with
    | .row e i _ => e == x.num && i == entry && decide (b.passed < b.need)
    | _ => false) ||
  s.cap.passants.any fun p => p.2.row && p.2.epoch == x.num && p.2.entry == entry && decide (0 < p.2.toAccept)

/-- The segment after its cursor has moved; `none` when it is over and disarmed. -/
def moveSeg (s : State) (x : Epoch) (g : Seg) : Option Seg :=
  if x.deferred.contains g.entry then some g
  else if g.rows then (if rowsWait s x g.entry then some g else none)
  else
    match (plateWaits s x g).min? with
    | some p => some { g with cursor := max g.cursor p }
    | none => none

/-- Moves every cursor and disarms what is over; held writes that became clear are released. -/
def advance (s : State) : State :=
  match capEpoch s with
  | none => s
  | some x =>
    if x.phase ≠ 2 then s else
    serveFilters { s with
      cap.filters := s.cap.filters.map fun f => (f.1, { f.2 with segs := f.2.segs.filterMap (moveSeg s x) }) }

/-! ### Passant copies and the blocks they give (R127) -/

/-- The passant copy of an item of an epoch whose data is to be emitted: a plate index or a row. -/
def passantOf (s : State) (e entry item : Nat) (row : Bool) : Option (Nat × Passant) :=
  s.cap.passants.find? fun x => x.2.row == row && x.2.epoch == e && x.2.entry == entry && x.2.item == item && !x.2.drop

/-- The block that stands for plate `k` of an entry until its passant copy has returned (R127). -/
def placeholder (x : Epoch) (ctx entry k tag : Nat) : Blk :=
  { id := 0, ctx, kind := .enc x.num entry k, need := 65536, issued := 65536, passed := 65536, passant := true, tag := some tag }

/-- The data of a passant copy fills the block that stands for it. -/
def fillTag (tag : Nat) (s : State) : State :=
  match Tab.get? s.cap.passants tag with
  | none => s
  | some p =>
    if p.toReturn ≠ 0 ∨ !(s.str.blocks.any fun b => b.tag == some tag) then s else
    let fill := fun (b : Blk) => { b with tag := none, parts := p.data, units := p.units, bad := max b.bad (b2n p.bad) }
    { s with
      cap.passants := Tab.del s.cap.passants tag
      str.blocks := updWhere (fun b => b.tag == some tag) fill s.str.blocks }

/-! ### Plates -/

/-- DELTA is in effect for a block or a unit, whose anchor takes a slot of its own (R177, R286). -/
def usesAnchor (s : State) (b : Blk) : Bool :=
  match b.kind with
  | .enc e entry _ => (epoch? s e).any fun x => x.delta.contains entry
  | .dec j => j.delta && j.forBlk.isNone && decide (j.codec < rawCodec)
  | _ => false

/-- One descriptor of a plate stream: the next plate not yet copied gets a slot and its reads. -/
def plateStep (fuel mover ctx : Nat) (c : Ctx) (s : State) : State :=
  match fuel with
  | 0 => s
  | k + 1 =>
    match epoch? s c.epoch with
    | none => s
    | some x =>
      let en := entryAt x.list c.entry
      match nextItem s x c with
      | none => s
      | some (i, order) =>
        let p := i + plateOf s (eAddr en)
        if !readable s x c.entry i then s else
        match passantOf s x.num c.entry p false with
        | some (tag, _) =>
          let s := setOrder c.epoch order s
          plateStep k mover ctx c (if eRepl en then fillTag tag (newBlk (placeholder x ctx c.entry i tag) false s) else s)
        | none =>
          if (collBank s).mem p && !isLost x c.entry i then plateStep k mover ctx c (setOrder c.epoch order s)
          else if !windowOpen s ctx c || (x.delta.contains c.entry && decide (slotsFree s < 2)) then s
          else
            let id := s.str.nextBlk
            issueReads 17 id mover c.cls (newBlk
              { id := 0, ctx, kind := .enc c.epoch c.entry i, need := 65536, base := itemAddr en i, lane := freeLane s []
                hold := underHold s x c.entry i, bad := b2n (isLost x c.entry i) } false (setOrder c.epoch order s))

/-! ### Rows (R125, R126, R280) -/

/-- The extents of 64 KiB that a row of `size` bytes lies in. -/
def extentsOf (size row : Nat) : List Nat := [row * size / 65536, ((row + 1) * size - 1) / 65536].dedup

/-- The rows of an extent: first row and the row after the last. -/
def extentRows (size total k : Nat) : Nat × Nat := (k * 65536 / size, min total (cdiv ((k + 1) * 65536) size))

/-- An extent's block, if there is one in staging. -/
def extentBlk (s : State) (e entry k : Nat) : Option Blk := s.str.blocks.find? fun b => b.kind == .enc e entry k

/-- The bytes of an extent have been gathered. -/
def extentFilled (s : State) (x : Epoch) (entry k : Nat) : Bool :=
  (extentBlk s x.num entry k).any blkWhole ||
    (Tab.get? (ingotOf x entry).index (k * (65536 / blockSize s (entryAt x.list entry)))).isSome

/-- Fills an extent of an entry that is captured in full, once all its rows are at hand (R280); rows that another extent
still needs stay. -/
def fillExtent (e entry k : Nat) (s : State) : State :=
  match epoch? s e, extentBlk s e entry k with
  | some x, some b =>
    let en := entryAt x.list entry
    let size := eRow en
    let r := extentRows size (eSize en) k
    let g := (ingotOf x entry).gather
    let rows := (List.range (r.2 - r.1)).map (r.1 + ·)
    let d := rows.filterMap (Tab.get? g)
    if blkWhole b || d.length ≠ rows.length then s else
    let bad := rows.filter fun i => (Tab.get? g i).any (·.2)
    let bytes := slice ((d.flatMap (·.1)).drop (k * 65536 - r.1 * size)) 0 b.need
    let fill := fun (y : Blk) =>
      { y with parts := [(0, bytes)], bad := if bad.isEmpty then 0 else 1, badUnits := bad.map (itemAddr en) }
    let s := onBlk b.id fill s
    let still := fun (p : Nat × Bytes × Bool) =>
      !rows.contains p.1 || (extentsOf size p.1).any fun j => j != k && !extentFilled s x entry j
    onIngot e entry (fun y => { y with gather := y.gather.filter still }) s
  | _, _ => s

/-- The place of an extent in the copy order: when the last of its rows leaves the order, its block joins the stream. -/
def placeExtents (x : Epoch) (ctx entry row : Nat) (s : State) : State :=
  let en := entryAt x.list entry
  let size := eRow en
  if !wholeEntry x entry then s else
  each (extentsOf size row) (fun k t =>
    let r := extentRows size (eSize en) k
    if ((epoch? t x.num).any fun y => inOrder y entry r.1 r.2) || (extentBlk t x.num entry k).isSome || extentFilled t x entry k
    then t
    else
      let n := min 65536 (eSize en * size - k * 65536)
      fillExtent x.num entry k (newBlk { id := 0, ctx, kind := .enc x.num entry k, need := n } false t)) s

/-- A row of an ingot is at hand. -/
def rowAtHand (e entry row : Nat) (d : Bytes) (bad : Bool) (s : State) : State :=
  match epoch? s e with
  | none => s
  | some x =>
    if (Tab.get? (ingotOf x entry).gather row).isSome then s else
    let s := onIngot e entry (fun g => { g with gather := Tab.put g.gather row (d, bad) }) s
    each (extentsOf (eRow (entryAt x.list entry)) row) (fun k t => fillExtent e entry k t) s

/-- The data of a row's passant copy leaves the reserve: at once, or for a REPLICATED entry when the copy order has reached
the row (R127). -/
def passantRow (tag : Nat) (s : State) : State :=
  match Tab.get? s.cap.passants tag with
  | none => s
  | some p =>
    match epoch? s p.epoch with
    | none => s
    | some x =>
      if !p.row ∨ p.toReturn ≠ 0 ∨ (eRepl (entryAt x.list p.entry) ∧ inOrder x p.entry p.item (p.item + 1)) then s
      else rowAtHand p.epoch p.entry p.item ((Tab.vals p.data).flatten) p.bad
        (fixUnits { s with cap.passants := Tab.del s.cap.passants tag })

/-- The extents of an entry that is not captured in full are formed at the end of its walk, when the rows captured are known
(R280). -/
def formRows (e entry ctx : Nat) (s : State) : State :=
  match epoch? s e with
  | none => s
  | some x =>
    let g := ingotOf x entry
    if eKind (entryAt x.list entry) ≠ 2 ∨ wholeEntry x entry ∨ g.gather.isEmpty ∨ x.deferred.contains entry ∨ rowsWait s x entry ∨
        (s.cap.passants.any fun p => p.2.epoch == e && p.2.entry == entry) ∨
        (s.str.blocks.any fun b => match b.kind with
          | .row y i _ => y == e && i == entry
          | _ => false) then s
    else
      let en := entryAt x.list entry
      let size := eRow en
      let all := g.gather.flatMap (·.2.1)
      let bad := (g.gather.zip (List.range g.gather.length)).filter fun r => r.1.2.2
      let s := onIngot e entry (fun g => { g with
        rows := g.gather.foldl (fun a r => Iset.add a r.1 (r.1 + 1)) g.rows, gather := [] }) s
      each (List.range (cdiv all.length 65536)) (fun k t =>
        let d := slice all (65536 * k) (min 65536 (all.length - 65536 * k))
        let here := bad.filter fun r => (extentsOf size r.2).contains k
        newBlk { id := 0, ctx, kind := .enc e entry k, need := d.length, parts := [(0, d)], issued := d.length
                 passed := d.length, bad := b2n !here.isEmpty, badUnits := here.map fun r => itemAddr en r.1.1 } false t) s

/-- A row leaves the copy order. -/
def leaveOrder (x : Epoch) (ctx entry row : Nat) (order : List CopyItem) (s : State) : State :=
  let s := setOrder x.num order s
  let s := match passantOf s x.num entry row true with
    | some (tag, _) => passantRow tag s
    | none => s
  formRows x.num entry ctx (placeExtents x ctx entry row s)

/-- A read of a row may begin: a light slot, or a block slot for a row above 512 B (R140, R144, R150). -/
def rowRoom (s : State) (mover ctx : Nat) (c : Ctx) (en : Bytes) : Bool :=
  mayRead s mover (eRow en) && (decide (eRow en ≤ 512) || windowOpen s ctx c)

/-- One descriptor of a row stream: rows that need no copy are passed over, the next pending one is read (R125).
DEDUCED, log entry 91. -/
def rowStep (fuel mover ctx : Nat) (c : Ctx) (s : State) : State :=
  match fuel with
  | 0 => s
  | k + 1 =>
    match epoch? s c.epoch with
    | none => s
    | some x =>
      let en := entryAt x.list c.entry
      let t := eTrack en
      match nextItem s x c with
      | none => formRows c.epoch c.entry ctx s
      | some (row, order) =>
        if !readable s x c.entry row then s else
        match touched? s t (row / 128) with
        | none => fetchGroup t (row / 128) s
        | some g =>
          let s := if opsOf s t (row / 128) = [] then groupOp (touchOf t (row / 128)) s else s
          if rowCopied s t row g || copying s c.entry row true || !(wholeEntry x c.entry || g.d.getLsbD (row % 128)) then
            rowStep k mover ctx c (leaveOrder x ctx c.entry row order s)
          else if (compareCv s x c.entry row).isNone then askCv x c.entry row s
          else if !rowRoom s mover ctx c en then s
          else
            let id := s.str.nextBlk
            let b : Blk := { id := 0, ctx, kind := .row c.epoch c.entry row, need := eRow en, base := itemAddr en row
                             lane := if eRow en ≤ 512 then none else freeLane s [], hold := underHold s x c.entry row
                             bad := b2n (isLost x c.entry row) }
            leaveOrder x ctx c.entry row order (issueReads 3 id mover c.cls (newBlk b false s))

/-! ### Requests that pass a filter (R119, R125) -/

/-- The requests of a row's background copy have all passed: DONE is set and the stored check value kept (R125, R126). -/
def rowPassed (x : Epoch) (id entry row : Nat) (s : State) : State :=
  let cv := (compareCv s x entry row).getD none
  setDone (eTrack (entryAt x.list entry)) row (onBlk id (fun b => { b with cv }) s)

/-- A source request has passed its filter. -/
def sourcePassed (r : FabReq) (s : State) : State :=
  match r.kind with
  | .source id _ =>
    match blk? s id with
    | none => s
    | some b =>
      if r.seen then s else
      let s := { s with out.fab := updWhere (fun q => q.id == r.id) (fun q => { q with seen := true }) s.out.fab }
      let s := onBlk id (fun b => { b with passed := b.passed + r.len }) s
      match b.kind with
      | .enc .. => advance s
      | .row e entry row =>
        match epoch? s e with
        | none => s
        | some x => advance (if b.need ≤ b.passed + r.len then rowPassed x id entry row s else s)
      | _ => s
  | _ => s

/-- FILTER_READ_PRESENT: a read of a stream is presented at insertion point `n`. Reads are never stopped (R332). -/
def filterReadPresent (n addr bytes ctx : Nat) (s : State) : State :=
  match s.out.fab.find? fun r => !r.write && !r.seen && r.addr == addr && r.len == bytes && match r.kind with
    | .source id _ => (blk? s id).any fun b => b.ctx == ctx
    | _ => false with
  | none => s
  | some r => fabAnswered r (fun s => if windowOf s addr 1 = some n ∧ !retired s 8 n then sourcePassed r s else s) s

/-! ### Data that arrives -/

/-- The check of a row's copy (R126, R400): `cv` is what it is compared with, none when its value is refreshed. -/
def checkRow (x : Epoch) (entry row : Nat) (cv : Option Nat) (refresh : Bool) (d : Bytes) (s : State) : Bool × State :=
  let en := entryAt x.list entry
  let t := eTrack en
  let v := rowCv (eFormat en) d
  match cv with
  | some w =>
    if v = w then (false, s)
    else (true, poisonEpoch x.num (raise0 0x0306 2 (entry % 2 ^ 16 + row * 2 ^ 16) s))
  | none =>
    if refresh && !written s t (row / 128) (2 ^ (row % 128)) then
      (false, groupOp { region := t, group := row / 128, fresh := 2 ^ (row % 128), vals := [(row, v)] } s)
    else (false, s)

/-- The background copy of a row has arrived. -/
def rowArrived (b : Blk) (e entry row : Nat) (s : State) : State :=
  match epoch? s e with
  | none => dropBlk b.id s
  | some x =>
    let en := entryAt x.list entry
    let d := blkBytes b
    let s := dropBlk b.id s
    let r := if eCheck en && b.bad == 0 then checkRow x entry row b.cv true d s else (b.bad != 0, s)
    formRows e entry b.ctx (rowAtHand e entry row d r.1 r.2)

/-- The bytes that a read delivers, or bytes of bad data where the manual gives none (DESIGN CHOICE, log entry 9). -/
def readBytes (d : Bytes) (len : Nat) (bad : Bool) (s : State) : Bytes :=
  if bad ∧ d.length ≠ len then (List.range len).map (Config.badByte s.time.free) else d

/-- The data of a source read has arrived, whole or bad (R158). -/
def sourceArrives (r : FabReq) (id off : Nat) (d : Bytes) (bad : Bool) (s : State) : State :=
  match blk? s id with
  | none => s
  | some b =>
    let unit := r.addr - r.addr % 4096
    let s := noteFill b.ctx r.len (onBlk id (fun b => { b with
      parts := Tab.put b.parts off (readBytes d r.len bad s)
      bad := if bad then max b.bad 1 else b.bad
      badUnits := if bad then b.badUnits ++ [unit] else b.badUnits }) (if bad then drawn s else s))
    let s := match b.kind with
      | .enc e entry _ | .row e entry _ => if bad then captureBad e entry [unit] 0 0x0B 0 s else s
      | _ => if bad then badData b.ctx [unit] 0 0x0B 0 s else s
    match b.kind, blk? s id with
    | .row e entry row, some b => if blkWhole b then rowArrived b e entry row s else s
    | _, _ => s

/-- The address that a passant copy copies. -/
def passantAddr (s : State) (x : Epoch) (p : Passant) : Nat :=
  if p.row then itemAddr (entryAt x.list p.entry) p.item else plateBase s + 65536 * p.item

def passantLost (tag : Nat) (s : State) : State :=
  match Tab.get? s.cap.passants tag with
  | none => s
  | some p =>
    let s := { s with cap.passants := Tab.upd s.cap.passants tag fun p => { p with bad := true } }
    match capEpoch s with
    | none => s
    | some x => let a := passantAddr s x p; captureBad x.num p.entry [a - a % 4096] 1 0x0B 0 s

/-- A staging block that cannot be read is bad data of cause 1 (R158, R161). -/
def stagingLost (id : Nat) (s : State) : State :=
  match blk? s id with
  | none => s
  | some b =>
    let units := match b.kind with
      | .dec j => (List.range j.count).map fun i => 8 * i + 2
      | _ => (List.range (cdiv (b.base % 4096 + b.need) 4096)).map fun i => b.base - b.base % 4096 + 4096 * i
    let s := onBlk id (fun b => { b with bad := max b.bad 2, badUnits := b.badUnits ++ units }) s
    match b.kind with
    | .enc e entry _ | .row e entry _ => captureBad e entry units 1 0x0B 0 s
    | _ => s

/-- Turns a returned passant copy of a plate into a staged block: in front for an entry that is not REPLICATED. -/
def passantBlock (x : Epoch) (tag : Nat) (p : Passant) (s : State) : State :=
  let k := p.item - plateOf s (eAddr (entryAt x.list p.entry))
  let ctx := (ctxFor s x.num p.entry).getD 131072
  fillTag tag (newBlk (placeholder x ctx p.entry k tag) true s)

/-- The data of an injected read has arrived (R120, R126, R127). -/
def passantArrives (r : FabReq) (tag off : Nat) (d : Bytes) (bad : Bool) (s : State) : State :=
  match Tab.get? s.cap.passants tag with
  | none => s
  | some p =>
    match epoch? s p.epoch with
    | none => s
    | some x =>
      let p : Passant := { p with toReturn := p.toReturn - 1, data := Tab.put p.data off (readBytes d r.len bad s), bad := p.bad || bad }
      let s : State := if bad then drawn s else s
      let s : State := { s with cap.passants := Tab.put s.cap.passants tag p }
      let s := if bad then captureBad x.num p.entry [r.addr - r.addr % 4096] 0 0x0B 0 s else s
      if p.toReturn ≠ 0 ∨ (Tab.get? s.cap.passants tag).isNone then s
      else
      let s := readLanes 1 (fun l => l / 32 == tag) (fun _ => passantLost tag) s
      let p : Passant := { p with bad := p.bad || (Tab.get? s.cap.passants tag).any (·.bad) }
      if p.row then
        let c := match p.cv with
          | some _ => if p.bad then (false, s) else checkRow x p.entry p.item p.cv false (Tab.vals p.data).flatten s
          | none => (false, s)
        let s := if c.1 then { c.2 with cap.passants := Tab.upd c.2.cap.passants tag fun p => { p with bad := true } } else c.2
        formRows x.num p.entry ((ctxFor s x.num p.entry).getD 131072) (passantRow tag s)
      else if p.drop then fixUnits { s with cap.passants := Tab.del s.cap.passants tag }
      else if s.str.blocks.any fun b => b.tag == some tag then fillTag tag s
      else if eRepl (entryAt x.list p.entry) then s
      else passantBlock x tag p s

/-! ### Blocks through Crucible (R164 to R186) -/

/-- The stream of a source block. -/
def blkStream (b : Blk) : Option (Nat × Nat) :=
  match b.kind with
  | .enc e entry _ => some (e, entry)
  | _ => none

/-- A halted lane keeps the block. -/
def blkKept (s : State) (id : Nat) : Bool := s.str.lanes.any fun l => l.2.blk == some id

/-- A block is complete, its anchor with it. -/
def blkReady (s : State) (b : Blk) : Bool := blkWhole b && (!usesAnchor s b || b.anchor.isSome)

/-- The block that a source stream hands to a lane next: its first one, but passant data of an entry that is not REPLICATED
goes before (R127); none while a lane halted at a block of the stream keeps it (R188). Between the two invocations of a
recipe encode it is the same block (R186). -/
def streamNext (s : State) (e entry : Nat) : Option Blk :=
  let mine := s.str.blocks.filter fun b => blkStream b == some (e, entry)
  if mine.any fun b => blkKept s b.id then none else
  let repl := (epoch? s e).any fun x => eRepl (entryAt x.list entry)
  match mine.find? fun b => b.half.isSome || decide (0 < b.next) with
  | some b => some b
  | none =>
    match mine.find? fun b => !repl && b.passant && blkReady s b with
    | some b => some b
    | none => mine.head?

/-- Blocks of a lane's staging area that it may take (R164, R165). -/
def takeable (s : State) (lane : Nat) : List Blk :=
  s.str.blocks.filter fun b => b.lane == some lane && blkReady s b && !blkKept s b.id && match b.kind with
    | .enc e entry _ => (streamNext s e entry).any fun n => n.id == b.id
    | .dec j => j.codec != rawCodec
    | _ => false

/-- The block that the arbiter of a lane grants (R16). -/
def laneGrant (s : State) (lane : Nat) : Option (Wait × Blk) :=
  let l := takeable s lane
  let cls := fun (b : Blk) => ((Tab.get? s.str.ctxs b.ctx).map (·.cls)).getD 4
  (pick s (arb s (40 + lane)) (l.map fun b => { id := b.id, cls := cls b, ctx := some b.ctx, fill := false })).bind fun w =>
    (l.find? fun b => b.id == w.id).map fun b => (w, b)

/-- The next indexed block of a staged block: number, source bytes. -/
def subBlock (s : State) (en : Bytes) (b : Blk) (k : Nat) : Nat × Bytes :=
  let size := blockSize s en
  let all := blkBytes b
  (k * (65536 / size) + b.next, slice all (b.next * size) (min size (all.length - b.next * size)))

/-- An encoded block leaves for the sealing unit; the staged block goes with its last one (R122, R127, R167). -/
def emitSub (b : Blk) (x : Epoch) (entry block lane : Nat) (src out : Bytes) (sat : Nat) (bad : Bool) (s : State) : State :=
  let en := entryAt x.list entry
  let f := eFormat en
  let s := emitBlock x.num entry block (some lane) out bad sat (railCount f src) (elemCount f src) s
  let s := noteDrain b.ctx src.length s
  if (blkBytes b).length ≤ (b.next + 1) * blockSize s en then
    progress x.num (advance (fixUnits (dropBlk b.id s)))
  else onBlk b.id (fun b => { b with next := b.next + 1, tries := 0, lanes := [], half := none, anchor := none }) s

/-- Charges the lane whose one failed check the rerun has shown to be its own (R309). -/
def chargeLanes (b : Blk) (s : State) : State := if b.tries = 1 then each b.lanes (charge 3) s else s

/-- Damage of an encoded block: bad data in which the block could not be encoded, as cause of POISON_MARK, status code and
DETAIL. -/
def anchorWorst (b : Blk) : Option (Nat × Nat × Nat) :=
  match b.anchor with
  | some (_, code, d) => if code = 0 then none else some (if code = 0x0C then 2 else if code = 0x0B then 0 else 3, code, d)
  | none => none

/-- What follows an encode invocation or a built-in encode whose check has passed, or was the last one allowed. -/
def encDone (b : Blk) (x : Epoch) (entry block lane : Nat) (src out : Bytes) (sat : Nat) (worst : Option (Nat × Nat × Nat))
    (s : State) : State :=
  let unit := itemAddr (entryAt x.list entry) 0 + block * blockSize s (entryAt x.list entry)
  let s := match worst with
    | some (cause, code, d) =>
      captureBad x.num entry [unit - unit % 4096] cause code d
        (if code = 0x0D then raise0 0x0504 2 (d + block % 2 ^ 40 * 2 ^ 8) s else s)
    | none => s
  if (blk? s b.id).isSome then emitSub b x entry block lane src out sat (b.bad != 0 || worst.isSome) s else s

/-- A check that failed: the block reruns on another lane; after four reruns it is bad data (R166, R186, R309). -/
def checkFailed (b : Blk) (lanes : List Nat) (last : State → State) (s : State) : State :=
  let s := each lanes (fun _ => upset 3) s
  if 4 ≤ b.tries then last s
  else onBlk b.id (fun b => { b with tries := b.tries + 1, lanes := b.lanes ++ lanes, lane := none, half := none }) s

/-- An encode invocation has ended on a lane (R185, R186). With RCP_VERIFY the first of the two copies waits for the second on
another lane; copies that differ are discarded. DEDUCED, log entry 98. -/
def encEnded (lane : Nat) (pass : Bool) (l : Lane) (b : Blk) (x : Epoch) (entry k : Nat) (s : State) : State :=
  let sub := subBlock s (entryAt x.list entry) b k
  let out := recipeBlock l
  let fin := fun w s => encDone b x entry sub.1 lane sub.2 out l.sat w (if l.trap = 7 then s else recipeTrap l s)
  if sh s 0x510 = 1 then
    match b.half with
    | none => onBlk b.id (fun b => { b with half := some (lane, l.sat, out), lane := none }) s
    | some h =>
      if pass ∧ h.2.2 = out then fin (anchorWorst b) (chargeLanes b s)
      else checkFailed b [h.1, lane] (fin (some (3, 0x0D, 2))) s
  else fin (anchorWorst b) s

/-- One indexed block of a source block is encoded. -/
def encStep (lane : Nat) (pass : Bool) (b : Blk) (e entry k : Nat) (s : State) : State :=
  match epoch? s e with
  | none => dropBlk b.id s
  | some x =>
    let en := entryAt x.list entry
    let sub := subBlock s en b k
    let base := b.anchor.map fun a => slice a.1 0 sub.2.length
    if eCodec en = 4 then
      let l := invoke s (eSel en) sub.2 base (eStream en) e sub.1 (eFormat en)
      if l.trap = 0 then
        { setLane lane { l with blk := some b.id } s with dbg.lanes := s.dbg.lanes ++ [lane] }
      else encEnded lane pass l b x entry k (setLane lane l s)
    else
      let o := builtinEnc en e sub.1 base sub.2
      let fin := fun w => encDone b x entry sub.1 lane sub.2 o.1 o.2 w
      if !pass then checkFailed b [lane] (fin (some (3, 0x0D, 2))) s else fin (anchorWorst b) (chargeLanes b s)

/-- A lane that was halted in an encode has ended (R188, R389). -/
def encResume (lane : Nat) (s : State) : State :=
  match Tab.get? s.str.lanes lane with
  | none => s
  | some l =>
    if l.trap = 0 then s else
    let s := setLane lane { l with blk := none } { s with dbg.lanes := s.dbg.lanes.filter (· != lane) }
    match l.blk.bind (blk? s) with
    | none => s
    | some b =>
      match b.kind with
      | .enc e entry k =>
        match epoch? s e with
        | none => dropBlk b.id s
        | some x => encEnded lane true l b x entry k s
      | _ => s

/-! ### Anchors (R177) -/

/-- A source block waits for the anchor of its next indexed block, or a unit for its own, which is not being read yet. -/
def wantsAnchor (s : State) (b : Blk) : Bool :=
  usesAnchor s b && blkWhole b && b.lane.isSome && b.anchor.isNone && !(s.str.blocks.any fun a => match a.kind with
    | .dec j => j.forBlk == some (b.id, b.next)
    | _ => false)

/-- A block or unit gets its anchor: the unit that reads it, in a block slot of its own, or beside a passant block in its
passant slot; one that cannot be read is damage, status code and DETAIL (R177, R189). -/
def getAnchor (b : Blk) (a : Job ⊕ (Nat × Nat)) (s : State) : State :=
  match a with
  | .inl j =>
    if b.passant then startUnit j b.lane true s
    else match freeLane s [] with
      | some l => startUnit j (some l) false s
      | none => s
  | .inr c => onBlk b.id (fun y => { y with
      anchor := some ((List.range 65536).map (Config.badByte s.time.free), c.1, c.2) }) (drawn s)

/-- Reads the anchor's encoded block of a source block. -/
def startAnchor (b : Blk) (s : State) : State :=
  match b.kind with
  | .enc e entry k =>
    match epoch? s e with
    | none => s
    | some x =>
      getAnchor b (anchorUnit s x entry (subBlock s (entryAt x.list entry) b k).1 b.ctx (b.id, b.next)) s
  | _ => s

def startAnchors (s : State) : State := each (s.str.blocks.filter (wantsAnchor s)) startAnchor s

/-- An anchor unit has been decoded, or is bad: code 0, or the status code and DETAIL. -/
def anchorDone (id : Nat) (d : Bytes) (code detail : Nat) (s : State) : State :=
  onBlk id (fun b => { b with anchor := some (d, code, detail) }) s

/-! ### Phases -/

/-- The background copy has passed every armed item (R130). -/
def walkOver (s : State) (x : Epoch) : Bool :=
  decide (x.phase = 2) && x.order.isEmpty && x.deferred.isEmpty && s.cap.filters.all (fun f => f.2.segs.isEmpty) &&
    !(s.str.blocks.any fun b => match b.kind with
      | .enc e i _ => e == x.num && eKind (entryAt x.list i) == 1 && b.tag.isNone && decide (b.passed < b.need)
      | .row e _ _ => e == x.num && decide (b.passed < b.need)
      | _ => false) &&
    !(s.cap.passants.any fun p => p.2.epoch == x.num && decide (0 < p.2.toAccept)) && s.cap.waiting.all fun o => o.done == 0

/-- The epoch leaves CAPTURING when its walk is over and every group has been written back (R19, R125, R130, R400). -/
def leaveCapturing (s : State) : State :=
  match capEpoch s with
  | none => s
  | some x =>
    if !walkOver s x then s
    else
      let s := if s.cap.flushing then s else writeBackAll { s with cap.flushing := true }
      if writingBack s none then s else progress x.num (setPhase x.num 3 (disarmFilters s))

/-- Streams that waited for a free block slot run (R148), in the order of their contexts. -/
def runCredit (s : State) : State :=
  each (s.str.ctxs.filter fun c => c.2.credit && c.2.state == 1) (fun c t =>
    onCtx c.1 (fun x => { x with state := creditState t x }) t) s

/-- HELD of every context (R138). -/
def syncHeld (s : State) : State :=
  { s with str.ctxs := s.str.ctxs.map fun c => (c.1, { c.2 with held := heldBy s c.1 }) }

/-- After anything about blocks and contexts has moved. -/
def settleSlots (s : State) : State := syncHeld (startAnchors (assignLanes (runCredit (dropStopped s))))

/-- After anything about the epoch in CAPTURING has moved. -/
def settle (s : State) : State :=
  let s := settleSlots s
  match capEpoch s with
  | none => s
  | some x => leaveCapturing (progress x.num (startStreams x.num s))

def execFilterReadPresent (n addr bytes ctx : Nat) (s : State) : Host.Outcome State Fault Refusal :=
  .next (when (up s) (fun s => settle (filterReadPresent n addr bytes ctx s)) s)

/-! ### Deadlines (R146) -/

/-- Bytes noted over the last 4,096 CORE cycles, as a rate of at least one byte per cycle. -/
def rate (now : Nat) (l : List (Nat × Nat)) : Nat :=
  max 1 (((l.filter fun f => decide (now < f.1 + 4096)).foldl (fun a f => a + f.2) 0) / 4096)

/-- Recomputes the deadlines of one stream. -/
def deadlines (s : State) (i : Nat) (c : Ctx) : Ctx :=
  if c.cls ≠ 4 ∨ c.state ≠ 2 ∨ c.credit then c else
  let occ := (s.str.blocks.filter fun b => b.ctx == i).foldl (fun a b => a + (blkBytes b).length) 0
  { c with
    deadline := (s.time.core + occ / rate s.time.core c.drains) % 2 ^ 32
    drainDl := (s.time.core + (2 ^ 21 - occ) / rate s.time.core c.fills) % 2 ^ 32 }

def deadlineRecompute (s : State) : State :=
  { s with str.ctxs := s.str.ctxs.map fun c => (c.1, deadlines s c.1 c.2) }

def execDeadlineRecompute (s : State) : Host.Outcome State Fault Refusal := .next (when (runs s) deadlineRecompute s)

end Sys2Proof.Machine
end

