-- ==== Sys2Proof/Machine/Launch.lean ====
section
/-! DEFINITION. EPOCH_OPEN: the number (R97, R98), PREP and its checks (R88, R92, R93, R108, R111, R115, R117, R123,
R139, R253, R265, R272, R276, R377), the copy order and its segments; the cut: HOLD_REQ, ARM, HARVEST, RELEASE (R108 to
R114, R133, R335, R336). -/

namespace Sys2Proof.Machine

/-! ### Numbers and own fields -/

def oPlan (b : Bytes) : Nat := fld b 8 2
def oIncr (b : Bytes) : Bool := bit (fld b 10 2) 0
def oFcAddr (b : Bytes) : Nat := fld b 24 8
def oFcCount (b : Bytes) : Nat := fld b 20 4

/-- The number that an EPOCH_OPEN would be assigned; none when EXPECT_EPOCH does not fit (R97, R98). -/
def openNumber (s : State) (b : Bytes) : Option Nat :=
  let n := fld b 12 4
  if bit (fld b 10 2) 1 then
    if s.ldg.highest < n ∧ !(Tab.vals s.cap.epochs).any unresolved then some n else none
  else if n = s.ldg.highest + 1 then some n else none

/-- The own fields of EPOCH_OPEN that offend, checked when it starts. -/
def openBad (c : Cmd) (s : State) : List (Nat × Bool) :=
  let b := c.item
  [(8, (current? s (oPlan b)).isNone),
   (10, decide (3 < fld b 10 2)),
   (12, (openNumber s b).isNone),
   (16, fld b 16 4 != 0 && !oIncr b),
   (20, decide (65536 < oFcCount b)),
   (24, ((oFcAddr b == 0) != (oFcCount b == 0)) || oFcAddr b % 32 != 0)]

/-- A pending commit holds a class E or S register (R376, R377). -/
def commitHolds (s : State) : Bool :=
  s.regs.shadow.castle.pend && s.regs.shadow.staged.any fun r => r.1 == 0x100 || (decide (0x120 ≤ r.1) && decide (r.1 < 0x160)) ||
    r.1 == 0x410 || r.1 == 0x414 || r.1 == 0x400

/-- A pending commit holds a class S register (R377). -/
def commitStream (s : State) : Bool := s.regs.shadow.castle.pend && (Tab.get? s.regs.shadow.staged 0x400).isSome

/-- PREP may begin: R115 for an incremental epoch, R377, R139. -/
def prepReady (c : Cmd) (s : State) : Bool :=
  c.epoch == 0 || (!commitHolds s && decide (256 ≤ ctxFree s) &&
    !(oIncr c.item && s.cap.epochs.any fun e => e.1 != c.epoch && unresolved e.2))

/-- The CONTEXT_WAIT of an EPOCH_OPEN that waits for its reservation only (R139). -/
def prepWait (c : Cmd) (s : State) : State :=
  if c.epoch != 0 && decide (ctxFree s < 256) then contextWait c.q c.seq s else s

/-! ### The copy order (R24, R117) -/

/-- Appends an item, joined with the last one when it goes on consecutively. -/
def pushItem (order : List CopyItem) (i : CopyItem) : List CopyItem :=
  match order.getLast? with
  | some l => if l.entry = i.entry ∧ l.first + l.count = i.first then
      order.dropLast ++ [{ l with count := l.count + i.count }] else order ++ [i]
  | none => [i]

/-- The copy order of items: each keeps what no earlier item has named. -/
def buildOrder (items : List CopyItem) : List CopyItem :=
  (items.foldl (fun acc i =>
    let seen := Tab.getD acc.2 i.entry []
    let ps := isetMinus i.first (i.first + i.count) seen
    (ps.foldl (fun o p => pushItem o ⟨i.entry, p.1, p.2 - p.1⟩) acc.1,
      Tab.put acc.2 i.entry (Iset.add seen i.first (i.first + i.count)))) ([], [])).1

def entryItems (en : Bytes) : Nat := if eKind en = 2 then eSize en else eSize en / 65536

/-- The items of the plan in plan order. -/
def planItems (l : Bytes) : List CopyItem :=
  ((liveEntries l).filter fun e => eKind e.2 != 3).map fun e => ⟨e.1, 0, entryItems e.2⟩

/-! ### The forecast (R117) -/

def fcRec (l : Bytes) (i : Nat) : Bytes := slice l (32 * i) 32

/-- The rows of a row list: 8 B indices (R153). -/
def listRows (b : Bytes) (n : Nat) : List Nat := (List.range n).map fun i => fld b (8 * i) 8

/-- Offending fields of a forecast record. That TDID of a KIND 0 or 1 record must be 0 is the model's choice (DESIGN CHOICE, log
entry 154). -/
def fcBad (l : Bytes) (rows : HostRead) (r : Bytes) : List Nat :=
  let entry := fld r 0 4
  let en := entryAt l entry
  let kind := fld r 4 1
  let absent := entryCount l ≤ entry || (eKind en != 1 && eKind en != 2)
  let first := fld r 8 8
  let count := fld r 16 8
  let n := entryItems en
  gaps r [(0, 5), (8, 18)] ++ offsets [
    (0, absent),
    (4, decide (2 < kind) || (!absent && (kind == 0) != (eKind en == 1))),
    (8, if kind = 2 then first % 8 != 0 || rows.isNone || (listRows (rows.getD []) count).any (fun x => decide (n ≤ x))
      else !absent && decide (n ≤ first)),
    (16, if kind = 2 then count == 0 || decide (2 ^ 24 < count) else !absent && decide (n < first + count)),
    (24, kind != 2 && fld r 24 2 != 0)]

/-- The forecast, in the domain of the command's queue, and the row lists that its records name are read (R75, R117). -/
def readForecast (q : Nat) (b : Bytes) (fc : HostRead) (s : State) : State :=
  if oFcAddr b = 0 then s else
  let td := ((queue? s q).map fun x => qTdid x.desc).getD 0
  let s := readCtl (oFcAddr b) td (32 * oFcCount b) 1 s
  let recs := (List.range (oFcCount b)).map (fcRec (fc.getD []))
  each (recs.filter fun r => fld r 4 1 == 2) (fun r => readCtl (fld r 8 8) (fld r 24 2) (8 * fld r 16 8) 1) s

/-- The first record that offends, with its field. -/
def forecastBad (l fc : Bytes) (count : Nat) (rows : Tab HostRead) : Option (Nat × Nat) :=
  (List.range count).findSome? fun i => (lowest (fcBad l ((Tab.get? rows i).join) (fcRec fc i))).map fun o => (i, o)

/-- The items that a forecast names. -/
def forecastItems (fc : Bytes) (count : Nat) (rows : Tab HostRead) : List CopyItem :=
  (List.range count).flatMap fun i =>
    let r := fcRec fc i
    if fld r 4 1 = 2 then
      ((listRows (((Tab.get? rows i).join).getD []) (fld r 16 8)).mergeSort fun a b => decide (a ≤ b)).map fun x =>
        ⟨fld r 0 4, x, 1⟩
    else [⟨fld r 0 4, fld r 8 8, fld r 16 8⟩]

/-! ### Segments (R117) -/

/-- The segments of filter `n` for a copy order. -/
def segsOf (s : State) (l : Bytes) (order : List CopyItem) (n : Nat) : List Seg :=
  let w0 := winFirst s n
  let w1 := w0 + winLen s n
  let plates := order.filterMap fun i =>
    let en := entryAt l i.entry
    let lo := max w0 (plateOf s (eAddr en) + i.first)
    let hi := min w1 (plateOf s (eAddr en) + i.first + i.count)
    if eKind en = 1 ∧ lo < hi then some { entry := i.entry, lo, hi, cursor := lo } else none
  let rows := (liveEntries l).filterMap fun e =>
    let lo := max (plateBase s + 65536 * w0) (eAddr e.2)
    let hi := min (plateBase s + 65536 * w1) (eAddr e.2 + eBytes e.2)
    if eKind e.2 = 2 ∧ lo < hi then some { entry := e.1, lo, hi, cursor := lo, rows := true } else none
  plates ++ rows

def tooManySegs (s : State) (l : Bytes) (order : List CopyItem) : Bool :=
  (inService s 8).any fun n => decide (4096 < (segsOf s l order n).length)

/-! ### Checks of PREP -/

def lastSealed (s : State) (plan : Nat) : Option Epoch :=
  ((Tab.vals s.cap.epochs).filter fun e => e.plan == plan && e.phase == 5).getLast?

/-- An epoch and its bases back to the anchor. -/
def baseChain (fuel : Nat) (s : State) (num : Nat) : List Nat :=
  match fuel with
  | 0 => []
  | k + 1 => if num = 0 then [] else
    num :: match epoch? s num with
      | some e => baseChain k s e.base
      | none => []

/-- An epoch is live (R276). -/
def liveEpoch (s : State) (x e : Epoch) : Bool :=
  unresolved e || e.num == x.base ||
    (e.phase == 5 && (lastSealed s x.plan).any fun m => (baseChain 4096 s m.num).contains e.num)

/-- The area of the new epoch still holds a live epoch (R276). A launch that PREP refused has a number in the area and no sectors: the
epochs before it count (DEDUCED, log entry 156). -/
def areaLive (s : State) (x : Epoch) (v : Vault) (a : Layout) : Bool :=
  let n := areas v a
  (((Tab.vals s.cap.epochs).filter fun e => e.num != x.num && e.plan == x.plan && hVault e.list == hVault x.list &&
    decide (1 ≤ e.num) && (e.num - 1) % n == (x.num - 1) % n)).any (liveEpoch s x)

/-- Chains that HARVEST entries name. -/
def chainsOf (l : Bytes) : List Nat := ((liveEntries l).filter fun e => eKind e.2 == 3).map fun e => eSel e.2

def hvLen (s : State) (c : Nat) : Nat := Tab.getD s.pins.hvLen c 0

/-- The extents of every unfreed plan that a tracking region must not touch. -/
def allExtents (s : State) (l : Bytes) : List (Nat × Nat) :=
  ((l :: (unfreed s).map (·.bytes)).flatMap fun b => (liveEntries b).filter fun e => eKind e.2 != 3).map fun e => extentOf e.2

/-- The tracking regions of other entries. -/
def otherTracks (s : State) (plan : Nat) (l : Bytes) (i : Nat) : List (Nat × Nat) :=
  let of_ := fun (e : Nat × Bytes) => (eTrack e.2, trackBytes e.2)
  (((liveEntries l).filter fun e => eKind e.2 == 2 && e.1 != i).map of_) ++
    ((unfreed s).filter fun g => g.plan != plan).flatMap fun g => ((liveEntries g.bytes).filter fun e => eKind e.2 == 2).map of_

/-- A tracking-region header that is neither all zeros nor what Sarlar wrote for this entry (R123). DEDUCED, log
entry 96. -/
def headerMismatch (plan i : Nat) (e h : Bytes) : Bool :=
  !h.all (· == 0) && !(fld h 0 2 == plan && fld h 2 2 == i && fld h 8 8 == eSize e && fld h 16 2 == eRow e &&
    decide (fld h 18 2 < 8) && bit (fld h 18 2) 0 == eCheck e && fld h 20 4 == 0 &&
    fld h 24 8 == roundUp (4096 + 128 * cdiv (eSize e) 128) 4096 && (h.drop 32).all (· == 0))

/-- A tracking region refused at a launch (R123). -/
def trackBad (s : State) (plan : Nat) (l : Bytes) (i : Nat) (e : Bytes) (h : Option Bytes) : Bool :=
  let t := eTrack e
  let n := trackBytes e
  h.isNone || headerMismatch plan i e (slice (h.getD []) 0 4096) || t % 4096 != 0 || (windowOf s t n).isNone ||
    (allExtents s l).any (fun x => overlap t n x.1 x.2) || (otherTracks s plan l i).any fun x => overlap t n x.1 x.2

/-- The first entry refused in PREP, with its field (R111, R123). -/
def prepEntryBad (s : State) (plan : Nat) (l : Bytes) (headers : Tab Bytes) : Option (Nat × Nat) :=
  (liveEntries l).findSome? fun e =>
    if eKind e.2 = 3 then (if eSize e.2 = 32 * hvLen s (eSel e.2) then none else some (e.1, 16))
    else if eKind e.2 = 2 then (if trackBad s plan l e.1 e.2 (Tab.get? headers e.1) then some (e.1, 40) else none)
    else none

/-- KEY_ABSENT DETAIL of the keys that a plan header names (R96, R206). -/
def planKeysBad (s : State) (l : Bytes) : Option Nat := slotsBad s (hDataKey l) (hHmac l)

/-- A replica group that a launch cannot serve: records missing (R253), escrow too small or misplaced (R265). -/
def groupBad (s : State) (l : Bytes) : Bool :=
  let r := hReplicas l
  decide (1 < r) && (
    !((topoBy s 0 0).any fun x => tRepl x == hIx l) ||
    !((List.range r).all fun i => i == hIx l || (replicaDev s i).isSome) ||
    decide (escrowSlots s < 256) ||
    (liveEntries l).any fun e => eKind e.2 != 3 &&
      (overlap (sh s 0x410 * 65536) (4096 * escrowSlots s) (eAddr e.2) (eBytes e.2) ||
        (eKind e.2 == 2 && overlap (sh s 0x410 * 65536) (4096 * escrowSlots s) (eTrack e.2) (trackBytes e.2))))

/-- The vault of a launch cannot be reached: it waits for its peer or no link leads to it (R78, R258). -/
def vaultDown (s : State) (v : Vault) : Bool :=
  match vPeer s v with
    | none => vWhere v != 0
    | some d => !routeUp s d

/-! ### The base of an incremental epoch (R93, R177) -/

/-- What the base and anchor of an epoch give: entries captured in full, entries with delta, whether a header failed. -/
structure BaseInfo where
  full : List Nat
  delta : List Nat
  reject : Bool
  deriving DecidableEq, Repr

/-- An ingot header describes the same shape as an entry. -/
def sameShape (h e : Bytes) : Bool :=
  ihKind h == eKind e && ihCodec h == eCodec e && ihFormat h == eFormat e && ihSize h == eSize e && ihRow h == eRow e

/-- The seal record of an epoch of this device, read from the vault of the epoch that holds it. -/
def sealOf (s : State) (sectors : Tab Bytes) (e : Epoch) : SealRead :=
  match vault? s (hVault e.list) with
  | none => .stale 0
  | some v => readSeal s sectors v.area (tailBase v (vaultLay s v e.list) e.num (hIx e.list)) e.num

def baseInfo (s : State) (x base : Epoch) (sectors : Tab Bytes) : BaseInfo :=
  let es := (liveEntries x.list).filter fun e => eKind e.2 != 3
  match sealOf s sectors base with
  | .ok r =>
    let h := fun (e : Bytes) => (ingotRec r (eStream e)).map fun ir => readIngot s sectors r ir
    let full := es.filter fun e => match h e.2 with
      | some (some b) => !sameShape b e.2
      | _ => true
    let reject := es.any fun e => h e.2 == some none
    let anc := (epoch? s x.anchor).bind fun a => match sealOf s sectors a with
      | .ok q => some (a, q)
      | _ => none
    let delta := es.filter fun e => eDelta e.2 && !full.any (·.1 == e.1) && anc.any fun a =>
      hVault a.1.list == hVault x.list && ((ingotRec a.2 (eStream e.2)).bind fun ir => readIngot s sectors a.2 ir).any fun b =>
        sameShape b e.2
    { full := full.map (·.1), delta := delta.map (·.1), reject }
  | _ => { full := es.map (·.1), delta := [], reject := true }

/-! ### PREP -/

/-- A launch that fails in PREP: its epoch is CANCELLED with its number spent, nothing is armed (R108). -/
def prepFail (e q seq status detail : Nat) (s : State) : State := finish q seq status detail (endEpoch e 7 (0x01, 0) s)

/-- A refused forecast record (R117). -/
def forecastReject (e q seq ix off : Nat) (s : State) : State :=
  prepFail e q seq 0x03 (128 + off) (raise0 0x0305 1 (ix % 2 ^ 16 + off * 2 ^ 16) s)

/-- Bank preparation (R114): the other bank is ORed into the collecting bank unless its epoch is sealed, then cleared. -/
def prepareBanks (s : State) : State :=
  let sealed := s.cap.capOf == 0 || (epoch? s s.cap.capOf).any fun e => e.phase == 5
  let c := if sealed then collBank s else Iset.union (collBank s) (capBank s)
  { s with
    cap.bank0 := if s.cap.coll then [] else c
    cap.bank1 := if s.cap.coll then c else []
    cap.capOf := 0 }

/-! ### The dirty-plate banks are read (R310, R320, R321) -/

/-- The plates of a bank word that armed segments have not passed yet. -/
def wordPending (s : State) (list : Bytes) (lo : Nat) : List CopyItem :=
  (Tab.vals s.cap.filters).flatMap fun f => f.segs.filterMap fun g =>
    let a := max (max g.lo g.cursor) lo
    let b := min g.hi (lo + 64)
    if !g.rows && decide (a < b) then some ⟨g.entry, a - plateOf s (eAddr (entryAt list g.entry)), b - a⟩ else none

/-- Items of the epoch under way whose content is no longer known are captured POISONED, and its SEAL ends so (R321). -/
def poisonItems (e : Nat) (l : List CopyItem) (s : State) : State :=
  if l.isEmpty then s else poisonEpoch e (onEpoch e (fun x => { x with lost := x.lost ++ l }) s)

/-- The filter whose slice of the banks holds a plate is retired at its first uncorrectable error (R310). -/
def retireSlice (p : Nat) (s : State) : State :=
  match (List.range 8).find? fun n => decide (winFirst s n ≤ p) && decide (p < winFirst s n + winLen s n) with
  | some n => retire 8 n 2 s
  | none => s

/-- A bank word becomes all ones; in the collecting bank during CAPTURING the armed plates not yet passed are
POISONED. DEDUCED, log entry 103. -/
def bankWordLost (collecting : Bool) (p : Nat) (s : State) : State :=
  let lo := 64 * (p / 64)
  let s :=
    if collecting = s.cap.coll then { s with cap.bank1 := Iset.add s.cap.bank1 lo (lo + 64) }
    else { s with cap.bank0 := Iset.add s.cap.bank0 lo (lo + 64) }
  let s := match capEpoch s with
    | some e => if collecting ∧ e.phase = 2 then poisonItems e.num (wordPending s e.list lo) s else s
    | none => s
  retireSlice p s

/-- Both banks are read: the second one's lanes follow the first one's (R320). -/
def scanBanks (s : State) : State :=
  readLanes 5 (fun _ => true) (fun lane t => bankWordLost (t.cap.coll == decide (131072 ≤ lane)) (64 * (lane % 131072)) t) s

/-- The order and the state of PREP once every check has passed. -/
def prepGo (x : Epoch) (order : List CopyItem) (rd : LaunchReads) (v : Vault) (a : Layout) (s : State) : State :=
  let e := x.num
  let s := match (if x.incr then epoch? s x.base else none) with
    | some b =>
      let i := baseInfo s x b rd.sectors
      let s := if i.reject then sealReject b.num 1 s else s
      onEpoch e (fun y => { y with
        full := i.full, delta := i.delta, anchors := i.delta.map fun n => (n, rd.sectors) }) s
    | none => s
  let s := onEpoch e (fun y => { y with
    order, deferred := ((liveEntries x.list).filter fun n => eDeferred n.2).map (·.1) }) s
  let s := if v.area.isSome then s else
    mark 1 (hVault x.list) x.q x.seq { s with
      adm.vaults := Tab.upd s.adm.vaults (hVault x.list) fun w => { w with area := some a.area, tail := a.tail } }
  -- regions known from the headers of tables that this boot has not met
  let s := each ((liveEntries x.list).filter fun n => eKind n.2 == 2) (fun n t =>
    let h := slice ((Tab.get? rd.headers n.1).getD []) 0 4096
    -- zeros before the first cut: check values that a CHECKVALUE has stored stay (R226)
    let kept := (region? t (eTrack n.2)).any fun r => r.lastCut == 0 && r.plan == x.plan && r.entry == n.1
    if h.all (· == 0) then (if kept then t else { t with cap.regions := Tab.del t.cap.regions (eTrack n.2) })
    else if (region? t (eTrack n.2)).isSome then t
    else { t with cap.regions := Tab.put t.cap.regions (eTrack n.2) {
      plan := x.plan, entry := n.1, lastCut := fld h 4 4, rows := eSize n.2, rowSize := eRow n.2, cv := eCheck n.2
      cached := bit (fld h 18 2) 1, resync := bit (fld h 18 2) 2 } }) s
  let s := prepareBanks (scanBanks s)
  { s with cap.cut := { st := .prep, epoch := e, chains := (chainsOf x.list).foldl (fun t c => Tab.put t c {}) [] } }

/-- The checks of PREP in the order of their scope: the base, the list, keys, group and vault, entries, forecast.
DEDUCED, log entry 97. -/
def prep (x : Epoch) (g : Gen) (rd : LaunchReads) (b : Bytes) (s : State) : State :=
  let e := x.num
  let q := x.q
  let seq := x.seq
  let fail := fun st d => prepFail e q seq st d s
  if x.incr ∧ !((lastSealed s x.plan).any fun m => m.num == x.base) then fail 0x03 16
  else
    let s := readCtl g.list g.tdid (64 * g.count) 1 s
    let fail := fun st d => prepFail e q seq st d s
    match rd.list with
    | none => fail 0x03 0xFE
    | some l =>
      if crcN (slice l 0 x.list.length) ≠ g.crc then fail 0x03 0xFE
      else if groupBad s x.list then fail 0x03 0xFD
      else
        match planKeysBad s x.list, vault? s (hVault x.list) with
        | some d, _ => fail 0x0E d
        | _, none => fail 0x03 8
        | none, some v =>
          let a := vaultLay s v x.list
          if vaultDown s v then fail 0x0F 1
          else if areaLive s x v a then fail 0x03 0xFC
          else
            match prepEntryBad s x.plan x.list rd.headers with
            | some (i, o) => prepFail e q seq 0x03 (128 + o) (planReject x.plan i o s)
            | none =>
              if tooManySegs s x.list (buildOrder (planItems x.list)) then fail 0x03 8
              else if oFcAddr b = 0 then prepGo x (buildOrder (planItems x.list)) rd v a s
              else
                let s := readForecast q b rd.forecast s
                let fail := fun st d => prepFail e q seq st d s
                match rd.forecast with
                | none => fail 0x03 24
                | some fc =>
                  match forecastBad x.list fc (oFcCount b) rd.rowLists with
                  | some (i, o) => forecastReject e q seq i o s
                  | none =>
                    let order := buildOrder (forecastItems fc (oFcCount b) rd.rowLists ++ planItems x.list)
                    if tooManySegs s x.list order then fail 0x03 20 else prepGo x order rd v a s

/-- EPOCH_OPEN: the epoch enters CUT and runs PREP (R72, R108). -/
def openEpoch (rd : LaunchReads) (c : Cmd) (s : State) : State :=
  let b := c.item
  let plan := oPlan b
  match gen? s plan c.gen with
  | none => malformed c.q c.seq 8 s
  | some g =>
    let base := if oIncr b then fld b 16 4 else 0
    let anchor := if base = 0 then 0 else ((epoch? s base).map fun e => if e.anchor = 0 then e.num else e.anchor).getD 0
    let x : Epoch := { num := c.epoch, plan, gen := g.num, list := g.bytes, phase := 1, base, anchor, incr := oIncr b
                       q := c.q, seq := c.seq }
    prep x g rd b (setPhase c.epoch 1 { s with cap.epochs := Tab.put s.cap.epochs c.epoch x })

/-- EPOCH_OPEN whose fields were refused at its start (R97, R98) ends there; one that has to wait for PREP stays
STARTED. DESIGN CHOICE, log entry 3. -/
def execEpochOpen (q seq : Nat) (rd : LaunchReads) (s : State) : Host.Outcome State Fault Refusal :=
  .next (match due 0x40 q seq s with
    | none => s
    | some c =>
      if prepReady c s then
        runCmd 0x40 q seq (fun c _ => if c.epoch = 0 then [(c.badDetail - 1, true)] else []) (openEpoch rd) s
      else prepWait c s)

/-! ### RELEASE (R108) -/

/-- Stages the beats of a chain as source blocks of its HARVEST entry (R111, R112). -/
def stageChain (x : Epoch) (c : Nat) (ch : Chain) (s : State) : State :=
  match (liveEntries x.list).find? fun e => eKind e.2 == 3 && eSel e.2 == c with
  | none => s
  | some en =>
    let d := ch.beats.flatten
    let ctx := (ctxFor s x.num en.1).getD 131072
    let s := if ch.bad then captureBad x.num en.1 [c] 0 0x0B 0 s else s
    each (List.range (cdiv d.length 65536)) (fun k t =>
      let b := slice d (65536 * k) (min 65536 (d.length - 65536 * k))
      newBlk { id := 0, ctx, kind := .enc x.num en.1 k, need := b.length, parts := [(0, b)], issued := b.length
               passed := b.length, bad := if ch.bad then 1 else 0 } false t) s

/-- Every item of the stop-copied windows has been read and consumed by Crucible (R133, R135): an extent that needs rows of
other windows is consumed after RELEASE. DEDUCED, log entry 102. -/
def stopCopied (s : State) (x : Epoch) : Bool :=
  !(x.order.any fun i => decide (0 < i.count) && !(splitWindows s x s.cap.cut.stopCopy i).1.isEmpty) &&
    (s.str.blocks.all fun b => match b.kind with
      | .enc e entry k =>
        let en := entryAt x.list entry
        e != x.num || eKind en == 3 || !(if eKind en = 2 then blkWhole b else inStop s en k)
      | .row e entry row => e != x.num || !inStop s (entryAt x.list entry) row
      | .dec _ | .raw _ | .cvRow _ => true) &&
    s.cap.passants.all fun p => p.2.epoch != x.num || p.2.toAccept == 0 || !s.cap.cut.stopCopy.contains p.2.filter

/-- STOP_COPY of every filter whose window was copied under HOLD (R136). -/
def stopCopyEvents (c : Cut) (s : State) : State :=
  each c.stopCopy (fun n => raise0 0x0307 1 (n + Tab.getD c.copied n 0 / 4096 * 2 ^ 8)) s

/-- RELEASE: hold_req falls, the epoch enters CAPTURING, EPOCH_OPEN reaches DURABLE; a CANCEL that waited takes
effect. DEDUCED, log entry 101. -/
def release (x : Epoch) (s : State) : State :=
  let cut := s.cap.cut
  let s := stopCopyEvents cut { s with cap.cut := {} }
  let s := each cut.chains (fun c => stageChain x c.1 c.2) s
  match epoch? s x.num with
  | none => s
  | some y =>
    if y.phase ≠ 1 then s else
    let s := finish x.q x.seq 0 0 (setPhase x.num 2 s)
    if cut.cancel then cancelEpoch x.num s else settle (advance s)

/-- HARVEST is over when every chain has delivered and the stop-copy is consumed (R108, R133). -/
def tryRelease (s : State) : State :=
  if s.cap.cut.st = .harvest ∧ s.cap.cut.owner.isNone then
    match epoch? s s.cap.cut.epoch with
    | none => s
    | some x => if s.cap.cut.chains.all (fun c => c.2.done) && (s.cap.cut.stopCopy.isEmpty || stopCopied s x) then release x s else s
  else s

/-- After anything has moved: streams, phases and a hold that waits for its reads. -/
def settleAll (s : State) : State := tryRelease (settle s)

/-! ### ARM (R108, R114, R133, R400) -/

/-- The parts of an item that the epoch must capture now: plates whose K bit is set, whole entries, and every plate of a
retired filter's window (R29, R93, R119, R133). -/
def armItem (s : State) (x : Epoch) (i : CopyItem) : List CopyItem :=
  let en := entryAt x.list i.entry
  if eKind en ≠ 1 ∨ wholeEntry x i.entry then [i]
  else
    let p0 := plateOf s (eAddr en)
    let lo := p0 + i.first
    let hi := lo + i.count
    let dead := ((List.range 8).filter (retired s 8)).foldl (fun a n =>
      if winLen s n = 0 then a else Iset.add a (winFirst s n) (winFirst s n + winLen s n)) (capBank s)
    (isetInter lo hi dead).map fun r => ⟨i.entry, r.1 - p0, r.2 - r.1⟩

/-- ARM: banks swap, tables are cut, filters arm, chains are pulled. -/
def arm (x : Epoch) (s : State) : State :=
  let e := x.num
  let s := { s with cap.coll := !s.cap.coll, cap.capOf := e }
  let tabs := (liveEntries x.list).filter fun n => eKind n.2 == 2
  let s := each tabs (fun n => cutRegion x.plan n.1 e n.2) s
  -- a table in the window of a retired filter (R133)
  let s := each ((List.range 8).filter (retired s 8)) (fun n t => each (tablesIn t n) (fun e => setResync (eTrack e.2)) t) s
  let res := (tabs.filter fun n => (region? s (eTrack n.2)).any (·.resync)).map (·.1)
  let s := onEpoch e (fun y => { y with
    full := y.full ++ res.filter (fun i => !y.full.contains i), resync := res
    delta := y.delta.filter fun i => !res.contains i
    ingots := (liveEntries x.list).map fun n => (n.1, { entry := n.1, stream := eStream n.2, delta := y.delta.contains n.1 && !res.contains n.1 }) }) s
  match epoch? s e with
  | none => s
  | some x =>
    let filters := (inService s 8).filterMap fun n =>
      let g := segsOf s x.list x.order n
      if g.isEmpty then none else some (n, { segs := g })
    let live := x.order.flatMap (armItem s x)
    let parts := live.map (splitWindows s x ((List.range 8).filter (retired s 8)))
    let stop := parts.flatMap (·.1)
    let order := stop ++ parts.flatMap (·.2)
    let dead := (List.range 8).filter fun n => retired s 8 n && stop.any fun i => !(splitWindows s x [n] i).1.isEmpty
    let s := setOrder e order { s with
      cap.filters := filters
      cap.cut := { s.cap.cut with
        st := .harvest, stopCopy := dead
        chains := s.cap.cut.chains.map fun c => (c.1, { c.2 with pulls := 1 }) }
      out.pulls := s.out.pulls ++ s.cap.cut.chains.map (·.1) }
    let s := each ((liveEntries x.list).filter fun n => eKind n.2 == 3) (fun n t =>
      if ctxRoom t e then (newCtx (sourceCtx t x x.q x.seq n.1 5) t).2 else t) s
    settleAll (startStreams e s)

/-- PREP_DONE: HOLD_REQ on every named chain, or ARM at once when none is named (R108). -/
def prepDone (s : State) : State :=
  if s.cap.cut.st ≠ .prep then s else
  match epoch? s s.cap.cut.epoch with
  | none => s
  | some x => if s.cap.cut.chains.isEmpty then arm x s else { s with cap.cut.st := .holdReq }

/-- A HALT between HOLD_REQ and RELEASE takes effect only after RELEASE (R388). -/
def execPrepDone (s : State) : Host.Outcome State Fault Refusal := .next (when (runs s) prepDone s)

/-! ### HARVEST (R112, R336) -/

def onChain (c : Nat) (f : Chain → Chain) (s : State) : State :=
  { s with cap.cut.chains := Tab.upd s.cap.cut.chains c f }

/-- The last beat carries the CRC-32C of the earlier beats (R336). -/
def chainOk (beats : List Bytes) : Bool :=
  match beats.getLast? with
  | none => false
  | some l => crcN beats.dropLast.flatten == fld l 0 4

/-- A chain has failed its check: pulled again, or kept and marked POISONED (R112). -/
def chainFailed (c : Nat) (ch : Chain) (s : State) : State :=
  if ch.pulls < 2 then
    raise0 0x0302 1 c (onChain c (fun x => { x with beats := [], pulls := 2, done := false })
      { s with out.pulls := s.out.pulls ++ [c] })
  else raise0 0x0302 1 (c + 2 ^ 8) (onChain c (fun x => { x with done := true, bad := true }) s)

def harvestBeat (c : Nat) (beat : Bytes) (s : State) : State :=
  if s.cap.cut.st ≠ .harvest then s else
  match Tab.get? s.cap.cut.chains c with
  | none => s
  | some ch =>
    if ch.done then (if ch.bad then s else chainFailed c ch s)
    else
      let beats := ch.beats ++ [slice beat 0 32]
      let s := lanesWrite 0 (4 * c) 4 (onChain c (fun x => { x with beats }) s)
      if beats.length < hvLen s c then s
      else if chainOk beats then tryRelease (onChain c (fun x => { x with done := true }) s)
      else tryRelease (chainFailed c { ch with beats } s)

def execHarvestBeat (c : Nat) (beat : Bytes) (s : State) : Host.Outcome State Fault Refusal :=
  .next (when (up s) (harvestBeat c beat) s)

/-- CUT_SLOW (R110, R337): a chain has passed its D_c without its acknowledgement, or does not answer a push. -/
def cutSlow (c : Nat) (s : State) : State :=
  let open_ := fun (ch : Chain) => if s.cap.cut.st = .push then !ch.done else !ch.ack
  if s.cap.cut.st ≠ .holdReq ∧ s.cap.cut.st ≠ .push then s else
  match Tab.get? s.cap.cut.chains c with
  | none => s
  | some ch =>
    if ch.slow || !open_ ch then s else
    let s := onChain c (fun x => { x with slow := true }) s
    raise0 0x0301 1 (maskOf 64 fun i => (Tab.get? s.cap.cut.chains i).any fun x => x.slow && open_ x) s

def execCutSlow (c : Nat) (s : State) : Host.Outcome State Fault Refusal := .next (when (up s) (cutSlow c) s)

end Sys2Proof.Machine
end

