-- ==== Sys2Proof/Machine/Captures.lean ====
section
/-! DEFINITION. CAPTURE and ROW_CAPTURE (R97, R99, R153, R154), SEAL and the write of the seal record (R32, R157, R201 to
R203, R266 to R268, R281, R282). -/

namespace Sys2Proof.Machine

/-! ### CAPTURE and ROW_CAPTURE -/

/-- The epoch that a command's EPOCH field at offset 8 names. -/
def namedEpoch (c : Cmd) (s : State) : Option Epoch := epoch? s (fld c.item 8 4)

/-- The entry at offset 12 when the named epoch's list has it. -/
def namedEntry (c : Cmd) (s : State) : Bytes :=
  match namedEpoch c s with
  | none => zeros 64
  | some x => if fld c.item 12 4 < entryCount x.list then entryAt x.list (fld c.item 12 4) else zeros 64

/-- The phase of the named epoch is one of those given (R99). -/
def phaseIn (c : Cmd) (s : State) (l : List Nat) : Bool := (namedEpoch c s).any fun x => l.contains x.phase

/-- The items of an entry that a range takes out of a copy order, and the order without them. -/
def takeRange (entry : Nat) (r : Nat × Nat) (order : List CopyItem) : List CopyItem × List CopyItem :=
  let rs : Iset := [(r.1, r.1 + r.2)]
  let mine := fun (i : CopyItem) (ps : List (Nat × Nat)) => ps.map fun p => (⟨i.entry, p.1, p.2 - p.1⟩ : CopyItem)
  (order.flatMap fun i => if i.entry = entry then mine i (isetInter i.first (i.first + i.count) rs) else [],
    order.flatMap fun i => if i.entry = entry then mine i (isetMinus i.first (i.first + i.count) rs) else [i])

/-- The items that ranges of an entry name come first in the copy order, in the order in which they are named (R99, R153). -/
def frontOrder (entry : Nat) (rs : List (Nat × Nat)) (order : List CopyItem) : List CopyItem :=
  let a := rs.foldl (fun (a : List CopyItem × List CopyItem) r =>
    let p := takeRange entry r a.2
    (a.1 ++ p.1, p.2)) ([], order)
  a.1 ++ a.2

/-- An epoch finds `n` contexts for its streams (R139). -/
def ctxRooms (s : State) (e n : Nat) : Bool :=
  decide (n ≤ ctxFree s + ((epoch? s e).map fun x => x.reserved - ctxsOfEpoch s e).getD 0)

/-- The command's items are named: a DEFERRED entry is released, another one moves its range to the front (R25, R99).
DEDUCED, log entry 99. -/
def captureItems (items : List (Nat × Nat)) (c : Cmd) (s : State) : State :=
  let e := fld c.item 8 4
  let entry := fld c.item 12 4
  let s := onCmd c.q c.seq (fun y => { y with items }) s
  onEpoch e (fun y =>
    if y.deferred.contains entry then { y with deferred := y.deferred.filter (· != entry) }
    else { y with order := frontOrder entry items y.order }) s

/-- A CAPTURE or ROW_CAPTURE starts the stream that reads its items (R137). -/
def captureStream (kind : Nat) (items : List (Nat × Nat)) (c : Cmd) (s : State) : State :=
  match namedEpoch c s with
  | none => s
  | some x => settleAll (newCtx (sourceCtx s x c.q c.seq (fld c.item 12 4) kind) (captureItems items c s)).2

/-- Runs a CAPTURE or ROW_CAPTURE: of an epoch that was abandoned after the command's acceptance it ends so (R99); without a free
context it waits (R139). -/
def runCapture (op n q seq : Nat) (own : Cmd → State → List (Nat × Bool)) (f : Cmd → State → State) (s : State) : State :=
  match due op q seq s with
  | none => s
  | some c =>
    let e := fld c.item 8 4
    if (bodyBad c.item (own c s)).isNone && phaseIn c s [2] && !ctxRooms s e n then contextWait q seq s
    else runCmd op q seq own (fun c s =>
      match c.instead with
      | some r => finish q seq r.1 r.2 s
      | none => f c s) s

/-- The phase that CAPTURE and ROW_CAPTURE require (R99). -/
def mayCapture (c : Cmd) (s : State) : Bool := phaseIn c s [2] || (c.instead.isSome && phaseIn c s [6])

def captureBadFields (c : Cmd) (s : State) : List (Nat × Bool) :=
  let b := c.item
  let en := namedEntry c s
  let known := mayCapture c s
  [(8, !known),
   (12, known && eKind en != 1),
   (16, fld b 16 8 % 65536 != 0 || (known && eKind en == 1 && decide (eSize en ≤ fld b 16 8))),
   (24, fld b 24 8 % 65536 != 0 || (known && eKind en == 1 && decide (eSize en < fld b 16 8 + fld b 24 8)))]

/-- CAPTURE (R72, R97, R99). -/
def execCapture (q seq : Nat) (s : State) : Host.Outcome State Fault Refusal :=
  .next (runCapture 0x41 1 q seq captureBadFields (fun c s =>
    let b := c.item
    let first := fld b 16 8 / 65536
    let n := if fld b 24 8 = 0 then eSize (namedEntry c s) / 65536 - first else fld b 24 8 / 65536
    captureStream 0 [(first, n)] c s) s)

def isTwo (c : Cmd) : Bool := itemSlots c.item == 2

def rowCaptureBad (c : Cmd) (s : State) : List (Nat × Bool) :=
  let b := c.item
  let en := namedEntry c s
  let known := mayCapture c s
  [(8, !known), (12, known && eKind en != 2)] ++
  if isTwo c then
    [(16, fld b 16 8 != 0), (24, fld b 24 8 != 0), (72, fld b 72 8 % 8 != 0),
     (80, fld b 80 4 == 0 || decide (65536 < fld b 80 4))]
  else
    [(16, known && eKind en == 2 && decide (eSize en ≤ fld b 16 8)),
     (24, fld b 24 8 == 0 || (known && eKind en == 2 && decide (eSize en < fld b 16 8 + fld b 24 8)))]

/-! ### Index streams (R153) -/

/-- The address of the index list of a ROW_CAPTURE or GATHER_RESTORE. -/
def listAddr (b : Bytes) : Nat := if itemOp b = 0x42 then fld b 72 8 else fld b 40 8

/-- One descriptor of an index stream: at most two pages of 512 indices outstanding or not yet taken, read in class 1 (R15,
R153). -/
def indexStep (ctx : Nat) (c : Ctx) (s : State) : State :=
  let out := (s.out.hb.filter fun r => match r.kind with
    | .ixPage k _ => k == ctx
    | _ => false).length + c.asm.length
  if c.remain = 0 ∨ 2 ≤ out then s else
  match cmd? s c.q c.seq with
  | none => s
  | some m =>
    let n := min 512 c.remain
    hbReq (.ixPage ctx (c.cursor / 512)) false (listAddr m.item + 8 * c.cursor) c.tdid (8 * n) [] 1 0 (some ctx)
      (onCtx ctx (fun x => { x with cursor := c.cursor + n, remain := c.remain - n }) s)

/-- The index stream and the data stream of a listed ROW_CAPTURE: the list is read first (R137, R154). -/
def startList (c : Cmd) (s : State) : State :=
  let b := c.item
  match namedEpoch c s with
  | none => s
  | some x =>
    let r := newCtx { streamCtx s c.q c.seq 2 4 with
      epoch := x.num, entry := fld b 12 4, tdid := fld b 84 2, remain := fld b 80 4 } s
    let d := newCtx { sourceCtx r.2 x c.q c.seq (fld b 12 4) 3 with linked := true, link := r.1 } r.2
    onCtx r.1 (fun k => { k with link := d.1 }) d.2

/-- A page of a listed ROW_CAPTURE: the whole list is checked before its rows are named, in list order (R154). -/
def listPage (ctx : Nat) (data : HostRead) (s : State) : State :=
  match Tab.get? s.str.ctxs ctx with
  | none => s
  | some k =>
    match cmd? s k.q k.seq, epoch? s k.epoch with
    | some c, some x =>
      let count := fld c.item 80 4
      let rows := listRows (data.getD []) (min 512 (count - c.items.length))
      if data.isNone || rows.any fun r => decide (eSize (entryAt x.list k.entry) ≤ r) then
        settleAll (malformed c.q c.seq 72 (stopStreams (fun y => y.q == c.q && y.seq == c.seq && y.epoch == x.num) s))
      else
        let items := c.items ++ rows.map fun r => (r, 1)
        let s := onCmd c.q c.seq (fun y => { y with items }) s
        if items.length < count then s
        else settleAll (captureItems items c { s with str.ctxs := Tab.del s.str.ctxs ctx })
    | _, _ => s

/-- ROW_CAPTURE (R72, R97, R154). -/
def execRowCapture (q seq : Nat) (s : State) : Host.Outcome State Fault Refusal :=
  .next (match due 0x42 q seq s with
    | none => s
    | some c =>
      if isTwo c then runCapture 0x42 2 q seq rowCaptureBad startList s
      else runCapture 0x42 1 q seq rowCaptureBad (fun c s => captureStream 1 [(fld c.item 16 8, fld c.item 24 8)] c s) s)

/-! ### The seal record (R201 to R203, R281) -/

/-- Entries with their ingots, in plan order. -/
def sealEntries (x : Epoch) : List (Nat × Bytes × Ingot) :=
  (liveEntries x.list).map fun e => (e.1, e.2, ingotOf x e.1)

def ingotSize (g : Ingot) : Nat := 1 + g.sent

/-- The 32 B ingot record (R281). -/
def ingotRecord (v : Vault) (a : Layout) (x : Epoch) (entry : Nat) (en : Bytes) (g : Ingot) (firstHm : Nat) : Bytes :=
  toLE 4 (eStream en) ++ toLE 1 (eKind en) ++ toLE 1 (b2n (eRepl en)) ++ toLE 2 entry ++
    toLE 8 (sectorOf v a x entry 0) ++ toLE 4 (ingotSize g) ++ toLE 4 (cdiv (ingotSize g) 256) ++ toLE 8 firstHm

/-- The hallmarks of an ingot's chunks from the digests of its sectors (R201, R202). -/
def ingotHallmarks (states : Bytes) (v : Vault) (a : Layout) (x : Epoch) (entry : Nat) (en : Bytes) (g : Ingot) :
    List Bytes :=
  (List.range (cdiv (ingotSize g) 256)).map fun c =>
    let n := min 256 (ingotSize g - 256 * c)
    chunkHallmark states (hVault x.list) x.num (eStream en) c (sectorOf v a x entry (256 * c))
      ((List.range n).map fun i => Tab.getD g.digests (256 * c + i) (zeros 32))

/-- Ingot records and hallmarks of an epoch, from the position of the next hallmark. -/
def sealLists (states : Bytes) (v : Vault) (a : Layout) (x : Epoch) (hm : Nat) :
    List (Nat × Bytes × Ingot) → Bytes × List Bytes
  | [] => ([], [])
  | (entry, en, g) :: rest =>
    let hs := ingotHallmarks states v a x entry en g
    let r := sealLists states v a x (hm + hs.length) rest
    (ingotRecord v a x entry en g hm ++ r.1, hs ++ r.2)

def disputeRecs (x : Epoch) : Bytes := x.disputes.flatMap fun d => toLE 8 d.1 ++ toLE 8 d.2

/-- The seal stream of an epoch (R137, R138). -/
def startSealCtx (x : Epoch) (v : Vault) (a : Layout) (s : State) : State :=
  if (sealCtx s x.num).isSome || !ctxRoom s x.num then s else
  let o := x.sealCmd.getD (x.q, x.seq)
  (newCtx { streamCtx s o.1 o.2 6 4 with
    epoch := x.num, fenceGen := vaultGen s (hVault x.list), dest := tailBase v a x.num (hIx x.list), remain := 4096 * a.ms } s).2

/-- Builds the seal record and hands its sectors to the sealing unit, the header last (R281, R282); the header's write waits for
R32 and R268. -/
def startSeal (x : Epoch) (v : Vault) (a : Layout) (s : State) : State :=
  let states := keyBytes s (256 + hHmac x.list)
  let es := sealEntries x
  let ls := sealLists states v a x 0 es
  let list := ls.1 ++ ls.2.flatten ++ disputeRecs x
  let hdr0 := sealHeader s x (hVault x.list) a (areas v a) ls.2.length es.length (zeros 32)
  let hm := epochHallmark states hdr0 list
  let hdr := sealHeader s x (hVault x.list) a (areas v a) ls.2.length es.length hm
  let s := onEpoch x.num (fun y => { y with
    header := hdr, hallmark := hm, sealSent := a.ms - 1, sealAcked := 0, sealedHdr := [] }) s
  let job := fun (j : Nat) (p : Bytes) => ({ epoch := x.num, entry := sealMark 0, kind := 5, isector := j, payload := p } : SealJob)
  addJobs ((List.range (a.ms - 1)).map (fun j => job (j + 1) (slice list (4064 * j) 4064)) ++ [job 0 hdr])
    (startSealCtx x v a s)

/-- Writer's records among the disputes of an epoch. -/
def writerRecords (x : Epoch) : Nat := (x.disputes.filter fun d => d.2 == 2 ^ 64 - 1).length

def sealBad (c : Cmd) (s : State) : List (Nat × Bool) :=
  [(8, !((namedEpoch c s).any fun x => drained x || x.phase == 6 || (x.phase == 5 && x.sealCmd == some (c.q, c.seq))))]

/-- Ends the SEAL of an epoch that is sealed (R72): DIVERGED when replicas differed (R104). -/
def endSeal (x : Epoch) (s : State) : State :=
  match x.sealCmd with
  | none => s
  | some (q, seq) =>
    let s := onCmd q seq (fun c => { c with bad := if x.diverged then 0x0A else 0 }) s
    match cmd? s q seq with
    | none => s
    | some c => endWithResult q seq (fld c.item 16 8) (fld c.item 24 2) 16 x.hallmark s

/-- SEAL (R72, R99, R104, R281, R282). -/
def runSeal (c : Cmd) (s : State) : State :=
  match namedEpoch c s with
  | none => s
  | some x =>
    if x.phase = 6 then finish c.q c.seq x.why.1 x.why.2 s
    else if x.phase = 5 then endSeal x s
    else
      let s := onEpoch x.num (fun y => { y with sealCmd := some (c.q, c.seq) }) s
      if x.poison then abandonEpoch x.num (0x11, 0x0B) s
      else if 2048 < writerRecords x then abandonEpoch x.num (0x11, 0x0A) s
      else
        let s := readKeys [hDataKey x.list, 256 + hHmac x.list] s
        match slotsBad s (hDataKey x.list) (hHmac x.list), epochVault s x with
        | some d, _ => abandonEpoch x.num (0x0E, d) s
        | _, none => abandonEpoch x.num (0x11, 0x0C) s
        | none, some (v, a) =>
          let s := onEpoch x.num (fun y => { y with fenceGen := s.adm.selfGen }) (setPhase x.num 4 s)
          match epoch? s x.num with
          | some y => startSeal y v a s
          | none => s

def execSealCmd (q seq : Nat) (s : State) : Host.Outcome State Fault Refusal :=
  .next (runCmd 0x43 q seq sealBad runSeal s)

/-! ### SEAL_RECORD_WRITE -/

/-- The epoch shares sectors with other replicas. -/
def sharesSectors (x : Epoch) : Bool :=
  decide (1 < hReplicas x.list) && (liveEntries x.list).any fun e => eRepl e.2

/-- Every comparison of the epoch's replicated sectors has ended and every replica is durable (R32, R266, R268). -/
def replicasDone (s : State) (x : Epoch) : Bool :=
  !sharesSectors x || (
    ((otherReplicas s x.list).all fun d => s.spl.durSeen.contains (d, x.num)) &&
    !(s.pun.sentDig.any fun d => d.1 == x.num) && !(s.pun.later.any fun d => d.1 == x.num) &&
    !(s.pun.dispOut.any fun d => d.1 == x.num) && !(s.pun.digMsgs.any fun m => mEpoch m == x.num) &&
    !(s.pun.digOut.any fun d => d.epoch == x.num) &&
    s.pun.own.all fun o => o.2.1 != x.num || decide (hReplicas x.list ≤ o.2.2.2.length + 1))

/-- The seal header may be written: the list sectors are acknowledged, its own sector is sealed and R268 holds. -/
def headerReady (s : State) (x : Epoch) : Bool :=
  decide (x.phase = 4) && !x.sealIssued && decide (x.sealSent ≤ x.sealAcked) && !x.sealedHdr.isEmpty && replicasDone s x

/-- SEAL_RECORD_WRITE (R32, R282): the seal header is issued. A dispute found since the list was built is in a list
built anew, which needs the HMAC slot again (R212). -/
def sealRecordWrite (e : Nat) (s : State) : State :=
  match epoch? s e with
  | none => s
  | some x =>
    if !headerReady s x then s else
    match epochVault s x with
    | none => s
    | some (v, a) =>
      if 2048 < writerRecords x then abandonEpoch e (0x11, 0x0A) s
      else if fld x.header 36 2 ≠ x.disputes.length then
        let s := readKeys [hDataKey x.list, 256 + hHmac x.list] s
        if (slotsBad s (hDataKey x.list) (hHmac x.list)).isSome then keyGone e s else startSeal x v a s
      else
        writeSector (hVault x.list) v (tailBase v a e (hIx x.list)) e x.sealedHdr (.sealHdr e)
          { tag := 0, peer := 0, mtype := 0x10, msg := [], epoch := e, entry := sealMark 1, isectors := [0] } 0 0
          (onEpoch e (fun y => { y with sealIssued := true }) s)

def execSealRecordWrite (epoch : Nat) (s : State) : Host.Outcome State Fault Refusal :=
  .next (when (runs s) (sealRecordWrite epoch) s)

/-- The seal header is acknowledged: the epoch is SEALED (R19, R32), RESYNC of what it captured is cleared (R400), its
contexts and its launch retire (R89, R139). -/
def sealed (e : Nat) (s : State) : State :=
  match epoch? s e with
  | none => s
  | some x =>
    if x.phase ≠ 4 then s else
    let s := setPhase e 5 s
    let s := each x.resync (fun i t =>
      let k := eTrack (entryAt x.list i)
      -- a table in the window of a filter that is still retired keeps it (R133)
      let open_ := (List.range 8).any fun n => retired t 8 n && (tablesIn t n).any fun e => eTrack e.2 == k
      if (region? t k).isSome && !open_ then writeHeader k (onRegion k (fun r => { r with resync := false }) t) else t) s
    let s := dropSealing e { s with str.ctxs := s.str.ctxs.filter fun c => c.2.epoch != e }
    endSeal x (freeGens (onEpoch e (fun y => { y with reserved := 0 }) s))

/-- List sectors of the seal are acknowledged. -/
def sealListAcked (e n : Nat) : State → State := onEpoch e fun x => { x with sealAcked := x.sealAcked + n }

end Sys2Proof.Machine
end

