-- ==== Sys2Proof/Machine/Chains.lean ====
section
/-! DEFINITION. What a RESTORE, GATHER_RESTORE or PLAN_LAUNCH reads before its first write: refusals, the chain of an epoch (R84,
R284 to R287, R290), the source of each block and row (R286), the units that are read (R153, R154), chunks (R286). -/

namespace Sys2Proof.Machine

/-! ### Refusals -/

/-- Why a restore ends before its first write: status, DETAIL, events (code, severity, DETAIL), and vault sectors that are bad
data. -/
structure RFail where
  status : Nat
  detail : Nat
  evs : List (Nat × Nat × Nat) := []
  units : List Nat := []
  /-- key slots of the seal header that a KEY_ABSENT is about -/
  slots : List Nat := []
  deriving DecidableEq, Repr

def refusal (status detail : Nat) (evs : List (Nat × Nat × Nat) := []) (units : List Nat := []) : RFail :=
  { status, detail, evs, units }

/-- A slot does not hold the key that the ledger's key-epoch record names (R210). -/
def keyMissing (s : State) (n : Nat) : Bool :=
  (Tab.get? s.adm.keyRec n).any fun r => !((Tab.get? s.adm.keys n).any fun k => k.form == r.1 && k.kcv == r.2)

/-- A refusal after a cold reset that only says that the driver has not loaded the keys of a seal record again: the command does
not start yet (R210). The slots that it needs are known once the header is read (DEDUCED, log entry 136). -/
def awaitsKeys (s : State) (q seq : Nat) (f : RFail) : Bool :=
  (cmd? s q seq).any (·.keyWait) && f.slots.any (keyMissing s)

/-- Ends a command with a refusal; MEDIA_CRC and CODEC_DAMAGED are bad data (R158 to R160). -/
def failRestore (q seq : Nat) (f : RFail) (s : State) : State :=
  if awaitsKeys s q seq f then onCmd q seq (fun c => { c with ran := false }) s else
  let s := each f.evs (fun e => raise0 e.1 e.2.1 e.2.2) s
  if f.status = 0x0C ∨ f.status = 0x0D then badEnd q seq f.units f.status f.detail s
  else finish q seq f.status f.detail (stopCmd q seq s)

/-- The sectors of a seal record at `t` that make it bad data: those whose check value fails under the vault ID that its header
records (R283), else the header. -/
def sealUnits (s : State) (sectors : Tab Bytes) (t : Nat) : List Nat :=
  match Tab.get? sectors t with
  | none => [t]
  | some h =>
    let p := payloadOf (keyBytes s (hKslot h)) t h
    let bad := (List.range (max 1 (fld p 112 4))).filter fun i =>
      !(Tab.get? sectors (t + i)).any (sectorCrcOk (fld p 8 4) (t + i))
    if bad.isEmpty then [t] else bad.map (t + ·)

/-- The key slots that the clear header of a seal record names (R206, R284). -/
def headerSlots (sectors : Tab Bytes) (t : Nat) : List Nat :=
  match Tab.get? sectors t with
  | none => []
  | some h => [hKslot h, 256 + hHslot h]

/-- The outcome of a seal record that cannot be used (R206, R284, R286, R290). DEDUCED, log entry 124. -/
def sealFail (e : Nat) (units slots : List Nat) : SealRead → RFail
  | .ok _ => refusal 0 0
  | .stale n => refusal 0x12 1 [(0x0903, 1, e + 2 ^ 32 * n)]
  | .later => refusal 0x03 12
  | .key d => { status := 0x0E, detail := d, evs := if d = 2 then [(0x0901, 2, e + 2 ^ 32 * 3)] else [], slots }
  | .bad c =>
    let ev := (0x0901, 2, e + 2 ^ 32 * c)
    if c = 5 then refusal 0x03 8 [ev]
    else if c = 4 then refusal 0x0C 2 [ev, (0x0902, 2, 2 ^ 32 * 0xFFFFFFFF)] units
    else refusal 0x0C 0 [ev] units

/-- Vault sector 0 shows no layout (R285): MALFORMED 8, but KEY_ABSENT when the keys of a seal header there cannot be used
(R206). -/
def layoutFail (sectors : Tab Bytes) (e : Nat) : SealRead → RFail
  | .key d => sealFail e [] (headerSlots sectors 0) (.key d)
  | .bad c => refusal 0x03 8 (sealFail e [] [] (.bad c)).evs
  | _ => refusal 0x03 8

/-! ### The chain of an epoch (R286 items 1 to 4) -/

/-- An ingot of the chain: its seal record, ingot record and header. -/
structure Link where
  r : SealRec
  ir : Bytes
  h : Bytes
  deriving DecidableEq, Repr

/-- STALE 2 or 3: the journal holds another seal of this epoch in this vault (R290). -/
def staleBy (s : State) (vid : Nat) (r : SealRec) : Option Nat :=
  match epoch? s r.epoch with
  | none => none
  | some x =>
    if x.phase = 5 ∧ hVault x.list = vid ∧ x.hallmark.take 16 ≠ r.hallmark.take 16 then
      some (if r.fenceGen < x.fenceGen then 3 else 2)
    else none

/-- The seal records of an epoch and of its bases, newest first. -/
def sealsOf (fuel : Nat) (s : State) (sectors : Tab Bytes) (vid : Nat) (v : Vault) (lay : Nat × Nat) (e : Nat) :
    RFail ⊕ List SealRec :=
  match fuel with
  | 0 => .inr []
  | k + 1 =>
    if e = 0 then .inr [] else
    let t := sealAt v lay e (readIx s)
    match readSeal s sectors v.area t e with
    | .ok r =>
      match staleBy s vid r with
      | some d => .inl (refusal 0x12 d [(0x0903, 1, e + 2 ^ 32 * r.epoch)])
      | none =>
        match sealsOf k s sectors vid v lay r.base with
        | .inl f => .inl f
        | .inr l => .inr (r :: l)
    | x => .inl (sealFail e (sealUnits s sectors t) (headerSlots sectors t) x)

/-- The ingots of a stream along the chain, or the header sector that fails its checks. -/
def linksOf (s : State) (sectors : Tab Bytes) (stream : Nat) : List SealRec → Except Nat (List Link)
  | [] => .ok []
  | r :: rest =>
    match ingotRec r stream with
    | none => .ok []
    | some ir =>
      match readIngot s sectors r ir with
      | none => .error (irFirst ir)
      | some h => (linksOf s sectors stream rest).map fun l => ⟨r, ir, h⟩ :: l

/-- The decode slot of a CODEC 4 ingot is empty or holds other words than the ingot's copy (R187). -/
def slotWrong (s : State) (l : Link) : Bool := slotDiffers s (ihCodec l.h) (ihDecSlot l.h) (ihProg l.h)

/-- The chain of one stream, or the refusal. -/
def streamLinks (s : State) (sectors : Tab Bytes) (rs : List SealRec) (stream : Nat) : RFail ⊕ List Link :=
  match linksOf s sectors stream rs with
  | .error u => .inl (refusal 0x0C 0 [] [u])
  | .ok [] => .inl (refusal 0x03 16)
  | .ok l => if l.any (slotWrong s) then .inl (refusal 0x0D 7) else .inr l

/-! ### Sources of blocks and rows (R286 item 5) -/

/-- The index sector of a block, and the map sector of a row, in an ingot. -/
def indexSector (l : Link) (b : Nat) : Nat := irFirst l.ir + 1 + ihData l.h + b / 336
def mapSector (l : Link) (row : Nat) : Nat := irFirst l.ir + 1 + ihData l.h + ihIndex l.h + row / 32448

/-- The newest ingot in which a block is PRESENT, or the index sector that fails its check. -/
def blockSource (s : State) (sectors : Tab Bytes) (b i : Nat) : List Link → Except Nat Nat
  | [] => .error 0
  | l :: rest =>
    match indexEntry s sectors l.r l.ir l.h b with
    | none => .error (indexSector l b)
    | some (some _) => .ok i
    | some none => blockSource s sectors b (i + 1) rest

/-- The newest ingot that holds a row, with the row's rank in it. -/
def rowSource (s : State) (sectors : Tab Bytes) (row i : Nat) : List Link → Except Nat (Nat × Nat)
  | [] => .error 0
  | l :: rest =>
    match rowRank s sectors l.r l.ir l.h row with
    | none => .error (mapSector l row)
    | some (some k) => .ok (i, k)
    | some none => rowSource s sectors row (i + 1) rest

/-- Decoded bytes of an ingot's own stream: of a row table, those of the rows that its maps name. -/
def linkTotal (s : State) (sectors : Tab Bytes) (l : Link) : Except Nat Nat :=
  if ihKind l.h = 2 then
    let last := ihData l.h + ihIndex l.h + ihMaps l.h
    match ingotSector s sectors l.r l.ir 4 last with
    | .ok p =>
      let ones := (slice p 8 4056).foldl (fun a b => a + ((List.range 8).filter b.getLsbD).length) 0
      .ok ((fld p 0 8 + ones) * ihRow l.h)
    | _ => .error (irFirst l.ir + last)
  else .ok (ihBytes l.h)

/-- Bytes of a link's decoded stream that go to a fabric address; `pos` is the position in an index list. -/
structure Piece where
  link : Nat
  off : Nat
  len : Nat
  addr : Nat
  pos : Nat := 0
  deriving DecidableEq, Repr

/-- The pieces of decoded bytes [a, a + n) of a stream that is not a row table. -/
def rangePieces (s : State) (sectors : Tab Bytes) (links : List Link) (h : Bytes) (a n dest : Nat) :
    Except Nat (List Piece) :=
  let size := 2 ^ ihLog2 h
  (List.range ((a + n - 1) / size + 1 - a / size)).mapM fun k =>
    let b := a / size + k
    let lo := max a (b * size)
    let hi := min (a + n) ((b + 1) * size)
    (blockSource s sectors b 0 links).map fun i => { link := i, off := lo, len := hi - lo, addr := dest + (lo - a) }

/-- The piece of one row, clipped to bytes [a, b) of the entry's full layout. -/
def rowPiece (s : State) (sectors : Tab Bytes) (links : List Link) (size row a b addr pos : Nat) : Except Nat Piece :=
  let lo := max a (row * size)
  let hi := min b ((row + 1) * size)
  (rowSource s sectors row 0 links).map fun i =>
    { link := i.1, off := i.2 * size + (lo - row * size), len := hi - lo, addr, pos }

/-- The pieces of bytes [a, a + n) of a row table's full layout (R287). -/
def tablePieces (s : State) (sectors : Tab Bytes) (links : List Link) (size a n dest : Nat) : Except Nat (List Piece) :=
  (List.range ((a + n - 1) / size + 1 - a / size)).mapM fun k =>
    let row := a / size + k
    rowPiece s sectors links size row a (a + n) (dest + (max a (row * size) - a)) 0

/-- A piece cut at the indexed blocks of its ingot. -/
def cutPiece (fuel size : Nat) (p : Piece) : List Piece :=
  match fuel with
  | 0 => []
  | k + 1 =>
    if p.len = 0 then [] else
    let n := min p.len (size - p.off % size)
    { p with len := n } :: cutPiece k size { p with off := p.off + n, len := p.len - n, addr := p.addr + n }

/-- Some pieces cut at the indexed blocks of their ingots. -/
def cutPieces (links : List Link) (ps : List Piece) : List Piece :=
  ps.flatMap fun p =>
    let size := 2 ^ ((links[p.link]?.map fun l => ihLog2 l.h).getD 16)
    cutPiece (p.len / size + 2) size p

/-! ### Units (R153, R154) -/

/-- The part of an encoded block of `full` bytes at payload offset `at_` that a read of decoded bytes [o, o + n) needs: where it
begins and its length. Codec 0: the sectors that hold the bytes. R153 says it of a gather; a RESTORE of a part of a block
reads the same smallest unit (DEDUCED, log entry 63). -/
def fetchPart (part : Bool) (codec fmt at_ full o n : Nat) : Nat × Nat :=
  if !part then (0, full)
  else if codec = 0 then
    let lo := (at_ + o) / 4064 * 4064 - at_
    (lo, min full (cdiv (at_ + o + n) 4064 * 4064 - at_) - lo)
  else if codec = 2 ∨ codec = 3 then
    let f0 := o / fmtUnit fmt * fmtBlocks fmt / fGroup fmt
    let f1 := cdiv (cdiv (o + n) (fmtUnit fmt) * fmtBlocks fmt) (fGroup fmt)
    let lo := min full (f0 * fSize codec fmt)
    (lo, min full (f1 * fSize codec fmt) - lo)
  else (0, full)

/-- What a restore reads from: context, vault ID, buffer. -/
structure Origin where
  ctx : Nat
  vault : Nat
  buf : Option (Nat × Nat)
  chain : Option Nat := none
  deriving DecidableEq, Repr

/-- The unit that serves one piece within a block, or the index or map sector that fails its check. -/
def jobOf (s : State) (sectors : Tab Bytes) (links : List Link) (o : Origin) (part : Bool) (p : Piece) : Except Nat Job :=
  match links[p.link]? with
  | none => .error 0
  | some l =>
    let size := 2 ^ ihLog2 l.h
    let b := p.off / size
    match indexEntry s sectors l.r l.ir l.h b with
    | some (some (off, full)) =>
      (linkTotal s sectors l).map fun total =>
        let need := fetchPart part (ihCodec l.h) (ihFormat l.h) off full (p.off % size) p.len
        { ingotUnit l.r l.ir l.h o.ctx o.vault b off full total need with
          buf := o.buf, dest := [(p.off % size, p.len, p.addr, p.pos)], pos := p.pos, chain := o.chain }
    | _ => .error (indexSector l b)

/-- An index may share the unit `k` that was read for an earlier one: the same block, with all bytes that it needs, named no more
than 64 positions back (R154). Pieces of a RESTORE have no positions. -/
def shares (j k : Job) : Bool :=
  j.ctx == k.ctx && j.epoch == k.epoch && j.stream == k.stream && j.block == k.block && k.codec == j.codec &&
    k.forBlk.isNone && decide (k.pre ≤ j.pre) && decide (j.pre + j.elen ≤ k.pre + k.elen) && decide (j.pos ≤ k.pos + 64)

/-- A unit that serves one more piece. -/
def joined (k j : Job) : Job := { k with dest := k.dest ++ j.dest, pos := j.pos }

def addJob (acc : List Job) (j : Job) : List Job :=
  if acc.any (shares j) then updWhere (shares j) (fun k => joined k j) acc else acc ++ [j]

/-- The units of some pieces, in order. -/
def jobsOf (s : State) (sectors : Tab Bytes) (links : List Link) (o : Origin) (part : Bool) (ps : List Piece) :
    Except Nat (List Job) :=
  ((cutPieces links ps).mapM (jobOf s sectors links o part)).map fun js => js.foldl addJob []

/-- The chunks of a link with their hallmarks (R284). -/
def chunkRefs (l : Link) : List ChunkRef :=
  (List.range (irChunks l.ir)).map fun c =>
    { vid := l.r.vid, epoch := l.r.epoch, stream := irStream l.ir, chunk := c, first := irFirst l.ir + 256 * c
      count := min 256 (irSectors l.ir - 256 * c), hslot := l.r.hslot, hm := l.r.hms.getD (irHm l.ir + c) [] }

/-- Digests of the header, index and map sectors of a link that were read. -/
def knownDigests (sectors : Tab Bytes) (l : Link) : Tab Bytes :=
  ((List.range (irSectors l.ir)).filter fun i => i == 0 || decide (ihData l.h < i)).filterMap fun i =>
    let n := irFirst l.ir + i
    (Tab.get? sectors (placeOf l.r n)).map fun b => (n, sha256 b)

/-- Units that only read the data sectors that no other unit of the command reads (R289). -/
def readJobs (o : Origin) (l : Link) (jobs : List Job) : List Job :=
  let mine := jobs.filter fun j => j.epoch == l.r.epoch && j.stream == irStream l.ir
  let seen := mine.foldl (fun a j => Iset.add a j.isector (j.isector + j.count)) []
  (isetMinus 1 (1 + ihData l.h) seen).flatMap fun r =>
    (List.range (cdiv (r.2 - r.1) 16)).map fun k =>
      let lo := r.1 + 16 * k
      let n := min 16 (r.2 - lo)
      { ctx := o.ctx, vault := o.vault, epoch := l.r.epoch, stream := irStream l.ir, block := 0, first := irFirst l.ir + lo
        count := n, off := 0, elen := 0, want := 0, full := 0, vid := l.r.vid, kslot := l.r.kslot, isector := lo
        places := (List.range n).map fun i => placeOf l.r (irFirst l.ir + lo + i), buf := o.buf, codec := 255, fmt := 0
        dest := [] }

/-! ### Vaults and buffers -/

/-- BUF_NOT_HELD or BUF_FOREIGN with its count and event (R83, R84). -/
def bufFault (q seq buf gen : Nat) (foreign : Bool) (s : State) : State :=
  let s : State := if foreign then { s with regs.bufForeign := satAdd 0xFFFF s.regs.bufForeign 1 }
    else { s with regs.bufNotHeld := satAdd 0xFFFF s.regs.bufNotHeld 1 }
  finish q seq (if foreign then 5 else 4) 0
    (raise 0x0201 1 q seq (buf + 2 ^ 16 * b2n foreign + 2 ^ 20 * q + 2 ^ 32 * gen) s)

/-- The grant that a command names (R83): some true for a foreign one, some false for one not held. -/
def bufCheck (s : State) (q buf gen : Nat) : Option Bool :=
  match Tab.get? s.adm.grants buf with
  | none => some false
  | some g => if g.gen ≠ gen then some false else if g.owner ≠ q then some true else none

/-- A vault that cannot be used now: FENCED, or RETIRED with DETAIL 1 (R258, R263). -/
def vaultBad (s : State) (v : Vault) : Option (Nat × Nat) :=
  if vWhere v ≠ 0 ∧ (s.adm.fenced ∨ (vPeer s v).any (peerFenced s)) then some (0x08, 0) else if vaultDown s v then some (0x0F, 1) else none

/-- The layout of a vault is journalled when its first reader finds it (R285); the vault ID that its seal records name is kept
with it (R197, R198). -/
def journalArea (id : Nat) (lay : Nat × Nat) (vid : Nat) (s : State) : State :=
  { s with adm.vaults := Tab.upd s.adm.vaults id fun w =>
      let w := if vid = id then w else { w with vid := some vid }
      if w.area.isSome then w else { w with area := some lay.1, tail := lay.2 } }

/-- SRC_BUF and BUF_ID of a restore. DEDUCED, log entry 106. -/
def srcBuf (b : Bytes) : Bool := bit (fld b 20 2) 0

/-- The seal records of EPOCH with the copy of the ingot that a restore from a buffer uses (R287). -/
def fromBuffer (b : Bytes) (rs : List SealRec) : List SealRec :=
  if srcBuf b then
    match rs with
    | [] => []
    | r :: rest => { r with disputes := [] } :: rest
  else rs

/-- The chain of a RESTORE or GATHER_RESTORE from the sectors it has read. -/
def chainFor (s : State) (sectors : Tab Bytes) (b : Bytes) : RFail ⊕ List Link :=
  let vid := fld b 8 4
  match vault? s vid with
  | none => .inl (refusal 0x03 8)
  | some v =>
    match layoutRead s v sectors with
    | .inl x => .inl (layoutFail sectors x.1 x.2)
    | .inr lay =>
      match sealsOf 4097 s sectors vid v lay (fld b 12 4) with
      | .inl f => .inl f
      | .inr rs => streamLinks s sectors (fromBuffer b rs) (fld b 16 4)

/-- The buffer of a restore: base address and translation domain. -/
def bufOf (s : State) (b : Bytes) : Option (Nat × Nat) :=
  if srcBuf b then (Tab.get? s.adm.grants (fld b 22 2)).map fun g => (g.base, g.tdid) else none

/-- SRC_BUF is refused (R287): a block needed from a base, DELTA in effect, or an ingot beyond the buffer. -/
def bufRefused (s : State) (b : Bytes) (links : List Link) (ps : List Piece) : Bool :=
  srcBuf b && (ps.any (fun p => p.link != 0) || (links.head?.any fun l => ihDelta l.h ||
    decide (((Tab.get? s.adm.grants (fld b 22 2)).map (·.len)).getD 0 < 4096 * irSectors l.ir)))

/-- The sectors that a restore has read before its first data sector are read over the host bridge when its vault, or the buffer that
holds EPOCH's ingot, lies there (R287, R288): the map sectors of a gather in class 1 (R15), the others in the class of its
streams. -/
def readMeta (v : Vault) (b : Bytes) (buf : Option (Nat × Nat)) (cls : Nat) (links : List Link) (sectors : Tab Bytes) (s : State) :
    State :=
  let isMap := fun n => itemOp b == 0x45 && links.any fun l =>
    let m := mapSector l 0
    decide (m ≤ n) && decide (n < m + ihMaps l.h)
  each sectors (fun x t =>
    let c := if isMap x.1 then 1 else cls
    match buf, links.head? with
    | some g, some l =>
      if srcBuf b ∧ irFirst l.ir ≤ x.1 ∧ x.1 < irFirst l.ir + irSectors l.ir then
        readCtl (g.1 + 4096 * (x.1 - irFirst l.ir)) g.2 4096 c t
      else if vWhere v = 0 then readCtl (vBase v + 4096 * x.1) (vTdid v) 4096 c t else t
    | _, _ => if vWhere v = 0 then readCtl (vBase v + 4096 * x.1) (vTdid v) 4096 c t else t) s

end Sys2Proof.Machine
end

