-- ==== Sys2Proof/Machine/Restore.lean ====
section
/-! DEFINITION. RESTORE and GATHER_RESTORE (R101, R285 to R288, R290): their start, destination units (R101, R159), units of an
ingot read and decoded (R171, R173, R176, R185 to R189), index pages (R153, R154), chunk hallmarks (R286), the push of
harvest chains (R289, R337) and the end of a restore. -/

namespace Sys2Proof.Machine

/-! ### The start of a restore -/

/-- The checks that both restores share before their own; `go` gets the chain. -/
def startRestore (sectors : Tab Bytes) (c : Cmd) (go : List Link → State → State) (s : State) : State :=
  let b := c.item
  let q := c.q
  let seq := c.seq
  match vault? s (fld b 8 4) with
  | none => malformed q seq 8 s
  | some v =>
    match vaultBad s v with
    | some e => finish q seq e.1 e.2 s
    | none =>
      let s := when (srcBuf b) (useGrant (fld b 22 2)) s
      let bad := if srcBuf b then bufCheck s q (fld b 22 2) (fld b 24 4) else none
      match bad with
      | some f => bufFault q seq (fld b 22 2) (fld b 24 4) f s
      | none =>
        match chainFor s sectors b with
        | .inl f => failRestore q seq f (readMeta v b none (cmdClass s c) [] sectors s)
        | .inr links =>
          let s := readMeta v b (bufOf s b) (cmdClass s c) links sectors s
          let s := match layoutRead s v sectors with
            | .inr lay => journalArea (fld b 8 4) lay ((links.head?.map (·.r.vid)).getD (fld b 8 4)) s
            | .inl _ => s
          go links s

/-- Slots that the sectors and blocks of a chain need: data keys, HMAC keys (256 added), decode recipes. -/
def linkKeys (links : List Link) : List Nat := (links.flatMap fun l => [l.r.kslot, 256 + l.r.hslot]).dedup
def linkCodes (links : List Link) : List Nat :=
  ((links.filter fun l => ihCodec l.h == 4).map fun l => ihDecSlot l.h).dedup

/-- A context of a restore that reads vault `vid`, or a buffer. -/
def restoreCtx (s : State) (c : Cmd) (kind vid : Nat) (sectors : Tab Bytes) (links : List Link) : Ctx :=
  { streamCtx s c.q c.seq kind (cmdClass s c) with
    fenceGen := vaultGen s vid, known := sectors, keys := linkKeys links, codes := linkCodes links
    chunks := links.flatMap chunkRefs
    digests := (links.flatMap (knownDigests sectors)).foldl (fun t e => Tab.put t e.1 e.2) [] }

/-- FENCE_GEN of a restore's stream: none when it reads a buffer (R138). -/
def sourceVault (b : Bytes) : Nat := if srcBuf b then 2 ^ 32 else fld b 8 4

def restoreBad (c : Cmd) (_ : State) : List (Nat × Bool) :=
  let b := c.item
  [(20, decide (1 < fld b 20 2)), (32, fld b 32 8 % 4096 != 0), (40, fld b 40 8 == 0 || fld b 40 8 % 4096 != 0),
   (72, fld b 72 8 % 4096 != 0), (80, fld b 80 2 != 0)]

/-- RESTORE once its chain is known (R287). -/
def restoreGo (sectors : Tab Bytes) (c : Cmd) (links : List Link) (s : State) : State :=
  let b := c.item
  match links.head? with
  | none => malformed c.q c.seq 16 s
  | some l =>
    let a := fld b 72 8
    let n := fld b 40 8
    let dest := fld b 32 8
    if ihBytes l.h < a + n then malformed c.q c.seq 40 s
    else
      let ps := if ihKind l.h = 2 then tablePieces s sectors links (max 1 (ihRow l.h)) a n dest
        else rangePieces s sectors links l.h a n dest
      match ps with
      | .error u => badEnd c.q c.seq [u] 0x0C 0 s
      | .ok ps =>
        if bufRefused s b links ps then malformed c.q c.seq 20 s
        else
          let k := Tab.gap s.str.ctxs 0
          match jobsOf s sectors links { ctx := k, vault := fld b 8 4, buf := bufOf s b } true ps with
          | .error u => badEnd c.q c.seq [u] 0x0C 0 s
          | .ok jobs =>
            let x := { restoreCtx s c 4 (sourceVault b) sectors links with
              lo := dest, hi := dest + n, dest, remain := n }
            let s := (newCtx x s).2
            { s with str.jobs := s.str.jobs ++ jobs }

/-- A command that takes streams of no epoch waits for its contexts (R139). -/
def waitCtx (op n q seq : Nat) (own : Cmd → State → List (Nat × Bool)) (f : State → State) (s : State) : State :=
  match due op q seq s with
  | none => s
  | some c => if (bodyBad c.item (own c s)).isNone && decide (ctxFree s < n) then contextWait q seq s else f s

/-- RESTORE (R72, R97, R285 to R287, R290). -/
def execRestore (q seq : Nat) (sectors : Tab Bytes) (s : State) : Host.Outcome State Fault Refusal :=
  .next (waitCtx 0x44 1 q seq restoreBad
    (runCmd 0x44 q seq restoreBad fun c => startRestore sectors c (restoreGo sectors c)) s)

/-! ### GATHER_RESTORE (R153, R154, R288) -/

def gatherBad (c : Cmd) (_ : State) : List (Nat × Bool) :=
  let b := c.item
  [(20, decide (1 < fld b 20 2)), (40, fld b 40 8 % 8 != 0), (72, fld b 72 8 == 0 || decide (2 ^ 24 < fld b 72 8))]

/-- Its index stream and its data stream are linked (R137, R138). -/
def gatherGo (sectors : Tab Bytes) (c : Cmd) (links : List Link) (s : State) : State :=
  let b := c.item
  match links.head? with
  | none => malformed c.q c.seq 16 s
  | some l =>
    if fld b 80 2 ≠ ihRow l.h ∨ ihKind l.h ≠ 2 then malformed c.q c.seq 80 s
    else if bufRefused s b links [] then malformed c.q c.seq 20 s
    else
      let dest := fld b 32 8
      let r := newCtx { streamCtx s c.q c.seq 2 (cmdClass s c) with tdid := fld b 82 2, remain := fld b 72 8 } s
      let d := newCtx { restoreCtx r.2 c 3 (sourceVault b) sectors links with
        lo := dest, hi := dest + ihSize l.h * ihRow l.h, unit := ihRow l.h, dest, remain := fld b 72 8 * ihRow l.h
        linked := true, link := r.1 } r.2
      onCtx r.1 (fun y => { y with link := d.1 }) d.2

/-- GATHER_RESTORE needs two contexts. -/
def execGatherRestore (q seq : Nat) (sectors : Tab Bytes) (s : State) : Host.Outcome State Fault Refusal :=
  .next (waitCtx 0x45 2 q seq gatherBad
    (runCmd 0x45 q seq gatherBad fun c => startRestore sectors c (gatherGo sectors c)) s)

/-! ### Destination units (R101, R150, R159, R288) -/

/-- The destination unit of a stream that holds an address: a 4 KiB sector clipped to the range, or a row. -/
def unitOf (c : Ctx) (addr : Nat) : Nat × Nat :=
  if c.unit = 0 then (max c.lo (addr / 4096 * 4096), min c.hi (addr / 4096 * 4096 + 4096))
  else
    let u := c.lo + (addr - c.lo) / c.unit * c.unit
    (u, u + c.unit)

/-- Writes a whole destination unit. -/
def writeUnit (ctx : Nat) (c : Ctx) (addr : Nat) (d : Bytes) (bad : Bool) (s : State) : State :=
  let s := onCtx ctx (fun x => { x with dest := addr + d.length, remain := x.remain - d.length }) s
  each (splitPages 3 addr d.length) (fun p t =>
    fabReqBy none (some ctx) false (.dest c.q c.seq) true p.1 p.2 c.cls (slice d (p.1 - addr) p.2) bad t) s

/-- A piece of one destination unit is at hand: the unit is written once it is whole. A row that an index list names twice is
written twice (R153): the pieces of each list position are kept apart. -/
def putPiece (ctx pos addr : Nat) (d : Bytes) (bad : Bool) (s : State) : State :=
  match Tab.get? s.str.ctxs ctx with
  | none => s
  | some c =>
    let u := unitOf c addr
    let base := 2 ^ 64 * pos
    let asm := Tab.put c.asm (base + addr) (d, bad)
    let here := fun (p : Nat × (Bytes × Bool)) => decide (base + u.1 ≤ p.1) && decide (p.1 < base + u.2)
    let ps := asm.filter here
    if (ps.foldl (fun a p => a + p.2.1.length) 0) < u.2 - u.1 then onCtx ctx (fun x => { x with asm }) s
    else writeUnit ctx c u.1 (ps.flatMap fun p => p.2.1) (ps.any fun p => p.2.2)
      (onCtx ctx (fun x => { x with asm := asm.filter fun p => !here p }) s)

/-- Cuts bytes at the ends of destination units. -/
def putBytes (fuel ctx pos addr : Nat) (d : Bytes) (bad : Bool) (s : State) : State :=
  match fuel with
  | 0 => s
  | k + 1 =>
    match Tab.get? s.str.ctxs ctx with
    | none => s
    | some c =>
      if d.isEmpty then s else
      let n := max 1 ((unitOf c addr).2 - addr)
      putBytes k ctx pos (addr + n) (d.drop n) bad (putPiece ctx pos addr (d.take n) bad s)

/-- One piece of decoded bytes goes to its destination, its bad bytes as bad. -/
def putDest (ctx : Nat) (d : Bytes) (bad : Iset) (p : Nat × Nat × Nat × Nat) (s : State) : State :=
  let put := fun (isBad : Bool) (r : Nat × Nat) (t : State) =>
    putBytes ((r.2 - r.1) / 64 + 3) ctx p.2.2.2 (p.2.2.1 + (r.1 - p.1)) (slice d r.1 (r.2 - r.1)) isBad t
  each (isetInter p.1 (p.1 + p.2.1) bad) (put true) (each (isetMinus p.1 (p.1 + p.2.1) bad) (put false) s)

/-- A decoded unit goes to its destinations, or to the chain that will be pushed. -/
def deliver (j : Job) (d : Bytes) (bad : Iset) (s : State) : State :=
  match j.chain with
  | some _ => onCtx j.ctx (fun c => { c with asm := Tab.put c.asm j.block (d, !bad.isEmpty) }) s
  | none => each j.dest (putDest j.ctx d bad) s

/-! ### The vault reads of a stream -/

/-- One descriptor of a vault-read stream: its next unit gets a slot and its reads; an unencoded row on the light path takes no slot
(R150). -/
def jobStep (ctx : Nat) (c : Ctx) (s : State) : State :=
  match s.str.jobs.find? fun j => j.ctx == ctx with
  | none => s
  | some j =>
    let light := isLight s { id := 0, ctx, kind := .dec j, need := 0 }
    let room := windowOpen s ctx c && !(j.delta && decide (slotsFree s < 2))
    if !light && !room then s else
    startUnit j (if light then none else freeLane s []) false
      (onCtx ctx (fun x => { x with cursor := j.places.getLastD (j.first + j.count - 1) + 1 })
        { s with str.jobs := s.str.jobs.erase j })

/-! ### Decoding -/

/-- The 4 KiB units that a job's bytes go to. -/
def jobUnits (j : Job) : List Nat :=
  (j.dest.flatMap fun p =>
    let a := p.2.2.1
    (List.range ((a + p.2.1 - 1) / 4096 + 1 - a / 4096)).map fun i => (a / 4096 + i) * 4096).dedup

/-- A unit leaves staging. -/
def unitDone (b : Blk) (s : State) : State := noteDrain b.ctx (blkBytes b).length (dropBlk b.id s)

/-- Bytes with those of a set given as bad data (DESIGN CHOICE, log entry 9). -/
def mixBad (k : Nat) (bad : Iset) (d : Bytes) : Bytes :=
  ((List.range d.length).zip d).map fun x => if bad.mem x.1 then Config.badByte k x.1 else x.2

/-- A decoded unit is delivered; a later index of its stream may share it (R154). -/
def unitOut (b : Blk) (j : Job) (d : Bytes) (bad : Iset) (s : State) : State :=
  let s := deliver j d bad (unitDone b s)
  onCtx j.ctx (fun c => if c.linked then { c with recent := c.recent ++ [(j, d, bad)] } else c) s

/-- A unit that is bad data as a whole (R158, R159): an anchor is damage of what needs it; the other units are delivered poisoned.
`units`: the bad 4 KiB units. -/
def unitBad (b : Blk) (j : Job) (units : List Nat) (cause code detail : Nat) (s : State) : State :=
  let d := (List.range (if j.forBlk.isSome then 65536 else j.want)).map (Config.badByte s.time.free)
  match j.forBlk with
  | some t => anchorDone t.1 d code (if code = 0x0D then 8 else detail) (unitDone b (drawn s))
  | none =>
    let s := badData b.ctx units cause code detail s
    if (blk? s b.id).isSome then unitOut b j d (if j.want = 0 then [] else [(0, j.want)]) (drawn s) else s

/-- CODEC_DAMAGE and its bad data (R189, R190). -/
def unitDamaged (b : Blk) (j : Job) (cause : Nat) (s : State) : State :=
  unitBad b j (jobUnits j) 3 0x0D cause (raise0 0x0504 2 (cause + j.block % 2 ^ 40 * 2 ^ 8) s)

/-- Saturations and elements of a restore stream (R173). -/
def countDecoded (j : Job) (d : Bytes) (sat : Nat) (s : State) : State :=
  onCtx j.ctx (fun c => { c with sat := c.sat + sat, elems := c.elems + elemCount j.fmt d })
    { s with regs.xfSat := satAdd 0xFFFFFFFF s.regs.xfSat sat }

/-- What the decode of a unit has given. -/
def unitDecoded (b : Blk) (j : Job) (bad : Iset) (d : Decoded) (sat : Nat) (s : State) : State :=
  match d with
  | .damaged c => unitDamaged b j c s
  | .ok d =>
    let s := countDecoded j d sat s
    match j.forBlk with
    | some t => anchorDone t.1 d 0 0 (unitDone b s)
    | none => if bad.isEmpty then unitOut b j d [] s else unitOut b j (mixBad s.time.free bad d) bad (drawn s)

/-- The encoded block that a unit's sectors hold; bytes that were not read are zero. -/
def jobInput (j : Job) (b : Blk) : Bytes := slice (zeros j.pre ++ slice (blkBytes b) j.off j.elen) 0 j.full

/-- The encoded bytes of a block that a bad sector of its unit holds: whole F blocks for codecs 2 and 3. -/
def badEncoded (j : Job) (i : Nat) : Nat × Nat :=
  let lo := j.pre + (4064 * i - j.off)
  let hi := min j.full (j.pre + (4064 * (i + 1) - j.off))
  if j.codec = 0 then (lo, hi)
  else let z := fSize j.codec j.fmt; (lo / z * z, min j.full (cdiv hi z * z))

/-- The decoded bytes that some encoded bytes give: of codec 0, or of whole F blocks. -/
def badDecoded (j : Job) (r : Nat × Nat) : Nat × Nat :=
  if j.codec = 0 then r
  else
    let z := fSize j.codec j.fmt
    let u := fun n => n * fGroup j.fmt
    (u (r.1 / z) / fmtBlocks j.fmt * fmtUnit j.fmt, min j.want (cdiv (u (cdiv r.2 z)) (fmtBlocks j.fmt) * fmtUnit j.fmt))

/-- Bytes with those of some ranges zero. -/
def blanked (rs : List (Nat × Nat)) (d : Bytes) : Bytes :=
  ((List.range d.length).zip d).map fun x => if rs.any fun r => decide (r.1 ≤ x.1) && decide (x.1 < r.2) then 0 else x.2

/-- The bad data of a unit's sectors, one by one: the sector's number, with MEDIA_CRC or a read error (R158, R159). -/
def sectorsBad (b : Blk) (j : Job) (s : State) : State :=
  each b.badUnits (fun u t =>
    let media := u % 8 == 3
    badData b.ctx [j.first + u / 8] (if media then 2 else 0) (if media then 0x0C else 0x0B) 0 t) s

/-- The bad sectors of a unit whose other bytes can be decoded flow on marked (R159): codecs 0, 2 and 3. -/
def decodeAround (b : Blk) (j : Job) (s : State) : State :=
  let s := sectorsBad b j s
  if (blk? s b.id).isNone then s else
  let enc := b.badUnits.map fun u => badEncoded j (u / 8)
  let bad := enc.foldl (fun (a : Iset) r => let d := badDecoded j r; if d.1 < d.2 then Iset.add a d.1 d.2 else a) []
  let anchor := b.anchor.map (·.1)
  let r := builtinDec j.codec j.fmt j.codetab anchor (blanked enc (jobInput j b)) j.full j.want
  unitDecoded b j bad r.1 r.2 s

/-- A unit with bad sectors (R158, R159). -/
def decodeBad (b : Blk) (j : Job) (s : State) : State :=
  if j.forBlk.isNone && j.codec != 255 && (j.codec == 0 || j.codec == 2 || j.codec == 3) && (anchorWorst b).isNone then
    decodeAround b j s
  else if j.forBlk.isSome then unitBad b j [] 0 (if b.bad = 3 then 0x0C else 0x0B) 0 s
  else
    let s := sectorsBad b j s
    if (blk? s b.id).isNone then s
    else if j.codec = 255 then unitDone b s
    else unitOut b j ((List.range j.want).map (Config.badByte s.time.free)) [(0, j.want)] (drawn s)

/-- One unit of a restore is decoded by a lane, or straight from staging on the light path. -/
def decStep (lane : Option Nat) (pass : Bool) (b : Blk) (j : Job) (s : State) : State :=
  if b.bad ≠ 0 then decodeBad b j s
  else if j.codec = 255 then unitDone b s
  else if (anchorWorst b).isSome then unitDamaged b j 8 s
  else if slotDiffers s j.codec j.decSlot j.prog then unitDamaged b j 7 s
  else
    let enc := jobInput j b
    let anchor := b.anchor.map fun a => slice a.1 0 j.want
    match lane with
    | none =>
      let r := builtinDec j.codec j.fmt j.codetab anchor enc j.full j.want
      unitDecoded b j [] r.1 r.2 s
    | some lane =>
      if j.codec = 4 then
        match recipeHead enc j.full j.want with
        | (.damaged c, _) => unitDamaged b j c s
        | (.ok d, none) => unitDecoded b j [] (.ok d) 0 s
        | (.ok _, some body) =>
          let l := invoke s j.decSlot body anchor j.stream j.epoch j.block j.fmt
          if l.trap = 0 then
            { setLane lane { l with blk := some b.id } s with dbg.lanes := s.dbg.lanes ++ [lane] }
          else
            let s := setLane lane l s
            unitDecoded b j [] (recipeDecoded l j.want) l.sat (if l.trap = 7 then s else recipeTrap l s)
      else if !pass then checkFailed b [lane] (unitDamaged b j 2) s
      else
        let r := builtinDec j.codec j.fmt j.codetab anchor enc j.full j.want
        unitDecoded b j [] r.1 r.2 (chargeLanes b s)

/-- A lane that was halted in a decode has ended (R188, R389). -/
def decResume (lane : Nat) (s : State) : State :=
  match Tab.get? s.str.lanes lane with
  | none => s
  | some l =>
    if l.trap = 0 then s else
    let s := setLane lane { l with blk := none } { s with dbg.lanes := s.dbg.lanes.filter (· != lane) }
    match l.blk.bind (blk? s) with
    | none => s
    | some b =>
      match b.kind with
      | .dec j => unitDecoded b j [] (recipeDecoded l j.want) l.sat (if l.trap = 7 then s else recipeTrap l s)
      | _ => s

/-- Units on the light path whose sectors are all at hand (R150). -/
def lightUnits (s : State) : State :=
  each (s.str.blocks.filter fun b => isLight s b && blkWhole b) (fun b t =>
    match b.kind with
    | .dec j => decStep none true b j t
    | _ => t) s

/-- The chain of the command that a context belongs to, from the sectors that it has read. -/
def ctxChain (s : State) (c : Ctx) : Option (List SealRec × Nat) :=
  (cmd? s c.q c.seq).bind fun m =>
    let launch := itemOp m.item == 0x49
    let vid := if launch then ((gen? s (fld m.item 8 2) m.gen).map fun g => hVault g.bytes).getD 0 else fld m.item 8 4
    (vault? s vid).bind fun v => (vaultLayout s v c.known).bind fun lay =>
      match sealsOf 4097 s c.known vid v lay (fld m.item 12 4) with
      | .inr rs => some (rs, vid)
      | .inl _ => none

/-- The unit that holds the anchor's block of a unit with DELTA in effect (R286 item 6); DETAIL 8 when there is none. -/
def restoreAnchor (s : State) (b : Blk) (j : Job) : Job ⊕ (Nat × Nat) :=
  let c := Tab.get? s.str.ctxs j.ctx
  let known := (c.map (·.known)).getD []
  match c.bind (ctxChain s) with
  | none => .inr (0x0D, 8)
  | some (rs, vid) =>
    match linksOf s known j.stream rs with
    | .error _ => .inr (0x0C, 0)
    | .ok links =>
      match (links.find? fun l => l.r.epoch == j.epoch).bind fun l => links.find? fun a => a.r.epoch == ihAnchor l.h with
      | none => .inr (0x0D, 8)
      | some a =>
        match indexEntry s known a.r a.ir a.h j.block with
        | none => .inr (0x0C, 0)
        | some none => .inr (0x0D, 8)
        | some (some (off, elen)) =>
          .inl { ingotUnit a.r a.ir a.h j.ctx vid j.block off elen (ihBytes a.h) (0, elen) with
            forBlk := some (b.id, b.next), delta := false }

/-- Anchors of units that wait for them. -/
def unitAnchors (s : State) : State :=
  each (s.str.blocks.filter (wantsAnchor s)) (fun b t =>
    match b.kind with
    | .dec j => getAnchor b (restoreAnchor t b j) t
    | _ => t) s

/-! ### Index pages (R153, R154) -/

/-- Pages of an index stream that have been taken, in list order: those issued that are neither outstanding nor waiting. -/
def pagesTaken (s : State) (ctx : Nat) (c : Ctx) : Nat :=
  let out := (s.out.hb.filter fun r => match r.kind with
    | .ixPage k _ => k == ctx
    | _ => false).length
  cdiv c.cursor 512 - out - c.asm.length

/-- The index stream stops at a position (R154): what it named before it is still restored. DEDUCED, log entry 107. -/
def indexStop (ctx q seq : Nat) (ev : Option Nat) (s : State) : State :=
  let s := match ev with
    | some d => raise0 0x0402 1 d s
    | none => s
  onCmd q seq (fun c => { c with instead := some (0x03, 40) })
    { s with
      str.ctxs := Tab.del s.str.ctxs ctx
      out.hb := s.out.hb.filter fun r => match r.kind with
        | .ixPage k _ => k != ctx
        | _ => true }

/-- INDEX_REJECT's DETAIL of a bad index (R161). -/
def indexBad (rows pos ix : Nat) : Option Nat :=
  if 2 ^ 40 ≤ ix then some (pos + 2 ^ 48) else if rows ≤ ix then some pos else none

/-- A row's piece is served: by a unit that was read for an earlier index and is still to be issued, in staging or at hand, else
by a unit of its own (R154). -/
def takeJob (j : Job) (s : State) : State :=
  if s.str.jobs.any (shares j) then { s with str.jobs := updWhere (shares j) (fun k => joined k j) s.str.jobs }
  else
    let same := fun (b : Blk) => match b.kind with
      | .dec k => shares j k
      | _ => false
    let join := fun (b : Blk) => match b.kind with
      | .dec k => { b with kind := .dec (joined k j) }
      | _ => b
    if s.str.blocks.any same then { s with str.blocks := updWhere same join s.str.blocks }
    else
      match ((Tab.get? s.str.ctxs j.ctx).map (·.recent)).getD [] |>.find? fun r => shares j r.1 with
      | some r =>
        deliver j r.2.1 r.2.2 (onCtx j.ctx (fun c => { c with
          recent := updWhere (fun x => shares j x.1) (fun x => (joined x.1 j, x.2)) c.recent }) s)
      | none => { s with str.jobs := s.str.jobs ++ [j] }

/-- The indices of a page become units of the data stream. -/
def pageJobs (ctx : Nat) (c : Ctx) (page : Nat) (data : Bytes) (s : State) : State :=
  match Tab.get? s.str.ctxs c.link, cmd? s c.q c.seq with
  | some d, some m =>
    match chainFor s d.known m.item with
    | .inl _ => indexStop ctx c.q c.seq none s
    | .inr links =>
      match links.head? with
      | none => s
      | some l =>
        let all := listRows data (data.length / 8)
        let good := (all.zip (List.range all.length)).takeWhile fun x => (indexBad (ihSize l.h) 0 x.1).isNone
        let size := max 1 (ihRow l.h)
        let o : Origin := { ctx := c.link, vault := fld m.item 8 4, buf := bufOf s m.item }
        let pieces := good.mapM fun x => rowPiece s d.known links size x.1 (x.1 * size) ((x.1 + 1) * size)
          (fld m.item 32 8 + x.1 * size) (512 * page + x.2)
        match pieces with
        | .error u => badData c.link [u] 2 0x0C 0 s
        | .ok ps =>
          if bufRefused s m.item links ps then
            onCmd c.q c.seq (fun x => { x with instead := some (0x03, 20) }) (indexStop ctx c.q c.seq none s)
          else
            match (cutPieces links ps).mapM (jobOf s d.known links o true) with
            | .error u => badData c.link [u] 2 0x0C 0 s
            | .ok js =>
              let next := 512 * page + all.length
              let s := onCtx c.link (fun x => { x with recent := x.recent.filter fun r => decide (next ≤ r.1.pos + 64) })
                (each js takeJob s)
              match (all.drop good.length).head? with
              | some ix => indexStop ctx c.q c.seq (indexBad (ihSize l.h) (512 * page + good.length) ix) s
              | none => s
  | _, _ => s

/-- Takes the pages that have arrived, in list order. -/
def takePages (fuel ctx : Nat) (s : State) : State :=
  match fuel with
  | 0 => s
  | k + 1 =>
    match Tab.get? s.str.ctxs ctx with
    | none => s
    | some c =>
      let page := pagesTaken s ctx c
      match Tab.get? c.asm page with
      | none => s
      | some p =>
        let s := onCtx ctx (fun x => { x with asm := Tab.del x.asm page }) s
        takePages k ctx (
          if c.epoch ≠ 0 then listPage ctx (if p.2 then none else some p.1) s
          else if p.2 then indexStop ctx c.q c.seq none s else pageJobs ctx c page p.1 s)

/-- An index page has arrived, or could not be read (R399). -/
def pageArrives (ctx page : Nat) (data : HostRead) (s : State) : State :=
  takePages 3 ctx (onCtx ctx (fun c => { c with asm := Tab.put c.asm page (data.getD [], data.isNone) }) s)

/-! ### The end of streams and of restores -/

/-- The digest check of the chunks that were read in full (R286): a mismatch makes the sectors of the chunk bad data. -/
def chunkCheck (ctx : Nat) (c : Ctx) (s : State) : State :=
  each c.chunks (fun k t =>
    let ds := (List.range k.count).map fun i => Tab.get? c.digests (k.first + i)
    if ds.any (·.isNone) ∨ (Tab.get? t.str.ctxs ctx).isNone then t
    else if chunkHallmark (keyBytes t (256 + k.hslot)) k.vid k.epoch k.stream k.chunk k.first (ds.map (·.getD [])) = k.hm then t
    else badData ctx ((List.range k.count).map (k.first + ·)) 2 0x0C 1 (raise0 0x0902 2 (k.stream + 2 ^ 32 * k.chunk) t)) s

/-- A stream of a restore with nothing left to read or decode. -/
def streamOver (s : State) (ctx : Nat) (c : Ctx) : Bool :=
  !(s.str.jobs.any fun j => j.ctx == ctx) && !(s.str.blocks.any fun b => b.ctx == ctx) &&
    (if c.kind = 2 then c.remain == 0 && c.asm.isEmpty && !(s.out.hb.any fun r => match r.kind with
        | .ixPage k _ => k == ctx
        | _ => false)
      else !(c.linked && (Tab.get? s.str.ctxs c.link).isSome))

/-- The chain of a HARVEST stream of PLAN_LAUNCH. -/
def chainOfCtx (s : State) (c : Ctx) : Option Nat :=
  (cmd? s c.q c.seq).bind fun m =>
    if itemOp m.item ≠ 0x49 then none else
    (gen? s (fld m.item 8 2) m.gen).bind fun g =>
      let en := entryAt g.bytes c.entry
      if eKind en = 3 then some (eSel en) else none

/-- The ingot stream that a context of a restore reads. -/
def ctxStream (c : Ctx) : Nat := ((c.chunks.head?).map (·.stream)).getD 0

/-- Ends one stream of a restore: it is DONE and its context free (R139); the bytes of a HARVEST entry are kept for the push. -/
def endRestoreCtx (ctx : Nat) (c : Ctx) (s : State) : State :=
  let s := checkThresholds (ctxStream c) c.sat 0 c.elems (chunkCheck ctx c s)
  let bytes := fun (n : Nat) => [(c.q, c.seq, n, (Tab.vals c.asm).flatMap (·.1))]
  { s with
    str.ctxs := Tab.del s.str.ctxs ctx
    str.harvest := s.str.harvest ++ ((chainOfCtx s c).map bytes).getD [] }

/-- The contexts of a command's restore streams. -/
def ctxsOfCmd (s : State) (q seq : Nat) : List (Nat × Ctx) :=
  s.str.ctxs.filter fun c => c.2.q == q && c.2.seq == seq && c.2.epoch == 0

/-- Streams of a command that have not started take a context each, in order, at most 32 running at once (R137, R139). -/
def startWaiting (fuel q seq : Nat) (s : State) : State :=
  match fuel with
  | 0 => s
  | k + 1 =>
    let running := ((ctxsOfCmd s q seq).filter fun c => c.2.state != 5).length
    match s.str.starts.find? fun x => x.1.q == q && x.1.seq == seq with
    | none => s
    | some x =>
      if 32 ≤ running then s
      else if ctxFree s = 0 then contextWait q seq s
      else
        let r := newCtx { x.1 with state := creditState s x.1 } { s with str.starts := s.str.starts.erase x }
        startWaiting k q seq { r.2 with str.jobs := r.2.str.jobs ++ x.2.map fun j => { j with ctx := r.1 } }

/-- What a command has to push, and what others have. -/
def toPush (s : State) (q seq : Nat) : List (Nat × Nat × Nat × Bytes) × List (Nat × Nat × Nat × Bytes) :=
  s.str.harvest.partition fun h => h.1 == q && h.2.1 == seq

/-- HOLD for the push of a command's chains, all in parallel (R289, R337). -/
def startPush (q seq : Nat) (s : State) : State :=
  let p := toPush s q seq
  let chain := fun (d : Bytes) => ({ beats := chunks (d.length / 32 + 1) 32 d } : Chain)
  { s with
    str.harvest := p.2
    cap.cut := {
      st := .holdReq, owner := some (q, seq), chains := p.1.foldl (fun t h => Tab.put t h.2.2.1 (chain h.2.2.2)) [] } }

/-- Ends a restore whose streams are over and whose writes are acknowledged. -/
def endRestore (c : Cmd) (s : State) : State :=
  let writing := s.out.fab.any fun r => r.kind == .dest c.q c.seq
  if (ctxsOfCmd s c.q c.seq).any (fun x => x.2.state != 5) ∨ writing ∨ (s.str.starts.any fun x => x.1.q == c.q && x.1.seq == c.seq) then s
  else if !(toPush s c.q c.seq).1.isEmpty then (if s.cap.cut.st = .none then startPush c.q c.seq s else s)
  else if s.cap.cut.owner = some (c.q, c.seq) then s
  else
    match c.instead with
    | some e => finish c.q c.seq e.1 e.2 s
    | none => finish c.q c.seq c.bad c.badDetail s

/-- Commands that restore. -/
def restoring (s : State) : List Cmd :=
  s.ldg.cmds.filter fun c => (itemOp c.item == 0x44 || itemOp c.item == 0x45 || itemOp c.item == 0x49) &&
    c.st == .started && c.ran

/-- Streams of a command that have nothing left to do end: index streams first, then those that they drive. -/
def endStreamsOf (q seq : Nat) (s : State) : State :=
  let runs := fun (x : Nat × Ctx) => x.2.state != 5
  let s := each ((ctxsOfCmd s q seq).filter fun x => runs x && x.2.kind == 2) (fun x t =>
    if streamOver t x.1 x.2 then { t with str.ctxs := Tab.del t.str.ctxs x.1 } else t) s
  each ((ctxsOfCmd s q seq).filter fun x => runs x && x.2.kind != 2) (fun x t =>
    if streamOver t x.1 x.2 then endRestoreCtx x.1 x.2 t else t) s

/-- After anything about the restores has moved. -/
def settleRestores (s : State) : State :=
  each (restoring s) (fun c t =>
    let t := startWaiting 4097 c.q c.seq (endStreamsOf c.q c.seq t)
    match cmd? t c.q c.seq with
    | some c => if c.st = .started then endRestore c t else t
    | none => t) (lightUnits { s with
      str.harvest := s.str.harvest.filter fun h => (cmd? s h.1 h.2.1).any fun c => c.st == .started })

/-- After anything has moved: the epoch, the restores, the anchors of their units. -/
def settleEverything (s : State) : State := unitAnchors (settleRestores (settleAll s))

/-- A chain of PLAN_LAUNCH has answered its push (R337): push_err is bad data (R158). -/
def pushAnswered (c : Nat) (bad : Bool) (s : State) : State :=
  if s.cap.cut.st ≠ .push then s else
  match Tab.get? s.cap.cut.chains c, s.cap.cut.owner with
  | some ch, some (q, seq) =>
    if ch.done then s else
    let s := onChain c (fun x => { x with done := true, bad }) s
    let s := if bad then badAt 131072 q seq 0 [c] 0 0x0B 0 s else s
    if s.cap.cut.chains.all (fun x => x.2.done) then settleEverything { s with cap.cut := {} } else s
  | _, _ => s

def execHarvestPushOk (c : Nat) (s : State) : Host.Outcome State Fault Refusal :=
  .next (when (up s) (pushAnswered c false) s)

def execHarvestPushErr (c : Nat) (s : State) : Host.Outcome State Fault Refusal :=
  .next (when (up s) (pushAnswered c true) s)

end Sys2Proof.Machine
end

