-- ==== Sys2Proof/Machine/Checks.lean ====
section
/-! DEFINITION. DIGEST (R97, R137, R198, R204) and CHECKVALUE (R97, R124 to R126, R137, R225, R226): one source stream each, which
reads fabric memory, vault sectors or rows; the result is a host-bridge write whose acknowledgement ends the command
(R72, R399). -/

namespace Sys2Proof.Machine

/-- The result of a command leaves in the class of its streams. -/
def sendResult (c : Cmd) (addr tdid off : Nat) (d : Bytes) (s : State) : State :=
  hbReq (.result c.q c.seq off) true addr tdid d.length d (cmdClass s c) 0 none s

/-! ### DIGEST -/

/-- A buffer that a DIGEST may read is longer than the message: a buffer not held or foreign is answered by R84. The fields of the
other sources must be 0: that R97 gives them no meaning there is the model's reading (DESIGN CHOICE, log entry 134). -/
def digestBad (c : Cmd) (s : State) : List (Nat × Bool) :=
  let b := c.item
  let src := fld b 8 1
  let n := fld b 24 8
  let v := vault? s (fld b 12 4)
  let short := (bufCheck s c.q (fld b 10 2) (fld b 12 4)).isNone &&
    (Tab.get? s.adm.grants (fld b 10 2)).any fun g => decide (g.len < n)
  [(8, decide (2 < src)),
   (9, fld b 9 1 != 0xFF && decide (63 < fld b 9 1)),
   (10, src != 1 && fld b 10 2 != 0),
   (12, (src == 0 && v.isNone) || (src == 2 && fld b 12 4 != 0)),
   (24, if src = 2 then n == 0 || decide (2 ^ 40 < n)
     else n % 4096 != 0 || (src == 0 && v.any fun v => decide (vSectors v < fld b 16 8 + n / 4096)) || (src == 1 && short))]

/-- The digest of a message under HMAC_SLOT. -/
def digestOf (s : State) (slot : Nat) (m : Bytes) : Bytes :=
  if slot = 0xFF then sha256 m else hmac (keyBytes s (256 + slot)) m

/-- KEY_ABSENT DETAIL of HMAC_SLOT. -/
def digestKey (s : State) (b : Bytes) : Option Nat := if fld b 9 1 = 0xFF then none else keyBad s (256 + fld b 9 1) 3 none

/-- The vault ID under which the sectors of a DIGEST are checked (R198): the one recorded for the vault (R197); for a staging buffer
the manual names none, so it is a free value (DESIGN CHOICE, log entry 9). -/
def digestVid (b : Bytes) (s : State) : Nat × State :=
  if fld b 8 1 = 0 then (((vault? s (fld b 12 4)).bind (·.vid)).getD (fld b 12 4), s)
  else let f := free s; (f.1.toNat % 2 ^ 32, f.2)

/-- The units of sectors, taken whole as stored, that a DIGEST reads: at most 16 sectors each. -/
def digestJobs (c : Cmd) (ctx vid : Nat) (buf : Option (Nat × Nat)) : List Job :=
  let b := c.item
  let n := fld b 24 8 / 4096
  (List.range (cdiv n 16)).map fun k =>
    let first := fld b 16 8 + 16 * k
    let count := min 16 (n - 16 * k)
    { ctx, vault := fld b 12 4, epoch := 0, stream := 0, block := k, first, count, off := 0, elen := 4096 * count
      want := 4096 * count, full := 4096 * count, vid, isector := 16 * k, places := (List.range count).map (first + ·)
      buf, codec := rawCodec, fmt := 0, dest := [] }

/-- The stream of a DIGEST: a vault read of sectors, or a range source of fabric memory (R137). -/
def startDigest (c : Cmd) (s : State) : State :=
  let b := c.item
  let keys := if fld b 9 1 = 0xFF then [] else [256 + fld b 9 1]
  if fld b 8 1 = 2 then
    (newCtx { streamCtx s c.q c.seq 0 (cmdClass s c) with cursor := fld b 16 8, remain := fld b 24 8, keys } s).2
  else
    let v := digestVid b s
    let s := v.2
    let buf := if fld b 8 1 = 1 then (Tab.get? s.adm.grants (fld b 10 2)).map fun g => (g.base, g.tdid) else none
    let r := newCtx { streamCtx s c.q c.seq 4 (cmdClass s c) with
      cursor := fld b 16 8, remain := fld b 24 8, keys
      fenceGen := if buf.isSome then 0 else vaultGen s (fld b 12 4) } s
    { r.2 with str.jobs := r.2.str.jobs ++ digestJobs c r.1 v.1 buf }

/-- One descriptor of a DIGEST of fabric memory: the next 64 KiB (R140, R149). -/
def rawStep (mover ctx : Nat) (c : Ctx) (s : State) : State :=
  if c.remain = 0 ∨ !windowOpen s ctx c then s else
  match cmd? s c.q c.seq with
  | none => s
  | some m =>
    let n := min 65536 c.remain
    let id := s.str.nextBlk
    let b : Blk := { id := 0, ctx, kind := .raw ((c.cursor - fld m.item 16 8) / 65536), need := n, base := c.cursor
                     lane := freeLane s [] }
    issueReads 18 id mover c.cls (newBlk b false
      (onCtx ctx (fun x => { x with cursor := c.cursor + n, remain := c.remain - n }) s))

/-- A part of the message is at hand: the digest core takes it. -/
def messagePart (b : Blk) (part : Nat) (s : State) : State :=
  let d := blkBytes b
  onCtx b.ctx (fun c => { c with asm := Tab.put c.asm part (d, b.bad != 0) }) (noteDrain b.ctx d.length (dropBlk b.id s))

/-- Sectors of a DIGEST are at hand; bad ones are charged first (R158, R159). -/
def sectorsPart (b : Blk) (j : Job) (s : State) : State :=
  let s := sectorsBad b j s
  if (blk? s b.id).isSome then messagePart b j.block (onCtx b.ctx (fun c => { c with remain := c.remain - 4096 * j.count }) s) else s

/-! ### CHECKVALUE -/

/-- The current generation's entry that a CHECKVALUE names. -/
def cvEntry (c : Cmd) (s : State) : Option Bytes :=
  (current? s (fld c.item 8 2)).bind fun g =>
    if fld c.item 12 4 < entryCount g.bytes then some (entryAt g.bytes (fld c.item 12 4)) else none

def checkvalueBad (c : Cmd) (s : State) : List (Nat × Bool) :=
  let b := c.item
  let ok := (cvEntry c s).any fun e => eKind e == 2 && eCheck e
  let n := ((cvEntry c s).map eSize).getD 0
  [(8, (current? s (fld b 8 2)).isNone), (12, (current? s (fld b 8 2)).isSome && !ok),
   (16, ok && decide (n ≤ fld b 16 8)),
   (24, fld b 24 8 == 0 || (ok && decide (n < fld b 16 8 + fld b 24 8))),
   (32, decide (1 < fld b 32 1))]

/-- The stream of a CHECKVALUE; `lo` is the region of its table. Its entry stays the one that was current when it started. -/
def checkvalue (c : Cmd) (s : State) : State :=
  match cvEntry c s with
  | none => s
  | some e =>
    let t := eTrack e
    let s := openTable (fld c.item 8 2) (fld c.item 12 4) e s
    (newCtx { streamCtx s c.q c.seq 1 (cmdClass s c) with
      entry := fld c.item 12 4, cursor := itemAddr e (fld c.item 16 8), remain := fld c.item 24 8 * eRow e, lo := t
      known := [(0, e)] } s).2

/-- The entry of a CHECKVALUE's stream. -/
def cvEntryOf (c : Ctx) : Bytes := (Tab.get? c.known 0).getD (zeros 64)

/-- MODE 1. -/
def cvRefresh (s : State) (c : Ctx) : Bool := (cmd? s c.q c.seq).any fun m => fld m.item 32 1 == 1

/-- What a row of a CHECKVALUE is compared with once its group has been touched: nothing when its value is refreshed or it is STALE
(R226; DEDUCED, log entry 42); `none` while the tracker does not hold what this takes. -/
def cvBase (s : State) (c : Ctx) (row : Nat) : Option (Option Nat) :=
  match touched? s c.lo (row / 128) with
  | none => none
  | some g =>
    if !(opsOf s c.lo (row / 128)).isEmpty then none
    else if cvRefresh s c || g.stale.getLsbD (row % 128) then some none
    else (cvAt s c.lo row).map some

/-- A row that is not read: MODE 0 of a STALE row, which has no check value to verify. -/
def cvSkips (s : State) (c : Ctx) (row : Nat) : Bool := !cvRefresh s c && cvBase s c row == some none

/-- Asks the tracker for what `cvBase` lacks. -/
def cvAsk (c : Ctx) (row : Nat) (s : State) : State :=
  match touched? s c.lo (row / 128) with
  | none => fetchGroup c.lo (row / 128) s
  | some _ => if (opsOf s c.lo (row / 128)).isEmpty then fetchCv c.lo row s else s

/-- A group is touched by a CHECKVALUE: the cut is applied to it (R124). -/
def cvTouch (c : Ctx) (row : Nat) (s : State) : State :=
  if (opsOf s c.lo (row / 128)).isEmpty then groupOp (touchOf c.lo (row / 128)) s else s

/-- One descriptor of a CHECKVALUE: its next row is read (R140, R150). -/
def cvStep (fuel mover ctx : Nat) (c : Ctx) (s : State) : State :=
  match fuel with
  | 0 => s
  | k + 1 =>
    let e := cvEntryOf c
    let row := (c.cursor - eAddr e) / max 1 (eRow e)
    if c.remain = 0 then s else
    let s := if (touched? s c.lo (row / 128)).isSome then cvTouch c row s else s
    let next := { c with cursor := c.cursor + eRow e, remain := c.remain - eRow e }
    let skip := onCtx ctx fun x => { x with cursor := next.cursor, remain := next.remain }
    match cvBase s c row with
    | none => cvAsk c row s
    | some cv =>
      if cvSkips s c row then cvStep k mover ctx next (skip s)
      else if !rowRoom s mover ctx c e then s
      else
        let id := s.str.nextBlk
        let b : Blk := { id := 0, ctx, kind := .cvRow row, need := eRow e, base := c.cursor, cv
                         lane := if eRow e ≤ 512 then none else freeLane s [] }
        issueReads 3 id mover c.cls (newBlk b false (skip s))

/-- A row that a write has overtaken is read again, against the value that it has then. -/
def cvAgain (mover : Nat) (b : Blk) (c : Ctx) (row : Nat) (s : State) : State :=
  if b.issued ≠ 0 then issueReads 3 b.id mover c.cls s else
  match cvBase s c row with
  | none => cvAsk c row s
  | some cv => if cvSkips s c row then dropBlk b.id s else
      issueReads 3 b.id mover c.cls (onBlk b.id (fun x => { x with cv }) s)

/-- Rows checked, mismatches, first mismatching row. -/
def cvCounts (m : Cmd) : Nat × Nat × Nat :=
  match m.items with
  | (n, bad) :: (first, _) :: _ => (n, bad, first)
  | _ => (0, 0, 0)

/-- A row of a CHECKVALUE is at hand: verified, or its check value stored and STALE cleared (R97, R226). -/
def cvArrived (b : Blk) (row : Nat) (s : State) : State :=
  match Tab.get? s.str.ctxs b.ctx with
  | none => dropBlk b.id s
  | some c =>
    if b.tries = 1 then onBlk b.id (fun x => { x with tries := 0, issued := 0, passed := 0, parts := [], cv := none, bad := 0 }) s
    else
      let d := blkBytes b
      let s := noteDrain b.ctx d.length (dropBlk b.id s)
      if b.bad ≠ 0 then s
      else
        let v := rowCv (eFormat (cvEntryOf c)) d
        let wrong := b.cv.any (· != v)
        let count := fun (m : Cmd) =>
          let n := cvCounts m
          { m with items := [(n.1 + 1, n.2.1 + b2n wrong), (if wrong && n.2.1 == 0 then row else n.2.2, 0)] }
        let s := onCmd c.q c.seq count s
        if cvRefresh s c then
          groupOp { region := c.lo, group := row / 128, fresh := 2 ^ (row % 128), vals := [(row, v)] } s
        else s

/-! ### The end of a check -/

/-- Parts of messages and rows whose data is at hand. -/
def takeParts (s : State) : State :=
  each (s.str.blocks.filter blkWhole) (fun b t =>
    match b.kind with
    | .raw part => messagePart b part t
    | .dec j => if j.codec = rawCodec then sectorsPart b j t else t
    | .cvRow row => cvArrived b row t
    | _ => t) s

/-- The result of a DIGEST or CHECKVALUE whose stream is over leaves, and its context is free. -/
def checkOver (ctx : Nat) (c : Ctx) (m : Cmd) (s : State) : State :=
  let b := m.item
  let s := { s with str.ctxs := Tab.del s.str.ctxs ctx }
  if itemOp b = 0x47 then
    let n := cvCounts m
    sendResult m (fld b 40 8) (fld b 48 2) 40 (toLE 8 n.1 ++ toLE 4 n.2.1 ++ toLE 4 n.2.2) s
  else
    match digestKey s b with
    | some d => finish c.q c.seq 0x0E d s
    | none => sendResult m (fld b 32 8) (fld b 40 2) 32 (digestOf s (fld b 9 1) ((Tab.vals c.asm).flatMap (·.1))) s

/-- After anything about a DIGEST or CHECKVALUE has moved. -/
def settleChecks (s : State) : State :=
  let s := takeParts s
  each (s.str.ctxs.filter fun c => c.2.epoch == 0 && c.2.state != 5) (fun c t =>
    match Tab.get? t.str.ctxs c.1, cmd? t c.2.q c.2.seq with
    | some x, some m =>
      if (itemOp m.item == 0x46 || itemOp m.item == 0x47) && m.st == .started && x.remain == 0 && streamOver t c.1 x then
        checkOver c.1 x m t
      else t
    | _, _ => t) s

def settleChecked (s : State) : State := settleChecks (settleEverything s)

/-- DIGEST (R84, R104, R206, R258). FENCED is no status of a DIGEST (R104): a peer that fenced this device is one that cannot be
reached (DEDUCED, log entry 135). -/
def digest (c : Cmd) (s : State) : State :=
  let b := c.item
  let src := fld b 8 1
  let s := readKeys [256 + fld b 9 1] s
  let s := when (src == 1) (useGrant (fld b 10 2)) s
  let buf := if src = 1 then bufCheck s c.q (fld b 10 2) (fld b 12 4) else none
  let vb := src == 0 && (vault? s (fld b 12 4)).any fun v => (vaultBad s v).isSome
  match buf, digestKey s b with
  | some f, _ => bufFault c.q c.seq (fld b 10 2) (fld b 12 4) f s
  | none, some d => if vb then finish c.q c.seq 0x0F 1 s else finish c.q c.seq 0x0E d s
  | none, none => if vb then finish c.q c.seq 0x0F 1 s else settleChecked (startDigest c s)

/-- DIGEST (R72, R97). -/
def execDigest (q seq : Nat) (s : State) : Host.Outcome State Fault Refusal :=
  .next (waitCtx 0x46 1 q seq digestBad (runCmd 0x46 q seq digestBad digest) s)

/-- CHECKVALUE (R72, R97). -/
def execCheckvalue (q seq : Nat) (s : State) : Host.Outcome State Fault Refusal :=
  .next (waitCtx 0x47 1 q seq checkvalueBad (runCmd 0x47 q seq checkvalueBad checkvalue) s)

end Sys2Proof.Machine
end

