-- ==== Sys2Proof/Machine/Holds.lean ====
section
/-! DEFINITION. PLAN_LAUNCH (R89, R101, R137, R289); holds: HOLD_ACK and what follows it (R108, R110, R289); LANE_RETIRE with
the stop-copy of a hazard filter (R95, R135, R311). -/

namespace Sys2Proof.Machine

/-! ### PLAN_LAUNCH -/

/-- The first field of an entry in which an ingot differs from it (R289). -/
def entryDiffers (e : Bytes) (h : Option Bytes) : Option Nat :=
  match h with
  | none => some 24
  | some h => lowest (offsets [(0, ihKind h != eKind e), (1, ihCodec h != eCodec e), (2, ihFormat h != eFormat e),
      (16, ihSize h != eSize e), (28, ihRow h != eRow e)])

/-- What one entry of PLAN_LAUNCH restores: its context and its units. -/
def entryJobs (s : State) (sectors : Tab Bytes) (c : Cmd) (vid i : Nat) (e : Bytes) (rs : List SealRec) :
    RFail ⊕ (Ctx × List Job) :=
  match streamLinks s sectors rs (eStream e) with
  | .inl f => .inl f
  | .inr links =>
    match links.head? with
    | none => .inl (refusal 0x03 16)
    | some l =>
      let n := eBytes e
      let ps := if eKind e = 2 then tablePieces s sectors links (max 1 (eRow e)) 0 n (eAddr e)
        else rangePieces s sectors links l.h 0 n (eAddr e)
      let o : Origin := { ctx := 0, vault := vid, buf := none, chain := if eKind e = 3 then some (eSel e) else none }
      match ps.bind fun ps => jobsOf s sectors links o false ps with
      | .error u => .inl (refusal 0x0C 0 [] [u])
      | .ok js =>
        .inr ({ restoreCtx s c 4 vid sectors links with
            entry := i, lo := eAddr e, hi := eAddr e + n, dest := eAddr e, remain := n },
          js ++ links.flatMap fun l => readJobs o l js)

/-- The entries of a plan in the order of PLAN_LAUNCH: HARVEST entries last (R289). -/
def launchOrder (l : Bytes) : List (Nat × Bytes) :=
  (liveEntries l).filter (fun e => eKind e.2 != 3) ++ (liveEntries l).filter fun e => eKind e.2 == 3

/-- The streams of all entries, in order. -/
def allJobs (s : State) (sectors : Tab Bytes) (c : Cmd) (vid : Nat) (rs : List SealRec) :
    List (Nat × Bytes) → RFail ⊕ List (Ctx × List Job)
  | [] => .inr []
  | (i, e) :: rest =>
    match entryJobs s sectors c vid i e rs with
    | .inl f => .inl f
    | .inr x =>
      match allJobs s sectors c vid rs rest with
      | .inl f => .inl f
      | .inr l => .inr (x :: l)

/-- The first entry that its ingot does not match (R289). -/
def launchMismatch (s : State) (sectors : Tab Bytes) (r : SealRec) (l : Bytes) : Option (Nat × Nat) :=
  (liveEntries l).findSome? fun e =>
    match ingotRec r (eStream e.2) with
    | none => some (e.1, 24)
    | some ir =>
      match readIngot s sectors r ir with
      | none => none
      | some h => (entryDiffers e.2 (some h)).map fun o => (e.1, o)

/-- PLAN_LAUNCH once the generation is bound and its list is sound. -/
def launchRestore (g : Gen) (rd : LaunchReads) (v : Vault) (c : Cmd) (s : State) : State :=
  let q := c.q
  let seq := c.seq
  let vid := hVault g.bytes
  let s := readMeta v c.item none (cmdClass s c) [] rd.sectors s
  match layoutRead s v rd.sectors with
  | .inl x => failRestore q seq (layoutFail rd.sectors x.1 x.2) s
  | .inr lay =>
    match sealsOf 4097 s rd.sectors vid v lay (fld c.item 12 4) with
    | .inl f => failRestore q seq f s
    | .inr rs =>
      match rs.head? with
      | none => malformed q seq 12 s
      | some r =>
        match launchMismatch s rd.sectors r g.bytes with
        | some (i, o) => finish q seq 0x03 (128 + o) (planReject g.plan i o s)
        | none =>
          match allJobs s rd.sectors c vid rs (launchOrder g.bytes) with
          | .inl f => failRestore q seq f s
          | .inr l =>
            let s := journalArea vid lay r.vid s
            settleRestores { s with str.starts := s.str.starts ++ l }

/-- PLAN_LAUNCH (R72, R88, R89, R289). DEDUCED, log entry 109. -/
def planLaunch (rd : LaunchReads) (c : Cmd) (s : State) : State :=
  let q := c.q
  let seq := c.seq
  let plan := fld c.item 8 2
  let s := match gen? s plan c.gen with
    | some g => readCtl g.list g.tdid (64 * g.count) 1 s
    | none => s
  match gen? s plan c.gen, rd.list with
  | none, _ => malformed q seq 8 s
  | _, none => malformed q seq 0xFE s
  | some g, some l =>
    if crcN (slice l 0 g.bytes.length) ≠ g.crc then malformed q seq 0xFE s
    else if groupBad s g.bytes then malformed q seq 0xFD s
    else
      match planKeysBad s g.bytes, vault? s (hVault g.bytes) with
      | some d, _ => finish q seq 0x0E d s
      | none, none => malformed q seq 8 s
      | none, some v =>
        match vaultBad s v, prepEntryBad s plan g.bytes rd.headers with
        | some e, _ => finish q seq e.1 e.2 s
        | none, some (i, o) => finish q seq 0x03 (128 + o) (planReject plan i o s)
        | none, none => launchRestore g rd v c s

def planLaunchBad (c : Cmd) (s : State) : List (Nat × Bool) :=
  [(8, (current? s (fld c.item 8 2)).isNone && (gen? s (fld c.item 8 2) c.gen).isNone), (12, fld c.item 12 4 == 0)]

def execPlanLaunch (q seq : Nat) (rd : LaunchReads) (s : State) : Host.Outcome State Fault Refusal :=
  .next (runCmd 0x49 q seq planLaunchBad (planLaunch rd) s)

/-! ### LANE_RETIRE (R95, R135) -/

/-- Retires a channel for a LANE_RETIRE and ends it. -/
def laneRetireEnd (kind ix q seq : Nat) (s : State) : State :=
  settleChecked (finish q seq 0 0 (retire kind ix 0 s))

/-- Pending items of a window go first, to be read under HOLD. -/
def stopOrder (s : State) (x : Epoch) (n : Nat) : List CopyItem :=
  let parts := x.order.map (splitWindows s x [n])
  parts.flatMap (·.1) ++ parts.flatMap (·.2)

/-- The stop-copy of a filter that LANE_RETIRE names: starts once every chain is held. -/
def stopCopyStart (n : Nat) (s : State) : State :=
  match epoch? s s.cap.cut.epoch with
  | none => s
  | some x =>
    startStreams x.num (setOrder x.num (stopOrder s x n) { s with
      cap.cut := { s.cap.cut with st := .harvest, stopCopy := [n], copied := [] } })

/-- The stop-copy is over: HOLD is released and the filter retired. -/
def tryLaneStop (s : State) : State :=
  match s.cap.cut.st, s.cap.cut.owner with
  | .harvest, some (q, seq) =>
    let go := match epoch? s s.cap.cut.epoch with
      | none => true
      | some x => x.phase != 2 || stopCopied s x
    if go then
      let n := s.cap.cut.stopCopy.headD 0
      laneRetireEnd 8 n q seq (stopCopyEvents s.cap.cut { s with cap.cut := {} })
    else s
  | _, _ => s

/-- The targets of a CANCEL that have not ended, by queue and sequence number. -/
def stillOpen (s : State) (ts : List (Nat × Nat)) : List (Nat × Nat) :=
  ts.filter fun t => (cmd? s t.1 t.2).any fun x => x.st != .durable

/-- CANCEL completes once every target is COMPLETED-ready (R157). -/
def endCancels (s : State) : State :=
  each (s.ldg.cmds.filter fun c => itemOp c.item == 0x4A && c.st == .started && c.ran) (fun c t =>
    if (stillOpen t c.items).isEmpty then finish c.q c.seq 0 c.count t else t) s

/-- After anything has moved. -/
def settleAfter (s : State) : State := endCancels (tryLaneStop (settleChecked s))

def laneBad (c : Cmd) : List (Nat × Bool) :=
  let k := fld c.item 8 1
  let i := fld c.item 9 1
  [(8, decide (9 < k)), (9, decide (k ≤ 9) && decide (kindCount k ≤ i))]

/-- The last channel of its kind in service may not be retired (R95). -/
def lastOfKind (s : State) (k i : Nat) : Bool := !retired s k i && decide ((inService s k).length ≤ 1)

def laneRetireBad (c : Cmd) (s : State) : List (Nat × Bool) :=
  laneBad c ++ [(9, lastOfKind s (fld c.item 8 1) (fld c.item 9 1))]

/-- The LANE_RETURN that revalidates a channel ends RETIRED when the channel is retired (R103). -/
def endReturn (k i : Nat) (s : State) : State :=
  each (s.ldg.cmds.filter fun c => itemOp c.item == 0x0E && c.st == .started && fld c.item 8 1 == k && fld c.item 9 1 == i)
    (fun c => finish c.q c.seq 0x0F 0) s

/-- LANE_RETIRE: a filter with an epoch in CAPTURING is stop-copied first; a cut that is under way comes first. -/
def laneRetire (c : Cmd) (s : State) : State :=
  let k := fld c.item 8 1
  let i := fld c.item 9 1
  let s := endReturn k i s
  if retired s k i then finish c.q c.seq 0 0 s
  else
    match (if k = 8 then capEpoch s else none) with
    | none => laneRetireEnd k i c.q c.seq s
    | some x =>
      let chains := (chainsOf x.list).foldl (fun t n => Tab.put t n ({} : Chain)) []
      let s := { s with cap.cut := { st := .holdReq, epoch := x.num, chains, owner := some (c.q, c.seq), stopCopy := [i] } }
      if chains.isEmpty then settleAfter (stopCopyStart i s) else s

/-- A cut or a push under way holds the chains: LANE_RETIRE of a filter waits for its RELEASE. -/
def laneMayRun (c : Cmd) (s : State) : Bool := fld c.item 8 1 != 8 || s.cap.cut.st == .none

def execLaneRetire (q seq : Nat) (s : State) : Host.Outcome State Fault Refusal :=
  .next (match due 0x0D q seq s with
    | none => s
    | some c => if laneMayRun c s then runCmd 0x0D q seq laneRetireBad laneRetire s else s)

/-! ### HOLD_ACK (R110, R335) -/

/-- Every held chain has acknowledged: ARM for an epoch, the push for PLAN_LAUNCH (R337), the stop-copy for LANE_RETIRE. -/
def allHeld (s : State) : State :=
  match s.cap.cut.owner with
  | none =>
    match epoch? s s.cap.cut.epoch with
    | none => s
    | some x => arm x s
  | some (q, seq) =>
    if (cmd? s q seq).any fun c => itemOp c.item == 0x49 then
      { s with
        cap.cut.st := .push
        out.pushes := s.cap.cut.chains.foldl (fun t c => Tab.put t c.1 c.2.beats) s.out.pushes }
    else stopCopyStart (s.cap.cut.stopCopy.headD 0) s

/-- HOLD_ACK of one chain, level by level. -/
def holdAck (c : Nat) (s : State) : State :=
  if s.cap.cut.st ≠ .holdReq then s else
  match Tab.get? s.cap.cut.chains c with
  | none => s
  | some ch =>
    if ch.ack then s else
    let s := onChain c (fun x => { x with ack := true, done := s.cap.cut.owner.isSome && !s.cap.cut.stopCopy.isEmpty }) s
    if s.cap.cut.chains.all (fun x => x.2.ack) then settleAfter (allHeld s) else s

def execHoldAck (c : Nat) (s : State) : Host.Outcome State Fault Refusal :=
  .next (when (up s) (holdAck c) s)

end Sys2Proof.Machine
end

