-- ==== Sys2Proof/Machine/Commands.lean ====
section
/-! DEFINITION. COMMAND_START with its waits (R19 to R21, R74, R84, R89, R92, R97, R98, R100, R102, R103, R210, R377), BARRIER
(R100), CANCEL (R110, R130, R156, R157). -/

namespace Sys2Proof.Machine

/-! ### What a command may wait for -/

def earlier (s : State) (c : Cmd) : List Cmd := s.ldg.cmds.filter fun x => x.q == c.q && decide (x.seq < c.seq)

/-- Queue 0: one at a time, beside maintenance commands that hold the token (R74). -/
def adminTurn (s : State) (c : Cmd) : Bool :=
  (earlier s c).all fun x => x.st == .durable || (x.st == .started && x.maint && itemOp c.item != 0x0C)

/-- The buffer that a work command names (R97). -/
def bufNamed (b : Bytes) : Option (Nat × Nat) :=
  if (itemOp b = 0x44 ∨ itemOp b = 0x45) ∧ srcBuf b then some (fld b 22 2, fld b 24 4)
  else if itemOp b = 0x46 ∧ fld b 8 1 = 1 then some (fld b 10 2, fld b 12 4)
  else if itemOp b = 6 then some (fld b 8 2, fld b 12 4)
  else none

/-- Queues 1 to 4095: in order, at most 64 between STARTED and COMPLETED, behind a BARRIER (R74, R100). -/
def workTurn (s : State) (c : Cmd) : Bool :=
  let e := earlier s c
  let going := s.ldg.cmds.filter fun x => x.q == c.q && x.st != .accepted
  (e.all fun x => x.st != .accepted) && decide (going.length < 64) &&
    !(e.any fun x => itemOp x.item == 0x48 && x.st != .durable)

/-- R84: a BUF_FREE waits for earlier commands of its queue that name the buffer. -/
def bufTurn (s : State) (c : Cmd) : Bool :=
  itemOp c.item != 6 || (earlier s c).all fun x =>
    x.st == .durable || (bufNamed x.item).map (·.1) != some (fld c.item 8 2)

/-- R63: a FLUSH waits while its target is being flushed. -/
def flushTurn (s : State) (c : Cmd) : Bool :=
  itemOp c.item != 0x4B || !((queue? s (fld c.item 8 2)).any fun x => x.flushBy.isSome)

/-- R19: EPOCH_OPENs that have started and not yet entered CUT count as in CUT; one that arrived while two epochs were unresolved
waits for the older of them. -/
def openTurn (s : State) (c : Cmd) : Bool :=
  let es := Tab.vals s.cap.epochs
  let due := (s.ldg.cmds.filter fun x => itemOp x.item == 0x40 && x.st == .started && !x.ran).length
  itemOp c.item != 0x40 ||
    (due == 0 && !(es.any fun e => decide (e.phase ≤ 2)) && decide ((es.filter unresolved).length < 2) &&
      !(es.any fun e => unresolved e && e.num == c.waitFor))

/-- R20, R72: a SEAL waits for the epochs before its own and for the end of its own DRAINING. -/
def sealTurn (s : State) (c : Cmd) : Bool :=
  let n := fld c.item 8 4
  itemOp c.item != 0x43 || (!((Tab.vals s.cap.epochs).any fun e => unresolved e && decide (e.num < n)) &&
    (epoch? s n).all fun e => decide (3 < e.phase) || drained e)

/-- The generation whose committed patch a launch is to apply before it starts. -/
def pendingOf (s : State) (c : Cmd) : Option (Gen × Bytes) :=
  if !isLaunch c.item || c.gen != 0 then none
  else (current? s (fld c.item 8 2)).bind fun g => g.pending.map fun r => (g, r)

/-- The list of a launch's plan is being written by another command: a PLAN_PATCH MODE 1, or another launch with the same
committed patch (DEDUCED, log entry 139). -/
def listBusy (s : State) (c : Cmd) : Bool :=
  isLaunch c.item && c.gen == 0 && s.adm.listWrites.any fun w => w.plan == fld c.item 8 2 && !(w.q == c.q && w.seq == c.seq) &&
    (cmd? s w.q w.seq).any fun x => x.st != .durable && (isLaunch x.item || fld x.item 10 1 == 1)

/-- R92: the launch that follows a committed pending patch waits for the launches of the generation that it changes. -/
def patchTurn (s : State) (c : Cmd) : Bool :=
  !listBusy s c && match pendingOf s c with
    | none => true
    | some (g, _) => !launched s g.plan g.num

/-- Key slots (256 added for HMAC slots) that a command is known to need before it reads anything (R210): those of the
generation that a launch binds or has bound, and that of a DIGEST. A seal record names its own (`awaitsKeys`). -/
def slotsNeeded (s : State) (c : Cmd) : List Nat :=
  let b := c.item
  let g := if c.gen = 0 then current? s (fld b 8 2) else gen? s (fld b 8 2) c.gen
  if isLaunch b then (g.map fun g => [hDataKey g.bytes, 256 + hHmac g.bytes]).getD []
  else if itemOp b = 0x46 ∧ fld b 9 1 ≠ 0xFF then [256 + fld b 9 1]
  else []

/-- R210: a command replayed after a cold reset waits until its slots hold the keys that the ledger records. -/
def keyTurn (s : State) (c : Cmd) : Bool := !c.keyWait || !((slotsNeeded s c).any (keyMissing s))

/-- R377: while a class S commit is pending no stream starts but those of an epoch under way. -/
def streamTurn (s : State) (c : Cmd) : Bool :=
  !(commitStream s && [0x44, 0x45, 0x46, 0x47, 0x49].contains (itemOp c.item))

/-- What every command needs to enter STARTED (R21, R305), its turn in its queue among it; none does between an acceptance
that a breakpoint names and its halt (R390). -/
def inTurn (s : State) (c : Cmd) : Bool :=
  c.st == .accepted && c.mirrored && !s.ldg.mirrorFault && served s c.q && s.regs.qctl.ready && s.ldg.replayDue == 0 &&
    !(s.dbg.hits.any fun b => (Tab.get? s.dbg.bps b).any fun p => p.kind == 1) &&
    (if c.q = 0 then adminTurn s c else workTurn s c)

/-- A command may enter STARTED. -/
def mayStart (s : State) (c : Cmd) : Bool :=
  inTurn s c && bufTurn s c && flushTurn s c && openTurn s c && sealTurn s c &&
    patchTurn s c && keyTurn s c && streamTurn s c

/-! ### The maintenance token (R102, R103) -/

/-- A key slot that a generation not freed names: loading it is a rotation (R96). -/
def slotOfLoad (b : Bytes) : Nat := if fld b 8 1 = 0 then fld b 9 1 else 256 + fld b 9 1

def namesSlot (g : Gen) (n : Nat) : Bool := hDataKey g.bytes == n || 256 + hHmac g.bytes == n

def rotation (s : State) (b : Bytes) : Bool :=
  (itemOp b == 0x0A || itemOp b == 0x0B) && (unfreed s).any fun g => namesSlot g (slotOfLoad b)

/-- Row of the overlap table of R103; none: no maintenance command. -/
def maintKind (s : State) (b : Bytes) : Option Nat :=
  if itemOp b = 0x0D then some 0
  else if itemOp b = 0x0E then some 1
  else if itemOp b = 0x13 then some 2
  else if rotation s b then some 3
  else if itemOp b = 0x12 then some 4
  else if itemOp b = 8 ∧ fld b 10 1 = 2 then some 5
  else none

/-- The overlap table of R103. -/
def overlapOk (a b : Nat) : Bool :=
  if a = 0 ∨ b = 0 then true
  else if a = b then false
  else [(1, 5), (5, 1), (2, 4), (4, 2), (2, 5), (5, 2), (4, 5), (5, 4)].contains (a, b)

/-- The row of a command that holds the token: a key load that holds it is a rotation, whatever its generation has become. -/
def heldKind (s : State) (b : Bytes) : Option Nat :=
  if itemOp b = 0x0A ∨ itemOp b = 0x0B then some 3 else maintKind s b

/-- Two LANE_RETIREs overlap only on different channels. -/
def tokenOk (s : State) (c x : Cmd) : Bool :=
  match maintKind s c.item, heldKind s x.item with
  | some a, some b => overlapOk a b && !(a == 0 && b == 0 && fld c.item 8 2 == fld x.item 8 2)
  | _, _ => true

/-- The first holder of the token that a maintenance command may not run beside. DEDUCED, log entry 108. -/
def tokenHolder (s : State) (c : Cmd) : Option Cmd :=
  if (maintKind s c.item).isNone then none else s.ldg.cmds.find? fun x => x.maint && x.st == .started && !tokenOk s c x

/-! ### COMMAND_START -/

/-- A command names an epoch (R156 MODE 1). -/
def namesEpoch (e : Nat) (x : Cmd) : Bool :=
  (itemOp x.item == 0x40 && (x.epoch == e || (x.st == .accepted && fld x.item 12 4 == e))) ||
    ([0x41, 0x42, 0x43].contains (itemOp x.item) && fld x.item 8 4 == e)

/-- The commands that a CANCEL targets: accepted, not DURABLE, neither CANCEL nor FLUSH. A BUF_FREE is no target: CANCELLED is
not among its statuses (R104; DEDUCED, log entry 137). -/
def cancelTargets (s : State) (c : Cmd) : List (Nat × Nat) :=
  let b := c.item
  (s.ldg.cmds.filter fun x => x.st != .durable && !([0x4A, 0x4B, 6].contains (itemOp x.item)) &&
    if fld b 10 1 = 1 then namesEpoch (fld b 12 4) x
    else x.q == fld b 8 2 && decide (fld b 16 8 ≤ x.seq) && decide (x.seq ≤ fld b 24 8)).map fun x => (x.q, x.seq)

/-- The generation that a launch binds when it starts: g + 1 when a pending patch is to be applied (R89, R92). -/
def bindGen (s : State) (c : Cmd) : Nat :=
  if c.gen ≠ 0 then c.gen
  else if !isLaunch c.item then 0
  else ((current? s (fld c.item 8 2)).map fun g => g.num + b2n g.pending.isSome).getD 0

/-- The lowest in-flight slot of a queue that no command between STARTED and COMPLETED holds (R74). -/
def freeInFlight (s : State) (q : Nat) : Nat :=
  ((List.range 64).find? fun i => !(s.ldg.cmds.any fun x => x.q == q && x.st != .accepted && x.slot == i)).getD 0

/-- The epoch that a command is bound to or names (R298), with the field that refuses an EPOCH_OPEN, plus 1. -/
def bindEpoch (s : State) (c : Cmd) : Nat × Nat :=
  if itemOp c.item = 0x40 then
    match bodyBad c.item (openBad c s) with
    | some off => (0, off + 1)
    | none => ((openNumber s c.item).getD 0, 0)
  else if itemOp c.item = 0x41 ∨ itemOp c.item = 0x42 ∨ itemOp c.item = 0x43 then (fld c.item 8 4, 0)
  else (0, 0)

/-- A launch that applies a committed patch: its list is written, and g + 1 takes over from g (R92). -/
def applyPending (c : Cmd) (s : State) : State :=
  match pendingOf s c, listWriteOf s c.q c.seq with
  | some (g, _), some w => dropListWrite c.q c.seq (advanceGen g w.bytes s)
  | _, _ => s

/-- A command enters STARTED: its record is appended, its epoch, generation and slot are bound (R89, R98, R298), a CANCEL's
targets are fixed (R156). -/
def startCmd (c : Cmd) (s : State) : State :=
  let e := bindEpoch s c
  let gen := bindGen s c
  let s := applyPending c s
  let slot := freeInFlight s c.q
  let holder := tokenHolder s c
  let targets := cancelTargets s c
  let maint := (maintKind s c.item).isSome && holder.isNone
  let s := onCmd c.q c.seq (fun x => { x with
    st := .started, since := s.time.act, epoch := e.1, badDetail := if e.2 = 0 then x.badDetail else e.2, gen, slot, maint
    items := if itemOp c.item = 0x4A then targets else x.items }) s
  let s := append 1 2 c.q c.seq (toLE 4 e.1 ++ toLE 4 gen ++ toLE 1 slot) false s
  let s : State := if itemOp c.item = 0x40 ∧ e.1 ≠ 0 then { s with ldg.highest := max s.ldg.highest e.1 } else s
  match holder with
  | some h => finish c.q c.seq 7 (itemOp h.item) s
  | none => s

/-- An item that is framed but invalid passes STARTED without an effect and ends MALFORMED (R21, R56; DEDUCED, log entry 60). -/
def startInvalid (c : Cmd) (off : Nat) (s : State) : State :=
  let slot := freeInFlight s c.q
  let s := onCmd c.q c.seq (fun x => { x with st := .started, since := s.time.act, slot }) s
  malformed c.q c.seq off (append 1 2 c.q c.seq (toLE 4 0 ++ toLE 4 0 ++ toLE 1 slot) false s)

/-- The offset at which an accepted item is invalid by its opcode, slot count or queue; R64 exempts the item that
ADMIN_FLUSH forms. -/
def cmdBad (c : Cmd) : Option Nat := if c.admin then none else itemBad c.q c.item

/-- A launch whose plan has a committed patch writes its records into the list first, and starts when the last write is
acknowledged; one that fails ends it MALFORMED 0xFE (R92, R399). -/
def startLaunch (c : Cmd) (s : State) : State :=
  match pendingOf s c with
  | none => startCmd c s
  | some (g, r) =>
    match (listWriteOf s c.q c.seq).map (·.st) with
    | none => writePending c.q c.seq g r s
    | some 0 => s
    | some 1 => startCmd c s
    | some _ => startInvalid c 0xFE (dropListWrite c.q c.seq s)

def commandStart (q seq : Nat) (s : State) : State :=
  match cmd? s q seq with
  | none => s
  | some c =>
    match cmdBad c with
    | some off => if inTurn s c then startInvalid c off s else s
    | none => if mayStart s c then startLaunch c s else s

/-- COMMAND_START. -/
def execCommandStart (q seq : Nat) (s : State) : Host.Outcome State Fault Refusal :=
  .next (when (runs s) (commandStart q seq) s)

/-! ### BARRIER (R100) -/

def barrierBad (c : Cmd) (s : State) : List (Nat × Bool) :=
  [(8, fld c.item 8 2 != 0xFFFF && (queue? s (fld c.item 8 2)).isNone)]

/-- What a BARRIER waits for has happened. -/
def barrierReady (s : State) (c : Cmd) : Bool :=
  ((earlier s c).all fun x => x.st == .durable) &&
    (fld c.item 8 2 == 0xFFFF || (queue? s (fld c.item 8 2)).any fun x => decide (fld c.item 16 8 ≤ x.completed))

def execBarrier (q seq : Nat) (s : State) : Host.Outcome State Fault Refusal :=
  .next (match due 0x48 q seq s with
    | none => s
    | some c =>
      if barrierReady s c || (bodyBad c.item (barrierBad c s)).isSome then
        runCmd 0x48 q seq barrierBad (fun c => finish c.q c.seq 0 0) s
      else s)

/-! ### CANCEL (R156, R157) -/

def cancelBad (c : Cmd) (s : State) : List (Nat × Bool) :=
  let b := c.item
  let m := fld b 10 1
  let tq := fld b 8 2
  [(8, if m = 1 then tq != 0xFFFF else tq == 0 || (queue? s tq).isNone),
   (10, decide (1 < m)),
   (12, m == 1 && !((epoch? s (fld b 12 4)).any unresolved)),
   (16, m == 0 && decide (fld b 24 8 < fld b 16 8))]

/-- CANCEL reaches an epoch (R110, R130, R157): in ARM or HARVEST it waits for RELEASE; a seal header issued stands. -/
def cancelTheEpoch (e : Nat) (s : State) : State :=
  match epoch? s e with
  | none => s
  | some x =>
    if !unresolved x then s
    else if x.phase = 4 ∧ x.sealIssued then s
    else if x.phase = 1 ∧ s.cap.cut.epoch = e ∧ s.cap.cut.st = .harvest then { s with cap.cut.cancel := true }
    else cancelEpoch e s

/-- A staged source block that a cancelled CAPTURE or ROW_CAPTURE leaves to the epoch: a request of it has passed the filter, so
that its item is no longer protected (DEDUCED, log entry 43). -/
def mustKeep (s : State) (b : Blk) : Bool :=
  match b.kind with
  | .enc e entry _ => decide (0 < b.passed) || b.passant || (epoch? s e).any fun x => eKind (entryAt x.list entry) == 2
  | .row .. => decide (0 < b.passed)
  | _ => false

/-- The blocks of a stream up to the last that must be kept: the order of the stream stands. -/
def keptBlocks (s : State) (ctx : Nat) : List Nat :=
  let mine := s.str.blocks.filter fun b => b.ctx == ctx && match b.kind with
    | .dec _ => false
    | _ => true
  ((mine.reverse.dropWhile fun b => !mustKeep s b).reverse).map (·.id)

/-- The item of a source block that is given up. -/
def blkItem (b : Blk) : Option CopyItem :=
  match b.kind with
  | .enc _ entry k | .row _ entry k => some { entry, first := k, count := 1 }
  | _ => none

/-- The block belongs to those kept: it is one, or it reads the anchor of one. -/
def isKept (kept : List Nat) (b : Blk) : Bool :=
  kept.contains b.id || match b.kind with
    | .dec j => j.forBlk.any fun f => kept.contains f.1
    | _ => false

/-- Blocks and their requests pass from one stream to another. -/
def handBlocks (ids : List Nat) (ctx : Nat) (s : State) : State :=
  let move := fun (b : Blk) =>
    let b := { b with ctx }
    match b.kind with
    | .dec j => { b with kind := .dec { j with ctx } }
    | _ => b
  { s with
    str.blocks := updWhere (fun b => ids.contains b.id) move s.str.blocks
    out.fab := updWhere (fun r => match r.kind with
      | .source id _ => ids.contains id
      | _ => false) (fun r => { r with ctx := some ctx }) s.out.fab
    out.hb := updWhere (fun r => match r.kind with
      | .vread id _ => ids.contains id
      | _ => false) (fun r => { r with ctx := some ctx }) s.out.hb }

/-- The stream of the launch that takes over from a cancelled command, and the state with it. -/
def heir (x : Epoch) (c : Ctx) (s : State) : Option Nat × State :=
  match s.str.ctxs.find? fun k => k.2.epoch == x.num && k.2.entry == c.entry && isSource k.2 && k.2.state != 5 && ofLaunch x k.2 with
  | some k => (some k.1, s)
  | none =>
    if ctxRoom s x.num then
      let r := newCtx (sourceCtx s x x.q x.seq c.entry (if eKind (entryAt x.list c.entry) = 2 then 1 else 0)) s
      (some r.1, r.2)
    else (none, s)

/-- The stream of a cancelled CAPTURE or ROW_CAPTURE leaves what the epoch still needs to the launch: blocks that must be kept,
the items of the others. Without a context for an heir the stream itself passes to the launch. -/
def bequeath (ctx : Nat) (c : Ctx) (s : State) : State :=
  match epoch? s c.epoch with
  | none => s
  | some x =>
    let kept := keptBlocks s ctx
    let given := s.str.blocks.filter fun b => b.ctx == ctx && !isKept kept b
    let s := setOrder x.num (given.filterMap blkItem ++ x.order) s
    if kept = [] then s else
    match heir x c s with
    | (some k, s) => handBlocks ((s.str.blocks.filter fun b => b.ctx == ctx && isKept kept b).map (·.id)) k s
    | (none, s) =>
      onCtx ctx (fun y => { y with q := x.q, seq := x.seq, slot := ((cmd? s x.q x.seq).map (·.slot)).getD 0 })
        { s with str.blocks := s.str.blocks.filter fun b => b.ctx != ctx || isKept kept b }

/-- A CAPTURE or ROW_CAPTURE is cancelled: its streams stop; what it named stays in the epoch, whose launch reads it (R25, R137,
R157). -/
def stopCapture (q seq : Nat) (s : State) : State :=
  let mine := fun (c : Ctx) => c.q == q && c.seq == seq && c.epoch != 0
  let s := each (s.str.ctxs.filter fun k => mine k.2 && isSource k.2 && k.2.state != 5) (fun k t => bequeath k.1 k.2 t) s
  stopStreams mine s

/-- One targeted command (R157). -/
def cancelOne (x : Cmd) (s : State) : State :=
  let q := x.q
  let seq := x.seq
  let end_ := finish q seq 1 0
  let op := itemOp x.item
  if (cmd? s q seq).all fun y => y.st == .durable then s
  else if op = 0x43 then
    let s' := cancelTheEpoch (fld x.item 8 4) s
    let issued := (epoch? s' (fld x.item 8 4)).any fun e => e.phase == 4 && e.sealIssued && e.sealCmd == some (q, seq)
    if issued then s' else end_ s'
  else if x.st = .accepted then end_ s
  else if op = 0x40 then (if x.ran then cancelTheEpoch x.epoch s else end_ s)
  else if op = 0x41 ∨ op = 0x42 then end_ (stopCapture q seq s)
  else if op = 0x49 ∧ s.cap.cut.owner = some (q, seq) then
    if s.cap.cut.st = .push then onCmd q seq (fun y => { y with instead := some (1, 0) }) s
    else end_ (stopCmd q seq { s with cap.cut := {} })
  else end_ (stopCmd q seq s)

/-- A target will end CANCELLED: a push in progress, an epoch that waits for its RELEASE (R110, R289). -/
def willCancel (s : State) (x : Cmd) : Bool :=
  x.instead == some (1, 0) || (itemOp x.item == 0x40 && s.cap.cut.cancel && x.epoch != 0 && s.cap.cut.epoch == x.epoch)

/-- Commands cancelled by this CANCEL: those that ended CANCELLED and those that will (R157). -/
def cancelCount (s : State) (ts : List (Nat × Nat)) : Nat :=
  (ts.filter fun t => (cmd? s t.1 t.2).any fun x => if x.st = .durable then x.status == 1 else willCancel s x).length

/-- CANCEL takes effect on the commands that it targeted when it started. -/
def cancelGo (c : Cmd) (s : State) : State :=
  let s := each c.items (fun t u => match cmd? u t.1 t.2 with
    | some x => cancelOne x u
    | none => u) s
  let s := if fld c.item 10 1 = 1 then cancelTheEpoch (fld c.item 12 4) s else s
  let n := cancelCount s c.items
  settleAfter (onCmd c.q c.seq (fun x => { x with count := n }) s)

/-- CANCEL; it completes once every target is COMPLETED-ready. -/
def execCancel (q seq : Nat) (s : State) : Host.Outcome State Fault Refusal :=
  .next (runCmd 0x4A q seq cancelBad cancelGo s)

end Sys2Proof.Machine
end

