-- ==== Sys2Proof/Machine/Peers.lean ====
section
/-! DEFINITION. Peers: ports that a topology table lists, HELLO and ring claims, expected fence generations, the fenced
state (R250, R252, R254, R255, R262, R263). -/

namespace Sys2Proof.Machine

/-! ### Who is listed where -/

/-- The devices that the table lists as direct peers on a port. -/
def directPeers (s : State) (p : Nat) : List Nat :=
  ((s.adm.topo.filter fun r => tRole r != 0 && tVia r == 0xFF && bit (tPorts r) p).map tDev).dedup

/-- The devices that the table lists. -/
def listed (s : State) : List Nat := ((s.adm.topo.filter fun r => tRole r != 0).map tDev).dedup

/-! ### Bring-up (R250) -/

/-- A port at the start of its bring-up; messages it still holds stay. -/
def trainPort (mode : Nat) (precode : Bool) (p : Port) : Port :=
  { state := 1, mode, precode, mask := p.mask, newMask := p.newMask, unacked := p.unacked, queued := p.queued, rx := p.rx
    retrains := p.retrains, lost := p.lost, scr := p.scr, lanes := Tab.mapv p.lanes fun l => { trainFails := l.trainFails } }

/-- Brings a port up when the table lists a direct peer on it, and takes it down when no record does; a port whose partner
is no longer listed starts again. -/
def listPort (p : Nat) (s : State) : State :=
  let x := (port? s p).getD {}
  let mode := bits (sh s 0x800) (2 * p + 1) (2 * p)
  let put := fun (s : State) => { s with spl.ports := Tab.put s.spl.ports p (trainPort mode (bit (sh s 0x800) (8 + p)) ((port? s p).getD {})) }
  if (directPeers s p).isEmpty then (if x.state = 0 then s else linkDown p 3 0 s)
  else if retired s 1 p then s
  else if x.state = 0 ∨ x.state = 7 then put s
  else if (x.state = 4 ∨ x.state = 5 ∨ x.state = 6) ∧ !(directPeers s p).contains x.partner then put (linkDown p 3 0 s)
  else s

/-! ### HELLO (R254, R257) -/

/-- The body of HELLO and HELLO_ACK for a device. -/
def helloBody (s : State) (d : Nat) : Bytes :=
  [0, 0, 0, 0] ++ toLE 4 s.adm.ringGen ++ toLE 4 s.adm.coord ++ toLE 4 (expectedGen s d) ++ zeros 16

/-- HELLO to a device on a port. -/
def sendHello (p d : Nat) (s : State) : State :=
  if s.adm.topoSet then sendOn p { mtype := 1, dst := d, body := helloBody s d } s else s

/-- HELLO to every direct peer listed on a port that has come up. -/
def helloPort (p : Nat) (s : State) : State := each (directPeers s p) (sendHello p) s

/-! ### Ring claims (R255) -/

/-- A claim (generation, coordinator) loses to another. -/
def claimLoses (g c g' c' : Nat) : Bool := decide (g < g') || (g == g' && decide (c' < c))

/-- The link to a peer is marked CONFLICT by the device whose claim loses. -/
def markConflict (p d g c : Nat) (s : State) : State :=
  let s := onPort p (fun x => { x with state := if x.state = 5 then 6 else x.state }) s
  let s := { s with spl.peers := Tab.upd s.spl.peers d fun x => { x with conflict := true, ringGen := g, coord := c } }
  raise0 0x0805 2 (g + 2 ^ 32 * c + 2 ^ 50 * p) s

/-- Links in CONFLICT with peers to which the new claim does not lose are used again. -/
def clearConflicts (s : State) : State :=
  let ok := (s.spl.peers.filter fun p => p.2.conflict && !claimLoses s.adm.ringGen s.adm.coord p.2.ringGen p.2.coord).map (·.1)
  let s := { s with spl.peers := s.spl.peers.map fun p => if ok.contains p.1 then (p.1, { p.2 with conflict := false }) else p }
  each (List.range 4) (fun p t =>
    if (port? t p).any (fun x => x.state == 6) && !(directPeers t p).any (fun d => (Tab.get? t.spl.peers d).any (·.conflict))
    then helloPort p (onPort p (fun x => { x with state := 5 }) t) else t) s

/-- Entries for the devices of the table, those behind a sink among them, whose generations are checked too (R254, R262); others
go. -/
def ensurePeers (s : State) : State :=
  let ds := listed s
  let keep := s.spl.peers.filter fun p => ds.contains p.1
  let port := fun d => ((List.range 4).find? fun p => (directPeers s p).contains d).getD 0
  { s with spl.peers := ds.foldl (fun t d => match Tab.get? keep d with
      | some p => Tab.put t d p
      | none => Tab.put t d { port := port d }) [] }

/-- The table or a record of it has changed: peers, ports and HELLOs follow. -/
def tableChanged (s : State) : State := dropPeers (clearConflicts (each (List.range 4) listPort (ensurePeers s)))

/-! ### The fenced state (R263) -/

/-- Ends a command for which a device is fenced or lost. FENCED is no status of a DIGEST (R104; DEDUCED, log entry 135). -/
def endFor (q seq status detail : Nat) (s : State) : State :=
  if status = 8 ∧ (cmd? s q seq).any (fun c => itemOp c.item == 0x46) then finish q seq 0x0F 1 s else finish q seq status detail s

/-- Ends the commands whose requests to a device are outstanding, with a status. -/
def endRequests (p : Req → Bool) (status detail : Nat) (s : State) : State :=
  let rs := s.spl.reqs.filter p
  let s := { s with spl.reqs := s.spl.reqs.filter fun r => !p r }
  each rs (fun r t => match r.owner with
    | some o => endFor o.1 o.2 status detail (stopCmd o.1 o.2 t)
    | none => t) s

/-- An epoch holds replicated entries or lies in a peer vault. -/
def needsPeers (s : State) (x : Epoch) : Bool :=
  ((liveEntries x.list).any fun e => eRepl e.2) || (vault? s (hVault x.list)).any fun v => vWhere v != 0

/-- The vault whose sectors the streams of a work command read, if any. -/
def vaultRead (s : State) (c : Cmd) : Option Nat :=
  match itemOp c.item with
  | 0x44 | 0x45 => if srcBuf c.item then none else some (fld c.item 8 4)
  | 0x46 => if fld c.item 8 1 = 0 then some (fld c.item 12 4) else none
  | 0x49 => (s.adm.gens.find? fun g => g.plan == fld c.item 8 2 && g.num == c.gen).map fun g => hVault g.bytes
  | _ => none

/-- A command has streams that read a peer vault. -/
def readsPeer (s : State) (c : Cmd) : Bool :=
  c.st == .started && (((vaultRead s c).bind (vault? s)).any fun v => vWhere v != 0) &&
    ((s.str.ctxs.any fun x => x.2.q == c.q && x.2.seq == c.seq && x.2.state != 5) ||
      s.str.starts.any fun x => x.1.q == c.q && x.1.seq == c.seq)

/-- The device enters the fenced state (R263). -/
def enterFenced (dev gen : Nat) (s : State) : State :=
  if gen ≤ s.adm.selfGen ∨ (s.adm.fenced ∧ gen ≤ s.adm.fenceBy) then s else
  let s := raise0 0x0807 2 (dev + 2 ^ 32 * gen) { s with adm.fenced := true, adm.fenceBy := gen }
  let stays := fun (m : OutMsg) => mType m.msg == 2 || mType m.msg == 4
  let gone := (Tab.vals s.spl.ports).flatMap fun p => p.queued.filter fun m => !stays m
  let s := { s with spl.ports := Tab.mapv s.spl.ports fun p => { p with queued := p.queued.filter stays } }
  let s := each gone (fun m => tidingDropped m.msg) s
  let s := each (((Tab.vals s.cap.epochs).filter fun x => unresolved x && needsPeers s x).map (·.num))
    (fun e => abandonEpoch e (0x11, 8)) s
  let s := each (s.ldg.cmds.filter (readsPeer s)) (fun c t => endFor c.q c.seq 8 0 (stopCmd c.q c.seq t)) s
  endRequests (fun _ => true) 8 0 s

/-- The device leaves the fenced state when its own generation is high enough. -/
def leaveFenced (s : State) : State :=
  if s.adm.fenced ∧ s.adm.fenceBy ≤ s.adm.selfGen then { s with adm.fenced := false, adm.fenceBy := 0 } else s

end Sys2Proof.Machine
end

