-- ==== Sys2Proof/Machine/Admin.lean ====
section
/-! DEFINITION. Admin commands: vaults (R77 to R79, R261), queues (R80), staging buffers (R81 to R84), recipes (R182), keys
(R205 to R210), topology and buddies (R252, R255, R263), fences (R263), compaction (R301), returns (R313). -/

namespace Sys2Proof.Machine

/-! ### Vaults -/

/-- The address ranges of HOST vaults and granted buffers in a translation domain (R78, R81). -/
def hostRanges (s : State) (tdid : Nat) : List (Nat × Nat) :=
  ((Tab.vals s.adm.vaults).filter fun v => vWhere v == 0 && vTdid v == tdid).map (fun v => (vBase v, 4096 * vSectors v)) ++
    ((Tab.vals s.adm.grants).filter fun g => g.tdid == tdid).map fun g => (g.base, g.len)

def hitsRange (s : State) (tdid base len : Nat) : Bool := (hostRanges s tdid).any fun r => overlap r.1 r.2 base len

/-- Offending fields of a VAULT_CREATE (R77, R78). A full table is reported at VAULT_ID. DEDUCED, log entry 118. -/
def vaultCreateBad (c : Cmd) (s : State) : List (Nat × Bool) :=
  let b := c.item
  let id := fld b 8 4
  let w := fld b 12 1
  let peer := fld b 13 1
  let base := fld b 16 8
  let n := fld b 24 8
  let mine := marked s 1 id c.q c.seq
  [(8, id == 0 || id == 0xFFFFFFFF || (!mine && ((vault? s id).isSome || decide (256 ≤ s.adm.vaults.length)))),
   (12, decide (2 < w)),
   (13, if w = 1 then decide (7 < peer) else if w = 2 then decide (3 < peer) else peer != 0),
   (14, decide (1 < fld b 14 2) || (w != 0 && fld b 14 2 != 0)),
   (16, if w = 0 then base % 4096 != 0 || (!mine && hitsRange s (fld b 40 2) base (4096 * n)) else base != 0),
   (24, n == 0 || decide (2 ^ 40 < n)),
   (32, w == 0 && fld b 32 4 != 0),
   (36, decide (2 ^ 18 ≤ fld b 36 4))]

/-- Records the vault of a VAULT_CREATE. -/
def putVault (c : Cmd) (s : State) : State :=
  mark 1 (fld c.item 8 4) c.q c.seq { s with adm.vaults := Tab.put s.adm.vaults (fld c.item 8 4) { item := c.item } }

/-- VAULT_CREATE: a peer vault is opened on the peer first (R261). -/
def vaultCreate (c : Cmd) (s : State) : State :=
  let v : Vault := { item := c.item }
  if marked s 1 (fld c.item 8 4) c.q c.seq then finish c.q c.seq 0 0 s
  else if vWhere v = 0 then finish c.q c.seq 0 0 (putVault c s)
  else
    match vaultBad s v, vPeer s v with
    | some e, _ => finish c.q c.seq e.1 e.2 s
    | none, none => finish c.q c.seq 0x0F 1 s
    | none, some d =>
      let m : Msg := { mtype := 8, dst := d, vault := vRemote v, arg := vSectors v }
      request m { tag := 0, peer := d, mtype := 8, msg := [], owner := some (c.q, c.seq) } s

def execVaultCreate (q seq : Nat) (s : State) : Host.Outcome State Fault Refusal :=
  .next (runCmd 0x01 q seq vaultCreateBad vaultCreate s)

def vaultDeleteBad (c : Cmd) (s : State) : List (Nat × Bool) :=
  [(8, (vault? s (fld c.item 8 4)).isNone && !marked s 1 (fld c.item 8 4) c.q c.seq)]

/-- A command that has not completed reads or writes a vault (R79). -/
def namesVault (id : Nat) (x : Cmd) : Bool :=
  let op := itemOp x.item
  ((op == 0x44 || op == 0x45) && fld x.item 8 4 == id) || (op == 0x0B && fld x.item 12 4 == id) ||
    (op == 0x46 && fld x.item 8 1 == 0 && fld x.item 12 4 == id)

def vaultBusy (s : State) (id : Nat) : Bool :=
  (unfreed s).any (fun g => hVault g.bytes == id) || s.ldg.cmds.any fun x => x.st != .durable && namesVault id x

/-- Removes the vault of a VAULT_DELETE. -/
def dropVault (c : Cmd) (s : State) : State :=
  mark 1 (fld c.item 8 4) c.q c.seq { s with adm.vaults := Tab.del s.adm.vaults (fld c.item 8 4) }

def vaultDelete (c : Cmd) (s : State) : State :=
  match vault? s (fld c.item 8 4) with
  | none => finish c.q c.seq 0 0 s
  | some v =>
    if vaultBusy s (fld c.item 8 4) then finish c.q c.seq 6 0 s
    else if vWhere v = 0 then finish c.q c.seq 0 0 (dropVault c s)
    else
      match vaultBad s v, vPeer s v with
      | some e, _ => finish c.q c.seq e.1 e.2 s
      | none, none => finish c.q c.seq 0x0F 1 s
      | none, some d =>
        let m : Msg := { mtype := 9, dst := d, vault := vRemote v }
        request m { tag := 0, peer := d, mtype := 9, msg := [], owner := some (c.q, c.seq) } s

def execVaultDelete (q seq : Nat) (s : State) : Host.Outcome State Fault Refusal :=
  .next (runCmd 0x02 q seq vaultDeleteBad vaultDelete s)

/-- VAULT_REPLY ends the command that waits for it (R261). -/
def vaultReplied (c : Cmd) (status detail : Nat) (s : State) : State :=
  if status = 0 then finish c.q c.seq 0 0 (if itemOp c.item = 1 then putVault c s else dropVault c s)
  else finish c.q c.seq status detail s

/-! ### Queues -/

/-- A new queue; the numbering of a queue ID used before continues (R49). -/
def newQueue (s : State) (q : Nat) (d : Bytes) : Queue :=
  let n := Tab.getD s.ring.nextSeqOf q 1
  { desc := d, nextSeq := n, covered := n - 1, completed := n - 1, mirSeq := n - 1 }

def queueCreateBad (c : Cmd) (s : State) : List (Nat × Bool) :=
  let q := fld c.item 8 2
  [(8, q == 0 || decide (4095 < q) || ((queue? s q).isSome && !marked s 0 q c.q c.seq))]

/-- QUEUE_CREATE (R33, R80): the descriptor is read from the queue base table. One that has made its queue before a reset does
not change it again (R296). -/
def queueCreate (desc : HostRead) (c : Cmd) (s : State) : State :=
  let q := fld c.item 8 2
  if marked s 0 q c.q c.seq then finish c.q c.seq 0 0 s
  else
    let s := readCtl (queueBase s + 64 * q) (sh s 0x48) 64 1 s
    match desc with
    | none => malformed c.q c.seq 0xFF s
    | some d =>
      match descBad (slice d 0 64) false with
      | some o => malformed c.q c.seq (128 + o) s
      | none =>
        let s := lanesWrite 9 (16 * q) 16 { s with ring.queues := Tab.put s.ring.queues q (newQueue s q (slice d 0 64)) }
        finish c.q c.seq 0 0 (mark 0 q c.q c.seq s)

def execQueueCreate (q seq : Nat) (desc : HostRead) (s : State) : Host.Outcome State Fault Refusal :=
  .next (runCmd 0x03 q seq queueCreateBad (queueCreate desc) s)

def queueDeleteBad (c : Cmd) (s : State) : List (Nat × Bool) :=
  let q := fld c.item 8 2
  [(8, q == 0 || ((queue? s q).isNone && !marked s 0 q c.q c.seq))]

/-- The 32 B of a grant-table word, whose layout the manual does not give (DESIGN CHOICE, log entry 9). -/
def grantWord (s : State) : Bytes × State :=
  let n := s.time.free
  ((List.range 4).flatMap fun i => toLE 8 (Config.freeWord (n + i)).toNat, { s with time.free := n + 4 })

/-- Writes the word of a buffer in the mirror's grant table (R303). -/
def writeGrant (buf q seq : Nat) (s : State) : State :=
  let w := grantWord s
  hbWrite (.grant q seq) (mirrorBase s + 0x91000 + 32 * buf) (sh s 0x68) w.1 w.2

/-- Buffers of a queue that leaves service are released (R84). -/
def releaseBuffers (q : Nat) (s : State) : State :=
  let bs := (s.adm.grants.filter fun g => g.2.owner == q).map (·.1)
  each bs (fun b => writeGrant b 0xFFFF 0) { s with adm.grants := s.adm.grants.filter fun g => g.2.owner != q }

/-- Every completion of a queue is written. -/
def allWritten (s : State) (q : Nat) : Bool :=
  !(s.ldg.cmds.any fun x => x.q == q) && (queue? s q).all fun x => x.cqOut.isEmpty && !x.errDue && x.fetched.isEmpty

/-- Steps 3 and 4 of R80; doorbells held since the snapshot are dropped as out of range. -/
def removeQueue (t : Nat) (c : Cmd) (s : State) : State :=
  let ds := ((queue? s t).map (·.held)).getD []
  let s := releaseBuffers t s
  let s := { s with ring.queues := Tab.del s.ring.queues t }
  let s := each ds (fun v => dbBad (2 * t) 0 t v true) s
  finish c.q c.seq 0 0 (mark 0 t c.q c.seq s)

/-- Step 1 of R80 ends once nothing is left to accept: STATE is RUN, completions that a fault held leave, and SQ tail doorbells
stay held (DEDUCED, log entry 88). -/
def deleteFlushed (q : Nat) (s : State) : State :=
  if (queue? s q).any fun x => x.state == .flushing && x.fetched.isEmpty then flushStop q s else s

/-- QUEUE_DELETEs go on: the flush of the target ends, and one that has written everything leaves service. -/
def settleDeletes (s : State) : State :=
  each (s.ldg.cmds.filter fun c => itemOp c.item == 4 && c.st == .started && c.ran) (fun c t =>
    let q := fld c.item 8 2
    let t := deleteFlushed q t
    if (queue? t q).isSome && allWritten t q then removeQueue q c t else t) s

/-- QUEUE_DELETE (R80). A target that a FLUSH is flushing is taken over from it (DEDUCED, log entry 88). -/
def queueDelete (slots : List Bytes) (c : Cmd) (s : State) : State :=
  let q := fld c.item 8 2
  if (queue? s q).isNone then finish c.q c.seq 0 0 s
  else
    settleDeletes (flushAccept q (flushBegin q (c.q, c.seq) slots s))

def execQueueDelete (q seq : Nat) (slots : List Bytes) (s : State) : Host.Outcome State Fault Refusal :=
  .next (runCmd 0x04 q seq queueDeleteBad (queueDelete slots) s)

/-! ### Staging buffers -/

def bufGrantBad (c : Cmd) (s : State) : List (Nat × Bool) :=
  let b := c.item
  let mine := marked s 5 (fld b 8 2) c.q c.seq
  let n := fld b 24 8
  [(8, !mine && (Tab.get? s.adm.grants (fld b 8 2)).isSome),
   (10, (queue? s (fld b 10 2)).isNone),
   (16, fld b 16 8 % 4096 != 0 || (!mine && hitsRange s (fld b 12 2) (fld b 16 8) n)),
   (24, decide (n < 65536) || decide (2 ^ 30 < n) || n % 4096 != 0)]

/-- BUF_GRANT (R81, R82): it ends when its word is in the grant table (R303). -/
def bufGrant (c : Cmd) (s : State) : State :=
  let b := c.item
  let id := fld b 8 2
  let g : Grant := { owner := fld b 10 2, tdid := fld b 12 2, base := fld b 16 8, len := fld b 24 8, gen := c.seq % 2 ^ 32 }
  let s := if marked s 5 id c.q c.seq then s
    else mark 5 id c.q c.seq { s with adm.grants := Tab.put s.adm.grants id g }
  writeGrant id c.q c.seq s

def execBufGrant (q seq : Nat) (s : State) : Host.Outcome State Fault Refusal :=
  .next (runCmd 0x05 q seq bufGrantBad bufGrant s)

/-- BUF_FREE (R83). -/
def bufFree (c : Cmd) (s : State) : State :=
  let id := fld c.item 8 2
  if marked s 5 id c.q c.seq then writeGrant id c.q c.seq s
  else
    let s := useGrant id s
    match bufCheck s c.q id (fld c.item 12 4) with
    | some f => bufFault c.q c.seq id (fld c.item 12 4) f s
    | none => writeGrant id c.q c.seq (mark 5 id c.q c.seq { s with adm.grants := Tab.del s.adm.grants id })

def execBufFree (q seq : Nat) (s : State) : Host.Outcome State Fault Refusal :=
  .next (runCmd 0x06 q seq (fun _ _ => []) bufFree s)

/-! ### Recipes (R182) -/

def recipeLoadBad (c : Cmd) (_ : State) : List (Nat × Bool) :=
  let b := c.item
  [(8, decide (63 < fld b 8 1)), (10, decide (fld b 10 2 < 2) || decide (256 < fld b 10 2)), (16, fld b 16 8 % 8 != 0)]

/-- A generation names a recipe slot, as its encode or its decode slot. -/
def namesRecipe (g : Gen) (slot : Nat) : Bool :=
  (liveEntries g.bytes).any fun e => eCodec e.2 == 4 && (eSel e.2 == slot || eSel e.2 + 1 == slot)

/-- An unfinished restore decodes with a slot: its streams name the slots of every block that they are to read (R96, R182). -/
def decodesWith (s : State) (slot : Nat) : Bool :=
  s.str.ctxs.any (fun c => c.2.state != 5 && c.2.codes.contains slot) || s.str.starts.any fun c => c.1.codes.contains slot

def recipeBusy (s : State) (slot : Nat) : Bool :=
  s.adm.gens.any (fun g => launched s g.plan g.num && namesRecipe g slot) || decodesWith s slot

/-- The program words of the bytes read. -/
def progWords (n : Nat) (b : Bytes) : List Nat := (List.range n).map fun i => fld b (8 * i) 8

/-- The first failing word and its reason. -/
def progBad (ws : List Nat) : Option (Nat × Nat) :=
  ((List.range ws.length).map fun i => (i, wordReason i ws.length (ws.getD i 0))).find? fun r => r.2 != 0

def recipeLoad (prog : HostRead) (c : Cmd) (s : State) : State :=
  let slot := fld c.item 8 1
  if recipeBusy s slot then finish c.q c.seq 6 5 s
  else
    let s := readCtl (fld c.item 16 8) (fld c.item 12 2) (8 * fld c.item 10 2) 1 s
    match prog with
    | none => malformed c.q c.seq 16 s
    | some b =>
      let ws := progWords (fld c.item 10 2) b
      match progBad ws with
      | some (i, r) => malformed c.q c.seq 16 (raise0 0x0505 1 (i + 2 ^ 8 * r + 2 ^ 16 * slot) s)
      | none => finish c.q c.seq 0 0 (lanesWrite 12 (256 * slot) ws.length { s with adm.recipes := Tab.put s.adm.recipes slot ws })

def execRecipeLoad (q seq : Nat) (prog : HostRead) (s : State) : Host.Outcome State Fault Refusal :=
  .next (runCmd 0x09 q seq recipeLoadBad (recipeLoad prog) s)

/-! ### Keys (R205 to R210) -/

/-- Slot 255 takes no load and there are 64 HMAC slots (R205, R207). -/
def keySlotBad (b : Bytes) : Bool := if fld b 8 1 = 0 then fld b 9 1 == 255 else decide (63 < fld b 9 1)

def keyLoadBad (c : Cmd) (_ : State) : List (Nat × Bool) :=
  [(8, decide (1 < fld c.item 8 1)), (9, keySlotBad c.item), (11, fld c.item 11 1 != 40 && fld c.item 11 1 != 72)]

/-- A key slot is in use (R209): an unretired launch names it, or a stream of an unfinished command needs it. -/
def keyInUse (s : State) (c : Cmd) (n : Nat) : Bool :=
  s.adm.gens.any (fun g => launched s g.plan g.num && namesSlot g n) ||
    s.str.ctxs.any (fun x => x.2.state != 5 && x.2.keys.contains n) || s.str.starts.any (fun x => x.1.keys.contains n) ||
    s.ldg.cmds.any fun x => x.st == .started && !(x.q == c.q && x.seq == c.seq) &&
      ((itemOp x.item == 0x46 && fld x.item 9 1 != 0xFF && 256 + fld x.item 9 1 == n) ||
        (itemOp x.item == 0x0B && 256 + fld x.item 10 1 == n))

/-- Fills a slot, journals its key-epoch record unless a replay already did, and raises KEY_LOADED (R207, R213, R296). -/
def fillKey (c : Cmd) (n form : Nat) (content : Bytes) (s : State) : State :=
  let kcv := kcvOf form content
  let k : Key := { form, content, kcv }
  let s := lanesWrite 13 (8 * n) 8 { s with
    adm.keys := Tab.put s.adm.keys n k
    adm.keyLost := s.adm.keyLost.filter fun m => m != n
    adm.keyLoads := Tab.put s.adm.keyLoads n ((Tab.getD s.adm.keyLoads n 0 + 1) % 65536) }
  let s := if marked s 3 n c.q c.seq then s
    else mark 3 n c.q c.seq { s with adm.keyRec := Tab.put s.adm.keyRec n (form, kcv) }
  finish c.q c.seq 0 0 (raise0 0x0602 0 (n + 2 ^ 32 * fld kcv 0 4) s)

/-- What an unwrapped key fills a slot with, or the DETAIL of its refusal (R207). -/
def keyForm (kind len : Nat) (k : Bytes) : Nat ⊕ (Nat × Bytes) :=
  if kind = 0 then
    if len = 40 then .inr (1, k)
    else if slice k 0 32 = slice k 32 32 then .inl 3
    else .inr (2, k)
  else if len = 40 then .inr (3, hmacStates k)
  else .inr (3, k)

/-- The initial value of the key wrap (R207). -/
def wrapIv (kind : Nat) : Bytes :=
  if kind = 0 then List.replicate 8 0xA6 else List.replicate 4 0xA6 ++ List.replicate 4 0x59

/-- KEY_LOAD. DEDUCED, log entry 115. -/
def keyLoad (wrapped : HostRead) (c : Cmd) (s : State) : State :=
  let b := c.item
  let kind := fld b 8 1
  let n := slotOfLoad b
  let len := fld b 11 1
  let s := readKeys [fld b 10 1] s
  if keyInUse s c n then finish c.q c.seq 6 4 s
  else
    match keyBad s (fld b 10 1) 1 none with
    | some d => finish c.q c.seq 0x0E d s
    | none =>
    let s := readCtl (fld b 16 8) (fld b 12 2) len 1 s
    match wrapped with
    | none => malformed c.q c.seq 16 s
    | some w =>
      match keyUnwrap (keyBytes s (fld b 10 1)) (wrapIv kind) (slice w 0 len) with
      | none => finish c.q c.seq 0x0E 1 s
      | some k =>
        match keyForm kind len k with
        | .inl d => finish c.q c.seq 0x0E d s
        | .inr f => fillKey c n f.1 f.2 s

def execKeyLoad (q seq : Nat) (wrapped : HostRead) (s : State) : Host.Outcome State Fault Refusal :=
  .next (runCmd 0x0A q seq keyLoadBad (keyLoad wrapped) s)

def keyDeriveBad (c : Cmd) (s : State) : List (Nat × Bool) :=
  [(8, decide (1 < fld c.item 8 1)), (9, keySlotBad c.item), (10, decide (63 < fld c.item 10 1)),
   (12, (vault? s (fld c.item 12 4)).isNone), (16, fld c.item 16 4 == 0)]

/-- The hallmark that a KEY_DERIVE reads, or its refusal: status and DETAIL (R208). -/
def deriveHallmark (s : State) (sectors : Tab Bytes) (b : Bytes) (v : Vault) : (Nat × Nat) ⊕ Bytes :=
  match layoutRead s v sectors with
  | .inl (_, .key d) => .inl (0x0E, d)
  | .inl (_, .bad _) => .inl (0x0E, 4)
  | .inl _ => .inl (0x03, 16)
  | .inr lay =>
    let t := sealAt v lay (fld b 16 4) (readIx s)
    if (Tab.get? sectors t).isNone then .inl (0x0E, 4)
    else
      match readSeal s sectors v.area t (fld b 16 4) with
      | .stale _ => .inl (0x03, 16)
      | .later => .inl (0x03, 16)
      | .key d => .inl (0x0E, d)
      | .bad _ => .inl (0x0E, 4)
      | .ok r =>
        let ch := fld b 20 4
        if ch = 0xFFFFFFFF then .inr r.hallmark
        else if r.hms.length ≤ ch then .inl (0x03, 20)
        else .inr (r.hms.getD ch [])

/-- T_j of R208. -/
def deriveT (states h b : Bytes) (j : Nat) : Bytes :=
  hmac states (slice h 0 32 ++ slice b 24 8 ++ slice b 20 4 ++ slice b 16 4 ++ slice b 8 1 ++ toLE 1 j)

/-- KEY_DERIVE. The sectors of a peer vault that cannot be reached are not read. DEDUCED, log entry 122. -/
def keyDerive (sectors : Tab Bytes) (c : Cmd) (s : State) : State :=
  let b := c.item
  let n := slotOfLoad b
  let from_ := 256 + fld b 10 1
  let s := readKeys [from_] s
  if keyInUse s c n then finish c.q c.seq 6 4 s
  else
    match keyBad s from_ 3 none, vault? s (fld b 12 4) with
    | some d, _ => finish c.q c.seq 0x0E d s
    | none, none => malformed c.q c.seq 12 s
    | none, some v =>
      if (vaultBad s v).isSome then finish c.q c.seq 0x0E 4 s
      else
        let s := if vWhere v = 0 then
          each sectors (fun x => readCtl (vBase v + 4096 * x.1) (vTdid v) 4096 5) s else s
        match deriveHallmark s sectors b v with
        | .inl e => finish c.q c.seq e.1 e.2 s
        | .inr h =>
          let t1 := deriveT (keyBytes s from_) h b 1
          let t2 := deriveT (keyBytes s from_) h b 2
          if t1 = t2 then finish c.q c.seq 0x0E 3 s
          else if fld b 8 1 = 0 then fillKey c n 2 (t1 ++ t2) s
          else fillKey c n 3 (hmacStates t1) s

def execKeyDerive (q seq : Nat) (sectors : Tab Bytes) (s : State) : Host.Outcome State Fault Refusal :=
  .next (runCmd 0x0B q seq keyDeriveBad (keyDerive sectors) s)

/-! ### Topology, buddies, fences -/

def buddySetBad (c : Cmd) (_ : State) : List (Nat × Bool) :=
  [(8, decide (7 < fld c.item 8 1)), (9, decide (15 < fld c.item 9 1)), (10, decide (1 < fld c.item 10 1)),
   (12, decide (2 ^ 18 ≤ fld c.item 12 4))]

/-- The record of a BUDDY_SET. -/
def buddyRec (b : Bytes) : Bytes :=
  slice b 12 4 ++ [1] ++ slice b 8 1 ++ slice b 9 1 ++ [0xFF] ++ slice b 16 4 ++ zeros 20

/-- BUDDY_SET replaces the on-block copy of one buddy record (R252). -/
def buddySet (c : Cmd) (s : State) : State :=
  if s.adm.fenced then finish c.q c.seq 8 0 s
  else
    let rest := s.adm.topo.filter fun r => !(tRole r == 1 && tIndex r == fld c.item 8 1)
    let topo := if fld c.item 10 1 = 0 then rest ++ [buddyRec c.item] else rest
    finish c.q c.seq 0 0 (tableChanged { s with adm.topo := topo })

def execBuddySet (q seq : Nat) (s : State) : Host.Outcome State Fault Refusal :=
  .next (runCmd 0x0F q seq buddySetBad buddySet s)

/-- Offending fields of topology record `i`, given the records before it and the sinks of the table (R252). The self record
is exempt from the rules on PORTS and VIA. A clash of PORTS with VIA is that of the later field (R397). -/
def topoRecBad (sinks : List Nat) (before : List Bytes) (i : Nat) (r : Bytes) : Option Nat :=
  let role := tRole r
  let direct := tVia r == 0xFF
  let peers := before.filter fun x => tRole x != 0
  lowest (offsets [
    (0, decide (2 ^ 18 ≤ tDev r)),
    (4, decide (4 < role) || (role == 0) != (i == 0)),
    (5, (if role = 1 then decide (7 < tIndex r) else if role = 2 then decide (3 < tIndex r) else tIndex r != 0) ||
      ((role == 1 || role == 2) && before.any fun x => tRole x == role && tIndex x == tIndex r)),
    (6, decide (15 < tPorts r) || (role != 0 && peers.any fun x =>
      (tDev x != tDev r && (List.range 4).any fun p => bit (tPorts x) p && bit (tPorts r) p) ||
        (tDev x == tDev r && tPorts x != tPorts r))),
    (7, role != 0 && (direct == (tPorts r == 0) || (!direct && !sinks.contains (tVia r)) ||
      peers.any fun x => tDev x == tDev r && tVia x != tVia r)),
    (8, role != 0 && peers.any fun x => tDev x == tDev r && tGen x != tGen r),
    (12, if role = 3 then before.any fun x => tRole x == 3 && tRepl x == tRepl r else role != 0 && tRepl r != 0),
    (16, fld r 16 16 != 0)])

/-- The first record of a table that offends, with its offset. -/
def topoBad (sinks : List Nat) (before : List Bytes) : List Bytes → Option (Nat × Nat)
  | [] => none
  | r :: rest =>
    match topoRecBad sinks before before.length r with
    | some o => some (before.length, o)
    | none => topoBad sinks (before ++ [r]) rest

def topologyBad (c : Cmd) (_ : State) : List (Nat × Bool) :=
  [(8, fld c.item 8 4 == 0 || decide (524288 < fld c.item 8 4)), (28, decide (2 ^ 18 ≤ fld c.item 28 4))]

/-- Installs a table (R252, R263). -/
def installTopo (c : Cmd) (rs : List Bytes) (s : State) : State :=
  let self := rs.headD []
  let s := { s with
    adm.topo := rs
    adm.topoMem := rs
    adm.topoUsed := []
    adm.topoAddr := fld c.item 16 8
    adm.topoTdid := fld c.item 12 2
    adm.topoSet := true
    adm.ringGen := fld c.item 24 4
    adm.coord := fld c.item 28 4
    adm.selfDev := some (tDev self)
    adm.selfGen := tGen self }
  tableChanged (leaveFenced (writeMirrorHeader s))

/-- TOPOLOGY_SET (R252, R255). -/
def topologySet (table : HostRead) (c : Cmd) (s : State) : State :=
  let s := readCtl (fld c.item 16 8) (fld c.item 12 2) (32 * fld c.item 8 4) 1 s
  match table with
  | none => malformed c.q c.seq 16 s
  | some b =>
    let n := fld c.item 8 4
    let rs := (List.range n).map fun i => slice b (32 * i) 32
    let sinks := (rs.filter fun r => tRole r == 2).map tIndex
    match topoBad sinks [] rs with
    | some (i, o) => malformed c.q c.seq (128 + o) (planReject 0 i o s)
    | none =>
      let g := fld c.item 24 4
      let k := fld c.item 28 4
      if s.spl.peers.any fun p => p.2.ready && claimLoses g k p.2.ringGen p.2.coord then finish c.q c.seq 9 0 s
      else finish c.q c.seq 0 0 (installTopo c rs s)

def execTopologySet (q seq : Nat) (table : HostRead) (s : State) : Host.Outcome State Fault Refusal :=
  .next (runCmd 0x10 q seq topologyBad (topologySet table) s)

/-- Fence entries of the ledger's Peers region (R295): 1,024 less the self, buddy and sink records. -/
def fenceSlots : Nat := 1011

def fenceRaiseBad (c : Cmd) (s : State) : List (Nat × Bool) :=
  let d := fld c.item 8 4
  let mine := marked s 4 d c.q c.seq
  [(8, decide (2 ^ 18 ≤ d) || ((Tab.get? s.adm.fenceExp d).isNone && decide (fenceSlots ≤ s.adm.fenceExp.length))),
   (12, !mine && decide (fld c.item 12 4 ≤ expectedGen s d))]

/-- FENCE_RAISE (R263). Requests to the device that are outstanding end FENCED (R104). DEDUCED, log entry 121. -/
def fenceRaise (c : Cmd) (s : State) : State :=
  let d := fld c.item 8 4
  let g := fld c.item 12 4
  let s := if marked s 4 d c.q c.seq then s
    else mark 4 d c.q c.seq { s with adm.fenceExp := Tab.put s.adm.fenceExp d g }
  let s := if routeUp s d then send { mtype := 3, dst := d, arg := g } s else s
  finish c.q c.seq 0 0 (endRequests (fun r => r.peer == d && r.owner.isSome) 8 0 s)

def execFenceRaise (q seq : Nat) (s : State) : Host.Outcome State Fault Refusal :=
  .next (runCmd 0x14 q seq fenceRaiseBad fenceRaise s)

/-! ### Compaction and returns -/

/-- A 4 KiB page of the object image or of the grant table, the layout of whose words the manual does not give (DESIGN CHOICE,
log entry 9). -/
def tablePage (s : State) : Bytes × State :=
  let n := s.time.free
  ((List.range 512).flatMap fun i => toLE 8 (Config.freeWord (n + i)).toNat, { s with time.free := n + 512 })

/-- Writes page `i` of the object image (144 pages) and of the grant table behind it (R303). -/
def writePage (c : Cmd) (i : Nat) (s : State) : State :=
  let w := tablePage s
  hbWrite (.image c.q c.seq) (mirrorBase s + 0x1000 + 4096 * i) (sh s 0x68) w.1 w.2

/-- LEDGER_COMPACT (R301): every live record is copied to the head; header, object image, grant table and log of the mirror are
written under the committed registers, which hold from here on (DEDUCED, log entry 145). -/
def compact (c : Cmd) (s : State) : State :=
  let live := s.ldg.log.filter fun r => !r.dead
  let s := { s with
    regs.shadow.applied := s.regs.shadow.mirrorWait.foldl (fun t e => Tab.put t e.1 e.2) s.regs.shadow.applied
    regs.shadow.mirrorWait := []
    ldg.log := [] }
  let s := each live (fun r => appendRec { r with mirrored := false }) s
  let s := each (List.range 656) (writePage c) s
  let s := hbWrite (.image c.q c.seq) (mirrorBase s) (sh s 0x68) (mirrorHeader s) s
  onCmd c.q c.seq (fun x => { x with items := [(s.out.nextId, 0)] }) s

/-- A mirror write that a compaction waits for: its own, and the records it has copied. -/
def compacting (c : Cmd) (r : HbReq) : Bool :=
  match r.kind with
  | .image q seq => q == c.q && seq == c.seq
  | .mirror .. => decide (r.id < (c.items.headD (0, 0)).1)
  | _ => false

/-- LEDGER_COMPACT ends when the mirror has everything (R72). -/
def settleCompact (s : State) : State :=
  each (s.ldg.cmds.filter fun c => itemOp c.item == 0x13 && c.st == .started && c.ran && !(s.out.hb.any (compacting c)))
    (fun c => finish c.q c.seq 0 0) s

def execLedgerCompact (q seq : Nat) (s : State) : Host.Outcome State Fault Refusal :=
  .next (runCmd 0x13 q seq (fun _ _ => []) compact s)

/-- What a channel's return rebuilds (R313): a mover, a lane and an engine start empty; a filter's window is set to all ones
in the collecting bank, with RESYNC for its tables; a lane or port of the link is trained again. -/
def rebuild (kind ix : Nat) (s : State) : State :=
  match kind with
  | 0 => onPort (ix / 4) (fun p => { p with newMask := p.newMask ||| 2 ^ (ix % 4), lanes := Tab.del p.lanes (ix % 4) }) s
  | 1 => listPort ix (onPort ix (fun p => { p with
      state := 0, unacked := [], queued := [], sent := [0, 0, 0, 0], fseq := 0, lost := [], retrains := [] }) s)
  | 3 => { s with str.lanes := Tab.del s.str.lanes ix }
  | 8 =>
    let lo := winFirst s ix
    let hi := lo + winLen s ix
    let s := if s.cap.coll then { s with cap.bank1 := Iset.add s.cap.bank1 lo hi } else
      { s with cap.bank0 := Iset.add s.cap.bank0 lo hi }
    each (tablesIn s ix) (fun e => setResync (eTrack e.2)) s
  | _ => s

/-- A channel is taken into service again: journalled, reported (R313, R325). -/
def readmitLane (kind ix : Nat) (s : State) : State :=
  raise0 0x0A09 0 (kind + 2 ^ 8 * ix) (faultRecord kind ix 0 1 (rebuild kind ix { s with
    flt.retired := Tab.del s.flt.retired (32 * kind + ix)
    flt.charged := Tab.del s.flt.charged (32 * kind + ix) }))

/-- LANE_RETURN (R95, R313): the outcome of its revalidation is outside the block's logic, so it comes with the
step. DEDUCED, log entry 120. -/
def laneReturn (pass : Bool) (c : Cmd) (s : State) : State :=
  let k := fld c.item 8 1
  let i := fld c.item 9 1
  if !retired s k i then finish c.q c.seq 0 0 s
  else if pass then settleAfter (finish c.q c.seq 0 0 (readmitLane k i s))
  else finish c.q c.seq 0x0F 0 s

def execLaneReturn (q seq : Nat) (pass : Bool) (s : State) : Host.Outcome State Fault Refusal :=
  .next (runCmd 0x0E q seq (fun c _ => laneBad c) (laneReturn pass) s)

end Sys2Proof.Machine
end

