-- ==== Sys2Proof/Machine/Assay.lean ====
section
/-! DEFINITION. Assay: weight loads and their checksums (R216, R217, R219), tiles and their verdicts (R214, R215, R218, R220
to R224), dual runs (R229), pooled lookups (R225 to R228). -/

namespace Sys2Proof.Machine

/-! ### Checksums -/

/-- Exponents of a beat, one signed byte each (R219). -/
def tapExps (b : Bytes) : List Int := b.map fun x => sext 8 x.toNat

/-- q · 2^s; a shift of 32 or more leaves 0 modulo 2^32. -/
def shifted (q s : Int) : Int := q * 2 ^ s.toNat

/-- Group checksums of consecutive columns of a weight row: Σ q · 2^(e − E) over 256 columns each (R216). -/
def groupSums (q exps : List Int) (eref : Int) : List W32 :=
  (chunks 17 256 (List.zipWith (fun x e => shifted x (e - eref)) q exps)).map fun c => BitVec.ofInt 32 (c.foldl (· + ·) 0)

/-- The parts of R_i: 2^(e_b − E) Σ_{k in b} q_k w_k modulo 2^32 for each K block b (R214, R215, R217). -/
def rowParts (q exps : List Int) (eref : Int) (w : List W32) : List W32 :=
  let ps := chunks 129 32 (List.zipWith (fun x (y : W32) => x * (y.toNat : Int)) q w)
  List.zipWith (fun c e => BitVec.ofInt 32 (shifted (c.foldl (· + ·) 0) (e - eref))) ps exps

def sumW (l : List W32) : W32 := l.foldl (· + ·) 0

/-- R_i. -/
def rowCheck (q exps : List Int) (eref : Int) (w : List W32) : W32 := sumW (rowParts q exps eref w)

/-- A shift below 0 breaks R214: the value is then open (DESIGN CHOICE, log entry 9). -/
def badShift (exps : List Int) (eref : Int) : Bool := exps.any fun e => decide (e < eref)

def freeW32s (n : Nat) (s : State) : List W32 × State :=
  ((List.range n).map fun i => (Config.freeWord (s.time.free + i)).setWidth 32, { s with time.free := s.time.free + n })

/-- Assay runs: its clock runs in ACTIVE and IDLE (R348), in a halt (R388) and in FAULT_HOLD. -/
def tapsRun (s : State) : Bool := up s && decide (s.pwr.state ≤ 1)

/-! ### Tile control words (R221) -/

def twTile (w : W64) : Nat := bits w.toNat 31 0
def twHandle (w : W64) : Nat := bits w.toNat 47 32
def twFmt (w : W64) : Nat := bits w.toNat 49 48
def twOp (w : W64) : Nat := bits w.toNat 52 50
def twReplay (w : W64) : Bool := bit w.toNat 53
def twDual (w : W64) : Nat := bits w.toNat 55 54

/-- A reserved bit set, or a format that is neither I2 nor I4 (DEDUCED, log entry 48). -/
def twBad (w : W64) : Bool := bits w.toNat 63 56 != 0 || twFmt w == 0 || twFmt w == 3

/-- K of a format: 4,096 rows in I2, 2,048 in I4. -/
def kRows (fmt : Nat) : Nat := if fmt = 1 then 4096 else 2048

/-- TAP_PROTOCOL (R236). -/
def tapProtocol (tile cause : Nat) : State → State := raise0 0x0706 1 (tile + 2 ^ 32 * cause)

/-! ### Tiles: verdicts in order (R222) -/

/-- A tile is skipped: its verdict is known once it has ended. -/
def skipTile (t : Tile) : Tile := { t with skip := true, verdict := if t.ended then some (2, false) else none }

def onTiles (f : List Tile → List Tile) (s : State) : State := { s with asy.tiles := f s.asy.tiles }

/-- Drives the verdicts that are due, in the order of the END words. -/
def driveTiles : List Tile → State → List Tile × State
  | [], s => ([], s)
  | t :: rest, s =>
    if !t.on || t.driven then
      let r := driveTiles rest s
      (t :: r.1, r.2)
    else
      match t.verdict with
      | none => (t :: rest, s)
      | some (code, req) =>
        let s := assayCount 0 1 { s with asy.verdicts := s.asy.verdicts ++ [⟨t.id, code, req⟩] }
        let r := driveTiles rest (if code = 2 then assayCount 1 1 s else s)
        ({ t with driven := true } :: r.1, r.2)

/-- Drives verdicts and forgets tiles that have nothing outstanding. -/
def settleTiles (s : State) : State :=
  let r := driveTiles s.asy.tiles s
  { r.2 with asy.tiles := r.1.filter fun t => !(t.ended && (t.driven || !t.on) && decide (t.rows ≤ t.sums)) }

/-! ### Weight loads (R216, R217) -/

def units (fmt : Nat) : Nat := if fmt = 1 then 2 else 1

def handle? (s : State) (h : Nat) : Option Handle := (s.asy.handles.find? fun x => x.1 == h).map (·.2)

/-- Naming a handle makes it the last to be evicted. -/
def nameHandle (h : Nat) (s : State) : State :=
  { s with asy.handles := (s.asy.handles.filter fun x => x.1 != h) ++ s.asy.handles.filter fun x => x.1 == h }

/-- Evicts the least recently named handles that no open tile names until `need` units are free. -/
def evictHandles (fuel need h : Nat) (named : Nat → Bool) (l : List (Nat × Handle)) : List (Nat × Handle) :=
  match fuel with
  | 0 => l
  | k + 1 =>
    if ((l.filter fun x => x.1 != h).foldl (fun a x => a + units x.2.fmt) 0) + need ≤ 30 then l
    else
      match l.find? fun x => x.1 != h && !named x.1 with
      | none => l
      | some v => evictHandles k need h named (l.filter fun x => x.1 != v.1)

def tilesNaming (s : State) (h : Nat) : List Tile := s.asy.tiles.filter fun t => t.on && t.handle == h

/-- A LOAD or LOAD_VERIFY word. -/
def loadWord (op : Nat) (w : W64) (s : State) : State :=
  if twOp w ≠ op then s
  else if twBad w then tapProtocol (twTile w) 3 s
  else
    let h := twHandle w
    match tilesNaming s h with
    | t :: _ =>
      tapProtocol t.id 4 (settleTiles (onTiles (updWhere (fun x => x.on && x.handle == h) skipTile) s))
    | [] =>
      let named := fun k => !(tilesNaming s k).isEmpty
      nameHandle h { s with
        asy.handles := evictHandles 31 (units (twFmt w)) h named s.asy.handles
        asy.load := some { handle := h, verify := op == 3, cur := { fmt := twFmt w, rot := s.asy.loads % 16 } }
        asy.loads := s.asy.loads + 1 }

def execLoad (word : W64) (s : State) : Host.Outcome State Fault Refusal := .next (when (tapsRun s) (loadWord 2 word) s)

def execLoadVerify (word : W64) (s : State) : Host.Outcome State Fault Refusal :=
  .next (when (tapsRun s) (loadWord 3 word) s)

/-- WEIGHT_EXPONENTS: 128 columns of the next block; the first beat of a load carries E^B. A beat that no load expects is
ignored (DEDUCED, log entry 48). -/
def weightExponents (exps : Bytes) (eref : Byte) (s : State) : State :=
  match s.asy.load with
  | none => s
  | some l =>
    if 4096 ≤ l.exps.length then s else
    let e := if l.exps.isEmpty && l.cur.w.isEmpty then sext 8 eref.toNat else l.eref
    { s with asy.load := some { l with eref := e, exps := l.exps ++ tapExps (slice exps 0 128) } }

def execWeightExponents (exps : Bytes) (eref : Byte) (s : State) : Host.Outcome State Fault Refusal :=
  .next (when (tapsRun s) (weightExponents exps eref) s)

/-- The first row in which two sets of checksums differ. -/
def firstDiff (a b : Handle) : Option Nat :=
  (List.range (max a.w.length b.w.length)).find? fun k => a.w[k]? != b.w[k]? || a.wg[k]? != b.wg[k]?

/-- A load is complete: with VERIFY it is compared with what the handle held; it replaces that in either case. -/
def loadDone (l : WLoad) (s : State) : State :=
  let diff := if l.verify then (handle? s l.handle).bind (firstDiff l.cur) else none
  let s := match diff with
    | some k => raise0 0x0703 2 (l.handle + 2 ^ 16 * k) (assayCount 9 1 s)
    | none => s
  lanesWrite 6 l.handle 1 { s with
    asy.load := none
    asy.handles := (s.asy.handles.filter fun x => x.1 != l.handle) ++ [(l.handle, l.cur)] }

/-- A row of weights is complete: its w_k and w_kg. -/
def weightRow (l : WLoad) (g : List W32) (s : State) : State :=
  let cur := { l.cur with w := l.cur.w ++ [g.foldl (· + ·) 0], wg := l.cur.wg ++ [g] }
  let l := { l with cur, half := none, exps := if cur.w.length % 32 = 0 then [] else l.exps }
  if cur.w.length = kRows cur.fmt then loadDone l s else { s with asy.load := some l }

/-- WEIGHT_DATA: half a row in I4, a row in I2. -/
def weightData (data : Bytes) (s : State) : State :=
  match s.asy.load with
  | none => s
  | some l =>
    if l.exps.length < 4096 then s else
    let q := elems (fmtWidth l.cur.fmt) (slice data 0 1024)
    let es := if l.half.isSome then l.exps.drop 2048 else l.exps
    let r := if badShift (es.take q.length) l.eref then freeW32s (q.length / 256) s else (groupSums q es l.eref, s)
    match l.half with
    | some g => weightRow l (g ++ r.1) r.2
    | none => if l.cur.fmt = 2 then { r.2 with asy.load := some { l with half := some r.1 } } else weightRow l r.1 r.2

def execWeightData (data : Bytes) (s : State) : Host.Outcome State Fault Refusal :=
  .next (when (tapsRun s) (weightData data) s)

/-! ### START (R218, R221) -/

/-- Slices in service, in ascending order. -/
def slicesIn (s : State) : List Nat := (List.range 16).filter fun i => !s.asy.sliceOut.contains i

/-- Whether R218 lets `n` slices check a tile. -/
def checked (n fmt tile : Nat) : Bool :=
  let l := cdiv (if fmt = 1 then 128 else 64) n * 40
  n != 0 && (decide (l ≤ 512) || decide (tile % 16 < 16 * 512 / l))

/-- The protocol error of a START. -/
def startError (w : W64) (s : State) : Option Nat :=
  if twBad w then some 3
  else if 4 ≤ (s.asy.tiles.filter fun t => t.on).length then some 0
  else if (handle? s (twHandle w)).all fun h => h.fmt != twFmt w then some 1
  else none

/-- A tile that a new START finds without its END: its row count cannot be right, and the START ends it (DEDUCED, log entry 48). -/
def closeOpen (s : State) : State :=
  match s.asy.tiles.find? fun t => !t.ended with
  | none => s
  | some t =>
    let s := onTiles (updWhere (fun x => !x.ended) fun x => skipTile { x with ended := true }) s
    settleTiles (if t.on then tapProtocol t.id 2 s else s)

/-- The checksums of a handle are lost: open tiles that name it are skipped (R321). -/
def handleLost (h : Nat) (s : State) : State :=
  settleTiles { s with
    asy.handles := s.asy.handles.filter fun x => x.1 != h
    asy.tiles := updWhere (fun t => t.on && t.handle == h && t.verdict.isNone) skipTile s.asy.tiles }

def tileStart (w : W64) (s : State) : State :=
  if twOp w ≠ 0 then s else
  let s := readLanes 6 (· == twHandle w) handleLost (closeOpen s)
  let on := assayCtl s 0
  let err := if on then startError w s else none
  let n := slicesIn s
  let skips := on && err.isNone && !checked n.length (twFmt w) (twTile w)
  let was := s.asy.failed.find? fun f => f.id == twTile w
  let t : Tile := {
    id := twTile w, handle := twHandle w, fmt := twFmt w, replay := twReplay w, dual := twDual w, ctl := sh s 0x700, on
    slices := n, rot := ((handle? s (twHandle w)).map (·.rot)).getD 0, skip := err.isSome || skips
    capture := if twReplay w && assayCtl s 3 then (was.map (·.rows)).getD [] else [] }
  let s := nameHandle (twHandle w) (onTiles (fun l => l ++ [t]) s)
  match err with
  | some c => tapProtocol (twTile w) c s
  | none => if skips then raise0 0x0708 0 (twTile w + 2 ^ 32 * n.length) s else s

def execTileStart (word : W64) (s : State) : Host.Outcome State Fault Refusal := .next (when (tapsRun s) (tileStart word) s)

/-! ### Operand rows (R219, R223, R229) -/

/-- The checks of one operand row of a tile. -/
def addRow (data exps : Bytes) (eref : Byte) (h : Handle) (t : Tile) (s : State) : Tile × State :=
  let q := elems (fmtWidth t.fmt) (slice data 0 1024)
  let es := (tapExps exps).take (kRows t.fmt / 32)
  let e := sext 8 eref.toNat
  let open_ := badShift es e
  let kb := kRows t.fmt / 32
  let r := if open_ then freeW32s kb s else (rowParts q es e h.w, s)
  let g := if !t.capture.contains t.rows then ([], r.2)
    else if open_ then let w := freeW32s (16 * kb) r.2; (chunks 17 kb w.1, w.2)
    else ((List.range 16).map fun g => rowParts q es e (h.wg.map fun l => l.getD g 0), r.2)
  ({ t with
    rows := t.rows + 1, rhs := t.rhs ++ [r.1], groups := if g.1.isEmpty then t.groups else Tab.put t.groups t.rows g.1
    sig := crcFold t.sig (slice data 0 1024 ++ slice exps 0 128 ++ [eref]) }, g.2)

/-- OPERAND_ROW: a row of the tile that has started and not ended. -/
def operandRow (data exps : Bytes) (eref : Byte) (s : State) : State :=
  match s.asy.tiles.find? fun t => !t.ended with
  | none => s
  | some t =>
    let put := fun (x : Tile) => onTiles (updWhere (fun y => !y.ended) fun _ => x)
    match handle? s t.handle with
    | some h => if t.on && !t.skip then let r := addRow data exps eref h t s; put r.1 r.2 else put { t with rows := t.rows + 1 } s
    | none => put { t with rows := t.rows + 1 } s

def execOperandRow (data exps : Bytes) (eref : Byte) (s : State) : Host.Outcome State Fault Refusal :=
  .next (when (tapsRun s) (operandRow data exps eref) s)

/-! ### The fate of a tile (R222 to R224, R229) -/

/-- ASSAY_MISMATCH: 0 FIRST, 1 TRANSIENT, 2 PERSISTENT, 3 UNRESOLVED. -/
def mismatch (tile row group cls : Nat) : State → State :=
  raise0 0x0701 (if cls = 1 then 1 else 2) (tile + 2 ^ 32 * (row % 2 ^ 20) + 2 ^ 52 * group + 2 ^ 60 * cls)

/-- A slice leaves rotation (R224, R232). -/
def sliceGone (by_ slice : Nat) (s : State) : State :=
  if s.asy.sliceOut.contains slice then s
  else raise0 0x0702 2 (slice + 2 ^ 8 * by_) { s with asy.sliceOut := slice :: s.asy.sliceOut }

def dropFailed (id : Nat) (s : State) : State := { s with asy.failed := s.asy.failed.filter fun f => f.id != id }

/-- A first run failed: the fifth failed tile evicts the oldest, which is then UNRESOLVED. -/
def firstFail (t : Tile) (row : Nat) (s : State) : State :=
  let s := dropFailed t.id s
  let s := match s.asy.failed with
    | f :: rest => if 4 ≤ s.asy.failed.length then
        mismatch f.id (f.rows.headD 0) 0xF0 3 (assayCount 3 1 { s with asy.failed := rest }) else s
    | [] => s
  mismatch t.id row 0xF0 0 { s with asy.failed := s.asy.failed ++ [⟨t.id, 0, t.fails.map (·.row)⟩] }

/-- The slice that computes K block b: the ((b + rot) mod n)-th in service (R217). -/
def sliceOf (slices : List Nat) (rot b : Nat) : Nat := slices.getD ((b + rot) % slices.length) 0

/-- What a slice set computes for the parts of a value: exact, but for the blocks of a slice that computes wrongly, whose values are
free (DESIGN CHOICE, log entry 9). -/
def computeOn (slices : List Nat) (rot : Nat) (faulty : List Nat) (parts : List W32) (s : State) : List W32 × State :=
  if faulty.all fun f => !slices.contains f then (parts, s)
  else
    let w := freeW32s parts.length s
    (parts.zipIdx.map fun p => if faulty.contains (sliceOf slices rot p.2) then w.1.getD p.2 p.1 else p.1, w.2)

/-- A persistent fault of the array. -/
def persistent (t : Tile) (f : RowFail) (s : State) : (Nat × Bool) × State :=
  ((1, false), mismatch t.id f.row f.group 2 (assayCount 3 1 s))

/-- The slices that disagree about K block b, given its values in three slice sets: the one whose value is the odd one, or all three
when no two agree (R224). -/
def disagree (slices : List Nat) (rot b : Nat) (x y z : W32) : List Nat :=
  if x = y then []
  else if z = y then [sliceOf slices rot b]
  else if z = x then [sliceOf slices (rot + 1) b]
  else [sliceOf slices rot b, sliceOf slices (rot + 1) b, sliceOf slices (rot + 2) b]

/-- A failing row is computed once more, every block on another slice; where the two disagree a third set tells which slice it was.
Answers whether the second result fails the row too: a row that the array has wrong never passes (R224; DEDUCED, log entry 147). -/
def recompute (t : Tile) (f : RowFail) (s : State) : Bool × State :=
  if t.slices.length < 2 then (true, s) else
  let y := computeOn t.slices (t.rot + 1) f.faulty f.parts s
  let fails := sumW y.1 != f.total || sumW f.parts != f.total
  if y.1 = f.first then (fails, y.2)
  else
    let z := computeOn t.slices (t.rot + 2) f.faulty f.parts y.2
    let out := (List.range f.parts.length).flatMap fun b =>
      disagree t.slices t.rot b (f.first.getD b 0) (y.1.getD b 0) (z.1.getD b 0)
    (fails, each out.dedup (sliceGone 0) z.2)

/-- The failing rows that still fail on the second slice set. -/
def stillFailing (t : Tile) : List RowFail → State → List RowFail × State
  | [], s => ([], s)
  | f :: rest, s =>
    let r := recompute t f s
    let u := stillFailing t rest r.2
    (if r.1 then f :: u.1 else u.1, u.2)

/-- R224 at the replay limit: the second slice set decides. -/
def atLimit (t : Tile) (s : State) : (Nat × Bool) × State :=
  let r := stillFailing t t.fails (dropFailed t.id s)
  match r.1 with
  | f :: _ => persistent t f r.2
  | [] => ((0, false), r.2)

/-- The verdict of the row checks. -/
def rowVerdict (t : Tile) (s : State) : (Nat × Bool) × State :=
  match (if t.replay then s.asy.failed.find? (fun f => f.id == t.id) else none), t.fails with
  | none, [] => ((0, false), s)
  | none, r :: _ => ((1, true), firstFail t r.row s)
  | some f, [] => ((0, false), mismatch t.id (f.rows.headD 0) 0xF0 1 (assayCount 2 1 (dropFailed t.id s)))
  | some f, _ :: _ =>
    if f.replays + 1 < bits t.ctl 5 4 then
      let again : Failed := ⟨t.id, f.replays + 1, t.fails.map (·.row)⟩
      ((1, true), { s with asy.failed := updWhere (fun x => x.id == t.id) (fun _ => again) s.asy.failed })
    else atLimit t s

/-- Keeps the signature of a first run, or compares that of a second one: whether they differ (R229). -/
def dualCheck (t : Tile) (s : State) : Bool × State :=
  if !bit t.ctl 2 then (false, s)
  else if t.dual = 1 then
    let l := (s.asy.sigs.filter fun x => x.1 != t.id) ++ [(t.id, t.sig)]
    (false, { s with asy.sigs := l.drop (l.length - 256) })
  else if t.dual = 2 then
    match s.asy.sigs.find? fun x => x.1 == t.id with
    | none => (false, tapProtocol t.id 5 s)
    | some x => (x.2 != t.sig, { s with asy.sigs := s.asy.sigs.filter fun y => y.1 != t.id })
  else (false, s)

/-- The last row sum of a tile has arrived: its verdict. -/
def decideTile (t : Tile) (s : State) : State :=
  let d := dualCheck t s
  let r := rowVerdict t d.2
  let v := if d.1 then ((1, false), raise0 0x0705 2 t.id (assayCount 7 1 (dropFailed t.id r.2))) else r
  settleTiles (onTiles (updWhere (fun x => x == t) fun x => { x with verdict := some v.1 }) v.2)

/-- A tile that is checked and has everything. -/
def tileReady (t : Tile) : Bool := t.on && !t.skip && t.ended && t.sums == t.rows && t.verdict.isNone

/-! ### END -/

def tileEnd (w : W64) (s : State) : State :=
  if twOp w ≠ 1 then s else
  match s.asy.tiles.find? fun t => !t.ended && t.id == twTile w with
  | none => s
  | some t =>
    let err := if !t.on || t.skip then none else if twBad w then some 3
      else if t.rows = 0 ∨ 1048576 < t.rows then some 2 else none
    let x := { t with ended := true }
    let x := if t.on && (t.skip || err.isSome) then skipTile x else x
    let s := onTiles (updWhere (fun y => !y.ended) fun _ => x) s
    let s := match err with
      | some c => tapProtocol t.id c s
      | none => s
    if tileReady x then decideTile x s else settleTiles s

def execTileEnd (word : W64) (s : State) : Host.Outcome State Fault Refusal := .next (when (tapsRun s) (tileEnd word) s)

/-! ### Row sums -/

/-- The first of the 16 groups in which the array differs from the values computed on the slice set rotated by one; 0xF0 when all
agree (R223). -/
def badGroup (slices : List Nat) (rot : Nat) (faulty : List Nat) (sums : List W32) (g : Nat) (l : List (List W32)) (s : State) :
    Nat × State :=
  match l with
  | [] => (0xF0, s)
  | p :: rest =>
    let v := computeOn slices rot faulty p s
    if sumW v.1 = sums.getD g 0 then badGroup slices rot faulty sums (g + 1) rest v.2 else (g, v.2)

/-- One row is compared: it fails when what the slices computed differs from the row sum, and whenever the array has it wrong (R215,
R224). -/
def compareRow (sums : List W32) (faulty : List Nat) (t : Tile) (s : State) : Tile × State :=
  let total := sumW (sums.take 16)
  let parts := t.rhs.headD []
  let v := computeOn t.slices t.rot faulty parts s
  let bad := sumW v.1 != total || sumW parts != total
  let g := match bad, Tab.get? t.groups t.sums with
    | true, some l => badGroup t.slices (t.rot + 1) faulty sums 0 l v.2
    | _, _ => (0xF0, v.2)
  let fail : RowFail := { row := t.sums, parts, first := v.1, total, faulty, group := g.1 }
  ({ t with
    sums := t.sums + 1, rhs := t.rhs.drop 1, sig := crcFold t.sig ((sums.take 16).flatMap fun x => toLE 4 x.toNat)
    fails := if bad ∧ t.fails.length < 64 then t.fails ++ [fail] else t.fails }, g.2)

/-- A row-sum beat that no operand row is left for: the row counts differ. The tile whose END has not come is skipped; when every
tile has ended, the beat belongs to the one of the last row sum, whose verdict is out (R221, R222; DEDUCED, log entry 48). -/
def surplusSum (s : State) : State :=
  match s.asy.tiles.find? fun t => !t.ended with
  | none => if assayCtl s 0 then tapProtocol s.asy.lastSum 2 s else s
  | some t =>
    let s := onTiles (updWhere (fun x => !x.ended) fun x => skipTile { x with sums := x.sums + 1 }) s
    if t.on && !t.skip then tapProtocol t.id 2 s else s

/-- ROW_SUM: the next row of the oldest tile with row sums outstanding. -/
def rowSum (sums : List W32) (faulty : List Nat) (s : State) : State :=
  match s.asy.tiles.find? fun t => decide (t.sums < t.rows) with
  | none => surplusSum s
  | some t =>
    let s : State := { s with asy.lastSum := t.id }
    let r := if t.on && !t.skip then compareRow sums faulty t s else ({ t with sums := t.sums + 1 }, s)
    let s := onTiles (updWhere (fun x => x == t) fun _ => r.1) r.2
    if tileReady r.1 then decideTile r.1 s else settleTiles s

def execRowSum (sums : List W32) (faulty : List Nat) (s : State) : Host.Outcome State Fault Refusal :=
  .next (when (tapsRun s) (rowSum sums faulty) s)

/-! ### Pooled lookups (R227, R228) -/

/-- POOL_HEADER: a bag begins when POOL is set. -/
def poolHeader (data : Bytes) (s : State) : State :=
  let n := fld data 2 2
  if !assayCtl s 1 ∨ n = 0 ∨ 4096 < n then { s with asy.bag := none }
  else { s with asy.bag := some { entry := fld data 0 2, n, id := fld data 4 4 } }

def execPoolHeader (data : Bytes) (s : State) : Host.Outcome State Fault Refusal :=
  .next (when (tapsRun s) (poolHeader data) s)

/-- The entry of a bag: a ROWTABLE entry with CHECKVAL in the current generation of SC_ASSAY_POOL's plan. -/
def bagEntry (s : State) (b : Bag) : Option Bytes :=
  (current? s (sh s 0x704)).bind fun g =>
    let e := entryAt g.bytes b.entry
    if b.entry < entryCount g.bytes ∧ eKind e = 2 ∧ eCheck e then some e else none

/-- Starts the reads of the check values of rows that the entry has, through the tracker (class 2, R227). -/
def askBag (b : Bag) (rows : List Nat) (s : State) : State :=
  match bagEntry s b with
  | none => s
  | some e => each (rows.filter fun r => decide (r < eSize e)) (fetchCv (eTrack e))
      (openTable (sh s 0x704) b.entry e s)

/-- POOL_INDICES: up to 128 row indices. -/
def poolIndices (data : Bytes) (s : State) : State :=
  match s.asy.bag with
  | none => s
  | some b =>
    let l := (List.range (min 128 (b.n - b.rows.length))).map fun i => fld data (8 * i) 8
    askBag b l { s with asy.bag := some { b with rows := b.rows ++ l } }

def execPoolIndices (data : Bytes) (s : State) : Host.Outcome State Fault Refusal :=
  .next (when (tapsRun s) (poolIndices data) s)

/-- POOLED_VECTOR: up to 256 pooled mantissas and the exponents of their 8 blocks. -/
def pooledVector (data exps : Bytes) (s : State) : State :=
  match s.asy.bag with
  | none => s
  | some b =>
    if b.rows.length < b.n then s
    else { s with asy.bag := some { b with
      elems := b.elems ++ elems 32 (slice data 0 1024), exps := b.exps ++ tapExps (slice exps 0 8) } }

def execPooledVector (data exps : Bytes) (s : State) : Host.Outcome State Fault Refusal :=
  .next (when (tapsRun s) (pooledVector data exps) s)

/-- Value elements of a row. -/
def rowElems (e : Bytes) : Nat :=
  if eFormat e = 0 then eRow e else eRow e / fmtUnit (eFormat e) * [1, 896, 448, 224, 255, 255].getD (eFormat e) 0

/-- R228: a row of the bag was written within the last 4,096 ns, or the table has overflowed in that time. -/
def recentlyWritten (s : State) (b : Bag) : Bool :=
  s.cap.recent.any (fun w => w.1 == b.entry && b.rows.contains w.2.1 && decide (s.time.aon < w.2.2 + 410)) ||
    s.cap.overflow.any fun t => decide (s.time.aon < t + 410)

/-- Why a bag is not checked, as the reasons of R227. -/
def poolSkip (s : State) (b : Bag) : Option Nat :=
  match bagEntry s b with
  | none => some 1
  | some e =>
    if b.rows.any fun r => decide (eSize e ≤ r) then some 2
    else if b.rows.any fun r => cvAt s (eTrack e) r == some 0xFFFFFFFF then some 3
    else if recentlyWritten s b then some 4
    else none

/-- The check value of a pooled vector. -/
def bagCv (e : Bytes) (b : Bag) : Nat := cvBlocks 3 0 (b.exps.zip (chunks (rowElems e / 32 + 1) 32 (b.elems.take (rowElems e))))

/-- The sum of the check values of a bag's rows modulo p. -/
def bagSum (s : State) (e : Bytes) (b : Bag) : Nat :=
  b.rows.foldl (fun a r => (a + ((cvAt s (eTrack e) r).getD 0)) % cvP) 0

/-- Rows of a bag whose check value the tracker does not hold yet. -/
def bagWaits (s : State) (b : Bag) : List Nat :=
  match bagEntry s b with
  | none => []
  | some e => b.rows.filter fun r => decide (r < eSize e) && (cvAt s (eTrack e) r).isNone

/-- POOL_CHECK: once the pooled vector is whole and the check values of the bag's rows have arrived (R227). -/
def poolCheck (s : State) : State :=
  match s.asy.bag with
  | none => s
  | some b =>
    let need := ((bagEntry s b).map rowElems).getD 0
    if b.rows.length < b.n ∨ b.elems.length < need then s
    else if !(bagWaits s b).isEmpty then askBag b (bagWaits s b) s
    else
      let s' := { s with asy.bag := none }
      match poolSkip s b, bagEntry s b with
      | none, some e =>
        let s' := assayCount 4 1 s'
        if bagSum s e b = bagCv e b then s' else raise0 0x0704 2 (b.id + 2 ^ 32 * b.entry) (assayCount 5 1 s')
      | _, _ => assayCount 6 1 s'

def execPoolCheck (s : State) : Host.Outcome State Fault Refusal := .next (when (tapsRun s) poolCheck s)

end Sys2Proof.Machine
end

