-- ==== Sys2Proof/Machine/Movers.lean ====
section
/-! DEFINITION. MOVER_DESCRIPTOR: a stream's next descriptor reaches a mover (R140, R141, R144, R146 to R150, R152);
CRUCIBLE_BLOCK: a lane takes a block (R16, R164 to R166). -/

namespace Sys2Proof.Machine

/-! ### Movers -/

/-- A block of a stream whose reads are not all issued. -/
def openBlock (s : State) (ctx : Nat) : Option Blk :=
  s.str.blocks.find? fun b => b.ctx == ctx && decide (b.issued < b.need) && b.tag.isNone && match b.kind with
    | .enc e entry _ => (epoch? s e).any fun x => eKind (entryAt x.list entry) == 1
    | .row .. | .raw _ | .cvRow _ => true
    | .dec _ => false

/-- Goes on with the reads of a block. -/
def goOn (mover : Nat) (b : Blk) (c : Ctx) (s : State) : State :=
  match b.kind with
  | .cvRow row => cvAgain mover b c row s
  | _ => issueReads 18 b.id mover c.cls s

/-- CURSOR and REMAIN of a stream (R138); those of the other streams are kept as they go. -/
def cursorOf (s : State) (c : Ctx) : Nat × Nat :=
  if isSource c then
    match epoch? s c.epoch with
    | none => (c.cursor, 0)
    | some x =>
      let en := entryAt x.list c.entry
      let mine := x.order.filter fun i => i.entry == c.entry
      let size := if eKind en = 2 then eRow en else 65536
      match mine.head? with
      | some i => (itemAddr en i.first, mine.foldl (fun a i => a + i.count * size) 0)
      | none => (eAddr en + eBytes en, 0)
  else (c.cursor, c.remain)

/-- Nothing is left for a mover to read for a stream: it drains (R138, R152). -/
def nothingLeft (s : State) (ctx : Nat) (c : Ctx) : Bool :=
  (openBlock s ctx).isNone &&
    (if isSource c then (cursorOf s c).2 == 0 && (epoch? s c.epoch).any fun x => x.phase == 2
     else if c.kind = 2 then c.remain == 0
     else !(s.str.jobs.any fun j => j.ctx == ctx) &&
      (if c.kind = 3 ∨ c.kind = 4 then !(c.linked && (Tab.get? s.str.ctxs c.link).isSome) else c.remain == 0))

/-- The context after a descriptor; a breakpoint of kind 2 watches its CURSOR (R390). -/
def syncCtx (ctx : Nat) (s : State) : State :=
  match Tab.get? s.str.ctxs ctx with
  | none => s
  | some c =>
    let p := cursorOf s c
    let n := { c with held := heldBy s ctx, cursor := p.1, remain := p.2, state := if nothingLeft s ctx c then 3 else 2 }
    hitKind 2 (fun b => bits b.arg 16 0 == ctx && decide (b.data ≤ p.1))
      (ctxWrite ctx c n { s with str.ctxs := Tab.put s.str.ctxs ctx n })

/-- One descriptor of a stream. -/
def descriptor (mover ctx : Nat) (c : Ctx) (s : State) : State :=
  match openBlock s ctx with
  | some b => goOn mover b c s
  | none =>
    if c.kind = 2 then indexStep ctx c s
    else if isSource c then (if c.kind = 0 then plateStep 4096 mover ctx c s else rowStep 4096 mover ctx c s)
    else if c.kind = 0 then rawStep mover ctx c s
    else if c.kind = 1 then cvStep 4096 mover ctx c s
    else if c.kind = 3 ∨ c.kind = 4 then jobStep ctx c s
    else s

/-- The mover may serve a stream: it serves it already, or it serves no other one that is not over, apart from the stream that this
one is linked with (R152; DESIGN CHOICE, log entry 133). -/
def mayServe (s : State) (mover ctx : Nat) (c : Ctx) : Bool :=
  match c.mover with
  | some m => m == mover
  | none => s.str.ctxs.all fun x => x.2.mover != some mover || x.1 == ctx || (c.linked && c.link == x.1) ||
      (x.2.linked && x.2.link == ctx)

def moverDescriptor (mover ctx : Nat) (s : State) : State :=
  if 32 ≤ mover ∨ retired s 2 mover then s else
  match Tab.get? s.str.ctxs ctx with
  | none => s
  | some c =>
    if (c.state ≠ 2 ∧ c.state ≠ 3) ∨ !mayServe s mover ctx c then s
    else settleAfter (syncCtx ctx (descriptor mover ctx c (onCtx ctx (fun x => { x with mover := some mover }) s)))

/-- Streams run once the ledger is in service and REPLAY has gone by: contexts that a warm reset kept read nothing before
(R139, R307, R354). -/
def streamsRun (s : State) : Bool := runs s && s.regs.qctl.ready && s.ldg.replayDue == 0

/-- MOVER_DESCRIPTOR. -/
def execMoverDescriptor (mover ctx : Nat) (s : State) : Host.Outcome State Fault Refusal :=
  .next (when (streamsRun s) (moverDescriptor mover ctx) s)

/-! ### Crucible -/

/-- A lane may take a block: in service, not halted by RSTEP or a recipe breakpoint (R188), and with a sector slot free in its output
area of 16 (R144, R165). -/
def laneFree (s : State) (lane : Nat) : Bool :=
  decide (lane < 32) && !retired s 3 lane && !s.dbg.lanes.contains lane &&
    decide ((s.pun.jobs.filter fun j => j.lane == some lane).length < 16)

/-- The recipe slots of CODEC 4 entries are read (R321). -/
def readRecipes (s : State) (l : List Bytes) : State := each (l.filter fun e => eCodec e == 4) (fun e => readRecipe (eSel e)) s

def crucibleBlock (lane : Nat) (pass : Bool) (s : State) : State :=
  if !laneFree s lane then s else
  match laneGrant s lane with
  | none => s
  | some (w, b) =>
    let s := readLanes 0 (fun l => l / 8192 == b.id) (fun _ => stagingLost b.id) (counted (40 + lane) w s)
    let s := match blk? s b.id with
      | none => s
      | some b =>
        match b.kind with
        | .enc e entry k => encStep lane pass b e entry k (readRecipes s ((epoch? s e).toList.map fun x => entryAt x.list entry))
        | .dec j => decStep (some lane) pass b j (if j.codec = 4 then readRecipe j.decSlot s else s)
        | _ => s
    serveFilters (settleAfter s)

/-- CRUCIBLE_BLOCK. -/
def execCrucibleBlock (lane : Nat) (checkPasses : Bool) (s : State) : Host.Outcome State Fault Refusal :=
  .next (when (streamsRun s) (crucibleBlock lane checkPasses) s)

end Sys2Proof.Machine
end

