-- ==== Sys2Proof/Machine/Link.lean ====
section
/-! DEFINITION. The link layer of the spill ports: codeword lock, training, lane alignment, link initialization, frames,
acknowledgement and credit (R237 to R251). -/

namespace Sys2Proof.Machine

/-! ### Control blocks (R241) -/

/-- A received control block of a type whose CRC is good. -/
def ctlOk (type : Nat) (b : Bytes) : Bool := b.length == 32 && fld b 0 1 == type && crcN (slice b 0 28) == fld b 28 4

/-- A control block that the port sends before any frame (R249). -/
def sendCtl (p : Nat) (b : Bytes) : State → State := onPort p fun x => { x with ctl := x.ctl ++ [ctlBlock b] }

def selfDev (s : State) : Nat := s.adm.selfDev.getD 0

/-- The four credit limits of a block. -/
def limits (b : Bytes) : List Nat := [fld b 8 4, fld b 12 4, fld b 16 4, fld b 20 4]

def limitBytes (l : List Nat) : Bytes := l.flatMap (toLE 4)

/-- A mask of lanes. -/
def maskFrom (l : List Nat) : Nat := maskOf 4 l.contains

/-! ### Training and lock (R242, R248, R250) -/

/-- Counts a lane's training result; two failed bring-ups in a row retire it. -/
def trainLane (p : Nat) (failed : List Nat) (l : Nat) (s : State) : State :=
  let old := ((port? s p).bind fun x => Tab.get? x.lanes l).getD {}
  let n := if failed.contains l then old.trainFails + 1 else 0
  let s := onPort p (fun x => { x with lanes := Tab.put x.lanes l { trainFails := if 2 ≤ n then 0 else n } }) s
  if 2 ≤ n then retire 0 (4 * p + l) 3 s else s

/-- 802.3 training of a port is over: the lanes that trained go on to FEC lock. -/
def phyTrained (p : Nat) (failed : List Nat) (s : State) : State :=
  if (port? s p).all fun x => x.state != 1 then s else
  let s := each (workLanes s p) (trainLane p failed) s
  let ok := (workLanes s p).filter fun l => !failed.contains l
  if (port? s p).all (fun x => x.state != 1) ∨ ok.isEmpty then s
  else onPort p (fun x => { x with state := 2, mask := maskFrom ok, newMask := maskFrom ok }) s

def execPhyTrainingDone (port : Nat) (failed : List Nat) (s : State) : Host.Outcome State Fault Refusal :=
  .next (when (up s) (phyTrained port failed) s)

/-- The three uncorrectable codewords that cost a lane its lock (R242): counted, and more than 64 of a lane within 1 ms retire it
(R248; DEDUCED, log entry 143). -/
def codewordsLost (p l : Nat) (s : State) : State :=
  let s := onPort p (fun y => { y with
    lost := (y.lost.filter fun e => decide (s.time.aon < e.2 + 100000)) ++ List.replicate 3 (l, s.time.aon) })
    { s with spl.uncorr := satAdd 0xFFFFFFFF s.spl.uncorr 3 }
  if 64 < ((((port? s p).map Port.lost).getD []).filter fun e => e.1 == l).length then retire 0 (4 * p + l) 1 s else s

/-- A lane's receiver acquires or loses lock. Losing it takes at least 3 uncorrectable codewords (R242). -/
def lockChange (p l : Nat) (lock : Bool) (s : State) : State :=
  match port? s p with
  | none => s
  | some x =>
    if x.state < 2 ∨ x.state = 7 ∨ 4 ≤ l then s else
    let old := (Tab.get? x.lanes l).getD {}
    let set := onPort p fun y => { y with lanes := Tab.put y.lanes l { old with lock, align := none, good := 0 } }
    if lock then
      let s := set s
      let all := (workLanes s p).all fun k => !inMask x.mask k || ((port? s p).bind fun y => Tab.get? y.lanes k).any (·.lock)
      if x.state = 2 ∧ all then onPort p (fun y => { y with state := 3 }) s else s
    else if !old.lock then s
    else
      let carries := old.align.all fun a => inMask x.rxMask a.1
      codewordsLost p l (if x.state = 2 ∨ !carries then set s
        else set (onPort p (fun y => { y with lanes := x.lanes }) (linkDown p 1 2 s)))

def execCodewordLock (port lane : Nat) (lock : Bool) (s : State) : Host.Outcome State Fault Refusal :=
  .next (when (up s) (lockChange port lane lock) s)

/-! ### LCTL (R246) -/

/-- An LCTL: the last FSEQ accepted and the credit limits; it takes in one that has not gone out yet. DEDUCED, log entry 112. -/
def putLctl (nak : Bool) (x : Port) : Port :=
  let old := x.ctl.filter fun b => fld b 0 1 == 0x20
  let nak := nak || old.any fun b => bit (fld b 1 1) 0
  { x with ctl := (x.ctl.filter fun b => fld b 0 1 != 0x20) ++
      [ctlBlock ([0x20, if nak then 1 else 0, 0, 0] ++ toLE 4 ((x.expect + 2 ^ 32 - 1) % 2 ^ 32) ++ limitBytes x.given)] }

def sendLctl (p : Nat) (nak : Bool) : State → State := onPort p (putLctl nak)

def isUp (x : Port) : Bool := x.state == 5 || x.state == 6

def execLctlDue (port : Nat) (s : State) : Host.Outcome State Fault Refusal :=
  .next (when (up s && (port? s port).any isUp) (sendLctl port false) s)

/-! ### Link initialization (R251) -/

/-- The lanes that both ends have aligned: working transmit lanes and lanes of the received mask. -/
def firstMask (s : State) (p : Nat) (x : Port) : Nat :=
  maskFrom ((workLanes s p).filter fun l => inMask x.mask l && inMask x.rxMask l)

/-- The link is up: FSEQ and credits start again, frames not acknowledged are sent again in order, and HELLO goes to the
direct peers (R248, R251, R254, R271). -/
def linkUp (p : Nat) (s : State) : State :=
  match port? s p with
  | none => s
  | some x =>
    let s := onPort p (fun y => { y with
      state := 5, fseq := 0, expect := 0, sent := [0, 0, 0, 0], given := [256, 8204, 16408, 8204], nakSent := false
      acked := false, unacked := [], queued := x.unacked.map lostFrame ++ y.queued }) s
    let s := raise0 0x0801 0 (p + 2 ^ 4 * x.mask + 2 ^ 8 * x.partner) s
    if (directPeers s p).any (fun d => (Tab.get? s.spl.peers d).any (·.conflict)) then onPort p (fun y => { y with state := 6 }) s
    else helloPort p s

/-- The first block after the follower's LINIT_ACK brings its link up. DEDUCED, log entry 111. -/
def firstBlock (p : Nat) (s : State) : State :=
  if (port? s p).any fun x => x.state == 4 && x.acked then linkUp p s else s

/-- The leader sends LINIT. -/
def sendLinit (p : Nat) (s : State) : State :=
  match port? s p with
  | none => s
  | some x =>
    if x.state = 4 ∧ selfDev s < x.partner then
      sendCtl p ([0x30] ++ toLE 1 (firstMask s p x) ++ zeros 2 ++ toLE 4 (selfDev s) ++ limitBytes x.given) s
    else s

def execLinitRepeat (port : Nat) (s : State) : Host.Outcome State Fault Refusal := .next (when (up s) (sendLinit port) s)

/-- The follower takes the leader's mask and limits and answers. -/
def linit (p : Nat) (b : Bytes) (s : State) : State :=
  match port? s p with
  | none => s
  | some x =>
    if !ctlOk 0x30 b ∨ fld b 4 4 ≠ x.partner ∨ selfDev s ≤ x.partner ∨ !(x.state == 4 || isUp x) then s else
    let m := fld b 1 1 % 16
    let s := if x.state = 4 ∧ !x.acked then
        onPort p (fun y => { y with cred := limits b, mask := m, newMask := m, rxMask := m, acked := true }) s
      else firstBlock p s
    sendCtl p ([0x31, 0, 0, 0] ++ toLE 4 (selfDev s) ++ limitBytes x.given) s

def execLinit (port : Nat) (block : Bytes) (s : State) : Host.Outcome State Fault Refusal :=
  .next (when (up s) (linit port block) s)

/-- The leader receives LINIT_ACK: the link is up. -/
def linitAck (p : Nat) (b : Bytes) (s : State) : State :=
  match port? s p with
  | none => s
  | some x =>
    if !ctlOk 0x31 b ∨ fld b 4 4 ≠ x.partner ∨ x.partner ≤ selfDev s ∨ x.state ≠ 4 then s else
    let m := firstMask s p x
    linkUp p (onPort p (fun y => { y with cred := limits b, mask := m, newMask := m, rxMask := m }) s)

def execLinitAck (port : Nat) (block : Bytes) (s : State) : Host.Outcome State Fault Refusal :=
  .next (when (up s) (linitAck port block) s)

/-! ### Alignment (R243, R244, R250) -/

/-- Every logical lane of the received mask has two consistent intervals with equal DEVICE and COUNT. -/
def aligned (x : Port) (mask : Nat) (dev cnt : Nat) : Bool :=
  mask != 0 && (List.range 4).all fun l => !inMask mask l || x.lanes.any fun e =>
    e.2.align == some (l, dev, cnt) && decide (2 ≤ e.2.good)

/-- A port that has aligned learns its partner: it goes on to link initialization or stops with LINK_ERROR. -/
def alignDone (p dev : Nat) (s : State) : State :=
  let stop := fun cause => raise0 0x0803 1 (p + 2 ^ 8 * cause + 2 ^ 32 * dev) (onPort p (fun y => { y with state := 7 }) s)
  let s' := onPort p (fun y => { y with partner := dev, state := 4 }) s
  if dev = selfDev s then stop 2 else if (directPeers s p).contains dev then s' else stop 1

/-- ALIGN received on a lane. -/
def alignRx (p l : Nat) (b : Bytes) (s : State) : State :=
  match port? s p with
  | none => s
  | some x =>
    let old := (Tab.get? x.lanes l).getD {}
    if !ctlOk 2 b ∨ !old.lock ∨ x.state < 3 ∨ x.state = 7 then s else
    let lane := fld b 1 1
    let mask := fld b 2 1 % 16
    let dev := fld b 4 4 % 2 ^ 18
    let cnt := fld b 8 4
    let cons := old.align == some (lane, dev, (cnt + 2 ^ 32 - 1) % 2 ^ 32)
    let good := if cons then old.good + 1 else 1
    let s := onPort p (fun y => { y with
      lanes := Tab.put y.lanes l { old with align := some (lane, dev, cnt), good }
      rxMask := if inMask mask lane then mask else y.rxMask }) s
    match port? s p with
    | none => s
    | some y =>
      if y.state = 3 ∧ aligned y y.rxMask dev cnt then alignDone p dev s
      else firstBlock p s

def execAlign (port lane : Nat) (block : Bytes) (s : State) : Host.Outcome State Fault Refusal :=
  .next (when (up s) (alignRx port lane block) s)

/-- ALIGN sent on every working lane: a changed MASK applies from here (R243, R244). -/
def alignDue (p : Nat) (s : State) : State :=
  match port? s p with
  | none => s
  | some x =>
    if x.state < 2 ∨ x.state = 7 then s else
    let blk := fun l => [2] ++ toLE 1 l ++ toLE 1 x.newMask ++ toLE 1 p ++ toLE 4 (selfDev s) ++ toLE 4 x.count ++ zeros 16
    onPort p (fun y => { y with
      aligns := (workLanes s p).map fun l => (l, ctlBlock (blk l)), mask := x.newMask, count := (x.count + 1) % 2 ^ 32 }) s

def execAlignDue (port : Nat) (s : State) : Host.Outcome State Fault Refusal := .next (when (up s) (alignDue port) s)

/-! ### Frames (R245 to R248) -/

/-- The port retrains: the link goes down and is initialized again; three times within 1 s retire it (R248).
DEDUCED, log entry 110. -/
def retrain (p : Nat) (s : State) : State :=
  match port? s p with
  | none => s
  | some x =>
    let keep := x.lanes
    let times := (x.retrains.filter fun t => decide (s.time.aon < t + 100000000)) ++ [s.time.aon]
    let s := linkDown p 0 4 s
    let s := onPort p (fun y => { y with lanes := keep, rxMask := x.rxMask, retrains := times }) s
    if 3 ≤ times.length then retire 1 p 1 s else s

/-- Every frame that is not acknowledged is due to be sent again, in FSEQ order, after the frame in progress; one sent 9 times makes
the port retrain (R248, R249). -/
def resend (p : Nat) (s : State) : State :=
  match port? s p with
  | none => s
  | some x =>
    if x.unacked.any fun f => decide (9 ≤ f.sends) then retrain p s
    else
      onPort p (fun y => { y with
        unacked := y.unacked.map fun f => { f with sends := f.sends + 1 }
        again := y.unacked.map (·.fseq) })
        { s with spl.replays := satAdd 0xFFFFFFFF s.spl.replays x.unacked.length }

def execFrameResendTimeout (port : Nat) (s : State) : Host.Outcome State Fault Refusal :=
  .next (when (up s && (port? s port).any fun x => isUp x && !x.unacked.isEmpty) (fun s => settleAfter (resend port s)) s)

/-- A tiding whose frame is acknowledged lets its completion be journalled (R300). -/
def tidingAcked (m : Bytes) (s : State) : State :=
  if mType m = 0x30 ∧ fld m 64 1 = 0 then tidingSettled m s else s

/-- LCTL received (R246, R247). -/
def lctl (p : Nat) (b : Bytes) (s : State) : State :=
  if !ctlOk 0x20 b then s else
  let s := firstBlock p s
  match port? s p with
  | none => s
  | some x =>
    if !isUp x then s else
    let ack := fld b 4 4
    let done := if x.unacked.any (fun f => f.fseq == ack) then
        (x.unacked.takeWhile fun f => f.fseq != ack) ++ (x.unacked.filter fun f => f.fseq == ack)
      else []
    let s := onPort p (fun y => { y with cred := limits b, unacked := y.unacked.drop done.length }) s
    let s := each done (fun f => tidingAcked f.msg) s
    let s := if fld b 1 1 % 2 = 1 then resend p s else s
    settleAfter (settleDeletes s)

def execLctl (port : Nat) (block : Bytes) (s : State) : Host.Outcome State Fault Refusal :=
  .next (when (up s) (lctl port block) s)

/-- Message types (R257). -/
def knownType (t : Nat) : Bool :=
  [1, 2, 3, 4, 8, 9, 0xA, 0x10, 0x11, 0x12, 0x13, 0x20, 0x21, 0x30].contains t

/-- The buffer of a message is freed: its blocks are credited again, and an LCTL says so (R246). -/
def freeBlocks (p : Nat) (m : Bytes) : State → State :=
  onPort p fun x =>
    let x := { x with given := x.given.modify (vcOf (mType m)) fun n => (n + frameBlocks m) % 2 ^ 32 }
    if isUp x then putLctl false x else x

/-- A frame accepted: its message waits for the transaction layer; one of an unknown type is refused (R257). -/
def acceptFrame (p : Nat) (data : Bytes) (s : State) : State :=
  let m := if 64 ≤ mLen data ∧ mLen data ≤ data.length then data.take (mLen data) else data
  let s := onPort p (fun x => { x with expect := (x.expect + 1) % 2 ^ 32, nakSent := false }) s
  let s := if knownType (mType m) then onPort p (fun x => { x with rx := x.rx ++ [m] }) s
    else freeBlocks p m { s with spl.refused := satAdd 0xFFFFFFFF s.spl.refused 1 }
  sendLctl p false s

/-- A frame is discarded: NAK on the first one until the expected FSEQ arrives (R246). -/
def discardFrame (p : Nat) (s : State) : State :=
  if (port? s p).any fun x => isUp x && !x.nakSent then sendLctl p true (onPort p (fun y => { y with nakSent := true }) s) else s

/-- FRAME received: accepted when its FRAME block and FCRC are good and its FSEQ is the next one expected, else discarded (R246). -/
def frameRx (p : Nat) (b data : Bytes) (s : State) : State :=
  let good := ctlOk 0x10 b
  let s := if good then firstBlock p s else s
  match port? s p with
  | none => s
  | some x =>
    if !isUp x then s
    else if good ∧ fld b 4 4 = x.expect ∧ data.length = 32 * fld b 2 2 ∧ crcN data = fld b 8 4 then acceptFrame p data s
    else discardFrame p s

def execFrame (port : Nat) (block : Bytes) (data : Bytes) (s : State) : Host.Outcome State Fault Refusal :=
  .next (when (up s) (frameRx port block data) s)

end Sys2Proof.Machine
end

