-- ==== Sys2Proof/Machine/Messages.lean ====
section
/-! DEFINITION. Transaction messages received, and requests: handshake, fencing, exported vaults, sectors, digests,
tidings (R254 to R268). -/

namespace Sys2Proof.Machine

/-! ### Headers (R256, R257) -/

/-- Which header fields a type uses; LENGTH as a function of the message. -/
structure MUse where
  status : Bool := false
  flags : Bool := false
  vault : Bool := false
  epoch : Bool := false
  count : Bool := false
  sector : Bool := false
  pvault : Bool := false
  arg : Nat := 0
  length : Bytes → Nat := fun _ => 64

def mUse (t : Nat) : MUse :=
  match t with
  | 0x01 => { length := fun _ => 96 }
  | 0x02 => { status := true, length := fun _ => 96 }
  | 0x03 => { arg := 2 ^ 32 }
  | 0x04 => { arg := 2 ^ 40 }
  | 0x08 => { vault := true, arg := 2 ^ 64 }
  | 0x09 => { vault := true }
  | 0x0A => { status := true, vault := true }
  | 0x10 => { flags := true, vault := true, epoch := true, count := true, sector := true, pvault := true, arg := 2 ^ 64
              length := fun m => 64 + 4096 * mCount m }
  | 0x11 => { status := true, arg := 2 ^ 16 }
  | 0x12 => { vault := true, count := true, sector := true }
  | 0x13 => { status := true, count := true, sector := true, length := fun m => 64 + 4096 * mCount m }
  | 0x20 => { vault := true, epoch := true, count := true, sector := true, length := fun m => 64 + 32 * mCount m }
  | 0x21 => { status := true, count := true, length := fun m => 64 + roundUp (cdiv (mCount m) 4) 32 }
  | _ => { length := fun _ => 96 }

/-- COUNT and STRIDE are in the range of the type. -/
def countOk (m : Bytes) : Bool :=
  let n := mCount m
  let t := mType m
  if t = 0x10 ∨ t = 0x12 then decide (1 ≤ n) && decide (n ≤ 16) && decide (1 ≤ mStride m)
  else if t = 0x13 then decide (n ≤ 16) && (n == 0 || decide (1 ≤ mStride m))
  else if t = 0x20 then decide (1 ≤ n) && decide (n ≤ 2048) && decide (1 ≤ mStride m)
  else if t = 0x21 then decide (n ≤ 2048)
  else true

/-- A header that keeps R256 and R257, for this device. -/
def headerOk (s : State) (m : Bytes) : Bool :=
  let u := mUse (mType m)
  mDst m == selfDev s && decide (mSrc m < 2 ^ 18) && fld m 38 2 == 0 && m.length == mLen m && mLen m == u.length m &&
    (u.status || mStatus m == 0) && (if u.flags then decide (mFlags m ≤ 1) else mFlags m == 0) &&
    (u.vault || mVault m == 0) && (u.epoch || mEpoch m == 0) && (u.count || mCount m == 0) &&
    (u.sector || (mSector m == 0 && mStride m == 0)) && (u.pvault || mPvault m == 0) &&
    (if u.arg = 0 then mArg m == 0 else decide (mArg m < u.arg)) && countOk m &&
    (mType m != 0x10 || (if mFlags m = 1 then mCount m == 1 else mArg m == 0))

/-! ### Reception (R257, R262) -/

def countRefused (s : State) : State := { s with spl.refused := satAdd 0xFFFFFFFF s.spl.refused 1 }

/-- The type of the response to a request. -/
def responseType (t : Nat) : Option Nat :=
  match t with
  | 0x01 => some 2
  | 0x08 | 0x09 => some 0xA
  | 0x10 => some 0x11
  | 0x12 => some 0x13
  | 0x20 => some 0x21
  | _ => none

/-- A response to a message. -/
def reply (m : Bytes) (x : Msg) : State → State := send { x with dst := mSrc m, tag := mTag m }

/-- Refuses a message whose header breaks R257. -/
def refuseMsg (p : Nat) (m : Bytes) (s : State) : State :=
  match responseType (mType m) with
  | some 2 => sendOn p { mtype := 2, status := 3, dst := mSrc m, tag := mTag m, body := helloBody s (mSrc m) } s
  | some t => reply m { mtype := t, status := 3, dst := 0, vault := if t = 0xA then mVault m else 0 } s
  | none => countRefused s

/-- A message of a lower fence generation: dropped, counted, answered FENCED at most once per 1 ms (R262). -/
def fenceDrop (p : Nat) (m : Bytes) (s : State) : State :=
  let d := mSrc m
  let s := raise0 0x0806 1 (d + 2 ^ 32 * mGen m) { s with spl.fenceDrops := satAdd 0xFFFFFFFF s.spl.fenceDrops 1 }
  if (Tab.get? s.spl.fencedAt d).all fun t => decide (t + 100000 ≤ s.time.aon) then
    sendOn p { mtype := 4, dst := d, arg := expectedGen s d + 2 ^ 32 * mType m }
      { s with spl.fencedAt := Tab.put s.spl.fencedAt d s.time.aon }
  else s

/-- A message that is accepted: a higher generation raises the expected one (R262). -/
def hear (m : Bytes) (s : State) : State :=
  let d := mSrc m
  let s := if expectedGen s d < mGen m then
      raise0 0x0808 1 (d + 2 ^ 32 * mGen m) { s with adm.fenceExp := Tab.put s.adm.fenceExp d (mGen m) }
    else s
  { s with spl.peers := Tab.upd s.spl.peers d fun x => { x with gen := mGen m, heard := true, lost := false } }

/-- Takes the oldest message of a type from a port and processes it when the sender is listed and not fenced.
DEDUCED, log entry 113. -/
def receive (mtype p : Nat) (f : Bytes → State → State) (s : State) : State :=
  match (port? s p).bind fun x => x.rx.find? fun m => mType m == mtype with
  | none => s
  | some m =>
    let s := freeBlocks p m (onPort p (fun x => { x with rx := x.rx.erase m }) s)
    if (topoDev s (mSrc m)).isNone then
      if mtype = 1 then sendOn p { mtype := 2, status := 3, dst := mSrc m, tag := mTag m, body := helloBody s (mSrc m) } s
      else countRefused s
    else if mGen m < expectedGen s (mSrc m) then fenceDrop p m s
    else if !headerOk s m then refuseMsg p m (hear m s)
    else settleAfter (f m (hear m s))

/-- The step of a message row. -/
def msgRow (mtype p : Nat) (f : Bytes → State → State) (s : State) : Host.Outcome State Fault Refusal :=
  .next (when (txRuns s) (receive mtype p f) s)

/-! ### Handshake (R254, R255) -/

/-- Keeps the claim of a peer. -/
def keepClaim (d g c : Nat) (s : State) : State :=
  { s with spl.peers := Tab.upd s.spl.peers d fun x => { x with ringGen := g, coord := c } }

/-- HELLO: claims are compared; the loser marks the link CONFLICT, the winner answers CONFLICT. DEDUCED, log entry
117. -/
def helloRx (p : Nat) (m : Bytes) (s : State) : State :=
  let d := mSrc m
  let g := fld m 68 4
  let c := fld m 72 4
  let ack := fun status (s : State) =>
    sendOn p { mtype := 2, status, dst := d, tag := mTag m, body := helloBody s d } s
  if claimLoses s.adm.ringGen s.adm.coord g c then markConflict p d g c s
  else
    let s := keepClaim d g c s
    if claimLoses g c s.adm.ringGen s.adm.coord then ack 9 s else ack 0 s

def execHello (port : Nat) (s : State) : Host.Outcome State Fault Refusal := msgRow 1 port (helloRx port) s

/-- EPOCH_DURABLE again to a replica that can now be reached (DEDUCED, log entry 45). -/
def resendDurable (d : Nat) (s : State) : State :=
  each ((Tab.vals s.cap.epochs).filter fun x => x.durableSent && (otherReplicas s x.list).contains d)
    (fun x => sendDurable x [d]) s

/-- The peer has answered with the same claim: it is ready. -/
def peerReady (p d : Nat) (s : State) : State :=
  if hopOf s d ≠ d ∨ (Tab.get? s.spl.peers d).all (·.ready) then s else
  let s := { s with spl.peers := Tab.upd s.spl.peers d fun x => { x with ready := true, conflict := false, port := p } }
  resendDurable d (raise0 0x0804 0 (d + 2 ^ 18 * p) s)

def helloAckRx (p : Nat) (m : Bytes) (s : State) : State :=
  let d := mSrc m
  let g := fld m 68 4
  let c := fld m 72 4
  if mStatus m = 3 then s
  else if mStatus m = 9 ∨ claimLoses s.adm.ringGen s.adm.coord g c then markConflict p d g c s
  else if g = s.adm.ringGen ∧ c = s.adm.coord then peerReady p d (keepClaim d g c s)
  else keepClaim d g c s

def execHelloAck (port : Nat) (s : State) : Host.Outcome State Fault Refusal := msgRow 2 port (helloAckRx port) s

/-- HELLO again to a direct peer that has not answered (R254). -/
def helloRepeat (d : Nat) (s : State) : State :=
  match Tab.get? s.spl.peers d, bestPort s d with
  | some x, some p => if x.ready ∨ hopOf s d ≠ d then s else sendHello p d s
  | _, _ => s

def execHelloRepeat (peer : Nat) (s : State) : Host.Outcome State Fault Refusal :=
  .next (when (txRuns s) (helloRepeat peer) s)

/-! ### Fencing (R263) -/

def fencedBy (m : Bytes) : State → State := enterFenced (mSrc m) (mArg m % 2 ^ 32)

def execFence (port : Nat) (s : State) : Host.Outcome State Fault Refusal := msgRow 3 port fencedBy s
def execFenced (port : Nat) (s : State) : Host.Outcome State Fault Refusal := msgRow 4 port fencedBy s

/-! ### Vaults of peers (R261) -/

/-- The exported HOST vault that a message names, when the sender may use it. -/
def exported (s : State) (m : Bytes) : Option Vault :=
  (vault? s (mVault m)).bind fun v => if vWhere v == 0 && vExport v == some (mSrc m) then some v else none

def isOpen (s : State) (m : Bytes) : Bool := s.spl.opens.contains (mVault m, mSrc m)

def vaultOpenRx (m : Bytes) (s : State) : State :=
  let ok := (exported s m).any fun v => decide (mArg m ≤ vSectors v)
  let s := if ok && !isOpen s m then { s with spl.opens := s.spl.opens ++ [(mVault m, mSrc m)] } else s
  reply m { mtype := 0xA, status := if ok then 0 else 3, dst := 0, vault := mVault m } s

def execVaultOpen (port : Nat) (s : State) : Host.Outcome State Fault Refusal := msgRow 8 port vaultOpenRx s

def vaultCloseRx (m : Bytes) (s : State) : State :=
  reply m { mtype := 0xA, dst := 0, vault := mVault m }
    { s with spl.opens := s.spl.opens.filter fun o => o != (mVault m, mSrc m) }

def execVaultClose (port : Nat) (s : State) : Host.Outcome State Fault Refusal := msgRow 9 port vaultCloseRx s

/-- The request that a response answers, taken from those outstanding. -/
def answered (m : Bytes) (types : List Nat) (f : Req → State → State) (s : State) : State :=
  match s.spl.reqs.find? fun r => r.tag == mTag m && r.peer == mSrc m && types.contains r.mtype with
  | none => s
  | some r => f r { s with spl.reqs := s.spl.reqs.filter fun x => x.tag != r.tag }

/-- DETAIL of a MALFORMED reply (R261): a sink refuses SECTORS; a buddy does not say which field it refused, so the value is
free (DESIGN CHOICE, log entry 9); a close names VAULT_ID. -/
def replyDetail (c : Cmd) (s : State) : Nat × State :=
  if itemOp c.item = 2 then (8, s)
  else if fld c.item 12 1 = 2 then (24, s)
  else (if Config.freeFlag s.time.free then 24 else 32, { s with time.free := s.time.free + 1 })

/-- VAULT_REPLY ends the command that waits for it. -/
def vaultReplyRx (m : Bytes) (s : State) : State :=
  answered m [8, 9] (fun r s =>
    match r.owner.bind fun o => cmd? s o.1 o.2 with
    | none => s
    | some c =>
      let d := if mStatus m = 3 then replyDetail c s else (0, s)
      vaultReplied c (mStatus m) d.1 d.2) s

def execVaultReply (port : Nat) (s : State) : Host.Outcome State Fault Refusal := msgRow 0xA port vaultReplyRx s

/-! ### Sectors (R259, R261) -/

/-- Sector `i` of a message that carries sectors. -/
def msgSector (m : Bytes) (i : Nat) : Bytes := slice m (64 + 4096 * i) 4096

/-- A received sector passes the check of R197 with PVAULT, EPOCH and its number, or ARG for a dispute copy. -/
def arrivedOk (m : Bytes) (i : Nat) : Bool :=
  let n := if mFlags m = 1 then mArg m else mSector m + i * mStride m
  sectorCrcOk (mPvault m) n (msgSector m i) && hEpoch (msgSector m i) == mEpoch m

/-- Answers a SECTOR_WRITE. -/
def sectorAck (dev tag bad : Nat) (s : State) : State :=
  send { mtype := 0x11, status := if bad = 0 then 0 else 0x0C, dst := dev, tag, arg := bad } s

/-- SECTOR_WRITE to an exported vault: the sectors that pass are written to host memory; the answer waits for them. -/
def sectorWriteRx (m : Bytes) (s : State) : State :=
  match exported s m with
  | none => reply m { mtype := 0x11, status := 3, dst := 0 } s
  | some v =>
    let ns := msgSectors m
    if !isOpen s m ∨ ns.any (fun n => decide (vSectors v ≤ n)) then reply m { mtype := 0x11, status := 3, dst := 0 } s
    else
      let good := (List.range (mCount m)).filter (arrivedOk m)
      let bad := maskOf (mCount m) fun i => !good.contains i
      if good.isEmpty then sectorAck (mSrc m) (mTag m) bad s
      else
        let rest := s.spl.rxWrites.filter fun w => !(w.1 == mSrc m && w.2.1 == mTag m)
        each good (fun i => hbSector (.peerSec (mSrc m) (mTag m) i) (vBase v + 4096 * ns.getD i 0) (vTdid v) (ns.getD i 0) 4 none (msgSector m i))
          { s with spl.rxWrites := rest ++ [(mSrc m, mTag m, good.length, bad)] }

def execSectorWrite (port : Nat) (s : State) : Host.Outcome State Fault Refusal := msgRow 0x10 port sectorWriteRx s

/-- A write of a received sector is answered: the last one lets SECTOR_ACK go. A sector that could not be written is
reported as failed. -/
def peerSecDone (dev tag i : Nat) (ok : Bool) (s : State) : State :=
  match s.spl.rxWrites.find? fun w => w.1 == dev && w.2.1 == tag with
  | none => s
  | some w =>
    let bad := if ok then w.2.2.2 else w.2.2.2 ||| 2 ^ i
    let rest := s.spl.rxWrites.filter fun x => !(x.1 == dev && x.2.1 == tag)
    if w.2.2.1 ≤ 1 then sectorAck dev tag bad { s with spl.rxWrites := rest }
    else { s with spl.rxWrites := rest ++ [(dev, tag, w.2.2.1 - 1, bad)] }

/-- The epoch that a request carries sectors of cannot go on (R258, R309). -/
def requestLost (r : Req) (why : Nat × Nat) (s : State) : State :=
  match r.owner with
  | some (q, seq) => finish q seq why.1 why.2 (stopCmd q seq s)
  | none => abandonEpoch r.epoch why (if why.1 = 0x0F then endCmds r.epoch [0x41, 0x42] 0x0F why.2 s else s)

/-- One sector of a request is acknowledged: a seal sector, a dispute copy or a sector of an ingot. -/
def reqSectorAcked (r : Req) (j : Nat) (s : State) : State :=
  if r.dispute then
    let n := r.isectors.headD 0
    { s with
      pun.dispOut := s.pun.dispOut.filter fun d => !(d.1 == r.epoch && d.2.1 == n)
      pun.escrow := Tab.del s.pun.escrow n }
  else if r.entry = sealMark 1 then sealed r.epoch s
  else if r.entry = sealMark 0 then sealListAcked r.epoch 1 s
  else ackSector r.epoch r.entry j s

/-- The sectors of a request that failed at the destination are sent again, three times at most (R259, R309). -/
def resendSectors (r : Req) (bad : List Nat) (s : State) : State :=
  if 3 ≤ r.again then requestLost r (0x11, 0x0C) s
  else
    each bad (fun i t =>
      request { mtype := 0x10, dst := r.peer, flags := mFlags r.msg, vault := mVault r.msg, epoch := mEpoch r.msg, count := 1
                sector := mSector r.msg + i * mStride r.msg, stride := 1, pvault := mPvault r.msg, arg := mArg r.msg
                body := msgSector r.msg i, cls := r.cls, ctx := r.ctx }
        { r with isectors := [r.isectors.getD i 0], again := r.again + 1 } t) s

/-- SECTOR_ACK (R259). -/
def sectorAckRx (m : Bytes) (s : State) : State :=
  answered m [0x10] (fun r s =>
    let n := r.isectors.length
    if mStatus m ≠ 0 ∧ mStatus m ≠ 0x0C then requestLost r (0x11, 0x0C) s
    else
      let bad := if mStatus m = 0 then [] else (List.range n).filter (mArg m).testBit
      let good := (List.range n).filter fun i => !bad.contains i
      let s := each good (fun i => reqSectorAcked r (r.isectors.getD i 0)) s
      if bad.isEmpty then s else resendSectors r bad s) s

def execSectorAck (port : Nat) (s : State) : Host.Outcome State Fault Refusal := msgRow 0x11 port sectorAckRx s

/-- SECTOR_READ of an exported vault, answered with what host memory holds; a sector never written is zeros (R259). -/
def sectorReadRx (sectors : Tab Bytes) (m : Bytes) (s : State) : State :=
  let ns := msgSectors m
  let ok := (exported s m).any fun v => isOpen s m && ns.all fun n => decide (n < vSectors v)
  if ok then
    let s := match exported s m with
      | some v => each ns (fun n => readCtl (vBase v + 4096 * n) (vTdid v) 4096 5) s
      | none => s
    reply m { mtype := 0x13, dst := 0, count := mCount m, sector := mSector m, stride := mStride m
              body := ns.flatMap fun n => slice (Tab.getD sectors n []) 0 4096, cls := 5 } s
  else reply m { mtype := 0x13, status := 3, dst := 0 } s

def execSectorRead (port : Nat) (sectors : Tab Bytes) (s : State) : Host.Outcome State Fault Refusal :=
  msgRow 0x12 port (sectorReadRx sectors) s

/-- SECTOR_DATA ends the reads of its request; a refusal leaves them without data. -/
def sectorDataRx (m : Bytes) (s : State) : State :=
  answered m [0x12] (fun r s =>
    let ix := (List.range r.isectors.length).map fun k => (k, r.isectors.getD k 0)
    if mStatus m = 0 ∧ mCount m = r.isectors.length then
      each ix (fun p => sectorArrives r.entry p.2 r.again (msgSector m p.1)) s
    else each ix (fun p => keepSector r.entry p.2 [] 1) s) s

/-- Runs a step in which sectors may be read back, with the engines whose self-checks fail for the first of them (R194). -/
def withChecks (fails : List (Nat × Nat)) (f : State → State) (s : State) : State :=
  let t := f { s with pun.readFails := fails }
  { t with pun.readFails := [] }

def execSectorData (port : Nat) (fails : List (Nat × Nat)) (s : State) : Host.Outcome State Fault Refusal :=
  msgRow 0x13 port (fun m => withChecks fails (sectorDataRx m)) s

/-! ### Digests (R266, R267) -/

/-- A digest belongs to a sector that this device has sealed: that of its epoch; under a number that is no epoch of this device, the
one whose digest from the same device is still to come, which it can only be by a difference in numbers (R196; DEDUCED, log
entry 144). -/
def isOwn (s : State) (d e : Nat) (o : Nat × Bytes × List Nat) : Bool :=
  o.1 == e || ((epoch? s e).isNone && (epoch? s o.1).any unresolved && !o.2.2.contains d)

/-- One digest of a DIGEST message: compared, stored until the sector is sealed, or left for LATER. -/
def digestIn (m : Bytes) (i : Nat) (s : State) : State :=
  let d := mSrc m
  let n := mSector m + i * mStride m
  let e := mEpoch m
  let dig := slice m (64 + 32 * i) 32
  if (verdictOf s d n e).isSome then s
  else
    match (Tab.get? s.pun.own n).filter (isOwn s d e) with
    | some o => compareDigest d n e o.1 o.2.1 dig s
    | none =>
      let past := (epoch? s e).any fun x => !unresolved x
      if past ∨ escrowSlots s < s.pun.escrow.length + cdiv (s.pun.stored.length + 1) 128 then s
      else { s with pun.stored := s.pun.stored ++ [⟨n, d, mTag m, e, dig⟩] }

/-- DIGEST: answered once no digest of it waits for a sector; a repeated message waits with the first (R258). -/
def digestRx (m : Bytes) (s : State) : State :=
  if s.pun.digMsgs.any fun x => mTag x == mTag m && mSrc x == mSrc m then s
  else
    let s := each (List.range (mCount m)) (digestIn m) s
    answerReady { s with pun.digMsgs := s.pun.digMsgs ++ [m] }

def execDigestMessage (port : Nat) (s : State) : Host.Outcome State Fault Refusal := msgRow 0x20 port digestRx s

/-- Dispute copies that this device has placed for an epoch. -/
def copies (x : Epoch) : Nat := (x.disputes.filter fun d => d.2 != 2 ^ 64 - 1).length

/-- DIFFER: the escrowed sector goes to the next free sector of the dispute range and DIVERGED is raised (R267). -/
def differ (dev e n : Nat) (s : State) : State :=
  match epoch? s e, Tab.get? s.pun.escrow n with
  | some x, some esc =>
    match epochVault s x with
    | none => s
    | some (v, a) =>
      let k := copies x
      if 2048 ≤ k then abandonEpoch e (0x11, 0x0A) s
      else
        let at_ := disputeBase v a e (hIx x.list) + k
        let s := onEpoch e (fun y => { y with diverged := true, disputes := y.disputes ++ [(n, at_)] }) s
        let s := { s with pun.dispOut := s.pun.dispOut ++ [(e, n, at_)] }
        let r : Req := { tag := 0, peer := 0, mtype := 0x10, msg := [], epoch := e, isectors := [n], dispute := true }
        raise0 0x0809 2 (n % 2 ^ 40 + 2 ^ 40 * dev + 2 ^ 58)
          (writeSector (hVault x.list) v at_ e esc.2.2 (.dispute e n) r 1 n s)
  | _, _ => s

/-- The verdict of one digest sent. -/
def verdictIn (dev e n v : Nat) (s : State) : State :=
  let sent := fun (s : State) => { s with
    pun.sentDig := s.pun.sentDig.filter fun d => !(d.1 == e && d.2.1 == n)
    pun.later := s.pun.later.filter fun d => !(d.1 == e && d.2.1 == n) }
  let writer := ((s.pun.sentDig.find? fun d => d.1 == e && d.2.1 == n).map (·.2.2)).getD 0
  match v with
  | 0 => let s := sent s; { s with pun.escrow := Tab.del s.pun.escrow n }
  | 1 => differ dev e n (sent s)
  | _ =>
    { s with pun.later := (s.pun.later.filter fun d => !(d.1 == e && d.2.1 == n)) ++ [(e, n, writer, s.time.aon)] }

/-- DIGEST_VERDICT: two bits per digest. -/
def verdictRx (m : Bytes) (s : State) : State :=
  answered m [0x20] (fun r s =>
    if mStatus m ≠ 0 then requestLost r (0x11, 0x0C) s
    else
      let ns := msgSectors r.msg
      each (List.range ns.length) (fun i => verdictIn (mSrc m) r.epoch (ns.getD i 0) (bits (fld m (64 + i / 4) 1) (2 * (i % 4) + 1) (2 * (i % 4)))) s) s

def execDigestVerdict (port : Nat) (s : State) : Host.Outcome State Fault Refusal := msgRow 0x21 port verdictRx s

/-- Digests answered LATER at least 1 ms ago are sent again, one message each (R266). DEDUCED, log entry 116. -/
def laterResend (s : State) : State :=
  let go := s.pun.later.filter fun d => decide (d.2.2.2 + 100000 ≤ s.time.aon)
  let s := { s with pun.later := s.pun.later.filter fun d => !go.contains d }
  each go (fun d t =>
    match epoch? t d.1, Tab.get? t.pun.escrow d.2.1, replicaDev t d.2.2.1 with
    | some x, some esc, some dev =>
      request { mtype := 0x20, dst := dev, vault := hVault x.list, epoch := d.1, count := 1, sector := d.2.1
                stride := max 1 (hReplicas x.list), body := sha256 esc.2.2, cls := 4 }
        { tag := 0, peer := dev, mtype := 0x20, msg := [], epoch := d.1 } t
    | _, _, _ => t) s

def execLaterResend (s : State) : Host.Outcome State Fault Refusal := .next (when (txRuns s) laterResend s)

/-! ### Tidings (R260) -/

/-- TIDING: a COMPLETION is delivered once to the event ring; an EPOCH_DURABLE is kept for R32. -/
def tidingRx (m : Bytes) (s : State) : State :=
  let d := mSrc m
  let kind := fld m 64 1
  let q := fld m 66 2
  let seq := fld m 72 8
  if kind = 0 then
    let key := d * 65536 + q
    if seq ≤ Tab.getD s.spl.tidHigh key 0 then s
    else raise 0x080B 0 q seq (fld m 80 4 + 2 ^ 32 * d + 2 ^ 50 * fld m 65 1)
      { s with spl.tidHigh := Tab.put s.spl.tidHigh key seq }
  else if kind = 1 then
    let x := (d, fld m 84 4)
    if s.spl.durSeen.contains x then s else { s with spl.durSeen := s.spl.durSeen ++ [x] }
  else countRefused s

def execTiding (port : Nat) (s : State) : Host.Outcome State Fault Refusal := msgRow 0x30 port tidingRx s

/-! ### Resending requests (R258) -/

/-- REQUEST_TIMEOUT: the request is sent again with its TAG; after eight sends the peer is lost. -/
def requestTimeout (tag : Nat) (s : State) : State :=
  match s.spl.reqs.find? fun r => r.tag == tag with
  | none => s
  | some r =>
    if r.sends < 8 then
      let s := { s with spl.reqs := updWhere (fun x => x.tag == tag) (fun x => { x with sends := x.sends + 1 }) s.spl.reqs }
      match bestPort s r.peer with
      | some p => queueMsg p { vc := vcOf r.mtype, msg := r.msg, cls := r.cls, ctx := r.ctx } s
      | none => s
    else
      let s := raise0 0x080C 2 (r.peer + 2 ^ 18 * r.mtype)
        { s with spl.peers := Tab.upd s.spl.peers r.peer fun x => { x with lost := true } }
      let rs := s.spl.reqs.filter fun x => x.peer == r.peer
      settleAfter (each rs (fun x => requestLost x (0x0F, 1))
        { s with spl.reqs := s.spl.reqs.filter fun x => x.peer != r.peer })

def execRequestTimeout (tag : Nat) (s : State) : Host.Outcome State Fault Refusal :=
  .next (when (txRuns s && !s.adm.fenced) (requestTimeout tag) s)

end Sys2Proof.Machine
end

