-- ==== Sys2Proof/Machine/Responses.lean ====
section
/-! DEFINITION. Responses of the host bridge and of the fabric: reissues, what each answer delivers, and the outcome of a
transfer that still fails (R54, R59, R69, R158, R303, R305, R309, R311, R329 to R331, R343, R399). -/

namespace Sys2Proof.Machine

/-! ### Responses while the block is halted (R388) -/

/-- While halted, the effect of a response on commands, streams and sealing waits for the end of the halt. DEDUCED,
log entry 80. -/
def keepLate (i : Instr) (s : State) : State := { s with dbg.late := s.dbg.late ++ [i] }

/-! ### Host-bridge reads -/

def hbFind (s : State) (id : Nat) (write : Bool) : Option HbReq := s.out.hb.find? fun r => r.id == id && r.write == write

def dropHb (id : Nat) (s : State) : State := { s with out.hb := s.out.hb.filter fun r => r.id != id }

/-- A host-bridge error that the reissues of R309 have not ended yet. Error value 3 is reserved and reads as none (DEDUCED, log
entry 46). -/
def hbError (err : Nat) : Bool := err == 1 || err == 2

/-- The request is issued again. -/
def reissueHb (id : Nat) (s : State) : State :=
  { s with out.hb := updWhere (fun r => r.id == id) (fun r => { r with tries := r.tries + 1, granted := false }) s.out.hb }

/-- What a read delivers; `none` when it failed after its reissues. -/
def hbReadDone (r : HbReq) (d : HostRead) : State → State :=
  match r.kind with
  | .slots q start part => slotsArrive q start part d
  | .vread blk i => match d with
    | some b => sectorArrives blk i r.again b
    | none => keepSector blk i [] 1
  | .ixPage ctx page => pageArrives ctx page d
  | _ => id

def hbRead1 (r : HbReq) (err : Nat) (data : Bytes) (s : State) : State :=
  if hbError err ∧ r.tries < 3 then reissueHb r.id s
  else settleAfter (hbReadDone r (if hbError err then none else some (slice data 0 r.len)) (dropHb r.id s))

/-- HOST_READ_RESPONSE. -/
def hostReadResponse (id err : Nat) (data : Bytes) (fails : List (Nat × Nat)) (s : State) : State :=
  match hbFind s id false with
  | none => s
  | some r =>
    if s.regs.gasp.hold then dropHb id s
    else if halted s then keepLate (.hostReadResponse id err data fails) s
    else withChecks fails (hbAnswered r (hbRead1 r err data)) s

def execHostReadResponse (id err : Nat) (data : Bytes) (fails : List (Nat × Nat)) (s : State) : Host.Outcome State Fault Refusal :=
  .next (when (up s) (hostReadResponse id err data fails) s)

/-! ### The mirror (R21, R49, R303, R305) -/

/-- A write to the mirror or to the grant table. -/
def isMirrorWrite (r : HbReq) : Bool :=
  match r.kind with
  | .mirror .. | .grant .. | .image .. => true
  | _ => false

/-- LSN of the first pending mirror write (R325). -/
def firstPending (s : State) : Nat :=
  (s.out.hb.findSome? fun r => match r.kind with
    | .mirror lsn _ _ _ => some lsn
    | _ => none).getD s.ldg.lsn

/-- R305: a mirror write that still fails is kept, acceptance stops and cause 5 is latched. -/
def mirrorFails (id : Nat) (s : State) : State :=
  let s := { s with out.hb := updWhere (fun r => r.id == id) (fun r => { r with tries := 4 }) s.out.hb }
  if s.ldg.mirrorFault then s else
  raise0 0x0A04 2 (firstPending s) (latchGasp 5 { s with ldg.mirrorFault := true })

/-- Clears the fault once every mirror write is acknowledged (R305). -/
def mirrorHealed (s : State) : State :=
  if s.out.hb.any isMirrorWrite then s else { s with ldg.mirrorFault := false }

/-- The head shadow's position after a command whose ACCEPTED record is `b` (R49, R298). -/
def headIn (x : Queue) (b : Bytes) : Nat :=
  let n := sqSize x.desc
  let f := fld b 18 1
  let pos := fld b 16 2 + n * (f % 2)
  if bit f 5 then x.mirHead else (pos + bits f 2 1 + 1) % (2 * n)

/-- The consumed head once the mirror holds the ACCEPTED record of an item that ends at `h`: it moves there when the item was
journalled and not consumed yet (R4, R314). -/
def consumed (x : Queue) (h : Nat) : Nat :=
  let n := sqSize x.desc
  if dist n x.head h ≤ dist n x.head x.acc then h else x.head

/-- A record is in the mirror: an ACCEPTED one lets its command start and advances the head shadow; after a cold reset a
command with a DURABLE record is not run again, and a completion with a COMPLETED record is not written again (R306). -/
def mirrored (lsn q seq : Nat) (accepted : Bool) (b : Bytes) (s : State) : State :=
  let s := { s with ldg.log := updWhere (fun r => r.lsn == lsn) (fun r => { r with mirrored := true }) s.ldg.log }
  if accepted then
    onQ q (fun x => if x.mirSeq < seq then
        { x with mirHead := headIn x b, mirSeq := seq, shadowDue := true, head := consumed x (headIn x b) } else x)
      (onCmd q seq (fun c => { c with mirrored := true }) s)
  else if fld b 0 1 = 1 ∧ fld b 1 1 = 3 then onCmd q seq (fun c => { c with kept := true }) s
  else if fld b 0 1 = 1 ∧ fld b 1 1 % 16 = 4 then
    onQ q (fun x => { x with redo := x.redo.filter fun o => decide (seq < o.last) }) s
  else s

/-! ### Completion queues (R300) -/

/-- A completion entry is visible to the host. -/
def cqAcked (q pos : Nat) (s : State) : State :=
  let s := onQ q (fun x => { x with
    cqOut := updWhere (fun o => o.pos == pos) (fun o => { o with acked := true, held := false }) x.cqOut }) s
  let s := settleDeletes (settleCq 4096 q s)
  if q = 0 ∧ !(s.ldg.cmds.any fun c => c.admin) ∧ !(queue? s 0).any (fun x => x.state == .flushing) then { s with regs.qctl.flush := false } else s

/-- A completion entry that cannot be written is held, and the queue stops (R54, R55). -/
def cqFails (q pos : Nat) (s : State) : State :=
  let s := onQ q (fun x => { x with
    cqOut := updWhere (fun o => o.pos == pos && !o.acked) (fun o => { o with held := true }) x.cqOut }) s
  queueError q (((queue? s q).map (·.acc)).getD 0) 0x11 s

/-! ### Host-bridge writes -/

/-- The escrowed sector of a dispute copy is free once its copy is written (R267). -/
def disputeDone (e n : Nat) (s : State) : State :=
  { s with
    pun.dispOut := s.pun.dispOut.filter fun d => !(d.1 == e && d.2.1 == n)
    pun.escrow := Tab.del s.pun.escrow n }

/-- OFF is reached when the COMPLETED record of its POWER_SET is in the mirror: every domain but AON loses power and
rst_done falls (R362). DEDUCED, log entry 77. -/
def offReached (b : Bytes) (s : State) : State :=
  match s.pwr.off with
  | none => s
  | some seq =>
    if fld b 0 1 = 1 ∧ fld b 1 1 % 16 = 4 ∧ fld b 2 2 = 0 ∧ seq ≤ fld b 8 8 then
      { s with
        pwr.state := 3
        pwr.off := none
        pwr.awake := false
        regs.clk.rootLock := false
        adm.keys := []
        pins.rstDone := false }
    else s

/-- What an acknowledged write does. -/
def hbWriteDone (r : HbReq) (s : State) : State :=
  match r.kind with
  | .mirror lsn q seq acc => offReached r.data (mirrorHealed (mirrored lsn q seq acc r.data s))
  | .grant q seq => mirrorHealed (if q = 0xFFFF then s else finish q seq 0 0 s)
  | .image .. => mirrorHealed s
  | .planList q seq => listWritten q seq s
  | .cq q pos => cqAcked q pos s
  | .sector e entry i => ackSector e entry i s
  | .sealSec e => sealListAcked e 1 s
  | .sealHdr e => sealed e s
  | .dispute e n => disputeDone e n s
  | .peerSec dev tag i => peerSecDone dev tag i true s
  | .result q seq _ => match cmd? s q seq with
    | some c => finish q seq c.bad c.badDetail s
    | none => s
  | _ => s

/-- The outcome of a write that still fails after its reissues. A SEAL keeps its own status (R399). -/
def hbWriteFails (r : HbReq) (err : Nat) (s : State) : State :=
  match r.kind with
  | .cq q pos => cqFails q pos s
  | .seqWord q seq => raise 0x0106 1 q seq (err + 2 ^ 32 * (seq % 2 ^ 32)) s
  | .shadow q => queueError q (((queue? s q).map (·.acc)).getD 0) 0x12 s
  | .event => { s with ring.ev.dropped := s.ring.ev.dropped + 1 }
  | .sector e _ _ | .sealSec e | .sealHdr e | .dispute e _ => sectorLost e s
  | .planList q seq => listFailed q seq s
  | .peerSec dev tag i => peerSecDone dev tag i false s
  | .result q seq off => match cmd? s q seq with
    | some c => if itemOp c.item = 0x43 then finish q seq c.bad c.badDetail s else malformed q seq off s
    | none => s
  | _ => s

/-- A write whose answer the journal and the events still take while the block is halted. -/
def inHalt (r : HbReq) : Bool :=
  match r.kind with
  | .mirror .. | .event | .seqWord .. => true
  | _ => false

def hbWrite1 (r : HbReq) (err : Nat) (s : State) : State :=
  if hbError err then
    if r.tries < 3 then reissueHb r.id s
    else if isMirrorWrite r then mirrorFails r.id s
    else settleAfter (hbWriteFails r err (dropHb r.id s))
  else settleAfter (settleCompact (hbWriteDone r (dropHb r.id s)))

/-- HOST_WRITE_RESPONSE. A mirror write that has failed waits for MIRROR_RETRY. -/
def hostWriteResponse (id err : Nat) (s : State) : State :=
  match hbFind s id true with
  | none => s
  | some r =>
    if s.regs.gasp.hold then dropHb id s
    else if 4 ≤ r.tries then s
    else if halted s && !inHalt r then keepLate (.hostWriteResponse id err) s
    else hbAnswered r (hbWrite1 r err) s

def execHostWriteResponse (id err : Nat) (s : State) : Host.Outcome State Fault Refusal :=
  .next (when (up s) (hostWriteResponse id err) s)

/-- MIRROR_FAULT: a mirror write fails after its retries (R305). -/
def mirrorFaultRow (id : Nat) (s : State) : State :=
  match hbFind s id true with
  | none => s
  | some r => if isMirrorWrite r then mirrorFails id s else s

def execMirrorFault (id : Nat) (s : State) : Host.Outcome State Fault Refusal :=
  .next (when (up s && !s.regs.gasp.hold) (mirrorFaultRow id) s)

/-! ### Fabric reads (R309, R311, R329) -/

def fabFind (s : State) (id : Nat) (write : Bool) : Option FabReq := s.out.fab.find? fun r => r.id == id && r.write == write

def dropFab (id : Nat) (s : State) : State := { s with out.fab := s.out.fab.filter fun r => r.id != id }

def onFab (id : Nat) (f : FabReq → FabReq) (s : State) : State := { s with out.fab := updWhere (fun r => r.id == id) f s.out.fab }

/-- The worse of two response errors: bad data over a read error; 3 is reserved and reads as none (DEDUCED, log entry 46). -/
def fabWorse (a b : Nat) : Nat := max a (if b = 3 then 0 else b)

/-- A fabric request is issued again: the first time on its own port, then on the next one in service (R141, R309). -/
def reissueFab (r : FabReq) (s : State) : State :=
  let s := upset 7 (if reissueBad s r then markReadBad r s else s)
  onFab r.id (fun x => { x with
    tries := r.tries + 1, data := if r.write then r.data else [], err := 0, failed := r.failed ++ [r.port], granted := false
    port := if r.tries = 0 then r.port else fabPort s r.addr r.tries }) s

/-- The port that failed first is charged when a retry on another port has passed (R309, R310). -/
def chargeFab (r : FabReq) (s : State) : State :=
  match r.failed with
  | p :: _ => if r.failed.all (· == r.port) then s else charge 7 p s
  | [] => s

/-- The word of a debug READ, or the granule into which a debug WRITE puts its word (R384, R385). -/
def dbgFabRead (r : FabReq) (d : Bytes) (bad : Bool) (s : State) : State :=
  let o := s.dbg.addr % 64
  match s.dbg.wr with
  | none =>
    { s with dbg := { s.dbg with
        ansStatus := if bad then 4 else 0, ansData := BitVec.ofNat 64 (if bad then 0 else fld d o 8)
        addr := s.dbg.addr + 8 } }
  | some w =>
    if bad then { s with dbg := { s.dbg with ansStatus := 4, wr := none, addr := s.dbg.addr + 8 } }
    else fabReq .dbg true r.addr 64 5 (overwrite (slice d 0 64) o (toLE 8 w.toNat)) false { s with dbg.wr := none }

/-- The content of a group that cannot be read is lost: the table is captured in full by the next sealed epoch (R400). -/
def groupMissing (t g : Nat) (s : State) : State :=
  let s := match capEpoch s with
    | some x => if (liveEntries x.list).any fun e => eTrack e.2 == t then poisonEpoch x.num s else s
    | none => s
  groupArrives t g (zeros 128) (setResync t s)

/-- What the data of a read does. A granule of check values that cannot be read holds none (R226; DEDUCED, log entry 146). -/
def fabReadDone (r : FabReq) (d : Bytes) (bad : Bool) (s : State) : State :=
  match r.kind with
  | .source blk off => sourceArrives r blk off d bad (sourcePassed r s)
  | .passant tag off => passantArrives r tag off d bad s
  | .group t g => if bad then groupMissing t g s else groupArrives t g d s
  | .check t k => cvArrives t k (if bad then List.replicate 64 0xFF else d) s
  | .dbg => dbgFabRead r d bad s
  | _ => s

/-- The data of an injected read is that of the write it precedes: it is not issued again (DEDUCED, log entry 47). -/
def mayReissue (r : FabReq) : Bool :=
  match r.kind with
  | .passant .. => false
  | _ => r.err == 1 && decide (r.tries < 3)

def fabRead1 (r : FabReq) (s : State) : State :=
  if mayReissue r then reissueFab r s
  else
    let s := if r.err = 0 then chargeFab r s else s
    serveFilters (settleAfter (fabReadDone r (slice r.data 0 r.len) (r.err != 0) (dropFab r.id s)))

/-- The filters and passant copies, the tracker and the debug port go on while halted (R388). -/
def fabInHalt (r : FabReq) : Bool :=
  match r.kind with
  | .passant .. | .group .. | .check .. | .header _ | .dbg => true
  | _ => false

/-- A beat of data. -/
def fabBeat (id err : Nat) (data : Bytes) (last : Bool) (s : State) : State :=
  match fabFind s id false with
  | none => s
  | some r =>
    let r := { r with data := r.data ++ slice data 0 128, err := fabWorse r.err err }
    if last then fabRead1 r s else onFab id (fun _ => r) s

/-- One beat of 128 B of a read; the last one ends it (R329). -/
def fabricReadResponse (id err : Nat) (data : Bytes) (last : Bool) (s : State) : State :=
  match fabFind s id false with
  | none => s
  | some r =>
    if s.regs.gasp.hold && r.kind != .dbg then (if last then dropFab id s else s)
    else if halted s && !fabInHalt r then keepLate (.fabricReadResponse id err data last) s
    else fabAnswered r (fabBeat id err data last) s

def execFabricReadResponse (id err : Nat) (data : Bytes) (last : Bool) (s : State) : Host.Outcome State Fault Refusal :=
  .next (when (up s) (fabricReadResponse id err data last) s)

/-! ### Fabric writes (R330) -/

def dbgFabWritten (bad : Bool) (s : State) : State :=
  { s with dbg := { s.dbg with ansStatus := if bad then 4 else 0, addr := s.dbg.addr + 8 } }

/-- A write that still fails after its reissues: bad data of its command, of its epoch, or of its tracking region. -/
def fabWriteFails (r : FabReq) (s : State) : State :=
  match r.kind with
  | .dest q seq => badAt 131072 q seq 0 [r.addr - r.addr % 4096] 0 0x0B 0 s
  | .escrow n => match Tab.get? s.pun.escrow n with
    | some x => poisonEpoch x.1 s
    | none => s
  | .group t _ => groupWritten t (setResync t s)
  | .header t => headerWritten t (setResync t s)
  | .check t _ => setResync t s
  | .dbg => dbgFabWritten true s
  | _ => s

def fabWriteDone (r : FabReq) (s : State) : State :=
  match r.kind with
  | .group t _ => groupWritten t s
  | .header t => headerWritten t s
  | .dbg => dbgFabWritten false s
  | _ => s

def fabWrite1 (r : FabReq) (err : Nat) (s : State) : State :=
  if err = 1 then
    if r.tries < 3 then reissueFab r s
    else serveFilters (settleAfter (fabWriteFails r (dropFab r.id s)))
  else serveFilters (settleAfter (fabWriteDone r (dropFab r.id (chargeFab r s))))

/-- FABRIC_WRITE_RESPONSE. -/
def fabricWriteResponse (id err : Nat) (s : State) : State :=
  match fabFind s id true with
  | none => s
  | some r =>
    if s.regs.gasp.hold && r.kind != .dbg then dropFab id s
    else if halted s && !fabInHalt r then keepLate (.fabricWriteResponse id err) s
    else fabAnswered r (fabWrite1 r err) s

def execFabricWriteResponse (id err : Nat) (s : State) : Host.Outcome State Fault Refusal :=
  .next (when (up s) (fabricWriteResponse id err) s)

/-! ### The end of a halt -/

/-- One response that waited for the end of the halt. -/
def runLate (i : Instr) (s : State) : State :=
  match i with
  | .hostReadResponse id err data fails => hostReadResponse id err data fails s
  | .hostWriteResponse id err => hostWriteResponse id err s
  | .fabricReadResponse id err data last => fabricReadResponse id err data last s
  | .fabricWriteResponse id err => fabricWriteResponse id err s
  | .adminFlush slots => adminFlush slots s
  | _ => s

/-- The responses that arrived during a halt take their effect. -/
def endHalt (s : State) : State :=
  each s.dbg.late runLate { s with
    dbg := { s.dbg with state := if s.dbg.state = 0 then 0 else 1, stepping := false, haltReq := none, late := [], sram := [] } }

end Sys2Proof.Machine
end

