-- ==== Sys2Proof/Machine/Faults.lean ====
section
/-! DEFINITION. Replay after a reset (R48, R62, R64, R70, R306 to R308, R379), uncorrectable errors by their site (R310,
R314, R321), and the passes that read stored words (R320). -/

namespace Sys2Proof.Machine

/-! ### Replay: what a cold reset has lost (R306) -/

/-- Commands of a queue whose ACCEPTED record is not in the mirror: they were never accepted. -/
def unmirrored (s : State) (q : Nat) : Nat := (s.ldg.cmds.filter fun c => c.q == q && !c.mirrored).length

/-- The queue as the mirror has it: items beyond the mirrored ones are consumed again from their slots. -/
def queueFromMirror (s : State) (q : Nat) (x : Queue) : Queue :=
  { x with head := x.mirHead, acc := x.mirHead, tail := x.mirHead, nextSeq := x.nextSeq - unmirrored s q }

/-- The journal as the mirror holds it: its log ends at the first record that is not there (R303). DESIGN CHOICE,
log entry 66. DEDUCED, log entry 67. -/
def fromMirror (s : State) : State :=
  let log := s.ldg.log.takeWhile (·.mirrored)
  { s with
    ring.queues := s.ring.queues.map fun e => (e.1, queueFromMirror s e.1 e.2)
    ring.nextSeqOf := s.ring.nextSeqOf.map fun e => (e.1, e.2 - unmirrored s e.1)
    ldg.log := log
    ldg.lsn := match log.getLast? with
      | some r => (r.lsn + 1) % 2 ^ 32
      | none => s.ldg.lsn
    ldg.cmds := (s.ldg.cmds.filter (·.mirrored)).map fun c =>
      if c.st = .durable ∧ !c.kept then { c with st := .started } else c }

/-! ### Replay: queues and completions (R48, R57, R62, R308) -/

/-- Every command that a completion covers is DURABLE. -/
def coversDurable (s : State) (q : Nat) (o : CqOut) : Bool :=
  o.last == 0 ||
    (s.ldg.cmds.filter fun c => c.q == q && decide (o.first ≤ c.seq) && decide (c.seq ≤ o.last) && c.st == .durable).length ==
      o.last + 1 - o.first

/-- The completions that are written again; the first one that is not, and what follows it, is formed anew. -/
def rewrites (s : State) (cold : Bool) (q : Nat) (x : Queue) : List CqOut :=
  (if cold then x.redo else []) ++ x.cqOut.takeWhile (coversDurable s q)

/-- The queue with the completions that are formed anew taken back. -/
def takeBack (s : State) (q : Nat) (x : Queue) : Queue :=
  match x.cqOut.dropWhile (coversDurable s q) with
  | [] => x
  | o :: rest =>
    { x with
      cqDone := o.pos
      covered := ((x.cqOut.takeWhile (coversDurable s q)).getLast?.map (·.last)).getD x.completed
      errDue := x.errDue || (o :: rest).any fun o => o.last == 0 }

/-- One queue comes back: a flush that was under way is not resumed; its completions are written again; its head shadow
is due. DEDUCED, log entry 70. -/
def replayQueue (cold : Bool) (q : Nat) (s : State) : State :=
  match queue? s q with
  | none => s
  | some x =>
    let again := rewrites s cold q x
    let x := takeBack s q x
    let s := onQ q (fun _ => { x with
      state := if x.state = .flushing then x.before else x.state
      flushBy := none
      fetched := []
      cqOut := []
      redo := if cold then [] else x.redo
      shadowDue := true }) s
    each again (issueCompletion q) s

/-! ### Replay: commands and epochs (R210, R307) -/

/-- A command that is not DURABLE runs again from its BODY records. -/
def runAgain (cold : Bool) (c : Cmd) : Cmd :=
  if c.st = .durable then c
  else if c.st = .started then
    { c with ran := false, replayed := true, bad := 0, badDetail := 0, marks := 0, waited := false, instead := none
             count := 0, headPos := none, keyWait := cold && c.q != 0 }
  else { c with replayed := cold, keyWait := cold && c.q != 0 }

/-- A work command whose keys are missing does not start (R210). -/
def holdForKeys (s : State) (c : Cmd) : Cmd := if c.st = .started ∧ !keyTurn s c then { c with st := .accepted } else c

/-- An epoch in CUT at a reset: CANCELLED, its EPOCH_OPEN with DETAIL 1. -/
def resolveCut (e : Nat) (x : Epoch) (s : State) : State :=
  endCmds e [0x41, 0x42, 0x43] 1 0 (finish x.q x.seq 1 1 (endEpoch e 7 (0x01, 0) s))

/-- The seal header of an epoch whose header write was issued stands: it passes its check value under the plan's vault
ID, is of KIND 5 and of this epoch, and its hallmark begins as journalled where the key to read it is held (R283,
R307). DEDUCED, log entry 65. -/
def headerStands (s : State) (x : Epoch) (b : Bytes) : Bool :=
  match epochVault s x with
  | none => false
  | some (v, a) =>
    let t := tailBase v a x.num (hIx x.list)
    hKind b == 5 && hEpoch b == x.num && sectorCrcOk (hVault x.list) t b &&
      ((keyBad s (hDataKey x.list) 2 none).isSome ||
        slice (payloadOf (keyBytes s (hDataKey x.list)) t b) 40 16 == x.hallmark.take 16)

/-- An epoch that a reset found unsealed (R307). -/
def resolveEpoch (headers : Tab Bytes) (e : Nat) (s : State) : State :=
  match epoch? s e with
  | none => s
  | some x =>
    if !unresolved x then s
    else if x.phase ≤ 1 then resolveCut e x s
    else if x.phase = 4 ∧ x.sealIssued ∧ (Tab.get? headers e).any (headerStands s x) then
      let s := sealed e s
      match x.sealCmd with
      | some (q, seq) => onCmd q seq (fun c => { c with ran := true }) s
      | none => s
    else abandonEpoch e (0x11, 1) s

/-- A PLAN_PATCH staged in the transaction that the reset discarded ends CANCELLED (R379). -/
def dropStaged (s : State) : State :=
  match s.adm.stagedPatch with
  | none => s
  | some p => finish p.q p.seq 1 0 { s with adm.stagedPatch := none }

/-- A ledger word that one macro has lost is taken from the other and rewritten; lost in both, from the mirror; lost there
too, FAULT_HOLD (R314, R315). Two different words of a macro within 1 s retire it (R310). -/
def ledgerWordLost (m : Nat) (word : Nat) (both mirrorHas : Bool) (s : State) : State :=
  if both && !mirrorHas then faultHold 6 s
  else
    let old := s.flt.ledgerUe.filter fun u => decide (s.time.aon < u.2.2 + 100000000)
    let s := { s with flt.ledgerUe := old ++ [(m, word, s.time.aon)] }
    if old.any fun u => u.1 == m && u.2.1 != word then retire 9 m 2 s else s

/-- The ledger macros' corrupted lanes that the read-verify pass meets: a word lost in both is taken from the mirror. -/
def scanLedger (s : State) : State :=
  let m := fun (store : Nat) => corrupted s store fun _ => true
  let other := fun (store lane : Nat) => (m (7 - store)).any fun x => x.1 % 2 ^ 32 / 4 == lane / 4 && decide (2 ≤ flips x)
  each (m 3 ++ m 4) (fun x => readLane (fun lane => ledgerWordLost (x.1 / 2 ^ 32 - 3) (lane / 4)
    (other (x.1 / 2 ^ 32) lane) true) x) s

/-- REPLAY: `headers` holds, by epoch number, the seal header sector that each epoch's tail holds (R306, R307). Ports that
the installed table names start their bring-up (R250, R354). DEDUCED, log entry 68. DEDUCED, log entry 69. -/
def replay (headers : Tab Bytes) (s : State) : State :=
  if !s.regs.qctl.ready ∨ s.ldg.replayDue = 0 then s else
  let cold := s.ldg.replayDue == 2
  let s := if cold then fromMirror s else each (s.ldg.log.filter fun r => !r.mirrored) mirrorRec (scanLedger s)
  let rewritten := s.ring.queues.foldl (fun n e => n + (rewrites s cold e.1 e.2).length) 0
  let s := each (s.ring.queues.map (·.1)) (replayQueue cold) s
  let s := stopStreams (fun _ => true) { s with ldg.cmds := s.ldg.cmds.map (runAgain cold) }
  let s := each (s.cap.epochs.map (·.1)) (resolveEpoch headers) s
  let s := dropStaged s
  let s := { s with
    ldg.cmds := s.ldg.cmds.map (holdForKeys s)
    ldg.replayDue := 0
    regs.qctl.flush := s.regs.qctl.flush && s.ldg.cmds.any (·.admin) }
  let again := (s.ldg.cmds.filter fun c => c.st != .durable).length
  each [0, 1, 2, 3] listPort <| raise0 0x0A05 0 (b2n cold + 2 ^ 8 * (again % 2 ^ 24) + 2 ^ 32 * rewritten) (freeGens s)

def execReplay (headers : Tab Bytes) (s : State) : Host.Outcome State Fault Refusal :=
  .next (when (runs s) (replay headers) s)

/-! ### Uncorrectable errors (R321) -/

/-- The store and the lane of an error site, as SC_ECC_LAST and ECC_UE name them (R322, R323; DEDUCED, log entry 50). -/
def siteLane (s : State) : EccSite → Nat × Nat
  | .seqFetch addr _ => (11, addr / 8)
  | .seqData => (10, 0)
  | .context ix _ => (2, 6 * ix)
  | .staging b => (0, 8192 * b)
  | .passant tag => (1, 32 * tag)
  | .ledger m w _ _ => (if m then 4 else 3, 4 * w)
  | .bank coll p => (5, p / 64 + (if coll = s.cap.coll then 131072 else 0))
  | .trackerClean _ g | .trackerDirty _ g => (7, 16 * g)
  | .assayCache h => (6, h)
  | .digestOut k => (8, k)
  | .digestIn p => (8, p)
  | .queueState q => (9, 16 * q)
  | .recipe r => (12, 256 * r)
  | .key k => (13, 8 * k)

/-- A trap of the sequencer's instruction fetch. -/
def seqTrap (addr : Nat) (rom : Bool) (s : State) : State :=
  if rom ∨ (Tab.get? s.flt.traps addr).any (fun t => decide (s.time.aon < t + 100000000)) then faultHold 4 s
  else raise0 0x0A0B 1 addr (lanesWrite 11 (addr / 8) 1 (lanesWrite 10 0 1 { s with flt.traps := Tab.put s.flt.traps addr s.time.aon }))

/-- A command's streams stop and it runs again from its start; a hold it has is released. -/
def restartCmd (q seq : Nat) (s : State) : State :=
  let s := if s.cap.cut.owner = some (q, seq) then { s with cap.cut := {} } else s
  onCmd q seq (fun c => { c with ran := false, bad := 0, badDetail := 0, instead := none }) (stopCmd q seq s)

/-- The seal stream of an epoch starts again: its list sectors are sealed and written once more. -/
def restartSeal (e : Nat) (s : State) : State :=
  match epoch? s e with
  | none => s
  | some x =>
    if x.sealIssued then s else
    let s := stopStreams (fun c => c.epoch == e && c.kind == 6) { s with
      pun.jobs := s.pun.jobs.filter fun j => !(j.epoch == e && j.kind == 5)
      pun.egress := s.pun.egress.filter fun g => !(g.epoch == e && g.entry == sealMark 0)
      out.hb := s.out.hb.filter fun r => r.kind != .sealSec e
      spl.reqs := s.spl.reqs.filter fun r => !(r.epoch == e && r.entry == sealMark 0 && r.owner.isNone && !r.dispute) }
    match epochVault s x with
    | some (v, a) => startSeal x v a s
    | none => s

/-- A context that cannot be read: a capture stream's is rebuilt from the cursors or the DONE bits, any other stream
restarts from the start of its command. DEDUCED, log entry 104. -/
def contextLost (ix : Nat) (s : State) : State :=
  match Tab.get? s.str.ctxs ix with
  | none => s
  | some c => if c.epoch = 0 then restartCmd c.q c.seq s else if c.kind = 6 then restartSeal c.epoch s else s

/-- A cached group without changes is read again. -/
def cleanGroupLost (t g : Nat) (s : State) : State :=
  if (group? s t g).isSome then fetchGroup t g (onRegion t (fun r => { r with groups := Tab.del r.groups g }) s) else s

/-- A free 128-bit word (DESIGN CHOICE, log entry 9). -/
def free128 (s : State) : BitVec 128 × State :=
  let a := free s
  let b := free a.2
  (a.1 ++ b.1, b.2)

/-- A cached group with changes: all ones outside CAPTURING; in CAPTURING its rows are POISONED, and nothing says what the
group holds then. -/
def dirtyGroupLost (t g : Nat) (s : State) : State :=
  match (capEpoch s).bind fun e => if e.phase = 2 then some e else none with
  | none =>
    markRows t g (2 ^ 128 - 1) (2 ^ 128 - 1) (onRegion t (fun r => { r with groups := Tab.upd r.groups g fun x =>
      { x with d := ~~~0, w := ~~~0, stale := ~~~0, dirty := true } }) s)
  | some e =>
    let d := free128 s
    let w := free128 d.2
    let x := free128 w.2
    let rows := ((region? s t).map fun r => [(⟨r.entry, 128 * g, min 128 (r.rows - 128 * g)⟩ : CopyItem)]).getD []
    poisonItems e.num rows (poisonEpoch e.num (onRegion t (fun r => { r with groups := Tab.upd r.groups g fun y =>
      { y with d := d.1, w := w.1, stale := x.1 } }) x.2))

/-- A queue's state is rebuilt from its object slot and the log: what was read and not accepted is read again.
DEDUCED, log entry 89. -/
def queueStateLost (q : Nat) (s : State) : State :=
  dropTakes q (onQ q (fun x => { x with fetched := [] }) s)

/-- The effect of an uncorrectable error at its site. DEDUCED, log entry 105. -/
def siteEffect (site : EccSite) (s : State) : State :=
  match site with
  | .seqFetch addr rom => seqTrap addr rom s
  | .seqData => s
  | .context ix mover => charge 2 mover (moverGone mover (contextLost ix s))
  | .staging b => stagingLost b s
  | .passant tag => passantLost tag s
  | .ledger m w both has => ledgerWordLost (b2n m) w both has s
  | .bank coll p => bankWordLost coll p s
  | .trackerClean entry g => match trackOf s entry with
    | some t => cleanGroupLost t g s
    | none => s
  | .trackerDirty entry g => match trackOf s entry with
    | some t => dirtyGroupLost t g s
    | none => s
  | .assayCache h => handleLost h s
  | .digestOut _ => s
  | .digestIn p => discardFrame p s
  | .queueState q => queueStateLost q s
  | .recipe r => { s with adm.recipes := Tab.del s.adm.recipes r }
  | .key k => keySlotLost k s

/-- ECC_UE. -/
def eccUe (site : EccSite) (s : State) : State :=
  let l := siteLane s site
  settleAfter (siteEffect site (ueCount l.1 l.2 s))

def execEccUe (site : EccSite) (s : State) : Host.Outcome State Fault Refusal := .next (when (up s) (eccUe site) s)

/-! ### Passes over stored words (R317, R320, R325) -/

/-- The words of every context that is not FREE: six lanes each. -/
def scanContexts (s : State) : State :=
  readLanes 2 (fun lane => (Tab.get? s.str.ctxs (lane / 6)).isSome) (fun lane => contextLost (lane / 6)) s

/-- CONTEXT_SCAN: the regulator's admission scan. -/
def execContextScan (s : State) : Host.Outcome State Fault Refusal :=
  .next (when (runs s && s.pwr.state == 0) (fun s => settleAfter (scanContexts s)) s)

/-- BITMAP_VERIFY_PASS: the capture unit's pass. -/
def execBitmapVerifyPass (s : State) : Host.Outcome State Fault Refusal :=
  .next (when (up s && s.pwr.state == 0) (fun s => settleAfter (scanBanks s)) s)

end Sys2Proof.Machine
end

