-- ==== Sys2Proof/Machine/Power.lean ====
section
/-! DEFINITION. Clocks, resets and power states: the three resets and their release (R353 to R355), loss of ROOT lock and of
SoC clocks (R349 to R352), POWER_SET, quiescence and the gating of the command branch (R356 to R362). -/

namespace Sys2Proof.Machine

/-! ### Assertion of a reset (R353) -/

/-- What the outputs and the requests become while a reset is asserted: every valid output low, no hold, no armed filter,
rel_all high; requests and their responses are discarded. -/
def dropOutputs (s : State) : State :=
  { s with
    pins.relAll := true
    pins.rstDone := false
    out := { nextId := s.out.nextId }
    cap.cut := {}
    cap.filters := []
    asy.verdicts := [] }

/-- Asserts a reset: 1 warm, 2 cold, 3 power-on. The strongest one holds; a warm reset before the macros hold the journal is
a cold one; a warm reset in OFF is ignored. -/
def assertReset (k : Nat) (s : State) : State :=
  if k = 1 ∧ s.pwr.state = 3 then s else
  let k := if k = 1 ∧ !s.ldg.live then 2 else k
  dropOutputs { s with
    pins.rst := max s.pins.rst k
    pins.rstOff := if s.pins.rst = 0 then s.pwr.state == 3 else s.pins.rstOff }

def execWarmReset (s : State) : Host.Outcome State Fault Refusal := .next (assertReset 1 s)
def execColdReset (s : State) : Host.Outcome State Fault Refusal := .next (assertReset 2 s)
def execPowerOnReset (s : State) : Host.Outcome State Fault Refusal := .next (assertReset 3 s)

/-- ROOT_LOCK_LOSS (R349): a cold reset that the block asserts on itself, after latching the cause in SC_CLK_STAT.
DEDUCED, log entry 71. -/
def rootLockLoss (s : State) : State :=
  if s.pwr.state = 3 then s else
  assertReset 2 { s with regs.clk.rootLock := false, regs.clk.rootLost := true, pins.rstRoot := true }

def execRootLockLoss (s : State) : Host.Outcome State Fault Refusal := .next (rootLockLoss s)

/-! ### What a reset keeps (R354) -/

/-- The setup registers after the release of a reset; `admin`: the FLUSH of an ADMIN_FLUSH is journalled, else the reset clears
ADMIN_FLUSH (R64). -/
def regsAfter (k : Nat) (root admin : Bool) (r : Regs) : Regs :=
  let cold := decide (2 ≤ k)
  let por := k == 3
  let keep : Regs := if cold then {} else r
  let conf : Regs := if por then {} else r
  { shadow := {
      applied := conf.shadow.applied
      castle := { keep.shadow.castle with isOpen := false, pend := false } }
    qctl := { keep.qctl with enable := false, ready := false, sawReady := false, flush := r.qctl.flush && admin }
    enableWait := none
    bufNotHeld := keep.bufNotHeld
    bufForeign := keep.bufForeign
    crcRun := conf.crcRun
    keySel := conf.keySel
    xfSat := keep.xfSat
    xfRail := keep.xfRail
    aonHi := keep.aonHi
    flip := conf.flip
    eccCe := keep.eccCe
    eccUe := keep.eccUe
    eccLast := keep.eccLast
    clk := { fabRun := r.clk.fabRun, hostifRun := r.clk.hostifRun, tapRun := r.clk.tapRun, hvRun := r.clk.hvRun
             fabLost := keep.clk.fabLost, hostifLost := keep.clk.hostifLost, tapLost := keep.clk.tapLost
             hvLost := keep.clk.hvLost, fabSlip := keep.clk.fabSlip, rootLost := if cold then root else r.clk.rootLost }
    gasp := { conf.gasp with hold := !cold && r.gasp.hold } }

/-- A queue after a reset: every rung tail, every take and held doorbell is forgotten (R70, R308). Fetching resumes behind
the last item that the journal holds; after a warm reset that can be beyond the reported head, since the macros keep
ACCEPTED records that the mirror lacks (DEDUCED, log entry 132). -/
def queueAfter (x : Queue) : Queue :=
  { x with head := x.acc, tail := x.acc, takes := [], fetched := [], held := [], waitPub := none, fresh := true }

def ringAfter (k : Nat) (r : Ring) : Ring :=
  { queues := Tab.mapv r.queues queueAfter, nextSeqOf := r.nextSeqOf, dbRange := if 2 ≤ k then [] else r.dbRange }

/-- The reset that RESET_CAUSE reports (R365). -/
def causeOf (k : Nat) (root : Bool) : Nat := if k = 3 then 0 else if k = 2 then (if root then 3 else 1) else 2

/-- The macros keep the journal over a warm reset only; the mirror gives it back after the others. -/
def ledgerAfter (k : Nat) (root : Bool) (l : Ledger) : Ledger :=
  { l with
    live := k == 1 && l.live
    mirrorFault := k == 1 && l.mirrorFault
    replayDue := 0
    resetCause := causeOf k root
    grantUsed := [] }

/-- Slot 255 from the root field (R205), not before the port is locked again (R211). -/
def rootKey (pins : Pins) (off : Bool) (t : Tab Key) : Tab Key :=
  match pins.otpRoot with
  | some b => if off then Tab.del t 255 else Tab.put t 255 { form := 1, content := b, kcv := kcvOf 1 b }
  | none => Tab.del t 255

def adminAfter (k : Nat) (locked : Bool) (pins : Pins) (a : Admin) : Admin :=
  let cold := decide (2 ≤ k)
  let off := a.rootOff && !locked
  { a with
    keys := rootKey pins off (if cold then [] else a.keys)
    keyLost := if cold then [] else a.keyLost
    keyLoads := if cold then [] else a.keyLoads
    rootOff := off
    stagedPatch := a.stagedPatch.map fun p => { p with lost := true }
    listWrites := []
    topoUsed := []
    recipes := if cold then [] else a.recipes
    packages := if cold then [] else a.packages }

/-- The tracker's cache is lost, what memory holds stays; each region meets its first touch again (R354, R400). -/
def regionAfter (k : Nat) (r : Region) : Region :=
  { r with touched := false, isOpen := false, groups := [], check := [], sweep := k == 1 && r.sweep }

def captureAfter (k : Nat) (c : Capture) : Capture :=
  let cold := decide (2 ≤ k)
  { epochs := c.epochs
    bank0 := if cold then (if c.coll then [] else [(0, 8388608)]) else c.bank0
    bank1 := if cold then (if c.coll then [(0, 8388608)] else []) else c.bank1
    coll := c.coll
    capOf := if cold then 0 else c.capOf
    regions := Tab.mapv c.regions (regionAfter k)
    sweepPend := !cold && c.sweepPend }

/-- Counters of the links and of Assay are status registers; the rest of both units is lost. -/
def spillAfter (k : Nat) (x : Spill) : Spill :=
  if 2 ≤ k then { nextTag := x.nextTag }
  else { nextTag := x.nextTag, uncorr := x.uncorr, replays := x.replays, fenceDrops := x.fenceDrops, refused := x.refused }

def assayAfter (k : Nat) (a : Assay) : Assay := if 2 ≤ k then {} else { counts := a.counts, sliceOut := a.sliceOut }

/-- The debug port: locked after a cold or power-on reset; any reset ends a halt and clears the breakpoints (R386, R388).
An operation that was still BUSY ends with ERROR (DEDUCED, log entry 53). -/
def debugAfter (k : Nat) (d : Debug) : Debug :=
  let cold := decide (2 ≤ k)
  { state := if cold then 0 else min d.state 1
    ir := d.ir
    challenge := if cold then none else d.challenge
    resp := if cold then [] else d.resp
    fails := if k = 3 then 0 else d.fails
    lockout := k != 3 && d.lockout
    space := d.space
    addr := d.addr
    lastBp := d.lastBp
    ansOp := d.ansOp
    ansStatus := if d.ansStatus = 1 then 4 else d.ansStatus
    ansSel := d.ansSel
    ansData := d.ansData
    sram := if cold then [] else d.sram }

def faultsAfter (k : Nat) (f : Faults) : Faults :=
  let cold := decide (2 ≤ k)
  { retired := if cold then f.retired.filter fun r => decide (r.2 < 16) else f.retired
    flipped := if cold then [] else f.flipped }

def pinsAfter (k : Nat) (locked : Bool) (p : Pins) : Pins :=
  { p with
    rst := 0
    rstRoot := false
    relAll := false
    rstDone := true
    unlockUse := if 2 ≤ k ∧ locked then p.otpUnlock else p.unlockUse
    otpStage := if k = 3 then [] else p.otpStage }

/-- The state after the release of reset `k`, before its built-in tests are judged. -/
def released (k : Nat) (s : State) : State :=
  let d := debugAfter k s.dbg
  let locked := d.state == 0
  let root := s.pins.rstRoot
  { time := if k = 3 then { free := s.time.free } else s.time
    pins := pinsAfter k locked s.pins
    regs := regsAfter k root (s.ldg.cmds.any (·.admin)) s.regs
    ring := ringAfter k s.ring
    ldg := ledgerAfter k root s.ldg
    adm := adminAfter k locked s.pins s.adm
    cap := captureAfter k s.cap
    str := { ctxs := if 2 ≤ k then [] else s.str.ctxs }
    pun := {}
    asy := assayAfter k s.asy
    spl := spillAfter k s.spl
    pwr := {}
    dbg := d
    flt := faultsAfter k s.flt
    out := { nextId := s.out.nextId }
    pending := s.pending }

/-! ### The sweep of R360 -/

/-- The plates of an extent whose collecting-bank bit is set, as rows: first and count. DEDUCED, log entry 72. -/
def sweptRows (s : State) (en : Bytes) : List (Nat × Nat) :=
  (collBank s).filterMap fun i =>
    let lo := max (eAddr en) (plateBase s + 65536 * i.1)
    let hi := min (eAddr en + eBytes en) (plateBase s + 65536 * i.2)
    if lo < hi then some (rowsOf (eAddr en) (eRow en) lo (hi - lo)) else none

/-- The tracker sets W for every row of those plates and clears the SWEEP flag. -/
def sweepTable (en : Bytes) (s : State) : State :=
  let t := eTrack en
  if (region? s t).any (·.sweep) then
    each (sweptRows s en) (fun r s => each (groupMasks r.1 r.2) (fun m => markRows t m.1 m.2 0) s)
      (onRegion t (fun r => { r with sweep := false }) s)
  else s

def sweepAll (s : State) : State :=
  let s := each (tables s) (fun e => sweepTable e.2) s
  { s with cap.sweepPend := false }

/-! ### Release (R355) -/

/-- FAULT_HOLD at the release: both macros failed. The event ring is not in service, so the event is held (R315). -/
def holdAtRelease (s : State) : State :=
  let s := raise0 0x0A02 3 (3 + 2 ^ 16 * ((s.ldg.lsn + 2 ^ 32 - 1) % 2 ^ 32)) (latchGasp 3 s)
  { s with regs.gasp.hold := true }

/-- A channel that failed its built-in test is retired with cause 3; RESYNC is set for the tables of a filter's window (R400); a
macro as under R314, both as under R315. -/
def testFailed (c : Nat × Nat) (s : State) : State :=
  let (kind, ix) := c
  if kindCount kind ≤ ix ∨ retired s kind ix then s else
  let s := retiredEvent kind ix 3 { s with flt.retired := Tab.put s.flt.retired (32 * kind + ix) 3 }
  if kind = 8 then each (tablesIn s ix) (fun e => setResync (eTrack e.2)) s
  else if kind = 9 then
    let both := retired s 9 0 && retired s 9 1
    let s := raise0 0x0A01 2 (ix + 3 * 2 ^ 8) (if both then s else latchGasp (1 + ix) s)
    if both then holdAtRelease { s with flt.retired := Tab.put s.flt.retired (288 + ix) (3 + 16) } else s
  else if kind = 0 ∧ !lanesLeft s (ix / 4) ∧ !retired s 1 (ix / 4) then
    retiredEvent 1 (ix / 4) 3 { s with flt.retired := Tab.put s.flt.retired (32 + ix / 4) 3 }
  else s

/-- RESET_RELEASE: `failed` lists the channels that failed their built-in test, which a warm reset does not run. A warm
reset from a lower power state is a return to ACTIVE, so the sweep runs. After a loss of ROOT lock CLOCK_LOST reports it
(R365). DESIGN CHOICE, log entry 73. -/
def resetRelease (failed : List (Nat × Nat)) (s : State) : State :=
  let k := s.pins.rst
  if k = 0 then s
  else if k = 1 then sweepAll (released 1 s)
  else each failed testFailed (when (s.pins.rstRoot && k == 2) (raise0 0x0B01 2 5) (released k s))

def execResetRelease (failed : List (Nat × Nat)) (s : State) : Host.Outcome State Fault Refusal :=
  .next (resetRelease failed s)

/-! ### SoC clocks (R350 to R352) -/

/-- CLOCK_LOST: 0 FABRIC, 1 HOSTIF, 2 ARRAY_TAP, 3 HARVEST: the RUN bit falls; the LOST bit and the event follow when the
clock was not allowed to stop (R338, R345). -/
def tapIdle (s : State) : Bool :=
  s.asy.tiles.all (fun t => t.verdict.isSome && t.driven) && s.asy.bag.isNone && s.asy.load.isNone

def hvIdle (s : State) : Bool :=
  match s.cap.cut.st with
  | .none | .prep => true
  | _ => false

def mayStop (c : Nat) (s : State) : Bool :=
  match c with
  | 2 => tapIdle s
  | 3 => hvIdle s
  | _ => s.pwr.state == 3

def setRun (c : Nat) (v : Bool) (k : Clk) : Clk :=
  match c with
  | 0 => { k with fabRun := v }
  | 1 => { k with hostifRun := v }
  | 2 => { k with tapRun := v }
  | _ => { k with hvRun := v }

def setLost (c : Nat) (k : Clk) : Clk :=
  match c with
  | 0 => { k with fabLost := true }
  | 1 => { k with hostifLost := true }
  | 2 => { k with tapLost := true }
  | _ => { k with hvLost := true }

def clockLost (c : Nat) (s : State) : State :=
  if 4 ≤ c then s else
  let ok := mayStop c s
  let s := { s with regs.clk := setRun c false s.regs.clk }
  if ok then s else raise0 0x0B01 2 c { s with regs.clk := setLost c s.regs.clk }

def execClockLost (c : Nat) (s : State) : Host.Outcome State Fault Refusal := .next (when (s.pins.rst == 0) (clockLost c) s)

def clockRunning (c : Nat) (s : State) : State := if 4 ≤ c then s else { s with regs.clk := setRun c true s.regs.clk }

def execClockRunning (c : Nat) (s : State) : Host.Outcome State Fault Refusal := .next (clockRunning c s)

/-- FAB_SLIP (R350): beats of a port are lost; each request outstanding on it has met an error of R309 (DEDUCED, log entry 54). -/
def fabSlip (port : Nat) (s : State) : State :=
  let writes := s.out.fab.filter fun r => r.port == port && r.write
  let s := raise0 0x0B01 2 4 { s with
    regs.clk.fabSlip := true
    out.fab := s.out.fab.map fun r => if r.port = port ∧ !r.write then { r with err := fabWorse r.err 1 } else r }
  each writes (fun r => fabWrite1 r 1) s

def execFabSlip (port : Nat) (s : State) : Host.Outcome State Fault Refusal :=
  .next (when (up s && decide (port < 16)) (fabSlip port) s)

/-! ### POWER_SET (R357, R358, R361) -/

/-- POWER_STATE (R365). -/
def powerEvent (new prev delayed : Nat) : State → State := raise0 0x0B02 0 (new + 4 * prev + 2 ^ 32 * delayed)

/-- The ports start their bring-up as the table names them (R361). -/
def startPorts (s : State) : State := each [0, 1, 2, 3] listPort s

/-- The return to ACTIVE: read-verify pass, castle commit, sweep, completion. -/
def enterActive (q seq : Nat) (s : State) : State :=
  let prev := s.pwr.state
  let s : State := { s with regs.clk.rootLock := true }
  let s := scanBanks (scanContexts (scanLedger s))
  let s := { s with pwr := { s.pwr with state := 0, awake := false, target := 0, entering := false } }
  let s := startPorts (sweepAll (castleTry s))
  finish q seq 0 0 (powerEvent 0 prev 0 s)

/-- The conditions that refuse a POWER_SET (R94, R357). -/
def powerBad (c : Cmd) (s : State) : List (Nat × Bool) :=
  let st := fld c.item 8 1
  let enable := assayCtl s 0
  let pool := assayCtl s 1
  [(8, decide (3 < st) || ((st == 2 || st == 3) && (enable || pool)) || (st == 1 && pool) || s.regs.gasp.hold)]

def powerSet (c : Cmd) (s : State) : State :=
  let st := fld c.item 8 1
  if st = s.pwr.state then finish c.q c.seq 0 0 s
  else if st = 0 then settleAfter (enterActive c.q c.seq s)
  else { s with pwr := { s.pwr with entering := true, target := st, delayed := 0, cmd := some (c.q, c.seq) } }

def execPowerSet (q seq : Nat) (s : State) : Host.Outcome State Fault Refusal :=
  .next (runCmd 0x0C q seq powerBad powerSet s)

/-- A queue 1 to 4095 in RUN that may hold a whole, eligible, unconsumed item. -/
def mayHold (s : State) (q : Nat) (x : Queue) : Bool :=
  q != 0 && x.state == .run && (!x.fetched.isEmpty || !x.takes.isEmpty || mayTake s q x)

/-- Quiescence (R358 item 3). -/
def quiescent (s : State) : Bool :=
  (s.ldg.cmds.all fun c => c.q == 0) && !(s.ring.queues.any fun e => mayHold s e.1 e.2) &&
    !((Tab.vals s.cap.epochs).any unresolved) && !(s.out.hb.any isMirrorWrite)

/-- A port's lanes in electrical idle. -/
def idlePort (p : Nat) (s : State) : State :=
  dropPeers (onPort p (fun x => { x with state := 0, lanes := [], rxMask := 15, nakSent := false, acked := false, aligns := [], ctl := [], tx := [], again := [] }) s)

/-- What ADJOURNED and OFF ask for beside the gated clocks (R356, R358). DEDUCED, log entry 74. DEDUCED, log entry
76. -/
def adjourn (s : State) : State :=
  let s := writeBackAll s
  let s := each (s.cap.regions.map (·.1)) (fun t => onRegion t fun r => { r with groups := [] }) s
  each [0, 1, 2, 3] idlePort { s with regs.clk.rootLock := false }

/-- POWER_QUIESCENCE: the entry completes in the cycle of quiescence. The command branch stays awake until it is gated
(R359). OFF is entered as ADJOURNED, and reached when the completion is in the mirror (R362). -/
def powerQuiescence (s : State) : State :=
  match s.pwr.cmd with
  | none => s
  | some (q, seq) =>
    if !quiescent s then s else
    let prev := s.pwr.state
    let new := s.pwr.target
    let s := if 2 ≤ new then adjourn s else startPorts { s with regs.clk.rootLock := true }
    let s := { s with pwr := { s.pwr with
      state := min new 2, entering := false, awake := true, cmd := none, off := if new = 3 then some seq else none } }
    finish q seq 0 0 (powerEvent new prev s.pwr.delayed s)

def execPowerQuiescence (s : State) : Host.Outcome State Fault Refusal := .next (when (runs s) powerQuiescence s)

/-- BRANCH_GATE (R359): outside ACTIVE, with nothing left on queue 0. DEDUCED, log entry 75. -/
def branchGate (s : State) : State :=
  let idle0 := (queue? s 0).all fun x => x.acc == x.tail && x.fetched.isEmpty && x.takes.isEmpty && x.cqOut.isEmpty
  if s.pwr.state ≠ 0 ∧ s.pwr.awake ∧ idle0 ∧ s.ldg.cmds.all (fun c => c.q != 0) then
    { s with pwr.awake := false, regs.clk.rootLock := s.pwr.state == 1 }
  else s

def execBranchGate (s : State) : Host.Outcome State Fault Refusal := .next (when (runs s) branchGate s)

end Sys2Proof.Machine
end

