-- ==== Sys2Proof/Machine/Debug.lean ====
section
/-! DEFINITION. The serial debug port (R188, R211, R381 to R391): requests and their answers, unlocking, halting and
stepping, breakpoints, memory access, one-time-programmable fields. -/

namespace Sys2Proof.Machine

/-! ### Requests and answers (R382, R383) -/

def answer (op sel status : Nat) (data : W64) (s : State) : State :=
  { s with dbg := { s.dbg with ansOp := op, ansSel := sel, ansStatus := status, ansData := data } }

/-- The status of the request just answered. -/
def status (n : Nat) (s : State) : State := { s with dbg.ansStatus := n }

def datum (d : Nat) (s : State) : State := { s with dbg.ansData := BitVec.ofNat 64 d }

/-- One request at Update-DR. While an earlier one is BUSY it is discarded, but for a HALT during a STEP (R389). -/
def dbgReq (op : Nat) (unlocked : Bool) (r : DbgReq) (f : State → State) (s : State) : State :=
  let s : State := { s with dbg.ir := 0x20 }
  if s.dbg.ansStatus = 1 ∧ !(op == 8 && s.dbg.ansOp == 0x0A) then s
  else if r.rsvd ≠ 0 then answer op r.sel 5 0 s
  else if unlocked ∧ s.dbg.state = 0 then answer op r.sel 2 0 s
  else f (answer op r.sel 0 0 s)

/-- NOP: the answer of the request before it stays, to be captured. -/
def execDbgNop (r : DbgReq) (s : State) : Host.Outcome State Fault Refusal :=
  .next (let s : State := { s with dbg.ir := 0x20 }
    if r.rsvd ≠ 0 ∧ s.dbg.ansStatus ≠ 1 then answer 0 r.sel 5 0 s else s)

def dbgStatus (s : State) : State :=
  datum (s.dbg.state + 2 ^ 8 * s.dbg.fails + 2 ^ 16 * s.dbg.lastBp + 2 ^ 32 * maskOf 32 s.dbg.lanes.contains) s

def execDbgStatus (r : DbgReq) (s : State) : Host.Outcome State Fault Refusal := .next (dbgReq 0x01 false r dbgStatus s)

/-! ### Locking and unlocking (R386) -/

/-- DBG_RESUMED, when the block was halted (R391). -/
def resume (s : State) : State :=
  let was := s.dbg.state == 2
  let n := min (s.time.aon - s.dbg.haltedAt) 0xFFFFFFFF
  let s := endHalt s
  if was then raise0 0x0C03 0 n s else s

/-- A halted block resumes, breakpoints are cleared, the port locks; a programmed unlock field applies from now
(R387). DEDUCED, log entry 81. -/
def lockPort (s : State) : State :=
  let s := resume s
  { s with
    pins.unlockUse := s.pins.otpUnlock
    dbg := { s.dbg with state := 0, bps := [], hits := [], challenge := none, resp := [] } }

/-- TAP_RESET (R381). A request that was still BUSY ends with ERROR (DEDUCED, log entry 53). -/
def execTapReset (s : State) : Host.Outcome State Fault Refusal :=
  .next (let s := lockPort { s with dbg.ir := 1 }
    if s.dbg.ansStatus = 1 then status 4 s else s)

def execDbgLock (r : DbgReq) (s : State) : Host.Outcome State Fault Refusal := .next (dbgReq 0x04 true r lockPort s)

/-- `8 n` free bytes (DESIGN CHOICE, log entry 9): the entropy source gives 32 of them for a challenge. -/
def drawBytes (n : Nat) (s : State) : Bytes × State :=
  match n with
  | 0 => ([], s)
  | k + 1 =>
    let w := free s
    let r := drawBytes k w.2
    (toLE 8 w.1.toNat ++ r.1, r.2)

/-- The current challenge, drawn when there is none. -/
def challenge (s : State) : Bytes × State :=
  match s.dbg.challenge with
  | some c => (c, s)
  | none =>
    let c := drawBytes 4 s
    (c.1, { c.2 with dbg.challenge := some c.1 })

def dbgChallenge (word : Nat) (s : State) : State :=
  if s.dbg.lockout ∨ 8 ≤ s.dbg.fails then status 3 s
  else let c := challenge s; datum (fld c.1 (8 * word) 8) c.2

def execDbgChallenge (r : DbgReq) (s : State) : Host.Outcome State Fault Refusal :=
  .next (dbgReq 0x02 false r (dbgChallenge (r.arg % 4)) s)

/-- The response is right: an unprogrammed field takes any. -/
def responseOk (s : State) : Bool :=
  match s.pins.unlockUse, s.dbg.challenge with
  | none, _ => true
  | some _, none => false
  | some u, some c =>
    hmac (hmacStates u) (c ++ toLE 4 0x01025A1A ++ toLE 4 (readDevice s)) ==
      (List.range 4).flatMap fun i => toLE 8 (Tab.getD s.dbg.resp i 0).toNat

/-- Epochs that have not issued their seal record write (R211). -/
def unsealed (s : State) : List Nat := ((Tab.vals s.cap.epochs).filter fun e => unresolved e && !e.sealIssued).map (·.num)

/-- A stream that still needs a key slot: it has something to read or to receive, or a digest to end under its HMAC slot. One that
waits for its writes alone needs none (R211). -/
def needsKey (s : State) (ctx : Nat) (c : Ctx) : Bool :=
  !c.keys.isEmpty && c.epoch == 0 && c.state != 5 &&
    (!nothingLeft s ctx c || (s.str.blocks.any fun b => b.ctx == ctx && !blkWhole b) ||
      (cmd? s c.q c.seq).any fun m => itemOp m.item == 0x46)

/-- Commands that still need a key slot (R211). -/
def endKeyUsers (s : State) : State :=
  let users := fun (c : Cmd) => c.st == .started && c.ran &&
    ((s.str.ctxs.any fun x => x.2.q == c.q && x.2.seq == c.seq && needsKey s x.1 x.2) ||
      s.str.starts.any fun x => x.1.q == c.q && x.1.seq == c.seq && !x.1.keys.isEmpty)
  each (s.ldg.cmds.filter users) (fun c t =>
      let t := if t.cap.cut.owner = some (c.q, c.seq) then { t with cap.cut := {} } else t
      finish c.q c.seq 0x0E 0 (stopCmd c.q c.seq t)) s

/-- Zeroization of the key store (R211): slot 255 stays empty until a reset that finds the port locked. -/
def zeroize (s : State) : State :=
  let es := unsealed s
  let s := { s with
    adm.keys := []
    adm.rootOff := true
    pun.jobs := s.pun.jobs.filter fun j => !es.contains j.epoch }
  let s := each es (fun e t => raise0 0x0604 2 e (abandonEpoch e (0x0E, 0) t)) s
  let s := if es.isEmpty then raise0 0x0604 2 0 s else s
  settleAfter (endKeyUsers s)

/-- The check of an unlock response. -/
def unlockCheck (s : State) : State :=
  if responseOk s then
    let s := zeroize s
    raise0 0x0C01 2 (s.dbg.fails % 256) { s with dbg := { s.dbg with state := max s.dbg.state 1, resp := [] } }
  else
    let n := min (s.dbg.fails + 1) 255
    raise0 0x0C05 1 n { s with dbg := { s.dbg with
      ansStatus := 3, fails := n, challenge := none, resp := [], lockout := true } }

def dbgUnlock (word : Nat) (data : W64) (s : State) : State :=
  let s : State := { s with dbg.resp := Tab.put s.dbg.resp word data }
  if word = 3 then unlockCheck s else s

def execDbgUnlock (r : DbgReq) (s : State) : Host.Outcome State Fault Refusal :=
  .next (dbgReq 0x03 false r (dbgUnlock (r.arg % 4) r.data) s)

/-- UNLOCK_LOCKOUT_EXPIRY: 1 s after a failed check. -/
def execUnlockLockoutExpiry (s : State) : Host.Outcome State Fault Refusal := .next { s with dbg.lockout := false }

/-! ### Halting and stepping (R388, R389) -/

/-- Between HOLD_REQ and RELEASE no halt takes effect. -/
def cutHolds (s : State) : Bool :=
  match s.cap.cut.st with
  | .none | .prep => false
  | _ => true

/-- A request that halting ends is answered. -/
def haltAnswered (s : State) : State :=
  if s.dbg.ansStatus = 1 ∧ (s.dbg.ansOp = 8 ∨ s.dbg.ansOp = 0x0A) then status 0 s else s

/-- The block is halted; writes held under STALL are released as under ABANDON. DEDUCED, log entry 78. -/
def enterHalt (s : State) : State :=
  serveFilters (haltAnswered { s with dbg := { s.dbg with
    state := 2, stepping := false, haltReq := none, haltedAt := s.time.aon } })

/-- DBG_HALTED (R391). -/
def haltWith (slot kind : Nat) (s : State) : State := raise0 0x0C02 1 (slot + 2 ^ 8 * kind) (enterHalt s)

/-- HALT: BUSY until the block is halted; during a STEP it ends the STEP at once. DEDUCED, log entry 82. -/
def dbgHalt (s : State) : State :=
  if !up s then status 3 s
  else if s.dbg.state = 2 then s
  else if s.dbg.stepping && !cutHolds s then haltWith 0xFF 0 s
  else { s with dbg := { s.dbg with haltReq := some 0xFF, ansStatus := 1 } }

def execDbgHalt (r : DbgReq) (s : State) : Host.Outcome State Fault Refusal := .next (dbgReq 0x08 true r dbgHalt s)

def execHaltReached (s : State) : Host.Outcome State Fault Refusal :=
  .next (when (up s && s.dbg.haltReq.isSome && !cutHolds s) (haltWith 0xFF 0) s)

def execDbgResume (r : DbgReq) (s : State) : Host.Outcome State Fault Refusal := .next (dbgReq 0x09 true r resume s)

/-- STEP: every unit runs until one CMD or EPOCH record is appended; what had waited for the end of the halt runs
first. DEDUCED, log entry 79. -/
def dbgStep (s : State) : State :=
  if !up s then status 3 s else
  each s.dbg.late runLate { s with dbg := { s.dbg with
    state := 1, stepping := true, stepFrom := s.dbg.recs, late := [], sram := [], ansStatus := 1 } }

def execDbgStep (r : DbgReq) (s : State) : Host.Outcome State Fault Refusal := .next (dbgReq 0x0A true r dbgStep s)

def execStepDone (s : State) : Host.Outcome State Fault Refusal :=
  .next (when (s.dbg.stepping && s.dbg.recs != s.dbg.stepFrom) enterHalt s)

/-! ### Recipe lanes (R188, R389) -/

/-- A halted lane that has ended gives its block up. -/
def laneEnded (n : Nat) (s : State) : State :=
  if (lane s n).trap = 0 then s else
  let s := match (lane s n).blk.bind (blk? s) with
    | none => setLane n { lane s n with blk := none } { s with dbg.lanes := s.dbg.lanes.filter (· != n) }
    | some b =>
      match b.kind with
      | .dec _ => decResume n s
      | _ => encResume n s
  settleAfter s

/-- A lane request: lanes beyond 31 answer ERROR, a lane that is not halted REFUSED (DEDUCED, log entry 53). -/
def onHaltedLane (n : Nat) (f : State → State) (s : State) : State :=
  if 32 ≤ n then status 4 s else if !s.dbg.lanes.contains n then status 3 s else laneEnded n (f s)

def rstep (n : Nat) (s : State) : State := setLane n (laneStep (recipe s (lane s n).slot) (lane s n)) s

def rresume (n : Nat) (s : State) : State := setLane n (runLane s (lane s n)) s

def execDbgRstep (r : DbgReq) (s : State) : Host.Outcome State Fault Refusal :=
  .next (dbgReq 0x0B true r (onHaltedLane r.sel (rstep r.sel)) s)

def execDbgRresume (r : DbgReq) (s : State) : Host.Outcome State Fault Refusal :=
  .next (dbgReq 0x0C true r (onHaltedLane r.sel (rresume r.sel)) s)

/-! ### Breakpoints (R390) -/

/-- A slot or a kind that does not exist answers ERROR (DEDUCED, log entry 53). -/
def bpSet (slot arg : Nat) (data : W64) (s : State) : State :=
  let kind := bits arg 23 20
  if 8 ≤ slot ∨ kind = 0 ∨ 6 < kind then status 4 s
  else { s with dbg := { s.dbg with
    bps := Tab.put s.dbg.bps slot { kind, arg := bits arg 19 0, data := data.toNat }
    hits := s.dbg.hits.filter (· != slot) } }

def bpClear (slot : Nat) (s : State) : State :=
  if 8 ≤ slot then status 4 s
  else { s with dbg := { s.dbg with bps := Tab.del s.dbg.bps slot, hits := s.dbg.hits.filter (· != slot) } }

def execDbgBpSet (r : DbgReq) (s : State) : Host.Outcome State Fault Refusal :=
  .next (dbgReq 0x10 true r (bpSet r.sel r.arg r.data) s)

def execDbgBpClear (r : DbgReq) (s : State) : Host.Outcome State Fault Refusal :=
  .next (dbgReq 0x11 true r (bpClear r.sel) s)

/-- BREAKPOINT_FIRE: a breakpoint whose condition was met halts the block at a dispatch-step boundary; in a halted block it
only records its index. -/
def breakpointFire (slot : Nat) (s : State) : State :=
  match Tab.get? s.dbg.bps slot with
  | none => s
  | some b =>
    let seen : State := { s with dbg := { s.dbg with hits := s.dbg.hits.filter (· != slot), lastBp := slot } }
    if !s.dbg.hits.contains slot then s
    else if s.dbg.state = 2 then seen
    else if cutHolds s then s
    else haltWith slot b.kind seen

def execBreakpointFire (slot : Nat) (s : State) : Host.Outcome State Fault Refusal :=
  .next (when (up s) (breakpointFire slot) s)

/-! ### Memory access (R384, R385) -/

/-- Bytes of the stores 0 to 12 (R322; the sizes of chapter 1). How the sequencer's 512 KiB divide is not given. -/
def storeBytes (space : Nat) : Nat :=
  if space = 10 ∨ space = 11 then Config.seqBytes (space - 10)
  else [64 * 2 ^ 20, 32 * 2 ^ 20, 6 * 2 ^ 20, 2 * 2 ^ 20, 2 * 2 ^ 20, 2 * 2 ^ 20, 4 * 2 ^ 20, 2 ^ 20, 2 ^ 20, 512 * 1024, 0, 0,
    128 * 1024].getD space 0

/-- The 64 plates of one lane of a bank, lowest plate in bit 0. -/
def bankWord (b : Iset) (lane : Nat) : Nat := maskOf 64 fun i => b.mem (64 * lane + i)

/-- The lane of a store as the state holds it; `none` where the manual does not say what lies there. A lane whose valid bit is clear
reads as zero: that of a free context, of staging without a slot in use, of an empty reserve (R319). -/
def laneWord (s : State) (space lane : Nat) : Option Nat :=
  match space with
  | 0 => if s.str.blocks.isEmpty && s.cap.cut.chains.isEmpty then some 0 else none
  | 1 => if s.cap.passants.isEmpty && s.cap.units == 131072 then some 0 else none
  | 2 => match Tab.get? s.str.ctxs (lane / 6) with
    | some c => some (fld (ctxBytes c) (8 * (lane % 6)) 8)
    | none => some 0
  | 3 | 4 => (s.ldg.log.find? fun r => 18432 + r.lsn % logWords == lane / 4).map fun r => fld (recBytes r) (8 * (lane % 4)) 8
  | 5 => some (bankWord (if lane < 131072 then s.cap.bank0 else s.cap.bank1) (lane % 131072))
  | 12 => some ((recipe s (lane / 256)).getD (lane % 256) 0)
  | _ => none

/-- The content of a lane: what the debug port wrote during this halt, what the state holds, or a free value. -/
def laneRead (s : State) (space lane : Nat) : Nat × State :=
  match Tab.get? s.dbg.sram (space * 2 ^ 32 + lane), laneWord s space lane with
  | some w, _ => (w.toNat, s)
  | none, some w => (w, s)
  | none, none => let w := free s; (w.1.toNat, w.2)

/-- A read of a block SRAM lane through its decoder. -/
def sramRead (space lane : Nat) (s : State) : State :=
  let w := laneRead s space lane
  let s := mergeDrain (isLane space lane) w.2
  match corrupted s space (· == lane) with
  | [] => datum w.1 s
  | x :: _ =>
    match flips x with
    | 0 => datum w.1 s
    | 1 => status 6 (datum w.1 (ceCount space lane s))
    | _ => status 7 (datum (Nat.xor w.1 x.2.1.toNat)
        (raise0 0x0A07 2 (space + 2 ^ 8 * (lane % 2 ^ 24)) (eccCount space lane true s)))

/-- The address moves on by a word. -/
def nextAddr (n : Nat) (s : State) : State := { s with dbg.addr := s.dbg.addr + n }

/-- A word of a Crucible lane's registers. -/
def laneReg (l : Lane) (n : Nat) : Option Nat :=
  if n < 128 then some ((l.v.getD (n / 8) 0 >>> (64 * (n % 8))).toNat % 2 ^ 64)
  else if n < 136 then some (l.r.getD (n - 128) 0).toNat
  else if n = 136 then some l.pc
  else if n = 137 then some l.cycles
  else if n = 138 then some l.trap
  else none

/-- A word at an address of a space: aligned and inside it. -/
def inSpace (a size word : Nat) : Bool := a % word == 0 && decide (a + word ≤ size)

/-- The granule of a fabric access is read first; a write then puts its word into it (R328). DEDUCED, log entry 83. -/
def dbgFabric (w : Option W64) (s : State) : State :=
  let a := s.dbg.addr
  if up s && inSpace a (2 ^ 48) 8 then
    status 1 (fabReq .dbg false (a - a % 64) 64 5 [] false { s with dbg.wr := w })
  else status 4 s

def dbgRead (s : State) : State :=
  let a := s.dbg.addr
  if s.dbg.space ≤ 12 then
    if up s && inSpace a (storeBytes s.dbg.space) 8 then nextAddr 8 (sramRead s.dbg.space (a / 8) s) else status 4 s
  else if s.dbg.space = 13 then status 3 s
  else if s.dbg.space = 16 then dbgFabric none s
  else if s.dbg.space = 17 then
    match (if up s then readReg s a else none) with
    | none => status 4 s
    | some v =>
      let s := if a = 0x18 then { s with regs.aonHi := BitVec.ofNat 32 (s.time.aon / 2 ^ 32) } else s
      nextAddr 4 (datum v s)
  else if s.dbg.space = 18 then
    if !inSpace a (32 * 4096) 8 then status 4 s
    else
      match laneReg (lane s (a / 4096)) (a % 4096 / 8) with
      | none => status 4 s
      | some v => if s.dbg.lanes.contains (a / 4096) then nextAddr 8 (datum v s) else status 3 s
  else status 4 s

def execDbgRead (r : DbgReq) (s : State) : Host.Outcome State Fault Refusal := .next (dbgReq 0x19 true r dbgRead s)

/-- A bank with the 64 plates of a lane replaced. -/
def setBankWord (b : Iset) (lane w : Nat) : Iset :=
  let lo := 64 * lane
  let cut := b.flatMap fun i =>
    (if i.1 < min i.2 lo then [(i.1, min i.2 lo)] else []) ++ (if max i.1 (lo + 64) < i.2 then [(max i.1 (lo + 64), i.2)] else [])
  ((List.range 64).filter w.testBit).foldl (fun s i => Iset.add s (lo + i) (lo + i + 1)) cut

/-- A block SRAM lane is written: the state it holds changes with it. DESIGN CHOICE, log entry 84. -/
def laneWrite (space lane : Nat) (w : W64) (s : State) : State :=
  match space with
  | 2 =>
    if (Tab.get? s.str.ctxs (lane / 6)).isSome then
      onCtx (lane / 6) (fun c => ctxFrom c (overwrite (ctxBytes c) (8 * (lane % 6)) (toLE 8 w.toNat))) s
    else { s with dbg.sram := Tab.put s.dbg.sram (2 * 2 ^ 32 + lane) w }
  | 5 =>
    if lane < 131072 then { s with cap.bank0 := setBankWord s.cap.bank0 lane w.toNat }
    else { s with cap.bank1 := setBankWord s.cap.bank1 (lane % 131072) w.toNat }
  | 12 =>
    let p := recipe s (lane / 256)
    let words := (List.range (max p.length (lane % 256 + 1))).map fun i => if i = lane % 256 then w.toNat else p.getD i 0
    { s with adm.recipes := Tab.put s.adm.recipes (lane / 256) words }
  | _ => { s with dbg.sram := Tab.put s.dbg.sram (space * 2 ^ 32 + lane) w }

def sramWrite (w : W64) (s : State) : State :=
  let space := s.dbg.space
  let lane := s.dbg.addr / 8
  if space = 3 ∨ space = 4 ∨ space = 11 ∨ s.dbg.state ≠ 2 then status 3 s
  else if !(up s && inSpace s.dbg.addr (storeBytes space) 8) then status 4 s
  else nextAddr 8 (raise0 0x0C04 2 (space + 2 ^ 8 * lane) (laneWrite1 space lane (laneWrite space lane w s)))

/-- A write of SC_QCTL through the debug port: what the rings then read from host memory is free (DESIGN CHOICE, log entry 9). -/
def qctlWrite (v : Nat) (s : State) : State :=
  let s := if bit v 0 then
      let d := drawBytes 8 s
      let e := drawBytes 8 d.2
      let m := drawBytes 513 e.2
      ringEnable (some d.1) (some e.1) (some m.1) m.2
    else s
  if bit v 3 then
    let d := drawBytes (8 * (((queue? s 0).map fun x => dist (sqSize x.desc) x.acc x.tail).getD 0)) s
    adminFlushWrite (chunks (d.1.length / 64 + 1) 64 d.1) d.2
  else s

/-- SC_CASTLE_CTL. -/
def castleWrite (v : Nat) (s : State) : State :=
  let s := registerWrite 0x20 (BitVec.ofNat 32 v) s
  match bits v 5 4 with
  | 1 => castleBegin s
  | 2 => castleCommit s
  | 3 => enableResume (castleRollback s)
  | _ => s

/-- A write at a mapped offset as the register port takes it (R44, R340, R366). -/
def setupWrite (off : Nat) (w : W32) (s : State) : State :=
  let go := fun (o : Host.Outcome State Fault Refusal) => match o with
    | .next t => t
    | _ => s
  if off = 0x18000 then go (execEventHeadDoorbell w s)
  else if 0x10000 ≤ off then
    if off % 8 = 0 then go (execSqTailDoorbell ((off - 0x10000) / 8) w s) else go (execCqHeadDoorbell ((off - 0x10000) / 8) w s)
  else if isShadowed off then stageWrite off w s
  else if off = 0x20 then castleWrite w.toNat s
  else if off = 0x4C then qctlWrite w.toNat s
  else if off = 0x54 then go (execBufClr w s)
  else if off = 0x6C then go (execMirrorRetry w s)
  else if off = 0x88 then go (execLastGaspClear w s)
  else if off = 0x50C then go (execXfCntClr w s)
  else if off = 0x600 then { s with regs.crcRun := w }
  else if off = 0x604 then crcIn 1 w s
  else if off = 0x608 then crcIn 2 w s
  else if off = 0x60C then crcIn 4 w s
  else if off = 0x738 then go (execAssayClr w s)
  else if off = 0x840 then go (execSpillClr w s)
  else if off = 0xA08 then flipArm w s
  else if off = 0xA1C then go (execEccClr w s)
  else registerWrite off w s

def dbgWrite (w : W64) (s : State) : State :=
  let a := s.dbg.addr
  if s.dbg.space ≤ 12 then sramWrite w s
  else if s.dbg.space = 13 ∨ s.dbg.space = 18 then status 3 s
  else if s.dbg.space = 16 then dbgFabric (some w) s
  else if s.dbg.space = 17 then
    if up s && (readReg s a).isSome then nextAddr 4 (setupWrite a (w.setWidth 32) s) else status 4 s
  else status 4 s

def execDbgWrite (r : DbgReq) (s : State) : Host.Outcome State Fault Refusal :=
  .next (dbgReq 0x1A true r (dbgWrite r.data) s)

/-- SETADDR: a space that does not exist answers ERROR. -/
def setAddr (space : Nat) (a : W64) (s : State) : State :=
  if space ≤ 13 ∨ (16 ≤ space ∧ space ≤ 18) then { s with dbg := { s.dbg with space, addr := a.toNat } } else status 4 s

def execDbgSetaddr (r : DbgReq) (s : State) : Host.Outcome State Fault Refusal :=
  .next (dbgReq 0x18 true r (setAddr r.sel r.data) s)

/-! ### One-time-programmable fields (R387) -/

def otpField (s : State) (f : Nat) : Option Bytes := if f = 0 then s.pins.otpRoot else s.pins.otpUnlock

/-- A field that does not exist answers ERROR (DEDUCED, log entry 53), a programmed one REFUSED. -/
def onOtp (f : Nat) (g : State → State) (s : State) : State :=
  if 2 ≤ f then status 4 s else if (otpField s f).isSome then status 3 s else g s

def otpWrite (f word : Nat) (w : W64) (s : State) : State :=
  { s with pins.otpStage := Tab.put s.pins.otpStage (4 * f + word) w }

def setField (f : Nat) (b : Bytes) (s : State) : State :=
  if f = 0 then { s with pins.otpRoot := some b } else { s with pins.otpUnlock := some b }

/-- OTP_BURN: the four staged words; when the verification fails the field holds what nothing says. -/
def otpBurn (f : Nat) (ok : Bool) (s : State) : State :=
  if ok then setField f ((List.range 4).flatMap fun i => toLE 8 (Tab.getD s.pins.otpStage (4 * f + i) 0).toNat) s
  else let d := drawBytes 4 s; status 4 (setField f d.1 d.2)

def execOtpWrite (r : DbgReq) (s : State) : Host.Outcome State Fault Refusal :=
  .next (dbgReq 0x20 true r (onOtp r.sel (otpWrite r.sel (r.arg % 4) r.data)) s)

def execOtpBurn (r : DbgReq) (verified : Bool) (s : State) : Host.Outcome State Fault Refusal :=
  .next (dbgReq 0x21 true r (onOtp r.sel (otpBurn r.sel verified)) s)

end Sys2Proof.Machine
end

