-- ==== Sys2Proof/Machine/Touchstone.lean ====
section
/-! DEFINITION. TOUCHSTONE_LOAD and TOUCHSTONE_RUN (R230 to R232). The manual does not give the layout of a record's parts bit
by bit, so which slices compute a value that differs from a package's is an operand (DESIGN CHOICE, log entry 49). -/

namespace Sys2Proof.Machine

/-! ### The package (R230) -/

def pkSerial (p : Bytes) : Nat := fld p 8 4
def pkLength (p : Bytes) : Nat := fld p 12 4
def pkSlot (p : Bytes) : Nat := fld p 16 1
def pkPatterns (p : Bytes) : Nat := fld p 18 2

/-- The trailer of a package under its VERIFY_SLOT. -/
def trailerOk (s : State) (p : Bytes) : Bool :=
  let n := p.length - 32
  (Tab.get? s.adm.keys (256 + pkSlot p)).isSome && hmac (keyBytes s (256 + pkSlot p)) (p.take n) == p.drop n

/-- Offending offsets of the package header. -/
def pkHeaderBad (p : Bytes) (len : Nat) (old : Option Package) : List Nat :=
  gaps (slice p 0 64) [(0, 6), (8, 4), (12, 4), (16, 1), (18, 2), (24, 8)] ++ offsets [
    (0, slice p 0 4 != [0x54, 0x53, 0x54, 0x4E]),
    (4, fld p 4 2 != 1),
    (8, old.any fun o => decide (pkSerial p < o.serial)),
    (12, pkLength p != len),
    (16, decide (63 < pkSlot p)),
    (18, pkPatterns p == 0 || decide (4096 < pkPatterns p))]

/-- Offending offsets of a pattern record at `o`; `hi` is where the trailer begins. -/
def pkRecBad (p : Bytes) (o hi : Nat) : List Nat :=
  let fmt := fld p o 1
  let kb := fld p (o + 2) 2
  let len := fld p (o + 4) 4
  gaps (slice p o 16) [(0, 8)] ++ offsets [
    (0, fmt != 1 && fmt != 2),
    (1, fld p (o + 1) 1 == 0 || decide (64 < fld p (o + 1) 1)),
    (2, kb == 0 || decide ((if fmt = 1 then 128 else 64) < kb)),
    (4, decide (len < 16) || decide (hi < o + len))]

/-- The first record that is out of range, with its offset. -/
def pkRecsBad (n ix o hi : Nat) (p : Bytes) : Option (Nat × Nat) :=
  match n with
  | 0 => none
  | k + 1 =>
    match lowest (if o + 16 ≤ hi then pkRecBad p o hi else [4]) with
    | some f => some (ix, f)
    | none => pkRecsBad k (ix + 1) (o + fld p (o + 4) 4) hi p

/-! ### TOUCHSTONE_LOAD (R231) -/

def tsLoadBad (c : Cmd) (_ : State) : List (Nat × Bool) :=
  let b := c.item
  let n := fld b 12 4
  [(8, decide (15 < fld b 8 1)), (10, fld b 10 2 != 0), (12, decide (n < 128) || n % 64 != 0 || decide (2 ^ 24 < n))]

def tsLoad (pkg : HostRead) (c : Cmd) (s : State) : State :=
  let b := c.item
  let n := fld b 12 4
  let slot := fld b 8 1
  match pkg with
  | none => malformed c.q c.seq 16 (readCtl (fld b 16 8) (fld b 24 2) n 5 s)
  | some d =>
    let p := slice d 0 n
    let s := readKeys [256 + pkSlot p] (readCtl (fld b 16 8) (fld b 24 2) n 5 s)
    let hdr := pkHeaderBad p n (Tab.get? s.adm.packages slot)
    if 63 < pkSlot p then malformed c.q c.seq (128 + (lowest hdr).getD 16) s
    else if (Tab.get? s.adm.keys (256 + pkSlot p)).isNone then finish c.q c.seq 0x0E 0 s
    else if !trailerOk s p then malformed c.q c.seq 0xFE s
    else
      match lowest hdr, pkRecsBad (pkPatterns p) 0 64 (n - 32) p with
      | some o, _ => malformed c.q c.seq (128 + o) s
      | none, some (ix, o) => malformed c.q c.seq (128 + o) (planReject 0 ix o s)
      | none, none =>
        let k : Package := { addr := fld b 16 8, len := n, serial := pkSerial p, tdid := fld b 24 2, sha := sha256 p }
        finish c.q c.seq 0 0 { s with adm.packages := Tab.put s.adm.packages slot k }

def execTouchstoneLoad (q seq : Nat) (pkg : HostRead) (s : State) : Host.Outcome State Fault Refusal :=
  .next (runCmd 0x11 q seq tsLoadBad (tsLoad pkg) s)

/-! ### TOUCHSTONE_RUN (R232) -/

def tsRunBad (c : Cmd) (s : State) : List (Nat × Bool) :=
  let b := c.item
  [(8, (Tab.get? s.adm.packages (fld b 8 1)).isNone || fld b 10 2 == 0), (12, fld b 12 4 != 0)]

/-- One slice runs every pattern; its first failing pattern, when it computes wrongly, is open (DESIGN CHOICE, log entry 49). -/
def tsSlice (p : Bytes) (faulty : List Nat) (slice_ : Nat) (s : State) : List Nat × State :=
  if faulty.contains slice_ then
    let f := free s
    let k := f.1.toNat % max 1 (pkPatterns p)
    ([k], raise0 0x0707 2 (slice_ + 2 ^ 16 * k + 2 ^ 32 * pkSerial p) (sliceGone 1 slice_ (assayCount 3 1 f.2)))
  else ([], { s with asy.sliceOut := s.asy.sliceOut.filter (· != slice_) })

/-- The slices tested in ascending order: first failing patterns of those that fail. -/
def tsSlices (p : Bytes) (faulty : List Nat) : List Nat → State → List Nat × State
  | [], s => ([], s)
  | i :: rest, s =>
    let r := tsSlice p faulty i s
    let t := tsSlices p faulty rest r.2
    (r.1 ++ t.1, t.2)

/-- The 64 B result. TIME counts cycles, which this model does not: it is open (DESIGN CHOICE, log entry 12). -/
def tsResult (p : Bytes) (tested : Nat) (fails : List Nat) (time : W64) : Bytes :=
  toLE 4 (pkSerial p) ++ toLE 2 tested ++ toLE 2 fails.length ++ toLE 4 (fails.min?.getD 0xFFFFFFFF) ++
    toLE 4 (pkPatterns p) ++ toLE 8 time.toNat ++ slice p 24 8 ++ sha256 p

def tsRun (pkg : HostRead) (faulty : List Nat) (c : Cmd) (s : State) : State :=
  let b := c.item
  match Tab.get? s.adm.packages (fld b 8 1), pkg with
  | some k, some d =>
    let p := slice d 0 k.len
    let s := readKeys [256 + pkSlot p] (readCtl k.addr k.tdid k.len 5 s)
    if !trailerOk s p ∨ sha256 p ≠ k.sha then malformed c.q c.seq 0xFE s
    else
      let sl := (List.range 16).filter fun i => bit (fld b 10 2) i
      let r := tsSlices p faulty sl s
      let t := free r.2
      sendResult c (fld b 16 8) (fld b 24 2) 16 (tsResult p sl.length r.1 t.1)
        (onCmd c.q c.seq (fun x => { x with bad := if r.1.isEmpty then 0 else 0x0A }) t.2)
  | _, _ => malformed c.q c.seq 0xFE s

def execTouchstoneRun (q seq : Nat) (pkg : HostRead) (faulty : List Nat) (s : State) : Host.Outcome State Fault Refusal :=
  .next (runCmd 0x12 q seq tsRunBad (tsRun pkg faulty) s)

end Sys2Proof.Machine
end

