-- ==== Sys2Proof/Machine/Dispatch.lean ====
section
/-! DEFINITION. The meaning of each command: one arm per constructor. -/

namespace Sys2Proof.Machine

def exec (i : Instr) (s : State) : Host.Outcome State Fault Refusal :=
  match i with
  | .vaultCreate q seq => Sys2Proof.Machine.execVaultCreate q seq s
  | .vaultDelete q seq => Sys2Proof.Machine.execVaultDelete q seq s
  | .queueCreate q seq desc => Sys2Proof.Machine.execQueueCreate q seq desc s
  | .queueDelete q seq slots => Sys2Proof.Machine.execQueueDelete q seq slots s
  | .bufGrant q seq => Sys2Proof.Machine.execBufGrant q seq s
  | .bufFree q seq => Sys2Proof.Machine.execBufFree q seq s
  | .planStore q seq list => Sys2Proof.Machine.execPlanStore q seq list s
  | .planPatch q seq list recs => Sys2Proof.Machine.execPlanPatch q seq list recs s
  | .recipeLoad q seq prog => Sys2Proof.Machine.execRecipeLoad q seq prog s
  | .keyLoad q seq wrapped => Sys2Proof.Machine.execKeyLoad q seq wrapped s
  | .keyDerive q seq sectors => Sys2Proof.Machine.execKeyDerive q seq sectors s
  | .powerSet q seq => Sys2Proof.Machine.execPowerSet q seq s
  | .laneRetire q seq => Sys2Proof.Machine.execLaneRetire q seq s
  | .laneReturn q seq pass => Sys2Proof.Machine.execLaneReturn q seq pass s
  | .buddySet q seq => Sys2Proof.Machine.execBuddySet q seq s
  | .topologySet q seq table => Sys2Proof.Machine.execTopologySet q seq table s
  | .touchstoneLoad q seq pkg => Sys2Proof.Machine.execTouchstoneLoad q seq pkg s
  | .touchstoneRun q seq pkg faulty => Sys2Proof.Machine.execTouchstoneRun q seq pkg faulty s
  | .ledgerCompact q seq => Sys2Proof.Machine.execLedgerCompact q seq s
  | .fenceRaise q seq => Sys2Proof.Machine.execFenceRaise q seq s
  | .epochOpen q seq rd => Sys2Proof.Machine.execEpochOpen q seq rd s
  | .capture q seq => Sys2Proof.Machine.execCapture q seq s
  | .rowCapture q seq => Sys2Proof.Machine.execRowCapture q seq s
  | .sealCmd q seq => Sys2Proof.Machine.execSealCmd q seq s
  | .restore q seq sectors => Sys2Proof.Machine.execRestore q seq sectors s
  | .gatherRestore q seq sectors => Sys2Proof.Machine.execGatherRestore q seq sectors s
  | .digest q seq => Sys2Proof.Machine.execDigest q seq s
  | .checkvalue q seq => Sys2Proof.Machine.execCheckvalue q seq s
  | .barrier q seq => Sys2Proof.Machine.execBarrier q seq s
  | .planLaunch q seq rd => Sys2Proof.Machine.execPlanLaunch q seq rd s
  | .cancel q seq => Sys2Proof.Machine.execCancel q seq s
  | .flush q seq slots => Sys2Proof.Machine.execFlush q seq slots s
  | .ringEnable desc0 evDesc mirror => Sys2Proof.Machine.execRingEnable desc0 evDesc mirror s
  | .adminFlush slots => Sys2Proof.Machine.execAdminFlush slots s
  | .castleBegin => Sys2Proof.Machine.execCastleBegin s
  | .castleCommit => Sys2Proof.Machine.execCastleCommit s
  | .castleRollback => Sys2Proof.Machine.execCastleRollback s
  | .shadowedRegisterWrite off val => Sys2Proof.Machine.execShadowedRegisterWrite off val s
  | .castleApply => Sys2Proof.Machine.execCastleApply s
  | .crcValWrite val => Sys2Proof.Machine.execCrcValWrite val s
  | .crcIn8 val => Sys2Proof.Machine.execCrcIn8 val s
  | .crcIn16 val => Sys2Proof.Machine.execCrcIn16 val s
  | .crcIn32 val => Sys2Proof.Machine.execCrcIn32 val s
  | .xfCntClr val => Sys2Proof.Machine.execXfCntClr val s
  | .assayClr val => Sys2Proof.Machine.execAssayClr val s
  | .spillClr val => Sys2Proof.Machine.execSpillClr val s
  | .eccClr val => Sys2Proof.Machine.execEccClr val s
  | .bufClr val => Sys2Proof.Machine.execBufClr val s
  | .mirrorRetry val => Sys2Proof.Machine.execMirrorRetry val s
  | .flipArm val => Sys2Proof.Machine.execFlipArm val s
  | .lastGaspClear val => Sys2Proof.Machine.execLastGaspClear val s
  | .aonTimeLoRead => Sys2Proof.Machine.execAonTimeLoRead s
  | .registerWrite off val => Sys2Proof.Machine.execRegisterWrite off val s
  | .sqTailDoorbell q val => Sys2Proof.Machine.execSqTailDoorbell q val s
  | .cqHeadDoorbell q val => Sys2Proof.Machine.execCqHeadDoorbell q val s
  | .eventHeadDoorbell val => Sys2Proof.Machine.execEventHeadDoorbell val s
  | .dispatchOpportunity seen => Sys2Proof.Machine.execDispatchOpportunity seen s
  | .slotRepoll q => Sys2Proof.Machine.execSlotRepoll q s
  | .hostReadResponse id err data fails => Sys2Proof.Machine.execHostReadResponse id err data fails s
  | .hostWriteResponse id err => Sys2Proof.Machine.execHostWriteResponse id err s
  | .itemAccept q => Sys2Proof.Machine.execItemAccept q s
  | .commandStart q seq => Sys2Proof.Machine.execCommandStart q seq s
  | .completionWrite q => Sys2Proof.Machine.execCompletionWrite q s
  | .headShadowWrite q => Sys2Proof.Machine.execHeadShadowWrite q s
  | .queueStall q => Sys2Proof.Machine.execQueueStall q s
  | .eventFlush => Sys2Proof.Machine.execEventFlush s
  | .tick => Sys2Proof.Machine.execTick s
  | .replay headers => Sys2Proof.Machine.execReplay headers s
  | .mirrorFault id => Sys2Proof.Machine.execMirrorFault id s
  | .ledgerLost macroB cause => Sys2Proof.Machine.execLedgerLost macroB cause s
  | .faultHold cause => Sys2Proof.Machine.execFaultHold cause s
  | .eccUe site => Sys2Proof.Machine.execEccUe site s
  | .channelRetired kind index cause => Sys2Proof.Machine.execChannelRetired kind index cause s
  | .contextScan => Sys2Proof.Machine.execContextScan s
  | .bitmapVerifyPass => Sys2Proof.Machine.execBitmapVerifyPass s
  | .prepDone => Sys2Proof.Machine.execPrepDone s
  | .holdAck c => Sys2Proof.Machine.execHoldAck c s
  | .cutSlow c => Sys2Proof.Machine.execCutSlow c s
  | .harvestBeat c beat => Sys2Proof.Machine.execHarvestBeat c beat s
  | .harvestPushOk c => Sys2Proof.Machine.execHarvestPushOk c s
  | .harvestPushErr c => Sys2Proof.Machine.execHarvestPushErr c s
  | .filterWritePresent n src addr bytes => Sys2Proof.Machine.execFilterWritePresent n src addr bytes s
  | .filterWriteAccept n src addr data => Sys2Proof.Machine.execFilterWriteAccept n src addr data s
  | .injectedReadAccept n => Sys2Proof.Machine.execInjectedReadAccept n s
  | .trackerGroupReadReturn entry group data => Sys2Proof.Machine.execTrackerGroupReadReturn entry group data s
  | .fabricReadResponse id err data last => Sys2Proof.Machine.execFabricReadResponse id err data last s
  | .fabricWriteResponse id err => Sys2Proof.Machine.execFabricWriteResponse id err s
  | .moverDescriptor mover ctx => Sys2Proof.Machine.execMoverDescriptor mover ctx s
  | .deadlineRecompute => Sys2Proof.Machine.execDeadlineRecompute s
  | .crucibleBlock lane checkPasses => Sys2Proof.Machine.execCrucibleBlock lane checkPasses s
  | .sectorSeal checkFails => Sys2Proof.Machine.execSectorSeal checkFails s
  | .sealRecordWrite epoch => Sys2Proof.Machine.execSealRecordWrite epoch s
  | .codewordLock port lane lock => Sys2Proof.Machine.execCodewordLock port lane lock s
  | .phyTrainingDone port failed => Sys2Proof.Machine.execPhyTrainingDone port failed s
  | .align port lane block => Sys2Proof.Machine.execAlign port lane block s
  | .lctl port block => Sys2Proof.Machine.execLctl port block s
  | .linit port block => Sys2Proof.Machine.execLinit port block s
  | .linitAck port block => Sys2Proof.Machine.execLinitAck port block s
  | .linitRepeat port => Sys2Proof.Machine.execLinitRepeat port s
  | .frame port block data => Sys2Proof.Machine.execFrame port block data s
  | .lctlDue port => Sys2Proof.Machine.execLctlDue port s
  | .frameResendTimeout port => Sys2Proof.Machine.execFrameResendTimeout port s
  | .helloRepeat peer => Sys2Proof.Machine.execHelloRepeat peer s
  | .requestTimeout tag => Sys2Proof.Machine.execRequestTimeout tag s
  | .laterResend => Sys2Proof.Machine.execLaterResend s
  | .hello port => Sys2Proof.Machine.execHello port s
  | .helloAck port => Sys2Proof.Machine.execHelloAck port s
  | .fence port => Sys2Proof.Machine.execFence port s
  | .fenced port => Sys2Proof.Machine.execFenced port s
  | .vaultOpen port => Sys2Proof.Machine.execVaultOpen port s
  | .vaultClose port => Sys2Proof.Machine.execVaultClose port s
  | .vaultReply port => Sys2Proof.Machine.execVaultReply port s
  | .sectorWrite port => Sys2Proof.Machine.execSectorWrite port s
  | .sectorAck port => Sys2Proof.Machine.execSectorAck port s
  | .sectorRead port sectors => Sys2Proof.Machine.execSectorRead port sectors s
  | .sectorData port fails => Sys2Proof.Machine.execSectorData port fails s
  | .digestMessage port => Sys2Proof.Machine.execDigestMessage port s
  | .digestVerdict port => Sys2Proof.Machine.execDigestVerdict port s
  | .tiding port => Sys2Proof.Machine.execTiding port s
  | .tileStart word => Sys2Proof.Machine.execTileStart word s
  | .tileEnd word => Sys2Proof.Machine.execTileEnd word s
  | .load word => Sys2Proof.Machine.execLoad word s
  | .loadVerify word => Sys2Proof.Machine.execLoadVerify word s
  | .operandRow data exps eref => Sys2Proof.Machine.execOperandRow data exps eref s
  | .weightData data => Sys2Proof.Machine.execWeightData data s
  | .weightExponents exps eref => Sys2Proof.Machine.execWeightExponents exps eref s
  | .poolHeader data => Sys2Proof.Machine.execPoolHeader data s
  | .poolIndices data => Sys2Proof.Machine.execPoolIndices data s
  | .pooledVector data exps => Sys2Proof.Machine.execPooledVector data exps s
  | .poolCheck => Sys2Proof.Machine.execPoolCheck s
  | .rowSum sums faulty => Sys2Proof.Machine.execRowSum sums faulty s
  | .powerQuiescence => Sys2Proof.Machine.execPowerQuiescence s
  | .branchGate => Sys2Proof.Machine.execBranchGate s
  | .powerOnReset => Sys2Proof.Machine.execPowerOnReset s
  | .coldReset => Sys2Proof.Machine.execColdReset s
  | .warmReset => Sys2Proof.Machine.execWarmReset s
  | .resetRelease failed => Sys2Proof.Machine.execResetRelease failed s
  | .rootLockLoss => Sys2Proof.Machine.execRootLockLoss s
  | .clockLost c => Sys2Proof.Machine.execClockLost c s
  | .fabSlip port => Sys2Proof.Machine.execFabSlip port s
  | .tapReset => Sys2Proof.Machine.execTapReset s
  | .dbgNop r => Sys2Proof.Machine.execDbgNop r s
  | .dbgStatus r => Sys2Proof.Machine.execDbgStatus r s
  | .dbgChallenge r => Sys2Proof.Machine.execDbgChallenge r s
  | .dbgUnlock r => Sys2Proof.Machine.execDbgUnlock r s
  | .unlockLockoutExpiry => Sys2Proof.Machine.execUnlockLockoutExpiry s
  | .dbgLock r => Sys2Proof.Machine.execDbgLock r s
  | .dbgHalt r => Sys2Proof.Machine.execDbgHalt r s
  | .haltReached => Sys2Proof.Machine.execHaltReached s
  | .dbgResume r => Sys2Proof.Machine.execDbgResume r s
  | .dbgStep r => Sys2Proof.Machine.execDbgStep r s
  | .stepDone => Sys2Proof.Machine.execStepDone s
  | .dbgRstep r => Sys2Proof.Machine.execDbgRstep r s
  | .dbgRresume r => Sys2Proof.Machine.execDbgRresume r s
  | .dbgBpSet r => Sys2Proof.Machine.execDbgBpSet r s
  | .dbgBpClear r => Sys2Proof.Machine.execDbgBpClear r s
  | .breakpointFire slot => Sys2Proof.Machine.execBreakpointFire slot s
  | .dbgSetaddr r => Sys2Proof.Machine.execDbgSetaddr r s
  | .dbgRead r => Sys2Proof.Machine.execDbgRead r s
  | .dbgWrite r => Sys2Proof.Machine.execDbgWrite r s
  | .otpWrite r => Sys2Proof.Machine.execOtpWrite r s
  | .otpBurn r verified => Sys2Proof.Machine.execOtpBurn r verified s
  | .rNop l r => Sys2Proof.Machine.execRNop l r s
  | .rEnd l r => Sys2Proof.Machine.execREnd l r s
  | .rTrap l r => Sys2Proof.Machine.execRTrap l r s
  | .rJmp l r => Sys2Proof.Machine.execRJmp l r s
  | .rBz l r => Sys2Proof.Machine.execRBz l r s
  | .rBnz l r => Sys2Proof.Machine.execRBnz l r s
  | .rLoop l r => Sys2Proof.Machine.execRLoop l r s
  | .rSli l r => Sys2Proof.Machine.execRSli l r s
  | .rSadd l r => Sys2Proof.Machine.execRSadd l r s
  | .rSaddi l r => Sys2Proof.Machine.execRSaddi l r s
  | .rSsub l r => Sys2Proof.Machine.execRSsub l r s
  | .rSand l r => Sys2Proof.Machine.execRSand l r s
  | .rSor l r => Sys2Proof.Machine.execRSor l r s
  | .rSxor l r => Sys2Proof.Machine.execRSxor l r s
  | .rSshl l r => Sys2Proof.Machine.execRSshl l r s
  | .rSsra l r => Sys2Proof.Machine.execRSsra l r s
  | .rSblen l r => Sys2Proof.Machine.execRSblen l r s
  | .rSget l r => Sys2Proof.Machine.execRSget l r s
  | .rVld l r => Sys2Proof.Machine.execRVld l r s
  | .rVldb l r => Sys2Proof.Machine.execRVldb l r s
  | .rVst l r => Sys2Proof.Machine.execRVst l r s
  | .rSld l r => Sys2Proof.Machine.execRSld l r s
  | .rSst l r => Sys2Proof.Machine.execRSst l r s
  | .rVadd l r => Sys2Proof.Machine.execRVadd l r s
  | .rVsub l r => Sys2Proof.Machine.execRVsub l r s
  | .rVmin l r => Sys2Proof.Machine.execRVmin l r s
  | .rVmax l r => Sys2Proof.Machine.execRVmax l r s
  | .rVand l r => Sys2Proof.Machine.execRVand l r s
  | .rVor l r => Sys2Proof.Machine.execRVor l r s
  | .rVxor l r => Sys2Proof.Machine.execRVxor l r s
  | .rVshl l r => Sys2Proof.Machine.execRVshl l r s
  | .rVsra l r => Sys2Proof.Machine.execRVsra l r s
  | .rVbcast l r => Sys2Proof.Machine.execRVbcast l r s
  | .rVext l r => Sys2Proof.Machine.execRVext l r s
  | .rVins l r => Sys2Proof.Machine.execRVins l r s
  | .rVcmpz l r => Sys2Proof.Machine.execRVcmpz l r s
  | .rVabsmax l r => Sys2Proof.Machine.execRVabsmax l r s
  | .rVrq l r => Sys2Proof.Machine.execRVrq l r s
  | .rVnarrow l r => Sys2Proof.Machine.execRVnarrow l r s
  | .rVwiden l r => Sys2Proof.Machine.execRVwiden l r s
  | .alignDue port => Sys2Proof.Machine.execAlignDue port s
  | .filterReadPresent n addr bytes ctx => Sys2Proof.Machine.execFilterReadPresent n addr bytes ctx s
  | .clockRunning c => Sys2Proof.Machine.execClockRunning c s

end Sys2Proof.Machine
end

