-- ==== Sys2Proof/Machine/Wire.lean ====
section
/-! DEFINITION. What a spill port puts on its lanes: the transmit order (R249), striping over the lanes in MASK (R244), blocks and
their scrambling (R238, R240), codewords with their RS(544,514) parity (R238, R239). -/

namespace Sys2Proof.Machine

/-! ### The next block (R249) -/

def idleBlock : Bytes := ctlBlock ([1] ++ zeros 27)

/-- Of the messages that may start, in the order they wait: the lowest class, in class 4 the earliest deadline, else the oldest. -/
def firstOf (s : State) (l : List OutMsg) : Option OutMsg :=
  match (l.map (·.cls)).min? with
  | none => none
  | some c =>
    let mine := l.filter fun m => m.cls == c
    if c = 4 then
      (earliest s (mine.zipIdx.map fun m => { id := m.2, cls := 4, ctx := m.1.ctx, fill := false })).bind fun w => mine[w.id]?
    else mine.head?

/-- The message whose frame starts next: one whose frame was lost with the link, then virtual channel 0, then the others; its
credits must allow it (R247 to R249). -/
def nextMsg (s : State) (p : Port) : Option OutMsg :=
  let may := fun (m : OutMsg) => creditOk p m.vc m.msg
  match p.queued.find? (·.again) with
  | some m => if may m then some m else none
  | none =>
    match (p.queued.find? fun m => m.vc == 0).filter may with
    | some m => some m
    | none => firstOf s (p.queued.filter fun m => m.vc != 0 && may m)

/-- The blocks of a frame of 32 B each. -/
def frameBlocksOf (vc fseq : Nat) (msg : Bytes) : List Bytes := chunks (frameBlocks msg + 1) 32 (frameBytes vc fseq msg)

/-- A new frame starts (R245, R247, R248). -/
def startFrame (m : OutMsg) (p : Port) : Port :=
  { p with
    queued := p.queued.erase m
    unacked := p.unacked ++ [{ vc := m.vc, msg := m.msg, cls := m.cls, ctx := m.ctx, fseq := p.fseq }]
    sent := p.sent.modify m.vc fun n => (n + frameBlocks m.msg) % 2 ^ 32
    tx := frameBlocksOf m.vc p.fseq m.msg
    fseq := (p.fseq + 1) % 2 ^ 32 }

/-- A frame begins when none is in progress: one to be resent, else a new one while the link is in UP. -/
def begin (s : State) (p : Port) : Port :=
  if !p.tx.isEmpty ∨ p.state ≠ 5 then p else
  match p.again with
  | f :: rest =>
    match p.unacked.find? fun x => x.fseq == f with
    | some x => { p with again := rest, tx := frameBlocksOf x.vc x.fseq x.msg }
    | none => { p with again := rest }
  | [] =>
    match nextMsg s p with
    | some m => startFrame m p
    | none => p

/-- A control block that may go now: one LCTL at most in 64 stripe positions (R246). -/
def mayGo (p : Port) (b : Bytes) : Bool := fld b 0 1 != 0x20 || decide (64 ≤ p.gap)

/-- The block of the next stripe position and whether it is a control block (R249): ALIGN comes before, at a codeword's start. -/
def nextBlock (s : State) (p : Port) : (Bool × Bytes) × Port :=
  let q := { p with gap := min 64 (p.gap + 1) }
  match p.ctl.find? (mayGo p) with
  | some b => ((true, b), { q with ctl := p.ctl.erase b, gap := if fld b 0 1 = 0x20 then 1 else q.gap })
  | none =>
    let q := begin s q
    match q.tx with
    | b :: rest => ((p.tx.isEmpty, b), { q with tx := rest })
    | [] => ((true, idleBlock), q)

/-! ### Codewords (R238 to R240) -/

def bitsOf (b : Bytes) : List Bool := b.flatMap fun x => (List.range 8).map x.getLsbD

/-- One bit through the scrambler 1 + x^39 + x^58 (R238). -/
def scramble1 (st : BitVec 58) (d : Bool) : Bool × BitVec 58 :=
  let o := (d != st.getLsbD 38) != st.getLsbD 57
  (o, st.shiftConcat o)

def scramble (st : BitVec 58) (l : List Bool) : List Bool × BitVec 58 :=
  l.foldl (fun a d => let r := scramble1 a.2 d; (a.1 ++ [r.1], r.2)) ([], st)

/-- The 257 bits of a block, the header bit first; the payload of an ALIGN is not scrambled (R240). -/
def blockBits (st : BitVec 58) (b : Bool × Bytes) : List Bool × BitVec 58 :=
  if b.1 ∧ fld b.2 0 1 = 2 then (true :: bitsOf b.2, st)
  else let r := scramble st (bitsOf b.2); (b.1 :: r.1, r.2)

/-- GF(2^10) by x^10 + x^3 + 1, and a generator with the roots α^0 to α^29: those of Clause 91 (PRESUMED, log entry 142). -/
def gfTwice (a : Nat) : Nat := let b := 2 * a; if 1024 ≤ b then b ^^^ 0x409 else b

def gfMul (a b : Nat) : Nat :=
  ((List.range 10).foldl (fun (x : Nat × Nat) i => (if b.testBit i then x.1 ^^^ x.2 else x.1, gfTwice x.2)) (0, a)).1

/-- The coefficients of the generator below its leading one, highest first. -/
def rsGen : List Nat :=
  ((List.range 30).foldl (fun (g : List Nat × Nat) _ =>
    (List.zipWith (fun a b => a ^^^ gfMul g.2 b) (g.1 ++ [0]) (0 :: g.1), gfTwice g.2)) ([1], 1)).1.drop 1

/-- The 30 parity symbols of a message, highest degree first. -/
def rsParity (m : List Nat) : List Nat :=
  m.foldl (fun r x =>
    let f := x ^^^ r.headD 0
    List.zipWith (fun a g => a ^^^ gfMul f g) (r.drop 1 ++ [0]) rsGen) (List.replicate 30 0)

/-- Symbols of 10 bits, the first bit least significant. -/
def symbols : Nat → List Bool → List Nat
  | 0, _ => []
  | n + 1, l => ((l.take 10).reverse.foldl (fun a b => 2 * a + b2n b) 0) :: symbols n (l.drop 10)

/-- The codeword of 20 blocks of a lane: 5,140 message bits and their parity (R239). -/
def codeword (st : BitVec 58) (bs : List (Bool × Bytes)) : BitVec 5440 × BitVec 58 :=
  let r := bs.foldl (fun (a : List Bool × BitVec 58) b => let r := blockBits a.2 b; (a.1 ++ r.1, r.2)) ([], st)
  let m := symbols 514 r.1
  (BitVec.ofNat 5440 ((m ++ rsParity m).reverse.foldl (fun a x => 1024 * a + x) 0), r.2)

/-! ### One codeword time of a port (R239, R243, R244) -/

/-- The block of one lane at block `k` of the codeword. At block 0 an ALIGN that is due goes on every lane; a lane outside MASK
carries IDLE. -/
def laneBlock (s : State) (k : Nat) (p : Port) (lane : Nat) : (Bool × Bytes) × Port :=
  match (if k = 0 then Tab.get? p.aligns lane else none) with
  | some b => ((true, b), p)
  | none => if inMask p.mask lane then nextBlock s p else ((true, idleBlock), p)

/-- Blocks of a codeword's lanes, position by position, the lowest lane first (R244). -/
def stripe (s : State) (lanes : List Nat) (p : Port) : Tab (List (Bool × Bytes)) × Port :=
  (List.range 20).foldl (fun a k =>
    lanes.foldl (fun (a : Tab (List (Bool × Bytes)) × Port) l =>
      let r := laneBlock s k a.2 l
      (Tab.put a.1 l (Tab.getD a.1 l [] ++ [r.1]), r.2)) a) ([], p)

/-- The codewords that a port sends at once on its working lanes (R239). -/
def sendCodewords (s : State) (n : Nat) (p : Port) : List (Nat × Nat × BitVec 5440) × Port :=
  if p.state < 2 ∨ p.state = 7 then ([], p) else
  let r := stripe s (workLanes s n) p
  let cws := r.1.map fun e => (e.1, codeword (Tab.getD p.scr e.1 0) e.2)
  (cws.map fun c => (n, c.1, c.2.1), { r.2 with aligns := [], scr := cws.foldl (fun t c => Tab.put t c.1 c.2.2) p.scr })

/-- One codeword time of the four ports (DESIGN CHOICE, log entry 142). -/
def sendLines (s : State) : State :=
  let all := s.spl.ports.map fun e => (e.1, sendCodewords s e.1 e.2)
  { s with spl.ports := all.map (fun e => (e.1, e.2.2)), out.line := all.flatMap fun e => e.2.1 }

end Sys2Proof.Machine
end

