-- ==== Sys2Proof/Machine/Idle.lean ====
section
/-! DEFINITION. What one AON cycle does while no command waits: the counts advance, the read budget refills, every arbiter has a
grant opportunity, the spill ports send, and the outputs that were driven are taken by their receivers (DESIGN CHOICE, log
entry 1). -/

namespace Sys2Proof.Machine

/-- The tokens a CORE cycle count adds (R147): one token is one byte, RATE is in bytes per CORE cycle. -/
def refill (s : State) (cycles : Nat) : Nat :=
  min (bits (sh s 0x404) 27 16 * 4096) (s.str.tokens + bits (sh s 0x404) 11 0 * cycles)

/-- One AON cycle of 20 CORE cycles without a command. -/
def idle (s : State) : State :=
  let s := { s with
    time := { s.time with
      aon := (s.time.aon + 1) % 2 ^ 64
      core := (s.time.core + 20) % 2 ^ 64
      act := s.time.act + b2n (s.pwr.state == 0 && !halted s) }
    str.tokens := refill s 20
    asy.verdicts := []
    out := { s.out with msix := [], pulls := [], rels := [], relAll := [], vld := [], reads := [], line := [] } }
  if up s then sendLines (grantAll (mergeAge s)) else s

end Sys2Proof.Machine
end

