-- ==== Sys2Proof/Laws/State.lean ====
section
/-! SUPPORT. What each named update of the state does to each field. -/

set_option Elab.async false

namespace Sys2Proof.Machine

@[simp] theorem onQ_time (q : Nat) (f : Queue → Queue) (s : State) : (onQ q f s).time = s.time := rfl
@[simp] theorem onQ_pins (q : Nat) (f : Queue → Queue) (s : State) : (onQ q f s).pins = s.pins := rfl
@[simp] theorem onQ_regs (q : Nat) (f : Queue → Queue) (s : State) : (onQ q f s).regs = s.regs := rfl
@[simp] theorem onQ_ring (q : Nat) (f : Queue → Queue) (s : State) :
    (onQ q f s).ring = { s.ring with queues := Tab.upd s.ring.queues q f } := rfl
@[simp] theorem onQ_ldg (q : Nat) (f : Queue → Queue) (s : State) : (onQ q f s).ldg = s.ldg := rfl
@[simp] theorem onQ_adm (q : Nat) (f : Queue → Queue) (s : State) : (onQ q f s).adm = s.adm := rfl
@[simp] theorem onQ_cap (q : Nat) (f : Queue → Queue) (s : State) : (onQ q f s).cap = s.cap := rfl
@[simp] theorem onQ_str (q : Nat) (f : Queue → Queue) (s : State) : (onQ q f s).str = s.str := rfl
@[simp] theorem onQ_pun (q : Nat) (f : Queue → Queue) (s : State) : (onQ q f s).pun = s.pun := rfl
@[simp] theorem onQ_asy (q : Nat) (f : Queue → Queue) (s : State) : (onQ q f s).asy = s.asy := rfl
@[simp] theorem onQ_spl (q : Nat) (f : Queue → Queue) (s : State) : (onQ q f s).spl = s.spl := rfl
@[simp] theorem onQ_pwr (q : Nat) (f : Queue → Queue) (s : State) : (onQ q f s).pwr = s.pwr := rfl
@[simp] theorem onQ_dbg (q : Nat) (f : Queue → Queue) (s : State) : (onQ q f s).dbg = s.dbg := rfl
@[simp] theorem onQ_flt (q : Nat) (f : Queue → Queue) (s : State) : (onQ q f s).flt = s.flt := rfl
@[simp] theorem onQ_out (q : Nat) (f : Queue → Queue) (s : State) : (onQ q f s).out = s.out := rfl
@[simp] theorem onQ_pending (q : Nat) (f : Queue → Queue) (s : State) : (onQ q f s).pending = s.pending := rfl

@[simp] theorem onCmd_time (q n : Nat) (f : Cmd → Cmd) (s : State) : (onCmd q n f s).time = s.time := rfl
@[simp] theorem onCmd_pins (q n : Nat) (f : Cmd → Cmd) (s : State) : (onCmd q n f s).pins = s.pins := rfl
@[simp] theorem onCmd_regs (q n : Nat) (f : Cmd → Cmd) (s : State) : (onCmd q n f s).regs = s.regs := rfl
@[simp] theorem onCmd_ring (q n : Nat) (f : Cmd → Cmd) (s : State) : (onCmd q n f s).ring = s.ring := rfl
@[simp] theorem onCmd_ldg (q n : Nat) (f : Cmd → Cmd) (s : State) :
    (onCmd q n f s).ldg = { s.ldg with cmds := updWhere (fun c => c.q == q && c.seq == n) f s.ldg.cmds } := rfl
@[simp] theorem onCmd_adm (q n : Nat) (f : Cmd → Cmd) (s : State) : (onCmd q n f s).adm = s.adm := rfl
@[simp] theorem onCmd_cap (q n : Nat) (f : Cmd → Cmd) (s : State) : (onCmd q n f s).cap = s.cap := rfl
@[simp] theorem onCmd_str (q n : Nat) (f : Cmd → Cmd) (s : State) : (onCmd q n f s).str = s.str := rfl
@[simp] theorem onCmd_pun (q n : Nat) (f : Cmd → Cmd) (s : State) : (onCmd q n f s).pun = s.pun := rfl
@[simp] theorem onCmd_asy (q n : Nat) (f : Cmd → Cmd) (s : State) : (onCmd q n f s).asy = s.asy := rfl
@[simp] theorem onCmd_spl (q n : Nat) (f : Cmd → Cmd) (s : State) : (onCmd q n f s).spl = s.spl := rfl
@[simp] theorem onCmd_pwr (q n : Nat) (f : Cmd → Cmd) (s : State) : (onCmd q n f s).pwr = s.pwr := rfl
@[simp] theorem onCmd_dbg (q n : Nat) (f : Cmd → Cmd) (s : State) : (onCmd q n f s).dbg = s.dbg := rfl
@[simp] theorem onCmd_flt (q n : Nat) (f : Cmd → Cmd) (s : State) : (onCmd q n f s).flt = s.flt := rfl
@[simp] theorem onCmd_out (q n : Nat) (f : Cmd → Cmd) (s : State) : (onCmd q n f s).out = s.out := rfl
@[simp] theorem onCmd_pending (q n : Nat) (f : Cmd → Cmd) (s : State) : (onCmd q n f s).pending = s.pending := rfl

@[simp] theorem onEpoch_time (e : Nat) (f : Epoch → Epoch) (s : State) : (onEpoch e f s).time = s.time := rfl
@[simp] theorem onEpoch_pins (e : Nat) (f : Epoch → Epoch) (s : State) : (onEpoch e f s).pins = s.pins := rfl
@[simp] theorem onEpoch_regs (e : Nat) (f : Epoch → Epoch) (s : State) : (onEpoch e f s).regs = s.regs := rfl
@[simp] theorem onEpoch_ring (e : Nat) (f : Epoch → Epoch) (s : State) : (onEpoch e f s).ring = s.ring := rfl
@[simp] theorem onEpoch_ldg (e : Nat) (f : Epoch → Epoch) (s : State) : (onEpoch e f s).ldg = s.ldg := rfl
@[simp] theorem onEpoch_adm (e : Nat) (f : Epoch → Epoch) (s : State) : (onEpoch e f s).adm = s.adm := rfl
@[simp] theorem onEpoch_cap (e : Nat) (f : Epoch → Epoch) (s : State) :
    (onEpoch e f s).cap = { s.cap with epochs := Tab.upd s.cap.epochs e f } := rfl
@[simp] theorem onEpoch_str (e : Nat) (f : Epoch → Epoch) (s : State) : (onEpoch e f s).str = s.str := rfl
@[simp] theorem onEpoch_pun (e : Nat) (f : Epoch → Epoch) (s : State) : (onEpoch e f s).pun = s.pun := rfl
@[simp] theorem onEpoch_asy (e : Nat) (f : Epoch → Epoch) (s : State) : (onEpoch e f s).asy = s.asy := rfl
@[simp] theorem onEpoch_spl (e : Nat) (f : Epoch → Epoch) (s : State) : (onEpoch e f s).spl = s.spl := rfl
@[simp] theorem onEpoch_pwr (e : Nat) (f : Epoch → Epoch) (s : State) : (onEpoch e f s).pwr = s.pwr := rfl
@[simp] theorem onEpoch_dbg (e : Nat) (f : Epoch → Epoch) (s : State) : (onEpoch e f s).dbg = s.dbg := rfl
@[simp] theorem onEpoch_flt (e : Nat) (f : Epoch → Epoch) (s : State) : (onEpoch e f s).flt = s.flt := rfl
@[simp] theorem onEpoch_out (e : Nat) (f : Epoch → Epoch) (s : State) : (onEpoch e f s).out = s.out := rfl
@[simp] theorem onEpoch_pending (e : Nat) (f : Epoch → Epoch) (s : State) : (onEpoch e f s).pending = s.pending := rfl

@[simp] theorem onPort_time (p : Nat) (f : Port → Port) (s : State) : (onPort p f s).time = s.time := rfl
@[simp] theorem onPort_pins (p : Nat) (f : Port → Port) (s : State) : (onPort p f s).pins = s.pins := rfl
@[simp] theorem onPort_regs (p : Nat) (f : Port → Port) (s : State) : (onPort p f s).regs = s.regs := rfl
@[simp] theorem onPort_ring (p : Nat) (f : Port → Port) (s : State) : (onPort p f s).ring = s.ring := rfl
@[simp] theorem onPort_ldg (p : Nat) (f : Port → Port) (s : State) : (onPort p f s).ldg = s.ldg := rfl
@[simp] theorem onPort_adm (p : Nat) (f : Port → Port) (s : State) : (onPort p f s).adm = s.adm := rfl
@[simp] theorem onPort_cap (p : Nat) (f : Port → Port) (s : State) : (onPort p f s).cap = s.cap := rfl
@[simp] theorem onPort_str (p : Nat) (f : Port → Port) (s : State) : (onPort p f s).str = s.str := rfl
@[simp] theorem onPort_pun (p : Nat) (f : Port → Port) (s : State) : (onPort p f s).pun = s.pun := rfl
@[simp] theorem onPort_asy (p : Nat) (f : Port → Port) (s : State) : (onPort p f s).asy = s.asy := rfl
@[simp] theorem onPort_spl (p : Nat) (f : Port → Port) (s : State) :
    (onPort p f s).spl = { s.spl with ports := Tab.upd s.spl.ports p f } := rfl
@[simp] theorem onPort_pwr (p : Nat) (f : Port → Port) (s : State) : (onPort p f s).pwr = s.pwr := rfl
@[simp] theorem onPort_dbg (p : Nat) (f : Port → Port) (s : State) : (onPort p f s).dbg = s.dbg := rfl
@[simp] theorem onPort_flt (p : Nat) (f : Port → Port) (s : State) : (onPort p f s).flt = s.flt := rfl
@[simp] theorem onPort_out (p : Nat) (f : Port → Port) (s : State) : (onPort p f s).out = s.out := rfl
@[simp] theorem onPort_pending (p : Nat) (f : Port → Port) (s : State) : (onPort p f s).pending = s.pending := rfl

@[simp] theorem onCtx_time (c : Nat) (f : Ctx → Ctx) (s : State) : (onCtx c f s).time = s.time := rfl
@[simp] theorem onCtx_pins (c : Nat) (f : Ctx → Ctx) (s : State) : (onCtx c f s).pins = s.pins := rfl
@[simp] theorem onCtx_regs (c : Nat) (f : Ctx → Ctx) (s : State) : (onCtx c f s).regs = s.regs := rfl
@[simp] theorem onCtx_ring (c : Nat) (f : Ctx → Ctx) (s : State) : (onCtx c f s).ring = s.ring := rfl
@[simp] theorem onCtx_ldg (c : Nat) (f : Ctx → Ctx) (s : State) : (onCtx c f s).ldg = s.ldg := rfl
@[simp] theorem onCtx_adm (c : Nat) (f : Ctx → Ctx) (s : State) : (onCtx c f s).adm = s.adm := rfl
@[simp] theorem onCtx_cap (c : Nat) (f : Ctx → Ctx) (s : State) : (onCtx c f s).cap = s.cap := rfl
@[simp] theorem onCtx_str (c : Nat) (f : Ctx → Ctx) (s : State) :
    (onCtx c f s).str = { s.str with ctxs := Tab.upd s.str.ctxs c f } := rfl
@[simp] theorem onCtx_pun (c : Nat) (f : Ctx → Ctx) (s : State) : (onCtx c f s).pun = s.pun := rfl
@[simp] theorem onCtx_asy (c : Nat) (f : Ctx → Ctx) (s : State) : (onCtx c f s).asy = s.asy := rfl
@[simp] theorem onCtx_spl (c : Nat) (f : Ctx → Ctx) (s : State) : (onCtx c f s).spl = s.spl := rfl
@[simp] theorem onCtx_pwr (c : Nat) (f : Ctx → Ctx) (s : State) : (onCtx c f s).pwr = s.pwr := rfl
@[simp] theorem onCtx_dbg (c : Nat) (f : Ctx → Ctx) (s : State) : (onCtx c f s).dbg = s.dbg := rfl
@[simp] theorem onCtx_flt (c : Nat) (f : Ctx → Ctx) (s : State) : (onCtx c f s).flt = s.flt := rfl
@[simp] theorem onCtx_out (c : Nat) (f : Ctx → Ctx) (s : State) : (onCtx c f s).out = s.out := rfl
@[simp] theorem onCtx_pending (c : Nat) (f : Ctx → Ctx) (s : State) : (onCtx c f s).pending = s.pending := rfl

@[simp] theorem onBlk_time (i : Nat) (f : Blk → Blk) (s : State) : (onBlk i f s).time = s.time := rfl
@[simp] theorem onBlk_pins (i : Nat) (f : Blk → Blk) (s : State) : (onBlk i f s).pins = s.pins := rfl
@[simp] theorem onBlk_regs (i : Nat) (f : Blk → Blk) (s : State) : (onBlk i f s).regs = s.regs := rfl
@[simp] theorem onBlk_ring (i : Nat) (f : Blk → Blk) (s : State) : (onBlk i f s).ring = s.ring := rfl
@[simp] theorem onBlk_ldg (i : Nat) (f : Blk → Blk) (s : State) : (onBlk i f s).ldg = s.ldg := rfl
@[simp] theorem onBlk_adm (i : Nat) (f : Blk → Blk) (s : State) : (onBlk i f s).adm = s.adm := rfl
@[simp] theorem onBlk_cap (i : Nat) (f : Blk → Blk) (s : State) : (onBlk i f s).cap = s.cap := rfl
@[simp] theorem onBlk_str (i : Nat) (f : Blk → Blk) (s : State) :
    (onBlk i f s).str = { s.str with blocks := updWhere (fun b => b.id == i) f s.str.blocks } := rfl
@[simp] theorem onBlk_pun (i : Nat) (f : Blk → Blk) (s : State) : (onBlk i f s).pun = s.pun := rfl
@[simp] theorem onBlk_asy (i : Nat) (f : Blk → Blk) (s : State) : (onBlk i f s).asy = s.asy := rfl
@[simp] theorem onBlk_spl (i : Nat) (f : Blk → Blk) (s : State) : (onBlk i f s).spl = s.spl := rfl
@[simp] theorem onBlk_pwr (i : Nat) (f : Blk → Blk) (s : State) : (onBlk i f s).pwr = s.pwr := rfl
@[simp] theorem onBlk_dbg (i : Nat) (f : Blk → Blk) (s : State) : (onBlk i f s).dbg = s.dbg := rfl
@[simp] theorem onBlk_flt (i : Nat) (f : Blk → Blk) (s : State) : (onBlk i f s).flt = s.flt := rfl
@[simp] theorem onBlk_out (i : Nat) (f : Blk → Blk) (s : State) : (onBlk i f s).out = s.out := rfl
@[simp] theorem onBlk_pending (i : Nat) (f : Blk → Blk) (s : State) : (onBlk i f s).pending = s.pending := rfl

@[simp] theorem onRegion_time (r : Nat) (f : Region → Region) (s : State) : (onRegion r f s).time = s.time := rfl
@[simp] theorem onRegion_pins (r : Nat) (f : Region → Region) (s : State) : (onRegion r f s).pins = s.pins := rfl
@[simp] theorem onRegion_regs (r : Nat) (f : Region → Region) (s : State) : (onRegion r f s).regs = s.regs := rfl
@[simp] theorem onRegion_ring (r : Nat) (f : Region → Region) (s : State) : (onRegion r f s).ring = s.ring := rfl
@[simp] theorem onRegion_ldg (r : Nat) (f : Region → Region) (s : State) : (onRegion r f s).ldg = s.ldg := rfl
@[simp] theorem onRegion_adm (r : Nat) (f : Region → Region) (s : State) : (onRegion r f s).adm = s.adm := rfl
@[simp] theorem onRegion_cap (r : Nat) (f : Region → Region) (s : State) :
    (onRegion r f s).cap = { s.cap with regions := Tab.upd s.cap.regions r f } := rfl
@[simp] theorem onRegion_str (r : Nat) (f : Region → Region) (s : State) : (onRegion r f s).str = s.str := rfl
@[simp] theorem onRegion_pun (r : Nat) (f : Region → Region) (s : State) : (onRegion r f s).pun = s.pun := rfl
@[simp] theorem onRegion_asy (r : Nat) (f : Region → Region) (s : State) : (onRegion r f s).asy = s.asy := rfl
@[simp] theorem onRegion_spl (r : Nat) (f : Region → Region) (s : State) : (onRegion r f s).spl = s.spl := rfl
@[simp] theorem onRegion_pwr (r : Nat) (f : Region → Region) (s : State) : (onRegion r f s).pwr = s.pwr := rfl
@[simp] theorem onRegion_dbg (r : Nat) (f : Region → Region) (s : State) : (onRegion r f s).dbg = s.dbg := rfl
@[simp] theorem onRegion_flt (r : Nat) (f : Region → Region) (s : State) : (onRegion r f s).flt = s.flt := rfl
@[simp] theorem onRegion_out (r : Nat) (f : Region → Region) (s : State) : (onRegion r f s).out = s.out := rfl
@[simp] theorem onRegion_pending (r : Nat) (f : Region → Region) (s : State) :
    (onRegion r f s).pending = s.pending := rfl

@[simp] theorem onFilter_time (n : Nat) (f : Filter → Filter) (s : State) : (onFilter n f s).time = s.time := rfl
@[simp] theorem onFilter_pins (n : Nat) (f : Filter → Filter) (s : State) : (onFilter n f s).pins = s.pins := rfl
@[simp] theorem onFilter_regs (n : Nat) (f : Filter → Filter) (s : State) : (onFilter n f s).regs = s.regs := rfl
@[simp] theorem onFilter_ring (n : Nat) (f : Filter → Filter) (s : State) : (onFilter n f s).ring = s.ring := rfl
@[simp] theorem onFilter_ldg (n : Nat) (f : Filter → Filter) (s : State) : (onFilter n f s).ldg = s.ldg := rfl
@[simp] theorem onFilter_adm (n : Nat) (f : Filter → Filter) (s : State) : (onFilter n f s).adm = s.adm := rfl
@[simp] theorem onFilter_cap (n : Nat) (f : Filter → Filter) (s : State) :
    (onFilter n f s).cap = { s.cap with filters := Tab.upd s.cap.filters n f } := rfl
@[simp] theorem onFilter_str (n : Nat) (f : Filter → Filter) (s : State) : (onFilter n f s).str = s.str := rfl
@[simp] theorem onFilter_pun (n : Nat) (f : Filter → Filter) (s : State) : (onFilter n f s).pun = s.pun := rfl
@[simp] theorem onFilter_asy (n : Nat) (f : Filter → Filter) (s : State) : (onFilter n f s).asy = s.asy := rfl
@[simp] theorem onFilter_spl (n : Nat) (f : Filter → Filter) (s : State) : (onFilter n f s).spl = s.spl := rfl
@[simp] theorem onFilter_pwr (n : Nat) (f : Filter → Filter) (s : State) : (onFilter n f s).pwr = s.pwr := rfl
@[simp] theorem onFilter_dbg (n : Nat) (f : Filter → Filter) (s : State) : (onFilter n f s).dbg = s.dbg := rfl
@[simp] theorem onFilter_flt (n : Nat) (f : Filter → Filter) (s : State) : (onFilter n f s).flt = s.flt := rfl
@[simp] theorem onFilter_out (n : Nat) (f : Filter → Filter) (s : State) : (onFilter n f s).out = s.out := rfl
@[simp] theorem onFilter_pending (n : Nat) (f : Filter → Filter) (s : State) :
    (onFilter n f s).pending = s.pending := rfl

@[simp] theorem onChain_time (c : Nat) (f : Chain → Chain) (s : State) : (onChain c f s).time = s.time := rfl
@[simp] theorem onChain_pins (c : Nat) (f : Chain → Chain) (s : State) : (onChain c f s).pins = s.pins := rfl
@[simp] theorem onChain_regs (c : Nat) (f : Chain → Chain) (s : State) : (onChain c f s).regs = s.regs := rfl
@[simp] theorem onChain_ring (c : Nat) (f : Chain → Chain) (s : State) : (onChain c f s).ring = s.ring := rfl
@[simp] theorem onChain_ldg (c : Nat) (f : Chain → Chain) (s : State) : (onChain c f s).ldg = s.ldg := rfl
@[simp] theorem onChain_adm (c : Nat) (f : Chain → Chain) (s : State) : (onChain c f s).adm = s.adm := rfl
@[simp] theorem onChain_cap (c : Nat) (f : Chain → Chain) (s : State) :
    (onChain c f s).cap = { s.cap with cut := { s.cap.cut with chains := Tab.upd s.cap.cut.chains c f } } := rfl
@[simp] theorem onChain_str (c : Nat) (f : Chain → Chain) (s : State) : (onChain c f s).str = s.str := rfl
@[simp] theorem onChain_pun (c : Nat) (f : Chain → Chain) (s : State) : (onChain c f s).pun = s.pun := rfl
@[simp] theorem onChain_asy (c : Nat) (f : Chain → Chain) (s : State) : (onChain c f s).asy = s.asy := rfl
@[simp] theorem onChain_spl (c : Nat) (f : Chain → Chain) (s : State) : (onChain c f s).spl = s.spl := rfl
@[simp] theorem onChain_pwr (c : Nat) (f : Chain → Chain) (s : State) : (onChain c f s).pwr = s.pwr := rfl
@[simp] theorem onChain_dbg (c : Nat) (f : Chain → Chain) (s : State) : (onChain c f s).dbg = s.dbg := rfl
@[simp] theorem onChain_flt (c : Nat) (f : Chain → Chain) (s : State) : (onChain c f s).flt = s.flt := rfl
@[simp] theorem onChain_out (c : Nat) (f : Chain → Chain) (s : State) : (onChain c f s).out = s.out := rfl
@[simp] theorem onChain_pending (c : Nat) (f : Chain → Chain) (s : State) : (onChain c f s).pending = s.pending := rfl

@[simp] theorem onTiles_time (f : List Tile → List Tile) (s : State) : (onTiles f s).time = s.time := rfl
@[simp] theorem onTiles_pins (f : List Tile → List Tile) (s : State) : (onTiles f s).pins = s.pins := rfl
@[simp] theorem onTiles_regs (f : List Tile → List Tile) (s : State) : (onTiles f s).regs = s.regs := rfl
@[simp] theorem onTiles_ring (f : List Tile → List Tile) (s : State) : (onTiles f s).ring = s.ring := rfl
@[simp] theorem onTiles_ldg (f : List Tile → List Tile) (s : State) : (onTiles f s).ldg = s.ldg := rfl
@[simp] theorem onTiles_adm (f : List Tile → List Tile) (s : State) : (onTiles f s).adm = s.adm := rfl
@[simp] theorem onTiles_cap (f : List Tile → List Tile) (s : State) : (onTiles f s).cap = s.cap := rfl
@[simp] theorem onTiles_str (f : List Tile → List Tile) (s : State) : (onTiles f s).str = s.str := rfl
@[simp] theorem onTiles_pun (f : List Tile → List Tile) (s : State) : (onTiles f s).pun = s.pun := rfl
@[simp] theorem onTiles_asy (f : List Tile → List Tile) (s : State) :
    (onTiles f s).asy = { s.asy with tiles := f s.asy.tiles } := rfl
@[simp] theorem onTiles_spl (f : List Tile → List Tile) (s : State) : (onTiles f s).spl = s.spl := rfl
@[simp] theorem onTiles_pwr (f : List Tile → List Tile) (s : State) : (onTiles f s).pwr = s.pwr := rfl
@[simp] theorem onTiles_dbg (f : List Tile → List Tile) (s : State) : (onTiles f s).dbg = s.dbg := rfl
@[simp] theorem onTiles_flt (f : List Tile → List Tile) (s : State) : (onTiles f s).flt = s.flt := rfl
@[simp] theorem onTiles_out (f : List Tile → List Tile) (s : State) : (onTiles f s).out = s.out := rfl
@[simp] theorem onTiles_pending (f : List Tile → List Tile) (s : State) : (onTiles f s).pending = s.pending := rfl

@[simp] theorem onFab_time (i : Nat) (f : FabReq → FabReq) (s : State) : (onFab i f s).time = s.time := rfl
@[simp] theorem onFab_pins (i : Nat) (f : FabReq → FabReq) (s : State) : (onFab i f s).pins = s.pins := rfl
@[simp] theorem onFab_regs (i : Nat) (f : FabReq → FabReq) (s : State) : (onFab i f s).regs = s.regs := rfl
@[simp] theorem onFab_ring (i : Nat) (f : FabReq → FabReq) (s : State) : (onFab i f s).ring = s.ring := rfl
@[simp] theorem onFab_ldg (i : Nat) (f : FabReq → FabReq) (s : State) : (onFab i f s).ldg = s.ldg := rfl
@[simp] theorem onFab_adm (i : Nat) (f : FabReq → FabReq) (s : State) : (onFab i f s).adm = s.adm := rfl
@[simp] theorem onFab_cap (i : Nat) (f : FabReq → FabReq) (s : State) : (onFab i f s).cap = s.cap := rfl
@[simp] theorem onFab_str (i : Nat) (f : FabReq → FabReq) (s : State) : (onFab i f s).str = s.str := rfl
@[simp] theorem onFab_pun (i : Nat) (f : FabReq → FabReq) (s : State) : (onFab i f s).pun = s.pun := rfl
@[simp] theorem onFab_asy (i : Nat) (f : FabReq → FabReq) (s : State) : (onFab i f s).asy = s.asy := rfl
@[simp] theorem onFab_spl (i : Nat) (f : FabReq → FabReq) (s : State) : (onFab i f s).spl = s.spl := rfl
@[simp] theorem onFab_pwr (i : Nat) (f : FabReq → FabReq) (s : State) : (onFab i f s).pwr = s.pwr := rfl
@[simp] theorem onFab_dbg (i : Nat) (f : FabReq → FabReq) (s : State) : (onFab i f s).dbg = s.dbg := rfl
@[simp] theorem onFab_flt (i : Nat) (f : FabReq → FabReq) (s : State) : (onFab i f s).flt = s.flt := rfl
@[simp] theorem onFab_out (i : Nat) (f : FabReq → FabReq) (s : State) :
    (onFab i f s).out = { s.out with fab := updWhere (fun r => r.id == i) f s.out.fab } := rfl
@[simp] theorem onFab_pending (i : Nat) (f : FabReq → FabReq) (s : State) : (onFab i f s).pending = s.pending := rfl

@[simp] theorem kill_time (p : Rec → Bool) (s : State) : (kill p s).time = s.time := rfl
@[simp] theorem kill_pins (p : Rec → Bool) (s : State) : (kill p s).pins = s.pins := rfl
@[simp] theorem kill_regs (p : Rec → Bool) (s : State) : (kill p s).regs = s.regs := rfl
@[simp] theorem kill_ring (p : Rec → Bool) (s : State) : (kill p s).ring = s.ring := rfl
@[simp] theorem kill_ldg (p : Rec → Bool) (s : State) :
    (kill p s).ldg = { s.ldg with log := updWhere p (fun r => { r with dead := true }) s.ldg.log } := rfl
@[simp] theorem kill_adm (p : Rec → Bool) (s : State) : (kill p s).adm = s.adm := rfl
@[simp] theorem kill_cap (p : Rec → Bool) (s : State) : (kill p s).cap = s.cap := rfl
@[simp] theorem kill_str (p : Rec → Bool) (s : State) : (kill p s).str = s.str := rfl
@[simp] theorem kill_pun (p : Rec → Bool) (s : State) : (kill p s).pun = s.pun := rfl
@[simp] theorem kill_asy (p : Rec → Bool) (s : State) : (kill p s).asy = s.asy := rfl
@[simp] theorem kill_spl (p : Rec → Bool) (s : State) : (kill p s).spl = s.spl := rfl
@[simp] theorem kill_pwr (p : Rec → Bool) (s : State) : (kill p s).pwr = s.pwr := rfl
@[simp] theorem kill_dbg (p : Rec → Bool) (s : State) : (kill p s).dbg = s.dbg := rfl
@[simp] theorem kill_flt (p : Rec → Bool) (s : State) : (kill p s).flt = s.flt := rfl
@[simp] theorem kill_out (p : Rec → Bool) (s : State) : (kill p s).out = s.out := rfl
@[simp] theorem kill_pending (p : Rec → Bool) (s : State) : (kill p s).pending = s.pending := rfl

@[simp] theorem mark_time (r k q n : Nat) (s : State) : (mark r k q n s).time = s.time := rfl
@[simp] theorem mark_pins (r k q n : Nat) (s : State) : (mark r k q n s).pins = s.pins := rfl
@[simp] theorem mark_regs (r k q n : Nat) (s : State) : (mark r k q n s).regs = s.regs := rfl
@[simp] theorem mark_ring (r k q n : Nat) (s : State) : (mark r k q n s).ring = s.ring := rfl
@[simp] theorem mark_ldg (r k q n : Nat) (s : State) :
    (mark r k q n s).ldg = { s.ldg with marks := Tab.put s.ldg.marks (8 * k + r) (q, n) } := rfl
@[simp] theorem mark_adm (r k q n : Nat) (s : State) : (mark r k q n s).adm = s.adm := rfl
@[simp] theorem mark_cap (r k q n : Nat) (s : State) : (mark r k q n s).cap = s.cap := rfl
@[simp] theorem mark_str (r k q n : Nat) (s : State) : (mark r k q n s).str = s.str := rfl
@[simp] theorem mark_pun (r k q n : Nat) (s : State) : (mark r k q n s).pun = s.pun := rfl
@[simp] theorem mark_asy (r k q n : Nat) (s : State) : (mark r k q n s).asy = s.asy := rfl
@[simp] theorem mark_spl (r k q n : Nat) (s : State) : (mark r k q n s).spl = s.spl := rfl
@[simp] theorem mark_pwr (r k q n : Nat) (s : State) : (mark r k q n s).pwr = s.pwr := rfl
@[simp] theorem mark_dbg (r k q n : Nat) (s : State) : (mark r k q n s).dbg = s.dbg := rfl
@[simp] theorem mark_flt (r k q n : Nat) (s : State) : (mark r k q n s).flt = s.flt := rfl
@[simp] theorem mark_out (r k q n : Nat) (s : State) : (mark r k q n s).out = s.out := rfl
@[simp] theorem mark_pending (r k q n : Nat) (s : State) : (mark r k q n s).pending = s.pending := rfl

@[simp] theorem drawn_time (s : State) : (drawn s).time = { s.time with free := s.time.free + 1 } := rfl
@[simp] theorem drawn_pins (s : State) : (drawn s).pins = s.pins := rfl
@[simp] theorem drawn_regs (s : State) : (drawn s).regs = s.regs := rfl
@[simp] theorem drawn_ring (s : State) : (drawn s).ring = s.ring := rfl
@[simp] theorem drawn_ldg (s : State) : (drawn s).ldg = s.ldg := rfl
@[simp] theorem drawn_adm (s : State) : (drawn s).adm = s.adm := rfl
@[simp] theorem drawn_cap (s : State) : (drawn s).cap = s.cap := rfl
@[simp] theorem drawn_str (s : State) : (drawn s).str = s.str := rfl
@[simp] theorem drawn_pun (s : State) : (drawn s).pun = s.pun := rfl
@[simp] theorem drawn_asy (s : State) : (drawn s).asy = s.asy := rfl
@[simp] theorem drawn_spl (s : State) : (drawn s).spl = s.spl := rfl
@[simp] theorem drawn_pwr (s : State) : (drawn s).pwr = s.pwr := rfl
@[simp] theorem drawn_dbg (s : State) : (drawn s).dbg = s.dbg := rfl
@[simp] theorem drawn_flt (s : State) : (drawn s).flt = s.flt := rfl
@[simp] theorem drawn_out (s : State) : (drawn s).out = s.out := rfl
@[simp] theorem drawn_pending (s : State) : (drawn s).pending = s.pending := rfl

@[simp] theorem dropEvent_time (s : State) : (dropEvent s).time = s.time := rfl
@[simp] theorem dropEvent_pins (s : State) : (dropEvent s).pins = s.pins := rfl
@[simp] theorem dropEvent_regs (s : State) : (dropEvent s).regs = s.regs := rfl
@[simp] theorem dropEvent_ring (s : State) :
    (dropEvent s).ring = { s.ring with ev := { s.ring.ev with dropped := s.ring.ev.dropped + 1 } } := rfl
@[simp] theorem dropEvent_ldg (s : State) : (dropEvent s).ldg = s.ldg := rfl
@[simp] theorem dropEvent_adm (s : State) : (dropEvent s).adm = s.adm := rfl
@[simp] theorem dropEvent_cap (s : State) : (dropEvent s).cap = s.cap := rfl
@[simp] theorem dropEvent_str (s : State) : (dropEvent s).str = s.str := rfl
@[simp] theorem dropEvent_pun (s : State) : (dropEvent s).pun = s.pun := rfl
@[simp] theorem dropEvent_asy (s : State) : (dropEvent s).asy = s.asy := rfl
@[simp] theorem dropEvent_spl (s : State) : (dropEvent s).spl = s.spl := rfl
@[simp] theorem dropEvent_pwr (s : State) : (dropEvent s).pwr = s.pwr := rfl
@[simp] theorem dropEvent_dbg (s : State) : (dropEvent s).dbg = s.dbg := rfl
@[simp] theorem dropEvent_flt (s : State) : (dropEvent s).flt = s.flt := rfl
@[simp] theorem dropEvent_out (s : State) : (dropEvent s).out = s.out := rfl
@[simp] theorem dropEvent_pending (s : State) : (dropEvent s).pending = s.pending := rfl

@[simp] theorem hit_time (l : List Nat) (s : State) : (hit l s).time = s.time := rfl
@[simp] theorem hit_pins (l : List Nat) (s : State) : (hit l s).pins = s.pins := rfl
@[simp] theorem hit_regs (l : List Nat) (s : State) : (hit l s).regs = s.regs := rfl
@[simp] theorem hit_ring (l : List Nat) (s : State) : (hit l s).ring = s.ring := rfl
@[simp] theorem hit_ldg (l : List Nat) (s : State) : (hit l s).ldg = s.ldg := rfl
@[simp] theorem hit_adm (l : List Nat) (s : State) : (hit l s).adm = s.adm := rfl
@[simp] theorem hit_cap (l : List Nat) (s : State) : (hit l s).cap = s.cap := rfl
@[simp] theorem hit_str (l : List Nat) (s : State) : (hit l s).str = s.str := rfl
@[simp] theorem hit_pun (l : List Nat) (s : State) : (hit l s).pun = s.pun := rfl
@[simp] theorem hit_asy (l : List Nat) (s : State) : (hit l s).asy = s.asy := rfl
@[simp] theorem hit_spl (l : List Nat) (s : State) : (hit l s).spl = s.spl := rfl
@[simp] theorem hit_pwr (l : List Nat) (s : State) : (hit l s).pwr = s.pwr := rfl
@[simp] theorem hit_dbg (l : List Nat) (s : State) :
    (hit l s).dbg = { s.dbg with hits := s.dbg.hits ++ l.filter fun b => !s.dbg.hits.contains b } := rfl
@[simp] theorem hit_flt (l : List Nat) (s : State) : (hit l s).flt = s.flt := rfl
@[simp] theorem hit_out (l : List Nat) (s : State) : (hit l s).out = s.out := rfl
@[simp] theorem hit_pending (l : List Nat) (s : State) : (hit l s).pending = s.pending := rfl

@[simp] theorem msix_time (v d : Nat) (s : State) : (msix v d s).time = s.time := rfl
@[simp] theorem msix_pins (v d : Nat) (s : State) : (msix v d s).pins = s.pins := rfl
@[simp] theorem msix_regs (v d : Nat) (s : State) : (msix v d s).regs = s.regs := rfl
@[simp] theorem msix_ring (v d : Nat) (s : State) : (msix v d s).ring = s.ring := rfl
@[simp] theorem msix_ldg (v d : Nat) (s : State) : (msix v d s).ldg = s.ldg := rfl
@[simp] theorem msix_adm (v d : Nat) (s : State) : (msix v d s).adm = s.adm := rfl
@[simp] theorem msix_cap (v d : Nat) (s : State) : (msix v d s).cap = s.cap := rfl
@[simp] theorem msix_str (v d : Nat) (s : State) : (msix v d s).str = s.str := rfl
@[simp] theorem msix_pun (v d : Nat) (s : State) : (msix v d s).pun = s.pun := rfl
@[simp] theorem msix_asy (v d : Nat) (s : State) : (msix v d s).asy = s.asy := rfl
@[simp] theorem msix_spl (v d : Nat) (s : State) : (msix v d s).spl = s.spl := rfl
@[simp] theorem msix_pwr (v d : Nat) (s : State) : (msix v d s).pwr = s.pwr := rfl
@[simp] theorem msix_dbg (v d : Nat) (s : State) : (msix v d s).dbg = s.dbg := rfl
@[simp] theorem msix_flt (v d : Nat) (s : State) : (msix v d s).flt = s.flt := rfl
@[simp] theorem msix_out (v d : Nat) (s : State) :
    (msix v d s).out = { s.out with msix := Tab.put s.out.msix v d } := rfl
@[simp] theorem msix_pending (v d : Nat) (s : State) : (msix v d s).pending = s.pending := rfl

@[simp] theorem readCtl_time (a d n c : Nat) (s : State) : (readCtl a d n c s).time = s.time := rfl
@[simp] theorem readCtl_pins (a d n c : Nat) (s : State) : (readCtl a d n c s).pins = s.pins := rfl
@[simp] theorem readCtl_regs (a d n c : Nat) (s : State) : (readCtl a d n c s).regs = s.regs := rfl
@[simp] theorem readCtl_ring (a d n c : Nat) (s : State) : (readCtl a d n c s).ring = s.ring := rfl
@[simp] theorem readCtl_ldg (a d n c : Nat) (s : State) : (readCtl a d n c s).ldg = s.ldg := rfl
@[simp] theorem readCtl_adm (a d n c : Nat) (s : State) : (readCtl a d n c s).adm = s.adm := rfl
@[simp] theorem readCtl_cap (a d n c : Nat) (s : State) : (readCtl a d n c s).cap = s.cap := rfl
@[simp] theorem readCtl_str (a d n c : Nat) (s : State) : (readCtl a d n c s).str = s.str := rfl
@[simp] theorem readCtl_pun (a d n c : Nat) (s : State) : (readCtl a d n c s).pun = s.pun := rfl
@[simp] theorem readCtl_asy (a d n c : Nat) (s : State) : (readCtl a d n c s).asy = s.asy := rfl
@[simp] theorem readCtl_spl (a d n c : Nat) (s : State) : (readCtl a d n c s).spl = s.spl := rfl
@[simp] theorem readCtl_pwr (a d n c : Nat) (s : State) : (readCtl a d n c s).pwr = s.pwr := rfl
@[simp] theorem readCtl_dbg (a d n c : Nat) (s : State) : (readCtl a d n c s).dbg = s.dbg := rfl
@[simp] theorem readCtl_flt (a d n c : Nat) (s : State) : (readCtl a d n c s).flt = s.flt := rfl
@[simp] theorem readCtl_out (a d n c : Nat) (s : State) :
    (readCtl a d n c s).out = { s.out with reads := s.out.reads ++ [{ addr := a, tdid := d, len := n, cls := c }] } := rfl
@[simp] theorem readCtl_pending (a d n c : Nat) (s : State) : (readCtl a d n c s).pending = s.pending := rfl

@[simp] theorem hbReq_time (k : HbKind) (w : Bool) (a d n : Nat) (b : Bytes) (c h : Nat) (x : Option Nat) (s : State) :
    (hbReq k w a d n b c h x s).time = s.time := rfl
@[simp] theorem hbReq_pins (k : HbKind) (w : Bool) (a d n : Nat) (b : Bytes) (c h : Nat) (x : Option Nat) (s : State) :
    (hbReq k w a d n b c h x s).pins = s.pins := rfl
@[simp] theorem hbReq_regs (k : HbKind) (w : Bool) (a d n : Nat) (b : Bytes) (c h : Nat) (x : Option Nat) (s : State) :
    (hbReq k w a d n b c h x s).regs = s.regs := rfl
@[simp] theorem hbReq_ring (k : HbKind) (w : Bool) (a d n : Nat) (b : Bytes) (c h : Nat) (x : Option Nat) (s : State) :
    (hbReq k w a d n b c h x s).ring = s.ring := rfl
@[simp] theorem hbReq_ldg (k : HbKind) (w : Bool) (a d n : Nat) (b : Bytes) (c h : Nat) (x : Option Nat) (s : State) :
    (hbReq k w a d n b c h x s).ldg = s.ldg := rfl
@[simp] theorem hbReq_adm (k : HbKind) (w : Bool) (a d n : Nat) (b : Bytes) (c h : Nat) (x : Option Nat) (s : State) :
    (hbReq k w a d n b c h x s).adm = s.adm := rfl
@[simp] theorem hbReq_cap (k : HbKind) (w : Bool) (a d n : Nat) (b : Bytes) (c h : Nat) (x : Option Nat) (s : State) :
    (hbReq k w a d n b c h x s).cap = s.cap := rfl
@[simp] theorem hbReq_str (k : HbKind) (w : Bool) (a d n : Nat) (b : Bytes) (c h : Nat) (x : Option Nat) (s : State) :
    (hbReq k w a d n b c h x s).str = s.str := rfl
@[simp] theorem hbReq_pun (k : HbKind) (w : Bool) (a d n : Nat) (b : Bytes) (c h : Nat) (x : Option Nat) (s : State) :
    (hbReq k w a d n b c h x s).pun = s.pun := rfl
@[simp] theorem hbReq_asy (k : HbKind) (w : Bool) (a d n : Nat) (b : Bytes) (c h : Nat) (x : Option Nat) (s : State) :
    (hbReq k w a d n b c h x s).asy = s.asy := rfl
@[simp] theorem hbReq_spl (k : HbKind) (w : Bool) (a d n : Nat) (b : Bytes) (c h : Nat) (x : Option Nat) (s : State) :
    (hbReq k w a d n b c h x s).spl = s.spl := rfl
@[simp] theorem hbReq_pwr (k : HbKind) (w : Bool) (a d n : Nat) (b : Bytes) (c h : Nat) (x : Option Nat) (s : State) :
    (hbReq k w a d n b c h x s).pwr = s.pwr := rfl
@[simp] theorem hbReq_dbg (k : HbKind) (w : Bool) (a d n : Nat) (b : Bytes) (c h : Nat) (x : Option Nat) (s : State) :
    (hbReq k w a d n b c h x s).dbg = s.dbg := rfl
@[simp] theorem hbReq_flt (k : HbKind) (w : Bool) (a d n : Nat) (b : Bytes) (c h : Nat) (x : Option Nat) (s : State) :
    (hbReq k w a d n b c h x s).flt = s.flt := rfl
@[simp] theorem hbReq_out (k : HbKind) (w : Bool) (a d n : Nat) (b : Bytes) (c h : Nat) (x : Option Nat) (s : State) :
    (hbReq k w a d n b c h x s).out = { s.out with
      hb := s.out.hb ++ [{
        id := s.out.nextId, kind := k, write := w, addr := a, tdid := d, len := n, data := b,
        cls := c, chan := h, ctx := x }]
      nextId := s.out.nextId + 1 } := rfl
@[simp] theorem hbReq_pending (k : HbKind) (w : Bool) (a d n : Nat) (b : Bytes) (c h : Nat) (x : Option Nat) (s : State) :
    (hbReq k w a d n b c h x s).pending = s.pending := rfl

@[simp] theorem hbWrite_time (k : HbKind) (a d : Nat) (b : Bytes) (s : State) : (hbWrite k a d b s).time = s.time := rfl
@[simp] theorem hbWrite_pins (k : HbKind) (a d : Nat) (b : Bytes) (s : State) : (hbWrite k a d b s).pins = s.pins := rfl
@[simp] theorem hbWrite_regs (k : HbKind) (a d : Nat) (b : Bytes) (s : State) : (hbWrite k a d b s).regs = s.regs := rfl
@[simp] theorem hbWrite_ring (k : HbKind) (a d : Nat) (b : Bytes) (s : State) : (hbWrite k a d b s).ring = s.ring := rfl
@[simp] theorem hbWrite_ldg (k : HbKind) (a d : Nat) (b : Bytes) (s : State) : (hbWrite k a d b s).ldg = s.ldg := rfl
@[simp] theorem hbWrite_adm (k : HbKind) (a d : Nat) (b : Bytes) (s : State) : (hbWrite k a d b s).adm = s.adm := rfl
@[simp] theorem hbWrite_cap (k : HbKind) (a d : Nat) (b : Bytes) (s : State) : (hbWrite k a d b s).cap = s.cap := rfl
@[simp] theorem hbWrite_str (k : HbKind) (a d : Nat) (b : Bytes) (s : State) : (hbWrite k a d b s).str = s.str := rfl
@[simp] theorem hbWrite_pun (k : HbKind) (a d : Nat) (b : Bytes) (s : State) : (hbWrite k a d b s).pun = s.pun := rfl
@[simp] theorem hbWrite_asy (k : HbKind) (a d : Nat) (b : Bytes) (s : State) : (hbWrite k a d b s).asy = s.asy := rfl
@[simp] theorem hbWrite_spl (k : HbKind) (a d : Nat) (b : Bytes) (s : State) : (hbWrite k a d b s).spl = s.spl := rfl
@[simp] theorem hbWrite_pwr (k : HbKind) (a d : Nat) (b : Bytes) (s : State) : (hbWrite k a d b s).pwr = s.pwr := rfl
@[simp] theorem hbWrite_dbg (k : HbKind) (a d : Nat) (b : Bytes) (s : State) : (hbWrite k a d b s).dbg = s.dbg := rfl
@[simp] theorem hbWrite_flt (k : HbKind) (a d : Nat) (b : Bytes) (s : State) : (hbWrite k a d b s).flt = s.flt := rfl
@[simp] theorem hbWrite_out (k : HbKind) (a d : Nat) (b : Bytes) (s : State) :
    (hbWrite k a d b s).out = { s.out with
      hb := s.out.hb ++ [{
        id := s.out.nextId, kind := k, write := true, addr := a, tdid := d, len := b.length, data := b,
        cls := 1, chan := 0, ctx := none }]
      nextId := s.out.nextId + 1 } := rfl
@[simp] theorem hbWrite_pending (k : HbKind) (a d : Nat) (b : Bytes) (s : State) :
    (hbWrite k a d b s).pending = s.pending := rfl

@[simp] theorem hbRead_time (k : HbKind) (a d n : Nat) (s : State) : (hbRead k a d n s).time = s.time := rfl
@[simp] theorem hbRead_pins (k : HbKind) (a d n : Nat) (s : State) : (hbRead k a d n s).pins = s.pins := rfl
@[simp] theorem hbRead_regs (k : HbKind) (a d n : Nat) (s : State) : (hbRead k a d n s).regs = s.regs := rfl
@[simp] theorem hbRead_ring (k : HbKind) (a d n : Nat) (s : State) : (hbRead k a d n s).ring = s.ring := rfl
@[simp] theorem hbRead_ldg (k : HbKind) (a d n : Nat) (s : State) : (hbRead k a d n s).ldg = s.ldg := rfl
@[simp] theorem hbRead_adm (k : HbKind) (a d n : Nat) (s : State) : (hbRead k a d n s).adm = s.adm := rfl
@[simp] theorem hbRead_cap (k : HbKind) (a d n : Nat) (s : State) : (hbRead k a d n s).cap = s.cap := rfl
@[simp] theorem hbRead_str (k : HbKind) (a d n : Nat) (s : State) : (hbRead k a d n s).str = s.str := rfl
@[simp] theorem hbRead_pun (k : HbKind) (a d n : Nat) (s : State) : (hbRead k a d n s).pun = s.pun := rfl
@[simp] theorem hbRead_asy (k : HbKind) (a d n : Nat) (s : State) : (hbRead k a d n s).asy = s.asy := rfl
@[simp] theorem hbRead_spl (k : HbKind) (a d n : Nat) (s : State) : (hbRead k a d n s).spl = s.spl := rfl
@[simp] theorem hbRead_pwr (k : HbKind) (a d n : Nat) (s : State) : (hbRead k a d n s).pwr = s.pwr := rfl
@[simp] theorem hbRead_dbg (k : HbKind) (a d n : Nat) (s : State) : (hbRead k a d n s).dbg = s.dbg := rfl
@[simp] theorem hbRead_flt (k : HbKind) (a d n : Nat) (s : State) : (hbRead k a d n s).flt = s.flt := rfl
@[simp] theorem hbRead_out (k : HbKind) (a d n : Nat) (s : State) :
    (hbRead k a d n s).out = { s.out with
      hb := s.out.hb ++ [{
        id := s.out.nextId, kind := k, write := false, addr := a, tdid := d, len := n, data := [],
        cls := 1, chan := 0, ctx := none }]
      nextId := s.out.nextId + 1 } := rfl
@[simp] theorem hbRead_pending (k : HbKind) (a d n : Nat) (s : State) : (hbRead k a d n s).pending = s.pending := rfl

@[simp] theorem hbSector_time (k : HbKind) (a d n c : Nat) (x : Option Nat) (b : Bytes) (s : State) :
    (hbSector k a d n c x b s).time = s.time := rfl
@[simp] theorem hbSector_pins (k : HbKind) (a d n c : Nat) (x : Option Nat) (b : Bytes) (s : State) :
    (hbSector k a d n c x b s).pins = s.pins := rfl
@[simp] theorem hbSector_regs (k : HbKind) (a d n c : Nat) (x : Option Nat) (b : Bytes) (s : State) :
    (hbSector k a d n c x b s).regs = s.regs := rfl
@[simp] theorem hbSector_ring (k : HbKind) (a d n c : Nat) (x : Option Nat) (b : Bytes) (s : State) :
    (hbSector k a d n c x b s).ring = s.ring := rfl
@[simp] theorem hbSector_ldg (k : HbKind) (a d n c : Nat) (x : Option Nat) (b : Bytes) (s : State) :
    (hbSector k a d n c x b s).ldg = s.ldg := rfl
@[simp] theorem hbSector_adm (k : HbKind) (a d n c : Nat) (x : Option Nat) (b : Bytes) (s : State) :
    (hbSector k a d n c x b s).adm = s.adm := rfl
@[simp] theorem hbSector_cap (k : HbKind) (a d n c : Nat) (x : Option Nat) (b : Bytes) (s : State) :
    (hbSector k a d n c x b s).cap = s.cap := rfl
@[simp] theorem hbSector_str (k : HbKind) (a d n c : Nat) (x : Option Nat) (b : Bytes) (s : State) :
    (hbSector k a d n c x b s).str = s.str := rfl
@[simp] theorem hbSector_pun (k : HbKind) (a d n c : Nat) (x : Option Nat) (b : Bytes) (s : State) :
    (hbSector k a d n c x b s).pun = s.pun := rfl
@[simp] theorem hbSector_asy (k : HbKind) (a d n c : Nat) (x : Option Nat) (b : Bytes) (s : State) :
    (hbSector k a d n c x b s).asy = s.asy := rfl
@[simp] theorem hbSector_spl (k : HbKind) (a d n c : Nat) (x : Option Nat) (b : Bytes) (s : State) :
    (hbSector k a d n c x b s).spl = s.spl := rfl
@[simp] theorem hbSector_pwr (k : HbKind) (a d n c : Nat) (x : Option Nat) (b : Bytes) (s : State) :
    (hbSector k a d n c x b s).pwr = s.pwr := rfl
@[simp] theorem hbSector_dbg (k : HbKind) (a d n c : Nat) (x : Option Nat) (b : Bytes) (s : State) :
    (hbSector k a d n c x b s).dbg = s.dbg := rfl
@[simp] theorem hbSector_flt (k : HbKind) (a d n c : Nat) (x : Option Nat) (b : Bytes) (s : State) :
    (hbSector k a d n c x b s).flt = s.flt := rfl
@[simp] theorem hbSector_out (k : HbKind) (a d n c : Nat) (x : Option Nat) (b : Bytes) (s : State) :
    (hbSector k a d n c x b s).out = { s.out with
      hb := s.out.hb ++ [{
        id := s.out.nextId, kind := k, write := true, addr := a, tdid := d, len := b.length, data := b,
        cls := c, chan := n % 4, ctx := x }]
      nextId := s.out.nextId + 1 } := rfl
@[simp] theorem hbSector_pending (k : HbKind) (a d n c : Nat) (x : Option Nat) (b : Bytes) (s : State) :
    (hbSector k a d n c x b s).pending = s.pending := rfl

@[simp] theorem laneClean_time (m l : Nat) (s : State) : (laneClean m l s).time = s.time := rfl
@[simp] theorem laneClean_pins (m l : Nat) (s : State) : (laneClean m l s).pins = s.pins := rfl
@[simp] theorem laneClean_regs (m l : Nat) (s : State) : (laneClean m l s).regs = s.regs := rfl
@[simp] theorem laneClean_ring (m l : Nat) (s : State) : (laneClean m l s).ring = s.ring := rfl
@[simp] theorem laneClean_ldg (m l : Nat) (s : State) : (laneClean m l s).ldg = s.ldg := rfl
@[simp] theorem laneClean_adm (m l : Nat) (s : State) : (laneClean m l s).adm = s.adm := rfl
@[simp] theorem laneClean_cap (m l : Nat) (s : State) : (laneClean m l s).cap = s.cap := rfl
@[simp] theorem laneClean_str (m l : Nat) (s : State) : (laneClean m l s).str = s.str := rfl
@[simp] theorem laneClean_pun (m l : Nat) (s : State) : (laneClean m l s).pun = s.pun := rfl
@[simp] theorem laneClean_asy (m l : Nat) (s : State) : (laneClean m l s).asy = s.asy := rfl
@[simp] theorem laneClean_spl (m l : Nat) (s : State) : (laneClean m l s).spl = s.spl := rfl
@[simp] theorem laneClean_pwr (m l : Nat) (s : State) : (laneClean m l s).pwr = s.pwr := rfl
@[simp] theorem laneClean_dbg (m l : Nat) (s : State) : (laneClean m l s).dbg = s.dbg := rfl
@[simp] theorem laneClean_flt (m l : Nat) (s : State) :
    (laneClean m l s).flt = { s.flt with flipped := s.flt.flipped.filter fun x => x.1 != m * 2 ^ 32 + l } := rfl
@[simp] theorem laneClean_out (m l : Nat) (s : State) : (laneClean m l s).out = s.out := rfl
@[simp] theorem laneClean_pending (m l : Nat) (s : State) : (laneClean m l s).pending = s.pending := rfl

end Sys2Proof.Machine
end

