-- ==== Sys2Proof/Safety.lean ====
section
/-! DEFINITION. The terms that the statements use: what a step answers, the control part of the state with what is legal in
it, what the journal and the event ring may change, and how a command ends. -/

namespace Sys2Proof.Machine

/-! ### The control part of the state -/

/-- The shadowed registers with the castle, the queue of commands, SC_POWER.STATE, the reset in force and
SC_DBG_STAT.STATE: the parts that few commands may change. -/
structure Ctl where
  shadow : Shadow
  pending : List Instr
  pwr : Nat
  rst : Nat
  dbg : Nat

def ctl (s : State) : Ctl := ⟨s.regs.shadow, s.pending, s.pwr.state, s.pins.rst, s.dbg.state⟩

/-- A value that a shadowed register may hold: its reserved bits are 0 (R13, R366). -/
def regOk (e : Nat × W32) : Prop := isShadowed e.1 = true ∧ e.2 &&& BitVec.ofNat 32 (shMask e.1) = e.2

/-- The castle and the shadowed registers are legal (R367, R372, R373, R378). -/
def Shadow.ok (r : Shadow) : Prop :=
  (∀ e ∈ r.applied, regOk e) ∧ (∀ e ∈ r.staged, regOk e) ∧ (∀ e ∈ r.mirrorWait, regOk e) ∧
    ¬(r.castle.isOpen = true ∧ r.castle.pend = true) ∧
    (r.castle.isOpen = false → r.castle.pend = false → r.staged = []) ∧ r.castle.result ≤ 3

/-- The control part is legal: the modes of R353, R356 and R381 are the ones the manual names. -/
def Ctl.ok (c : Ctl) : Prop := c.shadow.ok ∧ c.pwr ≤ 3 ∧ c.rst ≤ 3 ∧ c.dbg ≤ 2

/-! ### Stores -/

/-- Nothing of an internal store waits in its merge buffer or is corrupted, so that a read of it changes nothing. -/
def storeClean (store : Nat) (s : State) : Prop :=
  (∀ e ∈ s.flt.merge, e.store ≠ store) ∧ ∀ x ∈ s.flt.flipped, x.1 / 2 ^ 32 ≠ store

/-! ### Arbiters -/

/-- The classes that an arbiter grants at successive opportunities, given the classes that wait at each (R16). -/
def grantsOf (a : Arb) : List (List Nat) → List Nat
  | [] => []
  | w :: rest =>
    match a.choose w with
    | none => grantsOf a rest
    | some c => c :: grantsOf (a.count c a.last) rest

/-! ### What the journal, the event ring and a command's end change -/

/-- `t` is `s` but for what forming events changes: the event ring, the host-bridge writes and MSI-X requests that it
issues, and the breakpoints that it meets (R66, R69, R390, R398). -/
def onlyEvents (s t : State) : Prop :=
  t = { s with
    ring := { s.ring with ev := t.ring.ev }
    out := { s.out with hb := t.out.hb, nextId := t.out.nextId, msix := t.out.msix }
    dbg := { s.dbg with hits := t.dbg.hits } }

/-- `t` is `s` but for what appending records changes: the log, its numbering and rotation, the mirror writes that it
issues, LEDGER_LOW, and the corruption that SC_FLIP arms (R297, R300 to R303, R322). -/
def onlyJournal (s t : State) : Prop :=
  t = { s with
    ldg := { s.ldg with log := t.ldg.log, lsn := t.ldg.lsn, rot := t.ldg.rot, lowRaised := t.ldg.lowRaised }
    ring := { s.ring with ev := t.ring.ev }
    out := { s.out with hb := t.out.hb, nextId := t.out.nextId, msix := t.out.msix }
    regs := { s.regs with flip := t.regs.flip }
    dbg := { s.dbg with hits := t.dbg.hits, recs := t.dbg.recs }
    flt := { s.flt with flipped := t.flt.flipped } }

/-- The log holds a live record of a kind, state, queue and sequence number with an argument. -/
def holdsRec (s : State) (kind state q seq : Nat) (arg : Bytes) : Prop :=
  ∃ r ∈ s.ldg.log, r.kind = kind ∧ r.state = state ∧ r.queue = q ∧ r.seq = seq ∧ r.arg = arg ∧ r.dead = false

/-- A command as it stands once it has run. -/
def ranCmd (c : Cmd) : Cmd := { c with ran := true }

/-- A command as it stands once it is DURABLE. -/
def endedCmd (now status detail : Nat) (c : Cmd) : Cmd :=
  { c with st := .durable, since := now, ran := true, status, detail := min detail 255, maint := false }

/-- `t` is `s` with one command DURABLE under its final STATUS and DETAIL and journalled so (R21, R298). -/
def journalledEnd (q seq status detail : Nat) (s t : State) : Prop :=
  onlyJournal (onCmd q seq (endedCmd s.time.act status detail) s) t ∧
    holdsRec t 1 3 q seq (toLE 1 status ++ toLE 1 (min detail 255))

/-- A command of a queue and sequence number is a launch (R89). -/
def launches (q seq : Nat) (s : State) : Bool := (cmd? s q seq).any fun c => isLaunch c.item

/-- A command ends: it is DURABLE and journalled; with a launch, the generations that no other launch holds go free (R90). -/
def ends (q seq status detail : Nat) (s t : State) : Prop :=
  ∃ u, journalledEnd q seq status detail s u ∧ t = if launches q seq s then freeGens u else u

/-- A ring command's step is due and its body passes its checks: STARTED, not run, with the opcode (R12, R397). -/
def ready (op q seq : Nat) (own : Cmd → State → List (Nat × Bool)) (c : Cmd) (s : State) : Prop :=
  due op q seq s = some c ∧ bodyBad c.item (own c (onCmd q seq ranCmd s)) = none

/-- The opcode, queue and sequence number of a ring command's row (R72). -/
def ringCommand : Instr → Option (Nat × Nat × Nat)
  | .vaultCreate q n => some (0x01, q, n)
  | .vaultDelete q n => some (0x02, q, n)
  | .queueCreate q n _ => some (0x03, q, n)
  | .queueDelete q n _ => some (0x04, q, n)
  | .bufGrant q n => some (0x05, q, n)
  | .bufFree q n => some (0x06, q, n)
  | .planStore q n _ => some (0x07, q, n)
  | .planPatch q n _ _ => some (0x08, q, n)
  | .recipeLoad q n _ => some (0x09, q, n)
  | .keyLoad q n _ => some (0x0A, q, n)
  | .keyDerive q n _ => some (0x0B, q, n)
  | .powerSet q n => some (0x0C, q, n)
  | .laneRetire q n => some (0x0D, q, n)
  | .laneReturn q n _ => some (0x0E, q, n)
  | .buddySet q n => some (0x0F, q, n)
  | .topologySet q n _ => some (0x10, q, n)
  | .touchstoneLoad q n _ => some (0x11, q, n)
  | .touchstoneRun q n _ _ => some (0x12, q, n)
  | .ledgerCompact q n => some (0x13, q, n)
  | .fenceRaise q n => some (0x14, q, n)
  | .epochOpen q n _ => some (0x40, q, n)
  | .capture q n => some (0x41, q, n)
  | .rowCapture q n => some (0x42, q, n)
  | .sealCmd q n => some (0x43, q, n)
  | .restore q n _ => some (0x44, q, n)
  | .gatherRestore q n _ => some (0x45, q, n)
  | .digest q n => some (0x46, q, n)
  | .checkvalue q n => some (0x47, q, n)
  | .barrier q n => some (0x48, q, n)
  | .planLaunch q n _ => some (0x49, q, n)
  | .cancel q n => some (0x4A, q, n)
  | .flush q n _ => some (0x4B, q, n)
  | _ => none

/-- The message type and the port of a row that takes a transaction message (R257). -/
def messageRow : Instr → Option (Nat × Nat)
  | .hello p => some (0x01, p)
  | .helloAck p => some (0x02, p)
  | .fence p => some (0x03, p)
  | .fenced p => some (0x04, p)
  | .vaultOpen p => some (0x08, p)
  | .vaultClose p => some (0x09, p)
  | .vaultReply p => some (0x0A, p)
  | .sectorWrite p => some (0x10, p)
  | .sectorAck p => some (0x11, p)
  | .sectorRead p _ => some (0x12, p)
  | .sectorData p _ => some (0x13, p)
  | .digestMessage p => some (0x20, p)
  | .digestVerdict p => some (0x21, p)
  | .tiding p => some (0x30, p)
  | _ => none

/-- The oldest message of a type that waits on a port. -/
def waitsOn (mtype p : Nat) (m : Bytes) (s : State) : Prop :=
  ((port? s p).bind fun x => x.rx.find? fun y => mType y == mtype) = some m

/-- A message of a type waits on a port, its header is sound, and its sender is listed and carries the generation that is
expected of it (R257, R262). -/
def arrives (mtype p : Nat) (m : Bytes) (s : State) : Prop :=
  txRuns s = true ∧ waitsOn mtype p m s ∧ (topoDev s (mSrc m)).isSome = true ∧ expectedGen s (mSrc m) = mGen m ∧
    headerOk s m = true

/-- The state once a message has left its buffer, whose blocks are credited again (R247). -/
def unbuffered (p : Nat) (m : Bytes) (s : State) : State := freeBlocks p m (onPort p (fun x => { x with rx := x.rx.erase m }) s)

/-- The state in which an accepted message takes its effect: its sender has been heard. -/
def taken (p : Nat) (m : Bytes) (s : State) : State :=
  { unbuffered p m s with spl.peers := Tab.upd s.spl.peers (mSrc m) fun x => { x with gen := mGen m, heard := true, lost := false } }

/-- The operation of a debug request's row, whether it needs an unlocked port, and the request (R383). -/
def dbgRow : Instr → Option (Nat × Bool × DbgReq)
  | .dbgNop r => some (0x00, false, r)
  | .dbgStatus r => some (0x01, false, r)
  | .dbgChallenge r => some (0x02, false, r)
  | .dbgUnlock r => some (0x03, false, r)
  | .dbgLock r => some (0x04, true, r)
  | .dbgHalt r => some (0x08, true, r)
  | .dbgResume r => some (0x09, true, r)
  | .dbgStep r => some (0x0A, true, r)
  | .dbgRstep r => some (0x0B, true, r)
  | .dbgRresume r => some (0x0C, true, r)
  | .dbgBpSet r => some (0x10, true, r)
  | .dbgBpClear r => some (0x11, true, r)
  | .dbgSetaddr r => some (0x18, true, r)
  | .dbgRead r => some (0x19, true, r)
  | .dbgWrite r => some (0x1A, true, r)
  | .otpWrite r => some (0x20, true, r)
  | .otpBurn r _ => some (0x21, true, r)
  | _ => none

/-- A debug request is taken: no earlier one is BUSY, its reserved bits are 0, and the port is unlocked where the operation
asks for it (R382, R383). -/
def dbgTakes (unlocked : Bool) (r : DbgReq) (s : State) : Prop :=
  s.dbg.ansStatus ≠ 1 ∧ r.rsvd = 0 ∧ (unlocked = true → s.dbg.state ≠ 0)

/-- The state in which a debug request that is taken has its effect: its answer is OK until the effect says otherwise. -/
def dbgTaken (op : Nat) (r : DbgReq) (s : State) : State := answer op r.sel 0 0 { s with dbg.ir := 0x20 }

/-- The opcode, lane and fields of a recipe instruction's row (R184). -/
def recipeRow : Instr → Option (Nat × Nat × RFields)
  | .rNop l r => some (0x00, l, r)
  | .rEnd l r => some (0x01, l, r)
  | .rTrap l r => some (0x02, l, r)
  | .rJmp l r => some (0x03, l, r)
  | .rBz l r => some (0x04, l, r)
  | .rBnz l r => some (0x05, l, r)
  | .rLoop l r => some (0x06, l, r)
  | .rSli l r => some (0x10, l, r)
  | .rSadd l r => some (0x11, l, r)
  | .rSaddi l r => some (0x12, l, r)
  | .rSsub l r => some (0x13, l, r)
  | .rSand l r => some (0x14, l, r)
  | .rSor l r => some (0x15, l, r)
  | .rSxor l r => some (0x16, l, r)
  | .rSshl l r => some (0x17, l, r)
  | .rSsra l r => some (0x18, l, r)
  | .rSblen l r => some (0x19, l, r)
  | .rSget l r => some (0x1A, l, r)
  | .rVld l r => some (0x20, l, r)
  | .rVldb l r => some (0x21, l, r)
  | .rVst l r => some (0x22, l, r)
  | .rSld l r => some (0x23, l, r)
  | .rSst l r => some (0x24, l, r)
  | .rVadd l r => some (0x30, l, r)
  | .rVsub l r => some (0x31, l, r)
  | .rVmin l r => some (0x32, l, r)
  | .rVmax l r => some (0x33, l, r)
  | .rVand l r => some (0x34, l, r)
  | .rVor l r => some (0x35, l, r)
  | .rVxor l r => some (0x36, l, r)
  | .rVshl l r => some (0x37, l, r)
  | .rVsra l r => some (0x38, l, r)
  | .rVbcast l r => some (0x39, l, r)
  | .rVext l r => some (0x3A, l, r)
  | .rVins l r => some (0x3B, l, r)
  | .rVcmpz l r => some (0x3C, l, r)
  | .rVabsmax l r => some (0x3D, l, r)
  | .rVrq l r => some (0x3E, l, r)
  | .rVnarrow l r => some (0x3F, l, r)
  | .rVwiden l r => some (0x40, l, r)
  | _ => none

/-- A lane may execute an instruction of one cycle: its invocation runs, R182 accepts the fields and a cycle of the budget is
left (R183, R185). -/
def laneTakes (op l : Nat) (r : RFields) (s : State) : Prop :=
  up s = true ∧ l < 32 ∧ (lane s l).trap = 0 ∧ rReason op 256 r = 0 ∧ (lane s l).cycles < 1024

/-- The lane's registers change, a cycle is spent and the next word follows (R183). -/
def laneOn (l : Nat) (f : Lane → Lane) (s : State) : State :=
  setLane l { f (lane s l) with cycles := (lane s l).cycles + 1, pc := (lane s l).pc + 1 } s

/-- Nothing that stands before a command's body is checked makes it wait: no cut or push holds the chains that a LANE_RETIRE
of a filter needs, and PREP may begin (R103, R115, R139, R377). -/
def noWait (c : Cmd) (s : State) : Prop :=
  (itemOp c.item = 0x0D → laneMayRun c s = true) ∧ (itemOp c.item = 0x40 → prepReady c s = true)

end Sys2Proof.Machine
end

