-- ==== Sys2Proof/Laws/Ops.lean ====
section
/-! SUPPORT. What the shared operations can do: forming events, appending records, ending a command, running a ring
command's step. -/

set_option Elab.async false

namespace Sys2Proof.Machine

/-! ### Forming events -/

theorem onlyEvents_refl (s : State) : onlyEvents s s := rfl

theorem onlyEvents_trans {s t u : State} (h : onlyEvents s t) (k : onlyEvents t u) : onlyEvents s u := by
  unfold onlyEvents at *
  rw [h] at k
  rw [k]

theorem hit_events (l : List Nat) (s : State) : onlyEvents s (hit l s) := rfl

theorem hitKind_events (n : Nat) (p : Bp → Bool) (s : State) : onlyEvents s (hitKind n p s) := rfl

theorem hbWrite_events (k : HbKind) (a d : Nat) (b : Bytes) (s : State) : onlyEvents s (hbWrite k a d b s) := rfl

theorem msix_events (v d : Nat) (s : State) : onlyEvents s (msix v d s) := rfl

theorem ring_events (s : State) (r : EvRing) : onlyEvents s { s with ring.ev := r } := rfl

theorem writeEvent_events (e : Event) (s : State) : onlyEvents s (writeEvent e s) := by
  unfold writeEvent
  dsimp only
  split <;> rfl

theorem writeOverflow_events (s : State) : onlyEvents s (writeOverflow s) := by
  unfold writeOverflow
  split
  · exact onlyEvents_trans (ring_events s _) (writeEvent_events ..)
  · rfl

theorem flushHeld_events (l : List Event) (s : State) : onlyEvents s (flushHeld l s) := by
  induction l generalizing s with
  | nil =>
    unfold flushHeld
    exact onlyEvents_trans (ring_events s _) (writeOverflow_events ..)
  | cons e l ih =>
    unfold flushHeld
    split
    · exact onlyEvents_trans (writeEvent_events ..) (ih _)
    · rfl

theorem catchUp_events (s : State) : onlyEvents s (catchUp s) := by
  unfold catchUp
  split
  · exact flushHeld_events ..
  · rfl

theorem dropEvent_events (s : State) : onlyEvents s (dropEvent s) := rfl

/-- Forming an event changes the ring, the requests that write it and the breakpoints that it meets, and nothing else. -/
theorem emit_events (e : Event) (s : State) : onlyEvents s (emit e s) := by
  have h1 := hitKind_events 5 (fun b => bits b.arg 15 0 == e.code) s
  unfold emit
  dsimp only
  generalize hitKind 5 _ s = t at h1
  have h2 : onlyEvents s (if e.code = 0x0701 then hitKind 4 (fun b => bit b.arg (bits e.detail 61 60)) t else t) := by
    split
    · exact onlyEvents_trans h1 (hitKind_events ..)
    · exact h1
  generalize (if e.code = 0x0701 then hitKind 4 (fun b => bit b.arg (bits e.detail 61 60)) t else t) = u at h2
  refine onlyEvents_trans h2 ?_
  have h3 := catchUp_events u
  split
  · split
    · exact ring_events ..
    · exact dropEvent_events _
  · split
    · exact dropEvent_events _
    · split
      · exact onlyEvents_trans h3 (writeEvent_events ..)
      · exact onlyEvents_trans h3 (dropEvent_events _)

theorem raise_events (code sev q n d : Nat) (s : State) : onlyEvents s (raise code sev q n d s) := emit_events ..

theorem raise0_events (code sev d : Nat) (s : State) : onlyEvents s (raise0 code sev d s) := emit_events ..

/-! ### Appending records -/

theorem onlyJournal_refl (s : State) : onlyJournal s s := rfl

theorem onlyJournal_trans {s t u : State} (h : onlyJournal s t) (k : onlyJournal t u) : onlyJournal s u := by
  unfold onlyJournal at *
  rw [h] at k
  rw [k]

theorem journal_of_events {s t : State} (h : onlyEvents s t) : onlyJournal s t := by
  unfold onlyEvents at h
  unfold onlyJournal
  rw [h]

theorem log_journal (s : State) (l : List Rec) (n r : Nat) (b : Bool) :
    onlyJournal s { s with ldg := { s.ldg with log := l, lsn := n, rot := r, lowRaised := b } } := rfl

theorem laneClean_journal (m l : Nat) (s : State) : onlyJournal s (laneClean m l s) := rfl

theorem flipHook_journal (m l : Nat) (s : State) : onlyJournal s (flipHook m l s) := by
  unfold flipHook
  dsimp only
  split <;> rfl

theorem wordWrite_journal (m w : Nat) (s : State) : onlyJournal s (wordWrite m w s) :=
  onlyJournal_trans (onlyJournal_trans (onlyJournal_trans (laneClean_journal ..) (laneClean_journal ..)) (laneClean_journal ..))
    (flipHook_journal ..)

theorem appendRec_journal (r : Rec) (s : State) : onlyJournal s (appendRec r s) := by
  unfold appendRec
  refine onlyJournal_trans ?_ (journal_of_events (hbWrite_events ..))
  exact onlyJournal_trans (onlyJournal_trans (log_journal s _ _ _ s.ldg.lowRaised) (wordWrite_journal ..)) (wordWrite_journal ..)

theorem each_journal {α : Type} (f : α → State → State) (h : ∀ a s, onlyJournal s (f a s)) (l : List α) (s : State) :
    onlyJournal s (each l f s) := by
  unfold each
  induction l generalizing s with
  | nil => rfl
  | cons a l ih => exact onlyJournal_trans (h a s) (ih (f a s))

theorem reclaim_journal (n : Nat) (s : State) : onlyJournal s (reclaim n s) := by
  induction n generalizing s with
  | zero => rfl
  | succ n ih =>
    unfold reclaim
    split
    · rfl
    · next r rest _ =>
      split
      · exact onlyJournal_trans (log_journal s rest s.ldg.lsn s.ldg.rot s.ldg.lowRaised) (ih _)
      · split
        · exact onlyJournal_trans (onlyJournal_trans
            (log_journal s (carryUnit (r :: rest)).2 s.ldg.lsn s.ldg.rot s.ldg.lowRaised) (each_journal _ (fun _ _ => appendRec_journal ..) _ _))
            (ih _)
        · rfl

theorem checkLow_journal (s : State) : onlyJournal s (checkLow s) := by
  unfold checkLow
  split
  · split
    · rfl
    · exact onlyJournal_trans (log_journal s s.ldg.log s.ldg.lsn s.ldg.rot true) (journal_of_events (raise0_events ..))
  · rfl

theorem append_journal (kind state q n : Nat) (arg : Bytes) (dead : Bool) (s : State) :
    onlyJournal s (append kind state q n arg dead s) := by
  have h := appendRec_journal { kind, state, queue := q, lsn := 0, seq := n, arg, dead } s
  unfold append
  dsimp only
  generalize appendRec { kind, state, queue := q, lsn := 0, seq := n, arg, dead } s = t at h
  refine onlyJournal_trans ?_ (onlyJournal_trans (reclaim_journal ..) (checkLow_journal ..))
  split
  · exact onlyJournal_trans h rfl
  · exact h

theorem kill_journal (p : Rec → Bool) (s : State) : onlyJournal s (kill p s) := rfl

/-! ### A record once appended is in the log -/

theorem log_onlyEvents {s t : State} (h : onlyEvents s t) : t.ldg.log = s.ldg.log := by
  unfold onlyEvents at h
  rw [h]

theorem wordWrite_ldg (m w : Nat) (s : State) : (wordWrite m w s).ldg = s.ldg := by
  unfold wordWrite flipHook
  dsimp only
  split <;> rfl

theorem appendRec_log (r : Rec) (s : State) :
    (appendRec r s).ldg.log = s.ldg.log ++ [{ r with lsn := s.ldg.lsn }] := by
  unfold appendRec mirrorRec
  rw [hbWrite_ldg, wordWrite_ldg, wordWrite_ldg]

/-- The live records with a test, whatever their number and whether the mirror has them. -/
def recLike (kind state q n : Nat) (arg : Bytes) (r : Rec) : Prop :=
  r.kind = kind ∧ r.state = state ∧ r.queue = q ∧ r.seq = n ∧ r.arg = arg ∧ r.dead = false

theorem holdsRec_appendRec {kind state q n : Nat} {arg : Bytes} (r : Rec) (s : State)
    (h : holdsRec s kind state q n arg ∨ recLike kind state q n arg r) :
    holdsRec (appendRec r s) kind state q n arg := by
  unfold holdsRec
  rw [appendRec_log]
  rcases h with ⟨x, hx, h⟩ | h
  · exact ⟨x, List.mem_append_left _ hx, h⟩
  · exact ⟨{ r with lsn := s.ldg.lsn }, List.mem_append_right _ (List.mem_singleton.2 rfl), h⟩

theorem holdsRec_each {kind state q n : Nat} {arg : Bytes} (f : Rec → Rec)
    (hf : ∀ r, recLike kind state q n arg r → recLike kind state q n arg (f r)) (l : List Rec) (s : State)
    (h : holdsRec s kind state q n arg ∨ ∃ r ∈ l, recLike kind state q n arg r) :
    holdsRec (each l (fun x => appendRec (f x)) s) kind state q n arg := by
  unfold each
  induction l generalizing s with
  | nil =>
    rcases h with h | ⟨r, hr, _⟩
    · exact h
    · cases hr
  | cons a l ih =>
    refine ih (appendRec (f a) s) ?_
    rcases h with h | ⟨r, hr, h⟩
    · exact .inl (holdsRec_appendRec _ _ (.inl h))
    · rcases List.mem_cons.1 hr with rfl | hr
      · exact .inl (holdsRec_appendRec _ _ (.inr (hf _ h)))
      · exact .inr ⟨r, hr, h⟩

theorem carryUnit_append (l : List Rec) : (carryUnit l).1 ++ (carryUnit l).2 = l := by
  cases l with
  | nil => rfl
  | cons r rest =>
    by_cases h : r.kind = 2
    · simp only [carryUnit, if_pos h, List.take_append_drop]
    · simp only [carryUnit, if_neg h, List.singleton_append]

theorem holdsRec_reclaim {kind state q n : Nat} {arg : Bytes} (k : Nat) (s : State) (h : holdsRec s kind state q n arg) :
    holdsRec (reclaim k s) kind state q n arg := by
  induction k generalizing s with
  | zero => exact h
  | succ k ih =>
    unfold reclaim
    obtain ⟨x, hx, hl⟩ := h
    split
    · next he => rw [he] at hx; cases hx
    · next r rest he =>
      rw [he] at hx
      split
      · next hd =>
        refine ih _ ?_
        rcases List.mem_cons.1 hx with rfl | hx
        · exact absurd hl.2.2.2.2.2 (by rw [hd]; decide)
        · exact ⟨x, hx, hl⟩
      · split
        · refine ih _ (holdsRec_each (fun x => { x with mirrored := false }) (fun _ h => h) _ _ ?_)
          rw [← carryUnit_append (r :: rest)] at hx
          rcases List.mem_append.1 hx with hx | hx
          · exact .inr ⟨x, hx, hl⟩
          · exact .inl ⟨x, hx, hl⟩
        · exact ⟨x, he ▸ hx, hl⟩

theorem holdsRec_of_log {s t : State} {kind state q n : Nat} {arg : Bytes} (h : t.ldg.log = s.ldg.log)
    (k : holdsRec s kind state q n arg) : holdsRec t kind state q n arg := by
  unfold holdsRec
  rw [h]
  exact k

theorem checkLow_log (s : State) : (checkLow s).ldg.log = s.ldg.log := by
  unfold checkLow
  split
  · split
    · rfl
    · have h := fun t : State => log_onlyEvents (raise0_events 0x0A03 1 (freeWords s) t)
      exact h _
  · rfl

/-- The record that `append` appends is in the log, and so is every live record that was there. -/
theorem holdsRec_append {kind state q n : Nat} {arg : Bytes} (k2 s2 q2 n2 : Nat) (arg2 : Bytes) (dead : Bool) (s : State)
    (h : holdsRec s kind state q n arg ∨
      (k2 = kind ∧ s2 = state ∧ q2 = q ∧ n2 = n ∧ arg2 = arg ∧ dead = false)) :
    holdsRec (append k2 s2 q2 n2 arg2 dead s) kind state q n arg := by
  have h1 : holdsRec (appendRec { kind := k2, state := s2, queue := q2, lsn := 0, seq := n2, arg := arg2, dead } s)
      kind state q n arg := holdsRec_appendRec _ _ h
  unfold append
  dsimp only
  generalize appendRec { kind := k2, state := s2, queue := q2, lsn := 0, seq := n2, arg := arg2, dead } s = t at h1
  refine holdsRec_of_log (checkLow_log _) (holdsRec_reclaim _ _ ?_)
  split
  · exact holdsRec_of_log rfl h1
  · exact h1

/-! ### Commands -/

theorem cmd?_q {s : State} {q n : Nat} {c : Cmd} (h : cmd? s q n = some c) : c.q = q ∧ c.seq = n := by
  have := List.find?_some h
  simpa using this

/-- A change of one command that keeps its name is seen by its next read. -/
theorem cmd?_onCmd {s : State} {q n : Nat} {c : Cmd} (f : Cmd → Cmd) (hf : ∀ x, (f x).q = x.q ∧ (f x).seq = x.seq)
    (h : cmd? s q n = some c) : cmd? (onCmd q n f s) q n = some (f c) := by
  unfold cmd? at *
  rw [onCmd_ldg]
  dsimp only
  unfold updWhere
  generalize s.ldg.cmds = l at h
  induction l with
  | nil => cases h
  | cons a l ih =>
    rw [List.find?_cons] at h
    rw [List.map_cons, List.find?_cons]
    cases ha : (a.q == q && a.seq == n) with
    | true =>
      rw [ha] at h
      injection h with h
      subst h
      have hb : ((f a).q == q && (f a).seq == n) = true := by rw [(hf a).1, (hf a).2]; exact ha
      simp only [ha, if_true, hb]
    | false =>
      rw [ha] at h
      simp only [ha, Bool.false_eq_true, if_false]
      exact ih h

/-- Two changes of one command are one. -/
theorem onCmd_onCmd (q n : Nat) (f g : Cmd → Cmd) (hf : ∀ x, (f x).q = x.q ∧ (f x).seq = x.seq) (s : State) :
    onCmd q n g (onCmd q n f s) = onCmd q n (fun x => g (f x)) s := by
  unfold onCmd updWhere
  dsimp only
  rw [List.map_map]
  congr 2
  refine List.map_congr_left fun x _ => ?_
  dsimp only [Function.comp]
  by_cases h : (x.q == q && x.seq == n) = true
  · have hb : ((f x).q == q && (f x).seq == n) = true := by rw [(hf x).1, (hf x).2]; exact h
    simp only [if_pos h, if_pos hb]
  · simp only [if_neg h]

/-- How `finish` ends a command that has not ended (R21, R90, R298): DETAIL is 0 with STATUS OK unless the command reports
a head or a count. -/
theorem finish_ends {s : State} {q n : Nat} {c : Cmd} (status detail : Nat) (h : cmd? s q n = some c)
    (hd : c.st ≠ .durable) (h0 : status ≠ 0 ∨ detail = 0 ∨ c.headPos.isSome = true ∨ c.count ≠ 0) :
    ends q n status detail s (finish q n status detail s) := by
  have hdet : (if status = 0 ∧ c.headPos.isNone = true ∧ c.count = 0 then 0 else min detail 255) = min detail 255 := by
    split
    · next hs =>
      rcases h0 with h | h | h | h
      · exact absurd hs.1 h
      · rw [h]; rfl
      · have := hs.2.1
        rw [Option.isNone_iff_eq_none] at this
        rw [this] at h
        cases h
      · exact absurd hs.2.2 h
    · rfl
  unfold finish ends launches
  rw [h]
  dsimp only
  rw [if_neg hd, hdet]
  refine ⟨_, ⟨?_, ?_⟩, rfl⟩
  · exact onlyJournal_trans (kill_journal _ _) (append_journal ..)
  · exact holdsRec_append _ _ _ _ _ _ _ (.inr ⟨rfl, rfl, rfl, rfl, rfl, rfl⟩)

/-- A command that has ended stays as it is. -/
theorem finish_durable {s : State} {q n : Nat} {c : Cmd} (status detail : Nat) (h : cmd? s q n = some c)
    (hd : c.st = .durable) : finish q n status detail s = s := by
  unfold finish
  rw [h]
  exact if_pos hd

theorem cmds_onlyEvents {s t : State} (h : onlyEvents s t) : t.ldg.cmds = s.ldg.cmds := by
  unfold onlyEvents at h
  rw [h]

theorem each_events {α : Type} (f : α → State → State) (h : ∀ a s, onlyEvents s (f a s)) (l : List α) (s : State) :
    onlyEvents s (each l f s) := by
  unfold each
  induction l generalizing s with
  | nil => rfl
  | cons a l ih => exact onlyEvents_trans (h a s) (ih (f a s))

/-- Freeing generations marks them freed and forms events, and does nothing else (R90). -/
theorem freeGens_events (s : State) :
    onlyEvents { s with adm.gens := s.adm.gens.map fun g => if goesFree s g then { g with freed := true } else g } (freeGens s) :=
  each_events _ (fun _ _ => raise0_events ..) _ _

/-- What `ends` says of the command itself. -/
theorem ends_cmd {s t : State} {q n status detail : Nat} {c : Cmd} (h : ends q n status detail s t)
    (hc : cmd? s q n = some c) : cmd? t q n = some (endedCmd s.time.act status detail c) := by
  obtain ⟨u, ⟨hu, _⟩, ht⟩ := h
  have hl : u.ldg.cmds = (onCmd q n (endedCmd s.time.act status detail) s).ldg.cmds := by
    unfold onlyJournal at hu
    rw [hu]
  have : t.ldg.cmds = (onCmd q n (endedCmd s.time.act status detail) s).ldg.cmds := by
    rw [ht]
    split
    · rw [cmds_onlyEvents (freeGens_events u)]
      exact hl
    · exact hl
  unfold cmd?
  rw [this]
  exact cmd?_onCmd _ (fun _ => ⟨rfl, rfl⟩) hc

/-! ### The step of a ring command -/

theorem due_spec {op q n : Nat} {s : State} {c : Cmd} (h : due op q n s = some c) :
    runs s = true ∧ cmd? s q n = some c ∧ c.st = .started ∧ c.ran = false ∧ itemOp c.item = op := by
  unfold due at h
  split at h
  · next hr =>
    cases hc : cmd? s q n with
    | none => rw [hc] at h; cases h
    | some x =>
      rw [hc] at h
      dsimp only [Option.bind] at h
      split at h
      · next hx =>
        injection h with h
        subst h
        simp only [Bool.and_eq_true, decide_eq_true_eq, Bool.not_eq_true', beq_iff_eq] at hx
        exact ⟨hr, rfl, hx.1.1, hx.1.2, hx.2⟩
      · cases h
  · cases h

/-- Using a grant reads at most its word of the mirror's grant table and moves it to the front of the 256 kept (R303). -/
theorem useGrant_frame (buf : Nat) (s : State) : useGrant buf s = { s with
    out.reads := s.out.reads ++ (if s.ldg.grantUsed.contains buf then [] else
      [{ addr := mirrorBase s + 0x91000 + 32 * buf, tdid := sh s 0x68, len := 32, cls := 1 }])
    ldg.grantUsed := (buf :: s.ldg.grantUsed.erase buf).take 256 } := by
  unfold useGrant readCtl
  dsimp only
  split <;> simp

/-- A ready command runs its own effect once. -/
theorem runCmd_ready {op q n : Nat} {own : Cmd → State → List (Nat × Bool)} {c : Cmd} {s : State}
    (f : Cmd → State → State) (h : ready op q n own c s) : runCmd op q n own f s = f c (onCmd q n ranCmd s) := by
  unfold runCmd
  rw [h.1]
  dsimp only
  have := h.2
  unfold ranCmd at *
  rw [this]

/-- A command whose body is refused ends MALFORMED at the lowest offending offset (R12, R397). -/
theorem runCmd_malformed {op q n : Nat} {own : Cmd → State → List (Nat × Bool)} {c : Cmd} {s : State} {off : Nat}
    (f : Cmd → State → State) (h : due op q n s = some c) (hb : bodyBad c.item (own c (onCmd q n ranCmd s)) = some off) :
    runCmd op q n own f s = malformed q n off (onCmd q n ranCmd s) := by
  unfold runCmd
  rw [h]
  dsimp only
  unfold ranCmd at *
  rw [hb]

/-- A command that is not due is left alone (DESIGN CHOICE, log entry 2). -/
theorem runCmd_idle {op q n : Nat} (own : Cmd → State → List (Nat × Bool)) (f : Cmd → State → State) {s : State}
    (h : due op q n s = none) : runCmd op q n own f s = s := by
  unfold runCmd
  rw [h]

end Sys2Proof.Machine
end

