-- ==== Sys2Proof/Certificates/Slice0/Obligations.lean ====
section
/-! DEFINITION. The statements for the provers, each a proposition over every state and operand that its hypotheses
allow. -/

open Sys2Proof Sys2Proof.Machine

/-! ### The step and the control part of the state -/

/-- A step takes the command at the front of the queue and runs it with the queue's rest. -/
def Obligations.StepRunsFront : Prop :=
  ∀ (c : Instr) (rest : List Instr) (s : State), s.pending = c :: rest → step s = exec c { s with pending := rest }

/-- With no command waiting, a step is one AON cycle of 20 CORE cycles: the counts advance, the read budget refills by 20
times RATE up to DEPTH × 4,096 (R147), what was driven has been taken, and every arbiter has a grant opportunity; in reset
and in OFF nothing is granted or sent. An arbiter grants the lowest class with a waiting request that is within its reserve
of the window, else the lowest waiting class, so that a class that waits throughout a window of 64 grants gets its reserve
(R16); a fabric read of a class 3 to 5 waits for its tokens, and draws them (R18, R147). That a cycle comes with an idle
step is the model's choice: log entries 1 and 128. -/
def Obligations.IdleStep : Prop :=
  (∀ s : State, s.pending = [] → up s = false → step s = .next { s with
    time.aon := (s.time.aon + 1) % 2 ^ 64
    time.core := (s.time.core + 20) % 2 ^ 64
    time.act := s.time.act + (if s.pwr.state = 0 ∧ halted s = false then 1 else 0)
    str.tokens := min (4096 * (sh s 0x404 / 2 ^ 16 % 2 ^ 12)) (s.str.tokens + 20 * (sh s 0x404 % 2 ^ 12))
    asy.verdicts := []
    out := { s.out with msix := [], pulls := [], rels := [], relAll := [], vld := [], reads := [], line := [] } }) ∧
  (∀ s : State, s.pending = [] → up s = true → ∃ t, step s = .next t ∧
    t.time = { s.time with
      aon := (s.time.aon + 1) % 2 ^ 64
      core := (s.time.core + 20) % 2 ^ 64
      act := s.time.act + (if s.pwr.state = 0 ∧ halted s = false then 1 else 0) } ∧
    t.str = { s.str with tokens := t.str.tokens } ∧
    t.str.tokens ≤ min (4096 * (sh s 0x404 / 2 ^ 16 % 2 ^ 12)) (s.str.tokens + 20 * (sh s 0x404 % 2 ^ 12)) ∧
    t.asy = { s.asy with verdicts := [] } ∧ t.regs.shadow = s.regs.shadow ∧
    (t.pins = s.pins ∧ t.ldg = s.ldg ∧ t.adm = s.adm ∧ t.cap = s.cap ∧ t.pun = s.pun ∧ t.pwr = s.pwr ∧ t.pending = []) ∧
    (t.out.pulls = [] ∧ t.out.rels = [] ∧ t.out.relAll = [] ∧ t.out.vld = [] ∧ t.out.reads = [] ∧
      t.out.pushes = s.out.pushes)) ∧
  (∀ (s : State) (r : HbReq), s.pending = [] → up s = true → s.flt.merge = [] → s.out.hb = [r] → r.granted = false →
    r.chan < 4 → r.cls < 6 → (∀ q start part, r.kind ≠ .slots q start part) →
    ∃ t, step s = .next t ∧ t.out.hb = [{ r with granted := true }]) ∧
  (∀ (s : State) (r : FabReq), s.pending = [] → up s = true → s.flt.merge = [] → s.out.fab = [r] → r.granted = false →
    r.port < 16 → r.cls < 6 → isInjected r = false → 512 < r.len →
    ∃ t, step s = .next t ∧ t.out.fab = [{ r with granted := decide (tokensOf r ≤ refill s 20) }] ∧
      t.str.tokens = refill s 20 - (if tokensOf r ≤ refill s 20 then tokensOf r else 0)) ∧
  (∀ (a : Arb) (waiting : List Nat) (c : Nat), a.choose waiting = some c →
    c ∈ waiting ∧ ∀ d ∈ waiting, d < c → reserves.getD d 0 ≤ a.used.getD d 0) ∧
  (∀ (a : Arb) (waiting : List Nat) (c : Nat), a.choose waiting = some c → reserves.getD c 0 ≤ a.used.getD c 0 →
    ∀ d ∈ waiting, d < 6 → reserves.getD d 0 ≤ a.used.getD d 0 ∧ c ≤ d) ∧
  (∀ (ws : List (List Nat)) (c : Nat), ws.length = 64 → c < 6 → (∀ w ∈ ws, c ∈ w) →
    reserves.getD c 0 ≤ (grantsOf {} ws).count c)

/-- The block right after reset: the control part is legal, and registers read as their tables give them (R199, R270, R316,
R322, R364, R367 to R372). -/
def Obligations.ResetState : Prop :=
  (ctl State.reset).ok ∧
    (∀ p ∈ ([(0x00, 0x01025A1A), (0x20, 0), (0x24, 0), (0x30, 0), (0x40, 0), (0x44, 0), (0x48, 0), (0x4C, 0), (0x50, 0),
        (0x60, 0), (0x64, 0), (0x68, 0), (0x88, 0), (0x100, 0), (0x120, 0), (0x13C, 0), (0x140, 0), (0x15C, 0),
        (0x400, 0x2008), (0x404, 0x4003E8), (0x408, 0), (0x40C, 1), (0x410, 0), (0x414, 0), (0x500, 0x400040),
        (0x504, 0), (0x508, 0), (0x510, 1), (0x600, 0xFFFFFFFF), (0x610, 0), (0x700, 0x28), (0x704, 0), (0x800, 0),
        (0xA00, 0), (0xA04, 0), (0xA08, 0), (0xA10, 0), (0xA14, 0), (0xA18, 0)] : List (Nat × Nat)),
      readReg State.reset p.1 = some p.2) ∧
    (State.reset.pending = [] ∧ State.reset.ldg.log = [] ∧ State.reset.ring.queues = [] ∧ State.reset.cap.epochs = [])

/-- Every step keeps the control part legal: the values of shadowed registers have their reserved bits zero, the castle is
never open and pending at once nor holds staged values when it is neither, RESULT is one of four, and the modes of power,
reset and debug port are the ones the manual names (R13, R353, R356, R367, R372, R373, R381). -/
def Obligations.ControlInvariant : Prop :=
  ∀ s t : State, (ctl s).ok → step s = .next t → (ctl t).ok

/-- No command touches the commands that wait behind it, and every command answers a next state. -/
def Obligations.QueueIsInputOnly : Prop :=
  ∀ (i : Instr) (s : State), ∃ t, exec i s = .next t ∧ t.pending = s.pending

/-! ### Shadowed registers and the castle (R367, R372 to R378) -/

/-- R367: a read of a shadowed register returns the applied value; with no transaction open a write has no effect but
MISUSE; a write of a read-only register is ignored; reserved bits are dropped on the way in and read as zero. -/
def Obligations.ShadowedRegisterRule : Prop :=
  (∀ (s : State) (off : Nat), isShadowed off = true →
    readReg s off = some (((Tab.get? s.regs.shadow.applied off).map (·.toNat)).getD (shReset off))) ∧
  (∀ (s : State) (off : Nat) (val : W32), up s = true → isShadowed off = true → s.regs.shadow.castle.isOpen = false →
    exec (.shadowedRegisterWrite off val) s = .next { s with regs.shadow.castle.misuse := true }) ∧
  (∀ (s : State) (off : Nat) (val : W32), up s = true → isShadowed off = true → s.regs.shadow.castle.isOpen = true →
    exec (.shadowedRegisterWrite off val) s = .next { s with
      regs.shadow.staged := Tab.put s.regs.shadow.staged off (val &&& BitVec.ofNat 32 (shMask off)) }) ∧
  (∀ (s : State) (off : Nat) (val : W32), off ∉ [0x20, 0x610, 0xA00, 0xA04, 0x84] →
    exec (.registerWrite off val) s = .next s) ∧
  (∀ (s : State) (off v : Nat), s.regs.shadow.ok → isShadowed off = true → readReg s off = some v →
    v &&& shMask off = v)

/-- CASTLE_BEGIN and CASTLE_ROLLBACK in and out of their states, and CASTLE_COMMIT of a configuration that passes or fails
validation or outside its state (R372 to R374). -/
def Obligations.CastleCommands : Prop :=
  (∀ s : State, up s = true → s.regs.shadow.castle.isOpen = false → s.regs.shadow.castle.pend = false →
    exec .castleBegin s = .next { s with
      regs.shadow.castle := { s.regs.shadow.castle with isOpen := true, result := 0, reason := 0, reg := 0 }
      regs.shadow.staged := [] }) ∧
  (∀ s : State, up s = true → (s.regs.shadow.castle.isOpen = true ∨ s.regs.shadow.castle.pend = true) →
    exec .castleBegin s = .next { s with regs.shadow.castle.misuse := true }) ∧
  (∀ s : State, up s = true → s.regs.shadow.castle.isOpen = true →
    refusal? { s with regs.shadow.castle := { s.regs.shadow.castle with isOpen := false, pend := true } } = none →
    exec .castleCommit s = .next { s with
      regs.shadow.castle := { s.regs.shadow.castle with isOpen := false, pend := true } }) ∧
  (∀ (s : State) (r : Nat × Nat), up s = true → s.regs.shadow.castle.isOpen = true → s.adm.stagedPatch = none →
    refusal? { s with regs.shadow.castle := { s.regs.shadow.castle with isOpen := false, pend := true } } = some r →
    exec .castleCommit s = .next { s with
      regs.shadow.castle := { s.regs.shadow.castle with isOpen := false, pend := false, result := 2, reason := r.1, reg := r.2 }
      regs.shadow.staged := [] }) ∧
  (∀ s : State, up s = true → s.regs.shadow.castle.isOpen = false →
    exec .castleCommit s = .next { s with regs.shadow.castle.misuse := true }) ∧
  (∀ s : State, up s = true → (s.regs.shadow.castle.isOpen = true ∨ s.regs.shadow.castle.pend = true) →
    s.adm.stagedPatch = none → s.regs.enableWait = none →
    exec .castleRollback s = .next { s with
      regs.shadow.castle := { s.regs.shadow.castle with isOpen := false, pend := false, result := 3 }
      regs.shadow.staged := [] }) ∧
  (∀ s : State, up s = true → s.regs.shadow.castle.isOpen = false → s.regs.shadow.castle.pend = false →
    s.regs.enableWait = none →
    exec .castleRollback s = .next { s with regs.shadow.castle.misuse := true })

/-- The apply of a pending commit at a safe point: every staged register, and no other, takes its staged value in one step;
SC_CASTLE_GEN counts it, RESULT is 1 (R376, R378). The mirror registers wait while RING_READY has been 1. A pending commit
without a safe point stays pending (R376). -/
def Obligations.CastleApply : Prop :=
  (∀ s : State, runs s = true → s.pwr.state = 0 → s.regs.shadow.castle.pend = true → safePoint s = true →
    refusal? s = none → s.regs.enableWait = none →
    ∃ t, exec .castleApply s = .next t ∧
      t.regs.shadow.castle = { s.regs.shadow.castle with pend := false, result := 1, gen := s.regs.shadow.castle.gen + 1 } ∧
      t.regs.shadow.staged = [] ∧
      (∀ off, (isMirror off && s.regs.qctl.sawReady) = false → Tab.get? t.regs.shadow.applied off =
        ((s.regs.shadow.staged.reverse.find? (·.1 == off)).map (·.2)).or (Tab.get? s.regs.shadow.applied off)) ∧
      (∀ off, (isMirror off && s.regs.qctl.sawReady) = true →
        Tab.get? t.regs.shadow.applied off = Tab.get? s.regs.shadow.applied off) ∧
      (t.pending = s.pending ∧ t.str.ctxs = s.str.ctxs ∧ t.ring.queues = s.ring.queues ∧ t.cap.epochs = s.cap.epochs)) ∧
  (∀ s : State, runs s = true → s.regs.shadow.castle.pend = true → safePoint s = false → exec .castleApply s = .next s)

/-! ### Immediate registers -/

/-- R199: a write of SC_CRC_VAL replaces the running value and the three input registers fold 1, 2 and 4 bytes into it,
lowest-addressed first; the read returns it. Nothing else changes. Each clear register clears its counters when bit 0 is
written 1, and a write of 0 there changes nothing (R83, R173, R235, R270, R323). SC_FLIP_CTL takes CHECK, MACRO and ARM, and
a reserved MACRO leaves ARM clear (R322); SC_LAST_GASP.VALID is cleared by writing 1 while HOLD and LSN stay (R316); a read
of SC_AON_TIME_LO latches the upper word (R369); the other writable registers take their bits and nothing else changes
(R213, R322, R364, R372). MIRROR_RETRY starts every failed mirror write and grant-table write anew, and no other request
(R305): of the mirror, a compaction's image among them; in FAULT_HOLD, or with bit 0 clear, it changes nothing (R315). -/
def Obligations.ImmediateRegisters : Prop :=
  (∀ (s : State) (v : W32), up s = true →
    exec (.crcValWrite v) s = .next { s with regs.crcRun := v } ∧
    exec (.crcIn8 v) s = .next { s with regs.crcRun := crcFold s.regs.crcRun (toLE 1 v.toNat) } ∧
    exec (.crcIn16 v) s = .next { s with regs.crcRun := crcFold s.regs.crcRun (toLE 2 v.toNat) } ∧
    exec (.crcIn32 v) s = .next { s with regs.crcRun := crcFold s.regs.crcRun (toLE 4 v.toNat) } ∧
    readReg s 0x600 = some s.regs.crcRun.toNat) ∧
  (∀ (s : State) (v : W32), up s = true →
    exec (.xfCntClr v) s =
      .next (if v.getLsbD 0 then { s with regs.xfSat := 0, regs.xfRail := 0 } else s) ∧
    exec (.assayClr v) s =
      .next (if v.getLsbD 0 then { s with asy.counts := [0, 0, 0, 0, 0, 0, 0, 0, 0, 0] } else s) ∧
    exec (.spillClr v) s =
      .next (if v.getLsbD 0 then { s with spl.uncorr := 0, spl.replays := 0, spl.fenceDrops := 0, spl.refused := 0 } else s) ∧
    exec (.eccClr v) s =
      .next (if v.getLsbD 0 then { s with regs.eccCe := 0, regs.eccUe := 0, regs.eccLast := 0 } else s) ∧
    exec (.bufClr v) s =
      .next (if v.getLsbD 0 then { s with regs.bufNotHeld := 0, regs.bufForeign := 0 } else s)) ∧
  (∀ (s : State) (v : W32), up s = true →
    exec (.flipArm v) s = .next { s with regs.flip := { s.regs.flip with
      check := BitVec.ofNat 8 v.toNat, store := v.toNat / 2 ^ 8 % 2 ^ 5
      arm := v.getLsbD 16 && decide (v.toNat / 2 ^ 8 % 2 ^ 5 ≤ 13) } } ∧
    exec (.lastGaspClear v) s =
      .next (if v.getLsbD 5 then { s with regs.gasp := { s.regs.gasp with cause := 0, valid := false } } else s) ∧
    exec .aonTimeLoRead s = .next { s with regs.aonHi := BitVec.ofNat 32 (s.time.aon / 2 ^ 32) } ∧
    exec (.registerWrite 0x20 v) s =
      .next { s with regs.shadow.castle.misuse := s.regs.shadow.castle.misuse && !v.getLsbD 6 } ∧
    exec (.registerWrite 0x610 v) s = .next { s with regs.keySel := v.toNat % 2 ^ 9 } ∧
    exec (.registerWrite 0xA00 v) s = .next { s with regs.flip.lo := v } ∧
    exec (.registerWrite 0xA04 v) s = .next { s with regs.flip.hi := v } ∧
    exec (.registerWrite 0x84 v) s = .next { s with
      regs.clk.fabLost := s.regs.clk.fabLost && !v.getLsbD 16
      regs.clk.hostifLost := s.regs.clk.hostifLost && !v.getLsbD 17
      regs.clk.tapLost := s.regs.clk.tapLost && !v.getLsbD 18
      regs.clk.hvLost := s.regs.clk.hvLost && !v.getLsbD 19
      regs.clk.fabSlip := s.regs.clk.fabSlip && !v.getLsbD 20
      regs.clk.rootLost := s.regs.clk.rootLost && !v.getLsbD 21 }) ∧
  (∀ (s : State) (v : W32), up s = true →
    ((v.getLsbD 0 = false ∨ s.regs.gasp.hold = true) → exec (.mirrorRetry v) s = .next s) ∧
    (v.getLsbD 0 = true → s.regs.gasp.hold = false → ∃ t, exec (.mirrorRetry v) s = .next t ∧
      t = { s with out.hb := t.out.hb } ∧ t.out.hb.length = s.out.hb.length ∧
      ∀ n : Nat, t.out.hb[n]? = s.out.hb[n]?.map fun (r : HbReq) =>
        match r.kind with
        | .mirror _ _ _ _ => { r with tries := if 4 ≤ r.tries then 0 else r.tries }
        | .grant _ _ => { r with tries := if 4 ≤ r.tries then 0 else r.tries }
        | .image .. => { r with tries := if 4 ≤ r.tries then 0 else r.tries }
        | _ => r))

/-- RING_ENABLE with sound descriptors and a mirror header that is all zero or valid: queue 0 and the event ring come into
service, RING_READY reads 1 and RESET_CAUSE is the first event held (R37, R304, R365, R370). With an unsound descriptor of
queue 0, RING_ERR names the field and the rings stay out of service. A read that failed is reported as 0xFF. The descriptors
are read at the table's base and at its offset 0x40000, the mirror at its own base (R33, R304). The order of the checks is
the model's choice: log entry 85. -/
def Obligations.RingEnable : Prop :=
  (∀ (d de m : Bytes) (s : State), up s = true → s.regs.qctl.ready = false → s.regs.gasp.hold = false →
    s.regs.shadow.castle.pend = false → descBad (slice d 0 64) true = none → evDescBad (slice de 0 64) = none →
    headerKind m ≤ 1 →
    ∃ t, exec (.ringEnable (some d) (some de) (some m)) s = .next t ∧
      (readReg t 0x4C = some (3 + 8 * b2n s.regs.qctl.flush) ∧ (queue? t 0).map (·.desc) = some (slice d 0 64) ∧
        t.ring.ev.desc = slice de 0 64 ∧ t.ring.ev.written = 0 ∧ t.ring.ev.head = 0) ∧
      t.out.reads = s.out.reads ++ [⟨sh s 0x60 + 2 ^ 32 * sh s 0x64, sh s 0x68, 4198400, 1⟩,
        ⟨sh s 0x40 + 2 ^ 32 * sh s 0x44 + 0x40000, sh s 0x48, 64, 1⟩, ⟨sh s 0x40 + 2 ^ 32 * sh s 0x44, sh s 0x48, 64, 1⟩] ∧
      t.ring.ev.held = ⟨0x0B03, 0, 0xFFFF, s.time.aon, 0, s.ldg.resetCause + 16 * b2n s.pins.rstOff⟩ :: s.ring.ev.held ∧
      (ctl t = ctl s ∧ t.str = s.str ∧ t.spl = s.spl ∧ t.asy = s.asy)) ∧
  (∀ (d : Bytes) (o : Nat) (de m : HostRead) (s : State), up s = true → s.regs.qctl.ready = false →
    s.regs.gasp.hold = false → s.regs.shadow.castle.pend = false → descBad (slice d 0 64) true = some o →
    exec (.ringEnable (some d) de m) s = .next { enableReads s with
      regs.qctl := { s.regs.qctl with enable := false, err := true, errSrc := 0, errOff := o } }) ∧
  (∀ (de m : HostRead) (s : State), up s = true → s.regs.qctl.ready = false → s.regs.gasp.hold = false →
    s.regs.shadow.castle.pend = false →
    exec (.ringEnable none de m) s = .next { enableReads s with
      regs.qctl := { s.regs.qctl with enable := false, err := true, errSrc := 0, errOff := 0xFF } }) ∧
  (∀ (d de m : HostRead) (s : State), s.regs.qctl.ready = true → exec (.ringEnable d de m) s = .next s)

/-! ### Doorbells (R44, R45, R62, R308) -/

/-- R45: a doorbell whose position meets the condition of its kind takes effect; any other, and one to a queue that is not
in service, is ignored, counted and reported. A queue being flushed keeps its SQ tail doorbells for later (R62); the first
CQ head doorbell after a reset is judged as R308 says. Reads of the doorbell window return zero (R44). -/
def Obligations.DoorbellRule : Prop :=
  (∀ (q : Nat) (v : W32) (x : Queue) (p : Nat) (s : State), up s = true → inService? s q = some x → x.flushBy = none →
    (q ≠ 0 ∨ s.pwr.state = 0) → dbPos v (sqSize x.desc) = some p →
    dist (sqSize x.desc) x.head x.tail ≤ dist (sqSize x.desc) x.head p → dist (sqSize x.desc) x.head p ≤ sqSize x.desc →
    exec (.sqTailDoorbell q v) s = .next (onQ q (fun y => { y with
      tail := p, waitFrom := if y.acc = y.tail then s.time.act else y.waitFrom }) s)) ∧
  (∀ (v : W32) (x : Queue) (p : Nat) (s : State), up s = true → inService? s 0 = some x → x.flushBy = none →
    s.pwr.state ≠ 0 → dbPos v (sqSize x.desc) = some p →
    dist (sqSize x.desc) x.head x.tail ≤ dist (sqSize x.desc) x.head p → dist (sqSize x.desc) x.head p ≤ sqSize x.desc →
    exec (.sqTailDoorbell 0 v) s = .next { onQ 0 (fun y => { y with
      tail := p, waitFrom := if y.acc = y.tail then s.time.act else y.waitFrom }) s with
        pwr.awake := true
        regs.clk.rootLock := true }) ∧
  (∀ (q : Nat) (v : W32) (x : Queue) (p : Nat) (s : State), up s = true → inService? s q = some x → x.flushBy = none →
    dbPos v (sqSize x.desc) = some p →
    (dist (sqSize x.desc) x.head p < dist (sqSize x.desc) x.head x.tail ∨ sqSize x.desc < dist (sqSize x.desc) x.head p) →
    exec (.sqTailDoorbell q v) s = .next (raise 0x0103 1 q 0 v.toNat
      { s with ring.dbRange := Tab.put s.ring.dbRange (2 * q) (Tab.getD s.ring.dbRange (2 * q) 0 + 1) })) ∧
  (∀ (q : Nat) (v : W32) (x : Queue) (s : State), up s = true → inService? s q = some x → x.flushBy.isSome = true →
    exec (.sqTailDoorbell q v) s = .next (onQ q (fun y => { y with held := y.held ++ [v] }) s)) ∧
  (∀ (q : Nat) (v : W32) (s : State), up s = true → inService? s q = none →
    exec (.sqTailDoorbell q v) s = .next (raise 0x0103 1 q 0 (v.toNat + 2 ^ 34)
      { s with ring.dbRange := Tab.put s.ring.dbRange (2 * q) (Tab.getD s.ring.dbRange (2 * q) 0 + 1) }) ∧
    exec (.cqHeadDoorbell q v) s = .next (raise 0x0103 1 q 0 (v.toNat + 2 ^ 32 + 2 ^ 34)
      { s with ring.dbRange := Tab.put s.ring.dbRange (2 * q + 1) (Tab.getD s.ring.dbRange (2 * q + 1) 0 + 1) })) ∧
  (∀ (q : Nat) (v : W32) (x : Queue) (p : Nat) (s : State), up s = true → inService? s q = some x → x.fresh = false →
    dbPos v (cqSize x.desc) = some p → dist (cqSize x.desc) x.cqHead p ≤ dist (cqSize x.desc) x.cqHead x.cqDone →
    exec (.cqHeadDoorbell q v) s = .next (onQ q (fun y => { y with cqHead := p, fresh := false }) s)) ∧
  (∀ (q : Nat) (v : W32) (x : Queue) (p : Nat) (s : State), up s = true → inService? s q = some x → x.fresh = true →
    dbPos v (cqSize x.desc) = some p → dist (cqSize x.desc) p x.cqDone < cqSize x.desc →
    exec (.cqHeadDoorbell q v) s = .next (onQ q (fun y => { y with cqHead := p, fresh := false }) s)) ∧
  (∀ (q : Nat) (v : W32) (x : Queue) (p : Nat) (s : State), up s = true → inService? s q = some x → x.fresh = false →
    dbPos v (cqSize x.desc) = some p → dist (cqSize x.desc) x.cqHead x.cqDone < dist (cqSize x.desc) x.cqHead p →
    exec (.cqHeadDoorbell q v) s = .next (raise 0x0103 1 q 0 (v.toNat + 2 ^ 32)
      { s with ring.dbRange := Tab.put s.ring.dbRange (2 * q + 1) (Tab.getD s.ring.dbRange (2 * q + 1) 0 + 1) })) ∧
  (∀ (q : Nat) (v : W32) (x : Queue) (p : Nat) (s : State), up s = true → inService? s q = some x → x.fresh = true →
    dbPos v (cqSize x.desc) = some p → cqSize x.desc ≤ dist (cqSize x.desc) p x.cqDone →
    exec (.cqHeadDoorbell q v) s = .next (raise 0x0103 1 q 0 (v.toNat + 2 ^ 32)
      { s with ring.dbRange := Tab.put s.ring.dbRange (2 * q + 1) (Tab.getD s.ring.dbRange (2 * q + 1) 0 + 1) })) ∧
  (∀ (v : W32) (s : State), up s = true → s.regs.qctl.ready = false →
    exec (.eventHeadDoorbell v) s = .next (raise 0x0103 1 0xFFFF 0 (v.toNat + 2 * 2 ^ 32 + 2 ^ 34)
      { s with ring.dbRange := Tab.put s.ring.dbRange 8192 (Tab.getD s.ring.dbRange 8192 0 + 1) })) ∧
  (∀ (v : W32) (p : Nat) (s : State), up s = true → s.regs.qctl.ready = true → dbPos v (evSize s) = some p →
    dist (evSize s) (s.ring.ev.head % (2 * evSize s)) p ≤ s.ring.ev.written - s.ring.ev.head →
    exec (.eventHeadDoorbell v) s = .next (catchUp { s with
      ring.ev.head := s.ring.ev.head + dist (evSize s) (s.ring.ev.head % (2 * evSize s)) p }) ∧
    (s.ring.ev.dropped = 0 → s.ring.ev.held = [] → exec (.eventHeadDoorbell v) s = .next { s with
      ring.ev.head := s.ring.ev.head + dist (evSize s) (s.ring.ev.head % (2 * evSize s)) p })) ∧
  (∀ (v : W32) (p : Nat) (s : State), up s = true → s.regs.qctl.ready = true → dbPos v (evSize s) = some p →
    s.ring.ev.written - s.ring.ev.head < dist (evSize s) (s.ring.ev.head % (2 * evSize s)) p →
    exec (.eventHeadDoorbell v) s = .next (raise 0x0103 1 0xFFFF 0 (v.toNat + 2 * 2 ^ 32)
      { s with ring.dbRange := Tab.put s.ring.dbRange 8192 (Tab.getD s.ring.dbRange 8192 0 + 1) })) ∧
  (∀ (s : State) (off : Nat), off % 4 = 0 → 0x10000 ≤ off → off ≤ 0x18000 → readReg s off = some 0)

/-! ### Dispatch, acceptance and start (R43, R49 to R56, R73, R298, R299) -/

/-- A dispatch opportunity goes to the first eligible class 0 queue after the last one served, else to the first non- urgent
one after the last one served that has credit; when none has, the eligible ones get theirs anew (R51). Its take asks for
whole items, up to BURST and up to the credit, in at most four reads of at most 64 slots, none across the end of the ring,
and the credit falls by the items taken (R50 to R52). Without an eligible queue, and while a take has not issued all of its
reads, no take begins. A queue whose next item is not published waits for that slot, which is read again, one slot at its
place in the ring (R43, R52). What the ring unit sees of unread slots is an operand: log entry 61. -/
def Obligations.Dispatch : Prop :=
  (∀ (s : State) (seen : Tab Bytes) (q : Nat) (x : Queue) (items : List Nat), runs s = true → ringBusy s = false →
    queue? (seeWaits seen s) q = some x →
    firstAfter s.ring.lastU (((seeWaits seen s).ring.queues.filter fun e =>
      eligible (seeWaits seen s) seen e.1 e.2 && qClass e.2.desc == 0).map (·.1)) = some q →
    (∀ i, (lookAt seen q x).2.1 ≠ .unframed i) →
    items = fitItems (sqSize x.desc) (fetchPos x) ((lookAt seen q x).1.take (fld x.desc 36 1)) →
    exec (.dispatchOpportunity seen) s = .next (issueTake q (fetchPos x) items.length (items.foldl (· + ·) 0)
      (onQ q (fun y => { y with credit := y.credit - items.length }) { seeWaits seen s with ring.lastU := q }))) ∧
  (∀ (s : State) (seen : Tab Bytes) (q : Nat) (x : Queue) (items : List Nat), runs s = true → ringBusy s = false →
    queue? (seeWaits seen s) q = some x →
    (∀ e ∈ (seeWaits seen s).ring.queues, eligible (seeWaits seen s) seen e.1 e.2 = true → qClass e.2.desc ≠ 0) →
    firstAfter s.ring.lastW (((seeWaits seen s).ring.queues.filter fun e =>
      eligible (seeWaits seen s) seen e.1 e.2 && decide (0 < e.2.credit)).map (·.1)) = some q →
    (∀ i, (lookAt seen q x).2.1 ≠ .unframed i) →
    items = fitItems (sqSize x.desc) (fetchPos x) ((lookAt seen q x).1.take (min (fld x.desc 36 1) x.credit)) →
    exec (.dispatchOpportunity seen) s = .next (issueTake q (fetchPos x) items.length (items.foldl (· + ·) 0)
      (onQ q (fun y => { y with credit := y.credit - items.length }) { seeWaits seen s with ring.lastW := q }))) ∧
  (∀ (s : State) (seen : Tab Bytes) (q : Nat) (x : Queue) (items : List Nat), runs s = true → ringBusy s = false →
    queue? (seeWaits seen s) q = some x →
    (∀ e ∈ (seeWaits seen s).ring.queues, eligible (seeWaits seen s) seen e.1 e.2 = true →
      qClass e.2.desc ≠ 0 ∧ e.2.credit = 0) →
    firstAfter s.ring.lastW (((seeWaits seen s).ring.queues.filter fun e =>
      eligible (seeWaits seen s) seen e.1 e.2).map (·.1)) = some q →
    (∀ i, (lookAt seen q x).2.1 ≠ .unframed i) →
    items = fitItems (sqSize x.desc) (fetchPos x) ((lookAt seen q x).1.take (min (fld x.desc 36 1)
      (fld x.desc 35 1 * [1, 4, 2, 1].getD (qClass x.desc) 1))) →
    ∃ t, exec (.dispatchOpportunity seen) s = .next t ∧
      (queue? t q).map (fun y => (y.credit, y.takes.map fun k => (k.start, k.want, k.slots))) =
        some (fld x.desc 35 1 * [1, 4, 2, 1].getD (qClass x.desc) 1 - items.length,
          x.takes.map (fun k => (k.start, k.want, k.slots)) ++ [(fetchPos x, items.length, items.foldl (· + ·) 0)]) ∧
      t.ring.lastW = q ∧ t.ldg = s.ldg) ∧
  (∀ (s : State) (seen : Tab Bytes), runs s = true → ringBusy s = false →
    (∀ e ∈ (seeWaits seen s).ring.queues, eligible (seeWaits seen s) seen e.1 e.2 = false) →
    exec (.dispatchOpportunity seen) s = .next (seeWaits seen s)) ∧
  (∀ (s : State) (seen : Tab Bytes), (runs s = false ∨ ringBusy s = true) →
    exec (.dispatchOpportunity seen) s = .next s) ∧
  (∀ (s : State) (seen : Tab Bytes) (q p : Nat) (x : Queue), (q, x) ∈ s.ring.queues → x.state = .run → x.takes = [] →
    x.fetched = [] → x.waitPub = none → x.fresh = false → unfetched x ≠ 0 → (lookAt seen q x).1 = [] →
    (lookAt seen q x).2.1 = .wait p →
    (q, { x with waitPub := some ((lookAt seen q x).2.2, p) }) ∈ (seeWaits seen s).ring.queues) ∧
  (∀ (size start : Nat) (l : List Nat), fitItems size start l <+: l ∧
    (slotReads 8 size start ((fitItems size start l).foldl (· + ·) 0)).length ≤ 4) ∧
  (∀ (size start n : Nat), 0 < size → ∀ r ∈ slotReads 8 size start n, 0 < r.2 ∧ r.2 ≤ 64 ∧ r.1 + r.2 ≤ size) ∧
  (∀ (s : State) (q : Nat) (x : Queue) (p : Nat × Nat), runs s = true → queue? s q = some x → x.waitPub = some p →
    x.takes = [] → x.state = .run →
    exec (.slotRepoll q) s = .next
      (hbRead (.slots q p.2 0) (fld x.desc 0 8 + 64 * (p.2 % sqSize x.desc)) (qTdid x.desc) 64
        (onQ q (fun y => { y with takes := [{ start := p.2, want := 0, slots := 1, reads := 1, todo := [] }] }) s)))

/-- Acceptance: the oldest item read becomes an ACCEPTED command under the queue's next sequence number, the head passes its
slots (with one ledger macro retired, as the ACCEPTED record reaches the mirror: R4, R314), and its BODY records and their
ACCEPTED record are in the journal, while nothing else changes (R21, R49, R298, R299). An item is journalled as ⌈64n ÷ 24⌉
BODY records, numbered from 0, that hold its bytes in order (R299). -/
def Obligations.ItemAccept : Prop :=
  (∀ (s : State) (q : Nat) (x : Queue) (it : Item) (rest : List Item), runs s = true → queue? s q = some x →
    x.state = .run → x.fetched = it :: rest → roomHere s q (itemSlots it.bytes) = true → served s q = true →
    ∃ t, exec (.itemAccept q) s = .next t ∧
      onlyJournal { s with
        ring.queues := Tab.upd s.ring.queues q fun y => { y with
          fetched := rest, nextSeq := x.nextSeq + 1, waitFrom := s.time.act,
          acc := (it.pos + itemSlots it.bytes) % (2 * sqSize x.desc),
          head := if oneMacro s = true then x.head else (it.pos + itemSlots it.bytes) % (2 * sqSize x.desc) }
        ring.nextSeqOf := Tab.put s.ring.nextSeqOf q (x.nextSeq + 1)
        ldg.cmds := s.ldg.cmds ++ [{ q, seq := x.nextSeq, item := it.bytes, pos := it.pos, since := s.time.act, waitFor := olderEpoch it.bytes s }]
        pwr.delayed := if s.pwr.entering = true ∧ q ≠ 0 then s.pwr.delayed + 1 else s.pwr.delayed } t ∧
      holdsRec t 1 1 q x.nextSeq (acceptedArg x it.pos it.bytes false)) ∧
  (∀ (q seq n : Nat) (b : Bytes), b.length = 64 * n →
    (bodyRecs q seq b).length = (64 * n + 23) / 24 ∧
    ((bodyRecs q seq b).flatMap (·.arg)).take (64 * n) = b ∧
    (∀ (i : Nat) (r : Rec), (bodyRecs q seq b)[i]? = some r → r.kind = 2 ∧ r.state = i ∧ r.dead = false))

/-- COMMAND_START: a command whose turn it is enters STARTED with its epoch, generation and in-flight slot bound and
journalled (R21, R74, R89, R98, R298); a maintenance command that may not run beside the holder of the token ends MAINT_BUSY
with the holder's opcode (R102). A CANCEL fixes its targets (R156). A launch of a plan with a committed patch writes the
records into the list first and starts, with the patched generation, once they are written (R92); one whose list could not
be written ends MALFORMED with DETAIL 0xFE (R399). -/
def Obligations.CommandStart : Prop :=
  (∀ (s : State) (q seq : Nat) (c : Cmd), runs s = true → cmd? s q seq = some c → cmdBad c = none → mayStart s c = true →
    tokenHolder s c = none → pendingOf s c = none →
    ∃ t, exec (.commandStart q seq) s = .next t ∧
      onlyJournal (onCmd q seq (fun x => { x with
        st := .started, since := s.time.act, epoch := (bindEpoch s c).1, gen := bindGen s c, slot := freeInFlight s q
        badDetail := if (bindEpoch s c).2 = 0 then x.badDetail else (bindEpoch s c).2
        maint := (maintKind s c.item).isSome
        items := if itemOp c.item = 0x4A then cancelTargets s c else x.items })
        { s with ldg.highest := if itemOp c.item = 0x40 then max s.ldg.highest (bindEpoch s c).1 else s.ldg.highest }) t ∧
      holdsRec t 1 2 q seq (toLE 4 (bindEpoch s c).1 ++ toLE 4 (bindGen s c) ++ toLE 1 (freeInFlight s q))) ∧
  (∀ (s : State) (q seq : Nat) (c h : Cmd), runs s = true → cmd? s q seq = some c → cmdBad c = none →
    mayStart s c = true → tokenHolder s c = some h →
    ∃ t, exec (.commandStart q seq) s = .next t ∧
      cmd? t q seq = some { c with
        st := .durable, since := s.time.act, epoch := (bindEpoch s c).1, gen := bindGen s c, slot := freeInFlight s q
        badDetail := if (bindEpoch s c).2 = 0 then c.badDetail else (bindEpoch s c).2
        ran := true, status := 7, detail := min (itemOp h.item) 255, maint := false }) ∧
  (∀ (s : State) (q seq : Nat) (c : Cmd) (g : Gen) (r : Bytes), runs s = true → cmd? s q seq = some c → cmdBad c = none →
    mayStart s c = true → pendingOf s c = some (g, r) → listWriteOf s q seq = none →
    ∃ t, exec (.commandStart q seq) s = .next t ∧ cmd? t q seq = some c ∧
      t.adm = { s.adm with listWrites := s.adm.listWrites ++ [{ q, seq, plan := g.plan, bytes := applyRecs g.bytes r }] } ∧
      t = { s with adm := t.adm, out := { s.out with hb := t.out.hb, nextId := t.out.nextId } }) ∧
  (∀ (s : State) (q seq : Nat) (c : Cmd) (g : Gen) (r : Bytes) (w : ListWrite), runs s = true → cmd? s q seq = some c →
    cmdBad c = none → mayStart s c = true → pendingOf s c = some (g, r) → listWriteOf s q seq = some w → w.st = 1 →
    ∃ t x, exec (.commandStart q seq) s = .next t ∧ cmd? t q seq = some x ∧ x.st = .started ∧ x.gen = g.num + 1 ∧
      t.adm.gens = updWhere (fun y => y.plan == g.plan && y.num == g.num) (fun y => { y with
        num := g.num + 1, count := entryCount w.bytes, crc := crcN w.bytes, bytes := w.bytes, pending := none }) s.adm.gens) ∧
  (∀ (s : State) (q seq : Nat) (c : Cmd) (g : Gen) (r : Bytes) (w : ListWrite), runs s = true → cmd? s q seq = some c →
    cmdBad c = none → mayStart s c = true → pendingOf s c = some (g, r) → listWriteOf s q seq = some w → 2 ≤ w.st →
    ∃ t, exec (.commandStart q seq) s = .next t ∧
      (cmd? t q seq).map (fun x => (x.st, x.status, x.detail)) = some (.durable, 3, 0xFE)) ∧
  (∀ (s : State) (q seq : Nat) (c : Cmd), cmd? s q seq = some c → cmdBad c = none → mayStart s c = false →
    exec (.commandStart q seq) s = .next s)

/-- R73: a command on a queue that the Queues column does not allow completes with MALFORMED and DETAIL 1. -/
def Obligations.WrongQueueIsMalformed : Prop :=
  ∀ (s : State) (q seq : Nat) (c : Cmd) (r : Nat × Nat), runs s = true → cmd? s q seq = some c → c.admin = false →
    slotsOf (itemOp c.item) = some r → r.1 ≤ itemSlots c.item → itemSlots c.item ≤ r.2 →
    queueOk (itemOp c.item) q = false → inTurn s c = true →
    ∃ t, exec (.commandStart q seq) s = .next t ∧
      ends q seq 3 1 (onCmd q seq (fun x => { x with slot := freeInFlight s q }) s) t

/-- R12: a ring command, whichever, with a non-zero reserved byte ends MALFORMED with none of its own effect done, and the
DETAIL is at or below that byte's offset. -/
def Obligations.ReservedFieldIsMalformed : Prop :=
  ∀ (i : Instr) (op q seq : Nat) (s : State) (c : Cmd) (k : Nat), ringCommand i = some (op, q, seq) →
    due op q seq s = some c → noWait c s → k ∈ reservedBad c.item →
    ∃ t off, exec i s = .next t ∧ off ≤ k ∧ ends q seq 3 off (onCmd q seq ranCmd s) t

/-! ### Completions, head shadows, stalls, events (R47 to R49, R57 to R60, R65, R66, R300, R398) -/

/-- COMPLETION_WRITE: the commands that the next completion covers get one entry, with the last one's TAG, sequence number,
head, STATUS and DETAIL, in the next slot of the CQ, written in class 1 on channel 0 (R15, R47, R57, R58, R342). What one
completion covers (R57): consecutive commands from the oldest one, each DURABLE; a batch of more than one has STATUS OK
throughout, and only its last command carries END. -/
def Obligations.CompletionWrite : Prop :=
  (∀ (s : State) (q : Nat) (x : Queue) (cs : List Cmd) (c : Cmd), runs s = true → queue? s q = some x →
    x.state = .run → x.errDue = false → s.ldg.replayDue = 0 →
    nextCover x (cmdsFrom s q x.covered) = some cs → cs.getLast? = some c →
    ∃ t, exec (.completionWrite q) s = .next t ∧
      (queue? t q).map (·.cqDone) = some ((x.cqDone + 1) % (2 * cqSize x.desc)) ∧
      (queue? t q).map (·.covered) = some (max x.covered c.seq) ∧
      (∃ r ∈ t.out.hb, r.kind = .cq q x.cqDone ∧ r.write = true ∧ r.tdid = qTdid x.desc ∧ r.cls = 1 ∧ r.chan = 0 ∧
        r.addr = fld x.desc 8 8 + 16 * (x.cqDone % cqSize x.desc) ∧
        r.data = cqEntry x.cqDone (cqSize x.desc) (itemTag c.item) c.seq (headAfter x c) cs.length c.status c.detail) ∧
      (t.ldg.cmds = s.ldg.cmds ∧ t.adm = s.adm ∧ t.cap = s.cap ∧ t.regs = s.regs)) ∧
  (∀ (x : Queue) (l cs : List Cmd), nextCover x l = some cs →
    cs ≠ [] ∧ cs <+: l ∧ (∀ c ∈ cs, c.st = .durable) ∧ (1 < cs.length → ∀ c ∈ cs, c.status = 0) ∧
    (∀ c ∈ cs.dropLast, itemEnd c.item = false ∧ c.admin = false))

/-- HEAD_SHADOW_WRITE writes the 16 B of the head shadow when they are due and only then (R49); QUEUE_STALL reports a queue
whose slots wait for more than the interval with the cause, and begins the interval anew (R65; the cause where none of the
three applies is the model's choice: log entry 64). EVENT_FLUSH writes every held event, in order, into the next entries of
a ring that has room for them (R66, R398); TICK appends one record and keeps every live record of the journal (R300, R301).
A doorbell whose INDEX is not below its ring's size is counted and reported as out of range: the model's choice, log entry
129. -/
def Obligations.ShadowStallEventsTick : Prop :=
  (∀ (s : State) (q : Nat) (x : Queue), runs s = true → queue? s q = some x → x.shadowDue = true →
    exec (.headShadowWrite q) s = .next (hbReq (.shadow q) true (fld x.desc 24 8) (qTdid x.desc) (shadowBytes x).length
      (shadowBytes x) 1 0 none (onQ q (fun y => { y with shadowDue := false }) s))) ∧
  (∀ (s : State) (q : Nat) (x : Queue), queue? s q = some x → x.shadowDue = false →
    exec (.headShadowWrite q) s = .next s) ∧
  (∀ (s : State) (q : Nat) (x : Queue), runs s = true → s.pwr.state = 0 → queue? s q = some x →
    cmdsFrom s q x.covered = [] → x.state = .run → x.acc ≠ x.tail → fld x.desc 42 2 ≠ 0 →
    max x.waitFrom x.stallFrom + fld x.desc 42 2 * 1000 ≤ s.time.act →
    exec (.queueStall q) s = .next (raise 0x0101 1 q 0
      (2 ^ 56 * (if x.waitPub.isSome then 1 else if x.fresh || !cqRoom s q x then 2
        else if s.ldg.mirrorFault || !roomFor s 1 then 3 else 1))
      (onQ q (fun y => { y with stallFrom := s.time.act }) s))) ∧
  (∀ (s : State) (q : Nat) (x : Queue) (c : Cmd) (rest : List Cmd), runs s = true → s.pwr.state = 0 →
    queue? s q = some x → cmdsFrom s q x.covered = c :: rest → fld x.desc 42 2 ≠ 0 →
    max (max c.since x.doneAt) x.stallFrom + fld x.desc 42 2 * 1000 ≤ s.time.act →
    exec (.queueStall q) s = .next (raise 0x0101 1 q c.seq (stateNo c.st)
      (onQ q (fun y => { y with stallFrom := s.time.act }) s))) ∧
  (∀ s : State, evOpen s = true → s.ring.ev.dropped = 0 → s.ring.ev.held.length ≤ evRoom s →
    ∃ t, exec .eventFlush s = .next t ∧ onlyEvents s t ∧ t.ring.ev.held = [] ∧
      t.ring.ev.written = s.ring.ev.written + s.ring.ev.held.length ∧ t.ring.ev.head = s.ring.ev.head ∧
      ∀ (i : Nat) (e : Event), s.ring.ev.held[i]? = some e → ∃ r ∈ t.out.hb, r.kind = .event ∧
        r.addr = fld s.ring.ev.desc 0 8 + 32 * ((s.ring.ev.written + i) % evSize s) ∧
        r.data = eventBytes e (1 - (s.ring.ev.written + i) / evSize s % 2)) ∧
  (∀ s : State, up s = true → s.regs.gasp.hold = false → s.ldg.live = true →
    ∃ t, exec .tick s = .next t ∧ onlyJournal s t ∧
      (∀ kind state q seq arg, holdsRec s kind state q seq arg → holdsRec t kind state q seq arg) ∧
      (s.ldg.log = [] → t.ldg.log = [] ∧ t.ldg.lsn = (s.ldg.lsn + 1) % 2 ^ 32)) ∧
  (∀ (q : Nat) (v : W32) (x : Queue) (s : State), up s = true → inService? s q = some x →
    (x.flushBy = none → sqSize x.desc ≤ v.toNat % 2 ^ 16 → exec (.sqTailDoorbell q v) s = .next (raise 0x0103 1 q 0 v.toNat
      { s with ring.dbRange := Tab.put s.ring.dbRange (2 * q) (Tab.getD s.ring.dbRange (2 * q) 0 + 1) })) ∧
    (cqSize x.desc ≤ v.toNat % 2 ^ 16 → exec (.cqHeadDoorbell q v) s = .next (raise 0x0103 1 q 0 (v.toNat + 2 ^ 32)
      { s with ring.dbRange := Tab.put s.ring.dbRange (2 * q + 1) (Tab.getD s.ring.dbRange (2 * q + 1) 0 + 1) }))) ∧
  (∀ (v : W32) (s : State), up s = true → s.regs.qctl.ready = true → evSize s ≤ v.toNat % 2 ^ 16 →
    exec (.eventHeadDoorbell v) s = .next (raise 0x0103 1 0xFFFF 0 (v.toNat + 2 * 2 ^ 32)
      { s with ring.dbRange := Tab.put s.ring.dbRange 8192 (Tab.getD s.ring.dbRange 8192 0 + 1) }))

/-! ### Admin commands (R72, R77 to R97, R182, R205 to R210, R252 to R263, R301, R313) -/

/-- VAULT_CREATE and VAULT_DELETE of a host vault, the BUSY of a vault in use, and the request that opens or closes a peer
vault (R77 to R79, R261). BUF_GRANT records the buffer with the low 32 bits of its sequence number as generation, and
BUF_FREE takes it away; each waits for the acknowledgement of the grant-table word it writes (R81 to R83, R303). A buffer
that is not held, or that another queue owns, is reported and counted (R83). -/
def Obligations.VaultAndBufferCommands : Prop :=
  (∀ (s : State) (q seq : Nat) (c : Cmd), ready 0x01 q seq vaultCreateBad c s →
    marked s 1 (fld c.item 8 4) q seq = false → fld c.item 12 1 = 0 →
    ∃ t, exec (.vaultCreate q seq) s = .next t ∧ ends q seq 0 0 { onCmd q seq ranCmd s with
      adm.vaults := Tab.put s.adm.vaults (fld c.item 8 4) { item := c.item }
      ldg.marks := Tab.put s.ldg.marks (8 * fld c.item 8 4 + 1) (q, seq) } t) ∧
  (∀ (s : State) (q seq : Nat) (c : Cmd) (d : Nat), ready 0x01 q seq vaultCreateBad c s →
    marked s 1 (fld c.item 8 4) q seq = false → fld c.item 12 1 ≠ 0 → vPeer s { item := c.item } = some d →
    vaultBad s { item := c.item } = none →
    exec (.vaultCreate q seq) s = .next (request
      { mtype := 8, dst := d, vault := fld c.item 32 4, arg := fld c.item 24 8 }
      { tag := 0, peer := d, mtype := 8, msg := [], owner := some (q, seq) } (onCmd q seq ranCmd s))) ∧
  (∀ (s : State) (q seq : Nat) (c : Cmd) (v : Vault), ready 0x02 q seq vaultDeleteBad c s →
    vault? s (fld c.item 8 4) = some v → vaultBusy (onCmd q seq ranCmd s) (fld c.item 8 4) = false →
    fld v.item 12 1 = 0 →
    ∃ t, exec (.vaultDelete q seq) s = .next t ∧ ends q seq 0 0 { onCmd q seq ranCmd s with
      adm.vaults := Tab.del s.adm.vaults (fld c.item 8 4)
      ldg.marks := Tab.put s.ldg.marks (8 * fld c.item 8 4 + 1) (q, seq) } t) ∧
  (∀ (s : State) (q seq : Nat) (c : Cmd) (v : Vault), ready 0x02 q seq vaultDeleteBad c s →
    vault? s (fld c.item 8 4) = some v → vaultBusy (onCmd q seq ranCmd s) (fld c.item 8 4) = true →
    ∃ t, exec (.vaultDelete q seq) s = .next t ∧ ends q seq 6 0 (onCmd q seq ranCmd s) t) ∧
  (∀ (s : State) (q seq : Nat) (c : Cmd), ready 0x05 q seq bufGrantBad c s →
    marked s 5 (fld c.item 8 2) q seq = false →
    exec (.bufGrant q seq) s = .next (writeGrant (fld c.item 8 2) q seq { onCmd q seq ranCmd s with
      adm.grants := Tab.put s.adm.grants (fld c.item 8 2)
        { owner := fld c.item 10 2, tdid := fld c.item 12 2, base := fld c.item 16 8, len := fld c.item 24 8
          gen := seq % 2 ^ 32 }
      ldg.marks := Tab.put s.ldg.marks (8 * fld c.item 8 2 + 5) (q, seq) })) ∧
  (∀ (s : State) (q seq : Nat) (c : Cmd) (g : Grant), ready 0x06 q seq (fun _ _ => []) c s →
    marked s 5 (fld c.item 8 2) q seq = false → Tab.get? s.adm.grants (fld c.item 8 2) = some g →
    g.gen = fld c.item 12 4 → g.owner = q →
    exec (.bufFree q seq) s = .next (writeGrant (fld c.item 8 2) q seq { useGrant (fld c.item 8 2) (onCmd q seq ranCmd s) with
      adm.grants := Tab.del s.adm.grants (fld c.item 8 2)
      ldg.marks := Tab.put s.ldg.marks (8 * fld c.item 8 2 + 5) (q, seq) })) ∧
  (∀ (s : State) (q seq : Nat) (c : Cmd), ready 0x06 q seq (fun _ _ => []) c s →
    marked s 5 (fld c.item 8 2) q seq = false → Tab.get? s.adm.grants (fld c.item 8 2) = none →
    ∃ t, exec (.bufFree q seq) s = .next t ∧
      t.regs.bufNotHeld = min 0xFFFF (s.regs.bufNotHeld + 1) ∧ t.regs.bufForeign = s.regs.bufForeign ∧
      t.adm = s.adm ∧ (cmd? t q seq).map (fun x => (x.st, x.status, x.detail)) = some (.durable, 4, 0)) ∧
  (∀ (s : State) (q seq : Nat) (c : Cmd) (g : Grant), ready 0x06 q seq (fun _ _ => []) c s →
    marked s 5 (fld c.item 8 2) q seq = false → Tab.get? s.adm.grants (fld c.item 8 2) = some g →
    g.gen = fld c.item 12 4 → g.owner ≠ q →
    ∃ t, exec (.bufFree q seq) s = .next t ∧
      t.regs.bufForeign = min 0xFFFF (s.regs.bufForeign + 1) ∧ t.regs.bufNotHeld = s.regs.bufNotHeld ∧
      t.adm = s.adm ∧ (cmd? t q seq).map (fun x => (x.st, x.status, x.detail)) = some (.durable, 5, 0))

/-- QUEUE_CREATE reads the descriptor at the queue's place in the table and takes it into service with the numbering of the
queue ID continued, or names the offending field; a queue ID in service is MALFORMED (R33, R49, R80). QUEUE_DELETE takes its
target out of service once nothing of it is left, and holds it in FLUSHING otherwise (R80). STATE of a queue that is being
deleted is the model's choice: log entry 88. -/
def Obligations.QueueCommands : Prop :=
  (∀ (s : State) (q seq : Nat) (c : Cmd) (d : Bytes), ready 0x03 q seq queueCreateBad c s →
    queue? s (fld c.item 8 2) = none → marked s 0 (fld c.item 8 2) q seq = false → descBad (slice d 0 64) false = none →
    ∃ t, exec (.queueCreate q seq (some d)) s = .next t ∧ ends q seq 0 0
      { lanesWrite 9 (16 * fld c.item 8 2) 16 { onCmd q seq ranCmd s with
          ring.queues := Tab.put s.ring.queues (fld c.item 8 2) (newQueue s (fld c.item 8 2) (slice d 0 64))
          out.reads := s.out.reads ++ [⟨sh s 0x40 + 2 ^ 32 * sh s 0x44 + 64 * fld c.item 8 2, sh s 0x48, 64, 1⟩] } with
        ldg.marks := Tab.put s.ldg.marks (8 * fld c.item 8 2) (q, seq) } t) ∧
  (∀ (s : State) (q seq : Nat) (c : Cmd) (d : Bytes) (o : Nat), ready 0x03 q seq queueCreateBad c s →
    marked s 0 (fld c.item 8 2) q seq = false → descBad (slice d 0 64) false = some o →
    ∃ t, exec (.queueCreate q seq (some d)) s = .next t ∧ ends q seq 3 (128 + o) { onCmd q seq ranCmd s with
      out.reads := s.out.reads ++ [⟨sh s 0x40 + 2 ^ 32 * sh s 0x44 + 64 * fld c.item 8 2, sh s 0x48, 64, 1⟩] } t) ∧
  (∀ (s : State) (q seq : Nat) (c : Cmd), ready 0x03 q seq queueCreateBad c s →
    marked s 0 (fld c.item 8 2) q seq = false →
    ∃ t, exec (.queueCreate q seq none) s = .next t ∧ ends q seq 3 0xFF { onCmd q seq ranCmd s with
      out.reads := s.out.reads ++ [⟨sh s 0x40 + 2 ^ 32 * sh s 0x44 + 64 * fld c.item 8 2, sh s 0x48, 64, 1⟩] } t) ∧
  (∀ (s : State) (q seq : Nat) (c : Cmd) (d : HostRead), ready 0x03 q seq queueCreateBad c s →
    marked s 0 (fld c.item 8 2) q seq = true →
    ∃ t, exec (.queueCreate q seq d) s = .next t ∧ ends q seq 0 0 (onCmd q seq ranCmd s) t) ∧
  (∀ (s : State) (q seq : Nat) (c : Cmd) (d : HostRead) (x : Queue), due 0x03 q seq s = some c →
    queue? s (fld c.item 8 2) = some x → marked s 0 (fld c.item 8 2) q seq = false →
    ∃ t off, exec (.queueCreate q seq d) s = .next t ∧ off ≤ 8 ∧ ends q seq 3 off (onCmd q seq ranCmd s) t) ∧
  (∀ (s : State) (q seq : Nat) (c : Cmd) (x : Queue) (slots : List Bytes), ready 0x04 q seq queueDeleteBad c s →
    queue? s (fld c.item 8 2) = some x →
    exec (.queueDelete q seq slots) s = .next (settleDeletes (flushAccept (fld c.item 8 2)
      (flushBegin (fld c.item 8 2) (q, seq) slots (onCmd q seq ranCmd s))))) ∧
  (∀ (s : State) (q seq : Nat) (c : Cmd) (x : Queue) (slots : List Bytes), ready 0x04 q seq queueDeleteBad c s →
    queue? s (fld c.item 8 2) = some x → x.acc = x.tail → x.state = .run → x.cqOut = [] → x.errDue = false → x.held = [] →
    (∀ y ∈ s.ldg.cmds, y.q ≠ fld c.item 8 2 ∧ (itemOp y.item = 4 → y.q = q ∧ y.seq = seq)) →
    ∃ t, exec (.queueDelete q seq slots) s = .next t ∧ queue? t (fld c.item 8 2) = none ∧
      (∀ n, n ≠ fld c.item 8 2 → queue? t n = queue? s n) ∧
      t.adm.grants = s.adm.grants.filter (fun g => g.2.owner != fld c.item 8 2) ∧
      (cmd? t q seq).map (fun y => (y.st, y.status)) = some (.durable, 0)) ∧
  (∀ (s : State) (x : Queue) (t q seq : Nat) (slots : List Bytes), queue? s t = some x → x.acc = x.tail →
    x.state = .run → (∀ c ∈ s.ldg.cmds, c.q ≠ t) →
    flushBegin t (q, seq) slots s = onQ t (fun y => { y with
      before := .run, state := .flushing, takes := [], fetched := [], waitPub := none, shadowDue := true
      flushBy := some (q, seq), flushHead := x.acc }) { s with
        out.hb := s.out.hb.filter fun r => match r.kind with
          | .slots k _ _ => k != t
          | _ => true })

/-- PLAN_STORE of a sound list makes generation 1 of the plan, with the CRC of its bytes; a list whose first offending entry
is `ix` is refused with its field, and PLAN_REJECT names plan, entry and field (R76, R85, R87, R105). PLAN_PATCH: MODE 0
writes the new list, MODE 1 the patched entries, and when the writes are acknowledged MODE 0 makes the next generation
current and MODE 1 changes the current one in place; with the castle open MODE 1 is staged; MODE 2 reclaims the records of
freed generations (R91, R92). A list write that fails ends it MALFORMED (R399). -/
def Obligations.PlanCommands : Prop :=
  (∀ (s : State) (q seq : Nat) (c : Cmd) (l : Bytes), ready 0x07 q seq storeBad c s →
    marked s 2 (fld c.item 8 2) q seq = false → fld c.item 12 4 ≠ 0 → s.adm.gens.length < 4096 →
    listBad (onCmd q seq ranCmd s) (fld c.item 8 2) (slice l 0 (64 * fld c.item 12 4)) = none →
    ∃ t, exec (.planStore q seq (some l)) s = .next t ∧ ends q seq 0 0 { onCmd q seq ranCmd s with
      adm.gens := s.adm.gens ++ [{
        plan := fld c.item 8 2, num := 1, list := fld c.item 16 8, tdid := fld c.item 24 2, count := fld c.item 12 4
        crc := crcN (slice l 0 (64 * fld c.item 12 4)), bytes := slice l 0 (64 * fld c.item 12 4) }]
      out.reads := s.out.reads ++ [⟨fld c.item 16 8, fld c.item 24 2, 64 * fld c.item 12 4, 1⟩]
      ldg.marks := Tab.put s.ldg.marks (8 * fld c.item 8 2 + 2) (q, seq) } t) ∧
  (∀ (s : State) (q seq : Nat) (c : Cmd) (l : Bytes) (ix off : Nat), ready 0x07 q seq storeBad c s →
    marked s 2 (fld c.item 8 2) q seq = false → fld c.item 12 4 ≠ 0 → s.adm.gens.length < 4096 →
    listBad (onCmd q seq ranCmd s) (fld c.item 8 2) (slice l 0 (64 * fld c.item 12 4)) = some (ix, off) →
    ∃ t, exec (.planStore q seq (some l)) s = .next t ∧ ends q seq 3 (128 + off)
      (raise0 0x0203 1 (fld c.item 8 2 + ix % 65536 * 2 ^ 16 + off * 2 ^ 32) { onCmd q seq ranCmd s with
        out.reads := s.out.reads ++ [⟨fld c.item 16 8, fld c.item 24 2, 64 * fld c.item 12 4, 1⟩] }) t) ∧
  (∀ (s : State) (q seq : Nat) (c : Cmd) (l : HostRead), ready 0x07 q seq storeBad c s →
    marked s 2 (fld c.item 8 2) q seq = false → fld c.item 12 4 = 0 →
    (∀ g ∈ s.adm.gens, g.plan = fld c.item 8 2 → g.pending = none) →
    ∃ t, exec (.planStore q seq l) s = .next t ∧
      ends q seq 0 0 (freeGens { onCmd q seq ranCmd s with
        adm.gens := s.adm.gens.map fun g =>
          if g.plan = fld c.item 8 2 then { g with withdrawn := true, current := false } else g
        ldg.marks := Tab.put s.ldg.marks (8 * fld c.item 8 2 + 2) (q, seq) }) t) ∧
  (∀ (s : State) (q seq : Nat) (c : Cmd) (g : Gen) (r l m : Bytes), ready 0x08 q seq patchBad c s →
    marked s 2 (fld c.item 8 2) q seq = false → fld c.item 10 1 = 0 → current? s (fld c.item 8 2) = some g →
    g.pending = none → s.adm.gens.length < 4096 →
    patched (onCmd q seq ranCmd s) (fld c.item 8 2) (slice l 0 (64 * g.count)) (slice r 0 (128 * fld c.item 12 4)) = .inl m →
    exec (.planPatch q seq (some l) (some r)) s = .next (listPieces q seq (fld c.item 24 8) (fld c.item 32 2) m
      (startWrite q seq (fld c.item 8 2) m (readPatch c g (onCmd q seq ranCmd s))))) ∧
  (∀ (s : State) (q seq : Nat) (c : Cmd) (g : Gen) (r l m : Bytes), ready 0x08 q seq patchBad c s →
    marked s 2 (fld c.item 8 2) q seq = false → fld c.item 10 1 = 1 → current? s (fld c.item 8 2) = some g →
    g.pending = none → s.regs.shadow.castle.isOpen = false →
    launched (onCmd q seq ranCmd s) (fld c.item 8 2) g.num = false →
    patched (onCmd q seq ranCmd s) (fld c.item 8 2) (slice l 0 (64 * g.count)) (slice r 0 (128 * fld c.item 12 4)) = .inl m →
    exec (.planPatch q seq (some l) (some r)) s = .next (recWrites q seq g (slice r 0 (128 * fld c.item 12 4))
      (startWrite q seq (fld c.item 8 2) m (readPatch c g (onCmd q seq ranCmd s))))) ∧
  (∀ (s : State) (q seq addr tdid : Nat) (d : Bytes),
    ((listPieces q seq addr tdid d s).out.hb.drop s.out.hb.length).flatMap (·.data) = d ∧
    (∀ r ∈ (listPieces q seq addr tdid d s).out.hb.drop s.out.hb.length, r.kind = .planList q seq ∧ r.write = true ∧
      r.tdid = tdid ∧ r.cls = 1 ∧ r.data.length = r.len ∧ r.addr % 4096 + r.len ≤ 4096)) ∧
  (∀ (s : State) (q seq : Nat) (c : Cmd) (w : ListWrite), listWriteOf s q seq = some w → w.st = 0 →
    cmd? s q seq = some c → itemOp c.item = 8 → (∀ r ∈ s.out.hb, r.kind ≠ .planList q seq) →
    listWritten q seq s = patchDone c w (dropListWrite q seq s)) ∧
  (∀ (s : State) (c : Cmd) (w : ListWrite) (g : Gen), cmd? s c.q c.seq = some c → c.st ≠ .durable →
    fld c.item 10 1 = 0 → current? s w.plan = some g →
    ends c.q c.seq 0 0 (freeGens { s with
      adm.gens := (s.adm.gens.map fun x => if x.plan = w.plan then { x with current := false } else x) ++ [{
        plan := w.plan, num := g.num + 1, list := fld c.item 24 8, tdid := fld c.item 32 2
        count := entryCount w.bytes, crc := crcN w.bytes, bytes := w.bytes }]
      ldg.marks := Tab.put s.ldg.marks (8 * w.plan + 2) (c.q, c.seq) }) (patchDone c w s)) ∧
  (∀ (s : State) (c : Cmd) (w : ListWrite) (g : Gen), cmd? s c.q c.seq = some c → c.st ≠ .durable → itemOp c.item = 8 →
    fld c.item 10 1 = 1 → current? s w.plan = some g →
    (patchDone c w s).adm.gens = s.adm.gens.map (fun x => if x.plan = g.plan ∧ x.num = g.num then
      { x with num := g.num + 1, count := entryCount w.bytes, crc := crcN w.bytes, bytes := w.bytes, pending := none } else x) ∧
    (cmd? (patchDone c w s) c.q c.seq).map (fun x => (x.st, x.status)) = some (.durable, 0)) ∧
  (∀ (s : State) (q seq : Nat) (c : Cmd) (w : ListWrite), listWriteOf s q seq = some w → cmd? s q seq = some c →
    itemOp c.item = 8 → c.st ≠ .durable →
    ends q seq 3 (if fld c.item 10 1 = 0 then 24 else 0xFE) (dropListWrite q seq s) (listFailed q seq s)) ∧
  (∀ (s : State) (q seq : Nat) (c : Cmd) (g : Gen) (r l m : Bytes), ready 0x08 q seq patchBad c s →
    marked s 2 (fld c.item 8 2) q seq = false → fld c.item 10 1 = 1 → current? s (fld c.item 8 2) = some g →
    g.pending = none → s.regs.shadow.castle.isOpen = true →
    patched (onCmd q seq ranCmd s) (fld c.item 8 2) (slice l 0 (64 * g.count)) (slice r 0 (128 * fld c.item 12 4)) = .inl m →
    exec (.planPatch q seq (some l) (some r)) s = .next { readPatch c g (onCmd q seq ranCmd s) with
      adm.stagedPatch := some { q, seq, plan := fld c.item 8 2, recs := slice r 0 (128 * fld c.item 12 4) } }) ∧
  (∀ (s : State) (q seq : Nat) (c : Cmd) (l r : HostRead), ready 0x08 q seq patchBad c s →
    fld c.item 10 1 = 2 →
    ∃ t, exec (.planPatch q seq l r) s = .next t ∧
      ends q seq 0 0 { onCmd q seq ranCmd s with adm.gens := s.adm.gens.filter fun g => !g.freed } t)

/-- RECIPE_LOAD of a sound program fills its slot; KEY_LOAD unwraps a key under its wrapping slot and KEY_DERIVE derives one
from a hallmark: the slot is filled, its loads counted, its key-epoch record journalled and KEY_LOADED raised with the first
half of the KCV (R182, R207, R208, R210, R213). A recipe or a key in use is BUSY (R96, R209). -/
def Obligations.RecipeAndKeyCommands : Prop :=
  (∀ (s : State) (q seq : Nat) (c : Cmd) (b : Bytes), ready 0x09 q seq recipeLoadBad c s →
    recipeBusy (onCmd q seq ranCmd s) (fld c.item 8 1) = false → progBad (progWords (fld c.item 10 2) b) = none →
    ∃ t, exec (.recipeLoad q seq (some b)) s = .next t ∧ ends q seq 0 0
      (lanesWrite 12 (256 * fld c.item 8 1) (fld c.item 10 2) { onCmd q seq ranCmd s with
        out.reads := s.out.reads ++ [⟨fld c.item 16 8, fld c.item 12 2, 8 * fld c.item 10 2, 1⟩]
        adm.recipes := Tab.put s.adm.recipes (fld c.item 8 1) (progWords (fld c.item 10 2) b) }) t) ∧
  (∀ (s : State) (q seq : Nat) (c : Cmd) (b : HostRead), ready 0x09 q seq recipeLoadBad c s →
    recipeBusy (onCmd q seq ranCmd s) (fld c.item 8 1) = true →
    ∃ t, exec (.recipeLoad q seq b) s = .next t ∧ ends q seq 6 5 (onCmd q seq ranCmd s) t) ∧
  (∀ (s : State) (q seq : Nat) (c : Cmd) (w k : Bytes) (f : Nat × Bytes), ready 0x0A q seq keyLoadBad c s →
    storeClean 13 s → keyInUse (onCmd q seq ranCmd s) c (slotOfLoad c.item) = false →
    keyBad s (fld c.item 10 1) 1 none = none →
    keyUnwrap (keyBytes s (fld c.item 10 1)) (wrapIv (fld c.item 8 1)) (slice w 0 (fld c.item 11 1)) = some k →
    keyForm (fld c.item 8 1) (fld c.item 11 1) k = .inr f → marked s 3 (slotOfLoad c.item) q seq = false →
    ∃ t, exec (.keyLoad q seq (some w)) s = .next t ∧ ends q seq 0 0
      (raise0 0x0602 0 (slotOfLoad c.item + 2 ^ 32 * fld (kcvOf f.1 f.2) 0 4)
        { lanesWrite 13 (8 * slotOfLoad c.item) 8 { onCmd q seq ranCmd s with
            out.reads := s.out.reads ++ [⟨fld c.item 16 8, fld c.item 12 2, fld c.item 11 1, 1⟩]
            adm.keys := Tab.put s.adm.keys (slotOfLoad c.item) { form := f.1, content := f.2, kcv := kcvOf f.1 f.2 }
            adm.keyLost := s.adm.keyLost.filter fun m => m != slotOfLoad c.item
            adm.keyLoads := Tab.put s.adm.keyLoads (slotOfLoad c.item)
              ((Tab.getD s.adm.keyLoads (slotOfLoad c.item) 0 + 1) % 65536) } with
          adm.keyRec := Tab.put s.adm.keyRec (slotOfLoad c.item) (f.1, kcvOf f.1 f.2)
          ldg.marks := Tab.put s.ldg.marks (8 * slotOfLoad c.item + 3) (q, seq) }) t) ∧
  (∀ (s : State) (q seq : Nat) (c : Cmd) (w : HostRead), ready 0x0A q seq keyLoadBad c s → storeClean 13 s →
    keyInUse (onCmd q seq ranCmd s) c (slotOfLoad c.item) = true →
    ∃ t, exec (.keyLoad q seq w) s = .next t ∧ ends q seq 6 4 (onCmd q seq ranCmd s) t) ∧
  (∀ (s : State) (q seq : Nat) (c : Cmd) (sectors : Tab Bytes) (v : Vault) (h : Bytes), ready 0x0B q seq keyDeriveBad c s →
    storeClean 13 s → keyInUse (onCmd q seq ranCmd s) c (slotOfLoad c.item) = false →
    keyBad s (256 + fld c.item 10 1) 3 none = none →
    vault? s (fld c.item 12 4) = some v → vaultBad (onCmd q seq ranCmd s) v = none →
    deriveHallmark (onCmd q seq ranCmd s) sectors c.item v = .inr h →
    deriveT (keyBytes s (256 + fld c.item 10 1)) h c.item 1 ≠ deriveT (keyBytes s (256 + fld c.item 10 1)) h c.item 2 →
    let st := keyBytes s (256 + fld c.item 10 1)
    let f := if fld c.item 8 1 = 0 then (2, deriveT st h c.item 1 ++ deriveT st h c.item 2)
      else (3, hmacStates (deriveT st h c.item 1))
    ∃ t, exec (.keyDerive q seq sectors) s = .next t ∧
      Tab.get? t.adm.keys (slotOfLoad c.item) = some { form := f.1, content := f.2, kcv := kcvOf f.1 f.2 } ∧
      (∀ n, n ≠ slotOfLoad c.item → Tab.get? t.adm.keys n = Tab.get? s.adm.keys n) ∧
      (cmd? t q seq).map (fun x => (x.st, x.status)) = some (.durable, 0))

/-- POWER_SET to the state in force ends at once; to IDLE, ADJOURNED or OFF it begins an entry, which POWER_QUIESCENCE
completes (R94, R357); to ACTIVE it runs the read-verify pass, brings the links up and ends OK (R358, R361).
POWER_QUIESCENCE completes an entry when nothing but queue 0 holds work and every mirror write has ended: to IDLE the state
changes and the command ends OK, its POWER_STATE naming both states (R357, R358); OFF shows ADJOURNED until the completion
is mirrored (R362). Otherwise it waits. BRANCH_GATE gates the command branch outside ACTIVE (R359). -/
def Obligations.PowerStates : Prop :=
  (∀ (s : State) (q seq : Nat) (c : Cmd), ready 0x0C q seq powerBad c s → fld c.item 8 1 = s.pwr.state →
    ∃ t, exec (.powerSet q seq) s = .next t ∧ ends q seq 0 0 (onCmd q seq ranCmd s) t) ∧
  (∀ (s : State) (q seq : Nat) (c : Cmd), ready 0x0C q seq powerBad c s → fld c.item 8 1 ≠ s.pwr.state →
    fld c.item 8 1 ≠ 0 →
    exec (.powerSet q seq) s = .next { onCmd q seq ranCmd s with
      pwr := { s.pwr with entering := true, target := fld c.item 8 1, delayed := 0, cmd := some (q, seq) } }) ∧
  (∀ (s : State) (q seq : Nat) (c : Cmd), ready 0x0C q seq powerBad c s → s.pwr.state ≠ 0 → fld c.item 8 1 = 0 →
    ∃ t, exec (.powerSet q seq) s = .next t ∧ t.pwr.state = 0 ∧
      (t.pins.rst = s.pins.rst ∧ t.dbg.state = s.dbg.state ∧ t.pending = s.pending)) ∧
  (∀ (s : State) (q seq : Nat) (c : Cmd), runs s = true → s.pwr.cmd = some (q, seq) → cmd? s q seq = some c →
    c.st ≠ .durable → quiescent s = true → s.pwr.target = 1 → s.pwr.state = 0 → s.adm.topo = [] →
    (∀ p : Nat, p < 4 → ∀ x, port? s p = some x → x.state = 0) →
    ∃ t, exec .powerQuiescence s = .next t ∧ t.pwr.state = 1 ∧ ends q seq 0 0
      (powerEvent 1 0 s.pwr.delayed { s with
        regs.clk.rootLock := true
        pwr := { s.pwr with state := 1, entering := false, awake := true, cmd := none, off := none } }) t) ∧
  (∀ (s : State) (q seq : Nat) (c : Cmd), runs s = true → s.pwr.cmd = some (q, seq) → cmd? s q seq = some c →
    c.st ≠ .durable → quiescent s = true → 2 ≤ s.pwr.target →
    ∃ t, exec .powerQuiescence s = .next t ∧ t.pwr.state = 2 ∧ t.regs.clk.rootLock = false ∧
      t.pwr.off = (if s.pwr.target = 3 then some seq else none) ∧ t.pwr.cmd = none ∧
      (cmd? t q seq).map (fun x => (x.st, x.status)) = some (.durable, 0)) ∧
  (∀ s : State, (s.pwr.cmd = none ∨ quiescent s = false) → exec .powerQuiescence s = .next s) ∧
  (∀ s : State, runs s = true → s.pwr.state ≠ 0 → s.pwr.awake = true → (∀ c ∈ s.ldg.cmds, c.q ≠ 0) →
    (∀ x, queue? s 0 = some x → x.acc = x.tail ∧ x.fetched = [] ∧ x.takes = [] ∧ x.cqOut = []) →
    exec .branchGate s = .next { s with
      pwr.awake := false
      regs.clk.rootLock := s.pwr.state == 1 }) ∧
  (∀ s : State, (s.pwr.state = 0 ∨ s.pwr.awake = false ∨ ∃ c ∈ s.ldg.cmds, c.q = 0) → exec .branchGate s = .next s)

/-- LANE_RETIRE of a channel that is no longer in service, or that no cut has to make way for, and LANE_RETURN after a
revalidation that passed, failed or was not needed (R95, R103, R311, R313). The end of a LANE_RETURN that is not needed is
the model's choice: log entry 120. -/
def Obligations.LaneCommands : Prop :=
  (∀ (s : State) (q seq : Nat) (c : Cmd), ready 0x0D q seq laneRetireBad c s → laneMayRun c s = true →
    retired s (fld c.item 8 1) (fld c.item 9 1) = false → (fld c.item 8 1 = 8 → capEpoch s = none) →
    (∀ x ∈ s.ldg.cmds, itemOp x.item ≠ 0x0E) →
    exec (.laneRetire q seq) s = .next (settleChecked (finish q seq 0 0
      (retire (fld c.item 8 1) (fld c.item 9 1) 0 (onCmd q seq ranCmd s))))) ∧
  (∀ (s : State) (q seq : Nat) (c : Cmd), ready 0x0D q seq laneRetireBad c s → laneMayRun c s = true →
    retired s (fld c.item 8 1) (fld c.item 9 1) = true → (∀ x ∈ s.ldg.cmds, itemOp x.item ≠ 0x0E) →
    ∃ t, exec (.laneRetire q seq) s = .next t ∧ ends q seq 0 0 (onCmd q seq ranCmd s) t) ∧
  (∀ (s : State) (q seq : Nat) (c : Cmd) (pass : Bool), ready 0x0E q seq (fun c _ => laneBad c) c s →
    retired s (fld c.item 8 1) (fld c.item 9 1) = false →
    ∃ t, exec (.laneReturn q seq pass) s = .next t ∧ ends q seq 0 0 (onCmd q seq ranCmd s) t) ∧
  (∀ (s : State) (q seq : Nat) (c : Cmd), ready 0x0E q seq (fun c _ => laneBad c) c s →
    retired s (fld c.item 8 1) (fld c.item 9 1) = true →
    ∃ t, exec (.laneReturn q seq false) s = .next t ∧ ends q seq 0x0F 0 (onCmd q seq ranCmd s) t) ∧
  (∀ (s : State) (q seq : Nat) (c : Cmd), ready 0x0E q seq (fun c _ => laneBad c) c s →
    retired s (fld c.item 8 1) (fld c.item 9 1) = true →
    ∃ u, ends q seq 0 0 (readmitLane (fld c.item 8 1) (fld c.item 9 1) (onCmd q seq ranCmd s)) u ∧
      exec (.laneReturn q seq true) s = .next (settleAfter u))

/-- BUDDY_SET replaces one buddy record; TOPOLOGY_SET reads its table from the host and installs a sound table with its ring
generation and coordinator, and is PEER_CONFLICT when a ready peer claims more; FENCE_RAISE records the generation that the
device expects of a peer and ends the requests outstanding to it (R252, R255, R263). -/
def Obligations.TopologyCommands : Prop :=
  (∀ (s : State) (q seq : Nat) (c : Cmd), ready 0x0F q seq buddySetBad c s → s.adm.fenced = false →
    ∃ t, exec (.buddySet q seq) s = .next t ∧ ends q seq 0 0 (tableChanged { onCmd q seq ranCmd s with
      adm.topo := (s.adm.topo.filter fun r => !(tRole r == 1 && tIndex r == fld c.item 8 1)) ++
        (if fld c.item 10 1 = 0 then [buddyRec c.item] else []) }) t) ∧
  (∀ (s : State) (q seq : Nat) (c : Cmd), ready 0x0F q seq buddySetBad c s → s.adm.fenced = true →
    ∃ t, exec (.buddySet q seq) s = .next t ∧ ends q seq 8 0 (onCmd q seq ranCmd s) t) ∧
  (∀ (s : State) (q seq : Nat) (c : Cmd) (b : Bytes), ready 0x10 q seq topologyBad c s →
    let rs := (List.range (fld c.item 8 4)).map fun i => slice b (32 * i) 32
    topoBad ((rs.filter fun r => tRole r == 2).map tIndex) [] rs = none →
    (∀ p ∈ s.spl.peers, p.2.ready = true → claimLoses (fld c.item 24 4) (fld c.item 28 4) p.2.ringGen p.2.coord = false) →
    ∃ t, exec (.topologySet q seq (some b)) s = .next t ∧ ends q seq 0 0
      (tableChanged (leaveFenced (writeMirrorHeader { onCmd q seq ranCmd s with
        out.reads := s.out.reads ++ [⟨fld c.item 16 8, fld c.item 12 2, 32 * fld c.item 8 4, 1⟩]
        adm.topo := rs
        adm.topoMem := rs
        adm.topoUsed := []
        adm.topoAddr := fld c.item 16 8
        adm.topoTdid := fld c.item 12 2
        adm.topoSet := true
        adm.ringGen := fld c.item 24 4
        adm.coord := fld c.item 28 4
        adm.selfDev := some (tDev (rs.headD []))
        adm.selfGen := tGen (rs.headD []) }))) t) ∧
  (∀ (s : State) (q seq : Nat) (c : Cmd) (b : Bytes), ready 0x10 q seq topologyBad c s →
    let rs := (List.range (fld c.item 8 4)).map fun i => slice b (32 * i) 32
    topoBad ((rs.filter fun r => tRole r == 2).map tIndex) [] rs = none →
    (∃ p ∈ s.spl.peers, p.2.ready = true ∧ claimLoses (fld c.item 24 4) (fld c.item 28 4) p.2.ringGen p.2.coord = true) →
    ∃ t, exec (.topologySet q seq (some b)) s = .next t ∧ ends q seq 9 0 { onCmd q seq ranCmd s with
      out.reads := s.out.reads ++ [⟨fld c.item 16 8, fld c.item 12 2, 32 * fld c.item 8 4, 1⟩] } t) ∧
  (∀ (s : State) (q seq : Nat) (c : Cmd), ready 0x14 q seq fenceRaiseBad c s →
    marked s 4 (fld c.item 8 4) q seq = false → routeUp s (fld c.item 8 4) = false →
    (∀ r ∈ s.spl.reqs, r.peer ≠ fld c.item 8 4) →
    ∃ t, exec (.fenceRaise q seq) s = .next t ∧ ends q seq 0 0 { onCmd q seq ranCmd s with
      adm.fenceExp := Tab.put s.adm.fenceExp (fld c.item 8 4) (fld c.item 12 4)
      ldg.marks := Tab.put s.ldg.marks (8 * fld c.item 8 4 + 4) (q, seq) } t) ∧
  (∀ (s : State) (q seq : Nat) (c : Cmd), ready 0x14 q seq fenceRaiseBad c s →
    ∃ t, exec (.fenceRaise q seq) s = .next t ∧ (∀ r ∈ t.spl.reqs, r.peer = fld c.item 8 4 → r.owner = none))

/-- LEDGER_COMPACT copies the live records of the journal, in order, to its head, writes the mirror's header and the 656
pages before its log under the committed mirror registers, which apply from here on, and goes on until the mirror has them:
it ends OK when no such write is outstanding (R72, R301, R303, R378). That the registers change over as the rewrite is
issued is the model's choice: log entry 145. REPLAY once the rings are enabled, with no epoch to resolve: no replay is due
any more, every command that was not DURABLE runs again from its start and one that is DURABLE stays, each queue leaves a
flush, REPLAY_DONE reports the kind and the commands that run again, and the listed ports start their bring-up (R62, R250,
R306, R307); after a cold reset this holds of what the mirror had. Which commands REPLAY_DONE counts are the model's choice:
log entry 69. -/
def Obligations.CompactionAndReplay : Prop :=
  (∀ (s : State) (q seq : Nat) (c : Cmd), ready 0x13 q seq (fun _ _ => []) c s →
    ∃ t, exec (.ledgerCompact q seq) s = .next t ∧ t.regs.shadow.mirrorWait = [] ∧
      t.regs.shadow.applied = s.regs.shadow.mirrorWait.foldl (fun a e => Tab.put a e.1 e.2) s.regs.shadow.applied ∧
      t.regs.shadow.castle = s.regs.shadow.castle ∧ t.regs.shadow.staged = s.regs.shadow.staged ∧
      t.ldg.log.map (fun r => { r with lsn := 0 }) =
        (s.ldg.log.filter fun r => !r.dead).map (fun r => { r with lsn := 0, mirrored := false }) ∧
      (∀ i, i < 656 → ∃ r ∈ t.out.hb, r.kind = .image q seq ∧ r.write = true ∧ r.addr = mirrorBase t + 0x1000 + 4096 * i ∧
        r.tdid = sh t 0x68 ∧ r.data.length = 4096) ∧
      (∃ r ∈ t.out.hb, r.kind = .image q seq ∧ r.write = true ∧ r.addr = mirrorBase t ∧ r.data = mirrorHeader t) ∧
      (cmd? t q seq).map (fun x => (x.st, x.ran)) = some (.started, true)) ∧
  (∀ (s : State) (c : Cmd), c ∈ s.ldg.cmds → itemOp c.item = 0x13 → c.st = .started → c.ran = true →
    (∀ d ∈ s.ldg.cmds, (itemOp d.item = 0x13 → d.q = c.q ∧ d.seq = c.seq) ∧ (d.q = c.q → d.seq = c.seq → d = c)) →
    (∀ r ∈ s.out.hb, compacting c r = false) → ends c.q c.seq 0 0 s (settleCompact s)) ∧
  (∀ (s : State) (c : Cmd) (r : HbReq), c ∈ s.ldg.cmds → r ∈ s.out.hb → compacting c r = true →
    (∀ d ∈ s.ldg.cmds, itemOp d.item = 0x13 → d = c) → settleCompact s = s) ∧
  (∀ (s : State) (h : Tab Bytes) (cold : Bool), runs s = true → s.regs.qctl.ready = true →
    s.ldg.replayDue = (if cold = true then 2 else 1) → storeClean 3 s → storeClean 4 s →
    (∀ e ∈ s.cap.epochs, unresolved e.2 = false) → s.adm.stagedPatch = none → (cold = true → s.adm.keyRec = []) →
    (∀ p x, port? s p = some x → x.state = 0) →
    ∃ t, exec (.replay h) s = .next t ∧ t.ldg.replayDue = 0 ∧
      t.ldg.cmds = ((if cold = true then fromMirror s else s).ldg.cmds).map (runAgain cold) ∧
      t.cap.epochs = s.cap.epochs ∧ (∀ k ∈ t.str.ctxs, k.2.state = 5) ∧
      ∀ q x, queue? s q = some x → ∃ y, queue? t q = some y ∧ y.desc = x.desc ∧ y.flushBy = none ∧ y.fetched = [] ∧
        y.state = (if x.state = .flushing then x.before else x.state) ∧ y.acc = (if cold = true then x.mirHead else x.acc)) ∧
  (∀ (s : State) (h : Tab Bytes), runs s = true → s.regs.qctl.ready = true → s.ldg.replayDue ≠ 0 →
    ∃ u n, exec (.replay h) s = .next (each [0, 1, 2, 3] listPort (raise0 0x0A05 0
        ((if s.ldg.replayDue = 2 then 1 else 0) +
          2 ^ 8 * ((u.ldg.cmds.filter fun c => c.st != .durable).length % 2 ^ 24) + 2 ^ 32 * n) (freeGens u))) ∧
      u.ldg.replayDue = 0) ∧
  (∀ (s : State) (h : Tab Bytes), (s.regs.qctl.ready = false ∨ s.ldg.replayDue = 0) → exec (.replay h) s = .next s) ∧
  (∀ (cold : Bool) (c : Cmd), (runAgain cold c).q = c.q ∧ (runAgain cold c).seq = c.seq ∧ (runAgain cold c).st = c.st ∧
    (c.st = .durable → runAgain cold c = c) ∧
    (c.st = .started → (runAgain cold c).ran = false ∧ (runAgain cold c).replayed = true ∧ (runAgain cold c).bad = 0))

/-! ### Work commands (R72, R97 to R100, R107 to R117, R137 to R157, R198, R225, R230 to R232, R281 to R290) -/

/-- TOUCHSTONE_LOAD keeps a sound package with the digest of its bytes (R231); TOUCHSTONE_RUN with no faulty slice takes
every slice it names back into service and writes a result of 64 B that names the serial, the slices tested, none failing
and the patterns (R232). The result's TIME is free (DESIGN CHOICE, log entry 12). -/
def Obligations.TouchstoneCommands : Prop :=
  (∀ (s : State) (q seq : Nat) (c : Cmd) (d : Bytes), ready 0x11 q seq tsLoadBad c s →
    let p := slice d 0 (fld c.item 12 4)
    storeClean 13 s → fld p 16 1 ≤ 63 → (Tab.get? s.adm.keys (256 + fld p 16 1)).isSome = true → trailerOk s p = true →
    pkHeaderBad p (fld c.item 12 4) (Tab.get? s.adm.packages (fld c.item 8 1)) = [] →
    pkRecsBad (fld p 18 2) 0 64 (fld c.item 12 4 - 32) p = none →
    ∃ t, exec (.touchstoneLoad q seq (some d)) s = .next t ∧ ends q seq 0 0 { onCmd q seq ranCmd s with
      out.reads := s.out.reads ++ [⟨fld c.item 16 8, fld c.item 24 2, fld c.item 12 4, 5⟩]
      adm.packages := Tab.put s.adm.packages (fld c.item 8 1)
        { addr := fld c.item 16 8, len := fld c.item 12 4, serial := fld p 8 4, tdid := fld c.item 24 2, sha := sha256 p } } t) ∧
  (∀ (s : State) (q seq : Nat) (c : Cmd) (k : Package) (d : Bytes), ready 0x12 q seq tsRunBad c s → storeClean 13 s →
    Tab.get? s.adm.packages (fld c.item 8 1) = some k → trailerOk s (slice d 0 k.len) = true →
    sha256 (slice d 0 k.len) = k.sha →
    let p := slice d 0 k.len
    let tested := ((List.range 16).filter fun i => bit (fld c.item 10 2) i)
    ∃ t, exec (.touchstoneRun q seq (some d) []) s = .next t ∧
      t.asy = { s.asy with sliceOut := s.asy.sliceOut.filter fun i => !tested.contains i } ∧
      (∃ r ∈ t.out.hb, r.kind = .result q seq 16 ∧ r.write = true ∧ r.addr = fld c.item 16 8 ∧ r.tdid = fld c.item 24 2 ∧ r.cls = cmdClass s c ∧
        r.data.take 16 = toLE 4 (fld p 8 4) ++ toLE 2 tested.length ++ toLE 2 0 ++ toLE 4 0xFFFFFFFF ++ toLE 4 (fld p 18 2) ∧
        r.data.drop 24 = slice p 24 8 ++ sha256 p) ∧
      (cmd? t q seq).map (·.st) = some .started) ∧
  (∀ (s : State) (q seq : Nat) (c : Cmd) (k : Package) (d : Bytes) (faulty : List Nat) (i : Nat),
    ready 0x12 q seq tsRunBad c s → storeClean 13 s → Tab.get? s.adm.packages (fld c.item 8 1) = some k →
    trailerOk s (slice d 0 k.len) = true → sha256 (slice d 0 k.len) = k.sha → i < 16 → bit (fld c.item 10 2) i = true →
    i ∈ faulty →
    ∃ t, exec (.touchstoneRun q seq (some d) faulty) s = .next t ∧ i ∈ t.asy.sliceOut ∧
      (cmd? t q seq).map (fun x => (x.st, x.bad)) = some (.started, 0x0A)) ∧
  (∀ (s : State) (q seq : Nat) (c : Cmd) (faulty : List Nat), ready 0x12 q seq tsRunBad c s →
    ∃ t, exec (.touchstoneRun q seq none faulty) s = .next t ∧ ends q seq 3 0xFE (onCmd q seq ranCmd s) t)

/-- EPOCH_OPEN whose checks pass: the epoch that its start bound is in CUT, the cut is in PREP with the chains of the plan's
HARVEST entries, the list and the forecast were read from the host, and the banks are as R114 prepares them. One whose own
fields were refused at its start ends MALFORMED at that field, and one for which no context is reserved yet waits with
CONTEXT_WAIT (R75, R88, R97, R98, R108, R139). -/
def Obligations.EpochOpen : Prop :=
  (∀ (s : State) (q seq : Nat) (c : Cmd) (rd : LaunchReads) (g : Gen) (x : Epoch) (l : Bytes) (v : Vault) (s1 : State)
    (order : List CopyItem), ready 0x40 q seq (fun c _ => if c.epoch = 0 then [(c.badDetail - 1, true)] else []) c s → prepReady c s = true →
    gen? s (fld c.item 8 2) c.gen = some g →
    x = { num := c.epoch, plan := fld c.item 8 2, gen := g.num, list := g.bytes, phase := 1, base := x.base,
          anchor := x.anchor, incr := bit (fld c.item 10 2) 0, q := q, seq := seq } →
    x.base = (if x.incr = true then fld c.item 16 4 else 0) →
    x.anchor = (if x.base = 0 then 0 else ((epoch? s x.base).map fun e => if e.anchor = 0 then e.num else e.anchor).getD 0) →
    s1 = readCtl g.list g.tdid (64 * g.count) 1
      (setPhase c.epoch 1 { onCmd q seq ranCmd s with cap.epochs := Tab.put s.cap.epochs c.epoch x }) →
    storeClean 5 s →
    (x.incr = true → (lastSealed s1 x.plan).any (fun m => m.num == x.base) = true) →
    rd.list = some l → crcN (slice l 0 g.bytes.length) = g.crc → groupBad s1 g.bytes = false →
    planKeysBad s1 g.bytes = none → vault? s (hVault g.bytes) = some v → vaultDown s1 v = false →
    areaLive s1 x v (vaultLay s1 v g.bytes) = false → prepEntryBad s1 x.plan g.bytes rd.headers = none →
    tooManySegs s1 g.bytes (buildOrder (planItems g.bytes)) = false →
    (fld c.item 24 8 = 0 ∧ order = buildOrder (planItems g.bytes) ∨ fld c.item 24 8 ≠ 0 ∧ ∃ fc, rd.forecast = some fc ∧
      forecastBad g.bytes fc (fld c.item 20 4) rd.rowLists = none ∧
      order = buildOrder (forecastItems fc (fld c.item 20 4) rd.rowLists ++ planItems g.bytes) ∧
      tooManySegs s1 g.bytes order = false) →
    ∃ t, exec (.epochOpen q seq rd) s = .next t ∧
      t = prepGo x order rd v (vaultLay s1 v g.bytes) (if fld c.item 24 8 = 0 then s1 else readForecast q c.item rd.forecast s1) ∧
      t.cap.cut = { st := .prep, epoch := c.epoch, chains := (chainsOf g.bytes).foldl (fun a n => Tab.put a n {}) [] } ∧
      capBank t = [] ∧
      collBank t = (if s.cap.capOf = 0 ∨ (epoch? s1 s.cap.capOf).any (fun e => e.phase == 5) = true then collBank s
        else Iset.union (collBank s) (capBank s))) ∧
  (∀ (s : State) (q seq : Nat) (c : Cmd) (rd : LaunchReads), due 0x40 q seq s = some c → c.epoch = 0 →
    ∃ t off, exec (.epochOpen q seq rd) s = .next t ∧ off ≤ c.badDetail - 1 ∧ ends q seq 3 off (onCmd q seq ranCmd s) t) ∧
  (∀ (s : State) (q seq : Nat) (c : Cmd) (rd : LaunchReads), due 0x40 q seq s = some c → prepReady c s = false →
    256 ≤ ctxFree s → exec (.epochOpen q seq rd) s = .next s) ∧
  (∀ (s : State) (q seq : Nat) (c : Cmd) (rd : LaunchReads), due 0x40 q seq s = some c → c.epoch ≠ 0 → ctxFree s < 256 →
    exec (.epochOpen q seq rd) s = .next (contextWait q seq s))

/-- PLAN_LAUNCH reads its list (R88); with the list's CRC right and its group, keys, vault and entries sound it reads the
seal records and gives the restore of every entry a stream (R289). The streams start in order, each with a context, at most
32 at once, and one that finds no context waits (R137, R139). A list that could not be read or has another CRC ends the
command MALFORMED 0xFE. Which checks of a launch PLAN_LAUNCH makes, and that its streams take their contexts as they start,
are the model's choice: log entries 40 and 109. -/
def Obligations.PlanLaunch : Prop :=
  (∀ (s s1 : State) (q seq : Nat) (c : Cmd) (rd : LaunchReads) (g : Gen) (l : Bytes) (v : Vault),
    ready 0x49 q seq planLaunchBad c s → gen? s (fld c.item 8 2) c.gen = some g →
    s1 = readCtl g.list g.tdid (64 * g.count) 1 (onCmd q seq ranCmd s) →
    rd.list = some l → crcN (slice l 0 g.bytes.length) = g.crc → groupBad s1 g.bytes = false →
    planKeysBad s1 g.bytes = none → vault? s (hVault g.bytes) = some v → vaultBad s1 v = none →
    prepEntryBad s1 (fld c.item 8 2) g.bytes rd.headers = none →
    exec (.planLaunch q seq rd) s = .next (launchRestore g rd v c s1)) ∧
  (∀ (g : Gen) (rd : LaunchReads) (v : Vault) (c : Cmd) (s s1 : State) (lay : Nat × Nat) (r : SealRec) (rs : List SealRec)
    (l : List (Ctx × List Job)), s1 = readMeta v c.item none (cmdClass s c) [] rd.sectors s →
    layoutRead s1 v rd.sectors = .inr lay → sealsOf 4097 s1 rd.sectors (hVault g.bytes) v lay (fld c.item 12 4) = .inr (r :: rs) →
    launchMismatch s1 rd.sectors r g.bytes = none →
    allJobs s1 rd.sectors c (hVault g.bytes) (r :: rs) (launchOrder g.bytes) = .inr l →
    ∃ u, launchRestore g rd v c s = settleRestores u ∧ u.str.starts = s.str.starts ++ l ∧ u.str.ctxs = s.str.ctxs ∧
      u.str.jobs = s.str.jobs ∧ u.ldg = s.ldg ∧ u.cap = s.cap ∧
      (vWhere v ≠ 0 → u.out = s.out) ∧ (vWhere v = 0 → u.out.reads = s.out.reads ++
        rd.sectors.map fun x => ⟨vBase v + 4096 * x.1, vTdid v, 4096, cmdClass s c⟩)) ∧
  (∀ (s : State) (q seq : Nat) (c : Cmd) (rd : LaunchReads) (g : Gen), ready 0x49 q seq planLaunchBad c s →
    gen? s (fld c.item 8 2) c.gen = some g →
    (rd.list = none ∨ ∃ l, rd.list = some l ∧ crcN (slice l 0 g.bytes.length) ≠ g.crc) →
    ∃ t, exec (.planLaunch q seq rd) s = .next t ∧
      ends q seq 3 0xFE (readCtl g.list g.tdid (64 * g.count) 1 (onCmd q seq ranCmd s)) t) ∧
  (∀ (n q seq : Nat) (s : State), let running := fun (s : State) => ((ctxsOfCmd s q seq).filter fun c => c.2.state != 5).length
    running s ≤ 32 → running (startWaiting n q seq s) ≤ 32) ∧
  (∀ (n q seq : Nat) (s : State) (x : Ctx × List Job),
    (s.str.starts.find? fun x => x.1.q == q && x.1.seq == seq) = some x →
    ((ctxsOfCmd s q seq).filter fun c => c.2.state != 5).length < 32 →
    (ctxFree s = 0 → startWaiting (n + 1) q seq s = contextWait q seq s) ∧
    (0 < ctxFree s → ∃ u k, startWaiting (n + 1) q seq s = startWaiting n q seq u ∧
      k = { x.1 with state := creditState s x.1 } ∧ u.str.starts = s.str.starts.erase x ∧
      u.str.ctxs = Tab.put s.str.ctxs (Tab.gap s.str.ctxs 0) k ∧
      u.str.jobs = s.str.jobs ++ x.2.map fun j => { j with ctx := Tab.gap s.str.ctxs 0 }))

/-- CAPTURE and ROW_CAPTURE of an epoch in CAPTURING: the command names its plates or rows, a DEFERRED entry is released,
another one's items move to the front of the copy order, and a stream of the command reads them (R25, R99, R137); without a
context for it the command waits (R139). One whose epoch was abandoned since its acceptance ends so; in another phase it is
MALFORMED (R99). A listed ROW_CAPTURE has an index stream and the data stream that it drives; the list is checked as a whole
before its rows are named, in list order, and one row outside the table refuses it (R137, R153, R154). SEAL of a drained
epoch with its keys and vault at hand enters SEALING and builds the seal record (R72, R281, R282); of an ABANDONED epoch it
ends with what ended it; one that finds its epoch SEALED by itself writes the hallmark to RESULT, or ends OK or DIVERGED
without one (R104). Log entry 99 says how the model orders the items. -/
def Obligations.CaptureAndSealCommands : Prop :=
  (∀ (s : State) (q seq : Nat) (c : Cmd) (x : Epoch), ready 0x41 q seq captureBadFields c s → c.instead = none →
    epoch? s (fld c.item 8 4) = some x → x.phase = 2 → x.num = fld c.item 8 4 → ctxRooms s x.num 1 = true →
    let first := fld c.item 16 8 / 65536
    let n := if fld c.item 24 8 = 0 then eSize (entryAt x.list (fld c.item 12 4)) / 65536 - first else fld c.item 24 8 / 65536
    ∃ u k, exec (.capture q seq) s = .next (settleAll u) ∧ (cmd? u q seq).map (·.items) = some [(first, n)] ∧
      (epoch? u x.num).map (·.deferred) = some (x.deferred.filter (· != fld c.item 12 4)) ∧
      (epoch? u x.num).map (·.order) = some (if x.deferred.contains (fld c.item 12 4) then x.order
        else frontOrder (fld c.item 12 4) [(first, n)] x.order) ∧
      u.str.ctxs = Tab.put s.str.ctxs (Tab.gap s.str.ctxs 0) k ∧
      (k.kind = 0 ∧ k.cls = 4 ∧ k.epoch = x.num ∧ k.entry = fld c.item 12 4 ∧ k.q = q ∧ k.seq = seq ∧ k.slot = c.slot)) ∧
  (∀ (s : State) (q seq : Nat) (c : Cmd) (x : Epoch), ready 0x42 q seq rowCaptureBad c s → c.instead = none →
    epoch? s (fld c.item 8 4) = some x → x.phase = 2 → x.num = fld c.item 8 4 → itemSlots c.item = 1 → ctxRooms s x.num 1 = true →
    let items := [(fld c.item 16 8, fld c.item 24 8)]
    ∃ u k, exec (.rowCapture q seq) s = .next (settleAll u) ∧ (cmd? u q seq).map (·.items) = some items ∧
      (epoch? u x.num).map (·.deferred) = some (x.deferred.filter (· != fld c.item 12 4)) ∧
      (epoch? u x.num).map (·.order) = some (if x.deferred.contains (fld c.item 12 4) then x.order
        else frontOrder (fld c.item 12 4) items x.order) ∧
      u.str.ctxs = Tab.put s.str.ctxs (Tab.gap s.str.ctxs 0) k ∧
      (k.kind = 1 ∧ k.cls = 4 ∧ k.epoch = x.num ∧ k.entry = fld c.item 12 4 ∧ k.q = q ∧ k.seq = seq ∧ k.slot = c.slot)) ∧
  (∀ (s : State) (q seq : Nat) (c : Cmd) (x : Epoch), ready 0x42 q seq rowCaptureBad c s → c.instead = none →
    epoch? s (fld c.item 8 4) = some x → x.phase = 2 → itemSlots c.item = 2 → ctxRooms s (fld c.item 8 4) 2 = true →
    ∃ t a b, exec (.rowCapture q seq) s = .next t ∧
      (a.kind = 2 ∧ a.q = q ∧ a.seq = seq ∧ a.epoch = x.num ∧ a.remain = fld c.item 80 4 ∧ a.tdid = fld c.item 84 2) ∧
      (b.kind = 3 ∧ b.q = q ∧ b.seq = seq ∧ b.epoch = x.num ∧ b.entry = fld c.item 12 4 ∧ b.linked = true ∧
        b.link = Tab.gap s.str.ctxs 0) ∧
      let i := Tab.gap s.str.ctxs 0
      let d := Tab.gap (Tab.put s.str.ctxs i a) 0
      t.str.ctxs = (Tab.upd (Tab.put (Tab.put s.str.ctxs i a) d b) i fun k => { k with link := d }) ∧
        t.cap.epochs = s.cap.epochs ∧ t.out = s.out) ∧
  (∀ (s : State) (q seq n : Nat) (c : Cmd), n = itemSlots c.item → due 0x42 q seq s = some c →
    bodyBad c.item (rowCaptureBad c s) = none → phaseIn c s [2] = true →
    ctxRooms s (fld c.item 8 4) (if n = 2 then 2 else 1) = false → exec (.rowCapture q seq) s = .next (contextWait q seq s)) ∧
  (∀ (s : State) (q seq : Nat) (c : Cmd), due 0x41 q seq s = some c → bodyBad c.item (captureBadFields c s) = none →
    phaseIn c s [2] = true → ctxRooms s (fld c.item 8 4) 1 = false → exec (.capture q seq) s = .next (contextWait q seq s)) ∧
  (∀ (s : State) (q seq : Nat) (c : Cmd) (x : Epoch) (r : Nat × Nat), epoch? s (fld c.item 8 4) = some x → x.phase = 6 →
    c.instead = some r → c.headPos = none → c.count = 0 →
    (ready 0x41 q seq captureBadFields c s → ∃ t, exec (.capture q seq) s = .next t ∧
      ends q seq r.1 (if r.1 = 0 then 0 else r.2) (onCmd q seq ranCmd s) t) ∧
    (ready 0x42 q seq rowCaptureBad c s → ∃ t, exec (.rowCapture q seq) s = .next t ∧
      ends q seq r.1 (if r.1 = 0 then 0 else r.2) (onCmd q seq ranCmd s) t)) ∧
  (∀ (s : State) (q seq : Nat) (c : Cmd), phaseIn c s [2] = false → c.instead = none →
    (due 0x41 q seq s = some c → ∃ t off, exec (.capture q seq) s = .next t ∧ off ≤ 8 ∧
      ends q seq 3 off (onCmd q seq ranCmd s) t) ∧
    (due 0x42 q seq s = some c → ∃ t off, exec (.rowCapture q seq) s = .next t ∧ off ≤ 8 ∧
      ends q seq 3 off (onCmd q seq ranCmd s) t)) ∧
  (∀ (s : State) (ctx : Nat) (k : Ctx) (c : Cmd) (x : Epoch) (data : HostRead), Tab.get? s.str.ctxs ctx = some k →
    cmd? s k.q k.seq = some c → epoch? s k.epoch = some x → c.st = .started →
    let rows := listRows (data.getD []) (min 512 (fld c.item 80 4 - c.items.length))
    let items := c.items ++ rows.map fun r => (r, 1)
    ((data = none ∨ ∃ r ∈ rows, eSize (entryAt x.list k.entry) ≤ r) → ∃ u, listPage ctx data s = settleAll u ∧
      ends c.q c.seq 3 72 (stopStreams (fun y => y.q == c.q && y.seq == c.seq && y.epoch == x.num) s) u) ∧
    (data ≠ none → (∀ r ∈ rows, r < eSize (entryAt x.list k.entry)) →
      (items.length < fld c.item 80 4 →
        listPage ctx data s = onCmd c.q c.seq (fun y => { y with items }) s) ∧
      (fld c.item 80 4 ≤ items.length → listPage ctx data s = settleAll (captureItems items c
        { onCmd c.q c.seq (fun y => { y with items }) s with str.ctxs := Tab.del s.str.ctxs ctx })))) ∧
  (∀ (s : State) (q seq : Nat) (c : Cmd) (x : Epoch) (v : Vault) (a : Layout) (u : State), ready 0x43 q seq sealBad c s →
    storeClean 13 s → epoch? s (fld c.item 8 4) = some x → x.num = fld c.item 8 4 → x.phase ≠ 5 → x.phase ≠ 6 → x.poison = false →
    writerRecords x ≤ 2048 →
    u = onEpoch x.num (fun y => { y with sealCmd := some (q, seq) }) (onCmd q seq ranCmd s) →
    slotsBad u (hDataKey x.list) (hHmac x.list) = none → epochVault u x = some (v, a) →
    exec (.sealCmd q seq) s = .next (startSeal { x with sealCmd := some (q, seq), phase := 4, fenceGen := s.adm.selfGen } v a
      (onEpoch x.num (fun y => { y with fenceGen := s.adm.selfGen }) (setPhase x.num 4 u)))) ∧
  (∀ (s : State) (q seq : Nat) (c : Cmd) (x : Epoch), ready 0x43 q seq sealBad c s →
    epoch? s (fld c.item 8 4) = some x → x.phase = 6 → c.headPos = none → c.count = 0 →
    ∃ t, exec (.sealCmd q seq) s = .next t ∧
      ends q seq x.why.1 (if x.why.1 = 0 then 0 else x.why.2) (onCmd q seq ranCmd s) t) ∧
  (∀ (s u : State) (q seq : Nat) (c : Cmd) (x : Epoch), ready 0x43 q seq sealBad c s →
    epoch? s (fld c.item 8 4) = some x → x.phase = 5 →
    u = onCmd q seq (fun y => { y with bad := if x.diverged then 0x0A else 0 }) (onCmd q seq ranCmd s) →
    (fld c.item 16 8 = 0 → c.badDetail = 0 → ∃ t, exec (.sealCmd q seq) s = .next t ∧ ends q seq (if x.diverged then 0x0A else 0) 0 u t) ∧
    (fld c.item 16 8 ≠ 0 → exec (.sealCmd q seq) s = .next (hbReq (.result q seq 16) true (fld c.item 16 8) (fld c.item 24 2)
      x.hallmark.length x.hallmark 4 0 none u)))

/-- RESTORE whose chain reads and covers the range takes the lowest free context, which names the destination, and queues
the units of R153 to read; GATHER_RESTORE takes two contexts, each linked to the other; without free contexts they wait
(R137, R139, R153, R285 to R288). A chain that does not read ends the command with its refusal, and a buffer that is not
held, or is foreign, with BUF_FAULT (R84). The units that a RESTORE of part of a block reads are the model's choice: log
entry 63. -/
def Obligations.RestoreCommands : Prop :=
  (∀ (s : State) (q seq : Nat) (c : Cmd) (sectors : Tab Bytes) (v : Vault) (lay : Nat × Nat) (l : Link) (ls : List Link)
    (ps : List Piece) (js : List Job) (w u : State), ready 0x44 q seq restoreBad c s → 0 < ctxFree s →
    vault? s (fld c.item 8 4) = some v → vaultBad s v = none →
    (srcBuf c.item = true → bufCheck s q (fld c.item 22 2) (fld c.item 24 4) = none) →
    chainFor (onCmd q seq ranCmd s) sectors c.item = .inr (l :: ls) →
    w = readMeta v c.item (bufOf s c.item) (cmdClass s c) (l :: ls) sectors
      (when (srcBuf c.item) (useGrant (fld c.item 22 2)) (onCmd q seq ranCmd s)) →
    layoutRead w v sectors = .inr lay → u = journalArea (fld c.item 8 4) lay l.r.vid w →
    fld c.item 72 8 + fld c.item 40 8 ≤ ihBytes l.h →
    (if ihKind l.h = 2 then tablePieces u sectors (l :: ls) (max 1 (ihRow l.h)) (fld c.item 72 8) (fld c.item 40 8) (fld c.item 32 8)
      else rangePieces u sectors (l :: ls) l.h (fld c.item 72 8) (fld c.item 40 8) (fld c.item 32 8)) = .ok ps →
    bufRefused u c.item (l :: ls) ps = false →
    jobsOf u sectors (l :: ls) { ctx := Tab.gap s.str.ctxs 0, vault := fld c.item 8 4, buf := bufOf u c.item } true ps = .ok js →
    ∃ t x, exec (.restore q seq sectors) s = .next t ∧ t.str.jobs = s.str.jobs ++ js ∧
      t.str.ctxs = Tab.put s.str.ctxs (Tab.gap s.str.ctxs 0) x ∧
      (x.kind = 4 ∧ x.cls = cmdClass s c ∧ x.q = q ∧ x.seq = seq ∧ x.epoch = 0 ∧ x.lo = fld c.item 32 8 ∧
        x.hi = fld c.item 32 8 + fld c.item 40 8 ∧ x.dest = fld c.item 32 8 ∧ x.remain = fld c.item 40 8 ∧
        (sh s 0x408 ≠ 1 → x.state = 2)) ∧
      (t.ldg = u.ldg ∧ t.adm = u.adm ∧ t.cap = s.cap ∧ t.out = u.out)) ∧
  (∀ (s : State) (q seq : Nat) (c : Cmd) (sectors : Tab Bytes) (f : Bool), ready 0x44 q seq restoreBad c s → 0 < ctxFree s →
    (∃ v, vault? s (fld c.item 8 4) = some v ∧ vaultBad s v = none) → srcBuf c.item = true →
    bufCheck s q (fld c.item 22 2) (fld c.item 24 4) = some f →
    exec (.restore q seq sectors) s = .next (bufFault q seq (fld c.item 22 2) (fld c.item 24 4) f
      (useGrant (fld c.item 22 2) (onCmd q seq ranCmd s)))) ∧
  (∀ (s : State) (q seq : Nat) (c : Cmd) (sectors : Tab Bytes) (v : Vault) (f : RFail), ready 0x44 q seq restoreBad c s →
    0 < ctxFree s → vault? s (fld c.item 8 4) = some v → vaultBad s v = none →
    (srcBuf c.item = true → bufCheck s q (fld c.item 22 2) (fld c.item 24 4) = none) →
    chainFor (onCmd q seq ranCmd s) sectors c.item = .inl f →
    exec (.restore q seq sectors) s = .next
      (failRestore q seq f (readMeta v c.item none (cmdClass s c) [] sectors
        (when (srcBuf c.item) (useGrant (fld c.item 22 2)) (onCmd q seq ranCmd s))))) ∧
  (∀ (s : State) (q seq : Nat) (c : Cmd) (sectors : Tab Bytes),
    (due 0x44 q seq s = some c → bodyBad c.item (restoreBad c s) = none → ctxFree s = 0 →
      exec (.restore q seq sectors) s = .next (contextWait q seq s)) ∧
    (due 0x45 q seq s = some c → bodyBad c.item (gatherBad c s) = none → ctxFree s < 2 →
      exec (.gatherRestore q seq sectors) s = .next (contextWait q seq s))) ∧
  (∀ (s w : State) (q seq : Nat) (c : Cmd) (sectors : Tab Bytes) (v : Vault) (lay : Nat × Nat) (l : Link) (ls : List Link),
    ready 0x45 q seq gatherBad c s → 2 ≤ ctxFree s → vault? s (fld c.item 8 4) = some v → vaultBad s v = none →
    (srcBuf c.item = true → bufCheck s q (fld c.item 22 2) (fld c.item 24 4) = none) →
    chainFor (onCmd q seq ranCmd s) sectors c.item = .inr (l :: ls) →
    w = readMeta v c.item (bufOf s c.item) (cmdClass s c) (l :: ls) sectors
      (when (srcBuf c.item) (useGrant (fld c.item 22 2)) (onCmd q seq ranCmd s)) →
    layoutRead w v sectors = .inr lay →
    exec (.gatherRestore q seq sectors) s = .next (gatherGo sectors c (l :: ls) (journalArea (fld c.item 8 4) lay l.r.vid w))) ∧
  (∀ (s : State) (sectors : Tab Bytes) (c : Cmd) (l : Link) (ls : List Link), fld c.item 80 2 = ihRow l.h → ihKind l.h = 2 →
    bufRefused s c.item (l :: ls) [] = false →
    let t := gatherGo sectors c (l :: ls) s
    let i := Tab.gap s.str.ctxs 0
    ∃ a b, (a.kind = 2 ∧ a.q = c.q ∧ a.seq = c.seq ∧ a.remain = fld c.item 72 8 ∧ a.tdid = fld c.item 82 2) ∧
      (b.kind = 3 ∧ b.q = c.q ∧ b.seq = c.seq ∧ b.link = i ∧ b.linked = true ∧ b.dest = fld c.item 32 8 ∧ b.unit = ihRow l.h) ∧
      let d := Tab.gap (Tab.put s.str.ctxs i a) 0
      t.str.ctxs = Tab.upd (Tab.put (Tab.put s.str.ctxs i a) d b) i fun y => { y with link := d })

/-- DIGEST starts one stream: a range source of fabric memory, or a vault read of the sectors of a vault or of a staging
buffer (R97, R137, R198); the parts that it brings are kept in order, and when it is over their SHA-256, or their HMAC under
the slot that the command names, leaves for the result address (R200, R204). A buffer not held or foreign, a key that cannot
be used, a vault that cannot be reached end it (R84, R206, R258). CHECKVALUE starts a source stream over the rows of the
table; a row at hand is compared with its check value, or in MODE 1 its check value stored, and the counts and the first
mismatching row are its result (R97, R225, R226). -/
def Obligations.CheckCommands : Prop :=
  (∀ (s : State) (q seq : Nat) (c : Cmd), ready 0x46 q seq digestBad c s → storeClean 13 s → 0 < ctxFree s →
    fld c.item 8 1 = 2 → digestKey s c.item = none →
    ∃ u k, exec (.digest q seq) s = .next (settleChecked u) ∧ u.str.ctxs = Tab.put s.str.ctxs (Tab.gap s.str.ctxs 0) k ∧
      (k.kind = 0 ∧ k.cls = cmdClass s c ∧ k.q = q ∧ k.seq = seq ∧ k.epoch = 0 ∧ k.cursor = fld c.item 16 8 ∧
        k.remain = fld c.item 24 8) ∧ u.str.jobs = s.str.jobs ∧ u.out = s.out) ∧
  (∀ (s : State) (q seq : Nat) (c : Cmd) (v : Vault), ready 0x46 q seq digestBad c s → storeClean 13 s → 0 < ctxFree s →
    fld c.item 8 1 = 0 → digestKey s c.item = none → vault? s (fld c.item 12 4) = some v → vaultBad s v = none →
    ∃ u k, exec (.digest q seq) s = .next (settleChecked u) ∧ u.str.ctxs = Tab.put s.str.ctxs (Tab.gap s.str.ctxs 0) k ∧
      (k.kind = 4 ∧ k.cls = cmdClass s c ∧ k.q = q ∧ k.seq = seq ∧ k.epoch = 0 ∧ k.remain = fld c.item 24 8) ∧
      u.str.jobs = s.str.jobs ++ digestJobs c (Tab.gap s.str.ctxs 0) (v.vid.getD (fld c.item 12 4)) none ∧ u.out = s.out) ∧
  (∀ (s : State) (q seq : Nat) (c : Cmd) (g : Grant), ready 0x46 q seq digestBad c s → storeClean 13 s → 0 < ctxFree s →
    fld c.item 8 1 = 1 → digestKey s c.item = none → bufCheck s q (fld c.item 10 2) (fld c.item 12 4) = none →
    Tab.get? s.adm.grants (fld c.item 10 2) = some g →
    ∃ u k vid, exec (.digest q seq) s = .next (settleChecked u) ∧ u.str.ctxs = Tab.put s.str.ctxs (Tab.gap s.str.ctxs 0) k ∧
      (k.kind = 4 ∧ k.cls = cmdClass s c ∧ k.q = q ∧ k.seq = seq ∧ k.fenceGen = 0 ∧ k.remain = fld c.item 24 8) ∧
      u.str.jobs = s.str.jobs ++ digestJobs c (Tab.gap s.str.ctxs 0) vid (some (g.base, g.tdid)) ∧
      u.out = (useGrant (fld c.item 10 2) s).out ∧ u.ldg.grantUsed = (useGrant (fld c.item 10 2) s).ldg.grantUsed) ∧
  (∀ (s : State) (b : Blk) (part : Nat) (c : Ctx), Tab.get? s.str.ctxs b.ctx = some c →
    (Tab.get? (messagePart b part s).str.ctxs b.ctx).map (·.asm) = some (Tab.put c.asm part (blkBytes b, b.bad != 0)) ∧
    (messagePart b part s).str.blocks = s.str.blocks.filter fun x => x.id != b.id) ∧
  (∀ (s : State) (b : Blk) (j : Job), b.badUnits = [] → (blk? s b.id).isSome = true →
    sectorsPart b j s = messagePart b j.block (onCtx b.ctx (fun c => { c with remain := c.remain - 4096 * j.count }) s)) ∧
  (∀ (s : State) (ctx : Nat) (c : Ctx) (m : Cmd), itemOp m.item = 0x46 →
    let u := { s with str.ctxs := Tab.del s.str.ctxs ctx }
    let d := digestOf s (fld m.item 9 1) ((Tab.vals c.asm).flatMap (·.1))
    (digestKey s m.item = none → checkOver ctx c m s =
      hbReq (.result m.q m.seq 32) true (fld m.item 32 8) (fld m.item 40 2) d.length d (cmdClass s m) 0 none u) ∧
    (∀ e, digestKey s m.item = some e → checkOver ctx c m s = finish c.q c.seq 0x0E e u)) ∧
  (∀ (s : State) (q seq d : Nat) (c : Cmd), ready 0x46 q seq digestBad c s → storeClean 13 s → 0 < ctxFree s →
    fld c.item 8 1 = 2 → digestKey s c.item = some d →
    ∃ t, exec (.digest q seq) s = .next t ∧ ends q seq 0x0E d (onCmd q seq ranCmd s) t) ∧
  (∀ (s : State) (q seq : Nat) (c : Cmd) (v : Vault), ready 0x46 q seq digestBad c s → storeClean 13 s → 0 < ctxFree s →
    fld c.item 8 1 = 0 → vault? s (fld c.item 12 4) = some v → vaultBad s v ≠ none →
    ∃ t, exec (.digest q seq) s = .next t ∧ ends q seq 0x0F 1 (onCmd q seq ranCmd s) t) ∧
  (∀ (s : State) (q seq : Nat) (c : Cmd) (f : Bool), ready 0x46 q seq digestBad c s → storeClean 13 s → 0 < ctxFree s →
    fld c.item 8 1 = 1 → bufCheck s q (fld c.item 10 2) (fld c.item 12 4) = some f →
    exec (.digest q seq) s = .next (bufFault q seq (fld c.item 10 2) (fld c.item 12 4) f
      (useGrant (fld c.item 10 2) (onCmd q seq ranCmd s)))) ∧
  (∀ (s : State) (q seq : Nat) (c : Cmd) (e : Bytes), ready 0x47 q seq checkvalueBad c s → 0 < ctxFree s →
    cvEntry c s = some e →
    ∃ t k, exec (.checkvalue q seq) s = .next t ∧ t.str.ctxs = Tab.put s.str.ctxs (Tab.gap s.str.ctxs 0) k ∧
      (k.kind = 1 ∧ k.cls = cmdClass s c ∧ k.q = q ∧ k.seq = seq ∧ k.epoch = 0 ∧ k.lo = eTrack e ∧
        k.cursor = itemAddr e (fld c.item 16 8) ∧ k.remain = fld c.item 24 8 * eRow e ∧ cvEntryOf k = e) ∧
      (region? t (eTrack e)).isSome = true ∧ ((region? s (eTrack e)).isSome = true → t.cap = s.cap) ∧ t.out = s.out) ∧
  (∀ (s : State) (b : Blk) (row : Nat) (c : Ctx) (m : Cmd), Tab.get? s.str.ctxs b.ctx = some c → b.tries ≠ 1 → b.bad = 0 →
    cmd? s c.q c.seq = some m →
    let n := cvCounts m
    let v := rowCv (eFormat (cvEntryOf c)) (blkBytes b)
    let wrong := b.cv.any (· != v)
    ∃ u, cvArrived b row s = (if cvRefresh s c = true then groupOp { region := c.lo, group := row / 128, fresh := 2 ^ (row % 128), vals := [(row, v)] } u
        else u) ∧
      u.str.blocks = (s.str.blocks.filter fun x => x.id != b.id) ∧
      (cmd? u c.q c.seq).map cvCounts = some (n.1 + 1, n.2.1 + b2n wrong, if wrong && n.2.1 == 0 then row else n.2.2)) ∧
  (∀ (s : State) (ctx : Nat) (c : Ctx) (m : Cmd), itemOp m.item = 0x47 →
    let n := cvCounts m
    checkOver ctx c m s = hbReq (.result m.q m.seq 40) true (fld m.item 40 8) (fld m.item 48 2) 16
      (toLE 8 n.1 ++ toLE 4 n.2.1 ++ toLE 4 n.2.2) (cmdClass s m) 0 none { s with str.ctxs := Tab.del s.str.ctxs ctx }) ∧
  (∀ (s : State) (q seq off : Nat) (c : Cmd),
    (due 0x46 q seq s = some c → bodyBad c.item (digestBad c s) = some off →
      ∃ t, exec (.digest q seq) s = .next t ∧ ends q seq 3 off (onCmd q seq ranCmd s) t) ∧
    (due 0x47 q seq s = some c → bodyBad c.item (checkvalueBad c s) = some off →
      ∃ t, exec (.checkvalue q seq) s = .next t ∧ ends q seq 3 off (onCmd q seq ranCmd s) t)) ∧
  (∀ (s : State) (q seq : Nat) (c : Cmd), ctxFree s = 0 →
    (due 0x46 q seq s = some c → bodyBad c.item (digestBad c s) = none → exec (.digest q seq) s = .next (contextWait q seq s)) ∧
    (due 0x47 q seq s = some c → bodyBad c.item (checkvalueBad c s) = none →
      exec (.checkvalue q seq) s = .next (contextWait q seq s)))

/-- BARRIER ends once every earlier command of its queue is DURABLE and its target is COMPLETED, and until then leaves
everything as it is (R100). CANCEL takes effect on the commands that it targeted when it started, and with MODE 1 on their
epoch: an accepted one ends CANCELLED and is counted, a CAPTURE or ROW_CAPTURE that runs ends CANCELLED and its streams
stop; the CANCEL ends OK with the number of those that ended CANCELLED once all its targets have ended, and not before
(R156, R157). FLUSH of a queue that holds nothing: it is back in RUN with its head where it was, and the FLUSH is OK with
DETAIL 0; ADMIN_FLUSH of such a queue 0 forms a FLUSH that ends likewise (R62, R64). -/
def Obligations.BarrierCancelFlush : Prop :=
  (∀ (s : State) (q seq : Nat) (c : Cmd), ready 0x48 q seq barrierBad c s →
    (∀ x ∈ s.ldg.cmds, x.q = q → x.seq < seq → x.st = .durable) →
    (fld c.item 8 2 = 0xFFFF ∨ ∃ x, queue? s (fld c.item 8 2) = some x ∧ fld c.item 16 8 ≤ x.completed) →
    ∃ t, exec (.barrier q seq) s = .next t ∧ ends q seq 0 0 (onCmd q seq ranCmd s) t) ∧
  (∀ (s : State) (q seq : Nat) (c x : Cmd), ready 0x48 q seq barrierBad c s → x ∈ s.ldg.cmds → x.q = q → x.seq < seq →
    x.st ≠ .durable → bodyBad c.item (barrierBad c s) = none → exec (.barrier q seq) s = .next s) ∧
  (∀ (s : State) (q seq : Nat) (c : Cmd), ready 0x4A q seq cancelBad c s → c.items = [] →
    exec (.cancel q seq) s = .next (settleAfter (onCmd q seq (fun x => { x with count := 0 })
      (if fld c.item 10 1 = 1 then cancelTheEpoch (fld c.item 12 4) (onCmd q seq ranCmd s) else onCmd q seq ranCmd s)))) ∧
  (∀ (s : State) (q seq : Nat) (c x : Cmd), ready 0x4A q seq cancelBad c s → fld c.item 10 1 = 0 →
    cmd? s x.q x.seq = some x → x.st = .accepted → itemOp x.item ≠ 0x43 → c.items = [(x.q, x.seq)] →
    ∃ v, exec (.cancel q seq) s = .next (settleAfter (onCmd q seq (fun y => { y with count := 1 }) v)) ∧
      ends x.q x.seq 1 0 (onCmd q seq ranCmd s) v) ∧
  (∀ (s : State) (x y : Cmd), x.st = .started → (itemOp x.item = 0x41 ∨ itemOp x.item = 0x42) →
    cmd? s x.q x.seq = some y → y.st ≠ .durable →
    ends x.q x.seq 1 0 (stopCapture x.q x.seq s) (cancelOne x s) ∧
    ∀ k ∈ (cancelOne x s).str.ctxs, k.2.q = x.q → k.2.seq = x.seq → k.2.epoch ≠ 0 → k.2.state = 5) ∧
  (∀ (s : State) (c : Cmd), c ∈ s.ldg.cmds → itemOp c.item = 0x4A → c.st = .started → c.ran = true →
    (∀ d ∈ s.ldg.cmds, (itemOp d.item = 0x4A → d = c) ∧ (d.q = c.q → d.seq = c.seq → d = c)) →
    (stillOpen s c.items = [] → ends c.q c.seq 0 c.count s (endCancels s)) ∧
    (stillOpen s c.items ≠ [] → endCancels s = s)) ∧
  (∀ (s : State) (q seq : Nat) (c : Cmd) (x : Queue) (slots : List Bytes), due 0x4B q seq s = some c →
    bodyBad c.item (flushBad c s) = none → queue? s (fld c.item 8 2) = some x → x.state = .run → x.flushBy = none →
    x.acc = x.tail → x.acc < 2 * sqSize x.desc → x.held = [] → x.cqOut = [] → (∀ d ∈ s.ldg.cmds, d.q ≠ fld c.item 8 2) →
    ∃ t, exec (.flush q seq slots) s = .next t ∧
      (queue? t (fld c.item 8 2)).map (fun y => (y.state, y.head, y.acc, y.tail, y.flushBy)) = some (.run, x.head, x.acc, x.acc, none) ∧
      (cmd? t q seq).map (fun d => (d.st, d.status, d.detail)) = some (.durable, 0, 0)) ∧
  (∀ (s : State) (x : Queue) (slots : List Bytes), runs s = true → s.regs.qctl.ready = true → queue? s 0 = some x →
    x.state = .run → x.acc = x.tail → x.acc < 2 * sqSize x.desc → x.held = [] → x.cqOut = [] →
    (∀ d ∈ s.ldg.cmds, d.q ≠ 0) → roomHere s 0 1 = true →
    ∃ t, exec (.adminFlush slots) s = .next t ∧ t.regs.qctl.flush = true ∧
      (queue? t 0).map (fun y => (y.state, y.head, y.acc, y.tail, y.nextSeq)) =
        some (.run, x.head, x.acc, x.acc, x.nextSeq + 1) ∧
      (cmd? t 0 x.nextSeq).map (fun d => (d.st, d.status, d.detail, d.admin)) = some (.durable, 0, 0, true))

/-- R61: a FLUSH that names its own queue, or one that is not in service, ends MALFORMED; one whose target is being flushed
waits until the earlier FLUSH completes, and then starts in its turn. -/
def Obligations.FlushTargetRule : Prop :=
  (∀ (s : State) (q seq : Nat) (c : Cmd) (slots : List Bytes), due 0x4B q seq s = some c → c.admin = false →
    (fld c.item 8 2 = q ∨ queue? s (fld c.item 8 2) = none) →
    ∃ t off, exec (.flush q seq slots) s = .next t ∧ off ≤ 8 ∧ ends q seq 3 off (onCmd q seq ranCmd s) t) ∧
  (∀ (s : State) (q seq : Nat) (c : Cmd) (x : Queue), cmd? s q seq = some c → cmdBad c = none → itemOp c.item = 0x4B →
    queue? s (fld c.item 8 2) = some x → x.flushBy ≠ none → exec (.commandStart q seq) s = .next s) ∧
  (∀ (s : State) (q seq : Nat) (c : Cmd) (x : Queue) (o : Nat × Nat) (slots : List Bytes), due 0x4B q seq s = some c →
    bodyBad c.item (flushBad c s) = none → queue? s (fld c.item 8 2) = some x → x.flushBy = some o →
    o ≠ (q, seq) → exec (.flush q seq slots) s = .next s) ∧
  (∀ (s : State) (q seq : Nat) (c : Cmd), runs s = true → cmd? s q seq = some c → cmdBad c = none → itemOp c.item = 0x4B →
    inTurn s c = true → (∀ x, queue? s (fld c.item 8 2) = some x → x.flushBy = none) →
    ∃ t, exec (.commandStart q seq) s = .next t ∧ (cmd? t q seq).map (·.st) = some .started)

/-! ### Responses of the host bridge and of the fabric (R54, R303, R305, R309, R329 to R331, R343, R399) -/

/-- A response of the host bridge takes effect once its request has been granted, which a response shows (R16, R342).
HOST_READ_RESPONSE: an error is answered by up to three reissues, each presented to the arbiter anew, after which the read
delivers nothing; data is delivered to what asked for it; the slot that a queue polls for publication lets it go on when it
is published and its item ends before the tail (R43, R309, R343). HOST_WRITE_RESPONSE: an error is answered by up to three
reissues; a mirror write that still fails is kept, stops acceptance and raises MIRROR_FAULT (R305), and MIRROR_FAULT's own
row does the same; the acknowledgement of a result ends its command with what bad data it met (R159, R399); that of an
ACCEPTED record lets its command start and moves the reported head (R21, R49). In FAULT_HOLD a response is dropped, and
while halted it waits (R315, R388). That a response shows its grant is the model's choice: log entry 128. -/
def Obligations.HostResponses : Prop :=
  (∀ (s : State) (id err : Nat) (data : Bytes) (fails : List (Nat × Nat)) (r : HbReq), up s = true → hbFind s id false = some r →
    (s.regs.gasp.hold = false → halted s = false →
      exec (.hostReadResponse id err data fails) s = .next (withChecks fails (hbAnswered r (hbRead1 r err data)) s)) ∧
    (s.regs.gasp.hold = true → exec (.hostReadResponse id err data fails) s = .next { s with
      out.hb := s.out.hb.filter fun y => y.id != id }) ∧
    (s.regs.gasp.hold = false → halted s = true → exec (.hostReadResponse id err data fails) s = .next { s with
      dbg.late := s.dbg.late ++ [.hostReadResponse id err data fails] })) ∧
  (∀ (s : State) (id err : Nat) (r : HbReq), up s = true → hbFind s id true = some r → r.tries < 4 →
    (s.regs.gasp.hold = false → (halted s = false ∨ inHalt r = true) →
      exec (.hostWriteResponse id err) s = .next (hbAnswered r (hbWrite1 r err) s)) ∧
    (s.regs.gasp.hold = true → exec (.hostWriteResponse id err) s = .next { s with
      out.hb := s.out.hb.filter fun y => y.id != id }) ∧
    (s.regs.gasp.hold = false → halted s = true → inHalt r = false → exec (.hostWriteResponse id err) s = .next { s with
      dbg.late := s.dbg.late ++ [.hostWriteResponse id err] })) ∧
  (∀ (s : State) (r : HbReq) (f : State → State), r ∈ s.out.hb →
    ((∀ x ∈ s.out.hb, x.id = r.id → x.granted = true) → hbAnswered r f s = f s) ∧
    ∀ w, pick s (arb s (32 + r.chan)) (hbWaiting s r.chan) = some w → w.id = r.id → r.granted = false →
      (∀ x ∈ s.out.hb, x.id = r.id → x = r) → (∀ q st p, r.kind ≠ .slots q st p) →
      hbAnswered r f s = f (grantHb r.chan s)) ∧
  (∀ (s : State) (err : Nat) (data : Bytes) (r : HbReq), (err = 1 ∨ err = 2) → r.tries < 3 →
    let u := { s with out.hb := s.out.hb.map fun x =>
      if x.id = r.id then { x with tries := x.tries + 1, granted := false } else x }
    hbRead1 r err data s = u ∧ hbWrite1 r err s = u) ∧
  (∀ (s : State) (data : Bytes) (r : HbReq) (q p : Nat) (x : Queue) (t : Take) (w : Nat × Nat), r.kind = .slots q p 0 →
    queue? s q = some x → x.takes = [t] → t.start = p → t.want = 0 → t.reads = 1 → t.parts = [] → t.failed = false →
    x.waitPub = some w → ∃ u, hbRead1 r 0 data s = settleAfter u ∧
      u.out.hb = (s.out.hb.filter fun y => y.id != r.id) ∧ u.ldg = s.ldg ∧
      queue? u q = some { x with takes := [], waitPub := if published x w (slice data 0 r.len) = true then none else some w }) ∧
  (∀ (s : State) (err : Nat) (data : Bytes) (r : HbReq), (err = 1 ∨ err = 2) → 3 ≤ r.tries →
    let u := { s with out.hb := s.out.hb.filter fun y => y.id != r.id }
    (∀ blk i, r.kind = .vread blk i → hbRead1 r err data s = settleAfter (keepSector blk i [] 1 u)) ∧
    (∀ ctx page, r.kind = .ixPage ctx page → hbRead1 r err data s = settleAfter (pageArrives ctx page none u))) ∧
  (∀ (s : State) (err : Nat) (data : Bytes) (r : HbReq), err ≠ 1 → err ≠ 2 →
    let u := { s with out.hb := s.out.hb.filter fun y => y.id != r.id }
    let d := slice data 0 r.len
    (∀ blk i, r.kind = .vread blk i → hbRead1 r err data s = settleAfter (sectorArrives blk i r.again d u)) ∧
    (∀ ctx page, r.kind = .ixPage ctx page → hbRead1 r err data s = settleAfter (pageArrives ctx page (some d) u))) ∧
  (∀ (s : State) (id err : Nat) (data : Bytes) (fails : List (Nat × Nat)), hbFind s id false = none →
    exec (.hostReadResponse id err data fails) s = .next s) ∧
  (∀ (s : State) (id err : Nat) (r : HbReq), up s = true → s.regs.gasp.hold = false → hbFind s id true = some r →
    isMirrorWrite r = true → (err = 1 ∨ err = 2) → r.tries = 3 → s.ldg.mirrorFault = false →
    ∃ t, hbWrite1 r err s = t ∧ exec (.mirrorFault id) s = .next t ∧
      t.ldg.mirrorFault = true ∧ (s.regs.gasp.valid = false → t.regs.gasp.cause = 5 ∧ t.regs.gasp.valid = true) ∧
      (∃ x ∈ t.out.hb, x.id = id ∧ x.tries = 4) ∧ (t.ldg.log = s.ldg.log ∧ t.ldg.cmds = s.ldg.cmds)) ∧
  (∀ (s : State) (r : HbReq) (q seq off : Nat) (c : Cmd), r.kind = .result q seq off → cmd? s q seq = some c →
    c.st = .started → (c.bad ≠ 0 ∨ c.badDetail = 0) →
    ∃ u, hbWrite1 r 0 s = settleAfter (settleCompact u) ∧
      ends q seq c.bad c.badDetail { s with out.hb := s.out.hb.filter fun y => y.id != r.id } u) ∧
  (∀ (s : State) (r : HbReq) (lsn q seq : Nat) (c : Cmd) (x : Queue), r.kind = .mirror lsn q seq true → s.pwr.off = none →
    cmd? s q seq = some c → queue? s q = some x → x.mirSeq < seq →
    ∃ u, hbWrite1 r 0 s = settleAfter (settleCompact u) ∧ cmd? u q seq = some { c with mirrored := true } ∧
      queue? u q = some { x with
        mirHead := headIn x r.data, mirSeq := seq, shadowDue := true, head := consumed x (headIn x r.data) } ∧
      (∀ e ∈ u.ldg.log, e.lsn = lsn → e.mirrored = true) ∧ u.out.hb = s.out.hb.filter (fun y => y.id != r.id)) ∧
  (∀ (s : State) (id err : Nat), hbFind s id true = none → exec (.hostWriteResponse id err) s = .next s)

/-- A response of the fabric takes effect once its request has been granted, which a response shows (R16). A beat that is
not the last is kept with the worst error so far; the last one delivers the data, or is answered by a reissue; a write's
error is answered by a reissue on the same port and then on the next ones in service, and an acknowledged write leaves
(R141, R309, R329 to R331). That the reserved error value reads as none, and that a response shows its grant, are the
model's choice: log entries 46 and 128. -/
def Obligations.FabricResponses : Prop :=
  (∀ (s : State) (id err : Nat) (data : Bytes) (last : Bool) (r : FabReq), up s = true → fabFind s id false = some r →
    (s.regs.gasp.hold = false ∨ r.kind = .dbg) → (halted s = false ∨ fabInHalt r = true) →
    exec (.fabricReadResponse id err data last) s = .next (fabAnswered r (fabBeat id err data last) s)) ∧
  (∀ (s : State) (id err : Nat) (r : FabReq), up s = true → fabFind s id true = some r →
    (s.regs.gasp.hold = false ∨ r.kind = .dbg) → (halted s = false ∨ fabInHalt r = true) →
    exec (.fabricWriteResponse id err) s = .next (fabAnswered r (fabWrite1 r err) s)) ∧
  (∀ (s : State) (r : FabReq) (f : State → State), r ∈ s.out.fab →
    ((∀ x ∈ s.out.fab, x.id = r.id → x.granted = true) → fabAnswered r f s = f s) ∧
    ∀ w, pick s (arb s (fabArb r.port r.write)) (fabWaiting s r.port r.write) = some w → w.id = r.id → r.granted = false →
      isInjected r = false → (∀ x ∈ s.out.fab, x.id = r.id → x = r) →
      fabAnswered r f s = f (grantFab r.port r.write s)) ∧
  (∀ (s : State) (id err : Nat) (data : Bytes) (r : FabReq), fabFind s id false = some r →
    fabBeat id err data false s = { s with out.fab := s.out.fab.map fun x =>
      if x.id = id then { r with data := r.data ++ slice data 0 128, err := max r.err (if err = 3 then 0 else err) } else x }) ∧
  (∀ (s : State) (id : Nat) (data : Bytes) (r : FabReq) (blk off : Nat), fabFind s id false = some r →
    r.kind = .source blk off → r.err = 0 → r.failed = [] →
    let r' := { r with data := r.data ++ slice data 0 128 }
    fabBeat id 0 data true s = serveFilters (settleAfter
      (sourceArrives r' blk off (slice r'.data 0 r.len) false (sourcePassed r'
        { s with out.fab := s.out.fab.filter fun x => x.id != id })))) ∧
  (∀ (s : State) (id : Nat) (data : Bytes) (r : FabReq), fabFind s id false = some r → r.err = 0 → r.tries < 3 →
    isInjected r = false →
    (fabBeat id 1 data true s).out.fab = s.out.fab.map fun x => if x.id = id then
        { x with tries := r.tries + 1, data := (if r.write then r.data ++ slice data 0 128 else []), err := 0, granted := false
                 failed := r.failed ++ [r.port], port := if r.tries = 0 then r.port else fabPort s r.addr r.tries } else x) ∧
  (∀ (s : State) (id err : Nat) (data : Bytes) (last : Bool), fabFind s id false = none →
    exec (.fabricReadResponse id err data last) s = .next s) ∧
  (∀ (s : State) (err : Nat) (r : FabReq), err ≠ 1 → r.failed = [] → r.kind ≠ .dbg → (∀ t g, r.kind ≠ .group t g) →
    (∀ t, r.kind ≠ .header t) →
    fabWrite1 r err s = serveFilters (settleAfter { s with out.fab := s.out.fab.filter fun x => x.id != r.id })) ∧
  (∀ (s : State) (err t : Nat) (r : FabReq), err ≠ 1 → r.failed = [] →
    let u := { s with out.fab := s.out.fab.filter fun x => x.id != r.id }
    (∀ g, r.kind = .group t g → fabWrite1 r err s = serveFilters (settleAfter (groupWritten t u))) ∧
    (r.kind = .header t → fabWrite1 r err s = serveFilters (settleAfter (headerWritten t u)))) ∧
  (∀ (s : State) (r : FabReq), r.tries < 3 →
    (fabWrite1 r 1 s).out.fab = s.out.fab.map fun x => if x.id = r.id then
        { x with tries := r.tries + 1, data := (if r.write then r.data else []), err := 0, granted := false
                 failed := r.failed ++ [r.port], port := if r.tries = 0 then r.port else fabPort s r.addr r.tries } else x) ∧
  (∀ (s : State) (id err : Nat), fabFind s id true = none → exec (.fabricWriteResponse id err) s = .next s)

/-! ### Replay and faults (R6, R210, R306, R307, R309 to R321) -/

/-- Entering FAULT_HOLD latches the cause over one that does not hold, records and reports it, ends the cut, disarms every
filter and releases what it held; from then on nothing that needs the block to run has an effect (R6, R315, R316).
Retirement of a channel: it is out of service with its cause, journalled and reported (R310, R311, R325). Nothing else
changes for an AES engine, a check unit and a digest core; the streams of a mover go on without it, the blocks of a lane
rerun on another, requests of a fabric port move, a filter's window is given up, and the loss of a ledger macro is latched
(R309 to R315). The loss of the first ledger macro latches cause 1 or 2 and raises LEDGER_LOST; the loss of the second one
enters FAULT_HOLD with cause 3 (R6, R314, R315). The bytes of a FAULT record are the model's choice: log entry 30. -/
def Obligations.RetirementAndHold : Prop :=
  (∀ (s : State) (cause : Nat), up s = true → s.regs.gasp.hold = false → (cause = 3 ∨ cause = 4 ∨ cause = 6) →
    ∃ t, exec (.faultHold cause) s = .next t ∧ runs t = false ∧ t.regs.gasp.hold = true ∧ t.regs.gasp.valid = true ∧
      ((s.regs.gasp.valid = false ∨ s.regs.gasp.cause ∉ [3, 4, 6]) → t.regs.gasp.cause = cause) ∧
      t.cap.cut = {} ∧ t.cap.filters = [] ∧ t.cap.passants = [] ∧
      (t.ldg.cmds = s.ldg.cmds ∧ t.ring.queues = s.ring.queues ∧ t.adm = s.adm) ∧
      (∀ q seq seen, exec (.commandStart q seq) t = .next t ∧ exec (.itemAccept q) t = .next t ∧
        exec (.completionWrite q) t = .next t ∧ exec (.dispatchOpportunity seen) t = .next t)) ∧
  (∀ (s u : State) (kind ix cause : Nat), up s = true → ix < kindCount kind → 1 ≤ cause → cause ≤ 3 →
    retired s kind ix = false →
    u = raise0 0x0A08 2 (kind + ix * 2 ^ 8 + cause * 2 ^ 16)
      (append 4 0 0xFFFF 0 (toLE 1 kind ++ toLE 1 ix ++ toLE 1 cause) true { s with
        flt.retired := Tab.put s.flt.retired (32 * kind + ix) cause
        flt.charged := Tab.del s.flt.charged (32 * kind + ix) }) →
    retired u kind ix = true ∧
    (4 ≤ kind → kind ≤ 6 → exec (.channelRetired kind ix cause) s = .next u) ∧
    (kind = 2 → exec (.channelRetired kind ix cause) s = .next (moverGone ix u)) ∧
    (kind = 3 → exec (.channelRetired kind ix cause) s = .next (laneRetired ix u)) ∧
    (kind = 0 → lanesLeft (laneGone ix u) (ix / 4) = true →
      exec (.channelRetired kind ix cause) s = .next (laneGone ix u)) ∧
    (kind = 1 → exec (.channelRetired kind ix cause) s = .next (moveMessages ix (linkDown ix 2 0 u))) ∧
    (kind = 7 → exec (.channelRetired kind ix cause) s = .next (moveRequests ix u)) ∧
    (kind = 8 → exec (.channelRetired kind ix cause) s = .next (filterGone ix cause u)) ∧
    (kind = 9 → exec (.ledgerLost (decide (ix = 1)) cause) s = .next (macroGone ix cause u) ∧
      exec (.channelRetired kind ix cause) s = .next (macroGone ix cause u))) ∧
  (∀ (s : State) (b : Bool) (cause : Nat), up s = true → cause ≤ 3 → retired s 9 0 = false → retired s 9 1 = false →
    s.regs.gasp.valid = false →
    ∃ t, exec (.ledgerLost b cause) s = .next t ∧ retired t 9 (b2n b) = true ∧ retired t 9 (1 - b2n b) = false ∧
      t.regs.gasp.cause = 1 + b2n b ∧ t.regs.gasp.valid = true ∧ t.regs.gasp.hold = s.regs.gasp.hold) ∧
  (∀ (s : State) (b : Bool) (cause : Nat), up s = true → cause ≤ 3 → retired s 9 (b2n b) = false →
    retired s 9 (1 - b2n b) = true → s.regs.gasp.hold = false →
    ∃ t, exec (.ledgerLost b cause) s = .next t ∧ t.regs.gasp.hold = true ∧ runs t = false)

/-- An uncorrectable error is counted in SC_ECC_UE and SC_ECC_LAST and reported; a key slot is then empty and lost, a recipe
slot empty, a bank word all ones, a sequencer word trapped (R212, R310, R321, R323, R325). The admission scan of the
contexts and the pass over the banks read every lane that holds a corruption, once, and with none they change nothing (R317,
R320). A single bit in error is corrected and counted (R317, R323). A write of a part of a lane waits in a merge buffer of
eight entries; an entry whose mask is whole is written without a read, and one that retires over a lane with an
uncorrectable error counts it and writes its check bits inverted (R318). Lane numbers in a store, lanes with more than two
bits in error, and when an entry retires, are the model's choice: log entries 50, 51 and 148. -/
def Obligations.ErrorsAndScans : Prop :=
  (∀ (s u : State) (site : EccSite), up s = true →
    u = raise0 0x0A07 2 ((siteLane s site).1 + 2 ^ 8 * ((siteLane s site).2 % 2 ^ 24)) { s with
      regs.eccUe := min 0xFFFFFFFF (s.regs.eccUe + 1)
      regs.eccLast := BitVec.ofNat 32 ((siteLane s site).1 + 32 + 2 ^ 8 * ((siteLane s site).2 % 2 ^ 24))
      flt.flipped := s.flt.flipped.filter fun x => x.1 != (siteLane s site).1 * 2 ^ 32 + (siteLane s site).2 } →
    exec (.eccUe site) s = .next (settleAfter (siteEffect site u)) ∧
    (∀ k, site = .key k → siteEffect site u = raise0 0x0603 2 k { u with
      adm.keys := Tab.del u.adm.keys k
      adm.keyLost := if u.adm.keyLost.contains k then u.adm.keyLost else u.adm.keyLost ++ [k] }) ∧
    (∀ k, site = .recipe k → siteEffect site u = { u with adm.recipes := Tab.del u.adm.recipes k }) ∧
    (∀ a, site = .seqFetch a true → siteEffect site u = faultHold 4 u) ∧
    (∀ a, site = .seqFetch a false → Tab.get? u.flt.traps a = none →
      siteEffect site u = raise0 0x0A0B 1 a (lanesWrite 11 (a / 8) 1 (lanesWrite 10 0 1
        { u with flt.traps := Tab.put u.flt.traps a u.time.aon }))) ∧
    (∀ m w, site = .ledger m w true false → siteEffect site u = faultHold 6 u) ∧
    (∀ p, site = .bank (!s.cap.coll) p → capEpoch s = none → (∀ n, n < 8 → ¬(winFirst s n ≤ p ∧ p < winFirst s n + winLen s n)) →
      siteEffect site u = { u with cap.bank0 := Iset.add u.cap.bank0 (64 * (p / 64)) (64 * (p / 64) + 64) })) ∧
  (∀ s : State, runs s = true → s.pwr.state = 0 → (∀ e ∈ s.flt.merge, e.store ≠ 2) → (corrupted s 2 fun lane => (Tab.get? s.str.ctxs (lane / 6)).isSome) = [] →
    exec .contextScan s = .next (settleAfter s)) ∧
  (∀ s : State, up s = true → s.pwr.state = 0 → (∀ e ∈ s.flt.merge, e.store ≠ 5) → corrupted s 5 (fun _ => true) = [] →
    exec .bitmapVerifyPass s = .next (settleAfter s)) ∧
  (∀ (s : State) (x : Nat × W64 × Byte), runs s = true → s.pwr.state = 0 → flips x = 1 →
    (∀ e ∈ s.flt.merge, e.store ≠ 2) → (corrupted s 2 fun lane => (Tab.get? s.str.ctxs (lane / 6)).isSome) = [x] →
    ∃ u, exec .contextScan s = .next (settleAfter u) ∧ u.regs.eccCe = min 0xFFFFFFFF (s.regs.eccCe + 1) ∧
      x ∉ u.flt.flipped ∧ u.str.ctxs = s.str.ctxs ∧ u.regs.eccUe = s.regs.eccUe) ∧
  (∀ (s : State) (x : Nat × W64 × Byte), up s = true → s.pwr.state = 0 → flips x = 1 →
    (∀ e ∈ s.flt.merge, e.store ≠ 5) → corrupted s 5 (fun _ => true) = [x] →
    ∃ u, exec .bitmapVerifyPass s = .next (settleAfter u) ∧ u.regs.eccCe = min 0xFFFFFFFF (s.regs.eccCe + 1) ∧
      x ∉ u.flt.flipped ∧ u.cap.bank0 = s.cap.bank0 ∧ u.cap.bank1 = s.cap.bank1) ∧
  (∀ (s : State) (store lane : Nat) (mask : W64), mask ≠ 0 →
    (mask ||| (((s.flt.merge.find? (isLane store lane)).map (·.mask)).getD 0) = BitVec.allOnes 64 →
      partWrite store lane mask s = flipHook store lane { s with flt.merge := s.flt.merge.filter fun e => !isLane store lane e }) ∧
    (mask ≠ BitVec.allOnes 64 → (∀ e ∈ s.flt.merge, isLane store lane e = false) →
      (s.flt.merge.filter fun e => e.store == store).length < 8 →
      partWrite store lane mask s = { s with flt.merge := s.flt.merge ++ [⟨store, lane, mask, s.time.aon⟩] })) ∧
  (∀ (s : State) (e : Merge) (x : Nat × W64 × Byte), s.regs.flip.arm = false →
    (s.flt.flipped.find? fun x => x.1 == e.store * 2 ^ 32 + e.lane) = some x → 2 ≤ flips x →
    (mergeOut e s).regs.eccUe = min 0xFFFFFFFF (s.regs.eccUe + 1) ∧
      (e.store * 2 ^ 32 + e.lane, 0, 0xFF) ∈ (mergeOut e s).flt.flipped ∧ e ∉ (mergeOut e s).flt.merge)

/-! ### The cut and the capture (R27, R107 to R128, R332 to R337) -/

/-- PREP_DONE raises HOLD on the chains of the cut, or arms at once when the plan names none; HOLD_ACK counts each chain
once, and the last one arms; CUT_SLOW reports, once for each chain, every chain that has not acknowledged (R108, R110,
R335). ARM: the banks swap, so that what was collecting is captured and the other one collects; the capture bank belongs to
the epoch, and every chain of the cut is pulled once (R108, R114, R336). The statement is about the state in which the
streams of the epoch then start. -/
def Obligations.CutHoldsAndArm : Prop :=
  (∀ (s : State) (x : Epoch), runs s = true → s.cap.cut.st = .prep → epoch? s s.cap.cut.epoch = some x →
    s.cap.cut.chains ≠ [] → exec .prepDone s = .next { s with cap.cut.st := .holdReq }) ∧
  (∀ (s : State) (x : Epoch), runs s = true → s.cap.cut.st = .prep → epoch? s s.cap.cut.epoch = some x →
    s.cap.cut.chains = [] → exec .prepDone s = .next (arm x s)) ∧
  (∀ (s : State) (c : Nat) (ch : Chain), up s = true → s.cap.cut.st = .holdReq → Tab.get? s.cap.cut.chains c = some ch →
    ch.ack = false → s.cap.cut.owner = none → (∃ e ∈ s.cap.cut.chains, e.1 ≠ c ∧ e.2.ack = false) →
    exec (.holdAck c) s = .next { s with
      cap.cut.chains := Tab.upd s.cap.cut.chains c fun y => { y with ack := true, done := false } }) ∧
  (∀ (s : State) (c : Nat) (ch : Chain) (x : Epoch), up s = true → s.cap.cut.st = .holdReq →
    s.cap.cut.chains = [(c, ch)] → ch.ack = false → s.cap.cut.owner = none → epoch? s s.cap.cut.epoch = some x →
    exec (.holdAck c) s = .next (settleAfter (arm x { s with
      cap.cut.chains := [(c, { ch with ack := true, done := false })] }))) ∧
  (∀ (s : State) (c : Nat) (ch : Chain), up s = true → s.cap.cut.st = .holdReq → Tab.get? s.cap.cut.chains c = some ch →
    ch.ack = true → exec (.holdAck c) s = .next s) ∧
  (∀ (s : State) (c : Nat) (ch : Chain), up s = true → s.cap.cut.st = .holdReq → s.cap.cut.chains = [(c, ch)] → c < 64 →
    ch.ack = false → ch.slow = false →
    exec (.cutSlow c) s = .next (raise0 0x0301 1 (2 ^ c) { s with cap.cut.chains := [(c, { ch with slow := true })] })) ∧
  (∀ (s : State) (c : Nat) (ch : Chain), up s = true → Tab.get? s.cap.cut.chains c = some ch → ch.slow = true →
    exec (.cutSlow c) s = .next s) ∧
  (∀ (s : State) (x : Epoch), epoch? s x.num = some x →
    ∃ u, arm x s = settleAll (startStreams x.num u) ∧ capBank u = collBank s ∧ collBank u = capBank s ∧
      u.cap.capOf = x.num ∧ u.cap.cut.st = .harvest ∧ u.cap.cut.epoch = s.cap.cut.epoch ∧
      u.out.pulls = s.out.pulls ++ s.cap.cut.chains.map (·.1) ∧
      (∀ f ∈ u.cap.filters, f.2.held = [] ∧ retired s 8 f.1 = false))

/-- R27, R114: PREP leaves in the collecting bank every plate of it, and every plate of the other bank unless the epoch
which that bank was captured for is SEALED; the other bank is then empty. -/
def Obligations.PrepKeepsUnsealedPlates : Prop :=
  ∀ s : State, (∀ i ∈ s.cap.bank0, i.1 < i.2) → (∀ i ∈ s.cap.bank1, i.1 < i.2) →
    (∀ p, (capBank (prepareBanks s)).mem p = false) ∧
    (∀ p, (collBank s).mem p = true → (collBank (prepareBanks s)).mem p = true) ∧
    (s.cap.capOf ≠ 0 → (∀ e, epoch? s s.cap.capOf = some e → e.phase ≠ 5) →
      ∀ p, (collBank (prepareBanks s)).mem p = ((collBank s).mem p || (capBank s).mem p)) ∧
    ((s.cap.capOf = 0 ∨ ∃ e, epoch? s s.cap.capOf = some e ∧ e.phase = 5) → collBank (prepareBanks s) = collBank s)

/-- HARVEST_BEAT keeps each beat of a chain in order; the last one ends the chain when the CRC-32C of the earlier beats is
in it, and otherwise the chain is pulled a second time and then kept as bad (R112, R336). A push is answered once; the last
answer of a launch releases the chains (R337). -/
def Obligations.Harvest : Prop :=
  (∀ (s : State) (c : Nat) (beat : Bytes) (ch : Chain), up s = true → s.cap.cut.st = .harvest →
    Tab.get? s.cap.cut.chains c = some ch → ch.done = false → ch.beats.length + 1 < hvLen s c →
    ∃ t, exec (.harvestBeat c beat) s = .next t ∧
      Tab.get? t.cap.cut.chains c = some { ch with beats := ch.beats ++ [slice beat 0 32] } ∧
      (∀ k, k ≠ c → Tab.get? t.cap.cut.chains k = Tab.get? s.cap.cut.chains k) ∧
      (t.ldg = s.ldg ∧ t.str = s.str ∧ t.out = s.out)) ∧
  (∀ (s : State) (c : Nat) (beat : Bytes) (ch : Chain), up s = true → s.cap.cut.st = .harvest →
    Tab.get? s.cap.cut.chains c = some ch → ch.done = false → hvLen s c ≤ ch.beats.length + 1 →
    chainOk (ch.beats ++ [slice beat 0 32]) = true →
    exec (.harvestBeat c beat) s = .next (tryRelease (onChain c (fun y => { y with done := true })
      (lanesWrite 0 (4 * c) 4 (onChain c (fun y => { y with beats := ch.beats ++ [slice beat 0 32] }) s))))) ∧
  (∀ (s : State) (c : Nat) (beat : Bytes) (ch : Chain), up s = true → s.cap.cut.st = .harvest →
    Tab.get? s.cap.cut.chains c = some ch → ch.done = false → hvLen s c ≤ ch.beats.length + 1 →
    chainOk (ch.beats ++ [slice beat 0 32]) = false → ch.pulls < 2 →
    ∃ u, exec (.harvestBeat c beat) s = .next (tryRelease u) ∧
      Tab.get? u.cap.cut.chains c = some { ch with beats := [], pulls := 2, done := false } ∧
      u.out.pulls = s.out.pulls ++ [c]) ∧
  (∀ (s : State) (c : Nat) (ch : Chain) (q seq : Nat), up s = true → s.cap.cut.st = .push → s.cap.cut.owner = some (q, seq) →
    Tab.get? s.cap.cut.chains c = some ch → ch.done = false → (∃ e ∈ s.cap.cut.chains, e.1 ≠ c ∧ e.2.done = false) →
    exec (.harvestPushOk c) s = .next { s with
      cap.cut.chains := Tab.upd s.cap.cut.chains c fun y => { y with done := true, bad := false } }) ∧
  (∀ (s : State) (c : Nat) (ch : Chain) (q seq : Nat), up s = true → s.cap.cut.st = .push → s.cap.cut.owner = some (q, seq) →
    s.cap.cut.chains = [(c, ch)] → ch.done = false →
    exec (.harvestPushOk c) s = .next (settleEverything { s with cap.cut := {} })) ∧
  (∀ (s : State) (c : Nat) (ch : Chain) (q seq : Nat), up s = true → s.cap.cut.st = .push → s.cap.cut.owner = some (q, seq) →
    s.cap.cut.chains = [(c, ch)] → ch.done = false →
    exec (.harvestPushErr c) s = .next (settleEverything
      { badAt 131072 q seq 0 [c] 0 0x0B 0 { s with cap.cut.chains := [(c, { ch with done := true, bad := true })] } with
        cap.cut := {} })) ∧
  (∀ (s : State) (c : Nat), s.cap.cut.st ≠ .push →
    exec (.harvestPushOk c) s = .next s ∧ exec (.harvestPushErr c) s = .next s)

/-- A write presented at an insertion point passes unless it meets an item that the epoch has still to copy or its source
has a write held there; a held write waits with its plate and rows, and its copy starts (R119, R120, R332, R333). An
accepted write marks every plate of its filter's window that it touches in the collecting bank, and no bank bit is cleared
by it (R113); through a retired filter it marks nothing (R133). INJECTED_READ_ACCEPT: the oldest injected read of a filter
goes to the fabric in class 0 under its identifier, and leaves the filter (R107, R334); FILTER_READ_PRESENT never stops a
read, and TRACKER_GROUP_READ_RETURN caches the group that was asked for and decides what waited for it (R125, R332). Marking
rows written applies the cut to their group first and then sets W (R124, R125). Which light slot an injected read takes is
the model's choice: log entry 128. -/
def Obligations.FilterRows : Prop :=
  (∀ (s : State) (n src addr bytes : Nat) (e : Epoch), up s = true → (filterOf s n).segs ≠ [] → bytes ≠ 0 →
    capEpoch s = some e → rowsTouched s e (filterOf s n).segs addr bytes = [] →
    pendingPlate s n (plateOf s addr) = false →
    (∀ x ∈ s.cap.passants, x.2.item = plateOf s addr → x.2.row = false → x.2.filter = n → x.2.toAccept = 0) →
    (∀ h ∈ (filterOf s n).held, h.src ≠ src) →
    exec (.filterWritePresent n src addr bytes) s = .next { s with out.vld := s.out.vld ++ [(n, src, false)] }) ∧
  (∀ (s : State) (n src addr bytes : Nat) (e : Epoch), up s = true → (filterOf s n).segs ≠ [] → bytes ≠ 0 →
    capEpoch s = some e → pendingPlate s n (plateOf s addr) = true →
    (((filterOf s n).held.map (·.src)).dedup.length < 256 ∨ ∃ h ∈ (filterOf s n).held, h.src = src) →
    exec (.filterWritePresent n src addr bytes) s = .next (serveFilter n { s with
      cap.filters := Tab.upd s.cap.filters n fun f => { f with held := f.held ++ [{
        src, addr, bytes, plate := some (plateOf s addr), rows := rowsTouched s e (filterOf s n).segs addr bytes }] }
      out.vld := s.out.vld ++ [(n, src, true)] })) ∧
  (∀ (s : State) (n src addr bytes : Nat), (filterOf s n).segs = [] →
    exec (.filterWritePresent n src addr bytes) s = .next s) ∧
  (∀ (s : State) (n src addr : Nat) (data : Bytes), up s = true → n < 8 → src < 65536 → retired s 8 n = false →
    data ≠ [] → plateBase s ≤ addr → (∀ i ∈ collBank s, i.1 < i.2) →
    max (plateOf s addr) (winFirst s n) < min (plateOf s (addr + data.length - 1) + 1) (winFirst s n + winLen s n) →
    ∃ t, exec (.filterWriteAccept n src addr data) s = .next t ∧ capBank t = capBank s ∧
      ∀ p, (collBank t).mem p = ((collBank s).mem p || (decide (plateOf s addr ≤ p) &&
        decide (p ≤ plateOf s (addr + data.length - 1)) && decide (winFirst s n ≤ p) &&
        decide (p < winFirst s n + winLen s n)))) ∧
  (∀ (s : State) (n src addr : Nat) (data : Bytes), retired s 8 n = true →
    exec (.filterWriteAccept n src addr data) s = .next s) ∧
  (∀ (s : State) (n : Nat) (i : Inj) (rest : List Inj) (f : Filter) (p : Passant), up s = true →
    Tab.get? s.cap.filters n = some f → f.inj = i :: rest → Tab.get? s.cap.passants i.tag = some p → p.row = false →
    1 < p.toAccept →
    exec (.injectedReadAccept n) s = .next { s with
      cap.filters := Tab.upd s.cap.filters n fun y => { y with inj := rest }
      cap.passants := Tab.put s.cap.passants i.tag { p with toAccept := p.toAccept - 1 }
      out.fab := s.out.fab ++ [{ id := i.id, kind := .passant i.tag (i.addr - (plateBase s + 65536 * p.item)), port := i.port
                                 write := false, addr := i.addr, len := i.len, cls := 0, granted := true
                                 mover := if i.len ≤ 512 then lightMover s else none }] }) ∧
  (∀ (s : State) (n : Nat), (filterOf s n).inj = [] → exec (.injectedReadAccept n) s = .next s) ∧
  (∀ (s : State) (n addr bytes ctx : Nat) (r : FabReq) (blk off : Nat) (b : Blk), up s = true →
    s.out.fab = [r] → r.kind = .source blk off → r.write = false → r.seen = false → r.granted = true → r.addr = addr → r.len = bytes →
    blk? s blk = some b → b.ctx = ctx → windowOf s addr 1 = some n → retired s 8 n = false →
    exec (.filterReadPresent n addr bytes ctx) s = .next (settle (sourcePassed r s))) ∧
  (∀ (s : State) (entry g t : Nat) (data : Bytes) (f : FabReq), up s = true → s.pwr.state = 0 → trackOf s entry = some t →
    (s.out.fab.find? fun f => f.kind == .group t g && !f.write) = some f →
    (∀ x ∈ s.out.fab, x.id = f.id → x.granted = true) →
    exec (.trackerGroupReadReturn entry g data) s = .next (serveFilters (groupArrives t g data
      { s with out.fab := s.out.fab.filter fun x => x.id != f.id }))) ∧
  (∀ (s : State) (g t : Nat) (data : Bytes) (r : Region), region? s t = some r → cachedGroups s < 8192 →
    (∀ o ∈ s.cap.waiting, o.region ≠ t) →
    group? (groupArrives t g data s) t g = some (groupOf (slice data 0 128)) ∧
    ∀ k, k ≠ g → group? (groupArrives t g data s) t k = group? s t k) ∧
  (∀ (s : State) (t g w : Nat) (r : Region) (x : Group), region? s t = some r → r.isOpen = true → group? s t g = some x →
    s.cap.waiting = [] →
    ∃ y, group? (markRows t g w 0 s) t g = some y ∧ y.w = (applyCut s r.lastCut x).w ||| BitVec.ofNat 128 w ∧
      y.d = (applyCut s r.lastCut x).d ∧ y.done = (applyCut s r.lastCut x).done ∧
      y.stale = (applyCut s r.lastCut x).stale ∧ y.gepoch = max x.gepoch r.lastCut ∧
      ((markRows t g w 0 s).cap.waiting = [])) ∧
  (∀ (s : State) (entry g : Nat) (data : Bytes), trackOf s entry = none →
    exec (.trackerGroupReadReturn entry g data) s = .next s)

/-! ### Streams, Crucible, the sealing unit (R24, R137 to R147, R164 to R166, R191 to R194, R282, R309) -/

/-- MOVER_DESCRIPTOR of a running stream on a mover in service that may serve it: the next plate in copy order, neither
copied nor refused by R24, gets a staging slot of a lane and its reads, none across a 4 KiB boundary and as many as the
mover may keep; the next unit of a vault-read stream and the next 64 KiB of a DIGEST likewise (R24, R140, R141, R144, R149).
Any other mover or context does nothing. DEADLINE_RECOMPUTE replaces the deadlines of class 4 streams and changes nothing
else (R146). CRUCIBLE_BLOCK: a free lane takes the block of its staging area that its arbiter grants; a built-in codec's
block whose reverse check passes is emitted as encoded, and one whose check fails is tried on another lane (R16, R164,
R165). A lane that is retired, halted by the debug port, or without a free sector of its output area takes none (R144,
R188). How a stream is bound to a mover is the model's choice: log entry 133. -/
def Obligations.StreamsAndLanes : Prop :=
  (∀ (s s' : State) (mover ctx : Nat) (c : Ctx) (x : Epoch) (i : Nat) (order : List CopyItem), streamsRun s = true →
    mover < 32 → retired s 2 mover = false → Tab.get? s.str.ctxs ctx = some c → (c.state = 2 ∨ c.state = 3) →
    mayServe s mover ctx c = true → c.kind = 0 → isSource c = true →
    s' = onCtx ctx (fun y => { y with mover := some mover }) s →
    openBlock s' ctx = none → epoch? s' c.epoch = some x → nextItem s' x c = some (i, order) → readable s' x c.entry i = true →
    let p := i + plateOf s' (eAddr (entryAt x.list c.entry))
    passantOf s' x.num c.entry p false = none → ((collBank s').mem p = false ∨ isLost x c.entry i = true) →
    windowOpen s' ctx c = true → (x.delta.contains c.entry = true → 2 ≤ slotsFree s') →
    exec (.moverDescriptor mover ctx) s = .next (settleAfter (syncCtx ctx
      (issueReads 17 s'.str.nextBlk mover c.cls (newBlk
        { id := 0, ctx, kind := .enc c.epoch c.entry i, need := 65536, base := itemAddr (entryAt x.list c.entry) i
          lane := freeLane s' [], hold := underHold s' x c.entry i, bad := b2n (isLost x c.entry i) } false
        (setOrder c.epoch order s')))))) ∧
  (∀ (s s' : State) (mover ctx : Nat) (c : Ctx) (j : Job), streamsRun s = true → mover < 32 →
    retired s 2 mover = false → Tab.get? s.str.ctxs ctx = some c → (c.state = 2 ∨ c.state = 3) → mayServe s mover ctx c = true →
    (c.kind = 3 ∨ c.kind = 4) → isSource c = false → s' = onCtx ctx (fun y => { y with mover := some mover }) s →
    openBlock s' ctx = none → (s.str.jobs.find? fun j => j.ctx == ctx) = some j →
    isLight s' { id := 0, ctx, kind := .dec j, need := 0 } = false → windowOpen s' ctx c = true →
    (j.delta = true → 2 ≤ slotsFree s') →
    exec (.moverDescriptor mover ctx) s = .next (settleAfter (syncCtx ctx (startUnit j (freeLane s' []) false
      (onCtx ctx (fun y => { y with cursor := j.places.getLastD (j.first + j.count - 1) + 1 })
        { s' with str.jobs := s.str.jobs.erase j }))))) ∧
  (∀ (s s' : State) (mover ctx : Nat) (c : Ctx) (m : Cmd), streamsRun s = true → mover < 32 →
    retired s 2 mover = false → Tab.get? s.str.ctxs ctx = some c → (c.state = 2 ∨ c.state = 3) → mayServe s mover ctx c = true →
    c.kind = 0 → isSource c = false → s' = onCtx ctx (fun y => { y with mover := some mover }) s →
    openBlock s' ctx = none → c.remain ≠ 0 → windowOpen s' ctx c = true → cmd? s c.q c.seq = some m →
    let n := min 65536 c.remain
    exec (.moverDescriptor mover ctx) s = .next (settleAfter (syncCtx ctx (issueReads 18 s.str.nextBlk mover c.cls (newBlk
      { id := 0, ctx, kind := .raw ((c.cursor - fld m.item 16 8) / 65536), need := n, base := c.cursor, lane := freeLane s' [] } false
      (onCtx ctx (fun y => { y with cursor := c.cursor + n, remain := c.remain - n }) s')))))) ∧
  (∀ (s : State) (k id mover cls : Nat) (b : Blk), blk? s id = some b → b.issued < b.need →
    let a := b.base + b.issued
    let n := min (b.need - b.issued) (4096 - a % 4096)
    (mayRead s mover n = false → issueReads (k + 1) id mover cls s = s) ∧
    (mayRead s mover n = true → issueReads (k + 1) id mover cls s = issueReads k id mover cls
      (onBlk id (fun b => { b with issued := b.issued + n })
        (countStop a n (fabReqBy (some mover) (some b.ctx) b.hold (.source id b.issued) false a n cls [] false s))))) ∧
  (∀ (s : State) (mover ctx : Nat), (32 ≤ mover ∨ retired s 2 mover = true ∨ Tab.get? s.str.ctxs ctx = none ∨
      ∃ c, Tab.get? s.str.ctxs ctx = some c ∧ (c.state ≠ 2 ∧ c.state ≠ 3 ∨ mayServe s mover ctx c = false)) →
    exec (.moverDescriptor mover ctx) s = .next s) ∧
  (∀ s : State, runs s = true → ∃ t, exec .deadlineRecompute s = .next t ∧ t = { s with str.ctxs := t.str.ctxs } ∧
    ∀ i : Nat, Tab.get? t.str.ctxs i = (Tab.get? s.str.ctxs i).map fun (c : Ctx) =>
      if c.cls = 4 ∧ c.state = 2 ∧ c.credit = false then
        let occ := (s.str.blocks.filter fun b => b.ctx == i).foldl (fun a b => a + (blkBytes b).length) 0
        { c with
          deadline := (s.time.core + occ / rate s.time.core c.drains) % 2 ^ 32
          drainDl := (s.time.core + (2 ^ 21 - occ) / rate s.time.core c.fills) % 2 ^ 32 }
      else c) ∧
  (∀ (s : State) (lane e entry k : Nat) (pass : Bool) (w : Wait) (b : Blk) (x : Epoch), streamsRun s = true →
    laneFree s lane = true → laneGrant s lane = some (w, b) → storeClean 0 s → blk? s b.id = some b → b.kind = .enc e entry k →
    epoch? s e = some x → (eCodec (entryAt x.list entry) = 4 → storeClean 12 s) →
    exec (.crucibleBlock lane pass) s =
      .next (serveFilters (settleAfter (encStep lane pass b e entry k (counted (40 + lane) w s))))) ∧
  (∀ (s : State) (lane e entry k : Nat) (b : Blk) (x : Epoch), epoch? s e = some x → eCodec (entryAt x.list entry) ≠ 4 →
    let sub := subBlock s (entryAt x.list entry) b k
    let o := builtinEnc (entryAt x.list entry) e sub.1 (b.anchor.map fun a => slice a.1 0 sub.2.length) sub.2
    encStep lane true b e entry k s = encDone b x entry sub.1 lane sub.2 o.1 o.2 (anchorWorst b) (chargeLanes b s) ∧
    encStep lane false b e entry k s = checkFailed b [lane] (encDone b x entry sub.1 lane sub.2 o.1 o.2 (some (3, 0x0D, 2))) s) ∧
  (∀ (s : State) (lane : Nat) (pass : Bool) (w : Wait) (b : Blk) (j : Job), streamsRun s = true → laneFree s lane = true →
    laneGrant s lane = some (w, b) → storeClean 0 s → blk? s b.id = some b → b.kind = .dec j → (j.codec = 4 → storeClean 12 s) →
    exec (.crucibleBlock lane pass) s =
      .next (serveFilters (settleAfter (decStep (some lane) pass b j (counted (40 + lane) w s))))) ∧
  (∀ (s : State) (lane : Nat) (pass : Bool), (laneFree s lane = false ∨ laneGrant s lane = none) →
    exec (.crucibleBlock lane pass) s = .next s)

/-- SECTOR_SEAL: the payload handed over first is sealed under the epoch's data key and leaves the unit, to its vault, to
escrow when another replica writes it, or, of the seal record, to the vault and into the header that waits; a failed self-
check leaves it to be sealed again and raises SEAL_RETRY, four times at most (R191, R193, R194). Without room in escrow it
waits and raises ESCROW_WAIT (R265). A key that is gone abandons the epoch with KEY_ABSENT (R211, R212). SEAL_RECORD_WRITE
issues the seal header once, when its sector is sealed and R32 and R268 hold (R282). -/
def Obligations.Sealing : Prop :=
  (∀ (s : State) (j : SealJob) (rest : List SealJob) (x : Epoch) (v : Vault) (a : Layout), runs s = true → storeClean 13 s →
    s.pun.jobs = j :: rest → j.failed = [] → epoch? s j.epoch = some x → epochVault s x = some (v, a) →
    keyBad s (hDataKey x.list) 2 none = none →
    let n := jobSector v a x j
    (j.kind ≠ 5 → (mine x.list (entryAt x.list j.entry) n = true ∨ escrowUsed s < escrowSlots s) →
      exec (.sectorSeal none) s = .next (serveFilters (sealRelease x v j n
        (sealedSector (keyBytes s (hDataKey x.list)) (hVault x.list) n j.epoch
          (sectorHeader j.kind j.bad (hDataKey x.list) (hHmac x.list) j.epoch (eStream (entryAt x.list j.entry)) j.isector)
          j.payload) { s with pun.jobs := rest }))) ∧
    (j.kind = 5 → exec (.sectorSeal none) s = .next (serveFilters (releaseSeal x v j n
        (sealedSector (keyBytes s (hDataKey x.list)) (hVault x.list) n x.num
          (sectorHeader 5 false (hDataKey x.list) (hHmac x.list) x.num 0 j.isector) j.payload) { s with pun.jobs := rest }))) ∧
    (j.kind ≠ 5 → mine x.list (entryAt x.list j.entry) n = false → escrowSlots s ≤ escrowUsed s → j.waited = false →
      exec (.sectorSeal none) s = .next (serveFilters (raise0 0x080A 1 j.epoch
        { s with pun.jobs := { j with waited := true } :: rest })))) ∧
  (∀ (s : State) (x : Epoch) (v : Vault) (j : SealJob) (n : Nat) (b : Bytes), j.bad = false → j.isector = 0 →
    releaseSeal x v j n b s = onEpoch x.num (fun y => { y with sealedHdr := b }) s) ∧
  (∀ (s : State) (j : SealJob) (rest : List SealJob) (k i : Nat), runs s = true → s.pun.jobs = j :: rest →
    (k = 4 ∨ k = 5 ∨ k = 6) → i < kindCount k → retired s k i = false → j.failed.length < 4 →
    ∃ u, exec (.sectorSeal (some (k, i))) s = .next (serveFilters u) ∧
      u.pun.jobs = { j with failed := j.failed ++ [(k, i)] } :: rest ∧
      (u.cap.epochs = s.cap.epochs ∧ u.ldg = s.ldg ∧ u.out.fab = s.out.fab ∧ u.str = s.str)) ∧
  (∀ (s : State) (j : SealJob) (rest : List SealJob) (x : Epoch) (v : Vault) (a : Layout) (o : Nat), runs s = true →
    storeClean 13 s → s.pun.jobs = j :: rest → epoch? s j.epoch = some x → epochVault s x = some (v, a) →
    keyBad s (hDataKey x.list) 2 none = some o →
    exec (.sectorSeal none) s = .next (serveFilters (abandonEpoch j.epoch (0x0E, 0) { s with pun.jobs := rest }))) ∧
  (∀ (s : State) (e : Nat) (x : Epoch) (v : Vault) (a : Layout), runs s = true → epoch? s e = some x → x.phase = 4 →
    x.sealIssued = false → x.sealSent ≤ x.sealAcked → x.sealedHdr ≠ [] → replicasDone s x = true →
    epochVault s x = some (v, a) → writerRecords x ≤ 2048 → fld x.header 36 2 = x.disputes.length →
    exec (.sealRecordWrite e) s = .next (writeSector (hVault x.list) v (tailBase v a e (hIx x.list)) e x.sealedHdr (.sealHdr e)
      { tag := 0, peer := 0, mtype := 0x10, msg := [], epoch := e, entry := sealMark 1, isectors := [0] } 0 0
      (onEpoch e (fun y => { y with sealIssued := true }) s))) ∧
  (∀ (s : State) (e : Nat) (x : Epoch), epoch? s e = some x →
    (x.phase ≠ 4 ∨ x.sealIssued = true ∨ x.sealedHdr = [] ∨ x.sealAcked < x.sealSent ∨ replicasDone s x = false) →
    exec (.sealRecordWrite e) s = .next s)

/-! ### Spill links (R241 to R251) -/

/-- PHY_TRAINING_DONE takes a training port to FEC lock with the lanes that trained; CODEWORD_LOCK of the last lane takes it
to alignment, and losing lock on a lane that carries blocks takes the link down with three uncorrectable codewords counted
(R242, R248, R250). ALIGN_DUE sends ALIGN with the count on every working lane, and a changed MASK applies from it; a
received ALIGN counts consistent intervals, and with every lane of the mask aligned the port learns its partner and goes on
to link initialization, or stops with LINK_ERROR when the partner is this device or is not listed there (R243, R244, R250).
More than 64 codewords lost on a lane within 1 ms retire it (R248). That losing lock counts three codewords at once is the
model's choice: log entry 143. -/
def Obligations.LinkTraining : Prop :=
  (∀ (s : State) (p : Nat) (x : Port) (failed : List Nat), up s = true → port? s p = some x → x.state = 1 →
    (∀ l ∈ failed, ∀ o, Tab.get? x.lanes l = some o → o.trainFails = 0) → (∃ l ∈ workLanes s p, l ∉ failed) →
    ∃ t, exec (.phyTrainingDone p failed) s = .next t ∧ t = { s with spl.ports := t.spl.ports } ∧
      (∀ k, k ≠ p → port? t k = port? s k) ∧
      ∃ y, port? t p = some y ∧ y.state = 2 ∧ y.mask = maskFrom ((workLanes s p).filter fun l => !failed.contains l) ∧
        y = { x with state := 2, mask := y.mask, newMask := y.mask, lanes := y.lanes } ∧
        ∀ l ∈ workLanes s p, Tab.get? y.lanes l = some { trainFails := if l ∈ failed then 1 else 0 }) ∧
  (∀ (s : State) (p : Nat) (failed : List Nat), (∀ x, port? s p = some x → x.state ≠ 1) →
    exec (.phyTrainingDone p failed) s = .next s) ∧
  (∀ (s : State) (p l : Nat) (x : Port), up s = true → port? s p = some x → 2 ≤ x.state → x.state ≠ 7 → l < 4 →
    ∃ t, exec (.codewordLock p l true) s = .next t ∧ t = { s with spl.ports := t.spl.ports } ∧
      (∀ k, k ≠ p → port? t k = port? s k) ∧
      ∃ y, port? t p = some y ∧
        y = { x with
          state := y.state
          lanes := Tab.put x.lanes l { (Tab.get? x.lanes l).getD {} with lock := true, align := none, good := 0 } } ∧
        (x.state ≠ 2 → y.state = x.state) ∧
        (x.state = 2 → (∀ k ∈ workLanes s p, k ≠ l → x.mask.testBit k = true → ∃ o, Tab.get? x.lanes k = some o ∧ o.lock = true) →
          y.state = 3) ∧
        (x.state = 2 → (∃ k ∈ workLanes s p, k ≠ l ∧ x.mask.testBit k = true ∧ ∀ o, Tab.get? x.lanes k = some o → o.lock = false) →
          y.state = 2)) ∧
  (∀ (s : State) (p l : Nat) (x : Port) (o : RxLane), up s = true → port? s p = some x → 3 ≤ x.state → x.state ≠ 7 → l < 4 →
    Tab.get? x.lanes l = some o → o.lock = true → (∀ a, o.align = some a → x.rxMask.testBit a.1 = true) →
    (x.lost.filter fun e => e.1 == l && decide (s.time.aon < e.2 + 100000)).length ≤ 61 →
    ∃ t, exec (.codewordLock p l false) s = .next t ∧ t.spl.uncorr = min 0xFFFFFFFF (s.spl.uncorr + 3) ∧
      (∃ y, port? t p = some y ∧ y.state = 2 ∧ y.unacked = x.unacked ∧ y.queued = x.queued ∧
        y.lost = (x.lost.filter fun e => decide (s.time.aon < e.2 + 100000)) ++ List.replicate 3 (l, s.time.aon) ∧
        ∃ n, Tab.get? y.lanes l = some n ∧ n.lock = false) ∧
      (∀ k, k ≠ p → port? t k = port? s k) ∧ (t.ldg = s.ldg ∧ t.cap = s.cap ∧ t.str = s.str)) ∧
  (∀ (s : State) (p l : Nat) (x : Port) (o : RxLane), up s = true → port? s p = some x → 3 ≤ x.state → x.state ≠ 7 → l < 4 →
    Tab.get? x.lanes l = some o → o.lock = true → (∀ a, o.align = some a → x.rxMask.testBit a.1 = true) →
    61 < (x.lost.filter fun e => e.1 == l && decide (s.time.aon < e.2 + 100000)).length →
    ∃ t, exec (.codewordLock p l false) s = .next t ∧ t.spl.uncorr = min 0xFFFFFFFF (s.spl.uncorr + 3) ∧
      retired t 0 (4 * p + l) = true) ∧
  (∀ (s : State) (p : Nat) (x : Port), up s = true → port? s p = some x → 2 ≤ x.state → x.state ≠ 7 →
    ∃ t, exec (.alignDue p) s = .next t ∧ t = { s with spl.ports := t.spl.ports } ∧ (∀ k, k ≠ p → port? t k = port? s k) ∧
      port? t p = some { x with
        mask := x.newMask
        count := (x.count + 1) % 2 ^ 32
        aligns := (workLanes s p).map fun l => (l, ctlBlock ([2] ++ toLE 1 l ++ toLE 1 x.newMask ++ toLE 1 p ++
          toLE 4 (selfDev s) ++ toLE 4 x.count ++ zeros 16)) }) ∧
  (∀ (s : State) (p l : Nat) (b : Bytes) (x : Port) (o : RxLane), up s = true → port? s p = some x → ctlOk 2 b = true →
    3 ≤ x.state → x.state ≠ 7 → Tab.get? x.lanes l = some o → o.lock = true →
    let good := if o.align = some (fld b 1 1, fld b 4 4 % 2 ^ 18, (fld b 8 4 + 2 ^ 32 - 1) % 2 ^ 32) then o.good + 1 else 1
    let f := fun (z : Port) => { z with
      lanes := Tab.put z.lanes l { o with align := some (fld b 1 1, fld b 4 4 % 2 ^ 18, fld b 8 4), good }
      rxMask := if (fld b 2 1 % 16).testBit (fld b 1 1) = true then fld b 2 1 % 16 else z.rxMask }
    let y := f x
    ((x.state = 5 ∨ x.state = 6 ∨ (x.state = 4 ∧ x.acked = false) ∨
        (x.state = 3 ∧ aligned y y.rxMask (fld b 4 4 % 2 ^ 18) (fld b 8 4) = false ∧ x.acked = false)) →
      exec (.align p l b) s = .next (onPort p f s)) ∧
    (x.state = 3 → aligned y y.rxMask (fld b 4 4 % 2 ^ 18) (fld b 8 4) = true → fld b 4 4 % 2 ^ 18 ≠ selfDev s →
      (directPeers s p).contains (fld b 4 4 % 2 ^ 18) = true →
      exec (.align p l b) s = .next (onPort p (fun z => { f z with partner := fld b 4 4 % 2 ^ 18, state := 4 }) s)) ∧
    (x.state = 3 → aligned y y.rxMask (fld b 4 4 % 2 ^ 18) (fld b 8 4) = true →
      (fld b 4 4 % 2 ^ 18 = selfDev s ∨ (directPeers s p).contains (fld b 4 4 % 2 ^ 18) = false) →
      ∃ t z, exec (.align p l b) s = .next t ∧ port? t p = some z ∧ z.state = 7)) ∧
  (∀ (s : State) (p l : Nat) (b : Bytes), ctlOk 2 b = false → exec (.align p l b) s = .next s)

/-- The leader of a port in link initialization sends LINIT with its limits; the follower takes its mask and limits and
answers LINIT_ACK; the leader's link is then up, and the messages of frames not acknowledged wait in front of the others
(R248, R251). A block with a wrong CRC does nothing. -/
def Obligations.LinkInitialization : Prop :=
  (∀ (s : State) (p : Nat) (x : Port), up s = true → port? s p = some x → x.state = 4 → selfDev s < x.partner →
    exec (.linitRepeat p) s = .next (onPort p (fun y => { y with ctl := y.ctl ++ [ctlBlock ([0x30] ++
      toLE 1 (firstMask s p x) ++ zeros 2 ++ toLE 4 (selfDev s) ++ limitBytes x.given)] }) s)) ∧
  (∀ (s : State) (p : Nat), (∀ x, port? s p = some x → x.state ≠ 4 ∨ x.partner ≤ selfDev s) →
    exec (.linitRepeat p) s = .next s) ∧
  (∀ (s : State) (p : Nat) (b : Bytes) (x : Port), up s = true → port? s p = some x → ctlOk 0x30 b = true →
    fld b 4 4 = x.partner → x.partner < selfDev s → x.state = 4 → x.acked = false →
    exec (.linit p b) s = .next (onPort p (fun y => { y with
      cred := [fld b 8 4, fld b 12 4, fld b 16 4, fld b 20 4]
      mask := fld b 1 1 % 16
      newMask := fld b 1 1 % 16
      rxMask := fld b 1 1 % 16
      acked := true
      ctl := y.ctl ++ [ctlBlock ([0x31, 0, 0, 0] ++ toLE 4 (selfDev s) ++ limitBytes x.given)] }) s)) ∧
  (∀ (s : State) (p : Nat) (b : Bytes) (x : Port), up s = true → port? s p = some x → ctlOk 0x31 b = true →
    fld b 4 4 = x.partner → selfDev s < x.partner → x.state = 4 →
    exec (.linitAck p b) s = .next (linkUp p (onPort p (fun y => { y with
      cred := [fld b 8 4, fld b 12 4, fld b 16 4, fld b 20 4]
      mask := firstMask s p x
      newMask := firstMask s p x
      rxMask := firstMask s p x }) s))) ∧
  (∀ (s : State) (p : Nat) (x : Port), port? s p = some x → directPeers s p = [] →
    ∃ y, port? (linkUp p s) p = some y ∧ y = { x with
      state := 5, fseq := 0, expect := 0, sent := [0, 0, 0, 0], given := [256, 8204, 16408, 8204], nakSent := false
      acked := false, unacked := [], queued := x.unacked.map lostFrame ++ x.queued }) ∧
  (∀ (s : State) (p : Nat) (b : Bytes), ctlOk 0x30 b = false → exec (.linit p b) s = .next s) ∧
  (∀ (s : State) (p : Nat) (b : Bytes), ctlOk 0x31 b = false → exec (.linitAck p b) s = .next s)

/-- On a link that is up: a frame in order whose CRC is good is accepted and acknowledged at once; any other, one with a bad
FRAME block among them, is answered NAK once and discarded; an LCTL frees the frames up to the one it names and carries the
credit limits; LCTL_DUE sends one; an LCTL that has not gone yet is taken in by the next; frames not acknowledged in time
are due to be sent again in order, counted, and one sent nine times makes the port retrain (R245 to R248). A stripe position
carries the first control block that may go, else the frame in progress, else a frame to be resent, else a new one, else
IDLE (R249). That every accepted frame is acknowledged at once is the model's choice: log entry 112. -/
def Obligations.Frames : Prop :=
  (∀ (s : State) (p : Nat) (b d : Bytes) (x : Port), up s = true → port? s p = some x → isUp x = true → ctlOk 0x10 b = true →
    fld b 4 4 = x.expect → d.length = 32 * fld b 2 2 → crcN d = fld b 8 4 → 64 ≤ mLen d → mLen d ≤ d.length →
    knownType (mType (d.take (mLen d))) = true →
    exec (.frame p b d) s = .next (onPort p (fun y => putLctl false { y with
      expect := (y.expect + 1) % 2 ^ 32
      nakSent := false
      rx := y.rx ++ [d.take (mLen d)] }) s)) ∧
  (∀ (s : State) (p : Nat) (b d : Bytes) (x : Port), up s = true → port? s p = some x → isUp x = true →
    (ctlOk 0x10 b = false ∨ fld b 4 4 ≠ x.expect ∨ d.length ≠ 32 * fld b 2 2 ∨ crcN d ≠ fld b 8 4) →
    (x.nakSent = true → exec (.frame p b d) s = .next s) ∧
    (x.nakSent = false → exec (.frame p b d) s = .next (onPort p (fun y => putLctl true { y with nakSent := true }) s))) ∧
  (∀ (s : State) (p : Nat) (x : Port), up s = true → port? s p = some x → isUp x = true →
    exec (.lctlDue p) s = .next (onPort p (putLctl false) s)) ∧
  (∀ (nak : Bool) (x : Port), (∀ b ∈ x.ctl, fld b 0 1 ≠ 0x20) → putLctl nak x = { x with
    ctl := x.ctl ++ [ctlBlock ([0x20, if nak then 1 else 0, 0, 0] ++ toLE 4 ((x.expect + 2 ^ 32 - 1) % 2 ^ 32) ++ limitBytes x.given)] }) ∧
  (∀ (nak : Bool) (x : Port), ((putLctl nak x).ctl.filter fun b => fld b 0 1 == 0x20) =
    [ctlBlock ([0x20, if nak = true ∨ (∃ b ∈ x.ctl, fld b 0 1 = 0x20 ∧ bit (fld b 1 1) 0 = true) then 1 else 0, 0, 0] ++
      toLE 4 ((x.expect + 2 ^ 32 - 1) % 2 ^ 32) ++ limitBytes x.given)]) ∧
  (∀ (s : State) (p : Nat) (x : Port), up s = true → port? s p = some x → isUp x = true → x.unacked ≠ [] →
    (∀ f ∈ x.unacked, f.sends < 9) →
    exec (.frameResendTimeout p) s = .next (settleAfter (onPort p (fun y => { y with
      unacked := y.unacked.map fun f => { f with sends := f.sends + 1 }
      again := y.unacked.map (·.fseq) })
      { s with spl.replays := min 0xFFFFFFFF (s.spl.replays + x.unacked.length) }))) ∧
  (∀ (s : State) (p : Nat) (x : Port), up s = true → port? s p = some x → isUp x = true → (∃ f ∈ x.unacked, 9 ≤ f.sends) →
    exec (.frameResendTimeout p) s = .next (settleAfter (retrain p s))) ∧
  (∀ (s : State) (p : Nat) (b : Bytes) (x : Port) (f : TxFrame) (rest : List TxFrame), up s = true → port? s p = some x →
    isUp x = true → ctlOk 0x20 b = true → x.unacked = f :: rest → fld b 4 4 = f.fseq → (∀ g ∈ rest, g.fseq ≠ f.fseq) →
    mType f.msg ≠ 0x30 → fld b 1 1 % 2 = 0 →
    exec (.lctl p b) s = .next (settleAfter (settleDeletes (onPort p (fun y => { y with
      cred := [fld b 8 4, fld b 12 4, fld b 16 4, fld b 20 4]
      unacked := y.unacked.drop 1 }) s)))) ∧
  (∀ (s : State) (p : Nat) (b : Bytes), ctlOk 0x20 b = false → exec (.lctl p b) s = .next s) ∧
  (∀ (s : State) (p : Port) (b : Bytes), p.ctl.find? (mayGo p) = some b →
    (nextBlock s p).1 = (true, b) ∧ (nextBlock s p).2.ctl = p.ctl.erase b ∧ (nextBlock s p).2.tx = p.tx) ∧
  (∀ (s : State) (p : Port) (b : Bytes) (rest : List Bytes), p.ctl.find? (mayGo p) = none → p.tx = b :: rest →
    (nextBlock s p).1 = (false, b) ∧ (nextBlock s p).2.tx = rest ∧ (nextBlock s p).2.unacked = p.unacked) ∧
  (∀ (s : State) (p : Port) (f : Nat) (rest : List Nat) (x : TxFrame), p.ctl.find? (mayGo p) = none → p.tx = [] → p.state = 5 →
    p.again = f :: rest → (p.unacked.find? fun y => y.fseq == f) = some x →
    ∃ tl, frameBlocksOf x.vc x.fseq x.msg = (nextBlock s p).1.2 :: tl ∧ (nextBlock s p).1.1 = true ∧ (nextBlock s p).2.tx = tl ∧
      (nextBlock s p).2.again = rest ∧ (nextBlock s p).2.unacked = p.unacked ∧ (nextBlock s p).2.fseq = p.fseq) ∧
  (∀ (s : State) (p : Port) (m : OutMsg), p.ctl.find? (mayGo p) = none → p.tx = [] → p.state = 5 → p.again = [] →
    nextMsg s p = some m →
    ∃ tl, frameBlocksOf m.vc p.fseq m.msg = (nextBlock s p).1.2 :: tl ∧ (nextBlock s p).1.1 = true ∧ (nextBlock s p).2.tx = tl ∧
      (nextBlock s p).2.unacked = p.unacked ++ [{ vc := m.vc, msg := m.msg, cls := m.cls, ctx := m.ctx, fseq := p.fseq }] ∧
      (nextBlock s p).2.fseq = (p.fseq + 1) % 2 ^ 32) ∧
  (∀ (s : State) (p : Port), p.ctl.find? (mayGo p) = none → p.tx = [] → (p.state ≠ 5 ∨ (p.again = [] ∧ nextMsg s p = none)) →
    (nextBlock s p).1 = (true, ctlBlock ([1] ++ zeros 27)))

/-! ### Transaction messages (R254 to R268) -/

/-- A message row takes the oldest message of its type from its port. One whose sender is not listed is counted; one of a
lower generation than expected is dropped as fenced; one whose header breaks R257 is refused; with none waiting nothing
happens (R257, R262). HELLO and HELLO_ACK: the claims are compared; the loser marks the link CONFLICT, the winner answers
CONFLICT, and with equal claims a direct peer becomes ready (R254, R255). FENCE and FENCED put the device into the fenced
state when they carry a generation above its own (R263). What an unlisted sender gets, and that the loser of a claim sends
no HELLO_ACK, are the model's choice: log entries 113 and 117. -/
def Obligations.MessagesAndFencing : Prop :=
  (∀ (i : Instr) (mtype p : Nat) (s : State), messageRow i = some (mtype, p) →
    (∀ x, port? s p = some x → ∀ m ∈ x.rx, mType m ≠ mtype) → exec i s = .next s) ∧
  (∀ (i : Instr) (mtype p : Nat) (m : Bytes) (s : State), messageRow i = some (mtype, p) → txRuns s = true →
    waitsOn mtype p m s → topoDev s (mSrc m) = none → mtype ≠ 1 →
    exec i s = .next { unbuffered p m s with spl.refused := min 0xFFFFFFFF (s.spl.refused + 1) }) ∧
  (∀ (i : Instr) (mtype p : Nat) (m : Bytes) (s : State), messageRow i = some (mtype, p) → txRuns s = true →
    waitsOn mtype p m s → (topoDev s (mSrc m)).isSome = true → mGen m < expectedGen s (mSrc m) →
    (∃ t0, Tab.get? s.spl.fencedAt (mSrc m) = some t0 ∧ s.time.aon < t0 + 100000) →
    exec i s = .next (raise0 0x0806 1 (mSrc m + 2 ^ 32 * mGen m)
      { unbuffered p m s with spl.fenceDrops := min 0xFFFFFFFF (s.spl.fenceDrops + 1) })) ∧
  (∀ (i : Instr) (mtype p : Nat) (m : Bytes) (s : State), messageRow i = some (mtype, p) → txRuns s = true →
    waitsOn mtype p m s → (topoDev s (mSrc m)).isSome = true → expectedGen s (mSrc m) = mGen m → headerOk s m = false →
    exec i s = .next (refuseMsg p m (taken p m s))) ∧
  (∀ (s : State) (p : Nat) (m : Bytes), arrives 1 p m s → claimLoses s.adm.ringGen s.adm.coord (fld m 68 4) (fld m 72 4) = false →
    let u := { taken p m s with
      spl.peers := Tab.upd (taken p m s).spl.peers (mSrc m) fun x => { x with ringGen := fld m 68 4, coord := fld m 72 4 } }
    exec (.hello p) s = .next (settleAfter (sendOn p {
      mtype := 2, status := if claimLoses (fld m 68 4) (fld m 72 4) s.adm.ringGen s.adm.coord = true then 9 else 0
      dst := mSrc m, tag := mTag m, body := helloBody u (mSrc m) } u))) ∧
  (∀ (s : State) (p : Nat) (m : Bytes), arrives 1 p m s → claimLoses s.adm.ringGen s.adm.coord (fld m 68 4) (fld m 72 4) = true →
    exec (.hello p) s = .next (settleAfter (markConflict p (mSrc m) (fld m 68 4) (fld m 72 4) (taken p m s)))) ∧
  (∀ (s : State) (p : Nat) (m : Bytes) (x : Peer), arrives 2 p m s → mStatus m = 0 → fld m 68 4 = s.adm.ringGen →
    fld m 72 4 = s.adm.coord → Tab.get? s.spl.peers (mSrc m) = some x → x.ready = false →
    hopOf s (mSrc m) = mSrc m →
    exec (.helloAck p) s = .next (settleAfter (resendDurable (mSrc m) (raise0 0x0804 0 (mSrc m + 2 ^ 18 * p)
      { taken p m s with spl.peers := Tab.upd (taken p m s).spl.peers (mSrc m) fun x => { x with
          ringGen := fld m 68 4, coord := fld m 72 4, ready := true, conflict := false, port := p } })))) ∧
  (∀ (s : State) (p : Nat) (m : Bytes), arrives 2 p m s → mStatus m = 9 →
    exec (.helloAck p) s = .next (settleAfter (markConflict p (mSrc m) (fld m 68 4) (fld m 72 4) (taken p m s)))) ∧
  (∀ (p d g c : Nat) (s : State) (x : Port), port? s p = some x →
    ∃ y, port? (markConflict p d g c s) p = some y ∧ y.state = (if x.state = 5 then 6 else x.state)) ∧
  (∀ (s : State) (p : Nat) (m : Bytes), arrives 3 p m s →
    exec (.fence p) s = .next (settleAfter (enterFenced (mSrc m) (mArg m % 2 ^ 32) (taken p m s)))) ∧
  (∀ (s : State) (p : Nat) (m : Bytes), arrives 4 p m s →
    exec (.fenced p) s = .next (settleAfter (enterFenced (mSrc m) (mArg m % 2 ^ 32) (taken p m s)))) ∧
  (∀ (s : State) (d g : Nat), g ≤ s.adm.selfGen → enterFenced d g s = s) ∧
  (∀ (s : State) (d g : Nat), s.adm.selfGen < g → s.adm.fenced = false → (∀ x ∈ s.spl.ports, x.2.queued = []) →
    (∀ x ∈ s.cap.epochs, unresolved x.2 = false) → s.str.ctxs = [] → s.str.starts = [] → s.spl.reqs = [] →
    enterFenced d g s = raise0 0x0807 2 (d + 2 ^ 32 * g) { s with adm.fenced := true, adm.fenceBy := g })

/-- VAULT_OPEN of an exported vault opens it for its sender, VAULT_CLOSE closes it, and VAULT_REPLY ends the command that
waits for it (R261). SECTOR_READ answers with the sectors of an open vault; SECTOR_WRITE writes those that pass their check,
and its answer waits for the writes; SECTOR_ACK and SECTOR_DATA end the request they answer (R259, R309). -/
def Obligations.VaultMessages : Prop :=
  (∀ (s : State) (p : Nat) (m : Bytes) (v : Vault), arrives 8 p m s → exported s m = some v → mArg m ≤ vSectors v →
    isOpen s m = false →
    exec (.vaultOpen p) s = .next (settleAfter (reply m { mtype := 0xA, dst := 0, vault := mVault m }
      { taken p m s with spl.opens := s.spl.opens ++ [(mVault m, mSrc m)] }))) ∧
  (∀ (s : State) (p : Nat) (m : Bytes), arrives 8 p m s → (exported s m = none ∨ ∃ v, exported s m = some v ∧ vSectors v < mArg m) →
    exec (.vaultOpen p) s = .next (settleAfter (reply m { mtype := 0xA, status := 3, dst := 0, vault := mVault m } (taken p m s)))) ∧
  (∀ (s : State) (p : Nat) (m : Bytes), arrives 9 p m s →
    exec (.vaultClose p) s = .next (settleAfter (reply m { mtype := 0xA, dst := 0, vault := mVault m }
      { taken p m s with spl.opens := s.spl.opens.filter fun o => o != (mVault m, mSrc m) }))) ∧
  (∀ (s : State) (p : Nat) (m : Bytes) (r : Req) (q seq : Nat) (c : Cmd), arrives 0xA p m s → s.spl.reqs = [r] →
    r.tag = mTag m → r.peer = mSrc m → (r.mtype = 8 ∨ r.mtype = 9) → r.owner = some (q, seq) → cmd? s q seq = some c →
    mStatus m ≠ 3 →
    exec (.vaultReply p) s = .next (settleAfter (vaultReplied c (mStatus m) 0 { taken p m s with spl.reqs := [] }))) ∧
  (∀ (s : State) (p : Nat) (m : Bytes) (v : Vault) (sectors : Tab Bytes), arrives 0x12 p m s → exported s m = some v →
    isOpen s m = true → (∀ n ∈ msgSectors m, n < vSectors v) →
    exec (.sectorRead p sectors) s = .next (settleAfter (reply m { mtype := 0x13, dst := 0, count := mCount m, sector := mSector m
                                                                   stride := mStride m, body := (msgSectors m).flatMap fun n =>
                                                                     slice (Tab.getD sectors n []) 0 4096, cls := 5 }
      (each (msgSectors m) (fun n => readCtl (vBase v + 4096 * n) (vTdid v) 4096 5) (taken p m s))))) ∧
  (∀ (s : State) (p : Nat) (m : Bytes) (sectors : Tab Bytes), arrives 0x12 p m s → (exported s m = none ∨ isOpen s m = false) →
    exec (.sectorRead p sectors) s = .next (settleAfter (reply m { mtype := 0x13, status := 3, dst := 0 } (taken p m s)))) ∧
  (∀ (s : State) (p : Nat) (m : Bytes) (v : Vault), arrives 0x10 p m s → exported s m = some v → isOpen s m = true →
    (∀ n ∈ msgSectors m, n < vSectors v) → mCount m = 1 → arrivedOk m 0 = true →
    (∀ w ∈ s.spl.rxWrites, ¬(w.1 = mSrc m ∧ w.2.1 = mTag m)) →
    exec (.sectorWrite p) s = .next (settleAfter (hbSector (.peerSec (mSrc m) (mTag m) 0) (vBase v + 4096 * mSector m) (vTdid v)
      (mSector m) 4 none (msgSector m 0) { taken p m s with spl.rxWrites := s.spl.rxWrites ++ [(mSrc m, mTag m, 1, 0)] }))) ∧
  (∀ (s : State) (p : Nat) (m : Bytes) (v : Vault), arrives 0x10 p m s → exported s m = some v → isOpen s m = true →
    (∀ n ∈ msgSectors m, n < vSectors v) → mCount m = 1 → arrivedOk m 0 = false →
    exec (.sectorWrite p) s = .next (settleAfter (send { mtype := 0x11, status := 0x0C, dst := mSrc m, tag := mTag m, arg := 1 }
      (taken p m s)))) ∧
  (∀ (s : State) (p : Nat) (m : Bytes) (r : Req), arrives 0x11 p m s → s.spl.reqs = [r] → r.tag = mTag m → r.peer = mSrc m →
    r.mtype = 0x10 → mStatus m = 0 →
    exec (.sectorAck p) s = .next (settleAfter (each r.isectors (reqSectorAcked r) { taken p m s with spl.reqs := [] }))) ∧
  (∀ (s : State) (p : Nat) (fails : List (Nat × Nat)) (m : Bytes) (r : Req), arrives 0x13 p m s → s.spl.reqs = [r] → r.tag = mTag m → r.peer = mSrc m →
    r.mtype = 0x12 → mStatus m = 0 → mCount m = r.isectors.length →
    exec (.sectorData p fails) s = .next (settleAfter (withChecks fails (fun u => each
      ((List.range r.isectors.length).map fun k => (k, r.isectors.getD k 0))
      (fun x => sectorArrives r.entry x.2 r.again (msgSector m x.1)) { u with spl.reqs := [] }) (taken p m s)))) ∧
  (∀ (s : State) (p : Nat) (fails : List (Nat × Nat)) (m : Bytes) (r : Req), arrives 0x13 p m s → s.spl.reqs = [r] →
    r.tag = mTag m → r.peer = mSrc m → r.mtype = 0x12 → mStatus m ≠ 0 →
    exec (.sectorData p fails) s = .next (settleAfter (withChecks fails (fun u => each
      ((List.range r.isectors.length).map fun k => (k, r.isectors.getD k 0))
      (fun x => keepSector r.entry x.2 [] 1) { u with spl.reqs := [] }) (taken p m s))))

/-- DIGEST whose digests all find a sector already sealed is answered with a verdict for each; a DIGEST of a sector not yet
sealed is kept with it (R266); one that came under another epoch number than the sector's own is a difference (R196).
DIGEST_VERDICT clears, disputes or defers each digest sent (R266, R267). A tiding is delivered once (R260). A request that
is not answered is sent again with its TAG, and after eight sends its peer is lost and every request to it ends (R258);
HELLO goes again to a direct peer that is not ready (R254); a digest answered LATER goes again after 1 ms (R266). -/
def Obligations.DigestsAndResending : Prop :=
  (∀ (s : State) (p : Nat) (m own : Bytes) (devs : List Nat), arrives 0x20 p m s → s.pun.digMsgs = [] → s.pun.stored = [] →
    mCount m = 1 → verdictOf s (mSrc m) (mSector m) (mEpoch m) = none →
    Tab.get? s.pun.own (mSector m) = some (mEpoch m, own, devs) →
    let u := compareDigest (mSrc m) (mSector m) (mEpoch m) (mEpoch m) own (slice m 64 32) (taken p m s)
    exec (.digestMessage p) s = .next (settleAfter (answerDigest m { u with pun.digMsgs := [] })) ∧
    u.spl.given = s.spl.given ++ [(mSrc m, mSector m, mEpoch m, if own = slice m 64 32 then 0 else 1)] ∧
    (own = slice m 64 32 → u.asy = s.asy ∧ u.cap = s.cap)) ∧
  (∀ (s : State) (p e : Nat) (m own : Bytes) (devs : List Nat) (x : Epoch), arrives 0x20 p m s → s.pun.digMsgs = [] →
    s.pun.stored = [] → mCount m = 1 → verdictOf s (mSrc m) (mSector m) (mEpoch m) = none →
    Tab.get? s.pun.own (mSector m) = some (e, own, devs) → e ≠ mEpoch m → epoch? s (mEpoch m) = none → epoch? s e = some x →
    unresolved x = true → mSrc m ∉ devs →
    let u := compareDigest (mSrc m) (mSector m) (mEpoch m) e own (slice m 64 32) (taken p m s)
    exec (.digestMessage p) s = .next (settleAfter (answerDigest m { u with pun.digMsgs := [] })) ∧
    u.spl.given = s.spl.given ++ [(mSrc m, mSector m, mEpoch m, 1)] ∧ ∃ y, epoch? u e = some y ∧ y.diverged = true) ∧
  (∀ (s : State) (p : Nat) (m : Bytes), arrives 0x20 p m s → s.pun.digMsgs = [] → s.pun.stored = [] → mCount m = 1 →
    verdictOf s (mSrc m) (mSector m) (mEpoch m) = none → Tab.get? s.pun.own (mSector m) = none →
    ((epoch? s (mEpoch m)).any fun x => !unresolved x) = false → s.pun.escrow.length + 1 ≤ escrowSlots s →
    exec (.digestMessage p) s = .next (settleAfter { taken p m s with
      pun.stored := [⟨mSector m, mSrc m, mTag m, mEpoch m, slice m 64 32⟩]
      pun.digMsgs := [m] })) ∧
  (∀ (s : State) (p : Nat) (m : Bytes) (r : Req), arrives 0x21 p m s → s.spl.reqs = [r] → r.tag = mTag m → r.peer = mSrc m →
    r.mtype = 0x20 → mStatus m = 0 → mCount r.msg = 1 →
    let n := mSector r.msg
    let u := { taken p m s with spl.reqs := [] }
    let gone := fun (s : State) => { s with
      pun.sentDig := s.pun.sentDig.filter fun d => !(d.1 == r.epoch && d.2.1 == n)
      pun.later := s.pun.later.filter fun d => !(d.1 == r.epoch && d.2.1 == n) }
    (fld m 64 1 % 4 = 0 → exec (.digestVerdict p) s = .next (settleAfter { gone u with pun.escrow := Tab.del s.pun.escrow n })) ∧
    (fld m 64 1 % 4 = 1 → exec (.digestVerdict p) s = .next (settleAfter (differ (mSrc m) r.epoch n (gone u)))) ∧
    (2 ≤ fld m 64 1 % 4 → ∃ v, exec (.digestVerdict p) s = .next (settleAfter v) ∧ v.pun.escrow = s.pun.escrow ∧
      (∃ w, (r.epoch, n, w, s.time.aon) ∈ v.pun.later) ∧ v.pun.sentDig = s.pun.sentDig)) ∧
  (∀ (s : State) (p : Nat) (m : Bytes), arrives 0x30 p m s → fld m 64 1 = 0 →
    Tab.getD s.spl.tidHigh (mSrc m * 65536 + fld m 66 2) 0 < fld m 72 8 →
    exec (.tiding p) s = .next (settleAfter (raise 0x080B 0 (fld m 66 2) (fld m 72 8)
      (fld m 80 4 + 2 ^ 32 * mSrc m + 2 ^ 50 * fld m 65 1) { taken p m s with
        spl.tidHigh := Tab.put s.spl.tidHigh (mSrc m * 65536 + fld m 66 2) (fld m 72 8) }))) ∧
  (∀ (s : State) (p : Nat) (m : Bytes), arrives 0x30 p m s → fld m 64 1 = 0 →
    fld m 72 8 ≤ Tab.getD s.spl.tidHigh (mSrc m * 65536 + fld m 66 2) 0 →
    exec (.tiding p) s = .next (settleAfter (taken p m s))) ∧
  (∀ (s : State) (p : Nat) (m : Bytes), arrives 0x30 p m s → fld m 64 1 = 1 → (mSrc m, fld m 84 4) ∉ s.spl.durSeen →
    exec (.tiding p) s = .next (settleAfter { taken p m s with spl.durSeen := s.spl.durSeen ++ [(mSrc m, fld m 84 4)] })) ∧
  (∀ (s : State) (tag p : Nat) (r : Req), txRuns s = true → s.adm.fenced = false → s.spl.reqs = [r] → r.tag = tag → r.sends < 8 →
    bestPort s r.peer = some p →
    exec (.requestTimeout tag) s = .next (onPort p (fun x => { x with
      queued := x.queued ++ [{ vc := vcOf r.mtype, msg := r.msg, cls := r.cls, ctx := r.ctx }] })
      { s with spl.reqs := [{ r with sends := r.sends + 1 }] })) ∧
  (∀ (s : State) (tag : Nat) (r : Req), txRuns s = true → s.adm.fenced = false → s.spl.reqs = [r] → r.tag = tag → 8 ≤ r.sends →
    exec (.requestTimeout tag) s = .next (settleAfter (requestLost r (0x0F, 1)
      { raise0 0x080C 2 (r.peer + 2 ^ 18 * r.mtype)
          { s with spl.peers := Tab.upd s.spl.peers r.peer fun x => { x with lost := true } } with spl.reqs := [] }))) ∧
  (∀ (s : State) (tag : Nat), (s.adm.fenced = true ∨ ∀ r ∈ s.spl.reqs, r.tag ≠ tag) → exec (.requestTimeout tag) s = .next s) ∧
  (∀ (s : State) (d p : Nat) (x : Peer), txRuns s = true → Tab.get? s.spl.peers d = some x → bestPort s d = some p →
    (x.ready = false → hopOf s d = d → exec (.helloRepeat d) s = .next (sendHello p d s)) ∧
    (x.ready = true → exec (.helloRepeat d) s = .next s)) ∧
  (∀ (s : State) (e n w t0 dev : Nat) (x : Epoch) (esc : Nat × Nat × Bytes), txRuns s = true →
    s.pun.later = [(e, n, w, t0)] → t0 + 100000 ≤ s.time.aon → epoch? s e = some x → Tab.get? s.pun.escrow n = some esc →
    replicaDev s w = some dev →
    exec .laterResend s = .next (request { mtype := 0x20, dst := dev, vault := hVault x.list, epoch := e, count := 1, sector := n
                                           stride := max 1 (hReplicas x.list), body := sha256 esc.2.2, cls := 4 }
      { tag := 0, peer := dev, mtype := 0x20, msg := [], epoch := e } { s with pun.later := [] })) ∧
  (∀ s : State, (∀ d ∈ s.pun.later, s.time.aon < d.2.2.2 + 100000) → exec .laterResend s = .next s)

/-! ### Assay (R214 to R229, R235, R236) -/

/-- A START that ENABLE lets in, whose word is sound, whose handle is cached in its format, with fewer than four tiles open
and with enough slices (R218), opens a tile of the slices in service. One whose word has a reserved bit, or whose handle is
not cached in its format, is a tap protocol error and is skipped (R221). OPERAND_ROW adds the parts of its row check R_i,
one for each K block, to the tile that is open (R214, R215, R217); END closes it. The last row sum of a tile gives its
verdict: PASS when every row's sums agree with R_i; on a first run that disagrees FAIL with a replay request, and the tile
waits as failed, ASSAY_MISMATCH naming its first row; on a replay that agrees PASS, one transient error; on one that
disagrees FAIL, at the replay limit without another request (R215, R222, R223, R224); a row sum too many is a protocol error
(R221). That a word with a reserved bit is a protocol error, and which tile a row sum too many belongs to, are the model's
choice: log entry 48; which slice sets compute a row again is that of log entry 147. -/
def Obligations.TileVerdicts : Prop :=
  (∀ (s : State) (w : W64) (h : Handle), tapsRun s = true → assayCtl s 0 = true → twOp w = 0 → twBad w = false →
    twReplay w = false → (∀ t ∈ s.asy.tiles, t.ended = true) → (s.asy.tiles.filter fun t => t.on).length < 4 →
    handle? s (twHandle w) = some h → h.fmt = twFmt w → (∀ e ∈ s.flt.merge, e.store ≠ 6) →
    corrupted s 6 (· == twHandle w) = [] → checked (slicesIn s).length (twFmt w) (twTile w) = true →
    exec (.tileStart w) s = .next { s with
      asy.tiles := s.asy.tiles ++ [{
        id := twTile w, handle := twHandle w, fmt := twFmt w, replay := false, dual := twDual w, ctl := sh s 0x700
        on := true, slices := slicesIn s, rot := h.rot }]
      asy.handles := (s.asy.handles.filter fun x => x.1 != twHandle w) ++ s.asy.handles.filter fun x => x.1 == twHandle w }) ∧
  (∀ (s : State) (w : W64), tapsRun s = true → assayCtl s 0 = true → twOp w = 0 → (∀ t ∈ s.asy.tiles, t.ended = true) →
    (∀ e ∈ s.flt.merge, e.store ≠ 6) → corrupted s 6 (· == twHandle w) = [] →
    (twBad w = true ∨ (s.asy.tiles.filter fun t => t.on).length < 4 ∧ (∀ h, handle? s (twHandle w) = some h → h.fmt ≠ twFmt w)) →
    ∃ u t, exec (.tileStart w) s = .next (raise0 0x0706 1 (twTile w + 2 ^ 32 * (if twBad w = true then 3 else 1)) u) ∧
      u.asy.tiles = s.asy.tiles ++ [t] ∧ t.id = twTile w ∧ t.skip = true ∧ t.on = true ∧ t.rows = 0 ∧
      (u.ldg = s.ldg ∧ u.cap = s.cap ∧ u.str = s.str ∧ u.out = s.out)) ∧
  (∀ (s : State) (d e : Bytes) (r : Byte) (t : Tile) (rest : List Tile) (h : Handle), tapsRun s = true →
    s.asy.tiles = t :: rest → t.ended = false → (∀ x ∈ rest, x.ended = true) → t.on = true → t.skip = false →
    handle? s t.handle = some h → t.capture = [] →
    badShift ((tapExps e).take (kRows t.fmt / 32)) (sext 8 r.toNat) = false →
    exec (.operandRow d e r) s = .next { s with asy.tiles := { t with
      rows := t.rows + 1
      rhs := t.rhs ++ [rowParts (elems (fmtWidth t.fmt) (slice d 0 1024)) ((tapExps e).take (kRows t.fmt / 32))
        (sext 8 r.toNat) h.w]
      sig := crcFold t.sig (slice d 0 1024 ++ slice e 0 128 ++ [r]) } :: rest }) ∧
  (∀ (s : State) (d e : Bytes) (r : Byte), (∀ t ∈ s.asy.tiles, t.ended = true) → exec (.operandRow d e r) s = .next s) ∧
  (∀ (s : State) (w : W64) (t : Tile), tapsRun s = true → twOp w = 1 → twBad w = false → s.asy.tiles = [t] → t.ended = false →
    t.id = twTile w → t.on = true → t.skip = false → t.rows ≠ 0 → t.rows ≤ 1048576 → t.sums < t.rows → t.verdict = none →
    exec (.tileEnd w) s = .next { s with asy.tiles := [{ t with ended := true }] }) ∧
  (∀ (s : State) (w : W64) (t : Tile), tapsRun s = true → twOp w = 1 → s.asy.tiles = [t] → t.ended = false →
    t.id = twTile w → t.on = true → t.skip = true → t.driven = false →
    ∃ u, exec (.tileEnd w) s = .next u ∧ u.asy.verdicts = s.asy.verdicts ++ [⟨t.id, 2, false⟩] ∧ u.asy.failed = s.asy.failed) ∧
  (∀ (s : State) (sums ps : List W32) (t : Tile), tapsRun s = true → s.asy.tiles = [t] → t.on = true → t.skip = false →
    t.ended = true → t.verdict = none → t.driven = false → t.rows = t.sums + 1 → t.rhs = [ps] → t.fails = [] → t.replay = false →
    bit t.ctl 2 = false → (sums.take 16).foldl (· + ·) 0 = ps.foldl (· + ·) 0 →
    exec (.rowSum sums []) s = .next { s with
      asy.lastSum := t.id
      asy.tiles := []
      asy.verdicts := s.asy.verdicts ++ [⟨t.id, 0, false⟩]
      asy.counts := s.asy.counts.modify 0 fun n => min 0xFFFFFFFF (n + 1) }) ∧
  (∀ (s : State) (sums ps : List W32) (faulty : List Nat) (t : Tile), tapsRun s = true → s.asy.tiles = [t] → t.on = true →
    t.skip = false → t.ended = true → t.verdict = none → t.driven = false → t.rows = t.sums + 1 → t.rhs = [ps] → t.fails = [] →
    t.replay = false → bit t.ctl 2 = false → (sums.take 16).foldl (· + ·) 0 ≠ ps.foldl (· + ·) 0 →
    (s.asy.failed.filter fun f => f.id != t.id).length < 4 →
    ∃ u, exec (.rowSum sums faulty) s = .next u ∧ u.asy = { s.asy with
        lastSum := t.id
        tiles := []
        verdicts := s.asy.verdicts ++ [⟨t.id, 1, true⟩]
        failed := (s.asy.failed.filter fun f => f.id != t.id) ++ [⟨t.id, 0, [t.sums]⟩]
        counts := s.asy.counts.modify 0 fun n => min 0xFFFFFFFF (n + 1) } ∧
      onlyEvents { s with asy := u.asy, time.free := u.time.free } u) ∧
  (∀ (s : State) (sums ps : List W32) (t : Tile) (f : Failed) (rest : List Failed), tapsRun s = true →
    s.asy.tiles = [t] → t.on = true → t.skip = false → t.ended = true → t.verdict = none → t.driven = false →
    t.rows = t.sums + 1 → t.rhs = [ps] → t.fails = [] → t.replay = true → s.asy.failed = f :: rest → f.id = t.id →
    (∀ g ∈ rest, g.id ≠ t.id) → bit t.ctl 2 = false → (sums.take 16).foldl (· + ·) 0 = ps.foldl (· + ·) 0 →
    ∃ u, exec (.rowSum sums []) s = .next u ∧ u.asy.verdicts = s.asy.verdicts ++ [⟨t.id, 0, false⟩] ∧ u.asy.failed = rest ∧
      u.asy.counts = (s.asy.counts.modify 2 fun n => min 0xFFFFFFFF (n + 1)).modify 0 fun n => min 0xFFFFFFFF (n + 1)) ∧
  (∀ (s : State) (sums ps : List W32) (t : Tile) (f : Failed) (rest : List Failed), tapsRun s = true →
    s.asy.tiles = [t] → t.on = true → t.skip = false → t.ended = true → t.verdict = none → t.driven = false →
    t.rows = t.sums + 1 → t.rhs = [ps] → t.fails = [] → t.replay = true → s.asy.failed = f :: rest → f.id = t.id →
    (∀ g ∈ rest, g.id ≠ t.id) → bit t.ctl 2 = false → (sums.take 16).foldl (· + ·) 0 ≠ ps.foldl (· + ·) 0 →
    (f.replays + 1 < bits t.ctl 5 4 → ∃ u, exec (.rowSum sums []) s = .next u ∧
      u.asy.verdicts = s.asy.verdicts ++ [⟨t.id, 1, true⟩] ∧ u.asy.failed = ⟨t.id, f.replays + 1, [t.sums]⟩ :: rest) ∧
    (bits t.ctl 5 4 ≤ f.replays + 1 → ∃ u, exec (.rowSum sums []) s = .next u ∧
      u.asy.verdicts = s.asy.verdicts ++ [⟨t.id, 1, false⟩] ∧ u.asy.failed = rest ∧ u.asy.sliceOut = s.asy.sliceOut ∧
      u.asy.counts = (s.asy.counts.modify 3 fun n => min 0xFFFFFFFF (n + 1)).modify 0 fun n => min 0xFFFFFFFF (n + 1))) ∧
  (∀ (s : State) (sums : List W32) (faulty : List Nat) (t : Tile), tapsRun s = true → s.asy.tiles = [t] → t.ended = false →
    t.on = true → t.skip = false → t.rows ≤ t.sums → t.driven = false →
    exec (.rowSum sums faulty) s = .next (raise0 0x0706 1 (t.id + 2 ^ 32 * 2)
      { s with asy.tiles := [{ t with sums := t.sums + 1, skip := true, verdict := none }] })) ∧
  (∀ (s : State) (sums : List W32) (faulty : List Nat), tapsRun s = true → s.asy.tiles = [] → assayCtl s 0 = true →
    exec (.rowSum sums faulty) s = .next (raise0 0x0706 1 (s.asy.lastSum + 2 ^ 32 * 2) s)) ∧
  (∀ (slices : List Nat) (rot b : Nat) (x y z : W32), x ≠ y →
    (∀ k ∈ disagree slices rot b x y z, k ∈ [sliceOf slices rot b, sliceOf slices (rot + 1) b, sliceOf slices (rot + 2) b]) ∧
    (z = y → disagree slices rot b x y z = [sliceOf slices rot b]) ∧
    (z = x → disagree slices rot b x y z = [sliceOf slices (rot + 1) b]) ∧
    (z ≠ x → z ≠ y → (disagree slices rot b x y z).length = 3)) ∧
  (∀ (s : State) (sums : List W32) (t : Tile) (rest : List Tile), tapsRun s = true → s.asy.tiles = t :: rest →
    t.on = false → t.sums + 1 < t.rows → t ∉ rest → (∀ x ∈ rest, x.on = false ∧ x.ended = false) →
    exec (.rowSum sums []) s = .next { s with asy.lastSum := t.id, asy.tiles := { t with sums := t.sums + 1 } :: rest })

/-- LOAD and LOAD_VERIFY begin a weight load; exponents and data give the checksums of its rows; with VERIFY a load that is
complete and differs raises WEIGHT_MISMATCH (R216, R217, R219). A load into a handle that an open tile names skips the tile.
POOL_HEADER begins a bag, POOL_INDICES and POOLED_VECTOR fill it; POOL_INDICES starts the reads of the rows' check values
through the tracker, and POOL_CHECK asks for those that are missing; with all of them it compares their sum with the check
value of the pooled vector, counts it and raises POOL_MISMATCH when they differ; a bag that cannot be checked is counted as
skipped (R225 to R228). -/
def Obligations.WeightsAndPools : Prop :=
  (∀ (s : State) (w : W64), tapsRun s = true → twOp w = 2 → twBad w = false →
    (∀ t ∈ s.asy.tiles, t.on = true → t.handle ≠ twHandle w) →
    ∃ u, exec (.load w) s = .next u ∧ u = { s with asy := { s.asy with
        load := some { handle := twHandle w, verify := false, cur := { fmt := twFmt w, rot := s.asy.loads % 16 } }
        loads := s.asy.loads + 1
        handles := u.asy.handles } } ∧
      (∀ x ∈ u.asy.handles, x ∈ s.asy.handles)) ∧
  (∀ (s : State) (w : W64), tapsRun s = true → twOp w = 3 → twBad w = false →
    (∀ t ∈ s.asy.tiles, t.on = true → t.handle ≠ twHandle w) →
    ∃ u, exec (.loadVerify w) s = .next u ∧ u.asy.load = some { handle := twHandle w, verify := true, cur := {
        fmt := twFmt w, rot := s.asy.loads % 16 } } ∧
      u.asy.loads = s.asy.loads + 1 ∧ u.asy.tiles = s.asy.tiles) ∧
  (∀ (s : State) (w : W64), (twOp w ≠ 2 → exec (.load w) s = .next s) ∧ (twOp w ≠ 3 → exec (.loadVerify w) s = .next s)) ∧
  (∀ (s : State) (e : Bytes) (r : Byte) (l : WLoad), tapsRun s = true → s.asy.load = some l → l.exps.length < 4096 →
    (l.exps ≠ [] ∨ l.cur.w ≠ []) →
    exec (.weightExponents e r) s = .next { s with asy.load := some { l with exps := l.exps ++ tapExps (slice e 0 128) } }) ∧
  (∀ (s : State) (e : Bytes) (r : Byte) (l : WLoad), tapsRun s = true → s.asy.load = some l → l.exps = [] → l.cur.w = [] →
    exec (.weightExponents e r) s = .next { s with asy.load := some { l with
      eref := sext 8 r.toNat, exps := tapExps (slice e 0 128) } }) ∧
  (∀ (s : State) (d : Bytes) (l : WLoad), tapsRun s = true → s.asy.load = some l → l.exps.length = 4096 → l.cur.fmt = 2 →
    l.half = none → badShift (l.exps.take 2048) l.eref = false →
    exec (.weightData d) s = .next { s with asy.load := some { l with
      half := some (groupSums (elems (fmtWidth l.cur.fmt) (slice d 0 1024)) l.exps l.eref) } }) ∧
  (∀ (s : State) (d : Bytes) (l : WLoad), tapsRun s = true → s.asy.load = some l → l.exps.length = 4096 → l.cur.fmt = 1 →
    l.half = none → badShift l.exps l.eref = false → l.cur.w.length < 4095 →
    let g := groupSums (elems (fmtWidth l.cur.fmt) (slice d 0 1024)) l.exps l.eref
    exec (.weightData d) s = .next { s with asy.load := some { l with
      cur := { l.cur with w := l.cur.w ++ [g.foldl (· + ·) 0], wg := l.cur.wg ++ [g] }
      exps := if (l.cur.w.length + 1) % 32 = 0 then [] else l.exps } }) ∧
  (∀ (s : State) (l : WLoad) (o : Handle) (k : Nat), l.verify = true → handle? s l.handle = some o → firstDiff l.cur o = some k →
    ∃ u, loadDone l s = lanesWrite 6 l.handle 1 { raise0 0x0703 2 (l.handle + 2 ^ 16 * k) u with
        asy.load := none
        asy.handles := (s.asy.handles.filter fun x => x.1 != l.handle) ++ [(l.handle, l.cur)] } ∧
      u = { s with asy.counts := s.asy.counts.modify 9 fun n => min 0xFFFFFFFF (n + 1) }) ∧
  (∀ (s : State) (d e : Bytes) (r : Byte), s.asy.load = none →
    exec (.weightExponents e r) s = .next s ∧ exec (.weightData d) s = .next s) ∧
  (∀ (s : State) (d : Bytes), tapsRun s = true →
    exec (.poolHeader d) s = .next { s with
      asy.bag := if assayCtl s 1 = true ∧ fld d 2 2 ≠ 0 ∧ fld d 2 2 ≤ 4096 then some { entry := fld d 0 2, n := fld d 2 2, id := fld d 4 4 }
        else none }) ∧
  (∀ (s : State) (d : Bytes) (b : Bag), tapsRun s = true → s.asy.bag = some b →
    let l := (List.range (min 128 (b.n - b.rows.length))).map fun i => fld d (8 * i) 8
    let u := { s with asy.bag := some { b with rows := b.rows ++ l } }
    (bagEntry s b = none → exec (.poolIndices d) s = .next u) ∧
    (∀ e, bagEntry s b = some e → exec (.poolIndices d) s =
      .next (each (l.filter fun r => decide (r < eSize e)) (fetchCv (eTrack e)) (openTable (sh s 0x704) b.entry e u)))) ∧
  (∀ (s : State) (d e : Bytes) (b : Bag), tapsRun s = true → s.asy.bag = some b → b.n ≤ b.rows.length →
    exec (.pooledVector d e) s = .next { s with asy.bag := some { b with
      elems := b.elems ++ elems 32 (slice d 0 1024), exps := b.exps ++ tapExps (slice e 0 8) } }) ∧
  (∀ (s : State) (b : Bag) (en : Bytes), tapsRun s = true → s.asy.bag = some b → b.n ≤ b.rows.length →
    bagEntry s b = some en → rowElems en ≤ b.elems.length → bagWaits s b = [] → poolSkip s b = none →
    let u := { s with
      asy.bag := none
      asy.counts := s.asy.counts.modify 4 fun n => min 0xFFFFFFFF (n + 1) }
    (bagSum s en b = bagCv en b → exec .poolCheck s = .next u) ∧
    (bagSum s en b ≠ bagCv en b → exec .poolCheck s = .next (raise0 0x0704 2 (b.id + 2 ^ 32 * b.entry)
      { u with asy.counts := u.asy.counts.modify 5 fun n => min 0xFFFFFFFF (n + 1) }))) ∧
  (∀ (s : State) (b : Bag) (c : Nat), tapsRun s = true → s.asy.bag = some b → b.n ≤ b.rows.length →
    ((bagEntry s b).map rowElems).getD 0 ≤ b.elems.length → bagWaits s b = [] → poolSkip s b = some c →
    exec .poolCheck s = .next { s with
      asy.bag := none
      asy.counts := s.asy.counts.modify 6 fun n => min 0xFFFFFFFF (n + 1) }) ∧
  (∀ (s : State) (b : Bag) (en : Bytes), tapsRun s = true → s.asy.bag = some b → b.n ≤ b.rows.length → bagEntry s b = some en →
    rowElems en ≤ b.elems.length → bagWaits s b ≠ [] →
    exec .poolCheck s = .next (each (bagWaits s b) (fetchCv (eTrack en)) (openTable (sh s 0x704) b.entry en s))) ∧
  (∀ (s : State) (b : Bag), s.asy.bag = some b → (b.rows.length < b.n ∨ ∃ en, bagEntry s b = some en ∧ b.elems.length < rowElems en) →
    exec .poolCheck s = .next s) ∧
  (∀ (s : State) (d e : Bytes), s.asy.bag = none →
    exec (.poolIndices d) s = .next s ∧ exec (.pooledVector d e) s = .next s ∧ exec .poolCheck s = .next s)

/-! ### Clocks, resets and power (R348 to R362) -/

/-- Asserting a reset: its kind is held until the release, the strongest one wins, rel_all is high, every output and request
is dropped and every hold ends; no register, ring, key or context changes. A warm reset before the macros hold the journal
is a cold one, and in OFF it is ignored (R353). Loss of ROOT lock asserts a cold reset and is latched in SC_CLK_STAT (R349).
RESET_RELEASE: a power-on reset puts every register, key and recipe back; a cold one keeps the applied registers, the
journal's queues and the mirrored objects but no key, and locks the debug port; a warm one keeps all of these. A halt ends,
breakpoints go, no doorbell survives, and RESET_CAUSE says which reset it was (R354, R355, R365). ADMIN_FLUSH stays set only
when its FLUSH is journalled (R64). Without a reset nothing happens. A clock that stops clears its RUN bit, and when it may
not stop latches its LOST bit and raises CLOCK_LOST (R351); it runs again; a slip of FABRIC latches FAB_SLIP and spoils the
reads of its port (R350). When CLOCK_LOST of ROOT is raised, and that a queue resumes behind the last item journalled, are
the model's choice: log entries 71 and 132. -/
def Obligations.ResetsAndClocks : Prop :=
  (∀ (s : State) (i : Instr) (k : Nat), (i = .powerOnReset ∧ k = 3 ∨ i = .coldReset ∧ k = 2 ∨
      i = .warmReset ∧ s.pwr.state ≠ 3 ∧ k = (if s.ldg.live = true then 1 else 2)) →
    ∃ t, exec i s = .next t ∧ t.pins = { s.pins with
        rst := max s.pins.rst k
        rstOff := if s.pins.rst = 0 then s.pwr.state == 3 else s.pins.rstOff
        relAll := true
        rstDone := false } ∧
      (t.out = { nextId := s.out.nextId } ∧ t.cap = { s.cap with cut := {}, filters := [] } ∧
        t.asy = { s.asy with verdicts := [] }) ∧
      (t.regs = s.regs ∧ t.ring = s.ring ∧ t.ldg = s.ldg ∧ t.adm = s.adm ∧ t.str = s.str ∧ t.pun = s.pun ∧ t.spl = s.spl ∧
        t.pwr = s.pwr ∧ t.dbg = s.dbg ∧ t.flt = s.flt ∧ t.time = s.time ∧ t.pending = s.pending)) ∧
  (∀ s : State, s.pwr.state = 3 → exec .warmReset s = .next s) ∧
  (∀ s : State, s.pwr.state ≠ 3 → ∃ t, exec .rootLockLoss s = .next t ∧
    t.regs = { s.regs with clk := { s.regs.clk with rootLock := false, rootLost := true } } ∧
    t.pins.rst = max s.pins.rst 2 ∧ t.pins.rstRoot = true ∧ t.pins.relAll = true) ∧
  (∀ s : State, s.pwr.state = 3 → exec .rootLockLoss s = .next s) ∧
  (∀ s : State, s.pins.rst = 3 → ∃ t, exec (.resetRelease []) s = .next t ∧
    (t.regs.shadow.applied = [] ∧ t.regs.shadow.castle = {} ∧ t.regs.shadow.staged = [] ∧ t.regs.crcRun = 0xFFFFFFFF ∧
      t.regs.gasp = { hold := false } ∧ t.adm.recipes = [] ∧ t.adm.packages = [] ∧ t.ldg.live = false ∧ t.ldg.resetCause = 0) ∧
    (∀ n, n ≠ 255 → Tab.get? t.adm.keys n = none) ∧
    (t.pins.rst = 0 ∧ t.pins.relAll = false ∧ t.pins.rstDone = true ∧ t.pwr = {} ∧ t.dbg.state = 0 ∧ t.dbg.bps = [] ∧
      t.str.ctxs = [] ∧ t.adm.vaults = s.adm.vaults ∧ t.cap.epochs = s.cap.epochs ∧ t.pending = s.pending)) ∧
  (∀ s : State, s.pins.rst = 2 → s.pins.rstRoot = false → ∃ t, exec (.resetRelease []) s = .next t ∧
    (t.regs.shadow.applied = s.regs.shadow.applied ∧ t.regs.crcRun = s.regs.crcRun ∧ t.adm.recipes = [] ∧
      t.ldg.live = false ∧ t.ldg.resetCause = 1 ∧ t.dbg.state = 0 ∧ t.dbg.bps = [] ∧ t.asy = {} ∧ t.str.ctxs = []) ∧
    (∀ n, n ≠ 255 → Tab.get? t.adm.keys n = none) ∧
    (∀ q x, queue? s q = some x → ∃ y, queue? t q = some y ∧ y.desc = x.desc ∧ y.tail = x.acc ∧ y.head = x.acc ∧ y.takes = [] ∧
      y.cqHead = x.cqHead ∧ y.state = x.state ∧ y.held = [])) ∧
  (∀ s : State, s.pins.rst = 2 → s.pins.rstRoot = true → ∃ t, exec (.resetRelease []) s = .next t ∧ t.ldg.resetCause = 3 ∧
    t = raise0 0x0B01 2 5 (released 2 s)) ∧
  (∀ (s : State) (failed : List (Nat × Nat)), s.pins.rst = 1 →
    exec (.resetRelease failed) s = .next (sweepAll (released 1 s))) ∧
  (∀ (k : Nat) (s : State), (released k s).regs.qctl.flush = (s.regs.qctl.flush && s.ldg.cmds.any (·.admin)) ∧
    (released k s).adm.listWrites = [] ∧ (released k s).flt.merge = [] ∧ (released k s).str.blocks = []) ∧
  (∀ s : State, (released 1 s).regs.shadow.applied = s.regs.shadow.applied ∧ (released 1 s).ldg.live = s.ldg.live ∧
    (released 1 s).ldg.resetCause = 2 ∧ (released 1 s).adm.recipes = s.adm.recipes ∧
    (released 1 s).dbg.state = min s.dbg.state 1 ∧ (released 1 s).str.ctxs = s.str.ctxs ∧ (released 1 s).cap.bank0 = s.cap.bank0 ∧
    (released 1 s).cap.bank1 = s.cap.bank1 ∧ (released 1 s).flt.retired = s.flt.retired ∧
    (released 1 s).regs.qctl.ready = false ∧ (released 1 s).regs.shadow.staged = [] ∧
    (∀ n, n ≠ 255 → Tab.get? (released 1 s).adm.keys n = Tab.get? s.adm.keys n)) ∧
  (∀ (s : State) (failed : List (Nat × Nat)), s.pins.rst = 0 → exec (.resetRelease failed) s = .next s) ∧
  (∀ (s : State) (c : Nat), s.pins.rst = 0 → c < 4 → mayStop c s = true →
    exec (.clockLost c) s = .next { s with regs.clk := setRun c false s.regs.clk }) ∧
  (∀ (s : State) (c : Nat), s.pins.rst = 0 → c < 4 → mayStop c s = false →
    exec (.clockLost c) s = .next (raise0 0x0B01 2 c { s with regs.clk := setLost c (setRun c false s.regs.clk) })) ∧
  (∀ (s : State) (c : Nat), c < 4 → exec (.clockRunning c) s = .next { s with regs.clk := setRun c true s.regs.clk }) ∧
  (∀ (s : State) (c : Nat), (4 ≤ c ∨ s.pins.rst ≠ 0) → exec (.clockLost c) s = .next s) ∧
  (∀ (s : State) (p : Nat), up s = true → p < 16 → (∀ r ∈ s.out.fab, r.port = p → r.write = false) →
    exec (.fabSlip p) s = .next (raise0 0x0B01 2 4 { s with
      regs.clk.fabSlip := true
      out.fab := s.out.fab.map fun r => if r.port = p then { r with err := fabWorse r.err 1 } else r })) ∧
  (∀ (s : State) (p : Nat), 16 ≤ p → exec (.fabSlip p) s = .next s)

/-! ### The debug port (R381 to R391) -/

/-- A request while an earlier one is BUSY is discarded, but for a HALT during a STEP; one with a reserved bit set is
answered 5, and one that needs an unlocked port is answered LOCKED while the port is locked; each without any other effect
(R382, R383, R389). NOP keeps the last answer, STATUS answers the port's state, CHALLENGE the current challenge; UNLOCK
collects four words, and the fourth is checked: a right response unlocks the port after zeroization, a wrong one counts,
draws a new challenge and locks out for 1 s; LOCK and TAP_RESET lock it (R381, R386). -/
def Obligations.DebugUnlocking : Prop :=
  (∀ (i : Instr) (op : Nat) (u : Bool) (r : DbgReq) (s : State), dbgRow i = some (op, u, r) → s.dbg.ansStatus = 1 →
    ¬(op = 8 ∧ s.dbg.ansOp = 0x0A) → exec i s = .next { s with dbg.ir := 0x20 }) ∧
  (∀ (i : Instr) (op : Nat) (u : Bool) (r : DbgReq) (s : State), dbgRow i = some (op, u, r) → s.dbg.ansStatus ≠ 1 →
    r.rsvd ≠ 0 → exec i s = .next (answer op r.sel 5 0 { s with dbg.ir := 0x20 })) ∧
  (∀ (i : Instr) (op : Nat) (r : DbgReq) (s : State), dbgRow i = some (op, true, r) → s.dbg.ansStatus ≠ 1 → r.rsvd = 0 →
    s.dbg.state = 0 → exec i s = .next (answer op r.sel 2 0 { s with dbg.ir := 0x20 })) ∧
  (∀ (s : State) (r : DbgReq), r.rsvd = 0 → exec (.dbgNop r) s = .next { s with dbg.ir := 0x20 }) ∧
  (∀ (s : State) (r : DbgReq), dbgTakes false r s → exec (.dbgStatus r) s = .next { dbgTaken 1 r s with
    dbg.ansData := BitVec.ofNat 64 (s.dbg.state + 2 ^ 8 * s.dbg.fails + 2 ^ 16 * s.dbg.lastBp +
      2 ^ 32 * maskOf 32 s.dbg.lanes.contains) }) ∧
  (∀ (s : State) (r : DbgReq) (c : Bytes), dbgTakes false r s → s.dbg.lockout = false → s.dbg.fails < 8 →
    s.dbg.challenge = some c →
    exec (.dbgChallenge r) s = .next { dbgTaken 2 r s with dbg.ansData := BitVec.ofNat 64 (fld c (8 * (r.arg % 4)) 8) }) ∧
  (∀ (s : State) (r : DbgReq), dbgTakes false r s → s.dbg.lockout = false → s.dbg.fails < 8 → s.dbg.challenge = none →
    ∃ t c, exec (.dbgChallenge r) s = .next t ∧ t.dbg.challenge = some c ∧
      t.dbg.ansData = BitVec.ofNat 64 (fld c (8 * (r.arg % 4)) 8) ∧ t.dbg.ansStatus = 0 ∧ t.dbg.state = s.dbg.state) ∧
  (∀ (s : State) (r : DbgReq), dbgTakes false r s → (s.dbg.lockout = true ∨ 8 ≤ s.dbg.fails) →
    exec (.dbgChallenge r) s = .next { dbgTaken 2 r s with dbg.ansStatus := 3 }) ∧
  (∀ (s : State) (r : DbgReq), dbgTakes false r s → r.arg % 4 ≠ 3 → exec (.dbgUnlock r) s = .next { dbgTaken 3 r s with
    dbg.resp := Tab.put s.dbg.resp (r.arg % 4) r.data }) ∧
  (∀ (s : State) (r : DbgReq), dbgTakes false r s → r.arg % 4 = 3 →
    let u := { dbgTaken 3 r s with dbg.resp := Tab.put s.dbg.resp 3 r.data }
    (responseOk u = true → ∃ t, exec (.dbgUnlock r) s = .next t ∧ t.dbg.state = max s.dbg.state 1) ∧
    (responseOk u = false → exec (.dbgUnlock r) s = .next (raise0 0x0C05 1 (min (s.dbg.fails + 1) 255) { u with dbg := { u.dbg with
      ansStatus := 3, fails := min (s.dbg.fails + 1) 255, challenge := none, resp := [], lockout := true } }))) ∧
  (∀ s : State, exec .unlockLockoutExpiry s = .next { s with dbg.lockout := false }) ∧
  (∀ (s : State) (r : DbgReq), dbgTakes true r s → s.dbg.state ≠ 2 → s.dbg.late = [] → ∃ t, exec (.dbgLock r) s = .next t ∧
    t.dbg.state = 0 ∧ t.dbg.bps = [] ∧ t.dbg.hits = [] ∧ t.dbg.challenge = none ∧ t.pins.unlockUse = s.pins.otpUnlock ∧
    t.dbg.ansStatus = 0 ∧ (t.ldg = s.ldg ∧ t.str = s.str ∧ t.adm = s.adm)) ∧
  (∀ s : State, s.dbg.state ≠ 2 → s.dbg.late = [] → ∃ t, exec .tapReset s = .next t ∧ t.dbg.state = 0 ∧ t.dbg.ir = 1 ∧
    t.dbg.bps = [] ∧ (t.ldg = s.ldg ∧ t.str = s.str ∧ t.adm = s.adm))

/-- HALT waits for a cut to end, then the block is halted and DBG_HALTED says so; RESUME lets it run again; STEP lets it run
until one CMD or EPOCH record is appended; RSTEP and RRESUME run a halted recipe lane (R188, R388, R389, R391). -/
def Obligations.DebugHalting : Prop :=
  (∀ (s : State) (r : DbgReq), dbgTakes true r s → up s = true → s.dbg.state ≠ 2 → s.dbg.stepping = false →
    exec (.dbgHalt r) s = .next { dbgTaken 8 r s with dbg := { (dbgTaken 8 r s).dbg with haltReq := some 0xFF, ansStatus := 1 } }) ∧
  (∀ (s : State) (r : DbgReq), dbgTakes true r s → up s = true → s.dbg.state = 2 →
    exec (.dbgHalt r) s = .next (dbgTaken 8 r s)) ∧
  (∀ s : State, up s = true → s.dbg.haltReq.isSome = true → cutHolds s = false → ∃ t, exec .haltReached s = .next t ∧
    t.dbg.state = 2 ∧ t.pending = s.pending ∧ t.regs.shadow = s.regs.shadow) ∧
  (∀ s : State, (s.dbg.haltReq = none ∨ cutHolds s = true) → exec .haltReached s = .next s) ∧
  (∀ (s : State) (r : DbgReq), dbgTakes true r s → s.dbg.state = 2 → s.dbg.late = [] →
    exec (.dbgResume r) s = .next (raise0 0x0C03 0 (min (s.time.aon - s.dbg.haltedAt) 0xFFFFFFFF) { dbgTaken 9 r s with
      dbg := { (dbgTaken 9 r s).dbg with state := 1, stepping := false, haltReq := none, late := [], sram := [] } })) ∧
  (∀ (s : State) (r : DbgReq), dbgTakes true r s → up s = true → s.dbg.late = [] →
    exec (.dbgStep r) s = .next { dbgTaken 0x0A r s with dbg := { (dbgTaken 0x0A r s).dbg with
      state := 1, stepping := true, stepFrom := s.dbg.recs, late := [], sram := [], ansStatus := 1 } }) ∧
  (∀ s : State, s.dbg.stepping = true → s.dbg.recs ≠ s.dbg.stepFrom → ∃ t, exec .stepDone s = .next t ∧ t.dbg.state = 2 ∧
    t.pending = s.pending ∧ t.regs.shadow = s.regs.shadow) ∧
  (∀ s : State, (s.dbg.stepping = false ∨ s.dbg.recs = s.dbg.stepFrom) → exec .stepDone s = .next s) ∧
  (∀ (s : State) (r : DbgReq), dbgTakes true r s → r.sel < 32 → s.dbg.lanes.contains r.sel = true →
    (laneStep (recipe s (lane s r.sel).slot) (lane s r.sel)).trap = 0 →
    exec (.dbgRstep r) s = .next { dbgTaken 0x0B r s with
      str.lanes := Tab.put s.str.lanes r.sel (laneStep (recipe s (lane s r.sel).slot) (lane s r.sel)) }) ∧
  (∀ (s : State) (r : DbgReq), dbgTakes true r s → r.sel < 32 → s.dbg.lanes.contains r.sel = true →
    exec (.dbgRresume r) s = .next (laneEnded r.sel (setLane r.sel (runLane s (lane s r.sel)) (dbgTaken 0x0C r s)))) ∧
  (∀ (s : State) (r : DbgReq), dbgTakes true r s → s.dbg.lanes.contains r.sel = false → r.sel < 32 →
    exec (.dbgRstep r) s = .next { dbgTaken 0x0B r s with dbg.ansStatus := 3 } ∧
    exec (.dbgRresume r) s = .next { dbgTaken 0x0C r s with dbg.ansStatus := 3 })

/-- Breakpoints are set, cleared and fire at a step boundary (R390); SETADDR, READ and WRITE reach registers, block SRAM and
the fabric (R384, R385); a one-time-programmable field is burnt once (R387). ERROR for what does not exist, and the granule
of a fabric WRITE, are the model's choice: log entries 53 and 83. -/
def Obligations.DebugAccess : Prop :=
  (∀ (s : State) (r : DbgReq), dbgTakes true r s → r.sel < 8 → 1 ≤ r.arg / 2 ^ 20 % 16 → r.arg / 2 ^ 20 % 16 ≤ 6 →
    exec (.dbgBpSet r) s = .next { dbgTaken 0x10 r s with dbg := { (dbgTaken 0x10 r s).dbg with
      bps := Tab.put s.dbg.bps r.sel { kind := r.arg / 2 ^ 20 % 16, arg := r.arg % 2 ^ 20, data := r.data.toNat }
      hits := s.dbg.hits.filter (· != r.sel) } }) ∧
  (∀ (s : State) (r : DbgReq), dbgTakes true r s → r.sel < 8 →
    exec (.dbgBpClear r) s = .next { dbgTaken 0x11 r s with dbg := { (dbgTaken 0x11 r s).dbg with
      bps := Tab.del s.dbg.bps r.sel, hits := s.dbg.hits.filter (· != r.sel) } }) ∧
  (∀ (s : State) (r : DbgReq), dbgTakes true r s → 8 ≤ r.sel →
    exec (.dbgBpSet r) s = .next { dbgTaken 0x10 r s with dbg.ansStatus := 4 } ∧
    exec (.dbgBpClear r) s = .next { dbgTaken 0x11 r s with dbg.ansStatus := 4 }) ∧
  (∀ (s : State) (n : Nat) (b : Bp), up s = true → Tab.get? s.dbg.bps n = some b → s.dbg.hits.contains n = true →
    s.dbg.state ≠ 2 → cutHolds s = false → ∃ t, exec (.breakpointFire n) s = .next t ∧ t.dbg.state = 2 ∧
      t.pending = s.pending ∧ t.regs.shadow = s.regs.shadow) ∧
  (∀ (s : State) (n : Nat), s.dbg.hits.contains n = false → exec (.breakpointFire n) s = .next s) ∧
  (∀ (s : State) (r : DbgReq), dbgTakes true r s → (r.sel ≤ 13 ∨ 16 ≤ r.sel ∧ r.sel ≤ 18) →
    exec (.dbgSetaddr r) s = .next { dbgTaken 0x18 r s with dbg := { (dbgTaken 0x18 r s).dbg with
      space := r.sel, addr := r.data.toNat } }) ∧
  (∀ (s : State) (r : DbgReq) (v : Nat), dbgTakes true r s → up s = true → s.dbg.space = 17 → s.dbg.addr ≠ 0x18 →
    readReg s s.dbg.addr = some v →
    exec (.dbgRead r) s = .next { dbgTaken 0x19 r s with dbg := { (dbgTaken 0x19 r s).dbg with
      ansData := BitVec.ofNat 64 v, addr := s.dbg.addr + 4 } }) ∧
  (∀ (s : State) (r : DbgReq) (w : Nat), dbgTakes true r s → up s = true → s.dbg.space ≤ 12 →
    inSpace s.dbg.addr (storeBytes s.dbg.space) 8 = true → Tab.get? s.dbg.sram (s.dbg.space * 2 ^ 32 + s.dbg.addr / 8) = none →
    laneWord s s.dbg.space (s.dbg.addr / 8) = some w → corrupted s s.dbg.space (· == s.dbg.addr / 8) = [] →
    (∀ e ∈ s.flt.merge, isLane s.dbg.space (s.dbg.addr / 8) e = false) →
    exec (.dbgRead r) s = .next { dbgTaken 0x19 r s with dbg := { (dbgTaken 0x19 r s).dbg with
      ansData := BitVec.ofNat 64 w, addr := s.dbg.addr + 8 } }) ∧
  (∀ (s : State) (r : DbgReq), dbgTakes true r s → (13 = s.dbg.space ∨ s.dbg.space ≤ 12 ∧ s.dbg.state ≠ 2) →
    exec (.dbgWrite r) s = .next { dbgTaken 0x1A r s with dbg.ansStatus := 3 }) ∧
  (∀ (s : State) (r : DbgReq), dbgTakes true r s → up s = true → s.dbg.state = 2 → s.dbg.space = 12 →
    inSpace s.dbg.addr 131072 8 = true →
    ∃ t, exec (.dbgWrite r) s = .next t ∧ t.dbg.addr = s.dbg.addr + 8 ∧
      laneWord t 12 (s.dbg.addr / 8) = some r.data.toNat ∧
      (∀ n, n ≠ s.dbg.addr / 8 → laneWord t 12 n = laneWord s 12 n)) ∧
  (∀ (s : State) (r : DbgReq), dbgTakes true r s → up s = true → s.dbg.space = 17 → s.dbg.addr = 0xA00 →
    exec (.dbgWrite r) s = .next { dbgTaken 0x1A r s with
      regs.flip.lo := r.data.setWidth 32
      dbg.addr := 0xA04 }) ∧
  (∀ (s : State) (r : DbgReq) (f : Nat), dbgTakes true r s → r.sel = f → f < 2 → otpField s f = none →
    exec (.otpWrite r) s = .next { dbgTaken 0x20 r s with pins.otpStage := Tab.put s.pins.otpStage (4 * f + r.arg % 4) r.data } ∧
    ∃ t, exec (.otpBurn r true) s = .next t ∧ otpField t f = some ((List.range 4).flatMap fun i =>
        toLE 8 (Tab.getD s.pins.otpStage (4 * f + i) 0).toNat) ∧ t.dbg.ansStatus = 0 ∧ otpField t (1 - f) = otpField s (1 - f)) ∧
  (∀ (s : State) (r : DbgReq) (b : Bool), dbgTakes true r s → r.sel < 2 → (otpField s r.sel).isSome = true →
    exec (.otpWrite r) s = .next { dbgTaken 0x20 r s with dbg.ansStatus := 3 } ∧
    exec (.otpBurn r b) s = .next { dbgTaken 0x21 r s with dbg.ansStatus := 3 })

/-! ### Recipe instructions (R182 to R185) -/

/-- NOP goes on; END ends the invocation with its length, or traps with cause 6 above 65,536; TRAP traps with its code; JMP,
BZ, BNZ and LOOP branch, one cycle more when taken; an instruction that would exceed the budget traps with cause 2 (R183 to
R185). -/
def Obligations.RecipeControl : Prop :=
  (∀ (s : State) (l : Nat) (r : RFields), laneTakes 0x00 l r s → exec (.rNop l r) s = .next (laneOn l id s)) ∧
  (∀ (s : State) (l : Nat) (r : RFields), laneTakes 0x01 l r s → (sGet (lane s l) r.a).toNat ≤ 65536 →
    exec (.rEnd l r) s = .next (setLane l { lane s l with
      cycles := (lane s l).cycles + 1, trap := 7, outLen := (sGet (lane s l) r.a).toNat } s)) ∧
  (∀ (s : State) (l : Nat) (r : RFields), laneTakes 0x01 l r s → 65536 < (sGet (lane s l) r.a).toNat →
    exec (.rEnd l r) s = .next (setLane l { lane s l with cycles := (lane s l).cycles + 1, trap := 6 } s)) ∧
  (∀ (s : State) (l : Nat) (r : RFields), laneTakes 0x02 l r s →
    exec (.rTrap l r) s = .next (setLane l { lane s l with
      cycles := (lane s l).cycles + 1, trap := 1, code := r.imm.toNat % 256 } s)) ∧
  (∀ (s : State) (l : Nat) (r : RFields), laneTakes 0x03 l r s → (lane s l).cycles < 1023 →
    exec (.rJmp l r) s = .next (setLane l { lane s l with cycles := (lane s l).cycles + 2, pc := r.imm.toNat } s)) ∧
  (∀ (s : State) (l : Nat) (r : RFields), laneTakes 0x04 l r s → (lane s l).cycles < 1023 →
    exec (.rBz l r) s = .next (if sGet (lane s l) r.a = 0 then
      setLane l { lane s l with cycles := (lane s l).cycles + 2, pc := r.imm.toNat } s else laneOn l id s)) ∧
  (∀ (s : State) (l : Nat) (r : RFields), laneTakes 0x05 l r s → (lane s l).cycles < 1023 →
    exec (.rBnz l r) s = .next (if sGet (lane s l) r.a ≠ 0 then
      setLane l { lane s l with cycles := (lane s l).cycles + 2, pc := r.imm.toNat } s else laneOn l id s)) ∧
  (∀ (s : State) (l : Nat) (r : RFields), laneTakes 0x06 l r s → (lane s l).cycles < 1023 →
    exec (.rLoop l r) s = .next (if sGet (lane s l) r.a ≠ 1 then
        setLane l { lane s l with
          cycles := (lane s l).cycles + 2, pc := r.imm.toNat, r := (lane s l).r.set r.a (sGet (lane s l) r.a - 1) } s
      else laneOn l (fun x => { x with r := x.r.set r.a (sGet (lane s l) r.a - 1) }) s)) ∧
  (∀ (s : State) (i : Instr) (op l : Nat) (r : RFields), recipeRow i = some (op, l, r) → up s = true → l < 32 →
    (lane s l).trap = 0 → rReason op 256 r = 0 → 1024 ≤ (lane s l).cycles →
    exec i s = .next (setLane l { lane s l with trap := 2 } s)) ∧
  (∀ (s : State) (i : Instr) (op l : Nat) (r : RFields), recipeRow i = some (op, l, r) →
    (32 ≤ l ∨ (lane s l).trap ≠ 0 ∨ rReason op 256 r ≠ 0) → exec i s = .next s)

/-- Every scalar instruction writes its result to S[D] and nothing else, and the next word follows: wrapping 64-bit sums,
bitwise operations, shifts by the immediate with the sign kept on the way right, the signed bit length, the special values
(R184). Loads take 8 or 64 bytes of SRC (VLDB of BASE) at S[A] + IMM, lowest byte first, and trap with cause 3 beyond its
end and 5 without a BASE; stores put 8 or 64 bytes into OUT and no other byte of it, and trap with cause 4 beyond 65,536
(R184, R185). -/
def Obligations.RecipeScalars : Prop :=
  (∀ (s : State) (l : Nat) (r : RFields),
    let x := lane s l
    let put := fun (v : W64) => (laneOn l (fun y => { y with r := y.r.set r.d v }) s)
    (laneTakes 0x10 l r s → exec (.rSli l r) s = .next (put (r.imm.signExtend 64))) ∧
    (laneTakes 0x11 l r s → exec (.rSadd l r) s = .next (put (sGet x r.a + sGet x r.b))) ∧
    (laneTakes 0x12 l r s → exec (.rSaddi l r) s = .next (put (sGet x r.a + r.imm.signExtend 64))) ∧
    (laneTakes 0x13 l r s → exec (.rSsub l r) s = .next (put (sGet x r.a - sGet x r.b))) ∧
    (laneTakes 0x14 l r s → exec (.rSand l r) s = .next (put (sGet x r.a &&& sGet x r.b))) ∧
    (laneTakes 0x15 l r s → exec (.rSor l r) s = .next (put (sGet x r.a ||| sGet x r.b))) ∧
    (laneTakes 0x16 l r s → exec (.rSxor l r) s = .next (put (sGet x r.a ^^^ sGet x r.b))) ∧
    (laneTakes 0x17 l r s → exec (.rSshl l r) s = .next (put (BitVec.ofNat 64 ((sGet x r.a).toNat * 2 ^ r.imm.toNat)))) ∧
    (laneTakes 0x18 l r s → exec (.rSsra l r) s = .next (put (BitVec.ofInt 64 ((sGet x r.a).toInt / 2 ^ r.imm.toNat)))) ∧
    (laneTakes 0x19 l r s → ∃ n : Nat, exec (.rSblen l r) s = .next (put (BitVec.ofNat 64 n)) ∧ 1 ≤ n ∧ n ≤ 64 ∧
      -(2 ^ (n - 1) : Nat) ≤ (sGet x r.a).toInt ∧ (sGet x r.a).toInt < (2 ^ (n - 1) : Nat) ∧
      (1 < n → (sGet x r.a).toInt < -(2 ^ (n - 2) : Nat) ∨ (2 ^ (n - 2) : Nat) ≤ (sGet x r.a).toInt)) ∧
    (laneTakes 0x1A l r s → r.imm = 0 → exec (.rSget l r) s = .next (put (BitVec.ofNat 64 x.src.length))) ∧
    (laneTakes 0x1A l r s → r.imm = 3 → exec (.rSget l r) s = .next (put (BitVec.ofNat 64 x.epoch))) ∧
    (laneTakes 0x1A l r s → r.imm = 4 → exec (.rSget l r) s = .next (put (BitVec.ofNat 64 x.stream))) ∧
    (laneTakes 0x1A l r s → r.imm = 5 → exec (.rSget l r) s = .next (put (if x.base.isSome = true then 1 else 0))) ∧
    (laneTakes 0x1A l r s → r.imm = 7 → exec (.rSget l r) s = .next (put (BitVec.ofNat 64 x.sat)))) ∧
  (∀ (s : State) (l : Nat) (r : RFields),
    let x := lane s l
    let a := (sGet x r.a + r.imm.signExtend 64).toNat
    let go := fun (f : Lane → Lane) => (laneOn l f s)
    let trap := fun (n : Nat) => 
      (setLane l { x with cycles := x.cycles + 1, trap := n } s)
    (laneTakes 0x20 l r s → a + 64 ≤ x.src.length →
      exec (.rVld l r) s = .next (go fun y => { y with v := y.v.set r.d (BitVec.ofNat 512 (fld x.src a 64)) })) ∧
    (laneTakes 0x20 l r s → x.src.length < a + 64 → exec (.rVld l r) s = .next (trap 3)) ∧
    (∀ b : Bytes, laneTakes 0x21 l r s → x.base = some b → a + 64 ≤ b.length →
      exec (.rVldb l r) s = .next (go fun y => { y with v := y.v.set r.d (BitVec.ofNat 512 (fld b a 64)) })) ∧
    (∀ b : Bytes, laneTakes 0x21 l r s → x.base = some b → b.length < a + 64 → exec (.rVldb l r) s = .next (trap 3)) ∧
    (laneTakes 0x21 l r s → x.base = none → exec (.rVldb l r) s = .next (trap 5)) ∧
    (laneTakes 0x23 l r s → a + 8 ≤ x.src.length →
      exec (.rSld l r) s = .next (go fun y => { y with r := y.r.set r.d (BitVec.ofNat 64 (fld x.src a 8)) })) ∧
    (laneTakes 0x23 l r s → x.src.length < a + 8 → exec (.rSld l r) s = .next (trap 3)) ∧
    (∀ (w : Nat) (i : Instr), (i = .rVst l r ∧ w = 64 ∧ laneTakes 0x22 l r s ∨ i = .rSst l r ∧ w = 8 ∧ laneTakes 0x24 l r s) →
      let d := if w = 64 then toLE 64 (vGet x r.b).toNat else toLE 8 (sGet x r.b).toNat
      (65536 < a + w → exec i s = .next (trap 4)) ∧
      (a + w ≤ 65536 → ∃ o, exec i s = .next (go fun y => { y with out := o }) ∧ o.length = max x.out.length (a + w) ∧
        ∀ k : Nat, o.getD k 0 = if a ≤ k ∧ k < a + w then d.getD (k - a) 0 else x.out.getD k 0)))

/-- A vector made of elements holds each of them at its width, and every register is the vector of its elements (R184). -/
def Obligations.VectorElements : Prop :=
  (∀ (c : Nat) (xs : List Int), c ≤ 4 → xs.length = wElems c →
    vElems c (ofElems c xs) = xs.map fun x => sext (wBits c) (wrapN (wBits c) x)) ∧
  (∀ (c : Nat) (x : BitVec 512), c ≤ 4 → ofElems c (vElems c x) = x) ∧
  (∀ (c : Nat) (x : BitVec 512), c ≤ 4 → (vElems c x).length = wElems c ∧
    ∀ y ∈ vElems c x, -(2 ^ (wBits c - 1) : Nat) ≤ y ∧ y < (2 ^ (wBits c - 1) : Nat)) ∧
  (∀ (w : Nat) (x : Int), w ≤ 32 → 1 ≤ w → -(2 ^ (w - 1) : Nat) ≤ (clampW w x).1 ∧ (clampW w x).1 < (2 ^ (w - 1) : Nat) ∧
    ((clampW w x).2 = false ↔ -(2 ^ (w - 1) : Nat) ≤ x ∧ x < (2 ^ (w - 1) : Nat)) ∧ ((clampW w x).2 = false → (clampW w x).1 = x))

/-- Every element-wise vector instruction gives V[D] its elements from those of its operands at the same place; with SAT
each element is clamped to the rails and counted, otherwise it wraps; nothing else changes (R184). VEXT takes one signed
element to S[D] and VINS puts S[A] into one element of V[D]; VCMPZ tells whether a vector is zero and VABSMAX gives the
largest magnitude in it; VRQ requantizes every element by S[B] bits into a width and counts its clamps; VNARROW packs the
clamped elements into part of V[D], VWIDEN takes a part of V[A] apart, extended as F says (R172, R184). -/
def Obligations.RecipeVectors : Prop :=
  (∀ (s : State) (l : Nat) (r : RFields),
    let x := lane s l
    let es := vElems r.w (vGet x r.a)
    let fs := vElems r.w (vGet x r.b)
    let put := fun (v : BitVec 512) => (laneOn l (fun y => { y with v := y.v.set r.d v }) s)
    let fit := fun (zs : List Int) => if r.f = true then (laneOn l (fun y => { y with
        v := y.v.set r.d (ofElems r.w (zs.map fun z => (clampW (wBits r.w) z).1))
        sat := y.sat + (zs.filter fun z => (clampW (wBits r.w) z).2).length }) s)
      else put (ofElems r.w zs)
    (laneTakes 0x30 l r s → exec (.rVadd l r) s = .next (fit (es.zipWith (· + ·) fs))) ∧
    (laneTakes 0x31 l r s → exec (.rVsub l r) s = .next (fit (es.zipWith (· - ·) fs))) ∧
    (laneTakes 0x32 l r s → exec (.rVmin l r) s = .next (put (ofElems r.w (es.zipWith min fs)))) ∧
    (laneTakes 0x33 l r s → exec (.rVmax l r) s = .next (put (ofElems r.w (es.zipWith max fs)))) ∧
    (laneTakes 0x34 l r s → exec (.rVand l r) s = .next (put (vGet x r.a &&& vGet x r.b))) ∧
    (laneTakes 0x35 l r s → exec (.rVor l r) s = .next (put (vGet x r.a ||| vGet x r.b))) ∧
    (laneTakes 0x36 l r s → exec (.rVxor l r) s = .next (put (vGet x r.a ^^^ vGet x r.b))) ∧
    (laneTakes 0x37 l r s → exec (.rVshl l r) s = .next (fit (es.map fun e => e * (2 ^ r.imm.toNat : Nat)))) ∧
    (laneTakes 0x38 l r s → exec (.rVsra l r) s = .next (put (ofElems r.w (es.map fun e => e / (2 ^ r.imm.toNat : Nat))))) ∧
    (laneTakes 0x39 l r s → ∃ v, exec (.rVbcast l r) s = .next (put v) ∧
      ∀ e ∈ vElems r.w v, e = sext (wBits r.w) (sGet x r.a).toNat)) ∧
  (∀ (s : State) (l : Nat) (r : RFields),
    let x := lane s l
    let es := vElems r.w (vGet x r.a)
    let wo := r.imm.toNat % 8
    let part := r.imm.toNat / 2 ^ 8 % 2 ^ 8
    let puts := fun (v : W64) => (laneOn l (fun y => { y with r := y.r.set r.d v }) s)
    let put := fun (v : BitVec 512) => (laneOn l (fun y => { y with v := y.v.set r.d v }) s)
    (laneTakes 0x3A l r s → exec (.rVext l r) s = .next (puts (BitVec.ofInt 64 (es.getD r.imm.toNat 0)))) ∧
    (laneTakes 0x3B l r s → exec (.rVins l r) s = .next
      (put (ofElems r.w ((vElems r.w (vGet x r.d)).set r.imm.toNat (sGet x r.a).toInt)))) ∧
    (laneTakes 0x3C l r s → exec (.rVcmpz l r) s = .next (puts (if vGet x r.a = 0 then 1 else 0))) ∧
    (laneTakes 0x3D l r s → ∃ n : Nat, exec (.rVabsmax l r) s = .next (puts (BitVec.ofNat 64 n)) ∧ (∀ e ∈ es, e.natAbs ≤ n) ∧
      ∃ e ∈ es, e.natAbs = n) ∧
    (laneTakes 0x3E l r s → r.f = false → exec (.rVrq l r) s = .next (laneOn l (fun y => { y with
      v := y.v.set r.d (ofElems r.w (es.map fun e => (rq e ((sGet x r.b).toNat % 64) (wBits wo) none).1))
      sat := y.sat + (es.filter fun e => (rq e ((sGet x r.b).toNat % 64) (wBits wo) none).2).length }) s)) ∧
    (laneTakes 0x3E l r s → r.f = true → ∃ t, exec (.rVrq l r) s = .next t ∧
      (lane t l).lfsr = ((List.range (wElems r.w)).foldl (fun a _ => lfsrStep a) x.lfsr) ∧
      (lane t l).out = x.out ∧ (lane t l).r = x.r ∧ ∀ k, k ≠ l → lane t k = lane s k) ∧
    (laneTakes 0x3F l r s → exec (.rVnarrow l r) s = .next (laneOn l (fun y => { y with
      v := y.v.set r.d (ofElems wo ((vElems wo (vGet x r.d)).take (part * wElems r.w) ++
        (es.map fun e => (clampW (wBits wo) e).1) ++ (vElems wo (vGet x r.d)).drop (part * wElems r.w + wElems r.w)))
      sat := y.sat + (es.filter fun e => (clampW (wBits wo) e).2).length }) s)) ∧
    (laneTakes 0x40 l r s → exec (.rVwiden l r) s = .next (put (ofElems wo (((es.drop (part * wElems wo)).take (wElems wo)).map fun e =>
      if r.f = true then ((wrapN (wBits r.w) e : Nat) : Int) else e)))))
end

