-- ==== Sys2Proof/Laws/ControlOps.lean ====
section
/-! SUPPORT. Operations that leave the control part of the state as it is: one lemma each, for
the shared operations, the arbiters, the registers, messages, recipes, the tracker and the filters. -/

set_option Elab.async false

set_option linter.all false

namespace Sys2Proof.Machine

theorem ctl_ite (p : Prop) [Decidable p] (a b : State) : ctl (if p then a else b) = if p then ctl a else ctl b := by
  split <;> rfl

theorem ctl_keep (x : State) (a b c d e f g h i j k) : ctl (State.mk a x.pins x.regs b c d e f g h i x.pwr x.dbg j k x.pending) =
    ctl x := rfl

theorem ctl_keepR (x : State) (a b c d e f g h i j k) (r1 r2 r3 r4 r5 r6 r7 r8 r9 r10 r11 r12 r13 r14 r15) : ctl
    (State.mk a x.pins (Regs.mk x.regs.shadow r1 r2 r3 r4 r5 r6 r7 r8 r9 r10 r11 r12 r13 r14 r15) b c d e f g h i x.pwr x.dbg
    j k x.pending) = ctl x := rfl

theorem ctl_mk (a b c d e f g h i j k l m n o p) :
    ctl (State.mk a b c d e f g h i j k l m n o p) = Ctl.mk c.shadow p l.state b.rst m.state := rfl

theorem ctl_self (s : State) : Ctl.mk s.regs.shadow s.pending s.pwr.state s.pins.rst s.dbg.state = ctl s := rfl

theorem onQ_ctl (a1 a2 s) : ctl (onQ a1 a2 s) = ctl s := by
  unfold onQ
  repeat' first
    | (simp only [↓ctl_ite, ↓ctl_keep, ↓ctl_keepR, ctl_mk, ctl_self, ite_self, implies_true]; done)
    | split
    | simp only [↓ctl_ite, ↓ctl_keep, ↓ctl_keepR, ctl_mk, ctl_self, ite_self, implies_true]

theorem onCmd_ctl (a1 a2 a3 s) : ctl (onCmd a1 a2 a3 s) = ctl s := by
  unfold onCmd
  repeat' first
    | (simp only [↓ctl_ite, ↓ctl_keep, ↓ctl_keepR, ctl_mk, ctl_self, ite_self, implies_true]; done)
    | split
    | simp only [↓ctl_ite, ↓ctl_keep, ↓ctl_keepR, ctl_mk, ctl_self, ite_self, implies_true]

theorem onEpoch_ctl (a1 a2 s) : ctl (onEpoch a1 a2 s) = ctl s := by
  unfold onEpoch
  repeat' first
    | (simp only [↓ctl_ite, ↓ctl_keep, ↓ctl_keepR, ctl_mk, ctl_self, ite_self, implies_true]; done)
    | split
    | simp only [↓ctl_ite, ↓ctl_keep, ↓ctl_keepR, ctl_mk, ctl_self, ite_self, implies_true]

theorem onPort_ctl (a1 a2 s) : ctl (onPort a1 a2 s) = ctl s := by
  unfold onPort
  repeat' first
    | (simp only [↓ctl_ite, ↓ctl_keep, ↓ctl_keepR, ctl_mk, ctl_self, ite_self, implies_true]; done)
    | split
    | simp only [↓ctl_ite, ↓ctl_keep, ↓ctl_keepR, ctl_mk, ctl_self, ite_self, implies_true]

theorem onCtx_ctl (a1 a2 s) : ctl (onCtx a1 a2 s) = ctl s := by
  unfold onCtx
  repeat' first
    | (simp only [↓ctl_ite, ↓ctl_keep, ↓ctl_keepR, ctl_mk, ctl_self, ite_self, implies_true]; done)
    | split
    | simp only [↓ctl_ite, ↓ctl_keep, ↓ctl_keepR, ctl_mk, ctl_self, ite_self, implies_true]

theorem onRegion_ctl (a1 a2 s) : ctl (onRegion a1 a2 s) = ctl s := by
  unfold onRegion
  repeat' first
    | (simp only [↓ctl_ite, ↓ctl_keep, ↓ctl_keepR, ctl_mk, ctl_self, ite_self, implies_true]; done)
    | split
    | simp only [↓ctl_ite, ↓ctl_keep, ↓ctl_keepR, ctl_mk, ctl_self, ite_self, implies_true]

theorem when_ctl (a1) (a2 : State → State) (s) (h0 : ∀ t, ctl (a2 t) = ctl t) : ctl (when a1 a2 s) = ctl s := by
  unfold when
  repeat' first
    | (simp only [↓ctl_ite, ↓ctl_keep, ↓ctl_keepR, ctl_mk, ctl_self, ite_self, implies_true, h0]; done)
    | split
    | simp only [↓ctl_ite, ↓ctl_keep, ↓ctl_keepR, ctl_mk, ctl_self, ite_self, implies_true, h0]

theorem each_ctl {α : Type} (l : List α) (f : α → State → State) (s : State) (h : ∀ a s, ctl (f a s) = ctl s) :
    ctl (each l f s) = ctl s := by
  unfold each; induction l generalizing s with
  | nil => rfl
  | cons a l ih => simp [ih, h]

theorem laneClean_ctl (a1 a2 s) : ctl (laneClean a1 a2 s) = ctl s := by
  unfold laneClean
  repeat' first
    | (simp only [↓ctl_ite, ↓ctl_keep, ↓ctl_keepR, ctl_mk, ctl_self, ite_self, implies_true]; done)
    | split
    | simp only [↓ctl_ite, ↓ctl_keep, ↓ctl_keepR, ctl_mk, ctl_self, ite_self, implies_true]

theorem flipHook_ctl (a1 a2 s) : ctl (flipHook a1 a2 s) = ctl s := by
  unfold flipHook
  repeat' first
    | (simp only [↓ctl_ite, ↓ctl_keep, ↓ctl_keepR, ctl_mk, ctl_self, ite_self, implies_true, ↓laneClean_ctl]; done)
    | split
    | simp only [↓ctl_ite, ↓ctl_keep, ↓ctl_keepR, ctl_mk, ctl_self, ite_self, implies_true, ↓laneClean_ctl]

theorem wordWrite_ctl (a1 a2 s) : ctl (wordWrite a1 a2 s) = ctl s := by
  unfold wordWrite
  repeat' first
    | (simp only [↓ctl_ite, ↓ctl_keep, ↓ctl_keepR, ctl_mk, ctl_self, ite_self, implies_true, ↓laneClean_ctl,
          ↓flipHook_ctl]; done)
    | split
    | simp only [↓ctl_ite, ↓ctl_keep, ↓ctl_keepR, ctl_mk, ctl_self, ite_self, implies_true, ↓laneClean_ctl,
          ↓flipHook_ctl]

theorem hbReq_ctl (a1 a2 a3 a4 a5 a6 a7 a8 a9 s) : ctl (hbReq a1 a2 a3 a4 a5 a6 a7 a8 a9 s) = ctl s := by
  unfold hbReq
  repeat' first
    | (simp only [↓ctl_ite, ↓ctl_keep, ↓ctl_keepR, ctl_mk, ctl_self, ite_self, implies_true]; done)
    | split
    | simp only [↓ctl_ite, ↓ctl_keep, ↓ctl_keepR, ctl_mk, ctl_self, ite_self, implies_true]

theorem hbWrite_ctl (a1 a2 a3 a4 s) : ctl (hbWrite a1 a2 a3 a4 s) = ctl s := by
  unfold hbWrite
  repeat' first
    | (simp only [↓ctl_ite, ↓ctl_keep, ↓ctl_keepR, ctl_mk, ctl_self, ite_self, implies_true, ↓hbReq_ctl]; done)
    | split
    | simp only [↓ctl_ite, ↓ctl_keep, ↓ctl_keepR, ctl_mk, ctl_self, ite_self, implies_true, ↓hbReq_ctl]

theorem hbRead_ctl (a1 a2 a3 a4 s) : ctl (hbRead a1 a2 a3 a4 s) = ctl s := by
  unfold hbRead
  repeat' first
    | (simp only [↓ctl_ite, ↓ctl_keep, ↓ctl_keepR, ctl_mk, ctl_self, ite_self, implies_true, ↓hbReq_ctl]; done)
    | split
    | simp only [↓ctl_ite, ↓ctl_keep, ↓ctl_keepR, ctl_mk, ctl_self, ite_self, implies_true, ↓hbReq_ctl]

theorem hbSector_ctl (a1 a2 a3 a4 a5 a6 a7 s) : ctl (hbSector a1 a2 a3 a4 a5 a6 a7 s) = ctl s := by
  unfold hbSector
  repeat' first
    | (simp only [↓ctl_ite, ↓ctl_keep, ↓ctl_keepR, ctl_mk, ctl_self, ite_self, implies_true, ↓hbReq_ctl]; done)
    | split
    | simp only [↓ctl_ite, ↓ctl_keep, ↓ctl_keepR, ctl_mk, ctl_self, ite_self, implies_true, ↓hbReq_ctl]

theorem readCtl_ctl (a1 a2 a3 a4 s) : ctl (readCtl a1 a2 a3 a4 s) = ctl s := by
  unfold readCtl
  repeat' first
    | (simp only [↓ctl_ite, ↓ctl_keep, ↓ctl_keepR, ctl_mk, ctl_self, ite_self, implies_true]; done)
    | split
    | simp only [↓ctl_ite, ↓ctl_keep, ↓ctl_keepR, ctl_mk, ctl_self, ite_self, implies_true]

theorem useGrant_ctl (a1 s) : ctl (useGrant a1 s) = ctl s := by
  unfold useGrant
  repeat' first
    | (simp only [↓ctl_ite, ↓ctl_keep, ↓ctl_keepR, ctl_mk, ctl_self, ite_self, implies_true, ↓readCtl_ctl]; done)
    | split
    | simp only [↓ctl_ite, ↓ctl_keep, ↓ctl_keepR, ctl_mk, ctl_self, ite_self, implies_true, ↓readCtl_ctl]

theorem hit_ctl (a1 s) : ctl (hit a1 s) = ctl s := by
  unfold hit
  repeat' first
    | (simp only [↓ctl_ite, ↓ctl_keep, ↓ctl_keepR, ctl_mk, ctl_self, ite_self, implies_true]; done)
    | split
    | simp only [↓ctl_ite, ↓ctl_keep, ↓ctl_keepR, ctl_mk, ctl_self, ite_self, implies_true]

theorem hitKind_ctl (a1 a2 s) : ctl (hitKind a1 a2 s) = ctl s := by
  unfold hitKind
  repeat' first
    | (simp only [↓ctl_ite, ↓ctl_keep, ↓ctl_keepR, ctl_mk, ctl_self, ite_self, implies_true, ↓hit_ctl]; done)
    | split
    | simp only [↓ctl_ite, ↓ctl_keep, ↓ctl_keepR, ctl_mk, ctl_self, ite_self, implies_true, ↓hit_ctl]

theorem fabReqBy_ctl (a1 a2 a3 a4 a5 a6 a7 a8 a9 a10 s) :
    ctl (fabReqBy a1 a2 a3 a4 a5 a6 a7 a8 a9 a10 s) = ctl s := by
  unfold fabReqBy
  repeat' first
    | (simp only [↓ctl_ite, ↓ctl_keep, ↓ctl_keepR, ctl_mk, ctl_self, ite_self, implies_true, ↓hit_ctl]; done)
    | split
    | simp only [↓ctl_ite, ↓ctl_keep, ↓ctl_keepR, ctl_mk, ctl_self, ite_self, implies_true, ↓hit_ctl]

theorem fabReq_ctl (a1 a2 a3 a4 a5 a6 a7 s) : ctl (fabReq a1 a2 a3 a4 a5 a6 a7 s) = ctl s := by
  unfold fabReq
  repeat' first
    | (simp only [↓ctl_ite, ↓ctl_keep, ↓ctl_keepR, ctl_mk, ctl_self, ite_self, implies_true, ↓fabReqBy_ctl]; done)
    | split
    | simp only [↓ctl_ite, ↓ctl_keep, ↓ctl_keepR, ctl_mk, ctl_self, ite_self, implies_true, ↓fabReqBy_ctl]

theorem msix_ctl (a1 a2 s) : ctl (msix a1 a2 s) = ctl s := by
  unfold msix
  repeat' first
    | (simp only [↓ctl_ite, ↓ctl_keep, ↓ctl_keepR, ctl_mk, ctl_self, ite_self, implies_true]; done)
    | split
    | simp only [↓ctl_ite, ↓ctl_keep, ↓ctl_keepR, ctl_mk, ctl_self, ite_self, implies_true]

theorem writeEvent_ctl (a1 s) : ctl (writeEvent a1 s) = ctl s := by
  unfold writeEvent
  repeat' first
    | (simp only [↓ctl_ite, ↓ctl_keep, ↓ctl_keepR, ctl_mk, ctl_self, ite_self, implies_true, ↓hbWrite_ctl,
          ↓msix_ctl]; done)
    | split
    | simp only [↓ctl_ite, ↓ctl_keep, ↓ctl_keepR, ctl_mk, ctl_self, ite_self, implies_true, ↓hbWrite_ctl, ↓msix_ctl]

theorem writeOverflow_ctl (s) : ctl (writeOverflow s) = ctl s := by
  unfold writeOverflow
  repeat' first
    | (simp only [↓ctl_ite, ↓ctl_keep, ↓ctl_keepR, ctl_mk, ctl_self, ite_self, implies_true, ↓writeEvent_ctl]; done)
    | split
    | simp only [↓ctl_ite, ↓ctl_keep, ↓ctl_keepR, ctl_mk, ctl_self, ite_self, implies_true, ↓writeEvent_ctl]

theorem flushHeld_ctl (a1 s) : ctl (flushHeld a1 s) = ctl s := by
  fun_induction flushHeld a1 s <;>
    repeat' first
      | (simp +zetaDelta only [*, ↓ctl_ite, ↓ctl_keep, ↓ctl_keepR, ctl_mk, ctl_self, ite_self, implies_true,
            ↓writeEvent_ctl, ↓writeOverflow_ctl]; done)
      | split
      | simp +zetaDelta only [*, ↓ctl_ite, ↓ctl_keep, ↓ctl_keepR, ctl_mk, ctl_self, ite_self, implies_true,
            ↓writeEvent_ctl, ↓writeOverflow_ctl]

theorem catchUp_ctl (s) : ctl (catchUp s) = ctl s := by
  unfold catchUp
  repeat' first
    | (simp only [↓ctl_ite, ↓ctl_keep, ↓ctl_keepR, ctl_mk, ctl_self, ite_self, implies_true, ↓flushHeld_ctl]; done)
    | split
    | simp only [↓ctl_ite, ↓ctl_keep, ↓ctl_keepR, ctl_mk, ctl_self, ite_self, implies_true, ↓flushHeld_ctl]

theorem dropEvent_ctl (s) : ctl (dropEvent s) = ctl s := by
  unfold dropEvent
  repeat' first
    | (simp only [↓ctl_ite, ↓ctl_keep, ↓ctl_keepR, ctl_mk, ctl_self, ite_self, implies_true]; done)
    | split
    | simp only [↓ctl_ite, ↓ctl_keep, ↓ctl_keepR, ctl_mk, ctl_self, ite_self, implies_true]

theorem emit_ctl (a1 s) : ctl (emit a1 s) = ctl s := by
  unfold emit
  repeat' first
    | (simp only [↓ctl_ite, ↓ctl_keep, ↓ctl_keepR, ctl_mk, ctl_self, ite_self, implies_true, ↓hitKind_ctl,
          ↓writeEvent_ctl, ↓dropEvent_ctl, ↓catchUp_ctl]; done)
    | split
    | simp only [↓ctl_ite, ↓ctl_keep, ↓ctl_keepR, ctl_mk, ctl_self, ite_self, implies_true, ↓hitKind_ctl,
          ↓writeEvent_ctl, ↓dropEvent_ctl, ↓catchUp_ctl]

theorem raise_ctl (a1 a2 a3 a4 a5 s) : ctl (raise a1 a2 a3 a4 a5 s) = ctl s := by
  unfold raise
  repeat' first
    | (simp only [↓ctl_ite, ↓ctl_keep, ↓ctl_keepR, ctl_mk, ctl_self, ite_self, implies_true, ↓emit_ctl]; done)
    | split
    | simp only [↓ctl_ite, ↓ctl_keep, ↓ctl_keepR, ctl_mk, ctl_self, ite_self, implies_true, ↓emit_ctl]

theorem raise0_ctl (a1 a2 a3 s) : ctl (raise0 a1 a2 a3 s) = ctl s := by
  unfold raise0
  repeat' first
    | (simp only [↓ctl_ite, ↓ctl_keep, ↓ctl_keepR, ctl_mk, ctl_self, ite_self, implies_true, ↓raise_ctl]; done)
    | split
    | simp only [↓ctl_ite, ↓ctl_keep, ↓ctl_keepR, ctl_mk, ctl_self, ite_self, implies_true, ↓raise_ctl]

theorem writeMirrorHeader_ctl (s) : ctl (writeMirrorHeader s) = ctl s := by
  unfold writeMirrorHeader
  repeat' first
    | (simp only [↓ctl_ite, ↓ctl_keep, ↓ctl_keepR, ctl_mk, ctl_self, ite_self, implies_true, ↓hbWrite_ctl]; done)
    | split
    | simp only [↓ctl_ite, ↓ctl_keep, ↓ctl_keepR, ctl_mk, ctl_self, ite_self, implies_true, ↓hbWrite_ctl]

theorem mirrorRec_ctl (a1 s) : ctl (mirrorRec a1 s) = ctl s := by
  unfold mirrorRec
  repeat' first
    | (simp only [↓ctl_ite, ↓ctl_keep, ↓ctl_keepR, ctl_mk, ctl_self, ite_self, implies_true, ↓hbWrite_ctl]; done)
    | split
    | simp only [↓ctl_ite, ↓ctl_keep, ↓ctl_keepR, ctl_mk, ctl_self, ite_self, implies_true, ↓hbWrite_ctl]

theorem appendRec_ctl (a1 s) : ctl (appendRec a1 s) = ctl s := by
  unfold appendRec
  repeat' first
    | (simp only [↓ctl_ite, ↓ctl_keep, ↓ctl_keepR, ctl_mk, ctl_self, ite_self, implies_true, ↓wordWrite_ctl,
          ↓mirrorRec_ctl]; done)
    | split
    | simp only [↓ctl_ite, ↓ctl_keep, ↓ctl_keepR, ctl_mk, ctl_self, ite_self, implies_true, ↓wordWrite_ctl,
          ↓mirrorRec_ctl]

theorem reclaim_ctl (a1 s) : ctl (reclaim a1 s) = ctl s := by
  fun_induction reclaim a1 s <;>
    repeat' first
      | (simp +zetaDelta only [*, ↓ctl_ite, ↓ctl_keep, ↓ctl_keepR, ctl_mk, ctl_self, ite_self, implies_true,
            ↓each_ctl, ↓appendRec_ctl]; done)
      | split
      | simp +zetaDelta only [*, ↓ctl_ite, ↓ctl_keep, ↓ctl_keepR, ctl_mk, ctl_self, ite_self, implies_true,
            ↓each_ctl, ↓appendRec_ctl]

theorem checkLow_ctl (s) : ctl (checkLow s) = ctl s := by
  unfold checkLow
  repeat' first
    | (simp only [↓ctl_ite, ↓ctl_keep, ↓ctl_keepR, ctl_mk, ctl_self, ite_self, implies_true, ↓raise0_ctl]; done)
    | split
    | simp only [↓ctl_ite, ↓ctl_keep, ↓ctl_keepR, ctl_mk, ctl_self, ite_self, implies_true, ↓raise0_ctl]

theorem append_ctl (a1 a2 a3 a4 a5 a6 s) : ctl (append a1 a2 a3 a4 a5 a6 s) = ctl s := by
  unfold append
  repeat' first
    | (simp only [↓ctl_ite, ↓ctl_keep, ↓ctl_keepR, ctl_mk, ctl_self, ite_self, implies_true, ↓reclaim_ctl,
          ↓checkLow_ctl, ↓appendRec_ctl]; done)
    | split
    | simp only [↓ctl_ite, ↓ctl_keep, ↓ctl_keepR, ctl_mk, ctl_self, ite_self, implies_true, ↓reclaim_ctl,
          ↓checkLow_ctl, ↓appendRec_ctl]

theorem kill_ctl (a1 s) : ctl (kill a1 s) = ctl s := by
  unfold kill
  repeat' first
    | (simp only [↓ctl_ite, ↓ctl_keep, ↓ctl_keepR, ctl_mk, ctl_self, ite_self, implies_true]; done)
    | split
    | simp only [↓ctl_ite, ↓ctl_keep, ↓ctl_keepR, ctl_mk, ctl_self, ite_self, implies_true]

theorem setPhase_ctl (a1 a2 s) : ctl (setPhase a1 a2 s) = ctl s := by
  unfold setPhase
  repeat' first
    | (simp only [↓ctl_ite, ↓ctl_keep, ↓ctl_keepR, ctl_mk, ctl_self, ite_self, implies_true, ↓append_ctl,
          ↓kill_ctl, ↓onEpoch_ctl]; done)
    | split
    | simp only [↓ctl_ite, ↓ctl_keep, ↓ctl_keepR, ctl_mk, ctl_self, ite_self, implies_true, ↓append_ctl, ↓kill_ctl,
          ↓onEpoch_ctl]

theorem mark_ctl (a1 a2 a3 a4 s) : ctl (mark a1 a2 a3 a4 s) = ctl s := by
  unfold mark
  repeat' first
    | (simp only [↓ctl_ite, ↓ctl_keep, ↓ctl_keepR, ctl_mk, ctl_self, ite_self, implies_true]; done)
    | split
    | simp only [↓ctl_ite, ↓ctl_keep, ↓ctl_keepR, ctl_mk, ctl_self, ite_self, implies_true]

theorem freeGens_ctl (s) : ctl (freeGens s) = ctl s := by
  unfold freeGens
  repeat' first
    | (simp only [↓ctl_ite, ↓ctl_keep, ↓ctl_keepR, ctl_mk, ctl_self, ite_self, implies_true, ↓each_ctl,
          ↓raise0_ctl]; done)
    | split
    | simp only [↓ctl_ite, ↓ctl_keep, ↓ctl_keepR, ctl_mk, ctl_self, ite_self, implies_true, ↓each_ctl, ↓raise0_ctl]

theorem finish_ctl (a1 a2 a3 a4 s) : ctl (finish a1 a2 a3 a4 s) = ctl s := by
  unfold finish
  repeat' first
    | (simp only [↓ctl_ite, ↓ctl_keep, ↓ctl_keepR, ctl_mk, ctl_self, ite_self, implies_true, ↓append_ctl,
          ↓kill_ctl, ↓onCmd_ctl, ↓freeGens_ctl]; done)
    | split
    | simp only [↓ctl_ite, ↓ctl_keep, ↓ctl_keepR, ctl_mk, ctl_self, ite_self, implies_true, ↓append_ctl, ↓kill_ctl,
          ↓onCmd_ctl, ↓freeGens_ctl]

theorem malformed_ctl (a1 a2 a3 s) : ctl (malformed a1 a2 a3 s) = ctl s := by
  unfold malformed
  repeat' first
    | (simp only [↓ctl_ite, ↓ctl_keep, ↓ctl_keepR, ctl_mk, ctl_self, ite_self, implies_true, ↓finish_ctl]; done)
    | split
    | simp only [↓ctl_ite, ↓ctl_keep, ↓ctl_keepR, ctl_mk, ctl_self, ite_self, implies_true, ↓finish_ctl]

theorem planReject_ctl (a1 a2 a3 s) : ctl (planReject a1 a2 a3 s) = ctl s := by
  unfold planReject
  repeat' first
    | (simp only [↓ctl_ite, ↓ctl_keep, ↓ctl_keepR, ctl_mk, ctl_self, ite_self, implies_true, ↓raise0_ctl]; done)
    | split
    | simp only [↓ctl_ite, ↓ctl_keep, ↓ctl_keepR, ctl_mk, ctl_self, ite_self, implies_true, ↓raise0_ctl]

theorem free_ctl (s) : ctl (free s).2 = ctl s := by
  unfold free
  repeat' first
    | (simp only [↓ctl_ite, ↓ctl_keep, ↓ctl_keepR, ctl_mk, ctl_self, ite_self, implies_true]; done)
    | split
    | simp only [↓ctl_ite, ↓ctl_keep, ↓ctl_keepR, ctl_mk, ctl_self, ite_self, implies_true]

theorem drawn_ctl (s) : ctl (drawn s) = ctl s := by
  unfold drawn
  repeat' first
    | (simp only [↓ctl_ite, ↓ctl_keep, ↓ctl_keepR, ctl_mk, ctl_self, ite_self, implies_true]; done)
    | split
    | simp only [↓ctl_ite, ↓ctl_keep, ↓ctl_keepR, ctl_mk, ctl_self, ite_self, implies_true]

theorem eccCount_ctl (a1 a2 a3 s) : ctl (eccCount a1 a2 a3 s) = ctl s := by
  unfold eccCount
  repeat' first
    | (simp only [↓ctl_ite, ↓ctl_keep, ↓ctl_keepR, ctl_mk, ctl_self, ite_self, implies_true]; done)
    | split
    | simp only [↓ctl_ite, ↓ctl_keep, ↓ctl_keepR, ctl_mk, ctl_self, ite_self, implies_true]

theorem assayCount_ctl (a1 a2 s) : ctl (assayCount a1 a2 s) = ctl s := by
  unfold assayCount
  repeat' first
    | (simp only [↓ctl_ite, ↓ctl_keep, ↓ctl_keepR, ctl_mk, ctl_self, ite_self, implies_true]; done)
    | split
    | simp only [↓ctl_ite, ↓ctl_keep, ↓ctl_keepR, ctl_mk, ctl_self, ite_self, implies_true]

theorem latchGasp_ctl (a1 s) : ctl (latchGasp a1 s) = ctl s := by
  unfold latchGasp
  repeat' first
    | (simp only [↓ctl_ite, ↓ctl_keep, ↓ctl_keepR, ctl_mk, ctl_self, ite_self, implies_true]; done)
    | split
    | simp only [↓ctl_ite, ↓ctl_keep, ↓ctl_keepR, ctl_mk, ctl_self, ite_self, implies_true]

theorem runCmd_ctl (a1 a2 a3 a4) (a5 : Cmd → State → State) (s) (h0 : ∀ x0 t, ctl (a5 x0 t) = ctl t) :
    ctl (runCmd a1 a2 a3 a4 a5 s) = ctl s := by
  unfold runCmd
  repeat' first
    | (simp only [↓ctl_ite, ↓ctl_keep, ↓ctl_keepR, ctl_mk, ctl_self, ite_self, implies_true, ↓onCmd_ctl,
          ↓malformed_ctl, h0]; done)
    | split
    | simp only [↓ctl_ite, ↓ctl_keep, ↓ctl_keepR, ctl_mk, ctl_self, ite_self, implies_true, ↓onCmd_ctl,
          ↓malformed_ctl, h0]

theorem dropPatch_ctl (s) : ctl (dropPatch s) = ctl s := by
  unfold dropPatch
  repeat' first
    | (simp only [↓ctl_ite, ↓ctl_keep, ↓ctl_keepR, ctl_mk, ctl_self, ite_self, implies_true, ↓finish_ctl]; done)
    | split
    | simp only [↓ctl_ite, ↓ctl_keep, ↓ctl_keepR, ctl_mk, ctl_self, ite_self, implies_true, ↓finish_ctl]

theorem banksAllDirty_ctl (s) : ctl (banksAllDirty s) = ctl s := by
  unfold banksAllDirty
  repeat' first
    | (simp only [↓ctl_ite, ↓ctl_keep, ↓ctl_keepR, ctl_mk, ctl_self, ite_self, implies_true]; done)
    | split
    | simp only [↓ctl_ite, ↓ctl_keep, ↓ctl_keepR, ctl_mk, ctl_self, ite_self, implies_true]

theorem commitPatch_ctl (s) : ctl (commitPatch s) = ctl s := by
  unfold commitPatch
  repeat' first
    | (simp only [↓ctl_ite, ↓ctl_keep, ↓ctl_keepR, ctl_mk, ctl_self, ite_self, implies_true, ↓finish_ctl]; done)
    | split
    | simp only [↓ctl_ite, ↓ctl_keep, ↓ctl_keepR, ctl_mk, ctl_self, ite_self, implies_true, ↓finish_ctl]

theorem ringErr_ctl (a1 a2 s) : ctl (ringErr a1 a2 s) = ctl s := by
  unfold ringErr
  repeat' first
    | (simp only [↓ctl_ite, ↓ctl_keep, ↓ctl_keepR, ctl_mk, ctl_self, ite_self, implies_true]; done)
    | split
    | simp only [↓ctl_ite, ↓ctl_keep, ↓ctl_keepR, ctl_mk, ctl_self, ite_self, implies_true]

theorem newJournal_ctl (s) : ctl (newJournal s) = ctl s := by
  unfold newJournal
  repeat' first
    | (simp only [↓ctl_ite, ↓ctl_keep, ↓ctl_keepR, ctl_mk, ctl_self, ite_self, implies_true]; done)
    | split
    | simp only [↓ctl_ite, ↓ctl_keep, ↓ctl_keepR, ctl_mk, ctl_self, ite_self, implies_true]

theorem ringsUp_ctl (a1 a2 s) : ctl (ringsUp a1 a2 s) = ctl s := by
  unfold ringsUp
  repeat' first
    | (simp only [↓ctl_ite, ↓ctl_keep, ↓ctl_keepR, ctl_mk, ctl_self, ite_self, implies_true]; done)
    | split
    | simp only [↓ctl_ite, ↓ctl_keep, ↓ctl_keepR, ctl_mk, ctl_self, ite_self, implies_true]

theorem enableReads_ctl (s) : ctl (enableReads s) = ctl s := by
  unfold enableReads
  repeat' first
    | (simp only [↓ctl_ite, ↓ctl_keep, ↓ctl_keepR, ctl_mk, ctl_self, ite_self, implies_true, ↓readCtl_ctl]; done)
    | split
    | simp only [↓ctl_ite, ↓ctl_keep, ↓ctl_keepR, ctl_mk, ctl_self, ite_self, implies_true, ↓readCtl_ctl]

theorem ringEnableGo_ctl (a1 a2 a3 s) : ctl (ringEnableGo a1 a2 a3 s) = ctl s := by
  unfold ringEnableGo
  repeat' first
    | (simp only [↓ctl_ite, ↓ctl_keep, ↓ctl_keepR, ctl_mk, ctl_self, ite_self, implies_true, ↓enableReads_ctl,
          ↓ringErr_ctl, ↓newJournal_ctl, ↓writeMirrorHeader_ctl, ↓ringsUp_ctl]; done)
    | split
    | simp only [↓ctl_ite, ↓ctl_keep, ↓ctl_keepR, ctl_mk, ctl_self, ite_self, implies_true, ↓enableReads_ctl,
          ↓ringErr_ctl, ↓newJournal_ctl, ↓writeMirrorHeader_ctl, ↓ringsUp_ctl]

theorem ringEnable_ctl (a1 a2 a3 s) : ctl (ringEnable a1 a2 a3 s) = ctl s := by
  unfold ringEnable
  repeat' first
    | (simp only [↓ctl_ite, ↓ctl_keep, ↓ctl_keepR, ctl_mk, ctl_self, ite_self, implies_true, ↓ringEnableGo_ctl]; done)
    | split
    | simp only [↓ctl_ite, ↓ctl_keep, ↓ctl_keepR, ctl_mk, ctl_self, ite_self, implies_true, ↓ringEnableGo_ctl]

theorem enableResume_ctl (s) : ctl (enableResume s) = ctl s := by
  unfold enableResume
  repeat' first
    | (simp only [↓ctl_ite, ↓ctl_keep, ↓ctl_keepR, ctl_mk, ctl_self, ite_self, implies_true, ↓ringEnableGo_ctl]; done)
    | split
    | simp only [↓ctl_ite, ↓ctl_keep, ↓ctl_keepR, ctl_mk, ctl_self, ite_self, implies_true, ↓ringEnableGo_ctl]

theorem crcIn_ctl (a1 a2 s) : ctl (crcIn a1 a2 s) = ctl s := by
  unfold crcIn
  repeat' first
    | (simp only [↓ctl_ite, ↓ctl_keep, ↓ctl_keepR, ctl_mk, ctl_self, ite_self, implies_true]; done)
    | split
    | simp only [↓ctl_ite, ↓ctl_keep, ↓ctl_keepR, ctl_mk, ctl_self, ite_self, implies_true]

theorem mirrorRetry_ctl (s) : ctl (mirrorRetry s) = ctl s := by
  unfold mirrorRetry
  repeat' first
    | (simp only [↓ctl_ite, ↓ctl_keep, ↓ctl_keepR, ctl_mk, ctl_self, ite_self, implies_true]; done)
    | split
    | simp only [↓ctl_ite, ↓ctl_keep, ↓ctl_keepR, ctl_mk, ctl_self, ite_self, implies_true]

theorem flipArm_ctl (a1 s) : ctl (flipArm a1 s) = ctl s := by
  unfold flipArm
  repeat' first
    | (simp only [↓ctl_ite, ↓ctl_keep, ↓ctl_keepR, ctl_mk, ctl_self, ite_self, implies_true]; done)
    | split
    | simp only [↓ctl_ite, ↓ctl_keep, ↓ctl_keepR, ctl_mk, ctl_self, ite_self, implies_true]

theorem queueMsg_ctl (a1 a2 s) : ctl (queueMsg a1 a2 s) = ctl s := by
  unfold queueMsg
  repeat' first
    | (simp only [↓ctl_ite, ↓ctl_keep, ↓ctl_keepR, ctl_mk, ctl_self, ite_self, implies_true, ↓onPort_ctl]; done)
    | split
    | simp only [↓ctl_ite, ↓ctl_keep, ↓ctl_keepR, ctl_mk, ctl_self, ite_self, implies_true, ↓onPort_ctl]

theorem sendOn_ctl (a1 a2 s) : ctl (sendOn a1 a2 s) = ctl s := by
  unfold sendOn
  repeat' first
    | (simp only [↓ctl_ite, ↓ctl_keep, ↓ctl_keepR, ctl_mk, ctl_self, ite_self, implies_true, ↓queueMsg_ctl]; done)
    | split
    | simp only [↓ctl_ite, ↓ctl_keep, ↓ctl_keepR, ctl_mk, ctl_self, ite_self, implies_true, ↓queueMsg_ctl]

theorem useRecord_ctl (a1 s) : ctl (useRecord a1 s) = ctl s := by
  unfold useRecord
  repeat' first
    | (simp only [↓ctl_ite, ↓ctl_keep, ↓ctl_keepR, ctl_mk, ctl_self, ite_self, implies_true, ↓readCtl_ctl]; done)
    | split
    | simp only [↓ctl_ite, ↓ctl_keep, ↓ctl_keepR, ctl_mk, ctl_self, ite_self, implies_true, ↓readCtl_ctl]

theorem send_ctl (a1 s) : ctl (send a1 s) = ctl s := by
  unfold send
  repeat' first
    | (simp only [↓ctl_ite, ↓ctl_keep, ↓ctl_keepR, ctl_mk, ctl_self, ite_self, implies_true, ↓sendOn_ctl,
          ↓useRecord_ctl]; done)
    | split
    | simp only [↓ctl_ite, ↓ctl_keep, ↓ctl_keepR, ctl_mk, ctl_self, ite_self, implies_true, ↓sendOn_ctl,
          ↓useRecord_ctl]

theorem request_ctl (a1 a2 s) : ctl (request a1 a2 s) = ctl s := by
  unfold request
  repeat' first
    | (simp only [↓ctl_ite, ↓ctl_keep, ↓ctl_keepR, ctl_mk, ctl_self, ite_self, implies_true, ↓send_ctl]; done)
    | split
    | simp only [↓ctl_ite, ↓ctl_keep, ↓ctl_keepR, ctl_mk, ctl_self, ite_self, implies_true, ↓send_ctl]

theorem writeSector_ctl (a1 a2 a3 a4 a5 a6 a7 a8 a9 s) : ctl (writeSector a1 a2 a3 a4 a5 a6 a7 a8 a9 s) = ctl s := by
  unfold writeSector
  repeat' first
    | (simp only [↓ctl_ite, ↓ctl_keep, ↓ctl_keepR, ctl_mk, ctl_self, ite_self, implies_true, ↓request_ctl,
          ↓hbSector_ctl]; done)
    | split
    | simp only [↓ctl_ite, ↓ctl_keep, ↓ctl_keepR, ctl_mk, ctl_self, ite_self, implies_true, ↓request_ctl,
          ↓hbSector_ctl]

theorem setLane_ctl (a1 a2 s) : ctl (setLane a1 a2 s) = ctl s := by
  unfold setLane
  repeat' first
    | (simp only [↓ctl_ite, ↓ctl_keep, ↓ctl_keepR, ctl_mk, ctl_self, ite_self, implies_true]; done)
    | split
    | simp only [↓ctl_ite, ↓ctl_keep, ↓ctl_keepR, ctl_mk, ctl_self, ite_self, implies_true]

theorem recipeStep_ctl (a1 a2 a3 a4 s) : ctl (recipeStep a1 a2 a3 a4 s) = ctl s := by
  unfold recipeStep
  repeat' first
    | (simp only [↓ctl_ite, ↓ctl_keep, ↓ctl_keepR, ctl_mk, ctl_self, ite_self, implies_true, ↓when_ctl,
          ↓setLane_ctl]; done)
    | split
    | simp only [↓ctl_ite, ↓ctl_keep, ↓ctl_keepR, ctl_mk, ctl_self, ite_self, implies_true, ↓when_ctl, ↓setLane_ctl]

theorem sealReject_ctl (a1 a2 s) : ctl (sealReject a1 a2 s) = ctl s := by
  unfold sealReject
  repeat' first
    | (simp only [↓ctl_ite, ↓ctl_keep, ↓ctl_keepR, ctl_mk, ctl_self, ite_self, implies_true, ↓raise0_ctl]; done)
    | split
    | simp only [↓ctl_ite, ↓ctl_keep, ↓ctl_keepR, ctl_mk, ctl_self, ite_self, implies_true, ↓raise0_ctl]

theorem ceCount_ctl (a1 a2 s) : ctl (ceCount a1 a2 s) = ctl s := by
  unfold ceCount
  repeat' first
    | (simp only [↓ctl_ite, ↓ctl_keep, ↓ctl_keepR, ctl_mk, ctl_self, ite_self, implies_true, ↓laneClean_ctl,
          ↓eccCount_ctl, ↓raise0_ctl]; done)
    | split
    | simp only [↓ctl_ite, ↓ctl_keep, ↓ctl_keepR, ctl_mk, ctl_self, ite_self, implies_true, ↓laneClean_ctl,
          ↓eccCount_ctl, ↓raise0_ctl]

theorem ueCount_ctl (a1 a2 s) : ctl (ueCount a1 a2 s) = ctl s := by
  unfold ueCount
  repeat' first
    | (simp only [↓ctl_ite, ↓ctl_keep, ↓ctl_keepR, ctl_mk, ctl_self, ite_self, implies_true, ↓laneClean_ctl,
          ↓eccCount_ctl, ↓raise0_ctl]; done)
    | split
    | simp only [↓ctl_ite, ↓ctl_keep, ↓ctl_keepR, ctl_mk, ctl_self, ite_self, implies_true, ↓laneClean_ctl,
          ↓eccCount_ctl, ↓raise0_ctl]

theorem dropMerge_ctl (a1 a2 s) : ctl (dropMerge a1 a2 s) = ctl s := by
  unfold dropMerge
  repeat' first
    | (simp only [↓ctl_ite, ↓ctl_keep, ↓ctl_keepR, ctl_mk, ctl_self, ite_self, implies_true]; done)
    | split
    | simp only [↓ctl_ite, ↓ctl_keep, ↓ctl_keepR, ctl_mk, ctl_self, ite_self, implies_true]

theorem laneWrite1_ctl (a1 a2 s) : ctl (laneWrite1 a1 a2 s) = ctl s := by
  unfold laneWrite1
  repeat' first
    | (simp only [↓ctl_ite, ↓ctl_keep, ↓ctl_keepR, ctl_mk, ctl_self, ite_self, implies_true, ↓dropMerge_ctl,
          ↓flipHook_ctl]; done)
    | split
    | simp only [↓ctl_ite, ↓ctl_keep, ↓ctl_keepR, ctl_mk, ctl_self, ite_self, implies_true, ↓dropMerge_ctl,
          ↓flipHook_ctl]

theorem invertChecks_ctl (a1 a2 s) : ctl (invertChecks a1 a2 s) = ctl s := by
  unfold invertChecks
  repeat' first
    | (simp only [↓ctl_ite, ↓ctl_keep, ↓ctl_keepR, ctl_mk, ctl_self, ite_self, implies_true, ↓laneClean_ctl]; done)
    | split
    | simp only [↓ctl_ite, ↓ctl_keep, ↓ctl_keepR, ctl_mk, ctl_self, ite_self, implies_true, ↓laneClean_ctl]

theorem mergeOut_ctl (a1 s) : ctl (mergeOut a1 s) = ctl s := by
  unfold mergeOut
  repeat' first
    | (simp only [↓ctl_ite, ↓ctl_keep, ↓ctl_keepR, ctl_mk, ctl_self, ite_self, implies_true, ↓ceCount_ctl,
          ↓dropMerge_ctl, ↓flipHook_ctl, ↓invertChecks_ctl, ↓ueCount_ctl]; done)
    | split
    | simp only [↓ctl_ite, ↓ctl_keep, ↓ctl_keepR, ctl_mk, ctl_self, ite_self, implies_true, ↓ceCount_ctl,
          ↓dropMerge_ctl, ↓flipHook_ctl, ↓invertChecks_ctl, ↓ueCount_ctl]

theorem partWrite_ctl (a1 a2 a3 s) : ctl (partWrite a1 a2 a3 s) = ctl s := by
  unfold partWrite
  repeat' first
    | (simp only [↓ctl_ite, ↓ctl_keep, ↓ctl_keepR, ctl_mk, ctl_self, ite_self, implies_true, ↓laneWrite1_ctl,
          ↓mergeOut_ctl]; done)
    | split
    | simp only [↓ctl_ite, ↓ctl_keep, ↓ctl_keepR, ctl_mk, ctl_self, ite_self, implies_true, ↓laneWrite1_ctl,
          ↓mergeOut_ctl]

theorem lanesWrite_ctl (a1 a2 a3 s) : ctl (lanesWrite a1 a2 a3 s) = ctl s := by
  unfold lanesWrite
  repeat' first
    | (simp only [↓ctl_ite, ↓ctl_keep, ↓ctl_keepR, ctl_mk, ctl_self, ite_self, implies_true, ↓flipHook_ctl]; done)
    | split
    | simp only [↓ctl_ite, ↓ctl_keep, ↓ctl_keepR, ctl_mk, ctl_self, ite_self, implies_true, ↓flipHook_ctl]

theorem mergeDrain_ctl (a1 s) : ctl (mergeDrain a1 s) = ctl s := by
  unfold mergeDrain
  repeat' first
    | (simp only [↓ctl_ite, ↓ctl_keep, ↓ctl_keepR, ctl_mk, ctl_self, ite_self, implies_true, ↓each_ctl,
          ↓mergeOut_ctl]; done)
    | split
    | simp only [↓ctl_ite, ↓ctl_keep, ↓ctl_keepR, ctl_mk, ctl_self, ite_self, implies_true, ↓each_ctl, ↓mergeOut_ctl]

theorem mergeAge_ctl (s) : ctl (mergeAge s) = ctl s := by
  unfold mergeAge
  repeat' first
    | (simp only [↓ctl_ite, ↓ctl_keep, ↓ctl_keepR, ctl_mk, ctl_self, ite_self, implies_true, ↓mergeDrain_ctl]; done)
    | split
    | simp only [↓ctl_ite, ↓ctl_keep, ↓ctl_keepR, ctl_mk, ctl_self, ite_self, implies_true, ↓mergeDrain_ctl]

theorem diffWrite_ctl (a1 a2 a3 a4 s) : ctl (diffWrite a1 a2 a3 a4 s) = ctl s := by
  unfold diffWrite
  repeat' first
    | (simp only [↓ctl_ite, ↓ctl_keep, ↓ctl_keepR, ctl_mk, ctl_self, ite_self, implies_true, ↓each_ctl,
          ↓partWrite_ctl]; done)
    | split
    | simp only [↓ctl_ite, ↓ctl_keep, ↓ctl_keepR, ctl_mk, ctl_self, ite_self, implies_true, ↓each_ctl, ↓partWrite_ctl]

theorem bankWrite_ctl (a1 a2 a3 s) : ctl (bankWrite a1 a2 a3 s) = ctl s := by
  unfold bankWrite
  repeat' first
    | (simp only [↓ctl_ite, ↓ctl_keep, ↓ctl_keepR, ctl_mk, ctl_self, ite_self, implies_true, ↓partWrite_ctl,
          ↓lanesWrite_ctl]; done)
    | split
    | simp only [↓ctl_ite, ↓ctl_keep, ↓ctl_keepR, ctl_mk, ctl_self, ite_self, implies_true, ↓partWrite_ctl,
          ↓lanesWrite_ctl]

theorem readLane_ctl (a1 : ℕ → State → State) (a2 s) (h0 : ∀ x0 t, ctl (a1 x0 t) = ctl t) :
    ctl (readLane a1 a2 s) = ctl s := by
  unfold readLane
  repeat' first
    | (simp only [↓ctl_ite, ↓ctl_keep, ↓ctl_keepR, ctl_mk, ctl_self, ite_self, implies_true, ↓laneClean_ctl,
          ↓ceCount_ctl, ↓ueCount_ctl, h0]; done)
    | split
    | simp only [↓ctl_ite, ↓ctl_keep, ↓ctl_keepR, ctl_mk, ctl_self, ite_self, implies_true, ↓laneClean_ctl,
          ↓ceCount_ctl, ↓ueCount_ctl, h0]

theorem readLanes_ctl (a1 a2) (a3 : ℕ → State → State) (s) (h0 : ∀ x0 t, ctl (a3 x0 t) = ctl t) :
    ctl (readLanes a1 a2 a3 s) = ctl s := by
  unfold readLanes
  repeat' first
    | (simp only [↓ctl_ite, ↓ctl_keep, ↓ctl_keepR, ctl_mk, ctl_self, ite_self, implies_true, ↓each_ctl,
          ↓readLane_ctl, ↓mergeDrain_ctl, h0]; done)
    | split
    | simp only [↓ctl_ite, ↓ctl_keep, ↓ctl_keepR, ctl_mk, ctl_self, ite_self, implies_true, ↓each_ctl,
          ↓readLane_ctl, ↓mergeDrain_ctl, h0]

theorem ctxWrite_ctl (a1 a2 a3 s) : ctl (ctxWrite a1 a2 a3 s) = ctl s := by
  unfold ctxWrite
  repeat' first
    | (simp only [↓ctl_ite, ↓ctl_keep, ↓ctl_keepR, ctl_mk, ctl_self, ite_self, implies_true, ↓diffWrite_ctl]; done)
    | split
    | simp only [↓ctl_ite, ↓ctl_keep, ↓ctl_keepR, ctl_mk, ctl_self, ite_self, implies_true, ↓diffWrite_ctl]

theorem keySlotLost_ctl (a1 s) : ctl (keySlotLost a1 s) = ctl s := by
  unfold keySlotLost
  repeat' first
    | (simp only [↓ctl_ite, ↓ctl_keep, ↓ctl_keepR, ctl_mk, ctl_self, ite_self, implies_true, ↓raise0_ctl]; done)
    | split
    | simp only [↓ctl_ite, ↓ctl_keep, ↓ctl_keepR, ctl_mk, ctl_self, ite_self, implies_true, ↓raise0_ctl]

theorem readKeys_ctl (a1 s) : ctl (readKeys a1 s) = ctl s := by
  unfold readKeys
  repeat' first
    | (simp only [↓ctl_ite, ↓ctl_keep, ↓ctl_keepR, ctl_mk, ctl_self, ite_self, implies_true, ↓readLanes_ctl,
          ↓keySlotLost_ctl]; done)
    | split
    | simp only [↓ctl_ite, ↓ctl_keep, ↓ctl_keepR, ctl_mk, ctl_self, ite_self, implies_true, ↓readLanes_ctl,
          ↓keySlotLost_ctl]

theorem readRecipe_ctl (a1 s) : ctl (readRecipe a1 s) = ctl s := by
  unfold readRecipe
  repeat' first
    | (simp only [↓ctl_ite, ↓ctl_keep, ↓ctl_keepR, ctl_mk, ctl_self, ite_self, implies_true, ↓readLanes_ctl]; done)
    | intro _
    | refine (readLanes_ctl _ _ _ _ ?_).trans ?_
    | split
    | simp only [↓ctl_ite, ↓ctl_keep, ↓ctl_keepR, ctl_mk, ctl_self, ite_self, implies_true, ↓readLanes_ctl]

theorem counted_ctl (a1 a2 s) : ctl (counted a1 a2 s) = ctl s := by
  unfold counted
  repeat' first
    | (simp only [↓ctl_ite, ↓ctl_keep, ↓ctl_keepR, ctl_mk, ctl_self, ite_self, implies_true]; done)
    | split
    | simp only [↓ctl_ite, ↓ctl_keep, ↓ctl_keepR, ctl_mk, ctl_self, ite_self, implies_true]

theorem presentSlots_ctl (a1 a2 s) : ctl (presentSlots a1 a2 s) = ctl s := by
  unfold presentSlots
  repeat' first
    | (simp only [↓ctl_ite, ↓ctl_keep, ↓ctl_keepR, ctl_mk, ctl_self, ite_self, implies_true, ↓onQ_ctl,
          ↓hbRead_ctl]; done)
    | split
    | simp only [↓ctl_ite, ↓ctl_keep, ↓ctl_keepR, ctl_mk, ctl_self, ite_self, implies_true, ↓onQ_ctl, ↓hbRead_ctl]

theorem grantHb_ctl (a1 s) : ctl (grantHb a1 s) = ctl s := by
  unfold grantHb
  repeat' first
    | (simp only [↓ctl_ite, ↓ctl_keep, ↓ctl_keepR, ctl_mk, ctl_self, ite_self, implies_true, ↓presentSlots_ctl,
          ↓counted_ctl]; done)
    | split
    | simp only [↓ctl_ite, ↓ctl_keep, ↓ctl_keepR, ctl_mk, ctl_self, ite_self, implies_true, ↓presentSlots_ctl,
          ↓counted_ctl]

theorem grantHbTo_ctl (a1 a2 a3 s) : ctl (grantHbTo a1 a2 a3 s) = ctl s := by
  fun_induction grantHbTo a1 a2 a3 s <;>
    repeat' first
      | (simp +zetaDelta only [*, ↓ctl_ite, ↓ctl_keep, ↓ctl_keepR, ctl_mk, ctl_self, ite_self, implies_true,
            ↓grantHb_ctl]; done)
      | split
      | simp +zetaDelta only [*, ↓ctl_ite, ↓ctl_keep, ↓ctl_keepR, ctl_mk, ctl_self, ite_self, implies_true,
            ↓grantHb_ctl]

theorem hbGranted_ctl (a1 s) : ctl (hbGranted a1 s) = ctl s := by
  unfold hbGranted
  repeat' first
    | (simp only [↓ctl_ite, ↓ctl_keep, ↓ctl_keepR, ctl_mk, ctl_self, ite_self, implies_true, ↓grantHbTo_ctl]; done)
    | split
    | simp only [↓ctl_ite, ↓ctl_keep, ↓ctl_keepR, ctl_mk, ctl_self, ite_self, implies_true, ↓grantHbTo_ctl]

theorem grantFab_ctl (a1 a2 s) : ctl (grantFab a1 a2 s) = ctl s := by
  unfold grantFab
  repeat' first
    | (simp only [↓ctl_ite, ↓ctl_keep, ↓ctl_keepR, ctl_mk, ctl_self, ite_self, implies_true, ↓counted_ctl]; done)
    | split
    | simp only [↓ctl_ite, ↓ctl_keep, ↓ctl_keepR, ctl_mk, ctl_self, ite_self, implies_true, ↓counted_ctl]

theorem grantFabTo_ctl (a1 a2 a3 a4 s) : ctl (grantFabTo a1 a2 a3 a4 s) = ctl s := by
  fun_induction grantFabTo a1 a2 a3 a4 s <;>
    repeat' first
      | (simp +zetaDelta only [*, ↓ctl_ite, ↓ctl_keep, ↓ctl_keepR, ctl_mk, ctl_self, ite_self, implies_true,
            ↓grantFab_ctl]; done)
      | split
      | simp +zetaDelta only [*, ↓ctl_ite, ↓ctl_keep, ↓ctl_keepR, ctl_mk, ctl_self, ite_self, implies_true,
            ↓grantFab_ctl]

theorem fabGranted_ctl (a1 s) : ctl (fabGranted a1 s) = ctl s := by
  unfold fabGranted
  repeat' first
    | (simp only [↓ctl_ite, ↓ctl_keep, ↓ctl_keepR, ctl_mk, ctl_self, ite_self, implies_true, ↓grantFabTo_ctl]; done)
    | split
    | simp only [↓ctl_ite, ↓ctl_keep, ↓ctl_keepR, ctl_mk, ctl_self, ite_self, implies_true, ↓grantFabTo_ctl]

theorem fabAnswered_ctl (a1) (a2 : State → State) (s) (h0 : ∀ t, ctl (a2 t) = ctl t) :
    ctl (fabAnswered a1 a2 s) = ctl s := by
  unfold fabAnswered
  repeat' first
    | (simp only [↓ctl_ite, ↓ctl_keep, ↓ctl_keepR, ctl_mk, ctl_self, ite_self, implies_true, ↓fabGranted_ctl,
          h0]; done)
    | split
    | simp only [↓ctl_ite, ↓ctl_keep, ↓ctl_keepR, ctl_mk, ctl_self, ite_self, implies_true, ↓fabGranted_ctl, h0]

theorem hbAnswered_ctl (a1) (a2 : State → State) (s) (h0 : ∀ t, ctl (a2 t) = ctl t) :
    ctl (hbAnswered a1 a2 s) = ctl s := by
  unfold hbAnswered
  repeat' first
    | (simp only [↓ctl_ite, ↓ctl_keep, ↓ctl_keepR, ctl_mk, ctl_self, ite_self, implies_true, ↓hbGranted_ctl,
          h0]; done)
    | split
    | simp only [↓ctl_ite, ↓ctl_keep, ↓ctl_keepR, ctl_mk, ctl_self, ite_self, implies_true, ↓hbGranted_ctl, h0]

theorem grantAll_ctl (s) : ctl (grantAll s) = ctl s := by
  unfold grantAll
  repeat' first
    | (simp only [↓ctl_ite, ↓ctl_keep, ↓ctl_keepR, ctl_mk, ctl_self, ite_self, implies_true, ↓grantFab_ctl,
          ↓each_ctl, ↓grantHb_ctl]; done)
    | split
    | simp only [↓ctl_ite, ↓ctl_keep, ↓ctl_keepR, ctl_mk, ctl_self, ite_self, implies_true, ↓grantFab_ctl,
          ↓each_ctl, ↓grantHb_ctl]

theorem withdraw_ctl (a1 s) : ctl (withdraw a1 s) = ctl s := by
  unfold withdraw
  repeat' first
    | (simp only [↓ctl_ite, ↓ctl_keep, ↓ctl_keepR, ctl_mk, ctl_self, ite_self, implies_true]; done)
    | split
    | simp only [↓ctl_ite, ↓ctl_keep, ↓ctl_keepR, ctl_mk, ctl_self, ite_self, implies_true]

theorem newCtx_ctl (a1 s) : ctl (newCtx a1 s).2 = ctl s := by
  unfold newCtx
  repeat' first
    | (simp only [↓ctl_ite, ↓ctl_keep, ↓ctl_keepR, ctl_mk, ctl_self, ite_self, implies_true, ↓lanesWrite_ctl]; done)
    | split
    | simp only [↓ctl_ite, ↓ctl_keep, ↓ctl_keepR, ctl_mk, ctl_self, ite_self, implies_true, ↓lanesWrite_ctl]

theorem contextWait_ctl (a1 a2 s) : ctl (contextWait a1 a2 s) = ctl s := by
  unfold contextWait
  repeat' first
    | (simp only [↓ctl_ite, ↓ctl_keep, ↓ctl_keepR, ctl_mk, ctl_self, ite_self, implies_true, ↓onCmd_ctl,
          ↓raise_ctl]; done)
    | split
    | simp only [↓ctl_ite, ↓ctl_keep, ↓ctl_keepR, ctl_mk, ctl_self, ite_self, implies_true, ↓onCmd_ctl, ↓raise_ctl]

theorem stopStreams_ctl (a1 s) : ctl (stopStreams a1 s) = ctl s := by
  unfold stopStreams
  repeat' first
    | (simp only [↓ctl_ite, ↓ctl_keep, ↓ctl_keepR, ctl_mk, ctl_self, ite_self, implies_true, ↓each_ctl,
          ↓withdraw_ctl]; done)
    | split
    | simp only [↓ctl_ite, ↓ctl_keep, ↓ctl_keepR, ctl_mk, ctl_self, ite_self, implies_true, ↓each_ctl, ↓withdraw_ctl]

theorem dropStopped_ctl (s) : ctl (dropStopped s) = ctl s := by
  unfold dropStopped
  repeat' first
    | (simp only [↓ctl_ite, ↓ctl_keep, ↓ctl_keepR, ctl_mk, ctl_self, ite_self, implies_true]; done)
    | split
    | simp only [↓ctl_ite, ↓ctl_keep, ↓ctl_keepR, ctl_mk, ctl_self, ite_self, implies_true]

theorem stopCmd_ctl (a1 a2 s) : ctl (stopCmd a1 a2 s) = ctl s := by
  unfold stopCmd
  repeat' first
    | (simp only [↓ctl_ite, ↓ctl_keep, ↓ctl_keepR, ctl_mk, ctl_self, ite_self, implies_true, ↓stopStreams_ctl]; done)
    | split
    | simp only [↓ctl_ite, ↓ctl_keep, ↓ctl_keepR, ctl_mk, ctl_self, ite_self, implies_true, ↓stopStreams_ctl]

theorem fixUnits_ctl (s) : ctl (fixUnits s) = ctl s := by
  unfold fixUnits
  repeat' first
    | (simp only [↓ctl_ite, ↓ctl_keep, ↓ctl_keepR, ctl_mk, ctl_self, ite_self, implies_true]; done)
    | split
    | simp only [↓ctl_ite, ↓ctl_keep, ↓ctl_keepR, ctl_mk, ctl_self, ite_self, implies_true]

theorem disarmFilters_ctl (s) : ctl (disarmFilters s) = ctl s := by
  unfold disarmFilters
  repeat' first
    | (simp only [↓ctl_ite, ↓ctl_keep, ↓ctl_keepR, ctl_mk, ctl_self, ite_self, implies_true]; done)
    | split
    | simp only [↓ctl_ite, ↓ctl_keep, ↓ctl_keepR, ctl_mk, ctl_self, ite_self, implies_true]

theorem dropPassants_ctl (a1 s) : ctl (dropPassants a1 s) = ctl s := by
  unfold dropPassants
  repeat' first
    | (simp only [↓ctl_ite, ↓ctl_keep, ↓ctl_keepR, ctl_mk, ctl_self, ite_self, implies_true, ↓fixUnits_ctl]; done)
    | split
    | simp only [↓ctl_ite, ↓ctl_keep, ↓ctl_keepR, ctl_mk, ctl_self, ite_self, implies_true, ↓fixUnits_ctl]

theorem endCmds_ctl (a1 a2 a3 a4 s) : ctl (endCmds a1 a2 a3 a4 s) = ctl s := by
  unfold endCmds
  repeat' first
    | (simp only [↓ctl_ite, ↓ctl_keep, ↓ctl_keepR, ctl_mk, ctl_self, ite_self, implies_true, ↓finish_ctl,
          ↓stopStreams_ctl, ↓each_ctl]; done)
    | split
    | simp only [↓ctl_ite, ↓ctl_keep, ↓ctl_keepR, ctl_mk, ctl_self, ite_self, implies_true, ↓finish_ctl,
          ↓stopStreams_ctl, ↓each_ctl]

theorem dropSealing_ctl (a1 s) : ctl (dropSealing a1 s) = ctl s := by
  unfold dropSealing
  repeat' first
    | (simp only [↓ctl_ite, ↓ctl_keep, ↓ctl_keepR, ctl_mk, ctl_self, ite_self, implies_true]; done)
    | split
    | simp only [↓ctl_ite, ↓ctl_keep, ↓ctl_keepR, ctl_mk, ctl_self, ite_self, implies_true]

theorem dropCut_ctl (a1 s) : ctl (dropCut a1 s) = ctl s := by
  unfold dropCut
  repeat' first
    | (simp only [↓ctl_ite, ↓ctl_keep, ↓ctl_keepR, ctl_mk, ctl_self, ite_self, implies_true]; done)
    | split
    | simp only [↓ctl_ite, ↓ctl_keep, ↓ctl_keepR, ctl_mk, ctl_self, ite_self, implies_true]

theorem endEpoch_ctl (a1 a2 a3 s) : ctl (endEpoch a1 a2 a3 s) = ctl s := by
  unfold endEpoch
  repeat' first
    | (simp only [↓ctl_ite, ↓ctl_keep, ↓ctl_keepR, ctl_mk, ctl_self, ite_self, implies_true, ↓dropCut_ctl,
          ↓stopStreams_ctl, ↓setPhase_ctl, ↓disarmFilters_ctl, ↓freeGens_ctl, ↓dropSealing_ctl, ↓dropPassants_ctl,
          ↓onEpoch_ctl]; done)
    | split
    | simp only [↓ctl_ite, ↓ctl_keep, ↓ctl_keepR, ctl_mk, ctl_self, ite_self, implies_true, ↓dropCut_ctl,
          ↓stopStreams_ctl, ↓setPhase_ctl, ↓disarmFilters_ctl, ↓freeGens_ctl, ↓dropSealing_ctl, ↓dropPassants_ctl,
          ↓onEpoch_ctl]

theorem abandonEpoch_ctl (a1 a2 s) : ctl (abandonEpoch a1 a2 s) = ctl s := by
  unfold abandonEpoch
  repeat' first
    | (simp only [↓ctl_ite, ↓ctl_keep, ↓ctl_keepR, ctl_mk, ctl_self, ite_self, implies_true, ↓endEpoch_ctl,
          ↓finish_ctl, ↓endCmds_ctl]; done)
    | split
    | simp only [↓ctl_ite, ↓ctl_keep, ↓ctl_keepR, ctl_mk, ctl_self, ite_self, implies_true, ↓endEpoch_ctl,
          ↓finish_ctl, ↓endCmds_ctl]

theorem cancelEpoch_ctl (a1 s) : ctl (cancelEpoch a1 s) = ctl s := by
  unfold cancelEpoch
  repeat' first
    | (simp only [↓ctl_ite, ↓ctl_keep, ↓ctl_keepR, ctl_mk, ctl_self, ite_self, implies_true, ↓endEpoch_ctl,
          ↓finish_ctl, ↓endCmds_ctl]; done)
    | split
    | simp only [↓ctl_ite, ↓ctl_keep, ↓ctl_keepR, ctl_mk, ctl_self, ite_self, implies_true, ↓endEpoch_ctl,
          ↓finish_ctl, ↓endCmds_ctl]

theorem poisonEpoch_ctl (a1 s) : ctl (poisonEpoch a1 s) = ctl s := by
  unfold poisonEpoch
  repeat' first
    | (simp only [↓ctl_ite, ↓ctl_keep, ↓ctl_keepR, ctl_mk, ctl_self, ite_self, implies_true, ↓onEpoch_ctl]; done)
    | split
    | simp only [↓ctl_ite, ↓ctl_keep, ↓ctl_keepR, ctl_mk, ctl_self, ite_self, implies_true, ↓onEpoch_ctl]

theorem poisonMark_ctl (a1 a2 a3 a4 s) : ctl (poisonMark a1 a2 a3 a4 s) = ctl s := by
  unfold poisonMark
  repeat' first
    | (simp only [↓ctl_ite, ↓ctl_keep, ↓ctl_keepR, ctl_mk, ctl_self, ite_self, implies_true, ↓raise_ctl]; done)
    | split
    | simp only [↓ctl_ite, ↓ctl_keep, ↓ctl_keepR, ctl_mk, ctl_self, ite_self, implies_true, ↓raise_ctl]

theorem noteBad_ctl (a1 a2 a3 a4 s) : ctl (noteBad a1 a2 a3 a4 s) = ctl s := by
  unfold noteBad
  repeat' first
    | (simp only [↓ctl_ite, ↓ctl_keep, ↓ctl_keepR, ctl_mk, ctl_self, ite_self, implies_true, ↓onCmd_ctl]; done)
    | split
    | simp only [↓ctl_ite, ↓ctl_keep, ↓ctl_keepR, ctl_mk, ctl_self, ite_self, implies_true, ↓onCmd_ctl]

theorem spanAbortEvent_ctl (a1 a2 a3 s) : ctl (spanAbortEvent a1 a2 a3 s) = ctl s := by
  unfold spanAbortEvent
  repeat' first
    | (simp only [↓ctl_ite, ↓ctl_keep, ↓ctl_keepR, ctl_mk, ctl_self, ite_self, implies_true, ↓raise_ctl]; done)
    | split
    | simp only [↓ctl_ite, ↓ctl_keep, ↓ctl_keepR, ctl_mk, ctl_self, ite_self, implies_true, ↓raise_ctl]

theorem badAt_ctl (a1 a2 a3 a4 a5 a6 a7 a8 s) : ctl (badAt a1 a2 a3 a4 a5 a6 a7 a8 s) = ctl s := by
  unfold badAt
  repeat' first
    | (simp only [↓ctl_ite, ↓ctl_keep, ↓ctl_keepR, ctl_mk, ctl_self, ite_self, implies_true, ↓poisonMark_ctl,
          ↓finish_ctl, ↓spanAbortEvent_ctl, ↓noteBad_ctl, ↓onCtx_ctl, ↓stopStreams_ctl, ↓each_ctl,
          ↓abandonEpoch_ctl, ↓onCmd_ctl, ↓poisonEpoch_ctl, ↓onEpoch_ctl]; done)
    | split
    | simp only [↓ctl_ite, ↓ctl_keep, ↓ctl_keepR, ctl_mk, ctl_self, ite_self, implies_true, ↓poisonMark_ctl,
          ↓finish_ctl, ↓spanAbortEvent_ctl, ↓noteBad_ctl, ↓onCtx_ctl, ↓stopStreams_ctl, ↓each_ctl,
          ↓abandonEpoch_ctl, ↓onCmd_ctl, ↓poisonEpoch_ctl, ↓onEpoch_ctl]

theorem badData_ctl (a1 a2 a3 a4 a5 s) : ctl (badData a1 a2 a3 a4 a5 s) = ctl s := by
  unfold badData
  repeat' first
    | (simp only [↓ctl_ite, ↓ctl_keep, ↓ctl_keepR, ctl_mk, ctl_self, ite_self, implies_true, ↓badAt_ctl]; done)
    | split
    | simp only [↓ctl_ite, ↓ctl_keep, ↓ctl_keepR, ctl_mk, ctl_self, ite_self, implies_true, ↓badAt_ctl]

theorem badEnd_ctl (a1 a2 a3 a4 a5 s) : ctl (badEnd a1 a2 a3 a4 a5 s) = ctl s := by
  unfold badEnd
  repeat' first
    | (simp only [↓ctl_ite, ↓ctl_keep, ↓ctl_keepR, ctl_mk, ctl_self, ite_self, implies_true, ↓poisonMark_ctl,
          ↓finish_ctl, ↓spanAbortEvent_ctl, ↓each_ctl, ↓stopCmd_ctl]; done)
    | split
    | simp only [↓ctl_ite, ↓ctl_keep, ↓ctl_keepR, ctl_mk, ctl_self, ite_self, implies_true, ↓poisonMark_ctl,
          ↓finish_ctl, ↓spanAbortEvent_ctl, ↓each_ctl, ↓stopCmd_ctl]

theorem writeHeader_ctl (a1 s) : ctl (writeHeader a1 s) = ctl s := by
  unfold writeHeader
  repeat' first
    | (simp only [↓ctl_ite, ↓ctl_keep, ↓ctl_keepR, ctl_mk, ctl_self, ite_self, implies_true, ↓fabReq_ctl]; done)
    | split
    | simp only [↓ctl_ite, ↓ctl_keep, ↓ctl_keepR, ctl_mk, ctl_self, ite_self, implies_true, ↓fabReq_ctl]

theorem writeGroup_ctl (a1 a2 s) : ctl (writeGroup a1 a2 s) = ctl s := by
  unfold writeGroup
  repeat' first
    | (simp only [↓ctl_ite, ↓ctl_keep, ↓ctl_keepR, ctl_mk, ctl_self, ite_self, implies_true, ↓fabReq_ctl,
          ↓onRegion_ctl]; done)
    | split
    | simp only [↓ctl_ite, ↓ctl_keep, ↓ctl_keepR, ctl_mk, ctl_self, ite_self, implies_true, ↓fabReq_ctl,
          ↓onRegion_ctl]

theorem writeBack_ctl (a1 s) : ctl (writeBack a1 s) = ctl s := by
  unfold writeBack
  repeat' first
    | (simp only [↓ctl_ite, ↓ctl_keep, ↓ctl_keepR, ctl_mk, ctl_self, ite_self, implies_true, ↓each_ctl,
          ↓writeGroup_ctl]; done)
    | split
    | simp only [↓ctl_ite, ↓ctl_keep, ↓ctl_keepR, ctl_mk, ctl_self, ite_self, implies_true, ↓each_ctl,
          ↓writeGroup_ctl]

theorem writeBackAll_ctl (s) : ctl (writeBackAll s) = ctl s := by
  unfold writeBackAll
  repeat' first
    | (simp only [↓ctl_ite, ↓ctl_keep, ↓ctl_keepR, ctl_mk, ctl_self, ite_self, implies_true, ↓each_ctl,
          ↓writeBack_ctl]; done)
    | split
    | simp only [↓ctl_ite, ↓ctl_keep, ↓ctl_keepR, ctl_mk, ctl_self, ite_self, implies_true, ↓each_ctl, ↓writeBack_ctl]

theorem groupWritten_ctl (a1 s) : ctl (groupWritten a1 s) = ctl s := by
  unfold groupWritten
  repeat' first
    | (simp only [↓ctl_ite, ↓ctl_keep, ↓ctl_keepR, ctl_mk, ctl_self, ite_self, implies_true, ↓onRegion_ctl,
          ↓writeHeader_ctl]; done)
    | split
    | simp only [↓ctl_ite, ↓ctl_keep, ↓ctl_keepR, ctl_mk, ctl_self, ite_self, implies_true, ↓onRegion_ctl,
          ↓writeHeader_ctl]

theorem openRegion_ctl (a1 s) : ctl (openRegion a1 s) = ctl s := by
  unfold openRegion
  repeat' first
    | (simp only [↓ctl_ite, ↓ctl_keep, ↓ctl_keepR, ctl_mk, ctl_self, ite_self, implies_true, ↓onRegion_ctl,
          ↓writeHeader_ctl]; done)
    | split
    | simp only [↓ctl_ite, ↓ctl_keep, ↓ctl_keepR, ctl_mk, ctl_self, ite_self, implies_true, ↓onRegion_ctl,
          ↓writeHeader_ctl]

theorem evict_ctl (s) : ctl (evict s) = ctl s := by
  unfold evict
  repeat' first
    | (simp only [↓ctl_ite, ↓ctl_keep, ↓ctl_keepR, ctl_mk, ctl_self, ite_self, implies_true, ↓onRegion_ctl,
          ↓writeGroup_ctl]; done)
    | split
    | simp only [↓ctl_ite, ↓ctl_keep, ↓ctl_keepR, ctl_mk, ctl_self, ite_self, implies_true, ↓onRegion_ctl,
          ↓writeGroup_ctl]

theorem touchRegion_ctl (a1 s) : ctl (touchRegion a1 s) = ctl s := by
  unfold touchRegion
  repeat' first
    | (simp only [↓ctl_ite, ↓ctl_keep, ↓ctl_keepR, ctl_mk, ctl_self, ite_self, implies_true, ↓onRegion_ctl,
          ↓writeHeader_ctl]; done)
    | split
    | simp only [↓ctl_ite, ↓ctl_keep, ↓ctl_keepR, ctl_mk, ctl_self, ite_self, implies_true, ↓onRegion_ctl,
          ↓writeHeader_ctl]

theorem fetchGroup_ctl (a1 a2 s) : ctl (fetchGroup a1 a2 s) = ctl s := by
  unfold fetchGroup
  repeat' first
    | (simp only [↓ctl_ite, ↓ctl_keep, ↓ctl_keepR, ctl_mk, ctl_self, ite_self, implies_true, ↓touchRegion_ctl,
          ↓fabReq_ctl]; done)
    | split
    | simp only [↓ctl_ite, ↓ctl_keep, ↓ctl_keepR, ctl_mk, ctl_self, ite_self, implies_true, ↓touchRegion_ctl,
          ↓fabReq_ctl]

theorem fetchCv_ctl (a1 a2 s) : ctl (fetchCv a1 a2 s) = ctl s := by
  unfold fetchCv
  repeat' first
    | (simp only [↓ctl_ite, ↓ctl_keep, ↓ctl_keepR, ctl_mk, ctl_self, ite_self, implies_true, ↓fabReq_ctl]; done)
    | split
    | simp only [↓ctl_ite, ↓ctl_keep, ↓ctl_keepR, ctl_mk, ctl_self, ite_self, implies_true, ↓fabReq_ctl]

theorem writeCv_ctl (a1 a2 s) : ctl (writeCv a1 a2 s) = ctl s := by
  unfold writeCv
  repeat' first
    | (simp only [↓ctl_ite, ↓ctl_keep, ↓ctl_keepR, ctl_mk, ctl_self, ite_self, implies_true, ↓fabReq_ctl]; done)
    | split
    | simp only [↓ctl_ite, ↓ctl_keep, ↓ctl_keepR, ctl_mk, ctl_self, ite_self, implies_true, ↓fabReq_ctl]

theorem applyOp_ctl (a1 s) : ctl (applyOp a1 s) = ctl s := by
  unfold applyOp
  repeat' first
    | (simp only [↓ctl_ite, ↓ctl_keep, ↓ctl_keepR, ctl_mk, ctl_self, ite_self, implies_true, ↓onRegion_ctl,
          ↓diffWrite_ctl, ↓each_ctl, ↓writeCv_ctl]; done)
    | split
    | simp only [↓ctl_ite, ↓ctl_keep, ↓ctl_keepR, ctl_mk, ctl_self, ite_self, implies_true, ↓onRegion_ctl,
          ↓diffWrite_ctl, ↓each_ctl, ↓writeCv_ctl]

theorem prepareOp_ctl (a1 s) : ctl (prepareOp a1 s) = ctl s := by
  unfold prepareOp
  repeat' first
    | (simp only [↓ctl_ite, ↓ctl_keep, ↓ctl_keepR, ctl_mk, ctl_self, ite_self, implies_true, ↓openRegion_ctl,
          ↓fetchGroup_ctl, ↓each_ctl, ↓fetchCv_ctl]; done)
    | split
    | simp only [↓ctl_ite, ↓ctl_keep, ↓ctl_keepR, ctl_mk, ctl_self, ite_self, implies_true, ↓openRegion_ctl,
          ↓fetchGroup_ctl, ↓each_ctl, ↓fetchCv_ctl]

theorem settleOps_ctl (t : Nat) (s : State) : ctl (settleOps t s) = ctl s := by
  have h : ∀ (l : List GroupOp) (a : State × List GroupOp), ctl (l.foldl (fun (acc : State × List GroupOp) o =>
      if o.region != t || acc.2.any (fun p => p.region == o.region && p.group == o.group) || !opReady acc.1 o then
        (acc.1, acc.2 ++ [o])
      else (applyOp o acc.1, acc.2)) a).1 = ctl a.1 := by
    intro l
    induction l with
    | nil => intro a; rfl
    | cons o l ih =>
      intro a
      rw [List.foldl_cons, ih]
      split
      · rfl
      · exact applyOp_ctl ..
  unfold settleOps
  exact (each_ctl _ _ _ fun _ _ => prepareOp_ctl ..).trans (h _ _)

theorem groupOp_ctl (a1 s) : ctl (groupOp a1 s) = ctl s := by
  unfold groupOp
  repeat' first
    | (simp only [↓ctl_ite, ↓ctl_keep, ↓ctl_keepR, ctl_mk, ctl_self, ite_self, implies_true, ↓settleOps_ctl]; done)
    | split
    | simp only [↓ctl_ite, ↓ctl_keep, ↓ctl_keepR, ctl_mk, ctl_self, ite_self, implies_true, ↓settleOps_ctl]

theorem groupArrives_ctl (a1 a2 a3 s) : ctl (groupArrives a1 a2 a3 s) = ctl s := by
  unfold groupArrives
  repeat' first
    | (simp only [↓ctl_ite, ↓ctl_keep, ↓ctl_keepR, ctl_mk, ctl_self, ite_self, implies_true, ↓settleOps_ctl,
          ↓onRegion_ctl, ↓lanesWrite_ctl, ↓evict_ctl]; done)
    | split
    | simp only [↓ctl_ite, ↓ctl_keep, ↓ctl_keepR, ctl_mk, ctl_self, ite_self, implies_true, ↓settleOps_ctl,
          ↓onRegion_ctl, ↓lanesWrite_ctl, ↓evict_ctl]

theorem cvArrives_ctl (a1 a2 a3 s) : ctl (cvArrives a1 a2 a3 s) = ctl s := by
  unfold cvArrives
  repeat' first
    | (simp only [↓ctl_ite, ↓ctl_keep, ↓ctl_keepR, ctl_mk, ctl_self, ite_self, implies_true, ↓settleOps_ctl,
          ↓onRegion_ctl]; done)
    | split
    | simp only [↓ctl_ite, ↓ctl_keep, ↓ctl_keepR, ctl_mk, ctl_self, ite_self, implies_true, ↓settleOps_ctl,
          ↓onRegion_ctl]

theorem headerWritten_ctl (a1 s) : ctl (headerWritten a1 s) = ctl s := by
  unfold headerWritten
  repeat' first
    | (simp only [↓ctl_ite, ↓ctl_keep, ↓ctl_keepR, ctl_mk, ctl_self, ite_self, implies_true, ↓settleOps_ctl,
          ↓onRegion_ctl]; done)
    | split
    | simp only [↓ctl_ite, ↓ctl_keep, ↓ctl_keepR, ctl_mk, ctl_self, ite_self, implies_true, ↓settleOps_ctl,
          ↓onRegion_ctl]

theorem markRows_ctl (a1 a2 a3 a4 s) : ctl (markRows a1 a2 a3 a4 s) = ctl s := by
  unfold markRows
  repeat' first
    | (simp only [↓ctl_ite, ↓ctl_keep, ↓ctl_keepR, ctl_mk, ctl_self, ite_self, implies_true, ↓groupOp_ctl]; done)
    | split
    | simp only [↓ctl_ite, ↓ctl_keep, ↓ctl_keepR, ctl_mk, ctl_self, ite_self, implies_true, ↓groupOp_ctl]

theorem setResync_ctl (a1 s) : ctl (setResync a1 s) = ctl s := by
  unfold setResync
  repeat' first
    | (simp only [↓ctl_ite, ↓ctl_keep, ↓ctl_keepR, ctl_mk, ctl_self, ite_self, implies_true, ↓onRegion_ctl,
          ↓writeHeader_ctl]; done)
    | split
    | simp only [↓ctl_ite, ↓ctl_keep, ↓ctl_keepR, ctl_mk, ctl_self, ite_self, implies_true, ↓onRegion_ctl,
          ↓writeHeader_ctl]

theorem recentWrite_ctl (n : Nat) (l : List Nat) (s : State) : ctl (recentWrite n l s) = ctl s := by
  have h : ∀ (k : Nat) (l : List (Nat × Nat × Nat)), ctl (if 4096 < l.length then
      { s with cap.recent := l.drop k, cap.overflow := some s.time.aon } else { s with cap.recent := l }) = ctl s :=
    fun k l => by split <;> rfl
  exact h _ _

theorem openTable_ctl (a1 a2 a3 s) : ctl (openTable a1 a2 a3 s) = ctl s := by
  unfold openTable
  repeat' first
    | (simp only [↓ctl_ite, ↓ctl_keep, ↓ctl_keepR, ctl_mk, ctl_self, ite_self, implies_true]; done)
    | split
    | simp only [↓ctl_ite, ↓ctl_keep, ↓ctl_keepR, ctl_mk, ctl_self, ite_self, implies_true]

theorem cutRegion_ctl (a1 a2 a3 a4 s) : ctl (cutRegion a1 a2 a3 a4 s) = ctl s := by
  unfold cutRegion
  repeat' first
    | (simp only [↓ctl_ite, ↓ctl_keep, ↓ctl_keepR, ctl_mk, ctl_self, ite_self, implies_true, ↓touchRegion_ctl,
          ↓writeHeader_ctl]; done)
    | split
    | simp only [↓ctl_ite, ↓ctl_keep, ↓ctl_keepR, ctl_mk, ctl_self, ite_self, implies_true, ↓touchRegion_ctl,
          ↓writeHeader_ctl]

theorem setColl_ctl (a1 a2 s) : ctl (setColl a1 a2 s) = ctl s := by
  unfold setColl
  repeat' first
    | (simp only [↓ctl_ite, ↓ctl_keep, ↓ctl_keepR, ctl_mk, ctl_self, ite_self, implies_true, ↓bankWrite_ctl]; done)
    | split
    | simp only [↓ctl_ite, ↓ctl_keep, ↓ctl_keepR, ctl_mk, ctl_self, ite_self, implies_true, ↓bankWrite_ctl]

theorem onFilter_ctl (a1 a2 s) : ctl (onFilter a1 a2 s) = ctl s := by
  unfold onFilter
  repeat' first
    | (simp only [↓ctl_ite, ↓ctl_keep, ↓ctl_keepR, ctl_mk, ctl_self, ite_self, implies_true]; done)
    | split
    | simp only [↓ctl_ite, ↓ctl_keep, ↓ctl_keepR, ctl_mk, ctl_self, ite_self, implies_true]

theorem startCopy_ctl (a1 a2 a3 a4 s) : ctl (startCopy a1 a2 a3 a4 s) = ctl s := by
  unfold startCopy
  repeat' first
    | (simp only [↓ctl_ite, ↓ctl_keep, ↓ctl_keepR, ctl_mk, ctl_self, ite_self, implies_true, ↓onFilter_ctl,
          ↓each_ctl, ↓lanesWrite_ctl]; done)
    | split
    | simp only [↓ctl_ite, ↓ctl_keep, ↓ctl_keepR, ctl_mk, ctl_self, ite_self, implies_true, ↓onFilter_ctl,
          ↓each_ctl, ↓lanesWrite_ctl]

theorem reserveFull_ctl (a1 a2 a3 s) : ctl (reserveFull a1 a2 a3 s) = ctl s := by
  unfold reserveFull
  repeat' first
    | (simp only [↓ctl_ite, ↓ctl_keep, ↓ctl_keepR, ctl_mk, ctl_self, ite_self, implies_true, ↓onFilter_ctl,
          ↓abandonEpoch_ctl, ↓raise0_ctl]; done)
    | split
    | simp only [↓ctl_ite, ↓ctl_keep, ↓ctl_keepR, ctl_mk, ctl_self, ite_self, implies_true, ↓onFilter_ctl,
          ↓abandonEpoch_ctl, ↓raise0_ctl]

theorem tryCopy_ctl (a1 a2 a3 a4 a5 a6 s) : ctl (tryCopy a1 a2 a3 a4 a5 a6 s) = ctl s := by
  unfold tryCopy
  repeat' first
    | (simp only [↓ctl_ite, ↓ctl_keep, ↓ctl_keepR, ctl_mk, ctl_self, ite_self, implies_true, ↓startCopy_ctl,
          ↓reserveFull_ctl]; done)
    | split
    | simp only [↓ctl_ite, ↓ctl_keep, ↓ctl_keepR, ctl_mk, ctl_self, ite_self, implies_true, ↓startCopy_ctl,
          ↓reserveFull_ctl]

theorem supersede_ctl (a1 a2 a3 a4 a5 s) : ctl (supersede a1 a2 a3 a4 a5 s) = ctl s := by
  unfold supersede
  repeat' first
    | (simp only [↓ctl_ite, ↓ctl_keep, ↓ctl_keepR, ctl_mk, ctl_self, ite_self, implies_true]; done)
    | split
    | simp only [↓ctl_ite, ↓ctl_keep, ↓ctl_keepR, ctl_mk, ctl_self, ite_self, implies_true]

theorem servePlate_ctl (a1 a2 a3 s) : ctl (servePlate a1 a2 a3 s) = ctl s := by
  unfold servePlate
  repeat' first
    | (simp only [↓ctl_ite, ↓ctl_keep, ↓ctl_keepR, ctl_mk, ctl_self, ite_self, implies_true, ↓supersede_ctl,
          ↓tryCopy_ctl]; done)
    | split
    | simp only [↓ctl_ite, ↓ctl_keep, ↓ctl_keepR, ctl_mk, ctl_self, ite_self, implies_true, ↓supersede_ctl,
          ↓tryCopy_ctl]

theorem askCv_ctl (a1 a2 a3 s) : ctl (askCv a1 a2 a3 s) = ctl s := by
  unfold askCv
  repeat' first
    | (simp only [↓ctl_ite, ↓ctl_keep, ↓ctl_keepR, ctl_mk, ctl_self, ite_self, implies_true, ↓fetchGroup_ctl,
          ↓fetchCv_ctl]; done)
    | split
    | simp only [↓ctl_ite, ↓ctl_keep, ↓ctl_keepR, ctl_mk, ctl_self, ite_self, implies_true, ↓fetchGroup_ctl,
          ↓fetchCv_ctl]

theorem serveRow_ctl (a1 a2 a3 a4 s) : ctl (serveRow a1 a2 a3 a4 s) = ctl s := by
  unfold serveRow
  repeat' first
    | (simp only [↓ctl_ite, ↓ctl_keep, ↓ctl_keepR, ctl_mk, ctl_self, ite_self, implies_true, ↓supersede_ctl,
          ↓tryCopy_ctl, ↓askCv_ctl]; done)
    | split
    | simp only [↓ctl_ite, ↓ctl_keep, ↓ctl_keepR, ctl_mk, ctl_self, ite_self, implies_true, ↓supersede_ctl,
          ↓tryCopy_ctl, ↓askCv_ctl]

theorem serveRows_ctl (a1 a2 a3 s) : ctl (serveRows a1 a2 a3 s) = ctl s := by
  unfold serveRows
  repeat' first
    | (simp only [↓ctl_ite, ↓ctl_keep, ↓ctl_keepR, ctl_mk, ctl_self, ite_self, implies_true, ↓serveRow_ctl,
          ↓each_ctl, ↓markRows_ctl]; done)
    | split
    | simp only [↓ctl_ite, ↓ctl_keep, ↓ctl_keepR, ctl_mk, ctl_self, ite_self, implies_true, ↓serveRow_ctl,
          ↓each_ctl, ↓markRows_ctl]

theorem serveHeld_ctl (a1 a2 s) : ctl (serveHeld a1 a2 s) = ctl s := by
  unfold serveHeld
  repeat' first
    | (simp only [↓ctl_ite, ↓ctl_keep, ↓ctl_keepR, ctl_mk, ctl_self, ite_self, implies_true, ↓each_ctl,
          ↓serveRows_ctl, ↓servePlate_ctl]; done)
    | split
    | simp only [↓ctl_ite, ↓ctl_keep, ↓ctl_keepR, ctl_mk, ctl_self, ite_self, implies_true, ↓each_ctl,
          ↓serveRows_ctl, ↓servePlate_ctl]

theorem releaseClear_ctl (a1 s) : ctl (releaseClear a1 s) = ctl s := by
  unfold releaseClear
  repeat' first
    | (simp only [↓ctl_ite, ↓ctl_keep, ↓ctl_keepR, ctl_mk, ctl_self, ite_self, implies_true, ↓onFilter_ctl]; done)
    | split
    | simp only [↓ctl_ite, ↓ctl_keep, ↓ctl_keepR, ctl_mk, ctl_self, ite_self, implies_true, ↓onFilter_ctl]

theorem serveFilter_ctl (a1 s) : ctl (serveFilter a1 s) = ctl s := by
  unfold serveFilter
  repeat' first
    | (simp only [↓ctl_ite, ↓ctl_keep, ↓ctl_keepR, ctl_mk, ctl_self, ite_self, implies_true, ↓each_ctl,
          ↓releaseClear_ctl, ↓serveHeld_ctl]; done)
    | split
    | simp only [↓ctl_ite, ↓ctl_keep, ↓ctl_keepR, ctl_mk, ctl_self, ite_self, implies_true, ↓each_ctl,
          ↓releaseClear_ctl, ↓serveHeld_ctl]

theorem serveFilters_ctl (s) : ctl (serveFilters s) = ctl s := by
  unfold serveFilters
  repeat' first
    | (simp only [↓ctl_ite, ↓ctl_keep, ↓ctl_keepR, ctl_mk, ctl_self, ite_self, implies_true, ↓serveFilter_ctl,
          ↓each_ctl]; done)
    | split
    | simp only [↓ctl_ite, ↓ctl_keep, ↓ctl_keepR, ctl_mk, ctl_self, ite_self, implies_true, ↓serveFilter_ctl,
          ↓each_ctl]

theorem filterWritePresent_ctl (a1 a2 a3 a4 s) : ctl (filterWritePresent a1 a2 a3 a4 s) = ctl s := by
  unfold filterWritePresent
  repeat' first
    | (simp only [↓ctl_ite, ↓ctl_keep, ↓ctl_keepR, ctl_mk, ctl_self, ite_self, implies_true, ↓serveFilter_ctl,
          ↓onFilter_ctl]; done)
    | split
    | simp only [↓ctl_ite, ↓ctl_keep, ↓ctl_keepR, ctl_mk, ctl_self, ite_self, implies_true, ↓serveFilter_ctl,
          ↓onFilter_ctl]

theorem overtake_ctl (a1 a2 s) : ctl (overtake a1 a2 s) = ctl s := by
  unfold overtake
  repeat' first
    | (simp only [↓ctl_ite, ↓ctl_keep, ↓ctl_keepR, ctl_mk, ctl_self, ite_self, implies_true]; done)
    | split
    | simp only [↓ctl_ite, ↓ctl_keep, ↓ctl_keepR, ctl_mk, ctl_self, ite_self, implies_true]

theorem tableWrite_ctl (a1 a2 a3 a4 s) : ctl (tableWrite a1 a2 a3 a4 s) = ctl s := by
  unfold tableWrite
  repeat' first
    | (simp only [↓ctl_ite, ↓ctl_keep, ↓ctl_keepR, ctl_mk, ctl_self, ite_self, implies_true, ↓onRegion_ctl,
          ↓overtake_ctl, ↓each_ctl, ↓groupOp_ctl, ↓recentWrite_ctl]; done)
    | split
    | simp only [↓ctl_ite, ↓ctl_keep, ↓ctl_keepR, ctl_mk, ctl_self, ite_self, implies_true, ↓onRegion_ctl,
          ↓overtake_ctl, ↓each_ctl, ↓groupOp_ctl, ↓recentWrite_ctl]

theorem filterWriteAccept_ctl (a1 a2 a3 s) : ctl (filterWriteAccept a1 a2 a3 s) = ctl s := by
  unfold filterWriteAccept
  repeat' first
    | (simp only [↓ctl_ite, ↓ctl_keep, ↓ctl_keepR, ctl_mk, ctl_self, ite_self, implies_true, ↓each_ctl,
          ↓tableWrite_ctl, ↓setColl_ctl]; done)
    | split
    | simp only [↓ctl_ite, ↓ctl_keep, ↓ctl_keepR, ctl_mk, ctl_self, ite_self, implies_true, ↓each_ctl,
          ↓tableWrite_ctl, ↓setColl_ctl]

theorem setDone_ctl (a1 a2 s) : ctl (setDone a1 a2 s) = ctl s := by
  unfold setDone
  repeat' first
    | (simp only [↓ctl_ite, ↓ctl_keep, ↓ctl_keepR, ctl_mk, ctl_self, ite_self, implies_true, ↓groupOp_ctl]; done)
    | split
    | simp only [↓ctl_ite, ↓ctl_keep, ↓ctl_keepR, ctl_mk, ctl_self, ite_self, implies_true, ↓groupOp_ctl]

theorem copyAccepted_ctl (a1 a2 s) : ctl (copyAccepted a1 a2 s) = ctl s := by
  unfold copyAccepted
  repeat' first
    | (simp only [↓ctl_ite, ↓ctl_keep, ↓ctl_keepR, ctl_mk, ctl_self, ite_self, implies_true, ↓setDone_ctl,
          ↓serveFilters_ctl, ↓setColl_ctl]; done)
    | split
    | simp only [↓ctl_ite, ↓ctl_keep, ↓ctl_keepR, ctl_mk, ctl_self, ite_self, implies_true, ↓setDone_ctl,
          ↓serveFilters_ctl, ↓setColl_ctl]

theorem injectedReadAccept_ctl (a1 s) : ctl (injectedReadAccept a1 s) = ctl s := by
  unfold injectedReadAccept
  repeat' first
    | (simp only [↓ctl_ite, ↓ctl_keep, ↓ctl_keepR, ctl_mk, ctl_self, ite_self, implies_true, ↓onFilter_ctl,
          ↓copyAccepted_ctl]; done)
    | split
    | simp only [↓ctl_ite, ↓ctl_keep, ↓ctl_keepR, ctl_mk, ctl_self, ite_self, implies_true, ↓onFilter_ctl,
          ↓copyAccepted_ctl]

theorem trackerGroupReadReturn_ctl (a1 a2 a3 s) : ctl (trackerGroupReadReturn a1 a2 a3 s) = ctl s := by
  unfold trackerGroupReadReturn
  repeat' first
    | (simp only [↓ctl_ite, ↓ctl_keep, ↓ctl_keepR, ctl_mk, ctl_self, ite_self, implies_true, ↓groupArrives_ctl,
          ↓fabAnswered_ctl, ↓serveFilters_ctl]; done)
    | split
    | simp only [↓ctl_ite, ↓ctl_keep, ↓ctl_keepR, ctl_mk, ctl_self, ite_self, implies_true, ↓groupArrives_ctl,
          ↓fabAnswered_ctl, ↓serveFilters_ctl]

end Sys2Proof.Machine
end

