-- ==== Sys2Proof/Laws/ControlCapture.lean ====
section
/-! SUPPORT. Operations that leave the control part of the state as it is: one lemma each, for
the rings, channels, ingots, streams, plans and captures. -/

set_option Elab.async false

set_option linter.all false

namespace Sys2Proof.Machine

theorem dbBad_ctl (a1 a2 a3 a4 a5 s) : ctl (dbBad a1 a2 a3 a4 a5 s) = ctl s := by
  unfold dbBad
  repeat' first
    | (simp only [↓ctl_ite, ↓ctl_keep, ↓ctl_keepR, ctl_mk, ctl_self, ite_self, implies_true, ↓raise_ctl]; done)
    | split
    | simp only [↓ctl_ite, ↓ctl_keep, ↓ctl_keepR, ctl_mk, ctl_self, ite_self, implies_true, ↓raise_ctl]

theorem sqTail_ctl (a1 a2 s) : ctl (sqTail a1 a2 s) = ctl s := by
  unfold sqTail
  repeat' first
    | (simp only [↓ctl_ite, ↓ctl_keep, ↓ctl_keepR, ctl_mk, ctl_self, ite_self, implies_true, ↓onQ_ctl, ↓when_ctl,
          ↓dbBad_ctl]; done)
    | intro _
    | refine (when_ctl _ _ _ ?_).trans ?_
    | split
    | simp only [↓ctl_ite, ↓ctl_keep, ↓ctl_keepR, ctl_mk, ctl_self, ite_self, implies_true, ↓onQ_ctl, ↓when_ctl,
          ↓dbBad_ctl]

theorem cqHead_ctl (a1 a2 s) : ctl (cqHead a1 a2 s) = ctl s := by
  unfold cqHead
  repeat' first
    | (simp only [↓ctl_ite, ↓ctl_keep, ↓ctl_keepR, ctl_mk, ctl_self, ite_self, implies_true, ↓onQ_ctl,
          ↓dbBad_ctl]; done)
    | split
    | simp only [↓ctl_ite, ↓ctl_keep, ↓ctl_keepR, ctl_mk, ctl_self, ite_self, implies_true, ↓onQ_ctl, ↓dbBad_ctl]

theorem evHead_ctl (a1 s) : ctl (evHead a1 s) = ctl s := by
  unfold evHead
  repeat' first
    | (simp only [↓ctl_ite, ↓ctl_keep, ↓ctl_keepR, ctl_mk, ctl_self, ite_self, implies_true, ↓catchUp_ctl,
          ↓dbBad_ctl]; done)
    | split
    | simp only [↓ctl_ite, ↓ctl_keep, ↓ctl_keepR, ctl_mk, ctl_self, ite_self, implies_true, ↓catchUp_ctl, ↓dbBad_ctl]

theorem issueTake_ctl (a1 a2 a3 a4 s) : ctl (issueTake a1 a2 a3 a4 s) = ctl s := by
  unfold issueTake
  repeat' first
    | (simp only [↓ctl_ite, ↓ctl_keep, ↓ctl_keepR, ctl_mk, ctl_self, ite_self, implies_true, ↓presentSlots_ctl,
          ↓onQ_ctl]; done)
    | split
    | simp only [↓ctl_ite, ↓ctl_keep, ↓ctl_keepR, ctl_mk, ctl_self, ite_self, implies_true, ↓presentSlots_ctl,
          ↓onQ_ctl]

theorem takeQ_ctl (a1 a2 a3 s) : ctl (takeQ a1 a2 a3 s) = ctl s := by
  unfold takeQ
  repeat' first
    | (simp only [↓ctl_ite, ↓ctl_keep, ↓ctl_keepR, ctl_mk, ctl_self, ite_self, implies_true, ↓onQ_ctl,
          ↓issueTake_ctl]; done)
    | split
    | simp only [↓ctl_ite, ↓ctl_keep, ↓ctl_keepR, ctl_mk, ctl_self, ite_self, implies_true, ↓onQ_ctl, ↓issueTake_ctl]

theorem seeWaits_ctl (a1 s) : ctl (seeWaits a1 s) = ctl s := by
  unfold seeWaits
  repeat' first
    | (simp only [↓ctl_ite, ↓ctl_keep, ↓ctl_keepR, ctl_mk, ctl_self, ite_self, implies_true]; done)
    | split
    | simp only [↓ctl_ite, ↓ctl_keep, ↓ctl_keepR, ctl_mk, ctl_self, ite_self, implies_true]

theorem dispatch_ctl (a1 s) : ctl (dispatch a1 s) = ctl s := by
  unfold dispatch
  repeat' first
    | (simp only [↓ctl_ite, ↓ctl_keep, ↓ctl_keepR, ctl_mk, ctl_self, ite_self, implies_true, ↓seeWaits_ctl,
          ↓takeQ_ctl]; done)
    | split
    | simp only [↓ctl_ite, ↓ctl_keep, ↓ctl_keepR, ctl_mk, ctl_self, ite_self, implies_true, ↓seeWaits_ctl, ↓takeQ_ctl]

theorem slotRepoll_ctl (a1 s) : ctl (slotRepoll a1 s) = ctl s := by
  unfold slotRepoll
  repeat' first
    | (simp only [↓ctl_ite, ↓ctl_keep, ↓ctl_keepR, ctl_mk, ctl_self, ite_self, implies_true, ↓issueTake_ctl]; done)
    | split
    | simp only [↓ctl_ite, ↓ctl_keep, ↓ctl_keepR, ctl_mk, ctl_self, ite_self, implies_true, ↓issueTake_ctl]

theorem dropTakes_ctl (a1 s) : ctl (dropTakes a1 s) = ctl s := by
  unfold dropTakes
  repeat' first
    | (simp only [↓ctl_ite, ↓ctl_keep, ↓ctl_keepR, ctl_mk, ctl_self, ite_self, implies_true, ↓onQ_ctl]; done)
    | split
    | simp only [↓ctl_ite, ↓ctl_keep, ↓ctl_keepR, ctl_mk, ctl_self, ite_self, implies_true, ↓onQ_ctl]

theorem queueError_ctl (a1 a2 a3 s) : ctl (queueError a1 a2 a3 s) = ctl s := by
  unfold queueError
  repeat' first
    | (simp only [↓ctl_ite, ↓ctl_keep, ↓ctl_keepR, ctl_mk, ctl_self, ite_self, implies_true, ↓dropTakes_ctl,
          ↓onQ_ctl, ↓raise_ctl]; done)
    | split
    | simp only [↓ctl_ite, ↓ctl_keep, ↓ctl_keepR, ctl_mk, ctl_self, ite_self, implies_true, ↓dropTakes_ctl,
          ↓onQ_ctl, ↓raise_ctl]

theorem takeDone_ctl (a1 a2 s) : ctl (takeDone a1 a2 s) = ctl s := by
  unfold takeDone
  repeat' first
    | (simp only [↓ctl_ite, ↓ctl_keep, ↓ctl_keepR, ctl_mk, ctl_self, ite_self, implies_true, ↓dropTakes_ctl,
          ↓onQ_ctl, ↓queueError_ctl]; done)
    | split
    | simp only [↓ctl_ite, ↓ctl_keep, ↓ctl_keepR, ctl_mk, ctl_self, ite_self, implies_true, ↓dropTakes_ctl,
          ↓onQ_ctl, ↓queueError_ctl]

theorem takesDone_ctl (a1 a2 s) : ctl (takesDone a1 a2 s) = ctl s := by
  fun_induction takesDone a1 a2 s <;>
    repeat' first
      | (simp +zetaDelta only [*, ↓ctl_ite, ↓ctl_keep, ↓ctl_keepR, ctl_mk, ctl_self, ite_self, implies_true,
            ↓takeDone_ctl]; done)
      | split
      | simp +zetaDelta only [*, ↓ctl_ite, ↓ctl_keep, ↓ctl_keepR, ctl_mk, ctl_self, ite_self, implies_true,
            ↓takeDone_ctl]

theorem slotsArrive_ctl (a1 a2 a3 a4 s) : ctl (slotsArrive a1 a2 a3 a4 s) = ctl s := by
  unfold slotsArrive
  repeat' first
    | (simp only [↓ctl_ite, ↓ctl_keep, ↓ctl_keepR, ctl_mk, ctl_self, ite_self, implies_true, ↓onQ_ctl,
          ↓takesDone_ctl]; done)
    | split
    | simp only [↓ctl_ite, ↓ctl_keep, ↓ctl_keepR, ctl_mk, ctl_self, ite_self, implies_true, ↓onQ_ctl, ↓takesDone_ctl]

theorem acceptItem_ctl (a1 a2 a3 a4 s) : ctl (acceptItem a1 a2 a3 a4 s) = ctl s := by
  unfold acceptItem
  repeat' first
    | (simp only [↓ctl_ite, ↓ctl_keep, ↓ctl_keepR, ctl_mk, ctl_self, ite_self, implies_true, ↓hitKind_ctl,
          ↓append_ctl, ↓each_ctl, ↓onQ_ctl, ↓appendRec_ctl]; done)
    | split
    | simp only [↓ctl_ite, ↓ctl_keep, ↓ctl_keepR, ctl_mk, ctl_self, ite_self, implies_true, ↓hitKind_ctl,
          ↓append_ctl, ↓each_ctl, ↓onQ_ctl, ↓appendRec_ctl]

theorem writeSeqWord_ctl (a1 a2 s) : ctl (writeSeqWord a1 a2 s) = ctl s := by
  unfold writeSeqWord
  repeat' first
    | (simp only [↓ctl_ite, ↓ctl_keep, ↓ctl_keepR, ctl_mk, ctl_self, ite_self, implies_true, ↓hbWrite_ctl]; done)
    | split
    | simp only [↓ctl_ite, ↓ctl_keep, ↓ctl_keepR, ctl_mk, ctl_self, ite_self, implies_true, ↓hbWrite_ctl]

theorem tidingFallback_ctl (a1 a2 a3 s) : ctl (tidingFallback a1 a2 a3 s) = ctl s := by
  unfold tidingFallback
  repeat' first
    | (simp only [↓ctl_ite, ↓ctl_keep, ↓ctl_keepR, ctl_mk, ctl_self, ite_self, implies_true, ↓writeSeqWord_ctl,
          ↓raise_ctl]; done)
    | split
    | simp only [↓ctl_ite, ↓ctl_keep, ↓ctl_keepR, ctl_mk, ctl_self, ite_self, implies_true, ↓writeSeqWord_ctl,
          ↓raise_ctl]

theorem issueCompletion_ctl (a1 a2 s) : ctl (issueCompletion a1 a2 s) = ctl s := by
  unfold issueCompletion
  repeat' first
    | (simp only [↓ctl_ite, ↓ctl_keep, ↓ctl_keepR, ctl_mk, ctl_self, ite_self, implies_true, ↓send_ctl, ↓onQ_ctl,
          ↓writeSeqWord_ctl, ↓hbWrite_ctl, ↓msix_ctl, ↓tidingFallback_ctl]; done)
    | split
    | simp only [↓ctl_ite, ↓ctl_keep, ↓ctl_keepR, ctl_mk, ctl_self, ite_self, implies_true, ↓send_ctl, ↓onQ_ctl,
          ↓writeSeqWord_ctl, ↓hbWrite_ctl, ↓msix_ctl, ↓tidingFallback_ctl]

theorem writeCompletion_ctl (a1 a2 a3 a4 a5 a6 a7 a8 a9 a10 s) :
    ctl (writeCompletion a1 a2 a3 a4 a5 a6 a7 a8 a9 a10 s) = ctl s := by
  unfold writeCompletion
  repeat' first
    | (simp only [↓ctl_ite, ↓ctl_keep, ↓ctl_keepR, ctl_mk, ctl_self, ite_self, implies_true, ↓onQ_ctl,
          ↓issueCompletion_ctl]; done)
    | split
    | simp only [↓ctl_ite, ↓ctl_keep, ↓ctl_keepR, ctl_mk, ctl_self, ite_self, implies_true, ↓onQ_ctl,
          ↓issueCompletion_ctl]

theorem completionWrite_ctl (a1 s) : ctl (completionWrite a1 s) = ctl s := by
  unfold completionWrite
  repeat' first
    | (simp only [↓ctl_ite, ↓ctl_keep, ↓ctl_keepR, ctl_mk, ctl_self, ite_self, implies_true, ↓writeCompletion_ctl,
          ↓onQ_ctl]; done)
    | split
    | simp only [↓ctl_ite, ↓ctl_keep, ↓ctl_keepR, ctl_mk, ctl_self, ite_self, implies_true, ↓writeCompletion_ctl,
          ↓onQ_ctl]

theorem journalCompleted_ctl (a1 a2 s) : ctl (journalCompleted a1 a2 s) = ctl s := by
  unfold journalCompleted
  repeat' first
    | (simp only [↓ctl_ite, ↓ctl_keep, ↓ctl_keepR, ctl_mk, ctl_self, ite_self, implies_true, ↓append_ctl, ↓onQ_ctl,
          ↓kill_ctl]; done)
    | split
    | simp only [↓ctl_ite, ↓ctl_keep, ↓ctl_keepR, ctl_mk, ctl_self, ite_self, implies_true, ↓append_ctl, ↓onQ_ctl,
          ↓kill_ctl]

theorem settleCq_ctl (a1 a2 s) : ctl (settleCq a1 a2 s) = ctl s := by
  fun_induction settleCq a1 a2 s <;>
    repeat' first
      | (simp +zetaDelta only [*, ↓ctl_ite, ↓ctl_keep, ↓ctl_keepR, ctl_mk, ctl_self, ite_self, implies_true,
            ↓onQ_ctl, ↓journalCompleted_ctl]; done)
      | split
      | simp +zetaDelta only [*, ↓ctl_ite, ↓ctl_keep, ↓ctl_keepR, ctl_mk, ctl_self, ite_self, implies_true,
            ↓onQ_ctl, ↓journalCompleted_ctl]

theorem tidingSettled_ctl (a1 s) : ctl (tidingSettled a1 s) = ctl s := by
  unfold tidingSettled
  repeat' first
    | (simp only [↓ctl_ite, ↓ctl_keep, ↓ctl_keepR, ctl_mk, ctl_self, ite_self, implies_true, ↓onQ_ctl,
          ↓settleCq_ctl]; done)
    | split
    | simp only [↓ctl_ite, ↓ctl_keep, ↓ctl_keepR, ctl_mk, ctl_self, ite_self, implies_true, ↓onQ_ctl, ↓settleCq_ctl]

theorem tidingDropped_ctl (a1 s) : ctl (tidingDropped a1 s) = ctl s := by
  unfold tidingDropped
  repeat' first
    | (simp only [↓ctl_ite, ↓ctl_keep, ↓ctl_keepR, ctl_mk, ctl_self, ite_self, implies_true, ↓tidingSettled_ctl,
          ↓tidingFallback_ctl]; done)
    | split
    | simp only [↓ctl_ite, ↓ctl_keep, ↓ctl_keepR, ctl_mk, ctl_self, ite_self, implies_true, ↓tidingSettled_ctl,
          ↓tidingFallback_ctl]

theorem headShadow_ctl (a1 s) : ctl (headShadow a1 s) = ctl s := by
  unfold headShadow
  repeat' first
    | (simp only [↓ctl_ite, ↓ctl_keep, ↓ctl_keepR, ctl_mk, ctl_self, ite_self, implies_true, ↓onQ_ctl,
          ↓hbWrite_ctl]; done)
    | split
    | simp only [↓ctl_ite, ↓ctl_keep, ↓ctl_keepR, ctl_mk, ctl_self, ite_self, implies_true, ↓onQ_ctl, ↓hbWrite_ctl]

theorem queueStall_ctl (a1 s) : ctl (queueStall a1 s) = ctl s := by
  unfold queueStall
  repeat' first
    | (simp only [↓ctl_ite, ↓ctl_keep, ↓ctl_keepR, ctl_mk, ctl_self, ite_self, implies_true, ↓onQ_ctl,
          ↓raise_ctl]; done)
    | split
    | simp only [↓ctl_ite, ↓ctl_keep, ↓ctl_keepR, ctl_mk, ctl_self, ite_self, implies_true, ↓onQ_ctl, ↓raise_ctl]

theorem flushAccepted_ctl (a1 s) : ctl (flushAccepted a1 s) = ctl s := by
  unfold flushAccepted
  repeat' first
    | (simp only [↓ctl_ite, ↓ctl_keep, ↓ctl_keepR, ctl_mk, ctl_self, ite_self, implies_true, ↓finish_ctl,
          ↓each_ctl]; done)
    | split
    | simp only [↓ctl_ite, ↓ctl_keep, ↓ctl_keepR, ctl_mk, ctl_self, ite_self, implies_true, ↓finish_ctl, ↓each_ctl]

theorem releaseHeld_ctl (a1 s) : ctl (releaseHeld a1 s) = ctl s := by
  unfold releaseHeld
  repeat' first
    | (simp only [↓ctl_ite, ↓ctl_keep, ↓ctl_keepR, ctl_mk, ctl_self, ite_self, implies_true, ↓each_ctl, ↓onQ_ctl,
          ↓hbWrite_ctl]; done)
    | split
    | simp only [↓ctl_ite, ↓ctl_keep, ↓ctl_keepR, ctl_mk, ctl_self, ite_self, implies_true, ↓each_ctl, ↓onQ_ctl,
          ↓hbWrite_ctl]

theorem flushBegin_ctl (a1 a2 a3 s) : ctl (flushBegin a1 a2 a3 s) = ctl s := by
  unfold flushBegin
  repeat' first
    | (simp only [↓ctl_ite, ↓ctl_keep, ↓ctl_keepR, ctl_mk, ctl_self, ite_self, implies_true, ↓flushAccepted_ctl,
          ↓readCtl_ctl, ↓dropTakes_ctl, ↓each_ctl, ↓onQ_ctl]; done)
    | split
    | simp only [↓ctl_ite, ↓ctl_keep, ↓ctl_keepR, ctl_mk, ctl_self, ite_self, implies_true, ↓flushAccepted_ctl,
          ↓readCtl_ctl, ↓dropTakes_ctl, ↓each_ctl, ↓onQ_ctl]

theorem flushItems_ctl (a1 a2 s) : ctl (flushItems a1 a2 s) = ctl s := by
  fun_induction flushItems a1 a2 s <;>
    repeat' first
      | (simp +zetaDelta only [*, ↓ctl_ite, ↓ctl_keep, ↓ctl_keepR, ctl_mk, ctl_self, ite_self, implies_true,
            ↓finish_ctl, ↓onQ_ctl, ↓acceptItem_ctl]; done)
      | split
      | simp +zetaDelta only [*, ↓ctl_ite, ↓ctl_keep, ↓ctl_keepR, ctl_mk, ctl_self, ite_self, implies_true,
            ↓finish_ctl, ↓onQ_ctl, ↓acceptItem_ctl]

theorem flushAccept_ctl (a1 s) : ctl (flushAccept a1 s) = ctl s := by
  unfold flushAccept
  repeat' first
    | (simp only [↓ctl_ite, ↓ctl_keep, ↓ctl_keepR, ctl_mk, ctl_self, ite_self, implies_true, ↓flushItems_ctl]; done)
    | split
    | simp only [↓ctl_ite, ↓ctl_keep, ↓ctl_keepR, ctl_mk, ctl_self, ite_self, implies_true, ↓flushItems_ctl]

theorem flushStop_ctl (a1 s) : ctl (flushStop a1 s) = ctl s := by
  unfold flushStop
  repeat' first
    | (simp only [↓ctl_ite, ↓ctl_keep, ↓ctl_keepR, ctl_mk, ctl_self, ite_self, implies_true, ↓onQ_ctl,
          ↓releaseHeld_ctl]; done)
    | split
    | simp only [↓ctl_ite, ↓ctl_keep, ↓ctl_keepR, ctl_mk, ctl_self, ite_self, implies_true, ↓onQ_ctl,
          ↓releaseHeld_ctl]

theorem flushEnd_ctl (a1 s) : ctl (flushEnd a1 s).2 = ctl s := by
  unfold flushEnd
  repeat' first
    | (simp only [↓ctl_ite, ↓ctl_keep, ↓ctl_keepR, ctl_mk, ctl_self, ite_self, implies_true, ↓onQ_ctl,
          ↓flushStop_ctl]; done)
    | split
    | simp only [↓ctl_ite, ↓ctl_keep, ↓ctl_keepR, ctl_mk, ctl_self, ite_self, implies_true, ↓onQ_ctl, ↓flushStop_ctl]

theorem applyHeld_ctl (a1 s) : ctl (applyHeld a1 s) = ctl s := by
  unfold applyHeld
  repeat' first
    | (simp only [↓ctl_ite, ↓ctl_keep, ↓ctl_keepR, ctl_mk, ctl_self, ite_self, implies_true, ↓each_ctl, ↓onQ_ctl,
          ↓sqTail_ctl]; done)
    | split
    | simp only [↓ctl_ite, ↓ctl_keep, ↓ctl_keepR, ctl_mk, ctl_self, ite_self, implies_true, ↓each_ctl, ↓onQ_ctl,
          ↓sqTail_ctl]

theorem flushOver_ctl (a1 a2 a3 s) : ctl (flushOver a1 a2 a3 s) = ctl s := by
  unfold flushOver
  repeat' first
    | (simp only [↓ctl_ite, ↓ctl_keep, ↓ctl_keepR, ctl_mk, ctl_self, ite_self, implies_true, ↓finish_ctl,
          ↓applyHeld_ctl, ↓onCmd_ctl, ↓flushEnd_ctl]; done)
    | split
    | simp only [↓ctl_ite, ↓ctl_keep, ↓ctl_keepR, ctl_mk, ctl_self, ite_self, implies_true, ↓finish_ctl,
          ↓applyHeld_ctl, ↓onCmd_ctl, ↓flushEnd_ctl]

theorem runFlush_ctl (a1 a2 s) : ctl (runFlush a1 a2 s) = ctl s := by
  unfold runFlush
  repeat' first
    | (simp only [↓ctl_ite, ↓ctl_keep, ↓ctl_keepR, ctl_mk, ctl_self, ite_self, implies_true, ↓flushBegin_ctl,
          ↓flushAccept_ctl, ↓flushOver_ctl]; done)
    | split
    | simp only [↓ctl_ite, ↓ctl_keep, ↓ctl_keepR, ctl_mk, ctl_self, ite_self, implies_true, ↓flushBegin_ctl,
          ↓flushAccept_ctl, ↓flushOver_ctl]

theorem adminFlushEnd_ctl (s) : ctl (adminFlushEnd s) = ctl s := by
  unfold adminFlushEnd
  repeat' first
    | (simp only [↓ctl_ite, ↓ctl_keep, ↓ctl_keepR, ctl_mk, ctl_self, ite_self, implies_true, ↓flushOver_ctl,
          ↓acceptItem_ctl]; done)
    | split
    | simp only [↓ctl_ite, ↓ctl_keep, ↓ctl_keepR, ctl_mk, ctl_self, ite_self, implies_true, ↓flushOver_ctl,
          ↓acceptItem_ctl]

theorem adminFlush_ctl (a1 s) : ctl (adminFlush a1 s) = ctl s := by
  unfold adminFlush
  repeat' first
    | (simp only [↓ctl_ite, ↓ctl_keep, ↓ctl_keepR, ctl_mk, ctl_self, ite_self, implies_true, ↓flushBegin_ctl,
          ↓adminFlushEnd_ctl, ↓flushAccept_ctl]; done)
    | split
    | simp only [↓ctl_ite, ↓ctl_keep, ↓ctl_keepR, ctl_mk, ctl_self, ite_self, implies_true, ↓flushBegin_ctl,
          ↓adminFlushEnd_ctl, ↓flushAccept_ctl]

theorem adminFlushWrite_ctl (a1 s) : ctl (adminFlushWrite a1 s) = ctl s := by
  unfold adminFlushWrite
  repeat' first
    | (simp only [↓ctl_ite, ↓ctl_keep, ↓ctl_keepR, ctl_mk, ctl_self, ite_self, implies_true, ↓when_ctl,
          ↓adminFlush_ctl]; done)
    | split
    | simp only [↓ctl_ite, ↓ctl_keep, ↓ctl_keepR, ctl_mk, ctl_self, ite_self, implies_true, ↓when_ctl,
          ↓adminFlush_ctl]

theorem itemAccept_ctl (a1 s) : ctl (itemAccept a1 s) = ctl s := by
  unfold itemAccept
  repeat' first
    | (simp only [↓ctl_ite, ↓ctl_keep, ↓ctl_keepR, ctl_mk, ctl_self, ite_self, implies_true, ↓onQ_ctl,
          ↓adminFlushEnd_ctl, ↓when_ctl, ↓flushAccept_ctl, ↓acceptItem_ctl]; done)
    | split
    | simp only [↓ctl_ite, ↓ctl_keep, ↓ctl_keepR, ctl_mk, ctl_self, ite_self, implies_true, ↓onQ_ctl,
          ↓adminFlushEnd_ctl, ↓when_ctl, ↓flushAccept_ctl, ↓acceptItem_ctl]

theorem dropPeers_ctl (s) : ctl (dropPeers s) = ctl s := by
  unfold dropPeers
  repeat' first
    | (simp only [↓ctl_ite, ↓ctl_keep, ↓ctl_keepR, ctl_mk, ctl_self, ite_self, implies_true]; done)
    | split
    | simp only [↓ctl_ite, ↓ctl_keep, ↓ctl_keepR, ctl_mk, ctl_self, ite_self, implies_true]

theorem linkDown_ctl (a1 a2 a3 s) : ctl (linkDown a1 a2 a3 s) = ctl s := by
  unfold linkDown
  repeat' first
    | (simp only [↓ctl_ite, ↓ctl_keep, ↓ctl_keepR, ctl_mk, ctl_self, ite_self, implies_true, ↓raise0_ctl,
          ↓dropPeers_ctl, ↓onPort_ctl]; done)
    | split
    | simp only [↓ctl_ite, ↓ctl_keep, ↓ctl_keepR, ctl_mk, ctl_self, ite_self, implies_true, ↓raise0_ctl,
          ↓dropPeers_ctl, ↓onPort_ctl]

theorem moveMessages_ctl (a1 s) : ctl (moveMessages a1 s) = ctl s := by
  unfold moveMessages
  repeat' first
    | (simp only [↓ctl_ite, ↓ctl_keep, ↓ctl_keepR, ctl_mk, ctl_self, ite_self, implies_true, ↓queueMsg_ctl,
          ↓each_ctl, ↓tidingDropped_ctl, ↓onPort_ctl]; done)
    | intro _
    | refine (each_ctl _ _ _ ?_).trans ?_
    | split
    | simp only [↓ctl_ite, ↓ctl_keep, ↓ctl_keepR, ctl_mk, ctl_self, ite_self, implies_true, ↓queueMsg_ctl,
          ↓each_ctl, ↓tidingDropped_ctl, ↓onPort_ctl]

theorem faultRecord_ctl (a1 a2 a3 a4 s) : ctl (faultRecord a1 a2 a3 a4 s) = ctl s := by
  unfold faultRecord
  repeat' first
    | (simp only [↓ctl_ite, ↓ctl_keep, ↓ctl_keepR, ctl_mk, ctl_self, ite_self, implies_true, ↓append_ctl]; done)
    | split
    | simp only [↓ctl_ite, ↓ctl_keep, ↓ctl_keepR, ctl_mk, ctl_self, ite_self, implies_true, ↓append_ctl]

theorem faultHold_ctl (a1 s) : ctl (faultHold a1 s) = ctl s := by
  unfold faultHold
  repeat' first
    | (simp only [↓ctl_ite, ↓ctl_keep, ↓ctl_keepR, ctl_mk, ctl_self, ite_self, implies_true, ↓faultRecord_ctl,
          ↓fixUnits_ctl, ↓disarmFilters_ctl, ↓latchGasp_ctl, ↓raise0_ctl]; done)
    | split
    | simp only [↓ctl_ite, ↓ctl_keep, ↓ctl_keepR, ctl_mk, ctl_self, ite_self, implies_true, ↓faultRecord_ctl,
          ↓fixUnits_ctl, ↓disarmFilters_ctl, ↓latchGasp_ctl, ↓raise0_ctl]

theorem retiredEvent_ctl (a1 a2 a3 s) : ctl (retiredEvent a1 a2 a3 s) = ctl s := by
  unfold retiredEvent
  repeat' first
    | (simp only [↓ctl_ite, ↓ctl_keep, ↓ctl_keepR, ctl_mk, ctl_self, ite_self, implies_true, ↓raise0_ctl]; done)
    | split
    | simp only [↓ctl_ite, ↓ctl_keep, ↓ctl_keepR, ctl_mk, ctl_self, ite_self, implies_true, ↓raise0_ctl]

theorem markReadBad_ctl (a1 s) : ctl (markReadBad a1 s) = ctl s := by
  unfold markReadBad
  repeat' first
    | (simp only [↓ctl_ite, ↓ctl_keep, ↓ctl_keepR, ctl_mk, ctl_self, ite_self, implies_true, ↓poisonEpoch_ctl]; done)
    | split
    | simp only [↓ctl_ite, ↓ctl_keep, ↓ctl_keepR, ctl_mk, ctl_self, ite_self, implies_true, ↓poisonEpoch_ctl]

theorem moveRequests_ctl (a1 s) : ctl (moveRequests a1 s) = ctl s := by
  unfold moveRequests
  repeat' first
    | (simp only [↓ctl_ite, ↓ctl_keep, ↓ctl_keepR, ctl_mk, ctl_self, ite_self, implies_true, ↓each_ctl,
          ↓markReadBad_ctl]; done)
    | split
    | simp only [↓ctl_ite, ↓ctl_keep, ↓ctl_keepR, ctl_mk, ctl_self, ite_self, implies_true, ↓each_ctl,
          ↓markReadBad_ctl]

theorem moverGone_ctl (a1 s) : ctl (moverGone a1 s) = ctl s := by
  unfold moverGone
  repeat' first
    | (simp only [↓ctl_ite, ↓ctl_keep, ↓ctl_keepR, ctl_mk, ctl_self, ite_self, implies_true]; done)
    | split
    | simp only [↓ctl_ite, ↓ctl_keep, ↓ctl_keepR, ctl_mk, ctl_self, ite_self, implies_true]

theorem laneRetired_ctl (a1 s) : ctl (laneRetired a1 s) = ctl s := by
  unfold laneRetired
  repeat' first
    | (simp only [↓ctl_ite, ↓ctl_keep, ↓ctl_keepR, ctl_mk, ctl_self, ite_self, implies_true]; done)
    | split
    | simp only [↓ctl_ite, ↓ctl_keep, ↓ctl_keepR, ctl_mk, ctl_self, ite_self, implies_true]

theorem itemsBack_ctl (a1 a2 a3 a4 s) : ctl (itemsBack a1 a2 a3 a4 s) = ctl s := by
  unfold itemsBack
  repeat' first
    | (simp only [↓ctl_ite, ↓ctl_keep, ↓ctl_keepR, ctl_mk, ctl_self, ite_self, implies_true, ↓poisonEpoch_ctl,
          ↓onEpoch_ctl]; done)
    | split
    | simp only [↓ctl_ite, ↓ctl_keep, ↓ctl_keepR, ctl_mk, ctl_self, ite_self, implies_true, ↓poisonEpoch_ctl,
          ↓onEpoch_ctl]

theorem filterGone_ctl (a1 a2 s) : ctl (filterGone a1 a2 s) = ctl s := by
  unfold filterGone
  repeat' first
    | (simp only [↓ctl_ite, ↓ctl_keep, ↓ctl_keepR, ctl_mk, ctl_self, ite_self, implies_true, ↓fixUnits_ctl,
          ↓each_ctl, ↓itemsBack_ctl, ↓setResync_ctl]; done)
    | split
    | simp only [↓ctl_ite, ↓ctl_keep, ↓ctl_keepR, ctl_mk, ctl_self, ite_self, implies_true, ↓fixUnits_ctl,
          ↓each_ctl, ↓itemsBack_ctl, ↓setResync_ctl]

theorem laneGone_ctl (a1 s) : ctl (laneGone a1 s) = ctl s := by
  unfold laneGone
  repeat' first
    | (simp only [↓ctl_ite, ↓ctl_keep, ↓ctl_keepR, ctl_mk, ctl_self, ite_self, implies_true, ↓onPort_ctl]; done)
    | split
    | simp only [↓ctl_ite, ↓ctl_keep, ↓ctl_keepR, ctl_mk, ctl_self, ite_self, implies_true, ↓onPort_ctl]

theorem macroGone_ctl (a1 a2 s) : ctl (macroGone a1 a2 s) = ctl s := by
  unfold macroGone
  repeat' first
    | (simp only [↓ctl_ite, ↓ctl_keep, ↓ctl_keepR, ctl_mk, ctl_self, ite_self, implies_true, ↓faultHold_ctl,
          ↓latchGasp_ctl, ↓raise0_ctl]; done)
    | split
    | simp only [↓ctl_ite, ↓ctl_keep, ↓ctl_keepR, ctl_mk, ctl_self, ite_self, implies_true, ↓faultHold_ctl,
          ↓latchGasp_ctl, ↓raise0_ctl]

theorem retire1_ctl (a1 a2 a3 s) : ctl (retire1 a1 a2 a3 s) = ctl s := by
  unfold retire1
  repeat' first
    | (simp only [↓ctl_ite, ↓ctl_keep, ↓ctl_keepR, ctl_mk, ctl_self, ite_self, implies_true, ↓moverGone_ctl,
          ↓faultRecord_ctl, ↓linkDown_ctl, ↓retiredEvent_ctl, ↓laneRetired_ctl, ↓moveRequests_ctl, ↓macroGone_ctl,
          ↓filterGone_ctl, ↓moveMessages_ctl, ↓laneGone_ctl]; done)
    | split
    | simp only [↓ctl_ite, ↓ctl_keep, ↓ctl_keepR, ctl_mk, ctl_self, ite_self, implies_true, ↓moverGone_ctl,
          ↓faultRecord_ctl, ↓linkDown_ctl, ↓retiredEvent_ctl, ↓laneRetired_ctl, ↓moveRequests_ctl, ↓macroGone_ctl,
          ↓filterGone_ctl, ↓moveMessages_ctl, ↓laneGone_ctl]

theorem retire_ctl (a1 a2 a3 s) : ctl (retire a1 a2 a3 s) = ctl s := by
  unfold retire
  repeat' first
    | (simp only [↓ctl_ite, ↓ctl_keep, ↓ctl_keepR, ctl_mk, ctl_self, ite_self, implies_true, ↓retire1_ctl]; done)
    | split
    | simp only [↓ctl_ite, ↓ctl_keep, ↓ctl_keepR, ctl_mk, ctl_self, ite_self, implies_true, ↓retire1_ctl]

theorem upset_ctl (a1 s) : ctl (upset a1 s) = ctl s := by
  unfold upset
  repeat' first
    | (simp only [↓ctl_ite, ↓ctl_keep, ↓ctl_keepR, ctl_mk, ctl_self, ite_self, implies_true, ↓raise0_ctl]; done)
    | split
    | simp only [↓ctl_ite, ↓ctl_keep, ↓ctl_keepR, ctl_mk, ctl_self, ite_self, implies_true, ↓raise0_ctl]

theorem charge_ctl (a1 a2 s) : ctl (charge a1 a2 s) = ctl s := by
  unfold charge
  repeat' first
    | (simp only [↓ctl_ite, ↓ctl_keep, ↓ctl_keepR, ctl_mk, ctl_self, ite_self, implies_true, ↓retire_ctl]; done)
    | split
    | simp only [↓ctl_ite, ↓ctl_keep, ↓ctl_keepR, ctl_mk, ctl_self, ite_self, implies_true, ↓retire_ctl]

theorem onIngot_ctl (a1 a2 a3 s) : ctl (onIngot a1 a2 a3 s) = ctl s := by
  unfold onIngot
  repeat' first
    | (simp only [↓ctl_ite, ↓ctl_keep, ↓ctl_keepR, ctl_mk, ctl_self, ite_self, implies_true, ↓onEpoch_ctl]; done)
    | split
    | simp only [↓ctl_ite, ↓ctl_keep, ↓ctl_keepR, ctl_mk, ctl_self, ite_self, implies_true, ↓onEpoch_ctl]

theorem addJobs_ctl (a1 s) : ctl (addJobs a1 s) = ctl s := by
  unfold addJobs
  repeat' first
    | (simp only [↓ctl_ite, ↓ctl_keep, ↓ctl_keepR, ctl_mk, ctl_self, ite_self, implies_true]; done)
    | split
    | simp only [↓ctl_ite, ↓ctl_keep, ↓ctl_keepR, ctl_mk, ctl_self, ite_self, implies_true]

theorem emitBlock_ctl (a1 a2 a3 a4 a5 a6 a7 a8 a9 s) : ctl (emitBlock a1 a2 a3 a4 a5 a6 a7 a8 a9 s) = ctl s := by
  unfold emitBlock
  repeat' first
    | (simp only [↓ctl_ite, ↓ctl_keep, ↓ctl_keepR, ctl_mk, ctl_self, ite_self, implies_true, ↓onIngot_ctl,
          ↓addJobs_ctl]; done)
    | split
    | simp only [↓ctl_ite, ↓ctl_keep, ↓ctl_keepR, ctl_mk, ctl_self, ite_self, implies_true, ↓onIngot_ctl,
          ↓addJobs_ctl]

theorem checkThresholds_ctl (a1 a2 a3 a4 s) : ctl (checkThresholds a1 a2 a3 a4 s) = ctl s := by
  unfold checkThresholds
  repeat' first
    | (simp only [↓ctl_ite, ↓ctl_keep, ↓ctl_keepR, ctl_mk, ctl_self, ite_self, implies_true, ↓raise0_ctl]; done)
    | split
    | simp only [↓ctl_ite, ↓ctl_keep, ↓ctl_keepR, ctl_mk, ctl_self, ite_self, implies_true, ↓raise0_ctl]

theorem finishIngot_ctl (a1 a2 s) : ctl (finishIngot a1 a2 s) = ctl s := by
  unfold finishIngot
  repeat' first
    | (simp only [↓ctl_ite, ↓ctl_keep, ↓ctl_keepR, ctl_mk, ctl_self, ite_self, implies_true, ↓checkThresholds_ctl,
          ↓onIngot_ctl, ↓addJobs_ctl]; done)
    | split
    | simp only [↓ctl_ite, ↓ctl_keep, ↓ctl_keepR, ctl_mk, ctl_self, ite_self, implies_true, ↓checkThresholds_ctl,
          ↓onIngot_ctl, ↓addJobs_ctl]

theorem flushEgress_ctl (a1 a2 s) : ctl (flushEgress a1 a2 s) = ctl s := by
  unfold flushEgress
  repeat' first
    | (simp only [↓ctl_ite, ↓ctl_keep, ↓ctl_keepR, ctl_mk, ctl_self, ite_self, implies_true, ↓request_ctl]; done)
    | split
    | simp only [↓ctl_ite, ↓ctl_keep, ↓ctl_keepR, ctl_mk, ctl_self, ite_self, implies_true, ↓request_ctl]

theorem releaseSector_ctl (a1 a2 a3 a4 a5 a6 s) : ctl (releaseSector a1 a2 a3 a4 a5 a6 s) = ctl s := by
  unfold releaseSector
  repeat' first
    | (simp only [↓ctl_ite, ↓ctl_keep, ↓ctl_keepR, ctl_mk, ctl_self, ite_self, implies_true, ↓hbSector_ctl,
          ↓flushEgress_ctl]; done)
    | split
    | simp only [↓ctl_ite, ↓ctl_keep, ↓ctl_keepR, ctl_mk, ctl_self, ite_self, implies_true, ↓hbSector_ctl,
          ↓flushEgress_ctl]

theorem sendDigests_ctl (a1 s) : ctl (sendDigests a1 s) = ctl s := by
  unfold sendDigests
  repeat' first
    | (simp only [↓ctl_ite, ↓ctl_keep, ↓ctl_keepR, ctl_mk, ctl_self, ite_self, implies_true, ↓request_ctl]; done)
    | split
    | simp only [↓ctl_ite, ↓ctl_keep, ↓ctl_keepR, ctl_mk, ctl_self, ite_self, implies_true, ↓request_ctl]

theorem flushDigests_ctl (a1 s) : ctl (flushDigests a1 s) = ctl s := by
  unfold flushDigests
  repeat' first
    | (simp only [↓ctl_ite, ↓ctl_keep, ↓ctl_keepR, ctl_mk, ctl_self, ite_self, implies_true, ↓each_ctl,
          ↓readLanes_ctl, ↓sendDigests_ctl]; done)
    | split
    | simp only [↓ctl_ite, ↓ctl_keep, ↓ctl_keepR, ctl_mk, ctl_self, ite_self, implies_true, ↓each_ctl,
          ↓readLanes_ctl, ↓sendDigests_ctl]

theorem addDigest_ctl (a1 a2 a3 a4 a5 s) : ctl (addDigest a1 a2 a3 a4 a5 s) = ctl s := by
  unfold addDigest
  repeat' first
    | (simp only [↓ctl_ite, ↓ctl_keep, ↓ctl_keepR, ctl_mk, ctl_self, ite_self, implies_true, ↓flushDigests_ctl,
          ↓lanesWrite_ctl]; done)
    | split
    | simp only [↓ctl_ite, ↓ctl_keep, ↓ctl_keepR, ctl_mk, ctl_self, ite_self, implies_true, ↓flushDigests_ctl,
          ↓lanesWrite_ctl]

theorem answerDigest_sendTo_ctl (d : Nat) (x : Msg) (s : State) : ctl (answerDigest.sendTo d x s) = ctl s := by
  unfold answerDigest.sendTo
  split
  · rfl
  · exact sendOn_ctl ..

theorem answerDigest_ctl (m : Bytes) (s : State) : ctl (answerDigest m s) = ctl s := answerDigest_sendTo_ctl ..

theorem answerDigest.sendTo_ctl (a1 a2 s) : ctl (answerDigest.sendTo a1 a2 s) = ctl s := by
  unfold answerDigest.sendTo
  repeat' first
    | (simp only [↓ctl_ite, ↓ctl_keep, ↓ctl_keepR, ctl_mk, ctl_self, ite_self, implies_true, ↓sendOn_ctl]; done)
    | split
    | simp only [↓ctl_ite, ↓ctl_keep, ↓ctl_keepR, ctl_mk, ctl_self, ite_self, implies_true, ↓sendOn_ctl]

theorem compareDigest_ctl (a1 a2 a3 a4 a5 a6 s) : ctl (compareDigest a1 a2 a3 a4 a5 a6 s) = ctl s := by
  unfold compareDigest
  repeat' first
    | (simp only [↓ctl_ite, ↓ctl_keep, ↓ctl_keepR, ctl_mk, ctl_self, ite_self, implies_true, ↓raise0_ctl,
          ↓onEpoch_ctl, ↓assayCount_ctl]; done)
    | split
    | simp only [↓ctl_ite, ↓ctl_keep, ↓ctl_keepR, ctl_mk, ctl_self, ite_self, implies_true, ↓raise0_ctl,
          ↓onEpoch_ctl, ↓assayCount_ctl]

theorem answerReady_ctl (s) : ctl (answerReady s) = ctl s := by
  unfold answerReady
  repeat' first
    | (simp only [↓ctl_ite, ↓ctl_keep, ↓ctl_keepR, ctl_mk, ctl_self, ite_self, implies_true, ↓each_ctl,
          ↓answerDigest_ctl]; done)
    | split
    | simp only [↓ctl_ite, ↓ctl_keep, ↓ctl_keepR, ctl_mk, ctl_self, ite_self, implies_true, ↓each_ctl,
          ↓answerDigest_ctl]

theorem ownSealed_ctl (a1 a2 a3 s) : ctl (ownSealed a1 a2 a3 s) = ctl s := by
  unfold ownSealed
  repeat' first
    | (simp only [↓ctl_ite, ↓ctl_keep, ↓ctl_keepR, ctl_mk, ctl_self, ite_self, implies_true, ↓each_ctl,
          ↓compareDigest_ctl, ↓answerReady_ctl]; done)
    | split
    | simp only [↓ctl_ite, ↓ctl_keep, ↓ctl_keepR, ctl_mk, ctl_self, ite_self, implies_true, ↓each_ctl,
          ↓compareDigest_ctl, ↓answerReady_ctl]

theorem sendDurable_ctl (a1 a2 s) : ctl (sendDurable a1 a2 s) = ctl s := by
  unfold sendDurable
  repeat' first
    | (simp only [↓ctl_ite, ↓ctl_keep, ↓ctl_keepR, ctl_mk, ctl_self, ite_self, implies_true, ↓send_ctl,
          ↓each_ctl]; done)
    | split
    | simp only [↓ctl_ite, ↓ctl_keep, ↓ctl_keepR, ctl_mk, ctl_self, ite_self, implies_true, ↓send_ctl, ↓each_ctl]

theorem endWithResult_ctl (a1 a2 a3 a4 a5 a6 s) : ctl (endWithResult a1 a2 a3 a4 a5 a6 s) = ctl s := by
  unfold endWithResult
  repeat' first
    | (simp only [↓ctl_ite, ↓ctl_keep, ↓ctl_keepR, ctl_mk, ctl_self, ite_self, implies_true, ↓finish_ctl,
          ↓hbReq_ctl]; done)
    | split
    | simp only [↓ctl_ite, ↓ctl_keep, ↓ctl_keepR, ctl_mk, ctl_self, ite_self, implies_true, ↓finish_ctl, ↓hbReq_ctl]

theorem endCaptures_ctl (a1 s) : ctl (endCaptures a1 s) = ctl s := by
  unfold endCaptures
  repeat' first
    | (simp only [↓ctl_ite, ↓ctl_keep, ↓ctl_keepR, ctl_mk, ctl_self, ite_self, implies_true, ↓endWithResult_ctl,
          ↓finish_ctl, ↓drawn_ctl, ↓each_ctl]; done)
    | split
    | simp only [↓ctl_ite, ↓ctl_keep, ↓ctl_keepR, ctl_mk, ctl_self, ite_self, implies_true, ↓endWithResult_ctl,
          ↓finish_ctl, ↓drawn_ctl, ↓each_ctl]

theorem endStreams_ctl (a1 s) : ctl (endStreams a1 s) = ctl s := by
  unfold endStreams
  repeat' first
    | (simp only [↓ctl_ite, ↓ctl_keep, ↓ctl_keepR, ctl_mk, ctl_self, ite_self, implies_true]; done)
    | split
    | simp only [↓ctl_ite, ↓ctl_keep, ↓ctl_keepR, ctl_mk, ctl_self, ite_self, implies_true]

theorem entryStep_ctl (a1 a2 s) : ctl (entryStep a1 a2 s) = ctl s := by
  unfold entryStep
  repeat' first
    | (simp only [↓ctl_ite, ↓ctl_keep, ↓ctl_keepR, ctl_mk, ctl_self, ite_self, implies_true, ↓finishIngot_ctl,
          ↓onIngot_ctl, ↓addJobs_ctl]; done)
    | split
    | simp only [↓ctl_ite, ↓ctl_keep, ↓ctl_keepR, ctl_mk, ctl_self, ite_self, implies_true, ↓finishIngot_ctl,
          ↓onIngot_ctl, ↓addJobs_ctl]

theorem progress_ctl (a1 s) : ctl (progress a1 s) = ctl s := by
  unfold progress
  repeat' first
    | (simp only [↓ctl_ite, ↓ctl_keep, ↓ctl_keepR, ctl_mk, ctl_self, ite_self, implies_true, ↓endCaptures_ctl,
          ↓each_ctl, ↓entryStep_ctl, ↓endStreams_ctl, ↓onEpoch_ctl, ↓sendDurable_ctl]; done)
    | split
    | simp only [↓ctl_ite, ↓ctl_keep, ↓ctl_keepR, ctl_mk, ctl_self, ite_self, implies_true, ↓endCaptures_ctl,
          ↓each_ctl, ↓entryStep_ctl, ↓endStreams_ctl, ↓onEpoch_ctl, ↓sendDurable_ctl]

theorem ackSector_ctl (a1 a2 a3 s) : ctl (ackSector a1 a2 a3 s) = ctl s := by
  unfold ackSector
  repeat' first
    | (simp only [↓ctl_ite, ↓ctl_keep, ↓ctl_keepR, ctl_mk, ctl_self, ite_self, implies_true, ↓progress_ctl,
          ↓onIngot_ctl]; done)
    | split
    | simp only [↓ctl_ite, ↓ctl_keep, ↓ctl_keepR, ctl_mk, ctl_self, ite_self, implies_true, ↓progress_ctl,
          ↓onIngot_ctl]

theorem sectorLost_ctl (a1 s) : ctl (sectorLost a1 s) = ctl s := by
  unfold sectorLost
  repeat' first
    | (simp only [↓ctl_ite, ↓ctl_keep, ↓ctl_keepR, ctl_mk, ctl_self, ite_self, implies_true, ↓abandonEpoch_ctl]; done)
    | split
    | simp only [↓ctl_ite, ↓ctl_keep, ↓ctl_keepR, ctl_mk, ctl_self, ite_self, implies_true, ↓abandonEpoch_ctl]

theorem keyGone_ctl (a1 s) : ctl (keyGone a1 s) = ctl s := by
  unfold keyGone
  repeat' first
    | (simp only [↓ctl_ite, ↓ctl_keep, ↓ctl_keepR, ctl_mk, ctl_self, ite_self, implies_true, ↓abandonEpoch_ctl]; done)
    | split
    | simp only [↓ctl_ite, ↓ctl_keep, ↓ctl_keepR, ctl_mk, ctl_self, ite_self, implies_true, ↓abandonEpoch_ctl]

theorem sealRelease_ctl (a1 a2 a3 a4 a5 s) : ctl (sealRelease a1 a2 a3 a4 a5 s) = ctl s := by
  unfold sealRelease
  repeat' first
    | (simp only [↓ctl_ite, ↓ctl_keep, ↓ctl_keepR, ctl_mk, ctl_self, ite_self, implies_true, ↓ackSector_ctl,
          ↓releaseSector_ctl, ↓flushDigests_ctl, ↓fabReqBy_ctl, ↓ownSealed_ctl, ↓addDigest_ctl, ↓onIngot_ctl,
          ↓flushEgress_ctl]; done)
    | split
    | simp only [↓ctl_ite, ↓ctl_keep, ↓ctl_keepR, ctl_mk, ctl_self, ite_self, implies_true, ↓ackSector_ctl,
          ↓releaseSector_ctl, ↓flushDigests_ctl, ↓fabReqBy_ctl, ↓ownSealed_ctl, ↓addDigest_ctl, ↓onIngot_ctl,
          ↓flushEgress_ctl]

theorem chargeEngine_ctl (a1 s) : ctl (chargeEngine a1 s) = ctl s := by
  unfold chargeEngine
  repeat' first
    | (simp only [↓ctl_ite, ↓ctl_keep, ↓ctl_keepR, ctl_mk, ctl_self, ite_self, implies_true, ↓charge_ctl]; done)
    | split
    | simp only [↓ctl_ite, ↓ctl_keep, ↓ctl_keepR, ctl_mk, ctl_self, ite_self, implies_true, ↓charge_ctl]

theorem releaseSeal_ctl (a1 a2 a3 a4 a5 s) : ctl (releaseSeal a1 a2 a3 a4 a5 s) = ctl s := by
  unfold releaseSeal
  repeat' first
    | (simp only [↓ctl_ite, ↓ctl_keep, ↓ctl_keepR, ctl_mk, ctl_self, ite_self, implies_true, ↓releaseSector_ctl,
          ↓abandonEpoch_ctl, ↓onEpoch_ctl, ↓flushEgress_ctl]; done)
    | split
    | simp only [↓ctl_ite, ↓ctl_keep, ↓ctl_keepR, ctl_mk, ctl_self, ite_self, implies_true, ↓releaseSector_ctl,
          ↓abandonEpoch_ctl, ↓onEpoch_ctl, ↓flushEgress_ctl]

theorem sealJob_ctl (a1 a2 s) : ctl (sealJob a1 a2 s) = ctl s := by
  unfold sealJob
  repeat' first
    | (simp only [↓ctl_ite, ↓ctl_keep, ↓ctl_keepR, ctl_mk, ctl_self, ite_self, implies_true, ↓readKeys_ctl,
          ↓releaseSeal_ctl, ↓sealRelease_ctl, ↓chargeEngine_ctl, ↓raise0_ctl, ↓keyGone_ctl]; done)
    | split
    | simp only [↓ctl_ite, ↓ctl_keep, ↓ctl_keepR, ctl_mk, ctl_self, ite_self, implies_true, ↓readKeys_ctl,
          ↓releaseSeal_ctl, ↓sealRelease_ctl, ↓chargeEngine_ctl, ↓raise0_ctl, ↓keyGone_ctl]

theorem sectorSeal_ctl (a1 s) : ctl (sectorSeal a1 s) = ctl s := by
  unfold sectorSeal
  repeat' first
    | (simp only [↓ctl_ite, ↓ctl_keep, ↓ctl_keepR, ctl_mk, ctl_self, ite_self, implies_true, ↓sealJob_ctl,
          ↓poisonEpoch_ctl, ↓raise0_ctl, ↓upset_ctl]; done)
    | split
    | simp only [↓ctl_ite, ↓ctl_keep, ↓ctl_keepR, ctl_mk, ctl_self, ite_self, implies_true, ↓sealJob_ctl,
          ↓poisonEpoch_ctl, ↓raise0_ctl, ↓upset_ctl]

theorem recipeTrap_ctl (a1 s) : ctl (recipeTrap a1 s) = ctl s := by
  unfold recipeTrap
  repeat' first
    | (simp only [↓ctl_ite, ↓ctl_keep, ↓ctl_keepR, ctl_mk, ctl_self, ite_self, implies_true, ↓raise0_ctl]; done)
    | split
    | simp only [↓ctl_ite, ↓ctl_keep, ↓ctl_keepR, ctl_mk, ctl_self, ite_self, implies_true, ↓raise0_ctl]

theorem onBlk_ctl (a1 a2 s) : ctl (onBlk a1 a2 s) = ctl s := by
  unfold onBlk
  repeat' first
    | (simp only [↓ctl_ite, ↓ctl_keep, ↓ctl_keepR, ctl_mk, ctl_self, ite_self, implies_true]; done)
    | split
    | simp only [↓ctl_ite, ↓ctl_keep, ↓ctl_keepR, ctl_mk, ctl_self, ite_self, implies_true]

theorem dropBlk_ctl (a1 s) : ctl (dropBlk a1 s) = ctl s := by
  unfold dropBlk
  repeat' first
    | (simp only [↓ctl_ite, ↓ctl_keep, ↓ctl_keepR, ctl_mk, ctl_self, ite_self, implies_true]; done)
    | split
    | simp only [↓ctl_ite, ↓ctl_keep, ↓ctl_keepR, ctl_mk, ctl_self, ite_self, implies_true]

theorem newBlk_ctl (a1 a2 s) : ctl (newBlk a1 a2 s) = ctl s := by
  unfold newBlk
  repeat' first
    | (simp only [↓ctl_ite, ↓ctl_keep, ↓ctl_keepR, ctl_mk, ctl_self, ite_self, implies_true, ↓flipHook_ctl]; done)
    | split
    | simp only [↓ctl_ite, ↓ctl_keep, ↓ctl_keepR, ctl_mk, ctl_self, ite_self, implies_true, ↓flipHook_ctl]

theorem noteFill_ctl (a1 a2 s) : ctl (noteFill a1 a2 s) = ctl s := by
  unfold noteFill
  repeat' first
    | (simp only [↓ctl_ite, ↓ctl_keep, ↓ctl_keepR, ctl_mk, ctl_self, ite_self, implies_true, ↓onCtx_ctl]; done)
    | split
    | simp only [↓ctl_ite, ↓ctl_keep, ↓ctl_keepR, ctl_mk, ctl_self, ite_self, implies_true, ↓onCtx_ctl]

theorem noteDrain_ctl (a1 a2 s) : ctl (noteDrain a1 a2 s) = ctl s := by
  unfold noteDrain
  repeat' first
    | (simp only [↓ctl_ite, ↓ctl_keep, ↓ctl_keepR, ctl_mk, ctl_self, ite_self, implies_true, ↓onCtx_ctl]; done)
    | split
    | simp only [↓ctl_ite, ↓ctl_keep, ↓ctl_keepR, ctl_mk, ctl_self, ite_self, implies_true, ↓onCtx_ctl]

theorem assignLanes_ctl (s) : ctl (assignLanes s) = ctl s := by
  unfold assignLanes
  repeat' first
    | (simp only [↓ctl_ite, ↓ctl_keep, ↓ctl_keepR, ctl_mk, ctl_self, ite_self, implies_true, ↓each_ctl,
          ↓onBlk_ctl]; done)
    | intro _
    | refine (each_ctl _ _ _ ?_).trans ?_
    | split
    | simp only [↓ctl_ite, ↓ctl_keep, ↓ctl_keepR, ctl_mk, ctl_self, ite_self, implies_true, ↓each_ctl, ↓onBlk_ctl]

theorem countStop_ctl (a1 a2 s) : ctl (countStop a1 a2 s) = ctl s := by
  unfold countStop
  repeat' first
    | (simp only [↓ctl_ite, ↓ctl_keep, ↓ctl_keepR, ctl_mk, ctl_self, ite_self, implies_true]; done)
    | split
    | simp only [↓ctl_ite, ↓ctl_keep, ↓ctl_keepR, ctl_mk, ctl_self, ite_self, implies_true]

theorem issueReads_ctl (a1 a2 a3 a4 s) : ctl (issueReads a1 a2 a3 a4 s) = ctl s := by
  fun_induction issueReads a1 a2 a3 a4 s <;>
    repeat' first
      | (simp +zetaDelta only [*, ↓ctl_ite, ↓ctl_keep, ↓ctl_keepR, ctl_mk, ctl_self, ite_self, implies_true,
            ↓fabReqBy_ctl, ↓countStop_ctl, ↓onBlk_ctl]; done)
      | split
      | simp +zetaDelta only [*, ↓ctl_ite, ↓ctl_keep, ↓ctl_keepR, ctl_mk, ctl_self, ite_self, implies_true,
            ↓fabReqBy_ctl, ↓countStop_ctl, ↓onBlk_ctl]

theorem readPeer_ctl (a1 a2 a3 a4 a5 s) : ctl (readPeer a1 a2 a3 a4 a5 s) = ctl s := by
  unfold readPeer
  repeat' first
    | (simp only [↓ctl_ite, ↓ctl_keep, ↓ctl_keepR, ctl_mk, ctl_self, ite_self, implies_true, ↓request_ctl]; done)
    | split
    | simp only [↓ctl_ite, ↓ctl_keep, ↓ctl_keepR, ctl_mk, ctl_self, ite_self, implies_true, ↓request_ctl]

theorem readSectors_ctl (a1 a2 a3 a4 s) : ctl (readSectors a1 a2 a3 a4 s) = ctl s := by
  unfold readSectors
  repeat' first
    | (simp only [↓ctl_ite, ↓ctl_keep, ↓ctl_keepR, ctl_mk, ctl_self, ite_self, implies_true, ↓each_ctl,
          ↓readPeer_ctl, ↓hbReq_ctl]; done)
    | split
    | simp only [↓ctl_ite, ↓ctl_keep, ↓ctl_keepR, ctl_mk, ctl_self, ite_self, implies_true, ↓each_ctl,
          ↓readPeer_ctl, ↓hbReq_ctl]

theorem readCheck_ctl (a1 s) : ctl (readCheck a1 s).2 = ctl s := by
  unfold readCheck
  repeat' first
    | (simp only [↓ctl_ite, ↓ctl_keep, ↓ctl_keepR, ctl_mk, ctl_self, ite_self, implies_true, ↓each_ctl,
          ↓raise0_ctl, ↓upset_ctl, ↓charge_ctl]; done)
    | split
    | simp only [↓ctl_ite, ↓ctl_keep, ↓ctl_keepR, ctl_mk, ctl_self, ite_self, implies_true, ↓each_ctl, ↓raise0_ctl,
          ↓upset_ctl, ↓charge_ctl]

theorem keyMissed_ctl (a1 s) : ctl (keyMissed a1 s) = ctl s := by
  unfold keyMissed
  repeat' first
    | (simp only [↓ctl_ite, ↓ctl_keep, ↓ctl_keepR, ctl_mk, ctl_self, ite_self, implies_true, ↓finish_ctl,
          ↓abandonEpoch_ctl, ↓stopCmd_ctl]; done)
    | split
    | simp only [↓ctl_ite, ↓ctl_keep, ↓ctl_keepR, ctl_mk, ctl_self, ite_self, implies_true, ↓finish_ctl,
          ↓abandonEpoch_ctl, ↓stopCmd_ctl]

theorem keepSector_ctl (a1 a2 a3 a4 s) : ctl (keepSector a1 a2 a3 a4 s) = ctl s := by
  unfold keepSector
  repeat' first
    | (simp only [↓ctl_ite, ↓ctl_keep, ↓ctl_keepR, ctl_mk, ctl_self, ite_self, implies_true, ↓readKeys_ctl,
          ↓noteFill_ctl, ↓drawn_ctl, ↓onCtx_ctl, ↓keyMissed_ctl, ↓readCheck_ctl, ↓onBlk_ctl]; done)
    | split
    | simp only [↓ctl_ite, ↓ctl_keep, ↓ctl_keepR, ctl_mk, ctl_self, ite_self, implies_true, ↓readKeys_ctl,
          ↓noteFill_ctl, ↓drawn_ctl, ↓onCtx_ctl, ↓keyMissed_ctl, ↓readCheck_ctl, ↓onBlk_ctl]

theorem sectorArrives_ctl (a1 a2 a3 a4 s) : ctl (sectorArrives a1 a2 a3 a4 s) = ctl s := by
  unfold sectorArrives
  repeat' first
    | (simp only [↓ctl_ite, ↓ctl_keep, ↓ctl_keepR, ctl_mk, ctl_self, ite_self, implies_true, ↓readSectors_ctl,
          ↓keepSector_ctl]; done)
    | split
    | simp only [↓ctl_ite, ↓ctl_keep, ↓ctl_keepR, ctl_mk, ctl_self, ite_self, implies_true, ↓readSectors_ctl,
          ↓keepSector_ctl]

theorem startUnit_ctl (a1 a2 a3 s) : ctl (startUnit a1 a2 a3 s) = ctl s := by
  unfold startUnit
  repeat' first
    | (simp only [↓ctl_ite, ↓ctl_keep, ↓ctl_keepR, ctl_mk, ctl_self, ite_self, implies_true, ↓readSectors_ctl,
          ↓newBlk_ctl]; done)
    | split
    | simp only [↓ctl_ite, ↓ctl_keep, ↓ctl_keepR, ctl_mk, ctl_self, ite_self, implies_true, ↓readSectors_ctl,
          ↓newBlk_ctl]

theorem captureBad_ctl (a1 a2 a3 a4 a5 a6 s) : ctl (captureBad a1 a2 a3 a4 a5 a6 s) = ctl s := by
  unfold captureBad
  repeat' first
    | (simp only [↓ctl_ite, ↓ctl_keep, ↓ctl_keepR, ctl_mk, ctl_self, ite_self, implies_true, ↓badAt_ctl]; done)
    | split
    | simp only [↓ctl_ite, ↓ctl_keep, ↓ctl_keepR, ctl_mk, ctl_self, ite_self, implies_true, ↓badAt_ctl]

theorem setOrder_ctl (a1 a2 s) : ctl (setOrder a1 a2 s) = ctl s := by
  unfold setOrder
  repeat' first
    | (simp only [↓ctl_ite, ↓ctl_keep, ↓ctl_keepR, ctl_mk, ctl_self, ite_self, implies_true, ↓onEpoch_ctl]; done)
    | split
    | simp only [↓ctl_ite, ↓ctl_keep, ↓ctl_keepR, ctl_mk, ctl_self, ite_self, implies_true, ↓onEpoch_ctl]

theorem startStreams_ctl (a1 s) : ctl (startStreams a1 s) = ctl s := by
  unfold startStreams
  repeat' first
    | (simp only [↓ctl_ite, ↓ctl_keep, ↓ctl_keepR, ctl_mk, ctl_self, ite_self, implies_true, ↓newCtx_ctl,
          ↓contextWait_ctl, ↓each_ctl]; done)
    | split
    | simp only [↓ctl_ite, ↓ctl_keep, ↓ctl_keepR, ctl_mk, ctl_self, ite_self, implies_true, ↓newCtx_ctl,
          ↓contextWait_ctl, ↓each_ctl]

theorem advance_ctl (s) : ctl (advance s) = ctl s := by
  unfold advance
  repeat' first
    | (simp only [↓ctl_ite, ↓ctl_keep, ↓ctl_keepR, ctl_mk, ctl_self, ite_self, implies_true, ↓serveFilters_ctl]; done)
    | split
    | simp only [↓ctl_ite, ↓ctl_keep, ↓ctl_keepR, ctl_mk, ctl_self, ite_self, implies_true, ↓serveFilters_ctl]

theorem fillTag_ctl (a1 s) : ctl (fillTag a1 s) = ctl s := by
  unfold fillTag
  repeat' first
    | (simp only [↓ctl_ite, ↓ctl_keep, ↓ctl_keepR, ctl_mk, ctl_self, ite_self, implies_true]; done)
    | split
    | simp only [↓ctl_ite, ↓ctl_keep, ↓ctl_keepR, ctl_mk, ctl_self, ite_self, implies_true]

theorem plateStep_ctl (a1 a2 a3 a4 s) : ctl (plateStep a1 a2 a3 a4 s) = ctl s := by
  fun_induction plateStep a1 a2 a3 a4 s <;>
    repeat' first
      | (simp +zetaDelta only [*, ↓ctl_ite, ↓ctl_keep, ↓ctl_keepR, ctl_mk, ctl_self, ite_self, implies_true,
            ↓fillTag_ctl, ↓issueReads_ctl, ↓newBlk_ctl, ↓setOrder_ctl]; done)
      | split
      | simp +zetaDelta only [*, ↓ctl_ite, ↓ctl_keep, ↓ctl_keepR, ctl_mk, ctl_self, ite_self, implies_true,
            ↓fillTag_ctl, ↓issueReads_ctl, ↓newBlk_ctl, ↓setOrder_ctl]

theorem fillExtent_ctl (a1 a2 a3 s) : ctl (fillExtent a1 a2 a3 s) = ctl s := by
  unfold fillExtent
  repeat' first
    | (simp only [↓ctl_ite, ↓ctl_keep, ↓ctl_keepR, ctl_mk, ctl_self, ite_self, implies_true, ↓onIngot_ctl,
          ↓onBlk_ctl]; done)
    | split
    | simp only [↓ctl_ite, ↓ctl_keep, ↓ctl_keepR, ctl_mk, ctl_self, ite_self, implies_true, ↓onIngot_ctl, ↓onBlk_ctl]

theorem placeExtents_ctl (a1 a2 a3 a4 s) : ctl (placeExtents a1 a2 a3 a4 s) = ctl s := by
  unfold placeExtents
  repeat' first
    | (simp only [↓ctl_ite, ↓ctl_keep, ↓ctl_keepR, ctl_mk, ctl_self, ite_self, implies_true, ↓each_ctl,
          ↓fillExtent_ctl, ↓newBlk_ctl]; done)
    | split
    | simp only [↓ctl_ite, ↓ctl_keep, ↓ctl_keepR, ctl_mk, ctl_self, ite_self, implies_true, ↓each_ctl,
          ↓fillExtent_ctl, ↓newBlk_ctl]

theorem rowAtHand_ctl (a1 a2 a3 a4 a5 s) : ctl (rowAtHand a1 a2 a3 a4 a5 s) = ctl s := by
  unfold rowAtHand
  repeat' first
    | (simp only [↓ctl_ite, ↓ctl_keep, ↓ctl_keepR, ctl_mk, ctl_self, ite_self, implies_true, ↓each_ctl,
          ↓fillExtent_ctl, ↓onIngot_ctl]; done)
    | split
    | simp only [↓ctl_ite, ↓ctl_keep, ↓ctl_keepR, ctl_mk, ctl_self, ite_self, implies_true, ↓each_ctl,
          ↓fillExtent_ctl, ↓onIngot_ctl]

theorem passantRow_ctl (a1 s) : ctl (passantRow a1 s) = ctl s := by
  unfold passantRow
  repeat' first
    | (simp only [↓ctl_ite, ↓ctl_keep, ↓ctl_keepR, ctl_mk, ctl_self, ite_self, implies_true, ↓fixUnits_ctl,
          ↓rowAtHand_ctl]; done)
    | split
    | simp only [↓ctl_ite, ↓ctl_keep, ↓ctl_keepR, ctl_mk, ctl_self, ite_self, implies_true, ↓fixUnits_ctl,
          ↓rowAtHand_ctl]

theorem formRows_ctl (a1 a2 a3 s) : ctl (formRows a1 a2 a3 s) = ctl s := by
  unfold formRows
  repeat' first
    | (simp only [↓ctl_ite, ↓ctl_keep, ↓ctl_keepR, ctl_mk, ctl_self, ite_self, implies_true, ↓each_ctl,
          ↓newBlk_ctl, ↓onIngot_ctl]; done)
    | split
    | simp only [↓ctl_ite, ↓ctl_keep, ↓ctl_keepR, ctl_mk, ctl_self, ite_self, implies_true, ↓each_ctl, ↓newBlk_ctl,
          ↓onIngot_ctl]

theorem leaveOrder_ctl (a1 a2 a3 a4 a5 s) : ctl (leaveOrder a1 a2 a3 a4 a5 s) = ctl s := by
  unfold leaveOrder
  repeat' first
    | (simp only [↓ctl_ite, ↓ctl_keep, ↓ctl_keepR, ctl_mk, ctl_self, ite_self, implies_true, ↓passantRow_ctl,
          ↓placeExtents_ctl, ↓formRows_ctl, ↓setOrder_ctl]; done)
    | split
    | simp only [↓ctl_ite, ↓ctl_keep, ↓ctl_keepR, ctl_mk, ctl_self, ite_self, implies_true, ↓passantRow_ctl,
          ↓placeExtents_ctl, ↓formRows_ctl, ↓setOrder_ctl]

theorem rowStep_ctl (a1 a2 a3 a4 s) : ctl (rowStep a1 a2 a3 a4 s) = ctl s := by
  fun_induction rowStep a1 a2 a3 a4 s <;>
    repeat' first
      | (simp +zetaDelta only [*, ↓ctl_ite, ↓ctl_keep, ↓ctl_keepR, ctl_mk, ctl_self, ite_self, implies_true,
            ↓issueReads_ctl, ↓leaveOrder_ctl, ↓fetchGroup_ctl, ↓askCv_ctl, ↓groupOp_ctl, ↓newBlk_ctl,
            ↓formRows_ctl]; done)
      | split
      | simp +zetaDelta only [*, ↓ctl_ite, ↓ctl_keep, ↓ctl_keepR, ctl_mk, ctl_self, ite_self, implies_true,
            ↓issueReads_ctl, ↓leaveOrder_ctl, ↓fetchGroup_ctl, ↓askCv_ctl, ↓groupOp_ctl, ↓newBlk_ctl,
            ↓formRows_ctl]

theorem rowPassed_ctl (a1 a2 a3 a4 s) : ctl (rowPassed a1 a2 a3 a4 s) = ctl s := by
  unfold rowPassed
  repeat' first
    | (simp only [↓ctl_ite, ↓ctl_keep, ↓ctl_keepR, ctl_mk, ctl_self, ite_self, implies_true, ↓setDone_ctl,
          ↓onBlk_ctl]; done)
    | split
    | simp only [↓ctl_ite, ↓ctl_keep, ↓ctl_keepR, ctl_mk, ctl_self, ite_self, implies_true, ↓setDone_ctl, ↓onBlk_ctl]

theorem sourcePassed_ctl (a1 s) : ctl (sourcePassed a1 s) = ctl s := by
  unfold sourcePassed
  repeat' first
    | (simp only [↓ctl_ite, ↓ctl_keep, ↓ctl_keepR, ctl_mk, ctl_self, ite_self, implies_true, ↓rowPassed_ctl,
          ↓advance_ctl, ↓onBlk_ctl]; done)
    | split
    | simp only [↓ctl_ite, ↓ctl_keep, ↓ctl_keepR, ctl_mk, ctl_self, ite_self, implies_true, ↓rowPassed_ctl,
          ↓advance_ctl, ↓onBlk_ctl]

theorem filterReadPresent_ctl (a1 a2 a3 a4 s) : ctl (filterReadPresent a1 a2 a3 a4 s) = ctl s := by
  unfold filterReadPresent
  repeat' first
    | (simp only [↓ctl_ite, ↓ctl_keep, ↓ctl_keepR, ctl_mk, ctl_self, ite_self, implies_true, ↓fabAnswered_ctl,
          ↓sourcePassed_ctl]; done)
    | split
    | simp only [↓ctl_ite, ↓ctl_keep, ↓ctl_keepR, ctl_mk, ctl_self, ite_self, implies_true, ↓fabAnswered_ctl,
          ↓sourcePassed_ctl]

theorem checkRow_ctl (a1 a2 a3 a4 a5 a6 s) : ctl (checkRow a1 a2 a3 a4 a5 a6 s).2 = ctl s := by
  unfold checkRow
  repeat' first
    | (simp only [↓ctl_ite, ↓ctl_keep, ↓ctl_keepR, ctl_mk, ctl_self, ite_self, implies_true, ↓groupOp_ctl,
          ↓poisonEpoch_ctl, ↓raise0_ctl]; done)
    | split
    | simp only [↓ctl_ite, ↓ctl_keep, ↓ctl_keepR, ctl_mk, ctl_self, ite_self, implies_true, ↓groupOp_ctl,
          ↓poisonEpoch_ctl, ↓raise0_ctl]

theorem rowArrived_ctl (a1 a2 a3 a4 s) : ctl (rowArrived a1 a2 a3 a4 s) = ctl s := by
  unfold rowArrived
  repeat' first
    | (simp only [↓ctl_ite, ↓ctl_keep, ↓ctl_keepR, ctl_mk, ctl_self, ite_self, implies_true, ↓checkRow_ctl,
          ↓dropBlk_ctl, ↓formRows_ctl, ↓rowAtHand_ctl]; done)
    | split
    | simp only [↓ctl_ite, ↓ctl_keep, ↓ctl_keepR, ctl_mk, ctl_self, ite_self, implies_true, ↓checkRow_ctl,
          ↓dropBlk_ctl, ↓formRows_ctl, ↓rowAtHand_ctl]

theorem sourceArrives_ctl (a1 a2 a3 a4 a5 s) : ctl (sourceArrives a1 a2 a3 a4 a5 s) = ctl s := by
  unfold sourceArrives
  repeat' first
    | (simp only [↓ctl_ite, ↓ctl_keep, ↓ctl_keepR, ctl_mk, ctl_self, ite_self, implies_true, ↓rowArrived_ctl,
          ↓noteFill_ctl, ↓drawn_ctl, ↓badData_ctl, ↓captureBad_ctl, ↓onBlk_ctl]; done)
    | split
    | simp only [↓ctl_ite, ↓ctl_keep, ↓ctl_keepR, ctl_mk, ctl_self, ite_self, implies_true, ↓rowArrived_ctl,
          ↓noteFill_ctl, ↓drawn_ctl, ↓badData_ctl, ↓captureBad_ctl, ↓onBlk_ctl]

theorem passantLost_ctl (a1 s) : ctl (passantLost a1 s) = ctl s := by
  unfold passantLost
  repeat' first
    | (simp only [↓ctl_ite, ↓ctl_keep, ↓ctl_keepR, ctl_mk, ctl_self, ite_self, implies_true, ↓captureBad_ctl]; done)
    | split
    | simp only [↓ctl_ite, ↓ctl_keep, ↓ctl_keepR, ctl_mk, ctl_self, ite_self, implies_true, ↓captureBad_ctl]

theorem stagingLost_ctl (a1 s) : ctl (stagingLost a1 s) = ctl s := by
  unfold stagingLost
  repeat' first
    | (simp only [↓ctl_ite, ↓ctl_keep, ↓ctl_keepR, ctl_mk, ctl_self, ite_self, implies_true, ↓captureBad_ctl,
          ↓onBlk_ctl]; done)
    | split
    | simp only [↓ctl_ite, ↓ctl_keep, ↓ctl_keepR, ctl_mk, ctl_self, ite_self, implies_true, ↓captureBad_ctl,
          ↓onBlk_ctl]

theorem passantBlock_ctl (a1 a2 a3 s) : ctl (passantBlock a1 a2 a3 s) = ctl s := by
  unfold passantBlock
  repeat' first
    | (simp only [↓ctl_ite, ↓ctl_keep, ↓ctl_keepR, ctl_mk, ctl_self, ite_self, implies_true, ↓fillTag_ctl,
          ↓newBlk_ctl]; done)
    | split
    | simp only [↓ctl_ite, ↓ctl_keep, ↓ctl_keepR, ctl_mk, ctl_self, ite_self, implies_true, ↓fillTag_ctl, ↓newBlk_ctl]

theorem passantArrives_ctl (a1 a2 a3 a4 a5 s) : ctl (passantArrives a1 a2 a3 a4 a5 s) = ctl s := by
  unfold passantArrives
  repeat' first
    | (simp only [↓ctl_ite, ↓ctl_keep, ↓ctl_keepR, ctl_mk, ctl_self, ite_self, implies_true, ↓fillTag_ctl,
          ↓checkRow_ctl, ↓passantRow_ctl, ↓fixUnits_ctl, ↓drawn_ctl, ↓passantLost_ctl, ↓readLanes_ctl,
          ↓passantBlock_ctl, ↓formRows_ctl, ↓captureBad_ctl]; done)
    | split
    | simp only [↓ctl_ite, ↓ctl_keep, ↓ctl_keepR, ctl_mk, ctl_self, ite_self, implies_true, ↓fillTag_ctl,
          ↓checkRow_ctl, ↓passantRow_ctl, ↓fixUnits_ctl, ↓drawn_ctl, ↓passantLost_ctl, ↓readLanes_ctl,
          ↓passantBlock_ctl, ↓formRows_ctl, ↓captureBad_ctl]

theorem emitSub_ctl (a1 a2 a3 a4 a5 a6 a7 a8 a9 s) : ctl (emitSub a1 a2 a3 a4 a5 a6 a7 a8 a9 s) = ctl s := by
  unfold emitSub
  repeat' first
    | (simp only [↓ctl_ite, ↓ctl_keep, ↓ctl_keepR, ctl_mk, ctl_self, ite_self, implies_true, ↓noteDrain_ctl,
          ↓emitBlock_ctl, ↓advance_ctl, ↓fixUnits_ctl, ↓dropBlk_ctl, ↓progress_ctl, ↓onBlk_ctl]; done)
    | split
    | simp only [↓ctl_ite, ↓ctl_keep, ↓ctl_keepR, ctl_mk, ctl_self, ite_self, implies_true, ↓noteDrain_ctl,
          ↓emitBlock_ctl, ↓advance_ctl, ↓fixUnits_ctl, ↓dropBlk_ctl, ↓progress_ctl, ↓onBlk_ctl]

theorem chargeLanes_ctl (a1 s) : ctl (chargeLanes a1 s) = ctl s := by
  unfold chargeLanes
  repeat' first
    | (simp only [↓ctl_ite, ↓ctl_keep, ↓ctl_keepR, ctl_mk, ctl_self, ite_self, implies_true, ↓each_ctl,
          ↓charge_ctl]; done)
    | split
    | simp only [↓ctl_ite, ↓ctl_keep, ↓ctl_keepR, ctl_mk, ctl_self, ite_self, implies_true, ↓each_ctl, ↓charge_ctl]

theorem encDone_ctl (a1 a2 a3 a4 a5 a6 a7 a8 a9 s) : ctl (encDone a1 a2 a3 a4 a5 a6 a7 a8 a9 s) = ctl s := by
  unfold encDone
  repeat' first
    | (simp only [↓ctl_ite, ↓ctl_keep, ↓ctl_keepR, ctl_mk, ctl_self, ite_self, implies_true, ↓raise0_ctl,
          ↓emitSub_ctl, ↓captureBad_ctl]; done)
    | split
    | simp only [↓ctl_ite, ↓ctl_keep, ↓ctl_keepR, ctl_mk, ctl_self, ite_self, implies_true, ↓raise0_ctl,
          ↓emitSub_ctl, ↓captureBad_ctl]

theorem checkFailed_ctl (a1 a2) (a3 : State → State) (s) (h0 : ∀ t, ctl (a3 t) = ctl t) :
    ctl (checkFailed a1 a2 a3 s) = ctl s := by
  unfold checkFailed
  repeat' first
    | (simp only [↓ctl_ite, ↓ctl_keep, ↓ctl_keepR, ctl_mk, ctl_self, ite_self, implies_true, ↓each_ctl, ↓upset_ctl,
          ↓onBlk_ctl, h0]; done)
    | split
    | simp only [↓ctl_ite, ↓ctl_keep, ↓ctl_keepR, ctl_mk, ctl_self, ite_self, implies_true, ↓each_ctl, ↓upset_ctl,
          ↓onBlk_ctl, h0]

theorem encEnded_ctl (a1 a2 a3 a4 a5 a6 a7 s) : ctl (encEnded a1 a2 a3 a4 a5 a6 a7 s) = ctl s := by
  unfold encEnded
  repeat' first
    | (simp only [↓ctl_ite, ↓ctl_keep, ↓ctl_keepR, ctl_mk, ctl_self, ite_self, implies_true, ↓recipeTrap_ctl,
          ↓chargeLanes_ctl, ↓encDone_ctl, ↓checkFailed_ctl, ↓onBlk_ctl]; done)
    | split
    | simp only [↓ctl_ite, ↓ctl_keep, ↓ctl_keepR, ctl_mk, ctl_self, ite_self, implies_true, ↓recipeTrap_ctl,
          ↓chargeLanes_ctl, ↓encDone_ctl, ↓checkFailed_ctl, ↓onBlk_ctl]

theorem encStep_ctl (a1 a2 a3 a4 a5 a6 s) : ctl (encStep a1 a2 a3 a4 a5 a6 s) = ctl s := by
  unfold encStep
  repeat' first
    | (simp only [↓ctl_ite, ↓ctl_keep, ↓ctl_keepR, ctl_mk, ctl_self, ite_self, implies_true, ↓dropBlk_ctl,
          ↓encEnded_ctl, ↓chargeLanes_ctl, ↓setLane_ctl, ↓encDone_ctl, ↓checkFailed_ctl]; done)
    | split
    | simp only [↓ctl_ite, ↓ctl_keep, ↓ctl_keepR, ctl_mk, ctl_self, ite_self, implies_true, ↓dropBlk_ctl,
          ↓encEnded_ctl, ↓chargeLanes_ctl, ↓setLane_ctl, ↓encDone_ctl, ↓checkFailed_ctl]

theorem encResume_ctl (a1 s) : ctl (encResume a1 s) = ctl s := by
  unfold encResume
  repeat' first
    | (simp only [↓ctl_ite, ↓ctl_keep, ↓ctl_keepR, ctl_mk, ctl_self, ite_self, implies_true, ↓dropBlk_ctl,
          ↓encEnded_ctl, ↓setLane_ctl]; done)
    | split
    | simp only [↓ctl_ite, ↓ctl_keep, ↓ctl_keepR, ctl_mk, ctl_self, ite_self, implies_true, ↓dropBlk_ctl,
          ↓encEnded_ctl, ↓setLane_ctl]

theorem getAnchor_ctl (a1 a2 s) : ctl (getAnchor a1 a2 s) = ctl s := by
  unfold getAnchor
  repeat' first
    | (simp only [↓ctl_ite, ↓ctl_keep, ↓ctl_keepR, ctl_mk, ctl_self, ite_self, implies_true, ↓startUnit_ctl,
          ↓drawn_ctl, ↓onBlk_ctl]; done)
    | split
    | simp only [↓ctl_ite, ↓ctl_keep, ↓ctl_keepR, ctl_mk, ctl_self, ite_self, implies_true, ↓startUnit_ctl,
          ↓drawn_ctl, ↓onBlk_ctl]

theorem startAnchor_ctl (a1 s) : ctl (startAnchor a1 s) = ctl s := by
  unfold startAnchor
  repeat' first
    | (simp only [↓ctl_ite, ↓ctl_keep, ↓ctl_keepR, ctl_mk, ctl_self, ite_self, implies_true, ↓getAnchor_ctl]; done)
    | split
    | simp only [↓ctl_ite, ↓ctl_keep, ↓ctl_keepR, ctl_mk, ctl_self, ite_self, implies_true, ↓getAnchor_ctl]

theorem startAnchors_ctl (s) : ctl (startAnchors s) = ctl s := by
  unfold startAnchors
  repeat' first
    | (simp only [↓ctl_ite, ↓ctl_keep, ↓ctl_keepR, ctl_mk, ctl_self, ite_self, implies_true, ↓each_ctl,
          ↓startAnchor_ctl]; done)
    | split
    | simp only [↓ctl_ite, ↓ctl_keep, ↓ctl_keepR, ctl_mk, ctl_self, ite_self, implies_true, ↓each_ctl,
          ↓startAnchor_ctl]

theorem anchorDone_ctl (a1 a2 a3 a4 s) : ctl (anchorDone a1 a2 a3 a4 s) = ctl s := by
  unfold anchorDone
  repeat' first
    | (simp only [↓ctl_ite, ↓ctl_keep, ↓ctl_keepR, ctl_mk, ctl_self, ite_self, implies_true, ↓onBlk_ctl]; done)
    | split
    | simp only [↓ctl_ite, ↓ctl_keep, ↓ctl_keepR, ctl_mk, ctl_self, ite_self, implies_true, ↓onBlk_ctl]

theorem leaveCapturing_ctl (s) : ctl (leaveCapturing s) = ctl s := by
  unfold leaveCapturing
  repeat' first
    | (simp only [↓ctl_ite, ↓ctl_keep, ↓ctl_keepR, ctl_mk, ctl_self, ite_self, implies_true, ↓setPhase_ctl,
          ↓disarmFilters_ctl, ↓progress_ctl, ↓writeBackAll_ctl]; done)
    | split
    | simp only [↓ctl_ite, ↓ctl_keep, ↓ctl_keepR, ctl_mk, ctl_self, ite_self, implies_true, ↓setPhase_ctl,
          ↓disarmFilters_ctl, ↓progress_ctl, ↓writeBackAll_ctl]

theorem runCredit_ctl (s) : ctl (runCredit s) = ctl s := by
  unfold runCredit
  repeat' first
    | (simp only [↓ctl_ite, ↓ctl_keep, ↓ctl_keepR, ctl_mk, ctl_self, ite_self, implies_true, ↓onCtx_ctl,
          ↓each_ctl]; done)
    | split
    | simp only [↓ctl_ite, ↓ctl_keep, ↓ctl_keepR, ctl_mk, ctl_self, ite_self, implies_true, ↓onCtx_ctl, ↓each_ctl]

theorem syncHeld_ctl (s) : ctl (syncHeld s) = ctl s := by
  unfold syncHeld
  repeat' first
    | (simp only [↓ctl_ite, ↓ctl_keep, ↓ctl_keepR, ctl_mk, ctl_self, ite_self, implies_true]; done)
    | split
    | simp only [↓ctl_ite, ↓ctl_keep, ↓ctl_keepR, ctl_mk, ctl_self, ite_self, implies_true]

theorem settleSlots_ctl (s) : ctl (settleSlots s) = ctl s := by
  unfold settleSlots
  repeat' first
    | (simp only [↓ctl_ite, ↓ctl_keep, ↓ctl_keepR, ctl_mk, ctl_self, ite_self, implies_true, ↓assignLanes_ctl,
          ↓startAnchors_ctl, ↓syncHeld_ctl, ↓runCredit_ctl, ↓dropStopped_ctl]; done)
    | split
    | simp only [↓ctl_ite, ↓ctl_keep, ↓ctl_keepR, ctl_mk, ctl_self, ite_self, implies_true, ↓assignLanes_ctl,
          ↓startAnchors_ctl, ↓syncHeld_ctl, ↓runCredit_ctl, ↓dropStopped_ctl]

theorem settle_ctl (s) : ctl (settle s) = ctl s := by
  unfold settle
  repeat' first
    | (simp only [↓ctl_ite, ↓ctl_keep, ↓ctl_keepR, ctl_mk, ctl_self, ite_self, implies_true, ↓leaveCapturing_ctl,
          ↓startStreams_ctl, ↓progress_ctl, ↓settleSlots_ctl]; done)
    | split
    | simp only [↓ctl_ite, ↓ctl_keep, ↓ctl_keepR, ctl_mk, ctl_self, ite_self, implies_true, ↓leaveCapturing_ctl,
          ↓startStreams_ctl, ↓progress_ctl, ↓settleSlots_ctl]

theorem deadlineRecompute_ctl (s) : ctl (deadlineRecompute s) = ctl s := by
  unfold deadlineRecompute
  repeat' first
    | (simp only [↓ctl_ite, ↓ctl_keep, ↓ctl_keepR, ctl_mk, ctl_self, ite_self, implies_true]; done)
    | split
    | simp only [↓ctl_ite, ↓ctl_keep, ↓ctl_keepR, ctl_mk, ctl_self, ite_self, implies_true]

theorem rejectPlan_ctl (a1 a2 a3 a4 a5 s) : ctl (rejectPlan a1 a2 a3 a4 a5 s) = ctl s := by
  unfold rejectPlan
  repeat' first
    | (simp only [↓ctl_ite, ↓ctl_keep, ↓ctl_keepR, ctl_mk, ctl_self, ite_self, implies_true, ↓finish_ctl,
          ↓planReject_ctl]; done)
    | split
    | simp only [↓ctl_ite, ↓ctl_keep, ↓ctl_keepR, ctl_mk, ctl_self, ite_self, implies_true, ↓finish_ctl,
          ↓planReject_ctl]

theorem planStore_ctl (a1 a2 s) : ctl (planStore a1 a2 s) = ctl s := by
  unfold planStore
  repeat' first
    | (simp only [↓ctl_ite, ↓ctl_keep, ↓ctl_keepR, ctl_mk, ctl_self, ite_self, implies_true, ↓readCtl_ctl,
          ↓finish_ctl, ↓mark_ctl, ↓freeGens_ctl, ↓rejectPlan_ctl, ↓malformed_ctl]; done)
    | split
    | simp only [↓ctl_ite, ↓ctl_keep, ↓ctl_keepR, ctl_mk, ctl_self, ite_self, implies_true, ↓readCtl_ctl,
          ↓finish_ctl, ↓mark_ctl, ↓freeGens_ctl, ↓rejectPlan_ctl, ↓malformed_ctl]

theorem advanceGen_ctl (a1 a2 s) : ctl (advanceGen a1 a2 s) = ctl s := by
  unfold advanceGen
  repeat' first
    | (simp only [↓ctl_ite, ↓ctl_keep, ↓ctl_keepR, ctl_mk, ctl_self, ite_self, implies_true, ↓raise0_ctl]; done)
    | split
    | simp only [↓ctl_ite, ↓ctl_keep, ↓ctl_keepR, ctl_mk, ctl_self, ite_self, implies_true, ↓raise0_ctl]

theorem listPieces_ctl (a1 a2 a3 a4 a5 s) : ctl (listPieces a1 a2 a3 a4 a5 s) = ctl s := by
  unfold listPieces
  repeat' first
    | (simp only [↓ctl_ite, ↓ctl_keep, ↓ctl_keepR, ctl_mk, ctl_self, ite_self, implies_true, ↓each_ctl,
          ↓hbWrite_ctl]; done)
    | split
    | simp only [↓ctl_ite, ↓ctl_keep, ↓ctl_keepR, ctl_mk, ctl_self, ite_self, implies_true, ↓each_ctl, ↓hbWrite_ctl]

theorem recWrites_ctl (a1 a2 a3 a4 s) : ctl (recWrites a1 a2 a3 a4 s) = ctl s := by
  unfold recWrites
  repeat' first
    | (simp only [↓ctl_ite, ↓ctl_keep, ↓ctl_keepR, ctl_mk, ctl_self, ite_self, implies_true, ↓each_ctl,
          ↓listPieces_ctl]; done)
    | split
    | simp only [↓ctl_ite, ↓ctl_keep, ↓ctl_keepR, ctl_mk, ctl_self, ite_self, implies_true, ↓each_ctl,
          ↓listPieces_ctl]

theorem dropListWrite_ctl (a1 a2 s) : ctl (dropListWrite a1 a2 s) = ctl s := by
  unfold dropListWrite
  repeat' first
    | (simp only [↓ctl_ite, ↓ctl_keep, ↓ctl_keepR, ctl_mk, ctl_self, ite_self, implies_true]; done)
    | split
    | simp only [↓ctl_ite, ↓ctl_keep, ↓ctl_keepR, ctl_mk, ctl_self, ite_self, implies_true]

theorem startWrite_ctl (a1 a2 a3 a4 s) : ctl (startWrite a1 a2 a3 a4 s) = ctl s := by
  unfold startWrite
  repeat' first
    | (simp only [↓ctl_ite, ↓ctl_keep, ↓ctl_keepR, ctl_mk, ctl_self, ite_self, implies_true]; done)
    | split
    | simp only [↓ctl_ite, ↓ctl_keep, ↓ctl_keepR, ctl_mk, ctl_self, ite_self, implies_true]

theorem writePending_ctl (a1 a2 a3 a4 s) : ctl (writePending a1 a2 a3 a4 s) = ctl s := by
  unfold writePending
  repeat' first
    | (simp only [↓ctl_ite, ↓ctl_keep, ↓ctl_keepR, ctl_mk, ctl_self, ite_self, implies_true, ↓startWrite_ctl,
          ↓recWrites_ctl]; done)
    | split
    | simp only [↓ctl_ite, ↓ctl_keep, ↓ctl_keepR, ctl_mk, ctl_self, ite_self, implies_true, ↓startWrite_ctl,
          ↓recWrites_ctl]

theorem patchDone_ctl (a1 a2 s) : ctl (patchDone a1 a2 s) = ctl s := by
  unfold patchDone
  repeat' first
    | (simp only [↓ctl_ite, ↓ctl_keep, ↓ctl_keepR, ctl_mk, ctl_self, ite_self, implies_true, ↓finish_ctl,
          ↓mark_ctl, ↓freeGens_ctl, ↓advanceGen_ctl, ↓malformed_ctl]; done)
    | split
    | simp only [↓ctl_ite, ↓ctl_keep, ↓ctl_keepR, ctl_mk, ctl_self, ite_self, implies_true, ↓finish_ctl, ↓mark_ctl,
          ↓freeGens_ctl, ↓advanceGen_ctl, ↓malformed_ctl]

theorem listWritten_ctl (a1 a2 s) : ctl (listWritten a1 a2 s) = ctl s := by
  unfold listWritten
  repeat' first
    | (simp only [↓ctl_ite, ↓ctl_keep, ↓ctl_keepR, ctl_mk, ctl_self, ite_self, implies_true, ↓dropListWrite_ctl,
          ↓patchDone_ctl]; done)
    | split
    | simp only [↓ctl_ite, ↓ctl_keep, ↓ctl_keepR, ctl_mk, ctl_self, ite_self, implies_true, ↓dropListWrite_ctl,
          ↓patchDone_ctl]

theorem listFailed_ctl (a1 a2 s) : ctl (listFailed a1 a2 s) = ctl s := by
  unfold listFailed
  repeat' first
    | (simp only [↓ctl_ite, ↓ctl_keep, ↓ctl_keepR, ctl_mk, ctl_self, ite_self, implies_true, ↓malformed_ctl,
          ↓dropListWrite_ctl]; done)
    | split
    | simp only [↓ctl_ite, ↓ctl_keep, ↓ctl_keepR, ctl_mk, ctl_self, ite_self, implies_true, ↓malformed_ctl,
          ↓dropListWrite_ctl]

theorem collect_ctl (s) : ctl (collect s) = ctl s := by
  unfold collect
  repeat' first
    | (simp only [↓ctl_ite, ↓ctl_keep, ↓ctl_keepR, ctl_mk, ctl_self, ite_self, implies_true]; done)
    | split
    | simp only [↓ctl_ite, ↓ctl_keep, ↓ctl_keepR, ctl_mk, ctl_self, ite_self, implies_true]

theorem readPatch_ctl (a1 a2 s) : ctl (readPatch a1 a2 s) = ctl s := by
  unfold readPatch
  repeat' first
    | (simp only [↓ctl_ite, ↓ctl_keep, ↓ctl_keepR, ctl_mk, ctl_self, ite_self, implies_true, ↓readCtl_ctl]; done)
    | split
    | simp only [↓ctl_ite, ↓ctl_keep, ↓ctl_keepR, ctl_mk, ctl_self, ite_self, implies_true, ↓readCtl_ctl]

theorem planPatch_ctl (a1 a2 a3 s) : ctl (planPatch a1 a2 a3 s) = ctl s := by
  unfold planPatch
  repeat' first
    | (simp only [↓ctl_ite, ↓ctl_keep, ↓ctl_keepR, ctl_mk, ctl_self, ite_self, implies_true, ↓collect_ctl,
          ↓startWrite_ctl, ↓finish_ctl, ↓readPatch_ctl, ↓listPieces_ctl, ↓rejectPlan_ctl, ↓recWrites_ctl,
          ↓malformed_ctl]; done)
    | split
    | simp only [↓ctl_ite, ↓ctl_keep, ↓ctl_keepR, ctl_mk, ctl_self, ite_self, implies_true, ↓collect_ctl,
          ↓startWrite_ctl, ↓finish_ctl, ↓readPatch_ctl, ↓listPieces_ctl, ↓rejectPlan_ctl, ↓recWrites_ctl,
          ↓malformed_ctl]

theorem prepWait_ctl (a1 s) : ctl (prepWait a1 s) = ctl s := by
  unfold prepWait
  repeat' first
    | (simp only [↓ctl_ite, ↓ctl_keep, ↓ctl_keepR, ctl_mk, ctl_self, ite_self, implies_true, ↓contextWait_ctl]; done)
    | split
    | simp only [↓ctl_ite, ↓ctl_keep, ↓ctl_keepR, ctl_mk, ctl_self, ite_self, implies_true, ↓contextWait_ctl]

theorem readForecast_ctl (a1 a2 a3 s) : ctl (readForecast a1 a2 a3 s) = ctl s := by
  unfold readForecast
  repeat' first
    | (simp only [↓ctl_ite, ↓ctl_keep, ↓ctl_keepR, ctl_mk, ctl_self, ite_self, implies_true, ↓readCtl_ctl,
          ↓each_ctl]; done)
    | split
    | simp only [↓ctl_ite, ↓ctl_keep, ↓ctl_keepR, ctl_mk, ctl_self, ite_self, implies_true, ↓readCtl_ctl, ↓each_ctl]

theorem prepFail_ctl (a1 a2 a3 a4 a5 s) : ctl (prepFail a1 a2 a3 a4 a5 s) = ctl s := by
  unfold prepFail
  repeat' first
    | (simp only [↓ctl_ite, ↓ctl_keep, ↓ctl_keepR, ctl_mk, ctl_self, ite_self, implies_true, ↓endEpoch_ctl,
          ↓finish_ctl]; done)
    | split
    | simp only [↓ctl_ite, ↓ctl_keep, ↓ctl_keepR, ctl_mk, ctl_self, ite_self, implies_true, ↓endEpoch_ctl,
          ↓finish_ctl]

theorem forecastReject_ctl (a1 a2 a3 a4 a5 s) : ctl (forecastReject a1 a2 a3 a4 a5 s) = ctl s := by
  unfold forecastReject
  repeat' first
    | (simp only [↓ctl_ite, ↓ctl_keep, ↓ctl_keepR, ctl_mk, ctl_self, ite_self, implies_true, ↓raise0_ctl,
          ↓prepFail_ctl]; done)
    | split
    | simp only [↓ctl_ite, ↓ctl_keep, ↓ctl_keepR, ctl_mk, ctl_self, ite_self, implies_true, ↓raise0_ctl,
          ↓prepFail_ctl]

theorem prepareBanks_ctl (s) : ctl (prepareBanks s) = ctl s := by
  unfold prepareBanks
  repeat' first
    | (simp only [↓ctl_ite, ↓ctl_keep, ↓ctl_keepR, ctl_mk, ctl_self, ite_self, implies_true]; done)
    | split
    | simp only [↓ctl_ite, ↓ctl_keep, ↓ctl_keepR, ctl_mk, ctl_self, ite_self, implies_true]

theorem poisonItems_ctl (a1 a2 s) : ctl (poisonItems a1 a2 s) = ctl s := by
  unfold poisonItems
  repeat' first
    | (simp only [↓ctl_ite, ↓ctl_keep, ↓ctl_keepR, ctl_mk, ctl_self, ite_self, implies_true, ↓poisonEpoch_ctl,
          ↓onEpoch_ctl]; done)
    | split
    | simp only [↓ctl_ite, ↓ctl_keep, ↓ctl_keepR, ctl_mk, ctl_self, ite_self, implies_true, ↓poisonEpoch_ctl,
          ↓onEpoch_ctl]

theorem retireSlice_ctl (a1 s) : ctl (retireSlice a1 s) = ctl s := by
  unfold retireSlice
  repeat' first
    | (simp only [↓ctl_ite, ↓ctl_keep, ↓ctl_keepR, ctl_mk, ctl_self, ite_self, implies_true, ↓retire_ctl]; done)
    | split
    | simp only [↓ctl_ite, ↓ctl_keep, ↓ctl_keepR, ctl_mk, ctl_self, ite_self, implies_true, ↓retire_ctl]

theorem bankWordLost_ctl (a1 a2 s) : ctl (bankWordLost a1 a2 s) = ctl s := by
  unfold bankWordLost
  repeat' first
    | (simp only [↓ctl_ite, ↓ctl_keep, ↓ctl_keepR, ctl_mk, ctl_self, ite_self, implies_true, ↓retireSlice_ctl,
          ↓poisonItems_ctl]; done)
    | split
    | simp only [↓ctl_ite, ↓ctl_keep, ↓ctl_keepR, ctl_mk, ctl_self, ite_self, implies_true, ↓retireSlice_ctl,
          ↓poisonItems_ctl]

theorem scanBanks_ctl (s) : ctl (scanBanks s) = ctl s := by
  unfold scanBanks
  repeat' first
    | (simp only [↓ctl_ite, ↓ctl_keep, ↓ctl_keepR, ctl_mk, ctl_self, ite_self, implies_true, ↓bankWordLost_ctl,
          ↓readLanes_ctl]; done)
    | split
    | simp only [↓ctl_ite, ↓ctl_keep, ↓ctl_keepR, ctl_mk, ctl_self, ite_self, implies_true, ↓bankWordLost_ctl,
          ↓readLanes_ctl]

theorem prepGo_ctl (a1 a2 a3 a4 a5 s) : ctl (prepGo a1 a2 a3 a4 a5 s) = ctl s := by
  unfold prepGo
  repeat' first
    | (simp only [↓ctl_ite, ↓ctl_keep, ↓ctl_keepR, ctl_mk, ctl_self, ite_self, implies_true, ↓each_ctl,
          ↓prepareBanks_ctl, ↓scanBanks_ctl, ↓mark_ctl, ↓sealReject_ctl, ↓onEpoch_ctl]; done)
    | split
    | simp only [↓ctl_ite, ↓ctl_keep, ↓ctl_keepR, ctl_mk, ctl_self, ite_self, implies_true, ↓each_ctl,
          ↓prepareBanks_ctl, ↓scanBanks_ctl, ↓mark_ctl, ↓sealReject_ctl, ↓onEpoch_ctl]

theorem prep_ctl (a1 a2 a3 a4 s) : ctl (prep a1 a2 a3 a4 s) = ctl s := by
  unfold prep
  repeat' first
    | (simp only [↓ctl_ite, ↓ctl_keep, ↓ctl_keepR, ctl_mk, ctl_self, ite_self, implies_true, ↓readForecast_ctl,
          ↓readCtl_ctl, ↓prepGo_ctl, ↓planReject_ctl, ↓prepFail_ctl, ↓forecastReject_ctl]; done)
    | split
    | simp only [↓ctl_ite, ↓ctl_keep, ↓ctl_keepR, ctl_mk, ctl_self, ite_self, implies_true, ↓readForecast_ctl,
          ↓readCtl_ctl, ↓prepGo_ctl, ↓planReject_ctl, ↓prepFail_ctl, ↓forecastReject_ctl]

theorem openEpoch_ctl (a1 a2 s) : ctl (openEpoch a1 a2 s) = ctl s := by
  unfold openEpoch
  repeat' first
    | (simp only [↓ctl_ite, ↓ctl_keep, ↓ctl_keepR, ctl_mk, ctl_self, ite_self, implies_true, ↓prep_ctl,
          ↓setPhase_ctl, ↓malformed_ctl]; done)
    | split
    | simp only [↓ctl_ite, ↓ctl_keep, ↓ctl_keepR, ctl_mk, ctl_self, ite_self, implies_true, ↓prep_ctl,
          ↓setPhase_ctl, ↓malformed_ctl]

theorem stageChain_ctl (a1 a2 a3 s) : ctl (stageChain a1 a2 a3 s) = ctl s := by
  unfold stageChain
  repeat' first
    | (simp only [↓ctl_ite, ↓ctl_keep, ↓ctl_keepR, ctl_mk, ctl_self, ite_self, implies_true, ↓each_ctl,
          ↓newBlk_ctl, ↓captureBad_ctl]; done)
    | split
    | simp only [↓ctl_ite, ↓ctl_keep, ↓ctl_keepR, ctl_mk, ctl_self, ite_self, implies_true, ↓each_ctl, ↓newBlk_ctl,
          ↓captureBad_ctl]

theorem stopCopyEvents_ctl (a1 s) : ctl (stopCopyEvents a1 s) = ctl s := by
  unfold stopCopyEvents
  repeat' first
    | (simp only [↓ctl_ite, ↓ctl_keep, ↓ctl_keepR, ctl_mk, ctl_self, ite_self, implies_true, ↓each_ctl,
          ↓raise0_ctl]; done)
    | split
    | simp only [↓ctl_ite, ↓ctl_keep, ↓ctl_keepR, ctl_mk, ctl_self, ite_self, implies_true, ↓each_ctl, ↓raise0_ctl]

theorem release_ctl (a1 s) : ctl (release a1 s) = ctl s := by
  unfold release
  repeat' first
    | (simp only [↓ctl_ite, ↓ctl_keep, ↓ctl_keepR, ctl_mk, ctl_self, ite_self, implies_true, ↓settle_ctl,
          ↓advance_ctl, ↓finish_ctl, ↓each_ctl, ↓stopCopyEvents_ctl, ↓setPhase_ctl, ↓stageChain_ctl,
          ↓cancelEpoch_ctl]; done)
    | split
    | simp only [↓ctl_ite, ↓ctl_keep, ↓ctl_keepR, ctl_mk, ctl_self, ite_self, implies_true, ↓settle_ctl,
          ↓advance_ctl, ↓finish_ctl, ↓each_ctl, ↓stopCopyEvents_ctl, ↓setPhase_ctl, ↓stageChain_ctl,
          ↓cancelEpoch_ctl]

theorem tryRelease_ctl (s) : ctl (tryRelease s) = ctl s := by
  unfold tryRelease
  repeat' first
    | (simp only [↓ctl_ite, ↓ctl_keep, ↓ctl_keepR, ctl_mk, ctl_self, ite_self, implies_true, ↓release_ctl]; done)
    | split
    | simp only [↓ctl_ite, ↓ctl_keep, ↓ctl_keepR, ctl_mk, ctl_self, ite_self, implies_true, ↓release_ctl]

theorem settleAll_ctl (s) : ctl (settleAll s) = ctl s := by
  unfold settleAll
  repeat' first
    | (simp only [↓ctl_ite, ↓ctl_keep, ↓ctl_keepR, ctl_mk, ctl_self, ite_self, implies_true, ↓settle_ctl,
          ↓tryRelease_ctl]; done)
    | split
    | simp only [↓ctl_ite, ↓ctl_keep, ↓ctl_keepR, ctl_mk, ctl_self, ite_self, implies_true, ↓settle_ctl,
          ↓tryRelease_ctl]

theorem arm_ctl (a1 s) : ctl (arm a1 s) = ctl s := by
  unfold arm
  repeat' first
    | (simp only [↓ctl_ite, ↓ctl_keep, ↓ctl_keepR, ctl_mk, ctl_self, ite_self, implies_true, ↓newCtx_ctl,
          ↓settleAll_ctl, ↓each_ctl, ↓startStreams_ctl, ↓cutRegion_ctl, ↓setResync_ctl, ↓setOrder_ctl,
          ↓onEpoch_ctl]; done)
    | split
    | simp only [↓ctl_ite, ↓ctl_keep, ↓ctl_keepR, ctl_mk, ctl_self, ite_self, implies_true, ↓newCtx_ctl,
          ↓settleAll_ctl, ↓each_ctl, ↓startStreams_ctl, ↓cutRegion_ctl, ↓setResync_ctl, ↓setOrder_ctl,
          ↓onEpoch_ctl]

theorem prepDone_ctl (s) : ctl (prepDone s) = ctl s := by
  unfold prepDone
  repeat' first
    | (simp only [↓ctl_ite, ↓ctl_keep, ↓ctl_keepR, ctl_mk, ctl_self, ite_self, implies_true, ↓arm_ctl]; done)
    | split
    | simp only [↓ctl_ite, ↓ctl_keep, ↓ctl_keepR, ctl_mk, ctl_self, ite_self, implies_true, ↓arm_ctl]

theorem onChain_ctl (a1 a2 s) : ctl (onChain a1 a2 s) = ctl s := by
  unfold onChain
  repeat' first
    | (simp only [↓ctl_ite, ↓ctl_keep, ↓ctl_keepR, ctl_mk, ctl_self, ite_self, implies_true]; done)
    | split
    | simp only [↓ctl_ite, ↓ctl_keep, ↓ctl_keepR, ctl_mk, ctl_self, ite_self, implies_true]

theorem chainFailed_ctl (a1 a2 s) : ctl (chainFailed a1 a2 s) = ctl s := by
  unfold chainFailed
  repeat' first
    | (simp only [↓ctl_ite, ↓ctl_keep, ↓ctl_keepR, ctl_mk, ctl_self, ite_self, implies_true, ↓raise0_ctl,
          ↓onChain_ctl]; done)
    | split
    | simp only [↓ctl_ite, ↓ctl_keep, ↓ctl_keepR, ctl_mk, ctl_self, ite_self, implies_true, ↓raise0_ctl, ↓onChain_ctl]

theorem harvestBeat_ctl (a1 a2 s) : ctl (harvestBeat a1 a2 s) = ctl s := by
  unfold harvestBeat
  repeat' first
    | (simp only [↓ctl_ite, ↓ctl_keep, ↓ctl_keepR, ctl_mk, ctl_self, ite_self, implies_true, ↓chainFailed_ctl,
          ↓lanesWrite_ctl, ↓onChain_ctl, ↓tryRelease_ctl]; done)
    | split
    | simp only [↓ctl_ite, ↓ctl_keep, ↓ctl_keepR, ctl_mk, ctl_self, ite_self, implies_true, ↓chainFailed_ctl,
          ↓lanesWrite_ctl, ↓onChain_ctl, ↓tryRelease_ctl]

theorem cutSlow_ctl (a1 s) : ctl (cutSlow a1 s) = ctl s := by
  unfold cutSlow
  repeat' first
    | (simp only [↓ctl_ite, ↓ctl_keep, ↓ctl_keepR, ctl_mk, ctl_self, ite_self, implies_true, ↓raise0_ctl,
          ↓onChain_ctl]; done)
    | split
    | simp only [↓ctl_ite, ↓ctl_keep, ↓ctl_keepR, ctl_mk, ctl_self, ite_self, implies_true, ↓raise0_ctl, ↓onChain_ctl]

theorem captureItems_ctl (a1 a2 s) : ctl (captureItems a1 a2 s) = ctl s := by
  unfold captureItems
  repeat' first
    | (simp only [↓ctl_ite, ↓ctl_keep, ↓ctl_keepR, ctl_mk, ctl_self, ite_self, implies_true, ↓onCmd_ctl,
          ↓onEpoch_ctl]; done)
    | split
    | simp only [↓ctl_ite, ↓ctl_keep, ↓ctl_keepR, ctl_mk, ctl_self, ite_self, implies_true, ↓onCmd_ctl, ↓onEpoch_ctl]

theorem captureStream_ctl (a1 a2 a3 s) : ctl (captureStream a1 a2 a3 s) = ctl s := by
  unfold captureStream
  repeat' first
    | (simp only [↓ctl_ite, ↓ctl_keep, ↓ctl_keepR, ctl_mk, ctl_self, ite_self, implies_true, ↓newCtx_ctl,
          ↓settleAll_ctl, ↓captureItems_ctl]; done)
    | split
    | simp only [↓ctl_ite, ↓ctl_keep, ↓ctl_keepR, ctl_mk, ctl_self, ite_self, implies_true, ↓newCtx_ctl,
          ↓settleAll_ctl, ↓captureItems_ctl]

theorem runCapture_ctl (a1 a2 a3 a4 a5) (a6 : Cmd → State → State) (s) (h0 : ∀ x0 t, ctl (a6 x0 t) = ctl t) :
    ctl (runCapture a1 a2 a3 a4 a5 a6 s) = ctl s := by
  unfold runCapture
  repeat' first
    | (simp only [↓ctl_ite, ↓ctl_keep, ↓ctl_keepR, ctl_mk, ctl_self, ite_self, implies_true, ↓runCmd_ctl,
          ↓contextWait_ctl, ↓finish_ctl, h0]; done)
    | intro _
    | refine (runCmd_ctl _ _ _ _ _ _ ?_).trans ?_
    | split
    | simp only [↓ctl_ite, ↓ctl_keep, ↓ctl_keepR, ctl_mk, ctl_self, ite_self, implies_true, ↓runCmd_ctl,
          ↓contextWait_ctl, ↓finish_ctl, h0]

theorem indexStep_ctl (a1 a2 s) : ctl (indexStep a1 a2 s) = ctl s := by
  unfold indexStep
  repeat' first
    | (simp only [↓ctl_ite, ↓ctl_keep, ↓ctl_keepR, ctl_mk, ctl_self, ite_self, implies_true, ↓onCtx_ctl,
          ↓hbReq_ctl]; done)
    | split
    | simp only [↓ctl_ite, ↓ctl_keep, ↓ctl_keepR, ctl_mk, ctl_self, ite_self, implies_true, ↓onCtx_ctl, ↓hbReq_ctl]

theorem startList_ctl (a1 s) : ctl (startList a1 s) = ctl s := by
  unfold startList
  repeat' first
    | (simp only [↓ctl_ite, ↓ctl_keep, ↓ctl_keepR, ctl_mk, ctl_self, ite_self, implies_true, ↓newCtx_ctl,
          ↓onCtx_ctl]; done)
    | split
    | simp only [↓ctl_ite, ↓ctl_keep, ↓ctl_keepR, ctl_mk, ctl_self, ite_self, implies_true, ↓newCtx_ctl, ↓onCtx_ctl]

theorem listPage_ctl (a1 a2 s) : ctl (listPage a1 a2 s) = ctl s := by
  unfold listPage
  repeat' first
    | (simp only [↓ctl_ite, ↓ctl_keep, ↓ctl_keepR, ctl_mk, ctl_self, ite_self, implies_true, ↓settleAll_ctl,
          ↓stopStreams_ctl, ↓onCmd_ctl, ↓malformed_ctl, ↓captureItems_ctl]; done)
    | split
    | simp only [↓ctl_ite, ↓ctl_keep, ↓ctl_keepR, ctl_mk, ctl_self, ite_self, implies_true, ↓settleAll_ctl,
          ↓stopStreams_ctl, ↓onCmd_ctl, ↓malformed_ctl, ↓captureItems_ctl]

theorem startSealCtx_ctl (a1 a2 a3 s) : ctl (startSealCtx a1 a2 a3 s) = ctl s := by
  unfold startSealCtx
  repeat' first
    | (simp only [↓ctl_ite, ↓ctl_keep, ↓ctl_keepR, ctl_mk, ctl_self, ite_self, implies_true, ↓newCtx_ctl]; done)
    | split
    | simp only [↓ctl_ite, ↓ctl_keep, ↓ctl_keepR, ctl_mk, ctl_self, ite_self, implies_true, ↓newCtx_ctl]

theorem startSeal_ctl (a1 a2 a3 s) : ctl (startSeal a1 a2 a3 s) = ctl s := by
  unfold startSeal
  repeat' first
    | (simp only [↓ctl_ite, ↓ctl_keep, ↓ctl_keepR, ctl_mk, ctl_self, ite_self, implies_true, ↓startSealCtx_ctl,
          ↓onEpoch_ctl, ↓addJobs_ctl]; done)
    | split
    | simp only [↓ctl_ite, ↓ctl_keep, ↓ctl_keepR, ctl_mk, ctl_self, ite_self, implies_true, ↓startSealCtx_ctl,
          ↓onEpoch_ctl, ↓addJobs_ctl]

theorem endSeal_ctl (a1 s) : ctl (endSeal a1 s) = ctl s := by
  unfold endSeal
  repeat' first
    | (simp only [↓ctl_ite, ↓ctl_keep, ↓ctl_keepR, ctl_mk, ctl_self, ite_self, implies_true, ↓endWithResult_ctl,
          ↓onCmd_ctl]; done)
    | split
    | simp only [↓ctl_ite, ↓ctl_keep, ↓ctl_keepR, ctl_mk, ctl_self, ite_self, implies_true, ↓endWithResult_ctl,
          ↓onCmd_ctl]

theorem runSeal_ctl (a1 s) : ctl (runSeal a1 s) = ctl s := by
  unfold runSeal
  repeat' first
    | (simp only [↓ctl_ite, ↓ctl_keep, ↓ctl_keepR, ctl_mk, ctl_self, ite_self, implies_true, ↓readKeys_ctl,
          ↓finish_ctl, ↓startSeal_ctl, ↓endSeal_ctl, ↓abandonEpoch_ctl, ↓setPhase_ctl, ↓onEpoch_ctl]; done)
    | split
    | simp only [↓ctl_ite, ↓ctl_keep, ↓ctl_keepR, ctl_mk, ctl_self, ite_self, implies_true, ↓readKeys_ctl,
          ↓finish_ctl, ↓startSeal_ctl, ↓endSeal_ctl, ↓abandonEpoch_ctl, ↓setPhase_ctl, ↓onEpoch_ctl]

theorem sealRecordWrite_ctl (a1 s) : ctl (sealRecordWrite a1 s) = ctl s := by
  unfold sealRecordWrite
  repeat' first
    | (simp only [↓ctl_ite, ↓ctl_keep, ↓ctl_keepR, ctl_mk, ctl_self, ite_self, implies_true, ↓readKeys_ctl,
          ↓startSeal_ctl, ↓abandonEpoch_ctl, ↓writeSector_ctl, ↓keyGone_ctl, ↓onEpoch_ctl]; done)
    | split
    | simp only [↓ctl_ite, ↓ctl_keep, ↓ctl_keepR, ctl_mk, ctl_self, ite_self, implies_true, ↓readKeys_ctl,
          ↓startSeal_ctl, ↓abandonEpoch_ctl, ↓writeSector_ctl, ↓keyGone_ctl, ↓onEpoch_ctl]

theorem sealed_ctl (a1 s) : ctl (sealed a1 s) = ctl s := by
  unfold sealed
  repeat' first
    | (simp only [↓ctl_ite, ↓ctl_keep, ↓ctl_keepR, ctl_mk, ctl_self, ite_self, implies_true, ↓onRegion_ctl,
          ↓each_ctl, ↓endSeal_ctl, ↓setPhase_ctl, ↓freeGens_ctl, ↓dropSealing_ctl, ↓writeHeader_ctl,
          ↓onEpoch_ctl]; done)
    | split
    | simp only [↓ctl_ite, ↓ctl_keep, ↓ctl_keepR, ctl_mk, ctl_self, ite_self, implies_true, ↓onRegion_ctl,
          ↓each_ctl, ↓endSeal_ctl, ↓setPhase_ctl, ↓freeGens_ctl, ↓dropSealing_ctl, ↓writeHeader_ctl, ↓onEpoch_ctl]

theorem sealListAcked_ctl (a1 a2 s) : ctl (sealListAcked a1 a2 s) = ctl s := by
  unfold sealListAcked
  repeat' first
    | (simp only [↓ctl_ite, ↓ctl_keep, ↓ctl_keepR, ctl_mk, ctl_self, ite_self, implies_true, ↓onEpoch_ctl]; done)
    | split
    | simp only [↓ctl_ite, ↓ctl_keep, ↓ctl_keepR, ctl_mk, ctl_self, ite_self, implies_true, ↓onEpoch_ctl]

end Sys2Proof.Machine
end

