-- ==== Sys2Proof/Laws/ControlCommands.lean ====
section
/-! SUPPORT. Operations that leave the control part of the state as it is: one lemma each, for
restores, checks, holds, the commands and peers. -/

set_option Elab.async false

set_option linter.all false

namespace Sys2Proof.Machine

theorem failRestore_ctl (a1 a2 a3 s) : ctl (failRestore a1 a2 a3 s) = ctl s := by
  unfold failRestore
  repeat' first
    | (simp only [↓ctl_ite, ↓ctl_keep, ↓ctl_keepR, ctl_mk, ctl_self, ite_self, implies_true, ↓finish_ctl,
          ↓each_ctl, ↓onCmd_ctl, ↓raise0_ctl, ↓badEnd_ctl, ↓stopCmd_ctl]; done)
    | split
    | simp only [↓ctl_ite, ↓ctl_keep, ↓ctl_keepR, ctl_mk, ctl_self, ite_self, implies_true, ↓finish_ctl, ↓each_ctl,
          ↓onCmd_ctl, ↓raise0_ctl, ↓badEnd_ctl, ↓stopCmd_ctl]

theorem bufFault_ctl (a1 a2 a3 a4 a5 s) : ctl (bufFault a1 a2 a3 a4 a5 s) = ctl s := by
  unfold bufFault
  repeat' first
    | (simp only [↓ctl_ite, ↓ctl_keep, ↓ctl_keepR, ctl_mk, ctl_self, ite_self, implies_true, ↓finish_ctl,
          ↓raise_ctl]; done)
    | split
    | simp only [↓ctl_ite, ↓ctl_keep, ↓ctl_keepR, ctl_mk, ctl_self, ite_self, implies_true, ↓finish_ctl, ↓raise_ctl]

theorem journalArea_ctl (a1 a2 a3 s) : ctl (journalArea a1 a2 a3 s) = ctl s := by
  unfold journalArea
  repeat' first
    | (simp only [↓ctl_ite, ↓ctl_keep, ↓ctl_keepR, ctl_mk, ctl_self, ite_self, implies_true]; done)
    | split
    | simp only [↓ctl_ite, ↓ctl_keep, ↓ctl_keepR, ctl_mk, ctl_self, ite_self, implies_true]

theorem readMeta_ctl (a1 a2 a3 a4 a5 a6 s) : ctl (readMeta a1 a2 a3 a4 a5 a6 s) = ctl s := by
  unfold readMeta
  repeat' first
    | (simp only [↓ctl_ite, ↓ctl_keep, ↓ctl_keepR, ctl_mk, ctl_self, ite_self, implies_true, ↓readCtl_ctl,
          ↓each_ctl]; done)
    | split
    | simp only [↓ctl_ite, ↓ctl_keep, ↓ctl_keepR, ctl_mk, ctl_self, ite_self, implies_true, ↓readCtl_ctl, ↓each_ctl]

theorem startRestore_ctl (a1 a2) (a3 : List Link → State → State) (s) (h0 : ∀ x0 t, ctl (a3 x0 t) = ctl t) :
    ctl (startRestore a1 a2 a3 s) = ctl s := by
  unfold startRestore
  repeat' first
    | (simp only [↓ctl_ite, ↓ctl_keep, ↓ctl_keepR, ctl_mk, ctl_self, ite_self, implies_true, ↓failRestore_ctl,
          ↓finish_ctl, ↓journalArea_ctl, ↓when_ctl, ↓bufFault_ctl, ↓useGrant_ctl, ↓readMeta_ctl, ↓malformed_ctl,
          h0]; done)
    | split
    | simp only [↓ctl_ite, ↓ctl_keep, ↓ctl_keepR, ctl_mk, ctl_self, ite_self, implies_true, ↓failRestore_ctl,
          ↓finish_ctl, ↓journalArea_ctl, ↓when_ctl, ↓bufFault_ctl, ↓useGrant_ctl, ↓readMeta_ctl, ↓malformed_ctl,
          h0]

theorem restoreGo_ctl (a1 a2 a3 s) : ctl (restoreGo a1 a2 a3 s) = ctl s := by
  unfold restoreGo
  repeat' first
    | (simp only [↓ctl_ite, ↓ctl_keep, ↓ctl_keepR, ctl_mk, ctl_self, ite_self, implies_true, ↓newCtx_ctl,
          ↓malformed_ctl, ↓badEnd_ctl]; done)
    | split
    | simp only [↓ctl_ite, ↓ctl_keep, ↓ctl_keepR, ctl_mk, ctl_self, ite_self, implies_true, ↓newCtx_ctl,
          ↓malformed_ctl, ↓badEnd_ctl]

theorem waitCtx_ctl (a1 a2 a3 a4 a5) (a6 : State → State) (s) (h0 : ∀ t, ctl (a6 t) = ctl t) :
    ctl (waitCtx a1 a2 a3 a4 a5 a6 s) = ctl s := by
  unfold waitCtx
  repeat' first
    | (simp only [↓ctl_ite, ↓ctl_keep, ↓ctl_keepR, ctl_mk, ctl_self, ite_self, implies_true, ↓contextWait_ctl,
          h0]; done)
    | split
    | simp only [↓ctl_ite, ↓ctl_keep, ↓ctl_keepR, ctl_mk, ctl_self, ite_self, implies_true, ↓contextWait_ctl, h0]

theorem gatherGo_ctl (a1 a2 a3 s) : ctl (gatherGo a1 a2 a3 s) = ctl s := by
  unfold gatherGo
  repeat' first
    | (simp only [↓ctl_ite, ↓ctl_keep, ↓ctl_keepR, ctl_mk, ctl_self, ite_self, implies_true, ↓newCtx_ctl,
          ↓onCtx_ctl, ↓malformed_ctl]; done)
    | split
    | simp only [↓ctl_ite, ↓ctl_keep, ↓ctl_keepR, ctl_mk, ctl_self, ite_self, implies_true, ↓newCtx_ctl,
          ↓onCtx_ctl, ↓malformed_ctl]

theorem writeUnit_ctl (a1 a2 a3 a4 a5 s) : ctl (writeUnit a1 a2 a3 a4 a5 s) = ctl s := by
  unfold writeUnit
  repeat' first
    | (simp only [↓ctl_ite, ↓ctl_keep, ↓ctl_keepR, ctl_mk, ctl_self, ite_self, implies_true, ↓onCtx_ctl, ↓each_ctl,
          ↓fabReqBy_ctl]; done)
    | split
    | simp only [↓ctl_ite, ↓ctl_keep, ↓ctl_keepR, ctl_mk, ctl_self, ite_self, implies_true, ↓onCtx_ctl, ↓each_ctl,
          ↓fabReqBy_ctl]

theorem putPiece_ctl (a1 a2 a3 a4 a5 s) : ctl (putPiece a1 a2 a3 a4 a5 s) = ctl s := by
  unfold putPiece
  repeat' first
    | (simp only [↓ctl_ite, ↓ctl_keep, ↓ctl_keepR, ctl_mk, ctl_self, ite_self, implies_true, ↓writeUnit_ctl,
          ↓onCtx_ctl]; done)
    | split
    | simp only [↓ctl_ite, ↓ctl_keep, ↓ctl_keepR, ctl_mk, ctl_self, ite_self, implies_true, ↓writeUnit_ctl,
          ↓onCtx_ctl]

theorem putBytes_ctl (a1 a2 a3 a4 a5 a6 s) : ctl (putBytes a1 a2 a3 a4 a5 a6 s) = ctl s := by
  fun_induction putBytes a1 a2 a3 a4 a5 a6 s <;>
    repeat' first
      | (simp +zetaDelta only [*, ↓ctl_ite, ↓ctl_keep, ↓ctl_keepR, ctl_mk, ctl_self, ite_self, implies_true,
            ↓putPiece_ctl]; done)
      | split
      | simp +zetaDelta only [*, ↓ctl_ite, ↓ctl_keep, ↓ctl_keepR, ctl_mk, ctl_self, ite_self, implies_true,
            ↓putPiece_ctl]

theorem putDest_ctl (a1 a2 a3 a4 s) : ctl (putDest a1 a2 a3 a4 s) = ctl s := by
  unfold putDest
  repeat' first
    | (simp only [↓ctl_ite, ↓ctl_keep, ↓ctl_keepR, ctl_mk, ctl_self, ite_self, implies_true, ↓putBytes_ctl,
          ↓each_ctl]; done)
    | split
    | simp only [↓ctl_ite, ↓ctl_keep, ↓ctl_keepR, ctl_mk, ctl_self, ite_self, implies_true, ↓putBytes_ctl, ↓each_ctl]

theorem deliver_ctl (a1 a2 a3 s) : ctl (deliver a1 a2 a3 s) = ctl s := by
  unfold deliver
  repeat' first
    | (simp only [↓ctl_ite, ↓ctl_keep, ↓ctl_keepR, ctl_mk, ctl_self, ite_self, implies_true, ↓onCtx_ctl, ↓each_ctl,
          ↓putDest_ctl]; done)
    | split
    | simp only [↓ctl_ite, ↓ctl_keep, ↓ctl_keepR, ctl_mk, ctl_self, ite_self, implies_true, ↓onCtx_ctl, ↓each_ctl,
          ↓putDest_ctl]

theorem jobStep_ctl (a1 a2 s) : ctl (jobStep a1 a2 s) = ctl s := by
  unfold jobStep
  repeat' first
    | (simp only [↓ctl_ite, ↓ctl_keep, ↓ctl_keepR, ctl_mk, ctl_self, ite_self, implies_true, ↓startUnit_ctl,
          ↓onCtx_ctl]; done)
    | split
    | simp only [↓ctl_ite, ↓ctl_keep, ↓ctl_keepR, ctl_mk, ctl_self, ite_self, implies_true, ↓startUnit_ctl,
          ↓onCtx_ctl]

theorem unitDone_ctl (a1 s) : ctl (unitDone a1 s) = ctl s := by
  unfold unitDone
  repeat' first
    | (simp only [↓ctl_ite, ↓ctl_keep, ↓ctl_keepR, ctl_mk, ctl_self, ite_self, implies_true, ↓noteDrain_ctl,
          ↓dropBlk_ctl]; done)
    | split
    | simp only [↓ctl_ite, ↓ctl_keep, ↓ctl_keepR, ctl_mk, ctl_self, ite_self, implies_true, ↓noteDrain_ctl,
          ↓dropBlk_ctl]

theorem unitOut_ctl (a1 a2 a3 a4 s) : ctl (unitOut a1 a2 a3 a4 s) = ctl s := by
  unfold unitOut
  repeat' first
    | (simp only [↓ctl_ite, ↓ctl_keep, ↓ctl_keepR, ctl_mk, ctl_self, ite_self, implies_true, ↓onCtx_ctl,
          ↓unitDone_ctl, ↓deliver_ctl]; done)
    | split
    | simp only [↓ctl_ite, ↓ctl_keep, ↓ctl_keepR, ctl_mk, ctl_self, ite_self, implies_true, ↓onCtx_ctl,
          ↓unitDone_ctl, ↓deliver_ctl]

theorem unitBad_ctl (a1 a2 a3 a4 a5 a6 s) : ctl (unitBad a1 a2 a3 a4 a5 a6 s) = ctl s := by
  unfold unitBad
  repeat' first
    | (simp only [↓ctl_ite, ↓ctl_keep, ↓ctl_keepR, ctl_mk, ctl_self, ite_self, implies_true, ↓drawn_ctl,
          ↓badData_ctl, ↓unitDone_ctl, ↓unitOut_ctl, ↓anchorDone_ctl]; done)
    | split
    | simp only [↓ctl_ite, ↓ctl_keep, ↓ctl_keepR, ctl_mk, ctl_self, ite_self, implies_true, ↓drawn_ctl,
          ↓badData_ctl, ↓unitDone_ctl, ↓unitOut_ctl, ↓anchorDone_ctl]

theorem unitDamaged_ctl (a1 a2 a3 s) : ctl (unitDamaged a1 a2 a3 s) = ctl s := by
  unfold unitDamaged
  repeat' first
    | (simp only [↓ctl_ite, ↓ctl_keep, ↓ctl_keepR, ctl_mk, ctl_self, ite_self, implies_true, ↓unitBad_ctl,
          ↓raise0_ctl]; done)
    | split
    | simp only [↓ctl_ite, ↓ctl_keep, ↓ctl_keepR, ctl_mk, ctl_self, ite_self, implies_true, ↓unitBad_ctl, ↓raise0_ctl]

theorem countDecoded_ctl (a1 a2 a3 s) : ctl (countDecoded a1 a2 a3 s) = ctl s := by
  unfold countDecoded
  repeat' first
    | (simp only [↓ctl_ite, ↓ctl_keep, ↓ctl_keepR, ctl_mk, ctl_self, ite_self, implies_true, ↓onCtx_ctl]; done)
    | split
    | simp only [↓ctl_ite, ↓ctl_keep, ↓ctl_keepR, ctl_mk, ctl_self, ite_self, implies_true, ↓onCtx_ctl]

theorem unitDecoded_ctl (a1 a2 a3 a4 a5 s) : ctl (unitDecoded a1 a2 a3 a4 a5 s) = ctl s := by
  unfold unitDecoded
  repeat' first
    | (simp only [↓ctl_ite, ↓ctl_keep, ↓ctl_keepR, ctl_mk, ctl_self, ite_self, implies_true, ↓countDecoded_ctl,
          ↓unitDamaged_ctl, ↓drawn_ctl, ↓unitDone_ctl, ↓unitOut_ctl, ↓anchorDone_ctl]; done)
    | split
    | simp only [↓ctl_ite, ↓ctl_keep, ↓ctl_keepR, ctl_mk, ctl_self, ite_self, implies_true, ↓countDecoded_ctl,
          ↓unitDamaged_ctl, ↓drawn_ctl, ↓unitDone_ctl, ↓unitOut_ctl, ↓anchorDone_ctl]

theorem sectorsBad_ctl (a1 a2 s) : ctl (sectorsBad a1 a2 s) = ctl s := by
  unfold sectorsBad
  repeat' first
    | (simp only [↓ctl_ite, ↓ctl_keep, ↓ctl_keepR, ctl_mk, ctl_self, ite_self, implies_true, ↓each_ctl,
          ↓badData_ctl]; done)
    | split
    | simp only [↓ctl_ite, ↓ctl_keep, ↓ctl_keepR, ctl_mk, ctl_self, ite_self, implies_true, ↓each_ctl, ↓badData_ctl]

theorem decodeAround_ctl (a1 a2 s) : ctl (decodeAround a1 a2 s) = ctl s := by
  unfold decodeAround
  repeat' first
    | (simp only [↓ctl_ite, ↓ctl_keep, ↓ctl_keepR, ctl_mk, ctl_self, ite_self, implies_true, ↓sectorsBad_ctl,
          ↓unitDecoded_ctl]; done)
    | split
    | simp only [↓ctl_ite, ↓ctl_keep, ↓ctl_keepR, ctl_mk, ctl_self, ite_self, implies_true, ↓sectorsBad_ctl,
          ↓unitDecoded_ctl]

theorem decodeBad_ctl (a1 a2 s) : ctl (decodeBad a1 a2 s) = ctl s := by
  unfold decodeBad
  repeat' first
    | (simp only [↓ctl_ite, ↓ctl_keep, ↓ctl_keepR, ctl_mk, ctl_self, ite_self, implies_true, ↓unitBad_ctl,
          ↓drawn_ctl, ↓sectorsBad_ctl, ↓unitDone_ctl, ↓decodeAround_ctl, ↓unitOut_ctl]; done)
    | split
    | simp only [↓ctl_ite, ↓ctl_keep, ↓ctl_keepR, ctl_mk, ctl_self, ite_self, implies_true, ↓unitBad_ctl,
          ↓drawn_ctl, ↓sectorsBad_ctl, ↓unitDone_ctl, ↓decodeAround_ctl, ↓unitOut_ctl]

theorem decStep_ctl (a1 a2 a3 a4 s) : ctl (decStep a1 a2 a3 a4 s) = ctl s := by
  unfold decStep
  repeat' first
    | (simp only [↓ctl_ite, ↓ctl_keep, ↓ctl_keepR, ctl_mk, ctl_self, ite_self, implies_true, ↓recipeTrap_ctl,
          ↓unitDamaged_ctl, ↓decodeBad_ctl, ↓chargeLanes_ctl, ↓unitDone_ctl, ↓setLane_ctl, ↓unitDecoded_ctl,
          ↓checkFailed_ctl]; done)
    | split
    | simp only [↓ctl_ite, ↓ctl_keep, ↓ctl_keepR, ctl_mk, ctl_self, ite_self, implies_true, ↓recipeTrap_ctl,
          ↓unitDamaged_ctl, ↓decodeBad_ctl, ↓chargeLanes_ctl, ↓unitDone_ctl, ↓setLane_ctl, ↓unitDecoded_ctl,
          ↓checkFailed_ctl]

theorem decResume_ctl (a1 s) : ctl (decResume a1 s) = ctl s := by
  unfold decResume
  repeat' first
    | (simp only [↓ctl_ite, ↓ctl_keep, ↓ctl_keepR, ctl_mk, ctl_self, ite_self, implies_true, ↓recipeTrap_ctl,
          ↓setLane_ctl, ↓unitDecoded_ctl]; done)
    | split
    | simp only [↓ctl_ite, ↓ctl_keep, ↓ctl_keepR, ctl_mk, ctl_self, ite_self, implies_true, ↓recipeTrap_ctl,
          ↓setLane_ctl, ↓unitDecoded_ctl]

theorem lightUnits_ctl (s) : ctl (lightUnits s) = ctl s := by
  unfold lightUnits
  repeat' first
    | (simp only [↓ctl_ite, ↓ctl_keep, ↓ctl_keepR, ctl_mk, ctl_self, ite_self, implies_true, ↓decStep_ctl,
          ↓each_ctl]; done)
    | intro _
    | refine (each_ctl _ _ _ ?_).trans ?_
    | split
    | simp only [↓ctl_ite, ↓ctl_keep, ↓ctl_keepR, ctl_mk, ctl_self, ite_self, implies_true, ↓decStep_ctl, ↓each_ctl]

theorem unitAnchors_ctl (s) : ctl (unitAnchors s) = ctl s := by
  unfold unitAnchors
  repeat' first
    | (simp only [↓ctl_ite, ↓ctl_keep, ↓ctl_keepR, ctl_mk, ctl_self, ite_self, implies_true, ↓getAnchor_ctl,
          ↓each_ctl]; done)
    | intro _
    | refine (each_ctl _ _ _ ?_).trans ?_
    | split
    | simp only [↓ctl_ite, ↓ctl_keep, ↓ctl_keepR, ctl_mk, ctl_self, ite_self, implies_true, ↓getAnchor_ctl, ↓each_ctl]

theorem indexStop_ctl (a1 a2 a3 a4 s) : ctl (indexStop a1 a2 a3 a4 s) = ctl s := by
  unfold indexStop
  repeat' first
    | (simp only [↓ctl_ite, ↓ctl_keep, ↓ctl_keepR, ctl_mk, ctl_self, ite_self, implies_true, ↓onCmd_ctl,
          ↓raise0_ctl]; done)
    | split
    | simp only [↓ctl_ite, ↓ctl_keep, ↓ctl_keepR, ctl_mk, ctl_self, ite_self, implies_true, ↓onCmd_ctl, ↓raise0_ctl]

theorem takeJob_ctl (a1 s) : ctl (takeJob a1 s) = ctl s := by
  unfold takeJob
  repeat' first
    | (simp only [↓ctl_ite, ↓ctl_keep, ↓ctl_keepR, ctl_mk, ctl_self, ite_self, implies_true, ↓onCtx_ctl,
          ↓deliver_ctl]; done)
    | split
    | simp only [↓ctl_ite, ↓ctl_keep, ↓ctl_keepR, ctl_mk, ctl_self, ite_self, implies_true, ↓onCtx_ctl, ↓deliver_ctl]

theorem pageJobs_ctl (a1 a2 a3 a4 s) : ctl (pageJobs a1 a2 a3 a4 s) = ctl s := by
  unfold pageJobs
  repeat' first
    | (simp only [↓ctl_ite, ↓ctl_keep, ↓ctl_keepR, ctl_mk, ctl_self, ite_self, implies_true, ↓indexStop_ctl,
          ↓onCtx_ctl, ↓each_ctl, ↓onCmd_ctl, ↓badData_ctl, ↓takeJob_ctl]; done)
    | split
    | simp only [↓ctl_ite, ↓ctl_keep, ↓ctl_keepR, ctl_mk, ctl_self, ite_self, implies_true, ↓indexStop_ctl,
          ↓onCtx_ctl, ↓each_ctl, ↓onCmd_ctl, ↓badData_ctl, ↓takeJob_ctl]

theorem takePages_ctl (a1 a2 s) : ctl (takePages a1 a2 s) = ctl s := by
  fun_induction takePages a1 a2 s <;>
    repeat' first
      | (simp +zetaDelta only [*, ↓ctl_ite, ↓ctl_keep, ↓ctl_keepR, ctl_mk, ctl_self, ite_self, implies_true,
            ↓indexStop_ctl, ↓listPage_ctl, ↓onCtx_ctl, ↓pageJobs_ctl]; done)
      | split
      | simp +zetaDelta only [*, ↓ctl_ite, ↓ctl_keep, ↓ctl_keepR, ctl_mk, ctl_self, ite_self, implies_true,
            ↓indexStop_ctl, ↓listPage_ctl, ↓onCtx_ctl, ↓pageJobs_ctl]

theorem pageArrives_ctl (a1 a2 a3 s) : ctl (pageArrives a1 a2 a3 s) = ctl s := by
  unfold pageArrives
  repeat' first
    | (simp only [↓ctl_ite, ↓ctl_keep, ↓ctl_keepR, ctl_mk, ctl_self, ite_self, implies_true, ↓onCtx_ctl,
          ↓takePages_ctl]; done)
    | split
    | simp only [↓ctl_ite, ↓ctl_keep, ↓ctl_keepR, ctl_mk, ctl_self, ite_self, implies_true, ↓onCtx_ctl,
          ↓takePages_ctl]

theorem chunkCheck_ctl (a1 a2 s) : ctl (chunkCheck a1 a2 s) = ctl s := by
  unfold chunkCheck
  repeat' first
    | (simp only [↓ctl_ite, ↓ctl_keep, ↓ctl_keepR, ctl_mk, ctl_self, ite_self, implies_true, ↓each_ctl,
          ↓badData_ctl, ↓raise0_ctl]; done)
    | split
    | simp only [↓ctl_ite, ↓ctl_keep, ↓ctl_keepR, ctl_mk, ctl_self, ite_self, implies_true, ↓each_ctl,
          ↓badData_ctl, ↓raise0_ctl]

theorem endRestoreCtx_ctl (a1 a2 s) : ctl (endRestoreCtx a1 a2 s) = ctl s := by
  unfold endRestoreCtx
  repeat' first
    | (simp only [↓ctl_ite, ↓ctl_keep, ↓ctl_keepR, ctl_mk, ctl_self, ite_self, implies_true, ↓checkThresholds_ctl,
          ↓chunkCheck_ctl]; done)
    | split
    | simp only [↓ctl_ite, ↓ctl_keep, ↓ctl_keepR, ctl_mk, ctl_self, ite_self, implies_true, ↓checkThresholds_ctl,
          ↓chunkCheck_ctl]

theorem startWaiting_ctl (a1 a2 a3 s) : ctl (startWaiting a1 a2 a3 s) = ctl s := by
  fun_induction startWaiting a1 a2 a3 s <;>
    repeat' first
      | (simp +zetaDelta only [*, ↓ctl_ite, ↓ctl_keep, ↓ctl_keepR, ctl_mk, ctl_self, ite_self, implies_true,
            ↓newCtx_ctl, ↓contextWait_ctl]; done)
      | split
      | simp +zetaDelta only [*, ↓ctl_ite, ↓ctl_keep, ↓ctl_keepR, ctl_mk, ctl_self, ite_self, implies_true,
            ↓newCtx_ctl, ↓contextWait_ctl]

theorem startPush_ctl (a1 a2 s) : ctl (startPush a1 a2 s) = ctl s := by
  unfold startPush
  repeat' first
    | (simp only [↓ctl_ite, ↓ctl_keep, ↓ctl_keepR, ctl_mk, ctl_self, ite_self, implies_true]; done)
    | split
    | simp only [↓ctl_ite, ↓ctl_keep, ↓ctl_keepR, ctl_mk, ctl_self, ite_self, implies_true]

theorem endRestore_ctl (a1 s) : ctl (endRestore a1 s) = ctl s := by
  unfold endRestore
  repeat' first
    | (simp only [↓ctl_ite, ↓ctl_keep, ↓ctl_keepR, ctl_mk, ctl_self, ite_self, implies_true, ↓finish_ctl,
          ↓startPush_ctl]; done)
    | split
    | simp only [↓ctl_ite, ↓ctl_keep, ↓ctl_keepR, ctl_mk, ctl_self, ite_self, implies_true, ↓finish_ctl,
          ↓startPush_ctl]

theorem endStreamsOf_ctl (a1 a2 s) : ctl (endStreamsOf a1 a2 s) = ctl s := by
  unfold endStreamsOf
  repeat' first
    | (simp only [↓ctl_ite, ↓ctl_keep, ↓ctl_keepR, ctl_mk, ctl_self, ite_self, implies_true, ↓each_ctl,
          ↓endRestoreCtx_ctl]; done)
    | split
    | simp only [↓ctl_ite, ↓ctl_keep, ↓ctl_keepR, ctl_mk, ctl_self, ite_self, implies_true, ↓each_ctl,
          ↓endRestoreCtx_ctl]

theorem settleRestores_ctl (s) : ctl (settleRestores s) = ctl s := by
  unfold settleRestores
  repeat' first
    | (simp only [↓ctl_ite, ↓ctl_keep, ↓ctl_keepR, ctl_mk, ctl_self, ite_self, implies_true, ↓lightUnits_ctl,
          ↓endRestore_ctl, ↓each_ctl, ↓startWaiting_ctl, ↓endStreamsOf_ctl]; done)
    | intro _
    | refine (each_ctl _ _ _ ?_).trans ?_
    | split
    | simp only [↓ctl_ite, ↓ctl_keep, ↓ctl_keepR, ctl_mk, ctl_self, ite_self, implies_true, ↓lightUnits_ctl,
          ↓endRestore_ctl, ↓each_ctl, ↓startWaiting_ctl, ↓endStreamsOf_ctl]

theorem settleEverything_ctl (s) : ctl (settleEverything s) = ctl s := by
  unfold settleEverything
  repeat' first
    | (simp only [↓ctl_ite, ↓ctl_keep, ↓ctl_keepR, ctl_mk, ctl_self, ite_self, implies_true, ↓settleAll_ctl,
          ↓settleRestores_ctl, ↓unitAnchors_ctl]; done)
    | split
    | simp only [↓ctl_ite, ↓ctl_keep, ↓ctl_keepR, ctl_mk, ctl_self, ite_self, implies_true, ↓settleAll_ctl,
          ↓settleRestores_ctl, ↓unitAnchors_ctl]

theorem pushAnswered_ctl (a1 a2 s) : ctl (pushAnswered a1 a2 s) = ctl s := by
  unfold pushAnswered
  repeat' first
    | (simp only [↓ctl_ite, ↓ctl_keep, ↓ctl_keepR, ctl_mk, ctl_self, ite_self, implies_true, ↓settleEverything_ctl,
          ↓badAt_ctl, ↓onChain_ctl]; done)
    | split
    | simp only [↓ctl_ite, ↓ctl_keep, ↓ctl_keepR, ctl_mk, ctl_self, ite_self, implies_true, ↓settleEverything_ctl,
          ↓badAt_ctl, ↓onChain_ctl]

theorem sendResult_ctl (a1 a2 a3 a4 a5 s) : ctl (sendResult a1 a2 a3 a4 a5 s) = ctl s := by
  unfold sendResult
  repeat' first
    | (simp only [↓ctl_ite, ↓ctl_keep, ↓ctl_keepR, ctl_mk, ctl_self, ite_self, implies_true, ↓hbReq_ctl]; done)
    | split
    | simp only [↓ctl_ite, ↓ctl_keep, ↓ctl_keepR, ctl_mk, ctl_self, ite_self, implies_true, ↓hbReq_ctl]

theorem digestVid_ctl (a1 s) : ctl (digestVid a1 s).2 = ctl s := by
  unfold digestVid
  repeat' first
    | (simp only [↓ctl_ite, ↓ctl_keep, ↓ctl_keepR, ctl_mk, ctl_self, ite_self, implies_true, ↓free_ctl]; done)
    | split
    | simp only [↓ctl_ite, ↓ctl_keep, ↓ctl_keepR, ctl_mk, ctl_self, ite_self, implies_true, ↓free_ctl]

theorem startDigest_ctl (a1 s) : ctl (startDigest a1 s) = ctl s := by
  unfold startDigest
  repeat' first
    | (simp only [↓ctl_ite, ↓ctl_keep, ↓ctl_keepR, ctl_mk, ctl_self, ite_self, implies_true, ↓newCtx_ctl,
          ↓digestVid_ctl]; done)
    | split
    | simp only [↓ctl_ite, ↓ctl_keep, ↓ctl_keepR, ctl_mk, ctl_self, ite_self, implies_true, ↓newCtx_ctl,
          ↓digestVid_ctl]

theorem rawStep_ctl (a1 a2 a3 s) : ctl (rawStep a1 a2 a3 s) = ctl s := by
  unfold rawStep
  repeat' first
    | (simp only [↓ctl_ite, ↓ctl_keep, ↓ctl_keepR, ctl_mk, ctl_self, ite_self, implies_true, ↓issueReads_ctl,
          ↓onCtx_ctl, ↓newBlk_ctl]; done)
    | split
    | simp only [↓ctl_ite, ↓ctl_keep, ↓ctl_keepR, ctl_mk, ctl_self, ite_self, implies_true, ↓issueReads_ctl,
          ↓onCtx_ctl, ↓newBlk_ctl]

theorem messagePart_ctl (a1 a2 s) : ctl (messagePart a1 a2 s) = ctl s := by
  unfold messagePart
  repeat' first
    | (simp only [↓ctl_ite, ↓ctl_keep, ↓ctl_keepR, ctl_mk, ctl_self, ite_self, implies_true, ↓noteDrain_ctl,
          ↓dropBlk_ctl, ↓onCtx_ctl]; done)
    | split
    | simp only [↓ctl_ite, ↓ctl_keep, ↓ctl_keepR, ctl_mk, ctl_self, ite_self, implies_true, ↓noteDrain_ctl,
          ↓dropBlk_ctl, ↓onCtx_ctl]

theorem sectorsPart_ctl (a1 a2 s) : ctl (sectorsPart a1 a2 s) = ctl s := by
  unfold sectorsPart
  repeat' first
    | (simp only [↓ctl_ite, ↓ctl_keep, ↓ctl_keepR, ctl_mk, ctl_self, ite_self, implies_true, ↓onCtx_ctl,
          ↓sectorsBad_ctl, ↓messagePart_ctl]; done)
    | split
    | simp only [↓ctl_ite, ↓ctl_keep, ↓ctl_keepR, ctl_mk, ctl_self, ite_self, implies_true, ↓onCtx_ctl,
          ↓sectorsBad_ctl, ↓messagePart_ctl]

theorem checkvalue_ctl (a1 s) : ctl (checkvalue a1 s) = ctl s := by
  unfold checkvalue
  repeat' first
    | (simp only [↓ctl_ite, ↓ctl_keep, ↓ctl_keepR, ctl_mk, ctl_self, ite_self, implies_true, ↓newCtx_ctl,
          ↓openTable_ctl]; done)
    | split
    | simp only [↓ctl_ite, ↓ctl_keep, ↓ctl_keepR, ctl_mk, ctl_self, ite_self, implies_true, ↓newCtx_ctl,
          ↓openTable_ctl]

theorem cvAsk_ctl (a1 a2 s) : ctl (cvAsk a1 a2 s) = ctl s := by
  unfold cvAsk
  repeat' first
    | (simp only [↓ctl_ite, ↓ctl_keep, ↓ctl_keepR, ctl_mk, ctl_self, ite_self, implies_true, ↓fetchGroup_ctl,
          ↓fetchCv_ctl]; done)
    | split
    | simp only [↓ctl_ite, ↓ctl_keep, ↓ctl_keepR, ctl_mk, ctl_self, ite_self, implies_true, ↓fetchGroup_ctl,
          ↓fetchCv_ctl]

theorem cvTouch_ctl (a1 a2 s) : ctl (cvTouch a1 a2 s) = ctl s := by
  unfold cvTouch
  repeat' first
    | (simp only [↓ctl_ite, ↓ctl_keep, ↓ctl_keepR, ctl_mk, ctl_self, ite_self, implies_true, ↓groupOp_ctl]; done)
    | split
    | simp only [↓ctl_ite, ↓ctl_keep, ↓ctl_keepR, ctl_mk, ctl_self, ite_self, implies_true, ↓groupOp_ctl]

theorem cvStep_ctl (a1 a2 a3 a4 s) : ctl (cvStep a1 a2 a3 a4 s) = ctl s := by
  fun_induction cvStep a1 a2 a3 a4 s <;>
    repeat' first
      | (simp +zetaDelta only [*, ↓ctl_ite, ↓ctl_keep, ↓ctl_keepR, ctl_mk, ctl_self, ite_self, implies_true,
            ↓issueReads_ctl, ↓cvAsk_ctl, ↓onCtx_ctl, ↓newBlk_ctl, ↓cvTouch_ctl]; done)
      | split
      | simp +zetaDelta only [*, ↓ctl_ite, ↓ctl_keep, ↓ctl_keepR, ctl_mk, ctl_self, ite_self, implies_true,
            ↓issueReads_ctl, ↓cvAsk_ctl, ↓onCtx_ctl, ↓newBlk_ctl, ↓cvTouch_ctl]

theorem cvAgain_ctl (a1 a2 a3 a4 s) : ctl (cvAgain a1 a2 a3 a4 s) = ctl s := by
  unfold cvAgain
  repeat' first
    | (simp only [↓ctl_ite, ↓ctl_keep, ↓ctl_keepR, ctl_mk, ctl_self, ite_self, implies_true, ↓issueReads_ctl,
          ↓cvAsk_ctl, ↓dropBlk_ctl, ↓onBlk_ctl]; done)
    | split
    | simp only [↓ctl_ite, ↓ctl_keep, ↓ctl_keepR, ctl_mk, ctl_self, ite_self, implies_true, ↓issueReads_ctl,
          ↓cvAsk_ctl, ↓dropBlk_ctl, ↓onBlk_ctl]

theorem cvArrived_ctl (a1 a2 s) : ctl (cvArrived a1 a2 s) = ctl s := by
  unfold cvArrived
  repeat' first
    | (simp only [↓ctl_ite, ↓ctl_keep, ↓ctl_keepR, ctl_mk, ctl_self, ite_self, implies_true, ↓noteDrain_ctl,
          ↓dropBlk_ctl, ↓onCmd_ctl, ↓groupOp_ctl, ↓onBlk_ctl]; done)
    | split
    | simp only [↓ctl_ite, ↓ctl_keep, ↓ctl_keepR, ctl_mk, ctl_self, ite_self, implies_true, ↓noteDrain_ctl,
          ↓dropBlk_ctl, ↓onCmd_ctl, ↓groupOp_ctl, ↓onBlk_ctl]

theorem takeParts_ctl (s) : ctl (takeParts s) = ctl s := by
  unfold takeParts
  repeat' first
    | (simp only [↓ctl_ite, ↓ctl_keep, ↓ctl_keepR, ctl_mk, ctl_self, ite_self, implies_true, ↓each_ctl,
          ↓sectorsPart_ctl, ↓cvArrived_ctl, ↓messagePart_ctl]; done)
    | intro _
    | refine (each_ctl _ _ _ ?_).trans ?_
    | split
    | simp only [↓ctl_ite, ↓ctl_keep, ↓ctl_keepR, ctl_mk, ctl_self, ite_self, implies_true, ↓each_ctl,
          ↓sectorsPart_ctl, ↓cvArrived_ctl, ↓messagePart_ctl]

theorem checkOver_ctl (a1 a2 a3 s) : ctl (checkOver a1 a2 a3 s) = ctl s := by
  unfold checkOver
  repeat' first
    | (simp only [↓ctl_ite, ↓ctl_keep, ↓ctl_keepR, ctl_mk, ctl_self, ite_self, implies_true, ↓finish_ctl,
          ↓sendResult_ctl]; done)
    | split
    | simp only [↓ctl_ite, ↓ctl_keep, ↓ctl_keepR, ctl_mk, ctl_self, ite_self, implies_true, ↓finish_ctl,
          ↓sendResult_ctl]

theorem settleChecks_ctl (s) : ctl (settleChecks s) = ctl s := by
  unfold settleChecks
  repeat' first
    | (simp only [↓ctl_ite, ↓ctl_keep, ↓ctl_keepR, ctl_mk, ctl_self, ite_self, implies_true, ↓each_ctl,
          ↓checkOver_ctl, ↓takeParts_ctl]; done)
    | intro _
    | refine (each_ctl _ _ _ ?_).trans ?_
    | split
    | simp only [↓ctl_ite, ↓ctl_keep, ↓ctl_keepR, ctl_mk, ctl_self, ite_self, implies_true, ↓each_ctl,
          ↓checkOver_ctl, ↓takeParts_ctl]

theorem settleChecked_ctl (s) : ctl (settleChecked s) = ctl s := by
  unfold settleChecked
  repeat' first
    | (simp only [↓ctl_ite, ↓ctl_keep, ↓ctl_keepR, ctl_mk, ctl_self, ite_self, implies_true, ↓settleEverything_ctl,
          ↓settleChecks_ctl]; done)
    | split
    | simp only [↓ctl_ite, ↓ctl_keep, ↓ctl_keepR, ctl_mk, ctl_self, ite_self, implies_true, ↓settleEverything_ctl,
          ↓settleChecks_ctl]

theorem digest_ctl (a1 s) : ctl (digest a1 s) = ctl s := by
  unfold digest
  repeat' first
    | (simp only [↓ctl_ite, ↓ctl_keep, ↓ctl_keepR, ctl_mk, ctl_self, ite_self, implies_true, ↓readKeys_ctl,
          ↓finish_ctl, ↓settleChecked_ctl, ↓when_ctl, ↓startDigest_ctl, ↓bufFault_ctl, ↓useGrant_ctl]; done)
    | split
    | simp only [↓ctl_ite, ↓ctl_keep, ↓ctl_keepR, ctl_mk, ctl_self, ite_self, implies_true, ↓readKeys_ctl,
          ↓finish_ctl, ↓settleChecked_ctl, ↓when_ctl, ↓startDigest_ctl, ↓bufFault_ctl, ↓useGrant_ctl]

theorem launchRestore_ctl (a1 a2 a3 a4 s) : ctl (launchRestore a1 a2 a3 a4 s) = ctl s := by
  unfold launchRestore
  repeat' first
    | (simp only [↓ctl_ite, ↓ctl_keep, ↓ctl_keepR, ctl_mk, ctl_self, ite_self, implies_true, ↓failRestore_ctl,
          ↓finish_ctl, ↓journalArea_ctl, ↓planReject_ctl, ↓readMeta_ctl, ↓malformed_ctl,
          ↓settleRestores_ctl]; done)
    | split
    | simp only [↓ctl_ite, ↓ctl_keep, ↓ctl_keepR, ctl_mk, ctl_self, ite_self, implies_true, ↓failRestore_ctl,
          ↓finish_ctl, ↓journalArea_ctl, ↓planReject_ctl, ↓readMeta_ctl, ↓malformed_ctl, ↓settleRestores_ctl]

theorem planLaunch_ctl (a1 a2 s) : ctl (planLaunch a1 a2 s) = ctl s := by
  unfold planLaunch
  repeat' first
    | (simp only [↓ctl_ite, ↓ctl_keep, ↓ctl_keepR, ctl_mk, ctl_self, ite_self, implies_true, ↓readCtl_ctl,
          ↓finish_ctl, ↓planReject_ctl, ↓malformed_ctl, ↓launchRestore_ctl]; done)
    | split
    | simp only [↓ctl_ite, ↓ctl_keep, ↓ctl_keepR, ctl_mk, ctl_self, ite_self, implies_true, ↓readCtl_ctl,
          ↓finish_ctl, ↓planReject_ctl, ↓malformed_ctl, ↓launchRestore_ctl]

theorem laneRetireEnd_ctl (a1 a2 a3 a4 s) : ctl (laneRetireEnd a1 a2 a3 a4 s) = ctl s := by
  unfold laneRetireEnd
  repeat' first
    | (simp only [↓ctl_ite, ↓ctl_keep, ↓ctl_keepR, ctl_mk, ctl_self, ite_self, implies_true, ↓finish_ctl,
          ↓settleChecked_ctl, ↓retire_ctl]; done)
    | split
    | simp only [↓ctl_ite, ↓ctl_keep, ↓ctl_keepR, ctl_mk, ctl_self, ite_self, implies_true, ↓finish_ctl,
          ↓settleChecked_ctl, ↓retire_ctl]

theorem stopCopyStart_ctl (a1 s) : ctl (stopCopyStart a1 s) = ctl s := by
  unfold stopCopyStart
  repeat' first
    | (simp only [↓ctl_ite, ↓ctl_keep, ↓ctl_keepR, ctl_mk, ctl_self, ite_self, implies_true, ↓startStreams_ctl,
          ↓setOrder_ctl]; done)
    | split
    | simp only [↓ctl_ite, ↓ctl_keep, ↓ctl_keepR, ctl_mk, ctl_self, ite_self, implies_true, ↓startStreams_ctl,
          ↓setOrder_ctl]

theorem tryLaneStop_ctl (s) : ctl (tryLaneStop s) = ctl s := by
  unfold tryLaneStop
  repeat' first
    | (simp only [↓ctl_ite, ↓ctl_keep, ↓ctl_keepR, ctl_mk, ctl_self, ite_self, implies_true, ↓stopCopyEvents_ctl,
          ↓laneRetireEnd_ctl]; done)
    | split
    | simp only [↓ctl_ite, ↓ctl_keep, ↓ctl_keepR, ctl_mk, ctl_self, ite_self, implies_true, ↓stopCopyEvents_ctl,
          ↓laneRetireEnd_ctl]

theorem endCancels_ctl (s) : ctl (endCancels s) = ctl s := by
  unfold endCancels
  repeat' first
    | (simp only [↓ctl_ite, ↓ctl_keep, ↓ctl_keepR, ctl_mk, ctl_self, ite_self, implies_true, ↓finish_ctl,
          ↓each_ctl]; done)
    | split
    | simp only [↓ctl_ite, ↓ctl_keep, ↓ctl_keepR, ctl_mk, ctl_self, ite_self, implies_true, ↓finish_ctl, ↓each_ctl]

theorem settleAfter_ctl (s) : ctl (settleAfter s) = ctl s := by
  unfold settleAfter
  repeat' first
    | (simp only [↓ctl_ite, ↓ctl_keep, ↓ctl_keepR, ctl_mk, ctl_self, ite_self, implies_true, ↓tryLaneStop_ctl,
          ↓endCancels_ctl, ↓settleChecked_ctl]; done)
    | split
    | simp only [↓ctl_ite, ↓ctl_keep, ↓ctl_keepR, ctl_mk, ctl_self, ite_self, implies_true, ↓tryLaneStop_ctl,
          ↓endCancels_ctl, ↓settleChecked_ctl]

theorem endReturn_ctl (a1 a2 s) : ctl (endReturn a1 a2 s) = ctl s := by
  unfold endReturn
  repeat' first
    | (simp only [↓ctl_ite, ↓ctl_keep, ↓ctl_keepR, ctl_mk, ctl_self, ite_self, implies_true, ↓finish_ctl,
          ↓each_ctl]; done)
    | split
    | simp only [↓ctl_ite, ↓ctl_keep, ↓ctl_keepR, ctl_mk, ctl_self, ite_self, implies_true, ↓finish_ctl, ↓each_ctl]

theorem laneRetire_ctl (a1 s) : ctl (laneRetire a1 s) = ctl s := by
  unfold laneRetire
  repeat' first
    | (simp only [↓ctl_ite, ↓ctl_keep, ↓ctl_keepR, ctl_mk, ctl_self, ite_self, implies_true, ↓finish_ctl,
          ↓settleAfter_ctl, ↓stopCopyStart_ctl, ↓laneRetireEnd_ctl, ↓endReturn_ctl]; done)
    | split
    | simp only [↓ctl_ite, ↓ctl_keep, ↓ctl_keepR, ctl_mk, ctl_self, ite_self, implies_true, ↓finish_ctl,
          ↓settleAfter_ctl, ↓stopCopyStart_ctl, ↓laneRetireEnd_ctl, ↓endReturn_ctl]

theorem allHeld_ctl (s) : ctl (allHeld s) = ctl s := by
  unfold allHeld
  repeat' first
    | (simp only [↓ctl_ite, ↓ctl_keep, ↓ctl_keepR, ctl_mk, ctl_self, ite_self, implies_true, ↓stopCopyStart_ctl,
          ↓arm_ctl]; done)
    | split
    | simp only [↓ctl_ite, ↓ctl_keep, ↓ctl_keepR, ctl_mk, ctl_self, ite_self, implies_true, ↓stopCopyStart_ctl,
          ↓arm_ctl]

theorem holdAck_ctl (a1 s) : ctl (holdAck a1 s) = ctl s := by
  unfold holdAck
  repeat' first
    | (simp only [↓ctl_ite, ↓ctl_keep, ↓ctl_keepR, ctl_mk, ctl_self, ite_self, implies_true, ↓allHeld_ctl,
          ↓settleAfter_ctl, ↓onChain_ctl]; done)
    | split
    | simp only [↓ctl_ite, ↓ctl_keep, ↓ctl_keepR, ctl_mk, ctl_self, ite_self, implies_true, ↓allHeld_ctl,
          ↓settleAfter_ctl, ↓onChain_ctl]

theorem applyPending_ctl (a1 s) : ctl (applyPending a1 s) = ctl s := by
  unfold applyPending
  repeat' first
    | (simp only [↓ctl_ite, ↓ctl_keep, ↓ctl_keepR, ctl_mk, ctl_self, ite_self, implies_true, ↓advanceGen_ctl,
          ↓dropListWrite_ctl]; done)
    | split
    | simp only [↓ctl_ite, ↓ctl_keep, ↓ctl_keepR, ctl_mk, ctl_self, ite_self, implies_true, ↓advanceGen_ctl,
          ↓dropListWrite_ctl]

theorem startCmd_ctl (a1 s) : ctl (startCmd a1 s) = ctl s := by
  unfold startCmd
  repeat' first
    | (simp only [↓ctl_ite, ↓ctl_keep, ↓ctl_keepR, ctl_mk, ctl_self, ite_self, implies_true, ↓finish_ctl,
          ↓append_ctl, ↓applyPending_ctl, ↓onCmd_ctl]; done)
    | split
    | simp only [↓ctl_ite, ↓ctl_keep, ↓ctl_keepR, ctl_mk, ctl_self, ite_self, implies_true, ↓finish_ctl,
          ↓append_ctl, ↓applyPending_ctl, ↓onCmd_ctl]

theorem startInvalid_ctl (a1 a2 s) : ctl (startInvalid a1 a2 s) = ctl s := by
  unfold startInvalid
  repeat' first
    | (simp only [↓ctl_ite, ↓ctl_keep, ↓ctl_keepR, ctl_mk, ctl_self, ite_self, implies_true, ↓append_ctl,
          ↓onCmd_ctl, ↓malformed_ctl]; done)
    | split
    | simp only [↓ctl_ite, ↓ctl_keep, ↓ctl_keepR, ctl_mk, ctl_self, ite_self, implies_true, ↓append_ctl,
          ↓onCmd_ctl, ↓malformed_ctl]

theorem startLaunch_ctl (a1 s) : ctl (startLaunch a1 s) = ctl s := by
  unfold startLaunch
  repeat' first
    | (simp only [↓ctl_ite, ↓ctl_keep, ↓ctl_keepR, ctl_mk, ctl_self, ite_self, implies_true, ↓startInvalid_ctl,
          ↓startCmd_ctl, ↓dropListWrite_ctl, ↓writePending_ctl]; done)
    | split
    | simp only [↓ctl_ite, ↓ctl_keep, ↓ctl_keepR, ctl_mk, ctl_self, ite_self, implies_true, ↓startInvalid_ctl,
          ↓startCmd_ctl, ↓dropListWrite_ctl, ↓writePending_ctl]

theorem commandStart_ctl (a1 a2 s) : ctl (commandStart a1 a2 s) = ctl s := by
  unfold commandStart
  repeat' first
    | (simp only [↓ctl_ite, ↓ctl_keep, ↓ctl_keepR, ctl_mk, ctl_self, ite_self, implies_true, ↓startInvalid_ctl,
          ↓startLaunch_ctl]; done)
    | split
    | simp only [↓ctl_ite, ↓ctl_keep, ↓ctl_keepR, ctl_mk, ctl_self, ite_self, implies_true, ↓startInvalid_ctl,
          ↓startLaunch_ctl]

theorem cancelTheEpoch_ctl (a1 s) : ctl (cancelTheEpoch a1 s) = ctl s := by
  unfold cancelTheEpoch
  repeat' first
    | (simp only [↓ctl_ite, ↓ctl_keep, ↓ctl_keepR, ctl_mk, ctl_self, ite_self, implies_true, ↓cancelEpoch_ctl]; done)
    | split
    | simp only [↓ctl_ite, ↓ctl_keep, ↓ctl_keepR, ctl_mk, ctl_self, ite_self, implies_true, ↓cancelEpoch_ctl]

theorem handBlocks_ctl (a1 a2 s) : ctl (handBlocks a1 a2 s) = ctl s := by
  unfold handBlocks
  repeat' first
    | (simp only [↓ctl_ite, ↓ctl_keep, ↓ctl_keepR, ctl_mk, ctl_self, ite_self, implies_true]; done)
    | split
    | simp only [↓ctl_ite, ↓ctl_keep, ↓ctl_keepR, ctl_mk, ctl_self, ite_self, implies_true]

theorem heir_ctl (a1 a2 s) : ctl (heir a1 a2 s).2 = ctl s := by
  unfold heir
  repeat' first
    | (simp only [↓ctl_ite, ↓ctl_keep, ↓ctl_keepR, ctl_mk, ctl_self, ite_self, implies_true, ↓newCtx_ctl]; done)
    | split
    | simp only [↓ctl_ite, ↓ctl_keep, ↓ctl_keepR, ctl_mk, ctl_self, ite_self, implies_true, ↓newCtx_ctl]

theorem bequeath_ctl (k : Nat) (c : Ctx) (s : State) : ctl (bequeath k c s) = ctl s := by
  unfold bequeath
  split
  · rfl
  · dsimp only
    split
    · exact setOrder_ctl ..
    · have h := fun x t => heir_ctl x c t
      split
      · next he => exact (handBlocks_ctl ..).trans ((congrArg (fun r => ctl r.2) he).symm.trans ((h ..).trans (setOrder_ctl ..)))
      · next he =>
        refine (onCtx_ctl ..).trans ?_
        exact (congrArg (fun r => ctl r.2) he).symm.trans ((h ..).trans (setOrder_ctl ..))

theorem stopCapture_ctl (a1 a2 s) : ctl (stopCapture a1 a2 s) = ctl s := by
  unfold stopCapture
  repeat' first
    | (simp only [↓ctl_ite, ↓ctl_keep, ↓ctl_keepR, ctl_mk, ctl_self, ite_self, implies_true, ↓bequeath_ctl,
          ↓stopStreams_ctl, ↓each_ctl]; done)
    | split
    | simp only [↓ctl_ite, ↓ctl_keep, ↓ctl_keepR, ctl_mk, ctl_self, ite_self, implies_true, ↓bequeath_ctl,
          ↓stopStreams_ctl, ↓each_ctl]

theorem cancelOne_ctl (a1 s) : ctl (cancelOne a1 s) = ctl s := by
  unfold cancelOne
  repeat' first
    | (simp only [↓ctl_ite, ↓ctl_keep, ↓ctl_keepR, ctl_mk, ctl_self, ite_self, implies_true, ↓finish_ctl,
          ↓onCmd_ctl, ↓cancelTheEpoch_ctl, ↓stopCapture_ctl, ↓stopCmd_ctl]; done)
    | split
    | simp only [↓ctl_ite, ↓ctl_keep, ↓ctl_keepR, ctl_mk, ctl_self, ite_self, implies_true, ↓finish_ctl,
          ↓onCmd_ctl, ↓cancelTheEpoch_ctl, ↓stopCapture_ctl, ↓stopCmd_ctl]

theorem cancelGo_ctl (c : Cmd) (s : State) : ctl (cancelGo c s) = ctl s := by
  have h : ctl (each c.items (fun t u => match cmd? u t.1 t.2 with
      | some x => cancelOne x u
      | none => u) s) = ctl s := by
    refine each_ctl _ _ _ fun t u => ?_
    split
    · exact cancelOne_ctl ..
    · rfl
  unfold cancelGo
  dsimp only
  rw [settleAfter_ctl, onCmd_ctl]
  split
  · exact (cancelTheEpoch_ctl ..).trans h
  · exact h

theorem listPort_ctl (a1 s) : ctl (listPort a1 s) = ctl s := by
  unfold listPort
  repeat' first
    | (simp only [↓ctl_ite, ↓ctl_keep, ↓ctl_keepR, ctl_mk, ctl_self, ite_self, implies_true, ↓linkDown_ctl]; done)
    | split
    | simp only [↓ctl_ite, ↓ctl_keep, ↓ctl_keepR, ctl_mk, ctl_self, ite_self, implies_true, ↓linkDown_ctl]

theorem sendHello_ctl (a1 a2 s) : ctl (sendHello a1 a2 s) = ctl s := by
  unfold sendHello
  repeat' first
    | (simp only [↓ctl_ite, ↓ctl_keep, ↓ctl_keepR, ctl_mk, ctl_self, ite_self, implies_true, ↓sendOn_ctl]; done)
    | split
    | simp only [↓ctl_ite, ↓ctl_keep, ↓ctl_keepR, ctl_mk, ctl_self, ite_self, implies_true, ↓sendOn_ctl]

theorem helloPort_ctl (a1 s) : ctl (helloPort a1 s) = ctl s := by
  unfold helloPort
  repeat' first
    | (simp only [↓ctl_ite, ↓ctl_keep, ↓ctl_keepR, ctl_mk, ctl_self, ite_self, implies_true, ↓each_ctl,
          ↓sendHello_ctl]; done)
    | split
    | simp only [↓ctl_ite, ↓ctl_keep, ↓ctl_keepR, ctl_mk, ctl_self, ite_self, implies_true, ↓each_ctl, ↓sendHello_ctl]

theorem markConflict_ctl (a1 a2 a3 a4 s) : ctl (markConflict a1 a2 a3 a4 s) = ctl s := by
  unfold markConflict
  repeat' first
    | (simp only [↓ctl_ite, ↓ctl_keep, ↓ctl_keepR, ctl_mk, ctl_self, ite_self, implies_true, ↓raise0_ctl,
          ↓onPort_ctl]; done)
    | split
    | simp only [↓ctl_ite, ↓ctl_keep, ↓ctl_keepR, ctl_mk, ctl_self, ite_self, implies_true, ↓raise0_ctl, ↓onPort_ctl]

theorem clearConflicts_ctl (s) : ctl (clearConflicts s) = ctl s := by
  unfold clearConflicts
  repeat' first
    | (simp only [↓ctl_ite, ↓ctl_keep, ↓ctl_keepR, ctl_mk, ctl_self, ite_self, implies_true, ↓each_ctl,
          ↓helloPort_ctl, ↓onPort_ctl]; done)
    | split
    | simp only [↓ctl_ite, ↓ctl_keep, ↓ctl_keepR, ctl_mk, ctl_self, ite_self, implies_true, ↓each_ctl,
          ↓helloPort_ctl, ↓onPort_ctl]

theorem ensurePeers_ctl (s) : ctl (ensurePeers s) = ctl s := by
  unfold ensurePeers
  repeat' first
    | (simp only [↓ctl_ite, ↓ctl_keep, ↓ctl_keepR, ctl_mk, ctl_self, ite_self, implies_true]; done)
    | split
    | simp only [↓ctl_ite, ↓ctl_keep, ↓ctl_keepR, ctl_mk, ctl_self, ite_self, implies_true]

theorem tableChanged_ctl (s) : ctl (tableChanged s) = ctl s := by
  unfold tableChanged
  repeat' first
    | (simp only [↓ctl_ite, ↓ctl_keep, ↓ctl_keepR, ctl_mk, ctl_self, ite_self, implies_true, ↓listPort_ctl,
          ↓clearConflicts_ctl, ↓each_ctl, ↓ensurePeers_ctl, ↓dropPeers_ctl]; done)
    | split
    | simp only [↓ctl_ite, ↓ctl_keep, ↓ctl_keepR, ctl_mk, ctl_self, ite_self, implies_true, ↓listPort_ctl,
          ↓clearConflicts_ctl, ↓each_ctl, ↓ensurePeers_ctl, ↓dropPeers_ctl]

theorem endFor_ctl (a1 a2 a3 a4 s) : ctl (endFor a1 a2 a3 a4 s) = ctl s := by
  unfold endFor
  repeat' first
    | (simp only [↓ctl_ite, ↓ctl_keep, ↓ctl_keepR, ctl_mk, ctl_self, ite_self, implies_true, ↓finish_ctl]; done)
    | split
    | simp only [↓ctl_ite, ↓ctl_keep, ↓ctl_keepR, ctl_mk, ctl_self, ite_self, implies_true, ↓finish_ctl]

theorem endRequests_ctl (a1 a2 a3 s) : ctl (endRequests a1 a2 a3 s) = ctl s := by
  unfold endRequests
  repeat' first
    | (simp only [↓ctl_ite, ↓ctl_keep, ↓ctl_keepR, ctl_mk, ctl_self, ite_self, implies_true, ↓each_ctl,
          ↓endFor_ctl, ↓stopCmd_ctl]; done)
    | intro _
    | refine (each_ctl _ _ _ ?_).trans ?_
    | split
    | simp only [↓ctl_ite, ↓ctl_keep, ↓ctl_keepR, ctl_mk, ctl_self, ite_self, implies_true, ↓each_ctl, ↓endFor_ctl,
          ↓stopCmd_ctl]

theorem enterFenced_ctl (a1 a2 s) : ctl (enterFenced a1 a2 s) = ctl s := by
  unfold enterFenced
  repeat' first
    | (simp only [↓ctl_ite, ↓ctl_keep, ↓ctl_keepR, ctl_mk, ctl_self, ite_self, implies_true, ↓endRequests_ctl,
          ↓each_ctl, ↓abandonEpoch_ctl, ↓tidingDropped_ctl, ↓raise0_ctl, ↓endFor_ctl, ↓stopCmd_ctl]; done)
    | split
    | simp only [↓ctl_ite, ↓ctl_keep, ↓ctl_keepR, ctl_mk, ctl_self, ite_self, implies_true, ↓endRequests_ctl,
          ↓each_ctl, ↓abandonEpoch_ctl, ↓tidingDropped_ctl, ↓raise0_ctl, ↓endFor_ctl, ↓stopCmd_ctl]

theorem leaveFenced_ctl (s) : ctl (leaveFenced s) = ctl s := by
  unfold leaveFenced
  repeat' first
    | (simp only [↓ctl_ite, ↓ctl_keep, ↓ctl_keepR, ctl_mk, ctl_self, ite_self, implies_true]; done)
    | split
    | simp only [↓ctl_ite, ↓ctl_keep, ↓ctl_keepR, ctl_mk, ctl_self, ite_self, implies_true]

theorem putVault_ctl (a1 s) : ctl (putVault a1 s) = ctl s := by
  unfold putVault
  repeat' first
    | (simp only [↓ctl_ite, ↓ctl_keep, ↓ctl_keepR, ctl_mk, ctl_self, ite_self, implies_true, ↓mark_ctl]; done)
    | split
    | simp only [↓ctl_ite, ↓ctl_keep, ↓ctl_keepR, ctl_mk, ctl_self, ite_self, implies_true, ↓mark_ctl]

theorem vaultCreate_ctl (a1 s) : ctl (vaultCreate a1 s) = ctl s := by
  unfold vaultCreate
  repeat' first
    | (simp only [↓ctl_ite, ↓ctl_keep, ↓ctl_keepR, ctl_mk, ctl_self, ite_self, implies_true, ↓putVault_ctl,
          ↓finish_ctl, ↓request_ctl]; done)
    | split
    | simp only [↓ctl_ite, ↓ctl_keep, ↓ctl_keepR, ctl_mk, ctl_self, ite_self, implies_true, ↓putVault_ctl,
          ↓finish_ctl, ↓request_ctl]

theorem dropVault_ctl (a1 s) : ctl (dropVault a1 s) = ctl s := by
  unfold dropVault
  repeat' first
    | (simp only [↓ctl_ite, ↓ctl_keep, ↓ctl_keepR, ctl_mk, ctl_self, ite_self, implies_true, ↓mark_ctl]; done)
    | split
    | simp only [↓ctl_ite, ↓ctl_keep, ↓ctl_keepR, ctl_mk, ctl_self, ite_self, implies_true, ↓mark_ctl]

theorem vaultDelete_ctl (a1 s) : ctl (vaultDelete a1 s) = ctl s := by
  unfold vaultDelete
  repeat' first
    | (simp only [↓ctl_ite, ↓ctl_keep, ↓ctl_keepR, ctl_mk, ctl_self, ite_self, implies_true, ↓dropVault_ctl,
          ↓finish_ctl, ↓request_ctl]; done)
    | split
    | simp only [↓ctl_ite, ↓ctl_keep, ↓ctl_keepR, ctl_mk, ctl_self, ite_self, implies_true, ↓dropVault_ctl,
          ↓finish_ctl, ↓request_ctl]

theorem vaultReplied_ctl (a1 a2 a3 s) : ctl (vaultReplied a1 a2 a3 s) = ctl s := by
  unfold vaultReplied
  repeat' first
    | (simp only [↓ctl_ite, ↓ctl_keep, ↓ctl_keepR, ctl_mk, ctl_self, ite_self, implies_true, ↓dropVault_ctl,
          ↓putVault_ctl, ↓finish_ctl]; done)
    | split
    | simp only [↓ctl_ite, ↓ctl_keep, ↓ctl_keepR, ctl_mk, ctl_self, ite_self, implies_true, ↓dropVault_ctl,
          ↓putVault_ctl, ↓finish_ctl]

theorem queueCreate_ctl (a1 a2 s) : ctl (queueCreate a1 a2 s) = ctl s := by
  unfold queueCreate
  repeat' first
    | (simp only [↓ctl_ite, ↓ctl_keep, ↓ctl_keepR, ctl_mk, ctl_self, ite_self, implies_true, ↓readCtl_ctl,
          ↓finish_ctl, ↓lanesWrite_ctl, ↓mark_ctl, ↓malformed_ctl]; done)
    | split
    | simp only [↓ctl_ite, ↓ctl_keep, ↓ctl_keepR, ctl_mk, ctl_self, ite_self, implies_true, ↓readCtl_ctl,
          ↓finish_ctl, ↓lanesWrite_ctl, ↓mark_ctl, ↓malformed_ctl]

theorem grantWord_ctl (s) : ctl (grantWord s).2 = ctl s := by
  unfold grantWord
  repeat' first
    | (simp only [↓ctl_ite, ↓ctl_keep, ↓ctl_keepR, ctl_mk, ctl_self, ite_self, implies_true]; done)
    | split
    | simp only [↓ctl_ite, ↓ctl_keep, ↓ctl_keepR, ctl_mk, ctl_self, ite_self, implies_true]

theorem writeGrant_ctl (a1 a2 a3 s) : ctl (writeGrant a1 a2 a3 s) = ctl s := by
  unfold writeGrant
  repeat' first
    | (simp only [↓ctl_ite, ↓ctl_keep, ↓ctl_keepR, ctl_mk, ctl_self, ite_self, implies_true, ↓hbWrite_ctl,
          ↓grantWord_ctl]; done)
    | split
    | simp only [↓ctl_ite, ↓ctl_keep, ↓ctl_keepR, ctl_mk, ctl_self, ite_self, implies_true, ↓hbWrite_ctl,
          ↓grantWord_ctl]

theorem releaseBuffers_ctl (a1 s) : ctl (releaseBuffers a1 s) = ctl s := by
  unfold releaseBuffers
  repeat' first
    | (simp only [↓ctl_ite, ↓ctl_keep, ↓ctl_keepR, ctl_mk, ctl_self, ite_self, implies_true, ↓each_ctl,
          ↓writeGrant_ctl]; done)
    | split
    | simp only [↓ctl_ite, ↓ctl_keep, ↓ctl_keepR, ctl_mk, ctl_self, ite_self, implies_true, ↓each_ctl,
          ↓writeGrant_ctl]

theorem removeQueue_ctl (a1 a2 s) : ctl (removeQueue a1 a2 s) = ctl s := by
  unfold removeQueue
  repeat' first
    | (simp only [↓ctl_ite, ↓ctl_keep, ↓ctl_keepR, ctl_mk, ctl_self, ite_self, implies_true, ↓finish_ctl,
          ↓each_ctl, ↓mark_ctl, ↓dbBad_ctl, ↓releaseBuffers_ctl]; done)
    | split
    | simp only [↓ctl_ite, ↓ctl_keep, ↓ctl_keepR, ctl_mk, ctl_self, ite_self, implies_true, ↓finish_ctl, ↓each_ctl,
          ↓mark_ctl, ↓dbBad_ctl, ↓releaseBuffers_ctl]

theorem deleteFlushed_ctl (a1 s) : ctl (deleteFlushed a1 s) = ctl s := by
  unfold deleteFlushed
  repeat' first
    | (simp only [↓ctl_ite, ↓ctl_keep, ↓ctl_keepR, ctl_mk, ctl_self, ite_self, implies_true, ↓flushStop_ctl]; done)
    | split
    | simp only [↓ctl_ite, ↓ctl_keep, ↓ctl_keepR, ctl_mk, ctl_self, ite_self, implies_true, ↓flushStop_ctl]

theorem settleDeletes_ctl (s) : ctl (settleDeletes s) = ctl s := by
  unfold settleDeletes
  repeat' first
    | (simp only [↓ctl_ite, ↓ctl_keep, ↓ctl_keepR, ctl_mk, ctl_self, ite_self, implies_true, ↓removeQueue_ctl,
          ↓deleteFlushed_ctl, ↓each_ctl]; done)
    | split
    | simp only [↓ctl_ite, ↓ctl_keep, ↓ctl_keepR, ctl_mk, ctl_self, ite_self, implies_true, ↓removeQueue_ctl,
          ↓deleteFlushed_ctl, ↓each_ctl]

theorem queueDelete_ctl (a1 a2 s) : ctl (queueDelete a1 a2 s) = ctl s := by
  unfold queueDelete
  repeat' first
    | (simp only [↓ctl_ite, ↓ctl_keep, ↓ctl_keepR, ctl_mk, ctl_self, ite_self, implies_true, ↓finish_ctl,
          ↓flushBegin_ctl, ↓flushAccept_ctl, ↓settleDeletes_ctl]; done)
    | split
    | simp only [↓ctl_ite, ↓ctl_keep, ↓ctl_keepR, ctl_mk, ctl_self, ite_self, implies_true, ↓finish_ctl,
          ↓flushBegin_ctl, ↓flushAccept_ctl, ↓settleDeletes_ctl]

theorem bufGrant_ctl (a1 s) : ctl (bufGrant a1 s) = ctl s := by
  unfold bufGrant
  repeat' first
    | (simp only [↓ctl_ite, ↓ctl_keep, ↓ctl_keepR, ctl_mk, ctl_self, ite_self, implies_true, ↓writeGrant_ctl,
          ↓mark_ctl]; done)
    | split
    | simp only [↓ctl_ite, ↓ctl_keep, ↓ctl_keepR, ctl_mk, ctl_self, ite_self, implies_true, ↓writeGrant_ctl,
          ↓mark_ctl]

theorem bufFree_ctl (a1 s) : ctl (bufFree a1 s) = ctl s := by
  unfold bufFree
  repeat' first
    | (simp only [↓ctl_ite, ↓ctl_keep, ↓ctl_keepR, ctl_mk, ctl_self, ite_self, implies_true, ↓writeGrant_ctl,
          ↓mark_ctl, ↓bufFault_ctl, ↓useGrant_ctl]; done)
    | split
    | simp only [↓ctl_ite, ↓ctl_keep, ↓ctl_keepR, ctl_mk, ctl_self, ite_self, implies_true, ↓writeGrant_ctl,
          ↓mark_ctl, ↓bufFault_ctl, ↓useGrant_ctl]

theorem recipeLoad_ctl (a1 a2 s) : ctl (recipeLoad a1 a2 s) = ctl s := by
  unfold recipeLoad
  repeat' first
    | (simp only [↓ctl_ite, ↓ctl_keep, ↓ctl_keepR, ctl_mk, ctl_self, ite_self, implies_true, ↓readCtl_ctl,
          ↓finish_ctl, ↓lanesWrite_ctl, ↓raise0_ctl, ↓malformed_ctl]; done)
    | split
    | simp only [↓ctl_ite, ↓ctl_keep, ↓ctl_keepR, ctl_mk, ctl_self, ite_self, implies_true, ↓readCtl_ctl,
          ↓finish_ctl, ↓lanesWrite_ctl, ↓raise0_ctl, ↓malformed_ctl]

theorem fillKey_ctl (a1 a2 a3 a4 s) : ctl (fillKey a1 a2 a3 a4 s) = ctl s := by
  unfold fillKey
  repeat' first
    | (simp only [↓ctl_ite, ↓ctl_keep, ↓ctl_keepR, ctl_mk, ctl_self, ite_self, implies_true, ↓finish_ctl,
          ↓lanesWrite_ctl, ↓mark_ctl, ↓raise0_ctl]; done)
    | split
    | simp only [↓ctl_ite, ↓ctl_keep, ↓ctl_keepR, ctl_mk, ctl_self, ite_self, implies_true, ↓finish_ctl,
          ↓lanesWrite_ctl, ↓mark_ctl, ↓raise0_ctl]

theorem keyLoad_ctl (a1 a2 s) : ctl (keyLoad a1 a2 s) = ctl s := by
  unfold keyLoad
  repeat' first
    | (simp only [↓ctl_ite, ↓ctl_keep, ↓ctl_keepR, ctl_mk, ctl_self, ite_self, implies_true, ↓readKeys_ctl,
          ↓readCtl_ctl, ↓finish_ctl, ↓fillKey_ctl, ↓malformed_ctl]; done)
    | split
    | simp only [↓ctl_ite, ↓ctl_keep, ↓ctl_keepR, ctl_mk, ctl_self, ite_self, implies_true, ↓readKeys_ctl,
          ↓readCtl_ctl, ↓finish_ctl, ↓fillKey_ctl, ↓malformed_ctl]

theorem keyDerive_ctl (a1 a2 s) : ctl (keyDerive a1 a2 s) = ctl s := by
  unfold keyDerive
  repeat' first
    | (simp only [↓ctl_ite, ↓ctl_keep, ↓ctl_keepR, ctl_mk, ctl_self, ite_self, implies_true, ↓readKeys_ctl,
          ↓readCtl_ctl, ↓finish_ctl, ↓each_ctl, ↓fillKey_ctl, ↓malformed_ctl]; done)
    | split
    | simp only [↓ctl_ite, ↓ctl_keep, ↓ctl_keepR, ctl_mk, ctl_self, ite_self, implies_true, ↓readKeys_ctl,
          ↓readCtl_ctl, ↓finish_ctl, ↓each_ctl, ↓fillKey_ctl, ↓malformed_ctl]

theorem buddySet_ctl (a1 s) : ctl (buddySet a1 s) = ctl s := by
  unfold buddySet
  repeat' first
    | (simp only [↓ctl_ite, ↓ctl_keep, ↓ctl_keepR, ctl_mk, ctl_self, ite_self, implies_true, ↓finish_ctl,
          ↓tableChanged_ctl]; done)
    | split
    | simp only [↓ctl_ite, ↓ctl_keep, ↓ctl_keepR, ctl_mk, ctl_self, ite_self, implies_true, ↓finish_ctl,
          ↓tableChanged_ctl]

theorem installTopo_ctl (a1 a2 s) : ctl (installTopo a1 a2 s) = ctl s := by
  unfold installTopo
  repeat' first
    | (simp only [↓ctl_ite, ↓ctl_keep, ↓ctl_keepR, ctl_mk, ctl_self, ite_self, implies_true, ↓tableChanged_ctl,
          ↓leaveFenced_ctl, ↓writeMirrorHeader_ctl]; done)
    | split
    | simp only [↓ctl_ite, ↓ctl_keep, ↓ctl_keepR, ctl_mk, ctl_self, ite_self, implies_true, ↓tableChanged_ctl,
          ↓leaveFenced_ctl, ↓writeMirrorHeader_ctl]

theorem topologySet_ctl (a1 a2 s) : ctl (topologySet a1 a2 s) = ctl s := by
  unfold topologySet
  repeat' first
    | (simp only [↓ctl_ite, ↓ctl_keep, ↓ctl_keepR, ctl_mk, ctl_self, ite_self, implies_true, ↓installTopo_ctl,
          ↓readCtl_ctl, ↓finish_ctl, ↓planReject_ctl, ↓malformed_ctl]; done)
    | split
    | simp only [↓ctl_ite, ↓ctl_keep, ↓ctl_keepR, ctl_mk, ctl_self, ite_self, implies_true, ↓installTopo_ctl,
          ↓readCtl_ctl, ↓finish_ctl, ↓planReject_ctl, ↓malformed_ctl]

theorem fenceRaise_ctl (a1 s) : ctl (fenceRaise a1 s) = ctl s := by
  unfold fenceRaise
  repeat' first
    | (simp only [↓ctl_ite, ↓ctl_keep, ↓ctl_keepR, ctl_mk, ctl_self, ite_self, implies_true, ↓send_ctl,
          ↓finish_ctl, ↓endRequests_ctl, ↓mark_ctl]; done)
    | split
    | simp only [↓ctl_ite, ↓ctl_keep, ↓ctl_keepR, ctl_mk, ctl_self, ite_self, implies_true, ↓send_ctl, ↓finish_ctl,
          ↓endRequests_ctl, ↓mark_ctl]

theorem tablePage_ctl (s) : ctl (tablePage s).2 = ctl s := by
  unfold tablePage
  repeat' first
    | (simp only [↓ctl_ite, ↓ctl_keep, ↓ctl_keepR, ctl_mk, ctl_self, ite_self, implies_true]; done)
    | split
    | simp only [↓ctl_ite, ↓ctl_keep, ↓ctl_keepR, ctl_mk, ctl_self, ite_self, implies_true]

theorem writePage_ctl (a1 a2 s) : ctl (writePage a1 a2 s) = ctl s := by
  unfold writePage
  repeat' first
    | (simp only [↓ctl_ite, ↓ctl_keep, ↓ctl_keepR, ctl_mk, ctl_self, ite_self, implies_true, ↓tablePage_ctl,
          ↓hbWrite_ctl]; done)
    | split
    | simp only [↓ctl_ite, ↓ctl_keep, ↓ctl_keepR, ctl_mk, ctl_self, ite_self, implies_true, ↓tablePage_ctl,
          ↓hbWrite_ctl]

theorem settleCompact_ctl (s) : ctl (settleCompact s) = ctl s := by
  unfold settleCompact
  repeat' first
    | (simp only [↓ctl_ite, ↓ctl_keep, ↓ctl_keepR, ctl_mk, ctl_self, ite_self, implies_true, ↓finish_ctl,
          ↓each_ctl]; done)
    | split
    | simp only [↓ctl_ite, ↓ctl_keep, ↓ctl_keepR, ctl_mk, ctl_self, ite_self, implies_true, ↓finish_ctl, ↓each_ctl]

theorem rebuild_ctl (a1 a2 s) : ctl (rebuild a1 a2 s) = ctl s := by
  unfold rebuild
  repeat' first
    | (simp only [↓ctl_ite, ↓ctl_keep, ↓ctl_keepR, ctl_mk, ctl_self, ite_self, implies_true, ↓listPort_ctl,
          ↓each_ctl, ↓setResync_ctl, ↓onPort_ctl]; done)
    | split
    | simp only [↓ctl_ite, ↓ctl_keep, ↓ctl_keepR, ctl_mk, ctl_self, ite_self, implies_true, ↓listPort_ctl,
          ↓each_ctl, ↓setResync_ctl, ↓onPort_ctl]

theorem readmitLane_ctl (a1 a2 s) : ctl (readmitLane a1 a2 s) = ctl s := by
  unfold readmitLane
  repeat' first
    | (simp only [↓ctl_ite, ↓ctl_keep, ↓ctl_keepR, ctl_mk, ctl_self, ite_self, implies_true, ↓faultRecord_ctl,
          ↓rebuild_ctl, ↓raise0_ctl]; done)
    | split
    | simp only [↓ctl_ite, ↓ctl_keep, ↓ctl_keepR, ctl_mk, ctl_self, ite_self, implies_true, ↓faultRecord_ctl,
          ↓rebuild_ctl, ↓raise0_ctl]

theorem laneReturn_ctl (a1 a2 s) : ctl (laneReturn a1 a2 s) = ctl s := by
  unfold laneReturn
  repeat' first
    | (simp only [↓ctl_ite, ↓ctl_keep, ↓ctl_keepR, ctl_mk, ctl_self, ite_self, implies_true, ↓finish_ctl,
          ↓settleAfter_ctl, ↓readmitLane_ctl]; done)
    | split
    | simp only [↓ctl_ite, ↓ctl_keep, ↓ctl_keepR, ctl_mk, ctl_self, ite_self, implies_true, ↓finish_ctl,
          ↓settleAfter_ctl, ↓readmitLane_ctl]

end Sys2Proof.Machine
end

