-- ==== Sys2Proof/Laws/ControlUnits.lean ====
section
/-! SUPPORT. Operations that leave the control part of the state as it is: one lemma each, for
Assay, the link, responses, faults, power, the movers, debug and the idle cycle. -/

set_option Elab.async false

set_option linter.all false

namespace Sys2Proof.Machine

theorem freeW32s_ctl (a1 s) : ctl (freeW32s a1 s).2 = ctl s := by
  unfold freeW32s
  repeat' first
    | (simp only [↓ctl_ite, ↓ctl_keep, ↓ctl_keepR, ctl_mk, ctl_self, ite_self, implies_true]; done)
    | split
    | simp only [↓ctl_ite, ↓ctl_keep, ↓ctl_keepR, ctl_mk, ctl_self, ite_self, implies_true]

theorem tapProtocol_ctl (a1 a2 s) : ctl (tapProtocol a1 a2 s) = ctl s := by
  unfold tapProtocol
  repeat' first
    | (simp only [↓ctl_ite, ↓ctl_keep, ↓ctl_keepR, ctl_mk, ctl_self, ite_self, implies_true, ↓raise0_ctl]; done)
    | split
    | simp only [↓ctl_ite, ↓ctl_keep, ↓ctl_keepR, ctl_mk, ctl_self, ite_self, implies_true, ↓raise0_ctl]

theorem onTiles_ctl (a1 s) : ctl (onTiles a1 s) = ctl s := by
  unfold onTiles
  repeat' first
    | (simp only [↓ctl_ite, ↓ctl_keep, ↓ctl_keepR, ctl_mk, ctl_self, ite_self, implies_true]; done)
    | split
    | simp only [↓ctl_ite, ↓ctl_keep, ↓ctl_keepR, ctl_mk, ctl_self, ite_self, implies_true]

theorem driveTiles_ctl (a1 s) : ctl (driveTiles a1 s).2 = ctl s := by
  fun_induction driveTiles a1 s <;>
    repeat' first
      | (simp +zetaDelta only [*, ↓ctl_ite, ↓ctl_keep, ↓ctl_keepR, ctl_mk, ctl_self, ite_self, implies_true,
            ↓assayCount_ctl]; done)
      | split
      | simp +zetaDelta only [*, ↓ctl_ite, ↓ctl_keep, ↓ctl_keepR, ctl_mk, ctl_self, ite_self, implies_true,
            ↓assayCount_ctl]

theorem settleTiles_ctl (s) : ctl (settleTiles s) = ctl s := by
  unfold settleTiles
  repeat' first
    | (simp only [↓ctl_ite, ↓ctl_keep, ↓ctl_keepR, ctl_mk, ctl_self, ite_self, implies_true, ↓driveTiles_ctl]; done)
    | split
    | simp only [↓ctl_ite, ↓ctl_keep, ↓ctl_keepR, ctl_mk, ctl_self, ite_self, implies_true, ↓driveTiles_ctl]

theorem nameHandle_ctl (a1 s) : ctl (nameHandle a1 s) = ctl s := by
  unfold nameHandle
  repeat' first
    | (simp only [↓ctl_ite, ↓ctl_keep, ↓ctl_keepR, ctl_mk, ctl_self, ite_self, implies_true]; done)
    | split
    | simp only [↓ctl_ite, ↓ctl_keep, ↓ctl_keepR, ctl_mk, ctl_self, ite_self, implies_true]

theorem loadWord_ctl (a1 a2 s) : ctl (loadWord a1 a2 s) = ctl s := by
  unfold loadWord
  repeat' first
    | (simp only [↓ctl_ite, ↓ctl_keep, ↓ctl_keepR, ctl_mk, ctl_self, ite_self, implies_true, ↓onTiles_ctl,
          ↓nameHandle_ctl, ↓tapProtocol_ctl, ↓settleTiles_ctl]; done)
    | split
    | simp only [↓ctl_ite, ↓ctl_keep, ↓ctl_keepR, ctl_mk, ctl_self, ite_self, implies_true, ↓onTiles_ctl,
          ↓nameHandle_ctl, ↓tapProtocol_ctl, ↓settleTiles_ctl]

theorem weightExponents_ctl (a1 a2 s) : ctl (weightExponents a1 a2 s) = ctl s := by
  unfold weightExponents
  repeat' first
    | (simp only [↓ctl_ite, ↓ctl_keep, ↓ctl_keepR, ctl_mk, ctl_self, ite_self, implies_true]; done)
    | split
    | simp only [↓ctl_ite, ↓ctl_keep, ↓ctl_keepR, ctl_mk, ctl_self, ite_self, implies_true]

theorem loadDone_ctl (a1 s) : ctl (loadDone a1 s) = ctl s := by
  unfold loadDone
  repeat' first
    | (simp only [↓ctl_ite, ↓ctl_keep, ↓ctl_keepR, ctl_mk, ctl_self, ite_self, implies_true, ↓lanesWrite_ctl,
          ↓raise0_ctl, ↓assayCount_ctl]; done)
    | split
    | simp only [↓ctl_ite, ↓ctl_keep, ↓ctl_keepR, ctl_mk, ctl_self, ite_self, implies_true, ↓lanesWrite_ctl,
          ↓raise0_ctl, ↓assayCount_ctl]

theorem weightRow_ctl (a1 a2 s) : ctl (weightRow a1 a2 s) = ctl s := by
  unfold weightRow
  repeat' first
    | (simp only [↓ctl_ite, ↓ctl_keep, ↓ctl_keepR, ctl_mk, ctl_self, ite_self, implies_true, ↓loadDone_ctl]; done)
    | split
    | simp only [↓ctl_ite, ↓ctl_keep, ↓ctl_keepR, ctl_mk, ctl_self, ite_self, implies_true, ↓loadDone_ctl]

theorem weightData_ctl (a1 s) : ctl (weightData a1 s) = ctl s := by
  unfold weightData
  repeat' first
    | (simp only [↓ctl_ite, ↓ctl_keep, ↓ctl_keepR, ctl_mk, ctl_self, ite_self, implies_true, ↓freeW32s_ctl,
          ↓weightRow_ctl]; done)
    | split
    | simp only [↓ctl_ite, ↓ctl_keep, ↓ctl_keepR, ctl_mk, ctl_self, ite_self, implies_true, ↓freeW32s_ctl,
          ↓weightRow_ctl]

theorem closeOpen_ctl (s) : ctl (closeOpen s) = ctl s := by
  unfold closeOpen
  repeat' first
    | (simp only [↓ctl_ite, ↓ctl_keep, ↓ctl_keepR, ctl_mk, ctl_self, ite_self, implies_true, ↓onTiles_ctl,
          ↓tapProtocol_ctl, ↓settleTiles_ctl]; done)
    | split
    | simp only [↓ctl_ite, ↓ctl_keep, ↓ctl_keepR, ctl_mk, ctl_self, ite_self, implies_true, ↓onTiles_ctl,
          ↓tapProtocol_ctl, ↓settleTiles_ctl]

theorem handleLost_ctl (a1 s) : ctl (handleLost a1 s) = ctl s := by
  unfold handleLost
  repeat' first
    | (simp only [↓ctl_ite, ↓ctl_keep, ↓ctl_keepR, ctl_mk, ctl_self, ite_self, implies_true, ↓settleTiles_ctl]; done)
    | split
    | simp only [↓ctl_ite, ↓ctl_keep, ↓ctl_keepR, ctl_mk, ctl_self, ite_self, implies_true, ↓settleTiles_ctl]

theorem tileStart_ctl (a1 s) : ctl (tileStart a1 s) = ctl s := by
  unfold tileStart
  repeat' first
    | (simp only [↓ctl_ite, ↓ctl_keep, ↓ctl_keepR, ctl_mk, ctl_self, ite_self, implies_true, ↓onTiles_ctl,
          ↓handleLost_ctl, ↓nameHandle_ctl, ↓readLanes_ctl, ↓tapProtocol_ctl, ↓raise0_ctl, ↓closeOpen_ctl]; done)
    | split
    | simp only [↓ctl_ite, ↓ctl_keep, ↓ctl_keepR, ctl_mk, ctl_self, ite_self, implies_true, ↓onTiles_ctl,
          ↓handleLost_ctl, ↓nameHandle_ctl, ↓readLanes_ctl, ↓tapProtocol_ctl, ↓raise0_ctl, ↓closeOpen_ctl]

theorem addRow_ctl (a1 a2 a3 a4 a5 s) : ctl (addRow a1 a2 a3 a4 a5 s).2 = ctl s := by
  unfold addRow
  repeat' first
    | (simp only [↓ctl_ite, ↓ctl_keep, ↓ctl_keepR, ctl_mk, ctl_self, ite_self, implies_true, ↓freeW32s_ctl]; done)
    | split
    | simp only [↓ctl_ite, ↓ctl_keep, ↓ctl_keepR, ctl_mk, ctl_self, ite_self, implies_true, ↓freeW32s_ctl]

theorem operandRow_ctl (a1 a2 a3 s) : ctl (operandRow a1 a2 a3 s) = ctl s := by
  unfold operandRow
  repeat' first
    | (simp only [↓ctl_ite, ↓ctl_keep, ↓ctl_keepR, ctl_mk, ctl_self, ite_self, implies_true, ↓onTiles_ctl,
          ↓addRow_ctl]; done)
    | split
    | simp only [↓ctl_ite, ↓ctl_keep, ↓ctl_keepR, ctl_mk, ctl_self, ite_self, implies_true, ↓onTiles_ctl, ↓addRow_ctl]

theorem mismatch_ctl (a1 a2 a3 a4 s) : ctl (mismatch a1 a2 a3 a4 s) = ctl s := by
  unfold mismatch
  repeat' first
    | (simp only [↓ctl_ite, ↓ctl_keep, ↓ctl_keepR, ctl_mk, ctl_self, ite_self, implies_true, ↓raise0_ctl]; done)
    | split
    | simp only [↓ctl_ite, ↓ctl_keep, ↓ctl_keepR, ctl_mk, ctl_self, ite_self, implies_true, ↓raise0_ctl]

theorem sliceGone_ctl (a1 a2 s) : ctl (sliceGone a1 a2 s) = ctl s := by
  unfold sliceGone
  repeat' first
    | (simp only [↓ctl_ite, ↓ctl_keep, ↓ctl_keepR, ctl_mk, ctl_self, ite_self, implies_true, ↓raise0_ctl]; done)
    | split
    | simp only [↓ctl_ite, ↓ctl_keep, ↓ctl_keepR, ctl_mk, ctl_self, ite_self, implies_true, ↓raise0_ctl]

theorem dropFailed_ctl (a1 s) : ctl (dropFailed a1 s) = ctl s := by
  unfold dropFailed
  repeat' first
    | (simp only [↓ctl_ite, ↓ctl_keep, ↓ctl_keepR, ctl_mk, ctl_self, ite_self, implies_true]; done)
    | split
    | simp only [↓ctl_ite, ↓ctl_keep, ↓ctl_keepR, ctl_mk, ctl_self, ite_self, implies_true]

theorem firstFail_ctl (a1 a2 s) : ctl (firstFail a1 a2 s) = ctl s := by
  unfold firstFail
  repeat' first
    | (simp only [↓ctl_ite, ↓ctl_keep, ↓ctl_keepR, ctl_mk, ctl_self, ite_self, implies_true, ↓mismatch_ctl,
          ↓dropFailed_ctl, ↓assayCount_ctl]; done)
    | split
    | simp only [↓ctl_ite, ↓ctl_keep, ↓ctl_keepR, ctl_mk, ctl_self, ite_self, implies_true, ↓mismatch_ctl,
          ↓dropFailed_ctl, ↓assayCount_ctl]

theorem computeOn_ctl (a1 a2 a3 a4 s) : ctl (computeOn a1 a2 a3 a4 s).2 = ctl s := by
  unfold computeOn
  repeat' first
    | (simp only [↓ctl_ite, ↓ctl_keep, ↓ctl_keepR, ctl_mk, ctl_self, ite_self, implies_true, ↓freeW32s_ctl]; done)
    | split
    | simp only [↓ctl_ite, ↓ctl_keep, ↓ctl_keepR, ctl_mk, ctl_self, ite_self, implies_true, ↓freeW32s_ctl]

theorem persistent_ctl (a1 a2 s) : ctl (persistent a1 a2 s).2 = ctl s := by
  unfold persistent
  repeat' first
    | (simp only [↓ctl_ite, ↓ctl_keep, ↓ctl_keepR, ctl_mk, ctl_self, ite_self, implies_true, ↓mismatch_ctl,
          ↓assayCount_ctl]; done)
    | split
    | simp only [↓ctl_ite, ↓ctl_keep, ↓ctl_keepR, ctl_mk, ctl_self, ite_self, implies_true, ↓mismatch_ctl,
          ↓assayCount_ctl]

theorem recompute_ctl (a1 a2 s) : ctl (recompute a1 a2 s).2 = ctl s := by
  unfold recompute
  repeat' first
    | (simp only [↓ctl_ite, ↓ctl_keep, ↓ctl_keepR, ctl_mk, ctl_self, ite_self, implies_true, ↓sliceGone_ctl,
          ↓each_ctl, ↓computeOn_ctl]; done)
    | split
    | simp only [↓ctl_ite, ↓ctl_keep, ↓ctl_keepR, ctl_mk, ctl_self, ite_self, implies_true, ↓sliceGone_ctl,
          ↓each_ctl, ↓computeOn_ctl]

theorem stillFailing_ctl (a1 a2 s) : ctl (stillFailing a1 a2 s).2 = ctl s := by
  fun_induction stillFailing a1 a2 s <;>
    repeat' first
      | (simp +zetaDelta only [*, ↓ctl_ite, ↓ctl_keep, ↓ctl_keepR, ctl_mk, ctl_self, ite_self, implies_true,
            ↓recompute_ctl]; done)
      | split
      | simp +zetaDelta only [*, ↓ctl_ite, ↓ctl_keep, ↓ctl_keepR, ctl_mk, ctl_self, ite_self, implies_true,
            ↓recompute_ctl]

theorem atLimit_ctl (a1 s) : ctl (atLimit a1 s).2 = ctl s := by
  unfold atLimit
  repeat' first
    | (simp only [↓ctl_ite, ↓ctl_keep, ↓ctl_keepR, ctl_mk, ctl_self, ite_self, implies_true, ↓dropFailed_ctl,
          ↓stillFailing_ctl, ↓persistent_ctl]; done)
    | split
    | simp only [↓ctl_ite, ↓ctl_keep, ↓ctl_keepR, ctl_mk, ctl_self, ite_self, implies_true, ↓dropFailed_ctl,
          ↓stillFailing_ctl, ↓persistent_ctl]

theorem rowVerdict_ctl (a1 s) : ctl (rowVerdict a1 s).2 = ctl s := by
  unfold rowVerdict
  repeat' first
    | (simp only [↓ctl_ite, ↓ctl_keep, ↓ctl_keepR, ctl_mk, ctl_self, ite_self, implies_true, ↓mismatch_ctl,
          ↓dropFailed_ctl, ↓atLimit_ctl, ↓firstFail_ctl, ↓assayCount_ctl]; done)
    | split
    | simp only [↓ctl_ite, ↓ctl_keep, ↓ctl_keepR, ctl_mk, ctl_self, ite_self, implies_true, ↓mismatch_ctl,
          ↓dropFailed_ctl, ↓atLimit_ctl, ↓firstFail_ctl, ↓assayCount_ctl]

theorem dualCheck_ctl (a1 s) : ctl (dualCheck a1 s).2 = ctl s := by
  unfold dualCheck
  repeat' first
    | (simp only [↓ctl_ite, ↓ctl_keep, ↓ctl_keepR, ctl_mk, ctl_self, ite_self, implies_true, ↓tapProtocol_ctl]; done)
    | split
    | simp only [↓ctl_ite, ↓ctl_keep, ↓ctl_keepR, ctl_mk, ctl_self, ite_self, implies_true, ↓tapProtocol_ctl]

theorem decideTile_ctl (a1 s) : ctl (decideTile a1 s) = ctl s := by
  unfold decideTile
  repeat' first
    | (simp only [↓ctl_ite, ↓ctl_keep, ↓ctl_keepR, ctl_mk, ctl_self, ite_self, implies_true, ↓onTiles_ctl,
          ↓dropFailed_ctl, ↓dualCheck_ctl, ↓raise0_ctl, ↓settleTiles_ctl, ↓rowVerdict_ctl, ↓assayCount_ctl]; done)
    | split
    | simp only [↓ctl_ite, ↓ctl_keep, ↓ctl_keepR, ctl_mk, ctl_self, ite_self, implies_true, ↓onTiles_ctl,
          ↓dropFailed_ctl, ↓dualCheck_ctl, ↓raise0_ctl, ↓settleTiles_ctl, ↓rowVerdict_ctl, ↓assayCount_ctl]

theorem tileEnd_ctl (a1 s) : ctl (tileEnd a1 s) = ctl s := by
  unfold tileEnd
  repeat' first
    | (simp only [↓ctl_ite, ↓ctl_keep, ↓ctl_keepR, ctl_mk, ctl_self, ite_self, implies_true, ↓decideTile_ctl,
          ↓onTiles_ctl, ↓tapProtocol_ctl, ↓settleTiles_ctl]; done)
    | split
    | simp only [↓ctl_ite, ↓ctl_keep, ↓ctl_keepR, ctl_mk, ctl_self, ite_self, implies_true, ↓decideTile_ctl,
          ↓onTiles_ctl, ↓tapProtocol_ctl, ↓settleTiles_ctl]

theorem badGroup_ctl (a1 a2 a3 a4 a5 a6 s) : ctl (badGroup a1 a2 a3 a4 a5 a6 s).2 = ctl s := by
  fun_induction badGroup a1 a2 a3 a4 a5 a6 s <;>
    repeat' first
      | (simp +zetaDelta only [*, ↓ctl_ite, ↓ctl_keep, ↓ctl_keepR, ctl_mk, ctl_self, ite_self, implies_true,
            ↓computeOn_ctl]; done)
      | split
      | simp +zetaDelta only [*, ↓ctl_ite, ↓ctl_keep, ↓ctl_keepR, ctl_mk, ctl_self, ite_self, implies_true,
            ↓computeOn_ctl]

theorem compareRow_ctl (a1 a2 a3 s) : ctl (compareRow a1 a2 a3 s).2 = ctl s := by
  unfold compareRow
  repeat' first
    | (simp only [↓ctl_ite, ↓ctl_keep, ↓ctl_keepR, ctl_mk, ctl_self, ite_self, implies_true, ↓badGroup_ctl,
          ↓computeOn_ctl]; done)
    | split
    | simp only [↓ctl_ite, ↓ctl_keep, ↓ctl_keepR, ctl_mk, ctl_self, ite_self, implies_true, ↓badGroup_ctl,
          ↓computeOn_ctl]

theorem surplusSum_ctl (s) : ctl (surplusSum s) = ctl s := by
  unfold surplusSum
  repeat' first
    | (simp only [↓ctl_ite, ↓ctl_keep, ↓ctl_keepR, ctl_mk, ctl_self, ite_self, implies_true, ↓onTiles_ctl,
          ↓tapProtocol_ctl]; done)
    | split
    | simp only [↓ctl_ite, ↓ctl_keep, ↓ctl_keepR, ctl_mk, ctl_self, ite_self, implies_true, ↓onTiles_ctl,
          ↓tapProtocol_ctl]

theorem rowSum_ctl (a1 a2 s) : ctl (rowSum a1 a2 s) = ctl s := by
  unfold rowSum
  repeat' first
    | (simp only [↓ctl_ite, ↓ctl_keep, ↓ctl_keepR, ctl_mk, ctl_self, ite_self, implies_true, ↓decideTile_ctl,
          ↓onTiles_ctl, ↓surplusSum_ctl, ↓settleTiles_ctl, ↓compareRow_ctl]; done)
    | split
    | simp only [↓ctl_ite, ↓ctl_keep, ↓ctl_keepR, ctl_mk, ctl_self, ite_self, implies_true, ↓decideTile_ctl,
          ↓onTiles_ctl, ↓surplusSum_ctl, ↓settleTiles_ctl, ↓compareRow_ctl]

theorem poolHeader_ctl (a1 s) : ctl (poolHeader a1 s) = ctl s := by
  unfold poolHeader
  repeat' first
    | (simp only [↓ctl_ite, ↓ctl_keep, ↓ctl_keepR, ctl_mk, ctl_self, ite_self, implies_true]; done)
    | split
    | simp only [↓ctl_ite, ↓ctl_keep, ↓ctl_keepR, ctl_mk, ctl_self, ite_self, implies_true]

theorem askBag_ctl (a1 a2 s) : ctl (askBag a1 a2 s) = ctl s := by
  unfold askBag
  repeat' first
    | (simp only [↓ctl_ite, ↓ctl_keep, ↓ctl_keepR, ctl_mk, ctl_self, ite_self, implies_true, ↓openTable_ctl,
          ↓each_ctl, ↓fetchCv_ctl]; done)
    | split
    | simp only [↓ctl_ite, ↓ctl_keep, ↓ctl_keepR, ctl_mk, ctl_self, ite_self, implies_true, ↓openTable_ctl,
          ↓each_ctl, ↓fetchCv_ctl]

theorem poolIndices_ctl (a1 s) : ctl (poolIndices a1 s) = ctl s := by
  unfold poolIndices
  repeat' first
    | (simp only [↓ctl_ite, ↓ctl_keep, ↓ctl_keepR, ctl_mk, ctl_self, ite_self, implies_true, ↓askBag_ctl]; done)
    | split
    | simp only [↓ctl_ite, ↓ctl_keep, ↓ctl_keepR, ctl_mk, ctl_self, ite_self, implies_true, ↓askBag_ctl]

theorem pooledVector_ctl (a1 a2 s) : ctl (pooledVector a1 a2 s) = ctl s := by
  unfold pooledVector
  repeat' first
    | (simp only [↓ctl_ite, ↓ctl_keep, ↓ctl_keepR, ctl_mk, ctl_self, ite_self, implies_true]; done)
    | split
    | simp only [↓ctl_ite, ↓ctl_keep, ↓ctl_keepR, ctl_mk, ctl_self, ite_self, implies_true]

theorem poolCheck_ctl (s) : ctl (poolCheck s) = ctl s := by
  unfold poolCheck
  repeat' first
    | (simp only [↓ctl_ite, ↓ctl_keep, ↓ctl_keepR, ctl_mk, ctl_self, ite_self, implies_true, ↓raise0_ctl,
          ↓askBag_ctl, ↓assayCount_ctl]; done)
    | split
    | simp only [↓ctl_ite, ↓ctl_keep, ↓ctl_keepR, ctl_mk, ctl_self, ite_self, implies_true, ↓raise0_ctl,
          ↓askBag_ctl, ↓assayCount_ctl]

theorem sendCtl_ctl (a1 a2 s) : ctl (sendCtl a1 a2 s) = ctl s := by
  unfold sendCtl
  repeat' first
    | (simp only [↓ctl_ite, ↓ctl_keep, ↓ctl_keepR, ctl_mk, ctl_self, ite_self, implies_true, ↓onPort_ctl]; done)
    | split
    | simp only [↓ctl_ite, ↓ctl_keep, ↓ctl_keepR, ctl_mk, ctl_self, ite_self, implies_true, ↓onPort_ctl]

theorem trainLane_ctl (a1 a2 a3 s) : ctl (trainLane a1 a2 a3 s) = ctl s := by
  unfold trainLane
  repeat' first
    | (simp only [↓ctl_ite, ↓ctl_keep, ↓ctl_keepR, ctl_mk, ctl_self, ite_self, implies_true, ↓retire_ctl,
          ↓onPort_ctl]; done)
    | split
    | simp only [↓ctl_ite, ↓ctl_keep, ↓ctl_keepR, ctl_mk, ctl_self, ite_self, implies_true, ↓retire_ctl, ↓onPort_ctl]

theorem phyTrained_ctl (a1 a2 s) : ctl (phyTrained a1 a2 s) = ctl s := by
  unfold phyTrained
  repeat' first
    | (simp only [↓ctl_ite, ↓ctl_keep, ↓ctl_keepR, ctl_mk, ctl_self, ite_self, implies_true, ↓trainLane_ctl,
          ↓each_ctl, ↓onPort_ctl]; done)
    | split
    | simp only [↓ctl_ite, ↓ctl_keep, ↓ctl_keepR, ctl_mk, ctl_self, ite_self, implies_true, ↓trainLane_ctl,
          ↓each_ctl, ↓onPort_ctl]

theorem codewordsLost_ctl (a1 a2 s) : ctl (codewordsLost a1 a2 s) = ctl s := by
  unfold codewordsLost
  repeat' first
    | (simp only [↓ctl_ite, ↓ctl_keep, ↓ctl_keepR, ctl_mk, ctl_self, ite_self, implies_true, ↓retire_ctl,
          ↓onPort_ctl]; done)
    | split
    | simp only [↓ctl_ite, ↓ctl_keep, ↓ctl_keepR, ctl_mk, ctl_self, ite_self, implies_true, ↓retire_ctl, ↓onPort_ctl]

theorem lockChange_ctl (a1 a2 a3 s) : ctl (lockChange a1 a2 a3 s) = ctl s := by
  unfold lockChange
  repeat' first
    | (simp only [↓ctl_ite, ↓ctl_keep, ↓ctl_keepR, ctl_mk, ctl_self, ite_self, implies_true, ↓linkDown_ctl,
          ↓codewordsLost_ctl, ↓onPort_ctl]; done)
    | split
    | simp only [↓ctl_ite, ↓ctl_keep, ↓ctl_keepR, ctl_mk, ctl_self, ite_self, implies_true, ↓linkDown_ctl,
          ↓codewordsLost_ctl, ↓onPort_ctl]

theorem sendLctl_ctl (a1 a2 s) : ctl (sendLctl a1 a2 s) = ctl s := by
  unfold sendLctl
  repeat' first
    | (simp only [↓ctl_ite, ↓ctl_keep, ↓ctl_keepR, ctl_mk, ctl_self, ite_self, implies_true, ↓onPort_ctl]; done)
    | split
    | simp only [↓ctl_ite, ↓ctl_keep, ↓ctl_keepR, ctl_mk, ctl_self, ite_self, implies_true, ↓onPort_ctl]

theorem linkUp_ctl (a1 s) : ctl (linkUp a1 s) = ctl s := by
  unfold linkUp
  repeat' first
    | (simp only [↓ctl_ite, ↓ctl_keep, ↓ctl_keepR, ctl_mk, ctl_self, ite_self, implies_true, ↓raise0_ctl,
          ↓helloPort_ctl, ↓onPort_ctl]; done)
    | split
    | simp only [↓ctl_ite, ↓ctl_keep, ↓ctl_keepR, ctl_mk, ctl_self, ite_self, implies_true, ↓raise0_ctl,
          ↓helloPort_ctl, ↓onPort_ctl]

theorem firstBlock_ctl (a1 s) : ctl (firstBlock a1 s) = ctl s := by
  unfold firstBlock
  repeat' first
    | (simp only [↓ctl_ite, ↓ctl_keep, ↓ctl_keepR, ctl_mk, ctl_self, ite_self, implies_true, ↓linkUp_ctl]; done)
    | split
    | simp only [↓ctl_ite, ↓ctl_keep, ↓ctl_keepR, ctl_mk, ctl_self, ite_self, implies_true, ↓linkUp_ctl]

theorem sendLinit_ctl (a1 s) : ctl (sendLinit a1 s) = ctl s := by
  unfold sendLinit
  repeat' first
    | (simp only [↓ctl_ite, ↓ctl_keep, ↓ctl_keepR, ctl_mk, ctl_self, ite_self, implies_true, ↓sendCtl_ctl]; done)
    | split
    | simp only [↓ctl_ite, ↓ctl_keep, ↓ctl_keepR, ctl_mk, ctl_self, ite_self, implies_true, ↓sendCtl_ctl]

theorem linit_ctl (a1 a2 s) : ctl (linit a1 a2 s) = ctl s := by
  unfold linit
  repeat' first
    | (simp only [↓ctl_ite, ↓ctl_keep, ↓ctl_keepR, ctl_mk, ctl_self, ite_self, implies_true, ↓firstBlock_ctl,
          ↓sendCtl_ctl, ↓onPort_ctl]; done)
    | split
    | simp only [↓ctl_ite, ↓ctl_keep, ↓ctl_keepR, ctl_mk, ctl_self, ite_self, implies_true, ↓firstBlock_ctl,
          ↓sendCtl_ctl, ↓onPort_ctl]

theorem linitAck_ctl (a1 a2 s) : ctl (linitAck a1 a2 s) = ctl s := by
  unfold linitAck
  repeat' first
    | (simp only [↓ctl_ite, ↓ctl_keep, ↓ctl_keepR, ctl_mk, ctl_self, ite_self, implies_true, ↓onPort_ctl,
          ↓linkUp_ctl]; done)
    | split
    | simp only [↓ctl_ite, ↓ctl_keep, ↓ctl_keepR, ctl_mk, ctl_self, ite_self, implies_true, ↓onPort_ctl, ↓linkUp_ctl]

theorem alignDone_ctl (a1 a2 s) : ctl (alignDone a1 a2 s) = ctl s := by
  unfold alignDone
  repeat' first
    | (simp only [↓ctl_ite, ↓ctl_keep, ↓ctl_keepR, ctl_mk, ctl_self, ite_self, implies_true, ↓raise0_ctl,
          ↓onPort_ctl]; done)
    | split
    | simp only [↓ctl_ite, ↓ctl_keep, ↓ctl_keepR, ctl_mk, ctl_self, ite_self, implies_true, ↓raise0_ctl, ↓onPort_ctl]

theorem alignRx_ctl (a1 a2 a3 s) : ctl (alignRx a1 a2 a3 s) = ctl s := by
  unfold alignRx
  repeat' first
    | (simp only [↓ctl_ite, ↓ctl_keep, ↓ctl_keepR, ctl_mk, ctl_self, ite_self, implies_true, ↓firstBlock_ctl,
          ↓onPort_ctl, ↓alignDone_ctl]; done)
    | split
    | simp only [↓ctl_ite, ↓ctl_keep, ↓ctl_keepR, ctl_mk, ctl_self, ite_self, implies_true, ↓firstBlock_ctl,
          ↓onPort_ctl, ↓alignDone_ctl]

theorem alignDue_ctl (a1 s) : ctl (alignDue a1 s) = ctl s := by
  unfold alignDue
  repeat' first
    | (simp only [↓ctl_ite, ↓ctl_keep, ↓ctl_keepR, ctl_mk, ctl_self, ite_self, implies_true, ↓onPort_ctl]; done)
    | split
    | simp only [↓ctl_ite, ↓ctl_keep, ↓ctl_keepR, ctl_mk, ctl_self, ite_self, implies_true, ↓onPort_ctl]

theorem retrain_ctl (a1 s) : ctl (retrain a1 s) = ctl s := by
  unfold retrain
  repeat' first
    | (simp only [↓ctl_ite, ↓ctl_keep, ↓ctl_keepR, ctl_mk, ctl_self, ite_self, implies_true, ↓linkDown_ctl,
          ↓retire_ctl, ↓onPort_ctl]; done)
    | split
    | simp only [↓ctl_ite, ↓ctl_keep, ↓ctl_keepR, ctl_mk, ctl_self, ite_self, implies_true, ↓linkDown_ctl,
          ↓retire_ctl, ↓onPort_ctl]

theorem resend_ctl (a1 s) : ctl (resend a1 s) = ctl s := by
  unfold resend
  repeat' first
    | (simp only [↓ctl_ite, ↓ctl_keep, ↓ctl_keepR, ctl_mk, ctl_self, ite_self, implies_true, ↓onPort_ctl,
          ↓retrain_ctl]; done)
    | split
    | simp only [↓ctl_ite, ↓ctl_keep, ↓ctl_keepR, ctl_mk, ctl_self, ite_self, implies_true, ↓onPort_ctl, ↓retrain_ctl]

theorem tidingAcked_ctl (a1 s) : ctl (tidingAcked a1 s) = ctl s := by
  unfold tidingAcked
  repeat' first
    | (simp only [↓ctl_ite, ↓ctl_keep, ↓ctl_keepR, ctl_mk, ctl_self, ite_self, implies_true,
          ↓tidingSettled_ctl]; done)
    | split
    | simp only [↓ctl_ite, ↓ctl_keep, ↓ctl_keepR, ctl_mk, ctl_self, ite_self, implies_true, ↓tidingSettled_ctl]

theorem lctl_ctl (a1 a2 s) : ctl (lctl a1 a2 s) = ctl s := by
  unfold lctl
  repeat' first
    | (simp only [↓ctl_ite, ↓ctl_keep, ↓ctl_keepR, ctl_mk, ctl_self, ite_self, implies_true, ↓settleAfter_ctl,
          ↓each_ctl, ↓resend_ctl, ↓firstBlock_ctl, ↓settleDeletes_ctl, ↓tidingAcked_ctl, ↓onPort_ctl]; done)
    | split
    | simp only [↓ctl_ite, ↓ctl_keep, ↓ctl_keepR, ctl_mk, ctl_self, ite_self, implies_true, ↓settleAfter_ctl,
          ↓each_ctl, ↓resend_ctl, ↓firstBlock_ctl, ↓settleDeletes_ctl, ↓tidingAcked_ctl, ↓onPort_ctl]

theorem freeBlocks_ctl (a1 a2 s) : ctl (freeBlocks a1 a2 s) = ctl s := by
  unfold freeBlocks
  repeat' first
    | (simp only [↓ctl_ite, ↓ctl_keep, ↓ctl_keepR, ctl_mk, ctl_self, ite_self, implies_true, ↓onPort_ctl]; done)
    | split
    | simp only [↓ctl_ite, ↓ctl_keep, ↓ctl_keepR, ctl_mk, ctl_self, ite_self, implies_true, ↓onPort_ctl]

theorem acceptFrame_ctl (a1 a2 s) : ctl (acceptFrame a1 a2 s) = ctl s := by
  unfold acceptFrame
  repeat' first
    | (simp only [↓ctl_ite, ↓ctl_keep, ↓ctl_keepR, ctl_mk, ctl_self, ite_self, implies_true, ↓sendLctl_ctl,
          ↓freeBlocks_ctl, ↓onPort_ctl]; done)
    | split
    | simp only [↓ctl_ite, ↓ctl_keep, ↓ctl_keepR, ctl_mk, ctl_self, ite_self, implies_true, ↓sendLctl_ctl,
          ↓freeBlocks_ctl, ↓onPort_ctl]

theorem discardFrame_ctl (a1 s) : ctl (discardFrame a1 s) = ctl s := by
  unfold discardFrame
  repeat' first
    | (simp only [↓ctl_ite, ↓ctl_keep, ↓ctl_keepR, ctl_mk, ctl_self, ite_self, implies_true, ↓sendLctl_ctl,
          ↓onPort_ctl]; done)
    | split
    | simp only [↓ctl_ite, ↓ctl_keep, ↓ctl_keepR, ctl_mk, ctl_self, ite_self, implies_true, ↓sendLctl_ctl,
          ↓onPort_ctl]

theorem frameRx_ctl (a1 a2 a3 s) : ctl (frameRx a1 a2 a3 s) = ctl s := by
  unfold frameRx
  repeat' first
    | (simp only [↓ctl_ite, ↓ctl_keep, ↓ctl_keepR, ctl_mk, ctl_self, ite_self, implies_true, ↓acceptFrame_ctl,
          ↓discardFrame_ctl, ↓firstBlock_ctl]; done)
    | split
    | simp only [↓ctl_ite, ↓ctl_keep, ↓ctl_keepR, ctl_mk, ctl_self, ite_self, implies_true, ↓acceptFrame_ctl,
          ↓discardFrame_ctl, ↓firstBlock_ctl]

theorem countRefused_ctl (s) : ctl (countRefused s) = ctl s := by
  unfold countRefused
  repeat' first
    | (simp only [↓ctl_ite, ↓ctl_keep, ↓ctl_keepR, ctl_mk, ctl_self, ite_self, implies_true]; done)
    | split
    | simp only [↓ctl_ite, ↓ctl_keep, ↓ctl_keepR, ctl_mk, ctl_self, ite_self, implies_true]

theorem reply_ctl (a1 a2 s) : ctl (reply a1 a2 s) = ctl s := by
  unfold reply
  repeat' first
    | (simp only [↓ctl_ite, ↓ctl_keep, ↓ctl_keepR, ctl_mk, ctl_self, ite_self, implies_true, ↓send_ctl]; done)
    | split
    | simp only [↓ctl_ite, ↓ctl_keep, ↓ctl_keepR, ctl_mk, ctl_self, ite_self, implies_true, ↓send_ctl]

theorem refuseMsg_ctl (a1 a2 s) : ctl (refuseMsg a1 a2 s) = ctl s := by
  unfold refuseMsg
  repeat' first
    | (simp only [↓ctl_ite, ↓ctl_keep, ↓ctl_keepR, ctl_mk, ctl_self, ite_self, implies_true, ↓countRefused_ctl,
          ↓sendOn_ctl, ↓reply_ctl]; done)
    | split
    | simp only [↓ctl_ite, ↓ctl_keep, ↓ctl_keepR, ctl_mk, ctl_self, ite_self, implies_true, ↓countRefused_ctl,
          ↓sendOn_ctl, ↓reply_ctl]

theorem fenceDrop_ctl (a1 a2 s) : ctl (fenceDrop a1 a2 s) = ctl s := by
  unfold fenceDrop
  repeat' first
    | (simp only [↓ctl_ite, ↓ctl_keep, ↓ctl_keepR, ctl_mk, ctl_self, ite_self, implies_true, ↓sendOn_ctl,
          ↓raise0_ctl]; done)
    | split
    | simp only [↓ctl_ite, ↓ctl_keep, ↓ctl_keepR, ctl_mk, ctl_self, ite_self, implies_true, ↓sendOn_ctl, ↓raise0_ctl]

theorem hear_ctl (a1 s) : ctl (hear a1 s) = ctl s := by
  unfold hear
  repeat' first
    | (simp only [↓ctl_ite, ↓ctl_keep, ↓ctl_keepR, ctl_mk, ctl_self, ite_self, implies_true, ↓raise0_ctl]; done)
    | split
    | simp only [↓ctl_ite, ↓ctl_keep, ↓ctl_keepR, ctl_mk, ctl_self, ite_self, implies_true, ↓raise0_ctl]

theorem receive_ctl (a1 a2) (a3 : Bytes → State → State) (s) (h0 : ∀ x0 t, ctl (a3 x0 t) = ctl t) :
    ctl (receive a1 a2 a3 s) = ctl s := by
  unfold receive
  repeat' first
    | (simp only [↓ctl_ite, ↓ctl_keep, ↓ctl_keepR, ctl_mk, ctl_self, ite_self, implies_true, ↓hear_ctl,
          ↓settleAfter_ctl, ↓countRefused_ctl, ↓refuseMsg_ctl, ↓fenceDrop_ctl, ↓sendOn_ctl, ↓freeBlocks_ctl,
          ↓onPort_ctl, h0]; done)
    | split
    | simp only [↓ctl_ite, ↓ctl_keep, ↓ctl_keepR, ctl_mk, ctl_self, ite_self, implies_true, ↓hear_ctl,
          ↓settleAfter_ctl, ↓countRefused_ctl, ↓refuseMsg_ctl, ↓fenceDrop_ctl, ↓sendOn_ctl, ↓freeBlocks_ctl,
          ↓onPort_ctl, h0]

theorem keepClaim_ctl (a1 a2 a3 s) : ctl (keepClaim a1 a2 a3 s) = ctl s := by
  unfold keepClaim
  repeat' first
    | (simp only [↓ctl_ite, ↓ctl_keep, ↓ctl_keepR, ctl_mk, ctl_self, ite_self, implies_true]; done)
    | split
    | simp only [↓ctl_ite, ↓ctl_keep, ↓ctl_keepR, ctl_mk, ctl_self, ite_self, implies_true]

theorem helloRx_ctl (a1 a2 s) : ctl (helloRx a1 a2 s) = ctl s := by
  unfold helloRx
  repeat' first
    | (simp only [↓ctl_ite, ↓ctl_keep, ↓ctl_keepR, ctl_mk, ctl_self, ite_self, implies_true, ↓markConflict_ctl,
          ↓keepClaim_ctl, ↓sendOn_ctl]; done)
    | split
    | simp only [↓ctl_ite, ↓ctl_keep, ↓ctl_keepR, ctl_mk, ctl_self, ite_self, implies_true, ↓markConflict_ctl,
          ↓keepClaim_ctl, ↓sendOn_ctl]

theorem resendDurable_ctl (a1 s) : ctl (resendDurable a1 s) = ctl s := by
  unfold resendDurable
  repeat' first
    | (simp only [↓ctl_ite, ↓ctl_keep, ↓ctl_keepR, ctl_mk, ctl_self, ite_self, implies_true, ↓each_ctl,
          ↓sendDurable_ctl]; done)
    | split
    | simp only [↓ctl_ite, ↓ctl_keep, ↓ctl_keepR, ctl_mk, ctl_self, ite_self, implies_true, ↓each_ctl,
          ↓sendDurable_ctl]

theorem peerReady_ctl (a1 a2 s) : ctl (peerReady a1 a2 s) = ctl s := by
  unfold peerReady
  repeat' first
    | (simp only [↓ctl_ite, ↓ctl_keep, ↓ctl_keepR, ctl_mk, ctl_self, ite_self, implies_true, ↓raise0_ctl,
          ↓resendDurable_ctl]; done)
    | split
    | simp only [↓ctl_ite, ↓ctl_keep, ↓ctl_keepR, ctl_mk, ctl_self, ite_self, implies_true, ↓raise0_ctl,
          ↓resendDurable_ctl]

theorem helloAckRx_ctl (a1 a2 s) : ctl (helloAckRx a1 a2 s) = ctl s := by
  unfold helloAckRx
  repeat' first
    | (simp only [↓ctl_ite, ↓ctl_keep, ↓ctl_keepR, ctl_mk, ctl_self, ite_self, implies_true, ↓markConflict_ctl,
          ↓keepClaim_ctl, ↓peerReady_ctl]; done)
    | split
    | simp only [↓ctl_ite, ↓ctl_keep, ↓ctl_keepR, ctl_mk, ctl_self, ite_self, implies_true, ↓markConflict_ctl,
          ↓keepClaim_ctl, ↓peerReady_ctl]

theorem helloRepeat_ctl (a1 s) : ctl (helloRepeat a1 s) = ctl s := by
  unfold helloRepeat
  repeat' first
    | (simp only [↓ctl_ite, ↓ctl_keep, ↓ctl_keepR, ctl_mk, ctl_self, ite_self, implies_true, ↓sendHello_ctl]; done)
    | split
    | simp only [↓ctl_ite, ↓ctl_keep, ↓ctl_keepR, ctl_mk, ctl_self, ite_self, implies_true, ↓sendHello_ctl]

theorem fencedBy_ctl (a1 s) : ctl (fencedBy a1 s) = ctl s := by
  unfold fencedBy
  repeat' first
    | (simp only [↓ctl_ite, ↓ctl_keep, ↓ctl_keepR, ctl_mk, ctl_self, ite_self, implies_true, ↓enterFenced_ctl]; done)
    | split
    | simp only [↓ctl_ite, ↓ctl_keep, ↓ctl_keepR, ctl_mk, ctl_self, ite_self, implies_true, ↓enterFenced_ctl]

theorem vaultOpenRx_ctl (a1 s) : ctl (vaultOpenRx a1 s) = ctl s := by
  unfold vaultOpenRx
  repeat' first
    | (simp only [↓ctl_ite, ↓ctl_keep, ↓ctl_keepR, ctl_mk, ctl_self, ite_self, implies_true, ↓reply_ctl]; done)
    | split
    | simp only [↓ctl_ite, ↓ctl_keep, ↓ctl_keepR, ctl_mk, ctl_self, ite_self, implies_true, ↓reply_ctl]

theorem vaultCloseRx_ctl (a1 s) : ctl (vaultCloseRx a1 s) = ctl s := by
  unfold vaultCloseRx
  repeat' first
    | (simp only [↓ctl_ite, ↓ctl_keep, ↓ctl_keepR, ctl_mk, ctl_self, ite_self, implies_true, ↓reply_ctl]; done)
    | split
    | simp only [↓ctl_ite, ↓ctl_keep, ↓ctl_keepR, ctl_mk, ctl_self, ite_self, implies_true, ↓reply_ctl]

theorem answered_ctl (a1 a2) (a3 : Req → State → State) (s) (h0 : ∀ x0 t, ctl (a3 x0 t) = ctl t) :
    ctl (answered a1 a2 a3 s) = ctl s := by
  unfold answered
  repeat' first
    | (simp only [↓ctl_ite, ↓ctl_keep, ↓ctl_keepR, ctl_mk, ctl_self, ite_self, implies_true, h0]; done)
    | split
    | simp only [↓ctl_ite, ↓ctl_keep, ↓ctl_keepR, ctl_mk, ctl_self, ite_self, implies_true, h0]

theorem replyDetail_ctl (a1 s) : ctl (replyDetail a1 s).2 = ctl s := by
  unfold replyDetail
  repeat' first
    | (simp only [↓ctl_ite, ↓ctl_keep, ↓ctl_keepR, ctl_mk, ctl_self, ite_self, implies_true]; done)
    | split
    | simp only [↓ctl_ite, ↓ctl_keep, ↓ctl_keepR, ctl_mk, ctl_self, ite_self, implies_true]

theorem vaultReplyRx_ctl (a1 s) : ctl (vaultReplyRx a1 s) = ctl s := by
  unfold vaultReplyRx
  repeat' first
    | (simp only [↓ctl_ite, ↓ctl_keep, ↓ctl_keepR, ctl_mk, ctl_self, ite_self, implies_true, ↓answered_ctl,
          ↓vaultReplied_ctl, ↓replyDetail_ctl]; done)
    | intro _
    | refine (answered_ctl _ _ _ _ ?_).trans ?_
    | split
    | simp only [↓ctl_ite, ↓ctl_keep, ↓ctl_keepR, ctl_mk, ctl_self, ite_self, implies_true, ↓answered_ctl,
          ↓vaultReplied_ctl, ↓replyDetail_ctl]

theorem sectorAck_ctl (a1 a2 a3 s) : ctl (sectorAck a1 a2 a3 s) = ctl s := by
  unfold sectorAck
  repeat' first
    | (simp only [↓ctl_ite, ↓ctl_keep, ↓ctl_keepR, ctl_mk, ctl_self, ite_self, implies_true, ↓send_ctl]; done)
    | split
    | simp only [↓ctl_ite, ↓ctl_keep, ↓ctl_keepR, ctl_mk, ctl_self, ite_self, implies_true, ↓send_ctl]

theorem sectorWriteRx_ctl (a1 s) : ctl (sectorWriteRx a1 s) = ctl s := by
  unfold sectorWriteRx
  repeat' first
    | (simp only [↓ctl_ite, ↓ctl_keep, ↓ctl_keepR, ctl_mk, ctl_self, ite_self, implies_true, ↓each_ctl,
          ↓hbSector_ctl, ↓sectorAck_ctl, ↓reply_ctl]; done)
    | split
    | simp only [↓ctl_ite, ↓ctl_keep, ↓ctl_keepR, ctl_mk, ctl_self, ite_self, implies_true, ↓each_ctl,
          ↓hbSector_ctl, ↓sectorAck_ctl, ↓reply_ctl]

theorem peerSecDone_ctl (a1 a2 a3 a4 s) : ctl (peerSecDone a1 a2 a3 a4 s) = ctl s := by
  unfold peerSecDone
  repeat' first
    | (simp only [↓ctl_ite, ↓ctl_keep, ↓ctl_keepR, ctl_mk, ctl_self, ite_self, implies_true, ↓sectorAck_ctl]; done)
    | split
    | simp only [↓ctl_ite, ↓ctl_keep, ↓ctl_keepR, ctl_mk, ctl_self, ite_self, implies_true, ↓sectorAck_ctl]

theorem requestLost_ctl (a1 a2 s) : ctl (requestLost a1 a2 s) = ctl s := by
  unfold requestLost
  repeat' first
    | (simp only [↓ctl_ite, ↓ctl_keep, ↓ctl_keepR, ctl_mk, ctl_self, ite_self, implies_true, ↓finish_ctl,
          ↓abandonEpoch_ctl, ↓endCmds_ctl, ↓stopCmd_ctl]; done)
    | split
    | simp only [↓ctl_ite, ↓ctl_keep, ↓ctl_keepR, ctl_mk, ctl_self, ite_self, implies_true, ↓finish_ctl,
          ↓abandonEpoch_ctl, ↓endCmds_ctl, ↓stopCmd_ctl]

theorem reqSectorAcked_ctl (a1 a2 s) : ctl (reqSectorAcked a1 a2 s) = ctl s := by
  unfold reqSectorAcked
  repeat' first
    | (simp only [↓ctl_ite, ↓ctl_keep, ↓ctl_keepR, ctl_mk, ctl_self, ite_self, implies_true, ↓sealed_ctl,
          ↓sealListAcked_ctl, ↓ackSector_ctl]; done)
    | split
    | simp only [↓ctl_ite, ↓ctl_keep, ↓ctl_keepR, ctl_mk, ctl_self, ite_self, implies_true, ↓sealed_ctl,
          ↓sealListAcked_ctl, ↓ackSector_ctl]

theorem resendSectors_ctl (a1 a2 s) : ctl (resendSectors a1 a2 s) = ctl s := by
  unfold resendSectors
  repeat' first
    | (simp only [↓ctl_ite, ↓ctl_keep, ↓ctl_keepR, ctl_mk, ctl_self, ite_self, implies_true, ↓requestLost_ctl,
          ↓each_ctl, ↓request_ctl]; done)
    | split
    | simp only [↓ctl_ite, ↓ctl_keep, ↓ctl_keepR, ctl_mk, ctl_self, ite_self, implies_true, ↓requestLost_ctl,
          ↓each_ctl, ↓request_ctl]

theorem sectorAckRx_ctl (a1 s) : ctl (sectorAckRx a1 s) = ctl s := by
  unfold sectorAckRx
  repeat' first
    | (simp only [↓ctl_ite, ↓ctl_keep, ↓ctl_keepR, ctl_mk, ctl_self, ite_self, implies_true, ↓reqSectorAcked_ctl,
          ↓requestLost_ctl, ↓each_ctl, ↓answered_ctl, ↓resendSectors_ctl]; done)
    | split
    | simp only [↓ctl_ite, ↓ctl_keep, ↓ctl_keepR, ctl_mk, ctl_self, ite_self, implies_true, ↓reqSectorAcked_ctl,
          ↓requestLost_ctl, ↓each_ctl, ↓answered_ctl, ↓resendSectors_ctl]

theorem sectorReadRx_ctl (a1 a2 s) : ctl (sectorReadRx a1 a2 s) = ctl s := by
  unfold sectorReadRx
  repeat' first
    | (simp only [↓ctl_ite, ↓ctl_keep, ↓ctl_keepR, ctl_mk, ctl_self, ite_self, implies_true, ↓readCtl_ctl,
          ↓each_ctl, ↓reply_ctl]; done)
    | split
    | simp only [↓ctl_ite, ↓ctl_keep, ↓ctl_keepR, ctl_mk, ctl_self, ite_self, implies_true, ↓readCtl_ctl,
          ↓each_ctl, ↓reply_ctl]

theorem sectorDataRx_ctl (a1 s) : ctl (sectorDataRx a1 s) = ctl s := by
  unfold sectorDataRx
  repeat' first
    | (simp only [↓ctl_ite, ↓ctl_keep, ↓ctl_keepR, ctl_mk, ctl_self, ite_self, implies_true, ↓each_ctl,
          ↓sectorArrives_ctl, ↓answered_ctl, ↓keepSector_ctl]; done)
    | split
    | simp only [↓ctl_ite, ↓ctl_keep, ↓ctl_keepR, ctl_mk, ctl_self, ite_self, implies_true, ↓each_ctl,
          ↓sectorArrives_ctl, ↓answered_ctl, ↓keepSector_ctl]

theorem withChecks_ctl (a1) (a2 : State → State) (s) (h0 : ∀ t, ctl (a2 t) = ctl t) :
    ctl (withChecks a1 a2 s) = ctl s := by
  unfold withChecks
  repeat' first
    | (simp only [↓ctl_ite, ↓ctl_keep, ↓ctl_keepR, ctl_mk, ctl_self, ite_self, implies_true, h0]; done)
    | split
    | simp only [↓ctl_ite, ↓ctl_keep, ↓ctl_keepR, ctl_mk, ctl_self, ite_self, implies_true, h0]

theorem digestIn_ctl (a1 a2 s) : ctl (digestIn a1 a2 s) = ctl s := by
  unfold digestIn
  repeat' first
    | (simp only [↓ctl_ite, ↓ctl_keep, ↓ctl_keepR, ctl_mk, ctl_self, ite_self, implies_true,
          ↓compareDigest_ctl]; done)
    | split
    | simp only [↓ctl_ite, ↓ctl_keep, ↓ctl_keepR, ctl_mk, ctl_self, ite_self, implies_true, ↓compareDigest_ctl]

theorem digestRx_ctl (a1 s) : ctl (digestRx a1 s) = ctl s := by
  unfold digestRx
  repeat' first
    | (simp only [↓ctl_ite, ↓ctl_keep, ↓ctl_keepR, ctl_mk, ctl_self, ite_self, implies_true, ↓each_ctl,
          ↓digestIn_ctl, ↓answerReady_ctl]; done)
    | split
    | simp only [↓ctl_ite, ↓ctl_keep, ↓ctl_keepR, ctl_mk, ctl_self, ite_self, implies_true, ↓each_ctl,
          ↓digestIn_ctl, ↓answerReady_ctl]

theorem differ_ctl (a1 a2 a3 s) : ctl (differ a1 a2 a3 s) = ctl s := by
  unfold differ
  repeat' first
    | (simp only [↓ctl_ite, ↓ctl_keep, ↓ctl_keepR, ctl_mk, ctl_self, ite_self, implies_true, ↓abandonEpoch_ctl,
          ↓writeSector_ctl, ↓raise0_ctl, ↓onEpoch_ctl]; done)
    | split
    | simp only [↓ctl_ite, ↓ctl_keep, ↓ctl_keepR, ctl_mk, ctl_self, ite_self, implies_true, ↓abandonEpoch_ctl,
          ↓writeSector_ctl, ↓raise0_ctl, ↓onEpoch_ctl]

theorem verdictIn_ctl (a1 a2 a3 a4 s) : ctl (verdictIn a1 a2 a3 a4 s) = ctl s := by
  unfold verdictIn
  repeat' first
    | (simp only [↓ctl_ite, ↓ctl_keep, ↓ctl_keepR, ctl_mk, ctl_self, ite_self, implies_true, ↓differ_ctl]; done)
    | split
    | simp only [↓ctl_ite, ↓ctl_keep, ↓ctl_keepR, ctl_mk, ctl_self, ite_self, implies_true, ↓differ_ctl]

theorem verdictRx_ctl (a1 s) : ctl (verdictRx a1 s) = ctl s := by
  unfold verdictRx
  repeat' first
    | (simp only [↓ctl_ite, ↓ctl_keep, ↓ctl_keepR, ctl_mk, ctl_self, ite_self, implies_true, ↓requestLost_ctl,
          ↓each_ctl, ↓answered_ctl, ↓verdictIn_ctl]; done)
    | split
    | simp only [↓ctl_ite, ↓ctl_keep, ↓ctl_keepR, ctl_mk, ctl_self, ite_self, implies_true, ↓requestLost_ctl,
          ↓each_ctl, ↓answered_ctl, ↓verdictIn_ctl]

theorem laterResend_ctl (s) : ctl (laterResend s) = ctl s := by
  unfold laterResend
  repeat' first
    | (simp only [↓ctl_ite, ↓ctl_keep, ↓ctl_keepR, ctl_mk, ctl_self, ite_self, implies_true, ↓each_ctl,
          ↓request_ctl]; done)
    | intro _
    | refine (each_ctl _ _ _ ?_).trans ?_
    | split
    | simp only [↓ctl_ite, ↓ctl_keep, ↓ctl_keepR, ctl_mk, ctl_self, ite_self, implies_true, ↓each_ctl, ↓request_ctl]

theorem tidingRx_ctl (a1 s) : ctl (tidingRx a1 s) = ctl s := by
  unfold tidingRx
  repeat' first
    | (simp only [↓ctl_ite, ↓ctl_keep, ↓ctl_keepR, ctl_mk, ctl_self, ite_self, implies_true, ↓countRefused_ctl,
          ↓raise_ctl]; done)
    | split
    | simp only [↓ctl_ite, ↓ctl_keep, ↓ctl_keepR, ctl_mk, ctl_self, ite_self, implies_true, ↓countRefused_ctl,
          ↓raise_ctl]

theorem requestTimeout_ctl (a1 s) : ctl (requestTimeout a1 s) = ctl s := by
  unfold requestTimeout
  repeat' first
    | (simp only [↓ctl_ite, ↓ctl_keep, ↓ctl_keepR, ctl_mk, ctl_self, ite_self, implies_true, ↓requestLost_ctl,
          ↓queueMsg_ctl, ↓settleAfter_ctl, ↓each_ctl, ↓raise0_ctl]; done)
    | split
    | simp only [↓ctl_ite, ↓ctl_keep, ↓ctl_keepR, ctl_mk, ctl_self, ite_self, implies_true, ↓requestLost_ctl,
          ↓queueMsg_ctl, ↓settleAfter_ctl, ↓each_ctl, ↓raise0_ctl]

theorem keepLate_ctl (a1 s) : ctl (keepLate a1 s) = ctl s := by
  unfold keepLate
  repeat' first
    | (simp only [↓ctl_ite, ↓ctl_keep, ↓ctl_keepR, ctl_mk, ctl_self, ite_self, implies_true]; done)
    | split
    | simp only [↓ctl_ite, ↓ctl_keep, ↓ctl_keepR, ctl_mk, ctl_self, ite_self, implies_true]

theorem dropHb_ctl (a1 s) : ctl (dropHb a1 s) = ctl s := by
  unfold dropHb
  repeat' first
    | (simp only [↓ctl_ite, ↓ctl_keep, ↓ctl_keepR, ctl_mk, ctl_self, ite_self, implies_true]; done)
    | split
    | simp only [↓ctl_ite, ↓ctl_keep, ↓ctl_keepR, ctl_mk, ctl_self, ite_self, implies_true]

theorem reissueHb_ctl (a1 s) : ctl (reissueHb a1 s) = ctl s := by
  unfold reissueHb
  repeat' first
    | (simp only [↓ctl_ite, ↓ctl_keep, ↓ctl_keepR, ctl_mk, ctl_self, ite_self, implies_true]; done)
    | split
    | simp only [↓ctl_ite, ↓ctl_keep, ↓ctl_keepR, ctl_mk, ctl_self, ite_self, implies_true]

theorem hbReadDone_ctl (r : HbReq) (d : HostRead) (s : State) : ctl (hbReadDone r d s) = ctl s := by
  have hs : ∀ q x p, ctl (slotsArrive q x p d s) = ctl s := fun q x p => slotsArrive_ctl ..
  have hp : ∀ c p, ctl (pageArrives c p d s) = ctl s := fun q p => pageArrives_ctl ..
  unfold hbReadDone
  cases r.kind <;> first | exact hs .. | exact hp .. | rfl | skip
  cases d
  · exact keepSector_ctl ..
  · exact sectorArrives_ctl ..

theorem hbRead1_ctl (a1 a2 a3 s) : ctl (hbRead1 a1 a2 a3 s) = ctl s := by
  unfold hbRead1
  repeat' first
    | (simp only [↓ctl_ite, ↓ctl_keep, ↓ctl_keepR, ctl_mk, ctl_self, ite_self, implies_true, ↓hbReadDone_ctl,
          ↓reissueHb_ctl, ↓settleAfter_ctl, ↓dropHb_ctl]; done)
    | split
    | simp only [↓ctl_ite, ↓ctl_keep, ↓ctl_keepR, ctl_mk, ctl_self, ite_self, implies_true, ↓hbReadDone_ctl,
          ↓reissueHb_ctl, ↓settleAfter_ctl, ↓dropHb_ctl]

theorem hostReadResponse_ctl (a1 a2 a3 a4 s) : ctl (hostReadResponse a1 a2 a3 a4 s) = ctl s := by
  unfold hostReadResponse
  repeat' first
    | (simp only [↓ctl_ite, ↓ctl_keep, ↓ctl_keepR, ctl_mk, ctl_self, ite_self, implies_true, ↓hbAnswered_ctl,
          ↓keepLate_ctl, ↓withChecks_ctl, ↓hbRead1_ctl, ↓dropHb_ctl]; done)
    | split
    | simp only [↓ctl_ite, ↓ctl_keep, ↓ctl_keepR, ctl_mk, ctl_self, ite_self, implies_true, ↓hbAnswered_ctl,
          ↓keepLate_ctl, ↓withChecks_ctl, ↓hbRead1_ctl, ↓dropHb_ctl]

theorem mirrorFails_ctl (a1 s) : ctl (mirrorFails a1 s) = ctl s := by
  unfold mirrorFails
  repeat' first
    | (simp only [↓ctl_ite, ↓ctl_keep, ↓ctl_keepR, ctl_mk, ctl_self, ite_self, implies_true, ↓latchGasp_ctl,
          ↓raise0_ctl]; done)
    | split
    | simp only [↓ctl_ite, ↓ctl_keep, ↓ctl_keepR, ctl_mk, ctl_self, ite_self, implies_true, ↓latchGasp_ctl,
          ↓raise0_ctl]

theorem mirrorHealed_ctl (s) : ctl (mirrorHealed s) = ctl s := by
  unfold mirrorHealed
  repeat' first
    | (simp only [↓ctl_ite, ↓ctl_keep, ↓ctl_keepR, ctl_mk, ctl_self, ite_self, implies_true]; done)
    | split
    | simp only [↓ctl_ite, ↓ctl_keep, ↓ctl_keepR, ctl_mk, ctl_self, ite_self, implies_true]

theorem mirrored_ctl (a1 a2 a3 a4 a5 s) : ctl (mirrored a1 a2 a3 a4 a5 s) = ctl s := by
  unfold mirrored
  repeat' first
    | (simp only [↓ctl_ite, ↓ctl_keep, ↓ctl_keepR, ctl_mk, ctl_self, ite_self, implies_true, ↓onQ_ctl,
          ↓onCmd_ctl]; done)
    | split
    | simp only [↓ctl_ite, ↓ctl_keep, ↓ctl_keepR, ctl_mk, ctl_self, ite_self, implies_true, ↓onQ_ctl, ↓onCmd_ctl]

theorem cqAcked_ctl (a1 a2 s) : ctl (cqAcked a1 a2 s) = ctl s := by
  unfold cqAcked
  repeat' first
    | (simp only [↓ctl_ite, ↓ctl_keep, ↓ctl_keepR, ctl_mk, ctl_self, ite_self, implies_true, ↓onQ_ctl,
          ↓settleDeletes_ctl, ↓settleCq_ctl]; done)
    | split
    | simp only [↓ctl_ite, ↓ctl_keep, ↓ctl_keepR, ctl_mk, ctl_self, ite_self, implies_true, ↓onQ_ctl,
          ↓settleDeletes_ctl, ↓settleCq_ctl]

theorem cqFails_ctl (a1 a2 s) : ctl (cqFails a1 a2 s) = ctl s := by
  unfold cqFails
  repeat' first
    | (simp only [↓ctl_ite, ↓ctl_keep, ↓ctl_keepR, ctl_mk, ctl_self, ite_self, implies_true, ↓onQ_ctl,
          ↓queueError_ctl]; done)
    | split
    | simp only [↓ctl_ite, ↓ctl_keep, ↓ctl_keepR, ctl_mk, ctl_self, ite_self, implies_true, ↓onQ_ctl, ↓queueError_ctl]

theorem disputeDone_ctl (a1 a2 s) : ctl (disputeDone a1 a2 s) = ctl s := by
  unfold disputeDone
  repeat' first
    | (simp only [↓ctl_ite, ↓ctl_keep, ↓ctl_keepR, ctl_mk, ctl_self, ite_self, implies_true]; done)
    | split
    | simp only [↓ctl_ite, ↓ctl_keep, ↓ctl_keepR, ctl_mk, ctl_self, ite_self, implies_true]

theorem hbWriteFails_ctl (a1 a2 s) : ctl (hbWriteFails a1 a2 s) = ctl s := by
  unfold hbWriteFails
  repeat' first
    | (simp only [↓ctl_ite, ↓ctl_keep, ↓ctl_keepR, ctl_mk, ctl_self, ite_self, implies_true, ↓finish_ctl,
          ↓queueError_ctl, ↓listFailed_ctl, ↓peerSecDone_ctl, ↓malformed_ctl, ↓raise_ctl, ↓cqFails_ctl,
          ↓sectorLost_ctl]; done)
    | split
    | simp only [↓ctl_ite, ↓ctl_keep, ↓ctl_keepR, ctl_mk, ctl_self, ite_self, implies_true, ↓finish_ctl,
          ↓queueError_ctl, ↓listFailed_ctl, ↓peerSecDone_ctl, ↓malformed_ctl, ↓raise_ctl, ↓cqFails_ctl,
          ↓sectorLost_ctl]

theorem mirrorFaultRow_ctl (a1 s) : ctl (mirrorFaultRow a1 s) = ctl s := by
  unfold mirrorFaultRow
  repeat' first
    | (simp only [↓ctl_ite, ↓ctl_keep, ↓ctl_keepR, ctl_mk, ctl_self, ite_self, implies_true, ↓mirrorFails_ctl]; done)
    | split
    | simp only [↓ctl_ite, ↓ctl_keep, ↓ctl_keepR, ctl_mk, ctl_self, ite_self, implies_true, ↓mirrorFails_ctl]

theorem dropFab_ctl (a1 s) : ctl (dropFab a1 s) = ctl s := by
  unfold dropFab
  repeat' first
    | (simp only [↓ctl_ite, ↓ctl_keep, ↓ctl_keepR, ctl_mk, ctl_self, ite_self, implies_true]; done)
    | split
    | simp only [↓ctl_ite, ↓ctl_keep, ↓ctl_keepR, ctl_mk, ctl_self, ite_self, implies_true]

theorem onFab_ctl (a1 a2 s) : ctl (onFab a1 a2 s) = ctl s := by
  unfold onFab
  repeat' first
    | (simp only [↓ctl_ite, ↓ctl_keep, ↓ctl_keepR, ctl_mk, ctl_self, ite_self, implies_true]; done)
    | split
    | simp only [↓ctl_ite, ↓ctl_keep, ↓ctl_keepR, ctl_mk, ctl_self, ite_self, implies_true]

theorem reissueFab_ctl (a1 s) : ctl (reissueFab a1 s) = ctl s := by
  unfold reissueFab
  repeat' first
    | (simp only [↓ctl_ite, ↓ctl_keep, ↓ctl_keepR, ctl_mk, ctl_self, ite_self, implies_true, ↓onFab_ctl,
          ↓upset_ctl, ↓markReadBad_ctl]; done)
    | split
    | simp only [↓ctl_ite, ↓ctl_keep, ↓ctl_keepR, ctl_mk, ctl_self, ite_self, implies_true, ↓onFab_ctl, ↓upset_ctl,
          ↓markReadBad_ctl]

theorem chargeFab_ctl (a1 s) : ctl (chargeFab a1 s) = ctl s := by
  unfold chargeFab
  repeat' first
    | (simp only [↓ctl_ite, ↓ctl_keep, ↓ctl_keepR, ctl_mk, ctl_self, ite_self, implies_true, ↓charge_ctl]; done)
    | split
    | simp only [↓ctl_ite, ↓ctl_keep, ↓ctl_keepR, ctl_mk, ctl_self, ite_self, implies_true, ↓charge_ctl]

theorem dbgFabRead_ctl (a1 a2 a3 s) : ctl (dbgFabRead a1 a2 a3 s) = ctl s := by
  unfold dbgFabRead
  repeat' first
    | (simp only [↓ctl_ite, ↓ctl_keep, ↓ctl_keepR, ctl_mk, ctl_self, ite_self, implies_true, ↓fabReq_ctl]; done)
    | split
    | simp only [↓ctl_ite, ↓ctl_keep, ↓ctl_keepR, ctl_mk, ctl_self, ite_self, implies_true, ↓fabReq_ctl]

theorem groupMissing_ctl (a1 a2 s) : ctl (groupMissing a1 a2 s) = ctl s := by
  unfold groupMissing
  repeat' first
    | (simp only [↓ctl_ite, ↓ctl_keep, ↓ctl_keepR, ctl_mk, ctl_self, ite_self, implies_true, ↓groupArrives_ctl,
          ↓poisonEpoch_ctl, ↓setResync_ctl]; done)
    | split
    | simp only [↓ctl_ite, ↓ctl_keep, ↓ctl_keepR, ctl_mk, ctl_self, ite_self, implies_true, ↓groupArrives_ctl,
          ↓poisonEpoch_ctl, ↓setResync_ctl]

theorem fabReadDone_ctl (a1 a2 a3 s) : ctl (fabReadDone a1 a2 a3 s) = ctl s := by
  unfold fabReadDone
  repeat' first
    | (simp only [↓ctl_ite, ↓ctl_keep, ↓ctl_keepR, ctl_mk, ctl_self, ite_self, implies_true, ↓groupArrives_ctl,
          ↓sourcePassed_ctl, ↓cvArrives_ctl, ↓passantArrives_ctl, ↓dbgFabRead_ctl, ↓groupMissing_ctl,
          ↓sourceArrives_ctl]; done)
    | split
    | simp only [↓ctl_ite, ↓ctl_keep, ↓ctl_keepR, ctl_mk, ctl_self, ite_self, implies_true, ↓groupArrives_ctl,
          ↓sourcePassed_ctl, ↓cvArrives_ctl, ↓passantArrives_ctl, ↓dbgFabRead_ctl, ↓groupMissing_ctl,
          ↓sourceArrives_ctl]

theorem fabRead1_ctl (a1 s) : ctl (fabRead1 a1 s) = ctl s := by
  unfold fabRead1
  repeat' first
    | (simp only [↓ctl_ite, ↓ctl_keep, ↓ctl_keepR, ctl_mk, ctl_self, ite_self, implies_true, ↓serveFilters_ctl,
          ↓fabReadDone_ctl, ↓settleAfter_ctl, ↓reissueFab_ctl, ↓dropFab_ctl, ↓chargeFab_ctl]; done)
    | split
    | simp only [↓ctl_ite, ↓ctl_keep, ↓ctl_keepR, ctl_mk, ctl_self, ite_self, implies_true, ↓serveFilters_ctl,
          ↓fabReadDone_ctl, ↓settleAfter_ctl, ↓reissueFab_ctl, ↓dropFab_ctl, ↓chargeFab_ctl]

theorem fabBeat_ctl (a1 a2 a3 a4 s) : ctl (fabBeat a1 a2 a3 a4 s) = ctl s := by
  unfold fabBeat
  repeat' first
    | (simp only [↓ctl_ite, ↓ctl_keep, ↓ctl_keepR, ctl_mk, ctl_self, ite_self, implies_true, ↓fabRead1_ctl,
          ↓onFab_ctl]; done)
    | split
    | simp only [↓ctl_ite, ↓ctl_keep, ↓ctl_keepR, ctl_mk, ctl_self, ite_self, implies_true, ↓fabRead1_ctl, ↓onFab_ctl]

theorem fabricReadResponse_ctl (a1 a2 a3 a4 s) : ctl (fabricReadResponse a1 a2 a3 a4 s) = ctl s := by
  unfold fabricReadResponse
  repeat' first
    | (simp only [↓ctl_ite, ↓ctl_keep, ↓ctl_keepR, ctl_mk, ctl_self, ite_self, implies_true, ↓keepLate_ctl,
          ↓fabBeat_ctl, ↓fabAnswered_ctl, ↓dropFab_ctl]; done)
    | split
    | simp only [↓ctl_ite, ↓ctl_keep, ↓ctl_keepR, ctl_mk, ctl_self, ite_self, implies_true, ↓keepLate_ctl,
          ↓fabBeat_ctl, ↓fabAnswered_ctl, ↓dropFab_ctl]

theorem dbgFabWritten_ctl (a1 s) : ctl (dbgFabWritten a1 s) = ctl s := by
  unfold dbgFabWritten
  repeat' first
    | (simp only [↓ctl_ite, ↓ctl_keep, ↓ctl_keepR, ctl_mk, ctl_self, ite_self, implies_true]; done)
    | split
    | simp only [↓ctl_ite, ↓ctl_keep, ↓ctl_keepR, ctl_mk, ctl_self, ite_self, implies_true]

theorem fabWriteFails_ctl (a1 s) : ctl (fabWriteFails a1 s) = ctl s := by
  unfold fabWriteFails
  repeat' first
    | (simp only [↓ctl_ite, ↓ctl_keep, ↓ctl_keepR, ctl_mk, ctl_self, ite_self, implies_true, ↓dbgFabWritten_ctl,
          ↓headerWritten_ctl, ↓groupWritten_ctl, ↓poisonEpoch_ctl, ↓badAt_ctl, ↓setResync_ctl]; done)
    | split
    | simp only [↓ctl_ite, ↓ctl_keep, ↓ctl_keepR, ctl_mk, ctl_self, ite_self, implies_true, ↓dbgFabWritten_ctl,
          ↓headerWritten_ctl, ↓groupWritten_ctl, ↓poisonEpoch_ctl, ↓badAt_ctl, ↓setResync_ctl]

theorem fabWriteDone_ctl (a1 s) : ctl (fabWriteDone a1 s) = ctl s := by
  unfold fabWriteDone
  repeat' first
    | (simp only [↓ctl_ite, ↓ctl_keep, ↓ctl_keepR, ctl_mk, ctl_self, ite_self, implies_true, ↓dbgFabWritten_ctl,
          ↓headerWritten_ctl, ↓groupWritten_ctl]; done)
    | split
    | simp only [↓ctl_ite, ↓ctl_keep, ↓ctl_keepR, ctl_mk, ctl_self, ite_self, implies_true, ↓dbgFabWritten_ctl,
          ↓headerWritten_ctl, ↓groupWritten_ctl]

theorem fabWrite1_ctl (a1 a2 s) : ctl (fabWrite1 a1 a2 s) = ctl s := by
  unfold fabWrite1
  repeat' first
    | (simp only [↓ctl_ite, ↓ctl_keep, ↓ctl_keepR, ctl_mk, ctl_self, ite_self, implies_true, ↓serveFilters_ctl,
          ↓fabWriteFails_ctl, ↓settleAfter_ctl, ↓reissueFab_ctl, ↓dropFab_ctl, ↓chargeFab_ctl,
          ↓fabWriteDone_ctl]; done)
    | split
    | simp only [↓ctl_ite, ↓ctl_keep, ↓ctl_keepR, ctl_mk, ctl_self, ite_self, implies_true, ↓serveFilters_ctl,
          ↓fabWriteFails_ctl, ↓settleAfter_ctl, ↓reissueFab_ctl, ↓dropFab_ctl, ↓chargeFab_ctl, ↓fabWriteDone_ctl]

theorem fabricWriteResponse_ctl (a1 a2 s) : ctl (fabricWriteResponse a1 a2 s) = ctl s := by
  unfold fabricWriteResponse
  repeat' first
    | (simp only [↓ctl_ite, ↓ctl_keep, ↓ctl_keepR, ctl_mk, ctl_self, ite_self, implies_true, ↓keepLate_ctl,
          ↓fabAnswered_ctl, ↓dropFab_ctl, ↓fabWrite1_ctl]; done)
    | split
    | simp only [↓ctl_ite, ↓ctl_keep, ↓ctl_keepR, ctl_mk, ctl_self, ite_self, implies_true, ↓keepLate_ctl,
          ↓fabAnswered_ctl, ↓dropFab_ctl, ↓fabWrite1_ctl]

theorem fromMirror_ctl (s) : ctl (fromMirror s) = ctl s := by
  unfold fromMirror
  repeat' first
    | (simp only [↓ctl_ite, ↓ctl_keep, ↓ctl_keepR, ctl_mk, ctl_self, ite_self, implies_true]; done)
    | split
    | simp only [↓ctl_ite, ↓ctl_keep, ↓ctl_keepR, ctl_mk, ctl_self, ite_self, implies_true]

theorem replayQueue_ctl (a1 a2 s) : ctl (replayQueue a1 a2 s) = ctl s := by
  unfold replayQueue
  repeat' first
    | (simp only [↓ctl_ite, ↓ctl_keep, ↓ctl_keepR, ctl_mk, ctl_self, ite_self, implies_true, ↓each_ctl, ↓onQ_ctl,
          ↓issueCompletion_ctl]; done)
    | split
    | simp only [↓ctl_ite, ↓ctl_keep, ↓ctl_keepR, ctl_mk, ctl_self, ite_self, implies_true, ↓each_ctl, ↓onQ_ctl,
          ↓issueCompletion_ctl]

theorem resolveCut_ctl (a1 a2 s) : ctl (resolveCut a1 a2 s) = ctl s := by
  unfold resolveCut
  repeat' first
    | (simp only [↓ctl_ite, ↓ctl_keep, ↓ctl_keepR, ctl_mk, ctl_self, ite_self, implies_true, ↓endEpoch_ctl,
          ↓finish_ctl, ↓endCmds_ctl]; done)
    | split
    | simp only [↓ctl_ite, ↓ctl_keep, ↓ctl_keepR, ctl_mk, ctl_self, ite_self, implies_true, ↓endEpoch_ctl,
          ↓finish_ctl, ↓endCmds_ctl]

theorem resolveEpoch_ctl (a1 a2 s) : ctl (resolveEpoch a1 a2 s) = ctl s := by
  unfold resolveEpoch
  repeat' first
    | (simp only [↓ctl_ite, ↓ctl_keep, ↓ctl_keepR, ctl_mk, ctl_self, ite_self, implies_true, ↓sealed_ctl,
          ↓resolveCut_ctl, ↓abandonEpoch_ctl, ↓onCmd_ctl]; done)
    | split
    | simp only [↓ctl_ite, ↓ctl_keep, ↓ctl_keepR, ctl_mk, ctl_self, ite_self, implies_true, ↓sealed_ctl,
          ↓resolveCut_ctl, ↓abandonEpoch_ctl, ↓onCmd_ctl]

theorem dropStaged_ctl (s) : ctl (dropStaged s) = ctl s := by
  unfold dropStaged
  repeat' first
    | (simp only [↓ctl_ite, ↓ctl_keep, ↓ctl_keepR, ctl_mk, ctl_self, ite_self, implies_true, ↓finish_ctl]; done)
    | split
    | simp only [↓ctl_ite, ↓ctl_keep, ↓ctl_keepR, ctl_mk, ctl_self, ite_self, implies_true, ↓finish_ctl]

theorem ledgerWordLost_ctl (a1 a2 a3 a4 s) : ctl (ledgerWordLost a1 a2 a3 a4 s) = ctl s := by
  unfold ledgerWordLost
  repeat' first
    | (simp only [↓ctl_ite, ↓ctl_keep, ↓ctl_keepR, ctl_mk, ctl_self, ite_self, implies_true, ↓faultHold_ctl,
          ↓retire_ctl]; done)
    | split
    | simp only [↓ctl_ite, ↓ctl_keep, ↓ctl_keepR, ctl_mk, ctl_self, ite_self, implies_true, ↓faultHold_ctl,
          ↓retire_ctl]

theorem scanLedger_ctl (s) : ctl (scanLedger s) = ctl s := by
  unfold scanLedger
  repeat' first
    | (simp only [↓ctl_ite, ↓ctl_keep, ↓ctl_keepR, ctl_mk, ctl_self, ite_self, implies_true, ↓ledgerWordLost_ctl,
          ↓each_ctl, ↓readLane_ctl]; done)
    | split
    | simp only [↓ctl_ite, ↓ctl_keep, ↓ctl_keepR, ctl_mk, ctl_self, ite_self, implies_true, ↓ledgerWordLost_ctl,
          ↓each_ctl, ↓readLane_ctl]

theorem replay_ctl (a1 s) : ctl (replay a1 s) = ctl s := by
  unfold replay
  repeat' first
    | (simp only [↓ctl_ite, ↓ctl_keep, ↓ctl_keepR, ctl_mk, ctl_self, ite_self, implies_true, ↓scanLedger_ctl,
          ↓listPort_ctl, ↓dropStaged_ctl, ↓fromMirror_ctl, ↓stopStreams_ctl, ↓each_ctl, ↓freeGens_ctl,
          ↓replayQueue_ctl, ↓raise0_ctl, ↓resolveEpoch_ctl, ↓mirrorRec_ctl]; done)
    | split
    | simp only [↓ctl_ite, ↓ctl_keep, ↓ctl_keepR, ctl_mk, ctl_self, ite_self, implies_true, ↓scanLedger_ctl,
          ↓listPort_ctl, ↓dropStaged_ctl, ↓fromMirror_ctl, ↓stopStreams_ctl, ↓each_ctl, ↓freeGens_ctl,
          ↓replayQueue_ctl, ↓raise0_ctl, ↓resolveEpoch_ctl, ↓mirrorRec_ctl]

theorem seqTrap_ctl (a1 a2 s) : ctl (seqTrap a1 a2 s) = ctl s := by
  unfold seqTrap
  repeat' first
    | (simp only [↓ctl_ite, ↓ctl_keep, ↓ctl_keepR, ctl_mk, ctl_self, ite_self, implies_true, ↓faultHold_ctl,
          ↓lanesWrite_ctl, ↓raise0_ctl]; done)
    | split
    | simp only [↓ctl_ite, ↓ctl_keep, ↓ctl_keepR, ctl_mk, ctl_self, ite_self, implies_true, ↓faultHold_ctl,
          ↓lanesWrite_ctl, ↓raise0_ctl]

theorem restartCmd_ctl (a1 a2 s) : ctl (restartCmd a1 a2 s) = ctl s := by
  unfold restartCmd
  repeat' first
    | (simp only [↓ctl_ite, ↓ctl_keep, ↓ctl_keepR, ctl_mk, ctl_self, ite_self, implies_true, ↓onCmd_ctl,
          ↓stopCmd_ctl]; done)
    | split
    | simp only [↓ctl_ite, ↓ctl_keep, ↓ctl_keepR, ctl_mk, ctl_self, ite_self, implies_true, ↓onCmd_ctl, ↓stopCmd_ctl]

theorem restartSeal_ctl (a1 s) : ctl (restartSeal a1 s) = ctl s := by
  unfold restartSeal
  repeat' first
    | (simp only [↓ctl_ite, ↓ctl_keep, ↓ctl_keepR, ctl_mk, ctl_self, ite_self, implies_true, ↓startSeal_ctl,
          ↓stopStreams_ctl]; done)
    | split
    | simp only [↓ctl_ite, ↓ctl_keep, ↓ctl_keepR, ctl_mk, ctl_self, ite_self, implies_true, ↓startSeal_ctl,
          ↓stopStreams_ctl]

theorem contextLost_ctl (a1 s) : ctl (contextLost a1 s) = ctl s := by
  unfold contextLost
  repeat' first
    | (simp only [↓ctl_ite, ↓ctl_keep, ↓ctl_keepR, ctl_mk, ctl_self, ite_self, implies_true, ↓restartCmd_ctl,
          ↓restartSeal_ctl]; done)
    | split
    | simp only [↓ctl_ite, ↓ctl_keep, ↓ctl_keepR, ctl_mk, ctl_self, ite_self, implies_true, ↓restartCmd_ctl,
          ↓restartSeal_ctl]

theorem cleanGroupLost_ctl (a1 a2 s) : ctl (cleanGroupLost a1 a2 s) = ctl s := by
  unfold cleanGroupLost
  repeat' first
    | (simp only [↓ctl_ite, ↓ctl_keep, ↓ctl_keepR, ctl_mk, ctl_self, ite_self, implies_true, ↓onRegion_ctl,
          ↓fetchGroup_ctl]; done)
    | split
    | simp only [↓ctl_ite, ↓ctl_keep, ↓ctl_keepR, ctl_mk, ctl_self, ite_self, implies_true, ↓onRegion_ctl,
          ↓fetchGroup_ctl]

theorem free128_ctl (s) : ctl (free128 s).2 = ctl s := by
  unfold free128
  repeat' first
    | (simp only [↓ctl_ite, ↓ctl_keep, ↓ctl_keepR, ctl_mk, ctl_self, ite_self, implies_true, ↓free_ctl]; done)
    | split
    | simp only [↓ctl_ite, ↓ctl_keep, ↓ctl_keepR, ctl_mk, ctl_self, ite_self, implies_true, ↓free_ctl]

theorem dirtyGroupLost_ctl (a1 a2 s) : ctl (dirtyGroupLost a1 a2 s) = ctl s := by
  unfold dirtyGroupLost
  repeat' first
    | (simp only [↓ctl_ite, ↓ctl_keep, ↓ctl_keepR, ctl_mk, ctl_self, ite_self, implies_true, ↓onRegion_ctl,
          ↓free128_ctl, ↓markRows_ctl, ↓poisonItems_ctl, ↓poisonEpoch_ctl]; done)
    | split
    | simp only [↓ctl_ite, ↓ctl_keep, ↓ctl_keepR, ctl_mk, ctl_self, ite_self, implies_true, ↓onRegion_ctl,
          ↓free128_ctl, ↓markRows_ctl, ↓poisonItems_ctl, ↓poisonEpoch_ctl]

theorem queueStateLost_ctl (a1 s) : ctl (queueStateLost a1 s) = ctl s := by
  unfold queueStateLost
  repeat' first
    | (simp only [↓ctl_ite, ↓ctl_keep, ↓ctl_keepR, ctl_mk, ctl_self, ite_self, implies_true, ↓dropTakes_ctl,
          ↓onQ_ctl]; done)
    | split
    | simp only [↓ctl_ite, ↓ctl_keep, ↓ctl_keepR, ctl_mk, ctl_self, ite_self, implies_true, ↓dropTakes_ctl, ↓onQ_ctl]

theorem siteEffect_ctl (a1 s) : ctl (siteEffect a1 s) = ctl s := by
  unfold siteEffect
  repeat' first
    | (simp only [↓ctl_ite, ↓ctl_keep, ↓ctl_keepR, ctl_mk, ctl_self, ite_self, implies_true, ↓queueStateLost_ctl,
          ↓moverGone_ctl, ↓cleanGroupLost_ctl, ↓seqTrap_ctl, ↓discardFrame_ctl, ↓bankWordLost_ctl, ↓handleLost_ctl,
          ↓passantLost_ctl, ↓ledgerWordLost_ctl, ↓keySlotLost_ctl, ↓stagingLost_ctl, ↓dirtyGroupLost_ctl,
          ↓contextLost_ctl, ↓charge_ctl]; done)
    | split
    | simp only [↓ctl_ite, ↓ctl_keep, ↓ctl_keepR, ctl_mk, ctl_self, ite_self, implies_true, ↓queueStateLost_ctl,
          ↓moverGone_ctl, ↓cleanGroupLost_ctl, ↓seqTrap_ctl, ↓discardFrame_ctl, ↓bankWordLost_ctl, ↓handleLost_ctl,
          ↓passantLost_ctl, ↓ledgerWordLost_ctl, ↓keySlotLost_ctl, ↓stagingLost_ctl, ↓dirtyGroupLost_ctl,
          ↓contextLost_ctl, ↓charge_ctl]

theorem eccUe_ctl (a1 s) : ctl (eccUe a1 s) = ctl s := by
  unfold eccUe
  repeat' first
    | (simp only [↓ctl_ite, ↓ctl_keep, ↓ctl_keepR, ctl_mk, ctl_self, ite_self, implies_true, ↓settleAfter_ctl,
          ↓siteEffect_ctl, ↓ueCount_ctl]; done)
    | split
    | simp only [↓ctl_ite, ↓ctl_keep, ↓ctl_keepR, ctl_mk, ctl_self, ite_self, implies_true, ↓settleAfter_ctl,
          ↓siteEffect_ctl, ↓ueCount_ctl]

theorem scanContexts_ctl (s) : ctl (scanContexts s) = ctl s := by
  unfold scanContexts
  repeat' first
    | (simp only [↓ctl_ite, ↓ctl_keep, ↓ctl_keepR, ctl_mk, ctl_self, ite_self, implies_true, ↓readLanes_ctl,
          ↓contextLost_ctl]; done)
    | split
    | simp only [↓ctl_ite, ↓ctl_keep, ↓ctl_keepR, ctl_mk, ctl_self, ite_self, implies_true, ↓readLanes_ctl,
          ↓contextLost_ctl]

theorem dropOutputs_ctl (s) : ctl (dropOutputs s) = ctl s := by
  unfold dropOutputs
  repeat' first
    | (simp only [↓ctl_ite, ↓ctl_keep, ↓ctl_keepR, ctl_mk, ctl_self, ite_self, implies_true]; done)
    | split
    | simp only [↓ctl_ite, ↓ctl_keep, ↓ctl_keepR, ctl_mk, ctl_self, ite_self, implies_true]

theorem sweepTable_ctl (a1 s) : ctl (sweepTable a1 s) = ctl s := by
  unfold sweepTable
  repeat' first
    | (simp only [↓ctl_ite, ↓ctl_keep, ↓ctl_keepR, ctl_mk, ctl_self, ite_self, implies_true, ↓onRegion_ctl,
          ↓each_ctl, ↓markRows_ctl]; done)
    | split
    | simp only [↓ctl_ite, ↓ctl_keep, ↓ctl_keepR, ctl_mk, ctl_self, ite_self, implies_true, ↓onRegion_ctl,
          ↓each_ctl, ↓markRows_ctl]

theorem sweepAll_ctl (s) : ctl (sweepAll s) = ctl s := by
  unfold sweepAll
  repeat' first
    | (simp only [↓ctl_ite, ↓ctl_keep, ↓ctl_keepR, ctl_mk, ctl_self, ite_self, implies_true, ↓sweepTable_ctl,
          ↓each_ctl]; done)
    | split
    | simp only [↓ctl_ite, ↓ctl_keep, ↓ctl_keepR, ctl_mk, ctl_self, ite_self, implies_true, ↓sweepTable_ctl,
          ↓each_ctl]

theorem holdAtRelease_ctl (s) : ctl (holdAtRelease s) = ctl s := by
  unfold holdAtRelease
  repeat' first
    | (simp only [↓ctl_ite, ↓ctl_keep, ↓ctl_keepR, ctl_mk, ctl_self, ite_self, implies_true, ↓latchGasp_ctl,
          ↓raise0_ctl]; done)
    | split
    | simp only [↓ctl_ite, ↓ctl_keep, ↓ctl_keepR, ctl_mk, ctl_self, ite_self, implies_true, ↓latchGasp_ctl,
          ↓raise0_ctl]

theorem testFailed_ctl (a1 s) : ctl (testFailed a1 s) = ctl s := by
  unfold testFailed
  repeat' first
    | (simp only [↓ctl_ite, ↓ctl_keep, ↓ctl_keepR, ctl_mk, ctl_self, ite_self, implies_true, ↓holdAtRelease_ctl,
          ↓retiredEvent_ctl, ↓each_ctl, ↓latchGasp_ctl, ↓raise0_ctl, ↓setResync_ctl]; done)
    | split
    | simp only [↓ctl_ite, ↓ctl_keep, ↓ctl_keepR, ctl_mk, ctl_self, ite_self, implies_true, ↓holdAtRelease_ctl,
          ↓retiredEvent_ctl, ↓each_ctl, ↓latchGasp_ctl, ↓raise0_ctl, ↓setResync_ctl]

theorem clockLost_ctl (a1 s) : ctl (clockLost a1 s) = ctl s := by
  unfold clockLost
  repeat' first
    | (simp only [↓ctl_ite, ↓ctl_keep, ↓ctl_keepR, ctl_mk, ctl_self, ite_self, implies_true, ↓raise0_ctl]; done)
    | split
    | simp only [↓ctl_ite, ↓ctl_keep, ↓ctl_keepR, ctl_mk, ctl_self, ite_self, implies_true, ↓raise0_ctl]

theorem clockRunning_ctl (a1 s) : ctl (clockRunning a1 s) = ctl s := by
  unfold clockRunning
  repeat' first
    | (simp only [↓ctl_ite, ↓ctl_keep, ↓ctl_keepR, ctl_mk, ctl_self, ite_self, implies_true]; done)
    | split
    | simp only [↓ctl_ite, ↓ctl_keep, ↓ctl_keepR, ctl_mk, ctl_self, ite_self, implies_true]

theorem fabSlip_ctl (a1 s) : ctl (fabSlip a1 s) = ctl s := by
  unfold fabSlip
  repeat' first
    | (simp only [↓ctl_ite, ↓ctl_keep, ↓ctl_keepR, ctl_mk, ctl_self, ite_self, implies_true, ↓each_ctl,
          ↓raise0_ctl, ↓fabWrite1_ctl]; done)
    | split
    | simp only [↓ctl_ite, ↓ctl_keep, ↓ctl_keepR, ctl_mk, ctl_self, ite_self, implies_true, ↓each_ctl, ↓raise0_ctl,
          ↓fabWrite1_ctl]

theorem powerEvent_ctl (a1 a2 a3 s) : ctl (powerEvent a1 a2 a3 s) = ctl s := by
  unfold powerEvent
  repeat' first
    | (simp only [↓ctl_ite, ↓ctl_keep, ↓ctl_keepR, ctl_mk, ctl_self, ite_self, implies_true, ↓raise0_ctl]; done)
    | split
    | simp only [↓ctl_ite, ↓ctl_keep, ↓ctl_keepR, ctl_mk, ctl_self, ite_self, implies_true, ↓raise0_ctl]

theorem startPorts_ctl (s) : ctl (startPorts s) = ctl s := by
  unfold startPorts
  repeat' first
    | (simp only [↓ctl_ite, ↓ctl_keep, ↓ctl_keepR, ctl_mk, ctl_self, ite_self, implies_true, ↓listPort_ctl,
          ↓each_ctl]; done)
    | split
    | simp only [↓ctl_ite, ↓ctl_keep, ↓ctl_keepR, ctl_mk, ctl_self, ite_self, implies_true, ↓listPort_ctl, ↓each_ctl]

theorem idlePort_ctl (a1 s) : ctl (idlePort a1 s) = ctl s := by
  unfold idlePort
  repeat' first
    | (simp only [↓ctl_ite, ↓ctl_keep, ↓ctl_keepR, ctl_mk, ctl_self, ite_self, implies_true, ↓dropPeers_ctl,
          ↓onPort_ctl]; done)
    | split
    | simp only [↓ctl_ite, ↓ctl_keep, ↓ctl_keepR, ctl_mk, ctl_self, ite_self, implies_true, ↓dropPeers_ctl,
          ↓onPort_ctl]

theorem adjourn_ctl (s) : ctl (adjourn s) = ctl s := by
  unfold adjourn
  repeat' first
    | (simp only [↓ctl_ite, ↓ctl_keep, ↓ctl_keepR, ctl_mk, ctl_self, ite_self, implies_true, ↓idlePort_ctl,
          ↓onRegion_ctl, ↓each_ctl, ↓writeBackAll_ctl]; done)
    | split
    | simp only [↓ctl_ite, ↓ctl_keep, ↓ctl_keepR, ctl_mk, ctl_self, ite_self, implies_true, ↓idlePort_ctl,
          ↓onRegion_ctl, ↓each_ctl, ↓writeBackAll_ctl]

theorem branchGate_ctl (s) : ctl (branchGate s) = ctl s := by
  unfold branchGate
  repeat' first
    | (simp only [↓ctl_ite, ↓ctl_keep, ↓ctl_keepR, ctl_mk, ctl_self, ite_self, implies_true]; done)
    | split
    | simp only [↓ctl_ite, ↓ctl_keep, ↓ctl_keepR, ctl_mk, ctl_self, ite_self, implies_true]

theorem goOn_ctl (a1 a2 a3 s) : ctl (goOn a1 a2 a3 s) = ctl s := by
  unfold goOn
  repeat' first
    | (simp only [↓ctl_ite, ↓ctl_keep, ↓ctl_keepR, ctl_mk, ctl_self, ite_self, implies_true, ↓issueReads_ctl,
          ↓cvAgain_ctl]; done)
    | split
    | simp only [↓ctl_ite, ↓ctl_keep, ↓ctl_keepR, ctl_mk, ctl_self, ite_self, implies_true, ↓issueReads_ctl,
          ↓cvAgain_ctl]

theorem syncCtx_ctl (a1 s) : ctl (syncCtx a1 s) = ctl s := by
  unfold syncCtx
  repeat' first
    | (simp only [↓ctl_ite, ↓ctl_keep, ↓ctl_keepR, ctl_mk, ctl_self, ite_self, implies_true, ↓hitKind_ctl,
          ↓ctxWrite_ctl]; done)
    | split
    | simp only [↓ctl_ite, ↓ctl_keep, ↓ctl_keepR, ctl_mk, ctl_self, ite_self, implies_true, ↓hitKind_ctl,
          ↓ctxWrite_ctl]

theorem descriptor_ctl (a1 a2 a3 s) : ctl (descriptor a1 a2 a3 s) = ctl s := by
  unfold descriptor
  repeat' first
    | (simp only [↓ctl_ite, ↓ctl_keep, ↓ctl_keepR, ctl_mk, ctl_self, ite_self, implies_true, ↓cvStep_ctl,
          ↓rawStep_ctl, ↓rowStep_ctl, ↓goOn_ctl, ↓jobStep_ctl, ↓indexStep_ctl, ↓plateStep_ctl]; done)
    | split
    | simp only [↓ctl_ite, ↓ctl_keep, ↓ctl_keepR, ctl_mk, ctl_self, ite_self, implies_true, ↓cvStep_ctl,
          ↓rawStep_ctl, ↓rowStep_ctl, ↓goOn_ctl, ↓jobStep_ctl, ↓indexStep_ctl, ↓plateStep_ctl]

theorem moverDescriptor_ctl (a1 a2 s) : ctl (moverDescriptor a1 a2 s) = ctl s := by
  unfold moverDescriptor
  repeat' first
    | (simp only [↓ctl_ite, ↓ctl_keep, ↓ctl_keepR, ctl_mk, ctl_self, ite_self, implies_true, ↓onCtx_ctl,
          ↓syncCtx_ctl, ↓settleAfter_ctl, ↓descriptor_ctl]; done)
    | split
    | simp only [↓ctl_ite, ↓ctl_keep, ↓ctl_keepR, ctl_mk, ctl_self, ite_self, implies_true, ↓onCtx_ctl,
          ↓syncCtx_ctl, ↓settleAfter_ctl, ↓descriptor_ctl]

theorem readRecipes_ctl (s a1) : ctl (readRecipes s a1) = ctl s := by
  unfold readRecipes
  repeat' first
    | (simp only [↓ctl_ite, ↓ctl_keep, ↓ctl_keepR, ctl_mk, ctl_self, ite_self, implies_true, ↓each_ctl,
          ↓readRecipe_ctl]; done)
    | split
    | simp only [↓ctl_ite, ↓ctl_keep, ↓ctl_keepR, ctl_mk, ctl_self, ite_self, implies_true, ↓each_ctl,
          ↓readRecipe_ctl]

theorem crucibleBlock_ctl (a1 a2 s) : ctl (crucibleBlock a1 a2 s) = ctl s := by
  unfold crucibleBlock
  repeat' first
    | (simp only [↓ctl_ite, ↓ctl_keep, ↓ctl_keepR, ctl_mk, ctl_self, ite_self, implies_true, ↓decStep_ctl,
          ↓serveFilters_ctl, ↓settleAfter_ctl, ↓readLanes_ctl, ↓stagingLost_ctl, ↓readRecipes_ctl, ↓readRecipe_ctl,
          ↓encStep_ctl, ↓counted_ctl]; done)
    | split
    | simp only [↓ctl_ite, ↓ctl_keep, ↓ctl_keepR, ctl_mk, ctl_self, ite_self, implies_true, ↓decStep_ctl,
          ↓serveFilters_ctl, ↓settleAfter_ctl, ↓readLanes_ctl, ↓stagingLost_ctl, ↓readRecipes_ctl, ↓readRecipe_ctl,
          ↓encStep_ctl, ↓counted_ctl]

theorem answer_ctl (a1 a2 a3 a4 s) : ctl (answer a1 a2 a3 a4 s) = ctl s := by
  unfold answer
  repeat' first
    | (simp only [↓ctl_ite, ↓ctl_keep, ↓ctl_keepR, ctl_mk, ctl_self, ite_self, implies_true]; done)
    | split
    | simp only [↓ctl_ite, ↓ctl_keep, ↓ctl_keepR, ctl_mk, ctl_self, ite_self, implies_true]

theorem status_ctl (a1 s) : ctl (status a1 s) = ctl s := by
  unfold status
  repeat' first
    | (simp only [↓ctl_ite, ↓ctl_keep, ↓ctl_keepR, ctl_mk, ctl_self, ite_self, implies_true]; done)
    | split
    | simp only [↓ctl_ite, ↓ctl_keep, ↓ctl_keepR, ctl_mk, ctl_self, ite_self, implies_true]

theorem datum_ctl (a1 s) : ctl (datum a1 s) = ctl s := by
  unfold datum
  repeat' first
    | (simp only [↓ctl_ite, ↓ctl_keep, ↓ctl_keepR, ctl_mk, ctl_self, ite_self, implies_true]; done)
    | split
    | simp only [↓ctl_ite, ↓ctl_keep, ↓ctl_keepR, ctl_mk, ctl_self, ite_self, implies_true]

theorem dbgReq_ctl (a1 a2 a3) (a4 : State → State) (s) (h0 : ∀ t, ctl (a4 t) = ctl t) :
    ctl (dbgReq a1 a2 a3 a4 s) = ctl s := by
  unfold dbgReq
  repeat' first
    | (simp only [↓ctl_ite, ↓ctl_keep, ↓ctl_keepR, ctl_mk, ctl_self, ite_self, implies_true, ↓answer_ctl, h0]; done)
    | split
    | simp only [↓ctl_ite, ↓ctl_keep, ↓ctl_keepR, ctl_mk, ctl_self, ite_self, implies_true, ↓answer_ctl, h0]

theorem dbgStatus_ctl (s) : ctl (dbgStatus s) = ctl s := by
  unfold dbgStatus
  repeat' first
    | (simp only [↓ctl_ite, ↓ctl_keep, ↓ctl_keepR, ctl_mk, ctl_self, ite_self, implies_true, ↓datum_ctl]; done)
    | split
    | simp only [↓ctl_ite, ↓ctl_keep, ↓ctl_keepR, ctl_mk, ctl_self, ite_self, implies_true, ↓datum_ctl]

theorem drawBytes_ctl (a1 s) : ctl (drawBytes a1 s).2 = ctl s := by
  fun_induction drawBytes a1 s <;>
    repeat' first
      | (simp +zetaDelta only [*, ↓ctl_ite, ↓ctl_keep, ↓ctl_keepR, ctl_mk, ctl_self, ite_self, implies_true,
            ↓free_ctl]; done)
      | split
      | simp +zetaDelta only [*, ↓ctl_ite, ↓ctl_keep, ↓ctl_keepR, ctl_mk, ctl_self, ite_self, implies_true, ↓free_ctl]

theorem challenge_ctl (s) : ctl (challenge s).2 = ctl s := by
  unfold challenge
  repeat' first
    | (simp only [↓ctl_ite, ↓ctl_keep, ↓ctl_keepR, ctl_mk, ctl_self, ite_self, implies_true, ↓drawBytes_ctl]; done)
    | split
    | simp only [↓ctl_ite, ↓ctl_keep, ↓ctl_keepR, ctl_mk, ctl_self, ite_self, implies_true, ↓drawBytes_ctl]

theorem dbgChallenge_ctl (a1 s) : ctl (dbgChallenge a1 s) = ctl s := by
  unfold dbgChallenge
  repeat' first
    | (simp only [↓ctl_ite, ↓ctl_keep, ↓ctl_keepR, ctl_mk, ctl_self, ite_self, implies_true, ↓datum_ctl,
          ↓status_ctl, ↓challenge_ctl]; done)
    | split
    | simp only [↓ctl_ite, ↓ctl_keep, ↓ctl_keepR, ctl_mk, ctl_self, ite_self, implies_true, ↓datum_ctl,
          ↓status_ctl, ↓challenge_ctl]

theorem endKeyUsers_ctl (s) : ctl (endKeyUsers s) = ctl s := by
  unfold endKeyUsers
  repeat' first
    | (simp only [↓ctl_ite, ↓ctl_keep, ↓ctl_keepR, ctl_mk, ctl_self, ite_self, implies_true, ↓finish_ctl,
          ↓each_ctl, ↓stopCmd_ctl]; done)
    | split
    | simp only [↓ctl_ite, ↓ctl_keep, ↓ctl_keepR, ctl_mk, ctl_self, ite_self, implies_true, ↓finish_ctl, ↓each_ctl,
          ↓stopCmd_ctl]

theorem zeroize_ctl (s) : ctl (zeroize s) = ctl s := by
  unfold zeroize
  repeat' first
    | (simp only [↓ctl_ite, ↓ctl_keep, ↓ctl_keepR, ctl_mk, ctl_self, ite_self, implies_true, ↓endKeyUsers_ctl,
          ↓settleAfter_ctl, ↓each_ctl, ↓abandonEpoch_ctl, ↓raise0_ctl]; done)
    | split
    | simp only [↓ctl_ite, ↓ctl_keep, ↓ctl_keepR, ctl_mk, ctl_self, ite_self, implies_true, ↓endKeyUsers_ctl,
          ↓settleAfter_ctl, ↓each_ctl, ↓abandonEpoch_ctl, ↓raise0_ctl]

theorem haltAnswered_ctl (s) : ctl (haltAnswered s) = ctl s := by
  unfold haltAnswered
  repeat' first
    | (simp only [↓ctl_ite, ↓ctl_keep, ↓ctl_keepR, ctl_mk, ctl_self, ite_self, implies_true, ↓status_ctl]; done)
    | split
    | simp only [↓ctl_ite, ↓ctl_keep, ↓ctl_keepR, ctl_mk, ctl_self, ite_self, implies_true, ↓status_ctl]

theorem laneEnded_ctl (a1 s) : ctl (laneEnded a1 s) = ctl s := by
  unfold laneEnded
  repeat' first
    | (simp only [↓ctl_ite, ↓ctl_keep, ↓ctl_keepR, ctl_mk, ctl_self, ite_self, implies_true, ↓settleAfter_ctl,
          ↓setLane_ctl, ↓encResume_ctl, ↓decResume_ctl]; done)
    | split
    | simp only [↓ctl_ite, ↓ctl_keep, ↓ctl_keepR, ctl_mk, ctl_self, ite_self, implies_true, ↓settleAfter_ctl,
          ↓setLane_ctl, ↓encResume_ctl, ↓decResume_ctl]

theorem onHaltedLane_ctl (a1) (a2 : State → State) (s) (h0 : ∀ t, ctl (a2 t) = ctl t) :
    ctl (onHaltedLane a1 a2 s) = ctl s := by
  unfold onHaltedLane
  repeat' first
    | (simp only [↓ctl_ite, ↓ctl_keep, ↓ctl_keepR, ctl_mk, ctl_self, ite_self, implies_true, ↓status_ctl,
          ↓laneEnded_ctl, h0]; done)
    | split
    | simp only [↓ctl_ite, ↓ctl_keep, ↓ctl_keepR, ctl_mk, ctl_self, ite_self, implies_true, ↓status_ctl,
          ↓laneEnded_ctl, h0]

theorem rstep_ctl (a1 s) : ctl (rstep a1 s) = ctl s := by
  unfold rstep
  repeat' first
    | (simp only [↓ctl_ite, ↓ctl_keep, ↓ctl_keepR, ctl_mk, ctl_self, ite_self, implies_true, ↓setLane_ctl]; done)
    | split
    | simp only [↓ctl_ite, ↓ctl_keep, ↓ctl_keepR, ctl_mk, ctl_self, ite_self, implies_true, ↓setLane_ctl]

theorem rresume_ctl (a1 s) : ctl (rresume a1 s) = ctl s := by
  unfold rresume
  repeat' first
    | (simp only [↓ctl_ite, ↓ctl_keep, ↓ctl_keepR, ctl_mk, ctl_self, ite_self, implies_true, ↓setLane_ctl]; done)
    | split
    | simp only [↓ctl_ite, ↓ctl_keep, ↓ctl_keepR, ctl_mk, ctl_self, ite_self, implies_true, ↓setLane_ctl]

theorem bpSet_ctl (a1 a2 a3 s) : ctl (bpSet a1 a2 a3 s) = ctl s := by
  unfold bpSet
  repeat' first
    | (simp only [↓ctl_ite, ↓ctl_keep, ↓ctl_keepR, ctl_mk, ctl_self, ite_self, implies_true, ↓status_ctl]; done)
    | split
    | simp only [↓ctl_ite, ↓ctl_keep, ↓ctl_keepR, ctl_mk, ctl_self, ite_self, implies_true, ↓status_ctl]

theorem bpClear_ctl (a1 s) : ctl (bpClear a1 s) = ctl s := by
  unfold bpClear
  repeat' first
    | (simp only [↓ctl_ite, ↓ctl_keep, ↓ctl_keepR, ctl_mk, ctl_self, ite_self, implies_true, ↓status_ctl]; done)
    | split
    | simp only [↓ctl_ite, ↓ctl_keep, ↓ctl_keepR, ctl_mk, ctl_self, ite_self, implies_true, ↓status_ctl]

theorem laneRead_ctl (s a1 a2) : ctl (laneRead s a1 a2).2 = ctl s := by
  unfold laneRead
  repeat' first
    | (simp only [↓ctl_ite, ↓ctl_keep, ↓ctl_keepR, ctl_mk, ctl_self, ite_self, implies_true, ↓free_ctl]; done)
    | split
    | simp only [↓ctl_ite, ↓ctl_keep, ↓ctl_keepR, ctl_mk, ctl_self, ite_self, implies_true, ↓free_ctl]

theorem sramRead_ctl (a1 a2 s) : ctl (sramRead a1 a2 s) = ctl s := by
  unfold sramRead
  repeat' first
    | (simp only [↓ctl_ite, ↓ctl_keep, ↓ctl_keepR, ctl_mk, ctl_self, ite_self, implies_true, ↓datum_ctl,
          ↓status_ctl, ↓eccCount_ctl, ↓ceCount_ctl, ↓raise0_ctl, ↓laneRead_ctl, ↓mergeDrain_ctl]; done)
    | split
    | simp only [↓ctl_ite, ↓ctl_keep, ↓ctl_keepR, ctl_mk, ctl_self, ite_self, implies_true, ↓datum_ctl,
          ↓status_ctl, ↓eccCount_ctl, ↓ceCount_ctl, ↓raise0_ctl, ↓laneRead_ctl, ↓mergeDrain_ctl]

theorem nextAddr_ctl (a1 s) : ctl (nextAddr a1 s) = ctl s := by
  unfold nextAddr
  repeat' first
    | (simp only [↓ctl_ite, ↓ctl_keep, ↓ctl_keepR, ctl_mk, ctl_self, ite_self, implies_true]; done)
    | split
    | simp only [↓ctl_ite, ↓ctl_keep, ↓ctl_keepR, ctl_mk, ctl_self, ite_self, implies_true]

theorem dbgFabric_ctl (a1 s) : ctl (dbgFabric a1 s) = ctl s := by
  unfold dbgFabric
  repeat' first
    | (simp only [↓ctl_ite, ↓ctl_keep, ↓ctl_keepR, ctl_mk, ctl_self, ite_self, implies_true, ↓fabReq_ctl,
          ↓status_ctl]; done)
    | split
    | simp only [↓ctl_ite, ↓ctl_keep, ↓ctl_keepR, ctl_mk, ctl_self, ite_self, implies_true, ↓fabReq_ctl, ↓status_ctl]

theorem dbgRead_ctl (s) : ctl (dbgRead s) = ctl s := by
  unfold dbgRead
  repeat' first
    | (simp only [↓ctl_ite, ↓ctl_keep, ↓ctl_keepR, ctl_mk, ctl_self, ite_self, implies_true, ↓datum_ctl,
          ↓status_ctl, ↓dbgFabric_ctl, ↓sramRead_ctl, ↓nextAddr_ctl]; done)
    | split
    | simp only [↓ctl_ite, ↓ctl_keep, ↓ctl_keepR, ctl_mk, ctl_self, ite_self, implies_true, ↓datum_ctl,
          ↓status_ctl, ↓dbgFabric_ctl, ↓sramRead_ctl, ↓nextAddr_ctl]

theorem laneWrite_ctl (a1 a2 a3 s) : ctl (laneWrite a1 a2 a3 s) = ctl s := by
  unfold laneWrite
  repeat' first
    | (simp only [↓ctl_ite, ↓ctl_keep, ↓ctl_keepR, ctl_mk, ctl_self, ite_self, implies_true, ↓onCtx_ctl]; done)
    | split
    | simp only [↓ctl_ite, ↓ctl_keep, ↓ctl_keepR, ctl_mk, ctl_self, ite_self, implies_true, ↓onCtx_ctl]

theorem sramWrite_ctl (a1 s) : ctl (sramWrite a1 s) = ctl s := by
  unfold sramWrite
  repeat' first
    | (simp only [↓ctl_ite, ↓ctl_keep, ↓ctl_keepR, ctl_mk, ctl_self, ite_self, implies_true, ↓laneWrite_ctl,
          ↓laneWrite1_ctl, ↓status_ctl, ↓raise0_ctl, ↓nextAddr_ctl]; done)
    | split
    | simp only [↓ctl_ite, ↓ctl_keep, ↓ctl_keepR, ctl_mk, ctl_self, ite_self, implies_true, ↓laneWrite_ctl,
          ↓laneWrite1_ctl, ↓status_ctl, ↓raise0_ctl, ↓nextAddr_ctl]

theorem qctlWrite_ctl (a1 s) : ctl (qctlWrite a1 s) = ctl s := by
  unfold qctlWrite
  repeat' first
    | (simp only [↓ctl_ite, ↓ctl_keep, ↓ctl_keepR, ctl_mk, ctl_self, ite_self, implies_true, ↓drawBytes_ctl,
          ↓adminFlushWrite_ctl, ↓ringEnable_ctl]; done)
    | split
    | simp only [↓ctl_ite, ↓ctl_keep, ↓ctl_keepR, ctl_mk, ctl_self, ite_self, implies_true, ↓drawBytes_ctl,
          ↓adminFlushWrite_ctl, ↓ringEnable_ctl]

theorem setAddr_ctl (a1 a2 s) : ctl (setAddr a1 a2 s) = ctl s := by
  unfold setAddr
  repeat' first
    | (simp only [↓ctl_ite, ↓ctl_keep, ↓ctl_keepR, ctl_mk, ctl_self, ite_self, implies_true, ↓status_ctl]; done)
    | split
    | simp only [↓ctl_ite, ↓ctl_keep, ↓ctl_keepR, ctl_mk, ctl_self, ite_self, implies_true, ↓status_ctl]

theorem onOtp_ctl (a1) (a2 : State → State) (s) (h0 : ∀ t, ctl (a2 t) = ctl t) : ctl (onOtp a1 a2 s) = ctl s := by
  unfold onOtp
  repeat' first
    | (simp only [↓ctl_ite, ↓ctl_keep, ↓ctl_keepR, ctl_mk, ctl_self, ite_self, implies_true, ↓status_ctl, h0]; done)
    | split
    | simp only [↓ctl_ite, ↓ctl_keep, ↓ctl_keepR, ctl_mk, ctl_self, ite_self, implies_true, ↓status_ctl, h0]

theorem otpWrite_ctl (a1 a2 a3 s) : ctl (otpWrite a1 a2 a3 s) = ctl s := by
  unfold otpWrite
  repeat' first
    | (simp only [↓ctl_ite, ↓ctl_keep, ↓ctl_keepR, ctl_mk, ctl_self, ite_self, implies_true]; done)
    | split
    | simp only [↓ctl_ite, ↓ctl_keep, ↓ctl_keepR, ctl_mk, ctl_self, ite_self, implies_true]

theorem setField_ctl (a1 a2 s) : ctl (setField a1 a2 s) = ctl s := by
  unfold setField
  repeat' first
    | (simp only [↓ctl_ite, ↓ctl_keep, ↓ctl_keepR, ctl_mk, ctl_self, ite_self, implies_true]; done)
    | split
    | simp only [↓ctl_ite, ↓ctl_keep, ↓ctl_keepR, ctl_mk, ctl_self, ite_self, implies_true]

theorem otpBurn_ctl (a1 a2 s) : ctl (otpBurn a1 a2 s) = ctl s := by
  unfold otpBurn
  repeat' first
    | (simp only [↓ctl_ite, ↓ctl_keep, ↓ctl_keepR, ctl_mk, ctl_self, ite_self, implies_true, ↓drawBytes_ctl,
          ↓status_ctl, ↓setField_ctl]; done)
    | split
    | simp only [↓ctl_ite, ↓ctl_keep, ↓ctl_keepR, ctl_mk, ctl_self, ite_self, implies_true, ↓drawBytes_ctl,
          ↓status_ctl, ↓setField_ctl]

theorem tsLoad_ctl (a1 a2 s) : ctl (tsLoad a1 a2 s) = ctl s := by
  unfold tsLoad
  repeat' first
    | (simp only [↓ctl_ite, ↓ctl_keep, ↓ctl_keepR, ctl_mk, ctl_self, ite_self, implies_true, ↓readKeys_ctl,
          ↓readCtl_ctl, ↓finish_ctl, ↓planReject_ctl, ↓malformed_ctl]; done)
    | split
    | simp only [↓ctl_ite, ↓ctl_keep, ↓ctl_keepR, ctl_mk, ctl_self, ite_self, implies_true, ↓readKeys_ctl,
          ↓readCtl_ctl, ↓finish_ctl, ↓planReject_ctl, ↓malformed_ctl]

theorem tsSlice_ctl (a1 a2 a3 s) : ctl (tsSlice a1 a2 a3 s).2 = ctl s := by
  unfold tsSlice
  repeat' first
    | (simp only [↓ctl_ite, ↓ctl_keep, ↓ctl_keepR, ctl_mk, ctl_self, ite_self, implies_true, ↓sliceGone_ctl,
          ↓free_ctl, ↓raise0_ctl, ↓assayCount_ctl]; done)
    | split
    | simp only [↓ctl_ite, ↓ctl_keep, ↓ctl_keepR, ctl_mk, ctl_self, ite_self, implies_true, ↓sliceGone_ctl,
          ↓free_ctl, ↓raise0_ctl, ↓assayCount_ctl]

theorem tsSlices_ctl (a1 a2 a3 s) : ctl (tsSlices a1 a2 a3 s).2 = ctl s := by
  fun_induction tsSlices a1 a2 a3 s <;>
    repeat' first
      | (simp +zetaDelta only [*, ↓ctl_ite, ↓ctl_keep, ↓ctl_keepR, ctl_mk, ctl_self, ite_self, implies_true,
            ↓tsSlice_ctl]; done)
      | split
      | simp +zetaDelta only [*, ↓ctl_ite, ↓ctl_keep, ↓ctl_keepR, ctl_mk, ctl_self, ite_self, implies_true,
            ↓tsSlice_ctl]

theorem tsRun_ctl (a1 a2 a3 s) : ctl (tsRun a1 a2 a3 s) = ctl s := by
  unfold tsRun
  repeat' first
    | (simp only [↓ctl_ite, ↓ctl_keep, ↓ctl_keepR, ctl_mk, ctl_self, ite_self, implies_true, ↓readKeys_ctl,
          ↓readCtl_ctl, ↓tsSlices_ctl, ↓onCmd_ctl, ↓free_ctl, ↓malformed_ctl, ↓sendResult_ctl]; done)
    | split
    | simp only [↓ctl_ite, ↓ctl_keep, ↓ctl_keepR, ctl_mk, ctl_self, ite_self, implies_true, ↓readKeys_ctl,
          ↓readCtl_ctl, ↓tsSlices_ctl, ↓onCmd_ctl, ↓free_ctl, ↓malformed_ctl, ↓sendResult_ctl]

theorem sendLines_ctl (s) : ctl (sendLines s) = ctl s := by
  unfold sendLines
  repeat' first
    | (simp only [↓ctl_ite, ↓ctl_keep, ↓ctl_keepR, ctl_mk, ctl_self, ite_self, implies_true]; done)
    | split
    | simp only [↓ctl_ite, ↓ctl_keep, ↓ctl_keepR, ctl_mk, ctl_self, ite_self, implies_true]

theorem idle_ctl (s) : ctl (idle s) = ctl s := by
  unfold idle
  repeat' first
    | (simp only [↓ctl_ite, ↓ctl_keep, ↓ctl_keepR, ctl_mk, ctl_self, ite_self, implies_true, ↓grantAll_ctl,
          ↓sendLines_ctl, ↓mergeAge_ctl]; done)
    | split
    | simp only [↓ctl_ite, ↓ctl_keep, ↓ctl_keepR, ctl_mk, ctl_self, ite_self, implies_true, ↓grantAll_ctl,
          ↓sendLines_ctl, ↓mergeAge_ctl]

end Sys2Proof.Machine
end

