-- ==== Sys2Proof/Laws/FastCrypto.lean ====
section
/-! SUPPORT. Functions over numbers that equal those of Crypto.lean and that the kernel evaluates quickly, so that tests
can compute digests and ciphers. -/

set_option Elab.async false

namespace Sys2Proof

/-! ### SHA-256 -/

/-- The chaining words as numbers. -/
structure ShaN where
  a : Nat
  b : Nat
  c : Nat
  d : Nat
  e : Nat
  f : Nat
  g : Nat
  h : Nat
  deriving DecidableEq

def Sha.nat (s : Sha) : ShaN :=
  ⟨s.a.toNat, s.b.toNat, s.c.toNat, s.d.toNat, s.e.toNat, s.f.toNat, s.g.toNat, s.h.toNat⟩

def rotN (n x : Nat) : Nat := (x >>> n) ||| ((x <<< (32 - n)) % 4294967296)
def addN (a b : Nat) : Nat := (a + b) % 4294967296

theorem toNat_rot {n : Nat} (h : n < 32) (x : W32) : (x.rotateRight n).toNat = rotN n x.toNat := by
  simp [rotN, BitVec.toNat_rotateRight, Nat.mod_eq_of_lt h]

theorem toNat_addN (x y : W32) : (x + y).toNat = addN x.toNat y.toNat := by simp [addN, BitVec.toNat_add]

def shaExtN (n : Nat) (w : List Nat) : List Nat :=
  match n with
  | 0 => w
  | k + 1 =>
    let x2 := w.getD 1 0
    let x15 := w.getD 14 0
    let s1 := rotN 17 x2 ^^^ rotN 19 x2 ^^^ (x2 >>> 10)
    let s0 := rotN 7 x15 ^^^ rotN 18 x15 ^^^ (x15 >>> 3)
    shaExtN k (addN (addN (addN s1 (w.getD 6 0)) s0) (w.getD 15 0) :: w)

theorem getD_toNat (w : List W32) (i : Nat) : (w.map BitVec.toNat).getD i 0 = (w.getD i 0).toNat := by
  simp only [List.getD_eq_getElem?_getD, List.getElem?_map]
  cases w[i]? <;> rfl

theorem shaExt_nat (n : Nat) : ∀ w : List W32, (shaExt n w).map BitVec.toNat = shaExtN n (w.map BitVec.toNat) := by
  induction n with
  | zero => intro w; rfl
  | succ k ih =>
    intro w
    rw [shaExt, shaExtN, ih]
    simp only [List.map_cons, getD_toNat, toNat_addN, BitVec.toNat_xor, BitVec.toNat_ushiftRight, toNat_rot (by decide : 17 < 32),
      toNat_rot (by decide : 19 < 32), toNat_rot (by decide : 7 < 32), toNat_rot (by decide : 18 < 32)]

def shaRoundN (s : ShaN) (kw : Nat × Nat) : ShaN :=
  let s1 := rotN 6 s.e ^^^ rotN 11 s.e ^^^ rotN 25 s.e
  let ch := (s.e &&& s.f) ^^^ ((4294967295 - s.e) &&& s.g)
  let t1 := addN (addN (addN (addN s.h s1) ch) kw.1) kw.2
  let s0 := rotN 2 s.a ^^^ rotN 13 s.a ^^^ rotN 22 s.a
  let mj := (s.a &&& s.b) ^^^ (s.a &&& s.c) ^^^ (s.b &&& s.c)
  ⟨addN t1 (addN s0 mj), s.a, s.b, s.c, addN s.d t1, s.e, s.f, s.g⟩

theorem shaRound_nat (s : Sha) (kw : W32 × W32) : (shaRound s kw).nat = shaRoundN s.nat (kw.1.toNat, kw.2.toNat) := by
  simp only [shaRound, shaRoundN, Sha.nat, toNat_addN, BitVec.toNat_xor, BitVec.toNat_and, BitVec.toNat_not,
    toNat_rot (by decide : 6 < 32), toNat_rot (by decide : 11 < 32), toNat_rot (by decide : 25 < 32),
    toNat_rot (by decide : 2 < 32), toNat_rot (by decide : 13 < 32), toNat_rot (by decide : 22 < 32)]

theorem shaRounds_nat (l : List (W32 × W32)) : ∀ s : Sha,
    (l.foldl shaRound s).nat = (l.map fun kw => (kw.1.toNat, kw.2.toNat)).foldl shaRoundN s.nat := by
  induction l with
  | nil => intro s; rfl
  | cons x r ih => intro s; rw [List.foldl_cons, List.map_cons, List.foldl_cons, ih, shaRound_nat]

/-- The round constants as one number, the first in its lowest 32 bits. -/
def shaKAll : Nat :=
  0xc67178f2bef9a3f7a4506ceb90befffa8cc7020884c8781478a5636f748f82ee682e6ff35b9cca4f4ed8aa4a391c0cb334b0bcb52748774c1e376c0819a4c116106aa070f40e3585d6990624d192e819c76c51a3c24b8b70a81a664ba2bfe8a192722c8581c2c92e766a0abb650a735453380d134d2c6dfc2e1b213827b70a851429296706ca6351d5a79147c6e00bf3bf597fc7b00327c8a831c66d983e515276f988da5cb0a9dc4a7484aa2de92c6f240ca1cc0fc19dc6efbe4786e49b69c1c19bf1749bdc06a780deb1fe72be5d74550c7dc3243185be12835b01d807aa98ab1c5ed5923f82a459f111f13956c25be9b5dba5b5c0fbcf71374491428a2f98

def shaKN : List Nat := (List.range 64).map fun i => (shaKAll >>> (32 * i)) % 4294967296

theorem shaKN_eq : shaK.map BitVec.toNat = shaKN := by decide +kernel

def shaCompressN (s : ShaN) (blk : Bytes) : ShaN :=
  let w16 := (List.range 16).map fun i => beNat (slice blk (4 * i) 4) % 4294967296
  let w := (shaExtN 48 w16.reverse).reverse
  let r := (shaKN.zip w).foldl shaRoundN s
  ⟨addN s.a r.a, addN s.b r.b, addN s.c r.c, addN s.d r.d, addN s.e r.e, addN s.f r.f, addN s.g r.g, addN s.h r.h⟩

theorem shaCompress_nat (s : Sha) (blk : Bytes) : (shaCompress s blk).nat = shaCompressN s.nat blk := by
  have h := shaRounds_nat (shaK.zip (shaExt 48 ((List.range 16).map fun i =>
    BitVec.ofNat 32 (beNat (slice blk (4 * i) 4))).reverse).reverse) s
  have hw : ((shaK.zip (shaExt 48 ((List.range 16).map fun i =>
      BitVec.ofNat 32 (beNat (slice blk (4 * i) 4))).reverse).reverse).map fun kw => (kw.1.toNat, kw.2.toNat)) =
      shaKN.zip (shaExtN 48 ((List.range 16).map fun i => beNat (slice blk (4 * i) 4) % 4294967296).reverse).reverse := by
    have : (fun kw : W32 × W32 => (kw.1.toNat, kw.2.toNat)) = Prod.map BitVec.toNat BitVec.toNat := rfl
    rw [this, ← List.zip_map, List.map_reverse, shaExt_nat, List.map_reverse, List.map_map, shaKN_eq]
    rfl
  rw [hw] at h
  rw [shaCompressN, ← h]
  simp only [shaCompress, Sha.nat, toNat_addN]

def shaBytesN (s : ShaN) : Bytes := [s.a, s.b, s.c, s.d, s.e, s.f, s.g, s.h].flatMap fun w => toBE 4 w

def shaFromN (s : ShaN) (before : Nat) (msg : Bytes) : Bytes :=
  let m := msg ++ shaPad (before + msg.length)
  shaBytesN ((chunks (m.length / 64 + 1) 64 m).foldl shaCompressN s)

theorem shaFrom_fast (s : Sha) (before : Nat) (msg : Bytes) : shaFrom s before msg = shaFromN s.nat before msg := by
  have h : ∀ (l : List Bytes) (s : Sha), (l.foldl shaCompress s).nat = l.foldl shaCompressN s.nat := by
    intro l
    induction l with
    | nil => intro s; rfl
    | cons x r ih => intro s; rw [List.foldl_cons, List.foldl_cons, ih, shaCompress_nat]
  rw [shaFrom, shaFromN, ← h]
  simp only [shaBytesN, Sha.bytes, Sha.nat, List.flatMap_cons, List.flatMap_nil]

def shaOfN (b : Bytes) : ShaN :=
  let g := fun i => beNat (slice b (4 * i) 4) % 4294967296
  ⟨g 0, g 1, g 2, g 3, g 4, g 5, g 6, g 7⟩

theorem ofBytes_nat (b : Bytes) : (Sha.ofBytes b).nat = shaOfN b := by simp [Sha.ofBytes, Sha.nat, shaOfN]

/-- The initial chaining words as one number, the first in its lowest 32 bits. -/
def shaInitAll : Nat := 0x5be0cd191f83d9ab9b05688c510e527fa54ff53a3c6ef372bb67ae856a09e667

def shaInitN : ShaN :=
  let w := fun i => (shaInitAll >>> (32 * i)) % 4294967296
  ⟨w 0, w 1, w 2, w 3, w 4, w 5, w 6, w 7⟩

theorem shaInit_nat : shaInit.nat = shaInitN := by decide +kernel

def sha256N (msg : Bytes) : Bytes := shaFromN shaInitN 0 msg

theorem sha256_fast (msg : Bytes) : sha256 msg = sha256N msg := by rw [sha256, shaFrom_fast, shaInit_nat]; rfl

def hmacN (states msg : Bytes) : Bytes :=
  shaFromN (shaOfN (states.drop 32)) 64 (shaFromN (shaOfN (states.take 32)) 64 msg)

theorem hmac_fast (states msg : Bytes) : hmac states msg = hmacN states msg := by
  rw [hmac, hmacN, shaFrom_fast, shaFrom_fast, ofBytes_nat, ofBytes_nat]

def hmacStatesN (k : Bytes) : Bytes :=
  let p := k ++ zeros (64 - k.length)
  shaBytesN (shaCompressN shaInitN (p.map (· ^^^ 0x36#8))) ++ shaBytesN (shaCompressN shaInitN (p.map (· ^^^ 0x5C#8)))

theorem hmacStates_fast (k : Bytes) : hmacStates k = hmacStatesN k := by
  have h : ∀ s : Sha, s.bytes = shaBytesN s.nat := by
    intro s
    simp only [shaBytesN, Sha.bytes, Sha.nat, List.flatMap_cons, List.flatMap_nil]
  rw [hmacStates, hmacStatesN, h, h, shaCompress_nat, shaCompress_nat, shaInit_nat]

/-! ### AES-256 -/

/-- A table of 256 bytes held in one number. -/
def tabN (t : Nat) (b : Byte) : Byte := BitVec.ofNat 8 (t >>> (8 * b.toNat))

def sboxT : Nat :=
  0x16bb54b00f2d99416842e6bf0d89a18cdf2855cee9871e9b948ed9691198f8e19e1dc186b95735610ef6034866b53e708a8bbd4b1f74dde8c6b4a61c2e2578ba08ae7a65eaf4566ca94ed58d6d37c8e779e4959162acd3c25c2406490a3a32e0db0b5ede14b8ee4688902a22dc4f816073195d643d7ea7c41744975fec130ccdd2f3ff1021dab6bcf5389d928f40a351a89f3c507f02f94585334d43fbaaefd0cf584c4a39becb6a5bb1fc20ed00d153842fe329b3d63b52a05a6e1b1a2c830975b227ebe28012079a059618c323c7041531d871f1e5a534ccf73f362693fdb7c072a49cafa2d4adf04759fa7dc982ca76abd7fe2b670130c56f6bf27b777c63

def sboxInvT : Nat :=
  0x7d0c2155631469e126d677ba7e042b17619953833cbbebc8b0f52aae4d3be0a0ef9cc9939f7ae52d0d4ab519a97f51605fec8027591012b131c7078833a8dd1ff45acd78fec0db9a2079d2c64b3e56fc1bbe18aa0e62b76f89c5291d711af1476edf751ce837f9e28535ade72274ac9673e6b4f0cecff297eadc674f4111913a6b8a130103bdafc1020f3fca8f1e2cd00645b3b80558e4f70ad3bc8c00abd890849d8da75746155edab9edfd5048706c92b6655dcc5ca4d41698688664f6f87225d18b6d49a25b76b224d92866a12e084ec3fa420b954cee3d23c2a632947b54cbe9dec444438e3487ff2f9b8239e37cfbd7f3819ea340bf38a53630d56a0952

def mul2T : Nat :=
  0xe5e7e1e3edefe9ebf5f7f1f3fdfff9fbc5c7c1c3cdcfc9cbd5d7d1d3dddfd9dba5a7a1a3adafa9abb5b7b1b3bdbfb9bb858781838d8f898b959791939d9f999b656761636d6f696b757771737d7f797b454741434d4f494b555751535d5f595b252721232d2f292b353731333d3f393b050701030d0f090b151711131d1f191bfefcfaf8f6f4f2f0eeeceae8e6e4e2e0dedcdad8d6d4d2d0cecccac8c6c4c2c0bebcbab8b6b4b2b0aeacaaa8a6a4a2a09e9c9a98969492908e8c8a88868482807e7c7a78767472706e6c6a68666462605e5c5a58565452504e4c4a48464442403e3c3a38363432302e2c2a28262422201e1c1a18161412100e0c0a0806040200

def mul3T : Nat :=
  0x1a191c1f16151013020104070e0d080b2a292c2f26252023323134373e3d383b7a797c7f76757073626164676e6d686b4a494c4f46454043525154575e5d585bdad9dcdfd6d5d0d3c2c1c4c7cecdc8cbeae9ecefe6e5e0e3f2f1f4f7fefdf8fbbab9bcbfb6b5b0b3a2a1a4a7aeada8ab8a898c8f86858083929194979e9d989b818287848d8e8b88999a9f9c95969390b1b2b7b4bdbebbb8a9aaafaca5a6a3a0e1e2e7e4edeeebe8f9fafffcf5f6f3f0d1d2d7d4dddedbd8c9cacfccc5c6c3c0414247444d4e4b48595a5f5c55565350717277747d7e7b78696a6f6c65666360212227242d2e2b28393a3f3c35363330111217141d1e1b18090a0f0c05060300

def mul9T : Nat :=
  0x464f545d626b70790e071c152a233831d6dfc4cdf2fbe0e99e978c85bab3a8a17d746f6659504b42353c272e1118030aede4fff6c9c0dbd2a5acb7be8188939a3039222b141d060f78716a635c554e47a0a9b2bb848d969fe8e1faf3ccc5ded70b0219102f263d34434a5158676e757c9b928980bfb6ada4d3dac1c8f7fee5ecaaa3b8b18e879c95e2ebf0f9c6cfd4dd3a3328211e170c05727b6069565f444d9198838ab5bca7aed9d0cbc2fdf4efe60108131a252c373e49405b526d647f76dcd5cec7f8f1eae3949d868fb0b9a2ab4c455e5768617a73040d161f2029323be7eef5fcc3cad1d8afa6bdb48b829990777e656c535a41483f362d241b120900

def mul11T : Nat :=
  0xa3a8b5be8f849992fbf0ede6d7dcc1ca1318050e3f3429224b405d56676c717ad8d3cec5f4ffe2e9808b969daca7bab168637e75444f5259303b262d1c170a01555e434879726f640d061b10212a373ce5eef3f8c9c2dfd4bdb6aba0919a878c2e2538330209141f767d606b5a514c479e958883b2b9a4afc6cdd0dbeae1fcf7545f424978736e650c071a11202b363de4eff2f9c8c3ded5bcb7aaa1909b868d2f2439320308151e777c616a5b504d469f948982b3b8a5aec7ccd1daebe0fdf6a2a9b4bf8e859893faf1ece7d6ddc0cb1219040f3e3528234a415c57666d707bd9d2cfc4f5fee3e8818a979cada6bbb069627f74454e5358313a272c1d160b00

def mul13T : Nat :=
  0x979a8d80a3aeb9b4fff2e5e8cbc6d1dc474a5d50737e69642f2235381b16010c2c21363b1815020f44495e53707d6a67fcf1e6ebc8c5d2df94998e83a0adbab7faf7e0edcec3d4d9929f8885a6abbcb12a27303d1e130409424f5855767b6c61414c5b5675786f622924333e1d10070a919c8b86a5a8bfb2f9f4e3eecdc0d7da4d40575a7974636e25283f32111c0b069d90878aa9a4b3bef5f8efe2c1ccdbd6f6fbece1c2cfd8d59e938489aaa7b0bd262b3c31121f08054e4354597a77606d202d3a3714190e034845525f7c71666bf0fdeae7c4c9ded39895828faca1b6bb9b96818cafa2b5b8f3fee9e4c7caddd04b46515c7f726568232e3934171a0d00

def mul14T : Nat :=
  0x8d83919fb5bba9a7fdf3e1efc5cbd9d76d63717f555b49471d13010f252b393756584a446e60727c26283a341e10020cb6b8aaa48e80929cc6c8dad4fef0e2ec202e3c321816040a505e4c426866747ac0cedcd2f8f6e4eab0beaca28886949afbf5e7e9c3cddfd18b859799b3bdafa11b150709232d3f316b657779535d4f41ccc2d0def4fae8e6bcb2a0ae848a98962c22303e141a08065c52404e646a787617190b052f21333d67697b755f51434df7f9ebe5cfc1d3dd87899b95bfb1a3ad616f7d735957454b111f0d032927353b818f9d93b9b7a5abf1ffede3c9c7d5dbbab4a6a8828c9e90cac4d6d8f2fceee05a544648626c7e702a243638121c0e00

theorem byte_all {P : Byte → Prop} [∀ b, Decidable (P b)] (h : ∀ n : Fin 256, P (BitVec.ofFin n)) : ∀ b, P b :=
  fun b => h b.toFin

theorem sbox_fast : sbox = tabN sboxT := funext (byte_all (P := fun b => sbox b = tabN sboxT b) (by decide +kernel))
theorem sboxInv_fast : sboxInv = tabN sboxInvT :=
  funext (byte_all (P := fun b => sboxInv b = tabN sboxInvT b) (by decide +kernel))
theorem gmul1_fast : ∀ b, gmul 8 b 1 = b := byte_all (by decide +kernel)
theorem gmul2_fast : ∀ b, gmul 8 b 2 = tabN mul2T b := byte_all (by decide +kernel)
theorem gmul3_fast : ∀ b, gmul 8 b 3 = tabN mul3T b := byte_all (by decide +kernel)
theorem gmul9_fast : ∀ b, gmul 8 b 9 = tabN mul9T b := byte_all (by decide +kernel)
theorem gmul11_fast : ∀ b, gmul 8 b 11 = tabN mul11T b := byte_all (by decide +kernel)
theorem gmul13_fast : ∀ b, gmul 8 b 13 = tabN mul13T b := byte_all (by decide +kernel)
theorem gmul14_fast : ∀ b, gmul 8 b 14 = tabN mul14T b := byte_all (by decide +kernel)

def mixN (f0 f1 f2 f3 : Byte → Byte) (s : Bytes) : Bytes :=
  (List.range 16).map fun i =>
    let c := 4 * (i / 4)
    let r := i % 4
    let e := fun k => s.getD (c + (r + k) % 4) 0
    f0 (e 0) ^^^ f1 (e 1) ^^^ f2 (e 2) ^^^ f3 (e 3)

theorem mixEnc_fast (s : Bytes) : mixCols 2 3 1 1 s = mixN (tabN mul2T) (tabN mul3T) id id s := by
  simp only [mixCols, mixN, gmul1_fast, gmul2_fast, gmul3_fast, id]

theorem mixDec_fast (s : Bytes) : mixCols 14 11 13 9 s = mixN (tabN mul14T) (tabN mul11T) (tabN mul13T) (tabN mul9T) s := by
  simp only [mixCols, mixN, gmul14_fast, gmul11_fast, gmul13_fast, gmul9_fast]

def expandN (n i : Nat) (rcon : Byte) (w : List Bytes) : List Bytes :=
  match n with
  | 0 => w
  | k + 1 =>
    let t := w.headD []
    let t' :=
      if i % 8 = 0 then
        match (t.drop 1 ++ t.take 1).map (tabN sboxT) with
        | x :: r => (x ^^^ rcon) :: r
        | [] => []
      else if i % 8 = 4 then t.map (tabN sboxT) else t
    let rcon' := if i % 8 = 0 then xtime rcon else rcon
    expandN k (i + 1) rcon' (xorB (w.getD 7 []) t' :: w)

theorem expand_fast (n : Nat) : ∀ i rcon w, aesExpand n i rcon w = expandN n i rcon w := by
  induction n with
  | zero => intros; rfl
  | succ k ih =>
    intro i rcon w
    rw [aesExpand, expandN, ih, sbox_fast] <;> rfl

def keysN (key : Bytes) : List Bytes :=
  let w := (expandN 52 8 0x01#8 (chunks 8 4 key).reverse).reverse
  (chunks 15 4 w).map List.flatten

theorem keys_fast (key : Bytes) : aesKeys key = keysN key := by rw [aesKeys, keysN, expand_fast]

def encN (ks : List Bytes) (blk : Bytes) : Bytes :=
  let s0 := xorB blk (ks.headD [])
  let s := ((ks.drop 1).take 13).foldl
    (fun st k => xorB (mixN (tabN mul2T) (tabN mul3T) id id (shiftRows 1 (st.map (tabN sboxT)))) k) s0
  xorB (shiftRows 1 (s.map (tabN sboxT))) (ks.getD 14 [])

theorem enc_fast (key blk : Bytes) : aesEnc key blk = encN (keysN key) blk := by
  simp only [aesEnc, encN, keys_fast, mixEnc_fast, sbox_fast]

def decN (ks : List Bytes) (blk : Bytes) : Bytes :=
  let s0 := xorB blk (ks.headD [])
  let s := ((ks.drop 1).take 13).foldl
    (fun st k => mixN (tabN mul14T) (tabN mul11T) (tabN mul13T) (tabN mul9T) (xorB ((shiftRows 3 st).map (tabN sboxInvT)) k)) s0
  xorB ((shiftRows 3 s).map (tabN sboxInvT)) (ks.getD 14 [])

theorem dec_fast (key blk : Bytes) : aesDec key blk = decN (keysN key).reverse blk := by
  simp only [aesDec, decN, keys_fast, mixDec_fast, sboxInv_fast]

def xtsDecN (keys : Bytes) (sector : Nat) (d : Bytes) : Bytes :=
  let ks := (keysN (keys.take 32)).reverse
  xtsGo (decN ks) (encN (keysN (keys.drop 32)) (toLE 16 sector)) (chunks (d.length / 16 + 1) 16 d)

theorem xtsDec_fast (keys : Bytes) (sector : Nat) (d : Bytes) : xtsDec keys sector d = xtsDecN keys sector d := by
  rw [xtsDec, xtsDecN, enc_fast, show aesDec (keys.take 32) = decN (keysN (keys.take 32)).reverse from funext (dec_fast _)]

def unwrapN (ks : List Bytes) (n t : Nat) (a : Bytes) (r : List Bytes) : Bytes × List Bytes :=
  match t with
  | 0 => (a, r)
  | k + 1 =>
    let i := k % n
    let b := decN ks (toBE 8 (beNat a ^^^ (k + 1)) ++ r.getD i [])
    unwrapN ks n k (b.take 8) (r.set i (b.drop 8))

theorem unwrapGo_fast (kek : Bytes) (n t : Nat) : ∀ a r, unwrapGo kek n t a r = unwrapN (keysN kek).reverse n t a r := by
  induction t with
  | zero => intros; rfl
  | succ k ih =>
    intro a r
    rw [unwrapGo, unwrapN, dec_fast, ih]

def keyUnwrapN (kek iv wrapped : Bytes) : Option Bytes :=
  let n := wrapped.length / 8 - 1
  let x := unwrapN (keysN kek).reverse n (6 * n) (wrapped.take 8) (chunks n 8 (wrapped.drop 8))
  if x.1 = iv then some x.2.flatten else none

theorem keyUnwrap_fast (kek iv wrapped : Bytes) : keyUnwrap kek iv wrapped = keyUnwrapN kek iv wrapped := by
  rw [keyUnwrap, keyUnwrapN, unwrapGo_fast]

end Sys2Proof
end

