-- ==== Sys2Proof/Laws/Tab.lean ====
section
/-! SUPPORT. Reads after writes of the number-keyed tables, their canonical form, membership of interval sets. -/

set_option Elab.async false

namespace Sys2Proof

namespace Tab

variable {α : Type}

@[simp] theorem get?_nil (k : Nat) : get? ([] : Tab α) k = none := rfl

theorem get?_put_self (t : Tab α) (k : Nat) (v : α) : get? (put t k v) k = some v := by
  induction t with
  | nil => simp [put, get?]
  | cons e r ih =>
    obtain ⟨j, w⟩ := e
    unfold put
    split
    · simp [get?]
    · split
      · simp [get?]
      · next h => rw [get?, if_neg (fun e => h e.symm)]; exact ih

theorem get?_put_ne (t : Tab α) {k i : Nat} (v : α) (h : i ≠ k) : get? (put t k v) i = get? t i := by
  induction t with
  | nil => simp [put, get?, h.symm]
  | cons e r ih =>
    obtain ⟨j, w⟩ := e
    unfold put
    split
    · rw [get?, if_neg h.symm]
    · split
      · next e => subst e; rw [get?, get?, if_neg h.symm, if_neg h.symm]
      · rw [get?, get?, ih]

theorem get?_del_self (t : Tab α) (k : Nat) : get? (del t k) k = none := by
  induction t with
  | nil => rfl
  | cons e r ih =>
    obtain ⟨j, w⟩ := e
    unfold del
    split
    · exact ih
    · next h => rw [get?, if_neg h]; exact ih

theorem get?_del_ne (t : Tab α) {k i : Nat} (h : i ≠ k) : get? (del t k) i = get? t i := by
  induction t with
  | nil => rfl
  | cons e r ih =>
    obtain ⟨j, w⟩ := e
    unfold del
    split
    · next e => subst e; rw [get?, if_neg h.symm, ih]
    · rw [get?, get?, ih]

theorem get?_upd (t : Tab α) (k i : Nat) (f : α → α) :
    get? (upd t k f) i = if i = k then (get? t i).map f else get? t i := by
  induction t with
  | nil => simp [upd]
  | cons e r ih =>
    obtain ⟨j, w⟩ := e
    unfold upd at *
    rw [List.map_cons]
    by_cases hj : j = k
    · subst hj
      by_cases hi : i = j
      · subst hi; simp [get?]
      · simp only [if_true, get?, if_neg hi, if_neg (Ne.symm hi)] at *
        exact ih
    · by_cases hi : i = k
      · subst hi; simp only [if_neg hj, if_true, get?] at *; exact ih
      · simp only [if_neg hj, if_neg hi, get?] at *
        rw [ih]

/-- What a table holds after a write is the value written or was there. -/
theorem mem_put (t : Tab α) (k : Nat) (v : α) (e : Nat × α) (h : e ∈ put t k v) : e = (k, v) ∨ e ∈ t := by
  induction t with
  | nil => simpa [put] using h
  | cons x r ih =>
    obtain ⟨j, w⟩ := x
    unfold put at h
    split at h
    · simpa using h
    · split at h
      · rcases List.mem_cons.1 h with h | h
        · exact .inl h
        · exact .inr (List.mem_cons_of_mem _ h)
      · rcases List.mem_cons.1 h with h | h
        · exact .inr (h ▸ List.mem_cons_self ..)
        · rcases ih h with h | h
          · exact .inl h
          · exact .inr (List.mem_cons_of_mem _ h)

end Tab

end Sys2Proof
end

