-- ==== Sys2Proof/Tests/States.lean ====
section
/-! SUPPORT. Small states and operands that the tests and the witnesses build on. -/

set_option Elab.async false

namespace Sys2Proof.Tests

open Sys2Proof.Machine

/-- `n` bytes with fields at offsets: (offset, size, value), lowest byte first. -/
def fields (n : Nat) (l : List (Nat × Nat × Nat)) : Bytes :=
  l.foldl (fun b f => overwrite b f.1 (toLE f.2.1 f.2.2)) (zeros n)

/-- A one-slot item of an opcode. -/
def item (op : Nat) (l : List (Nat × Nat × Nat)) : Bytes := fields 64 ((0, 1, 1) :: (1, 1, op) :: l)

/-- A two-slot item. -/
def item2 (op : Nat) (l : List (Nat × Nat × Nat)) : Bytes := fields 128 ((0, 1, 1) :: (1, 1, op) :: l)

/-- The descriptor of a queue: rings of 16 entries at 4,096 and 8,192, head shadow at 12,288, weight 1, burst 1. -/
def desc : Bytes :=
  fields 64 [(0, 8, 4096), (8, 8, 8192), (24, 8, 12288), (32, 1, 4), (33, 1, 4), (34, 1, 0), (35, 1, 1), (36, 1, 1)]

/-- The descriptor of an event ring of 64 entries. -/
def evDesc : Bytes := fields 64 [(0, 8, 16384), (8, 1, 6)]

/-- A queue in service. -/
def queue : Queue := { desc }

/-- The rings are in service, with queues 0 and 1. -/
def rings (s : State) : State :=
  { s with
    ring := { s.ring with queues := [(0, queue), (1, queue)], ev := { s.ring.ev with desc := evDesc } }
    regs.qctl := { s.regs.qctl with enable := true, ready := true, sawReady := true } }

/-- A command in STARTED. -/
def started (q seq : Nat) (it : Bytes) : Cmd := { q, seq, item := it, pos := 0, mirrored := true, st := .started }

/-- The state with one command, and both rings in service. -/
def withCmd (c : Cmd) : State := { rings State.reset with ldg.cmds := [c] }

/-- The state with an admin command in STARTED, and one with a work command. -/
def adminCmd (op : Nat) (l : List (Nat × Nat × Nat)) : State := withCmd (started 0 1 (item op l))
def workCmd (op : Nat) (l : List (Nat × Nat × Nat)) : State := withCmd (started 1 1 (item op l))

/-- A stream context in RUN, of a vault read. -/
def ctx : Ctx := { state := 2, kind := 4, cls := 4, q := 1, slot := 0, seq := 1 }

/-- A plan with a group header entry at index 0 that names vault 1 and keys 1, and with the entries given. -/
def planOf (entries : List Bytes) : Bytes := fields 64 [(0, 1, 0)] ++ entries.flatten

/-- An epoch of plan 0, opened by command 1 of queue 1. -/
def epoch (num phase : Nat) (list : Bytes) : Epoch :=
  { num, plan := 0, gen := 1, list, phase, base := 0, anchor := 0, incr := false, q := 1, seq := 1 }

/-- A vault of 16,384 sectors at 1 MiB. -/
def vaultItem : Bytes := item 1 [(8, 4, 1), (16, 8, 0x100000), (24, 8, 16384)]

/-- A topology of this device and a buddy, device 7, on port 0; a second record for it stands at index 0 of role 1. -/
def selfRec : Bytes := fields 32 [(0, 4, 5), (6, 1, 0), (7, 1, 0xFF), (8, 4, 1)]
def buddy7 : Bytes := fields 32 [(0, 4, 7), (4, 1, 1), (6, 1, 1), (7, 1, 0xFF), (8, 4, 1)]

/-- The link to device 7 is up, and the peer is ready. -/
def linked (s : State) : State :=
  { s with
    adm.topo := [selfRec, buddy7], adm.topoSet := true, adm.selfDev := some 5, adm.selfGen := 1
    spl.ports := [(0, { state := 5, partner := 7 })]
    spl.peers := [(7, { ready := true, port := 0 })] }

def withVault (s : State) : State := { s with adm.vaults := [(1, { item := vaultItem })] }

def withGrant (owner : Nat) (s : State) : State :=
  { s with adm.grants := [(3, { owner, tdid := 0, base := 0x200000, len := 65536, gen := 9 })] }

/-- The list of plan 0: vault 1, keys 1 and 0, one replica, and a RANGE entry of one plate at 65,536. -/
def headerEntry : Bytes := fields 64 [(4, 4, 1), (8, 1, 1), (12, 4, 1)]
def rangeEntry : Bytes := fields 64 [(0, 1, 1), (8, 8, 65536), (16, 8, 65536), (24, 4, 1)]
def planList : Bytes := headerEntry ++ rangeEntry

/-- The windows of filter 0: 16 plates from address 0. -/
def windows (s : State) : State :=
  { s with regs.shadow.applied := [(0x120, 0), (0x140, 16)] }

def gen1 : Gen := { plan := 0, num := 1, list := 0x8000, tdid := 0, count := 2, crc := crcN planList, bytes := planList }

def withGen (s : State) : State := { windows (withVault s) with adm.gens := [gen1] }

/-- Data key 1 and HMAC slot 0 hold keys. -/
def keyed (s : State) : State :=
  { s with adm.keys := [(1, { form := 2, content := zeros 64, kcv := zeros 8 }), (256, { form := 3, content := zeros 64, kcv := zeros 8 })] }

/-- A list with a ROWTABLE entry of 1,024 rows of 64 B at 65,536, tracked at 131,072, with check values. -/
def rowEntry : Bytes :=
  fields 64 [(0, 1, 2), (4, 2, 16), (8, 8, 65536), (16, 8, 1024), (24, 4, 1), (28, 2, 64), (40, 8, 131072)]
def rowList : Bytes := headerEntry ++ rowEntry
def rowGen : Gen := { plan := 0, num := 1, list := 0x8000, tdid := 0, count := 2, crc := crcN rowList, bytes := rowList }
def withRows (s : State) : State := { windows (withVault s) with adm.gens := [rowGen] }

/-- Queue 1 as given. -/
def withQueueS (x : Queue) (s : State) : State := { s with ring.queues := [(0, queue), (1, x)] }

/-- The tracking region of the rows, without its groups. -/
def regionOf : Region := { plan := 0, entry := 1, lastCut := 0, rows := 1024, rowSize := 64, cv := true }

theorem all_of {α : Type} {o : Option α} {P : α → Prop} [DecidablePred P] (h : o.all (fun x => decide (P x)) = true) :
    ∀ x, o = some x → P x := by
  rintro x rfl
  simpa using h

theorem reset_ok : (ctl State.reset).ok :=
  ⟨⟨nofun, nofun, nofun, by decide, by decide, by decide⟩, by decide, by decide, by decide⟩

end Sys2Proof.Tests
end

