-- ==== Sys2Proof/Tests/Sealed.lean ====
section
/-! SUPPORT. A vault with one sealed epoch, whose ciphertext was computed apart from the model (FIPS 197, IEEE 1619,
FIPS 180-4): vault 1, epoch 1, one ingot of one plate in stream 1; and what reading it gives. -/

set_option Elab.async false

set_option maxRecDepth 100000

namespace Sys2Proof.Tests

open Sys2Proof.Machine

/-! ### Check values -/

theorem toLE_length (k : Nat) : ∀ n, (toLE k n).length = k := by
  induction k with
  | zero => intro n; rfl
  | succ k ih => intro n; simp [toLE, ih]

theorem leNat_toLE (k : Nat) : ∀ n, n < 256 ^ k → leNat (toLE k n) = n := by
  induction k with
  | zero => intro n h; simp at h; simp [toLE, leNat, h]
  | succ k ih =>
    intro n h
    rw [toLE, leNat, ih _ (by rw [Nat.div_lt_iff_lt_mul (by decide)]; rw [pow_succ] at h; exact h)]
    simp
    omega

theorem slice_append (x y : Bytes) (n : Nat) (h : n = x.length) : slice (x ++ y) 0 n = x := by
  subst h
  simp [slice]

/-- A sector whose check value field holds the check value passes. -/
theorem crc_ok {vid n : Nat} {x b : Bytes} (hx : x.length = 4080) {e : Nat}
    (hb : b = x ++ (toLE 4 (crcN (foldPrefix vid n e ++ x)) ++ zeros 12)) (he : fld b 4068 4 = e) :
    sectorCrcOk vid n b = true := by
  have hl : b.length = 4096 := by rw [hb]; simp [toLE_length, hx, zeros]
  have h0 : slice b 0 4080 = x := by rw [hb]; exact slice_append _ _ _ hx.symm
  have hc : fld b 4080 4 = crcN (foldPrefix vid n e ++ x) := by
    have h1 : slice b 4080 4 = toLE 4 (crcN (foldPrefix vid n e ++ x)) := by
      rw [slice, hb, ← hx, List.drop_left']
      · simp [toLE_length]
      · rfl
    rw [fld, h1]
    exact leNat_toLE 4 _ (BitVec.isLt _)
  rw [sectorCrcOk, he, h0, hc, hl]
  simp

/-- A stored sector of vault 1 and epoch 1, whose ciphertext begins with `ct`. -/
def stored (n kind stream isector : Nat) (ct : Bytes) : Bytes :=
  let x := ct ++ zeros (4064 - ct.length) ++ sectorHeader kind false 1 0 1 stream isector
  x ++ (toLE 4 (crcN (foldPrefix 1 n 1 ++ x)) ++ zeros 12)

/-! ### The vault -/

/-- The first ciphertext bytes of the seal header. -/
def sealHeadC : Bytes := toBE 144
  0x9f472e6ecbe5488f09d44b6b7f7b7daf3454dd49ebd8d8ee6f94b65cbe158f73f2d4e4863691cf7b920fe34049a1a6e4a3794214dd03a216b311ff6714136e65d82530e811ce7c62e40e066805bc66388830b4339fe918e42dac3e7b58ca9a61c6bb074cf11fbfe5e7e3a37e1d227216985511b54dec5aa727d08675bb1e8cefb054bbf3a8d7584df3e40463307203c5

/-- The first bytes of the payload of the seal header. -/
def sealHead : Bytes := toBE 144
  0x5345414c0100000001000000010000000000000000000000000000000000000001000000000000007b55db7bc34607f9327ddc302540eed582e15efdc06f3755a9b10e828534cac6010000000100000001000000000000000500000000000000004000000000000001000000001000000200000000000000010000000000000000000000000000000000000000000000

/-- The first ciphertext bytes of the list stream. -/
def sealListC : Bytes := toBE 32
  0x37171967a1f618cc84fb278a89fb132f1f926201c82753187de78f83a6e7bfad

/-- The first bytes of the payload of the list stream. -/
def sealList : Bytes := toBE 32
  0x0100000001000000020000000000000013000000000000000000000000000000

/-- The first ciphertext bytes of the ingot header. -/
def ingotHeadC : Bytes := toBE 112
  0x8123a7eb630d0d926a1a3f996291c857b312b970ba614776c12d0887fb74e8e59cf48228529ba13a69ef73dd198b6a5a3b7c1d05dd2648b9de84929cad2c26faca239f90689ffb0a338d1f54cc38a5599806a31d7b6896f5827b94676204dcb04cfc301f2af14d859e2fa5e6606d72b7

/-- The first bytes of the payload of the ingot header. -/
def ingotHead : Bytes := toBE 112
  0x494e4754010001000000000001000000000001000000000000000100000000001100000001000000000000000100000000000000000000000000000000000000000000000000000010000000010000000000000000000000000000000000000000000000000000000000000000000000

/-- The first ciphertext bytes of the index sector. -/
def indexHeadC : Bytes := toBE 48
  0x9a008dc3766b7fe676c12f1f4c23b8810267fad2b3dec69820aaf3a22c6b437b1707917672331d9e0413cbb5abf29104

/-- The first bytes of the payload of the index sector. -/
def indexHead : Bytes := toBE 48
  0x000000000000000000000000000000000000000000000000000000000000000000000000000001000000010000000000

def sealSector : Bytes := stored 0 5 0 0 sealHeadC
def listStored : Bytes := stored 1 5 0 1 sealListC
def ingotSector0 : Bytes := stored 2 1 1 0 ingotHeadC
def indexSector : Bytes := stored 20 3 1 18 indexHeadC

def sealedVault : Tab Bytes := [(0, sealSector), (1, listStored), (2, ingotSector0), (20, indexSector)]

theorem crc_of {n kind stream isector : Nat} {ct : Bytes} (hl : ((stored n kind stream isector ct).take 4080).length = 4080)
    (hb : stored n kind stream isector ct = (stored n kind stream isector ct).take 4080 ++
      (toLE 4 (crcN (foldPrefix 1 n 1 ++ (stored n kind stream isector ct).take 4080)) ++ zeros 12))
    (he : fld (stored n kind stream isector ct) 4068 4 = 1) :
    sectorCrcOk 1 n (stored n kind stream isector ct) = true := crc_ok hl hb he

theorem seal_crc : sectorCrcOk 1 0 sealSector = true := crc_of (by decide +kernel) rfl (by decide +kernel)
theorem list_crc : sectorCrcOk 1 1 listStored = true := crc_of (by decide +kernel) rfl (by decide +kernel)
theorem ingot_crc : sectorCrcOk 1 2 ingotSector0 = true := crc_of (by decide +kernel) rfl (by decide +kernel)
theorem index_crc : sectorCrcOk 1 20 indexSector = true := crc_of (by decide +kernel) rfl (by decide +kernel)

theorem seal_plain : (payloadOf (zeros 64) 0 sealSector).take 144 = sealHead := by
  rw [payloadOf, xtsDec_fast]; decide +kernel
theorem list_plain : (payloadOf (zeros 64) 1 listStored).take 32 = sealList := by
  rw [payloadOf, xtsDec_fast]; decide +kernel
theorem ingot_plain : (payloadOf (zeros 64) 2 ingotSector0).take 112 = ingotHead := by
  rw [payloadOf, xtsDec_fast]; decide +kernel
theorem index_plain : (payloadOf (zeros 64) 20 indexSector).take 48 = indexHead := by
  rw [payloadOf, xtsDec_fast]; decide +kernel

theorem slice_of_take {p x : Bytes} {k : Nat} (h : p.take k = x) (o n : Nat) (hn : o + n ≤ k) : slice p o n = slice x o n := by
  subst h
  simp only [slice, List.drop_take, List.take_take]
  rw [Nat.min_eq_left (by omega)]

theorem fld_of_take {p x : Bytes} {k : Nat} (h : p.take k = x) (o n : Nat) (hn : o + n ≤ k) : fld p o n = fld x o n := by
  rw [fld, fld, slice_of_take h o n hn]

/-- The state holds the keys of the vault. -/
structure Keyed (s : State) : Prop where
  data : keyBytes s 1 = zeros 64
  mac : keyBytes s 256 = zeros 64
  ok : slotsBad s 1 0 = none
  kcv : kcvOfSlot s 1 = zeros 8
  hkcv : kcvOfSlot s 256 = zeros 8

/-- The seal record of epoch 1. -/
def sealed1 : SealRec :=
  { vid := 1, epoch := 1, base := 0, anchor := 1, plan := 0, fenceGen := 0
    lay := { area := 16384, tail := 4096, ms := 2, shared := 0 }, kslot := 1, hslot := 0, kcv := zeros 8, hkcv := zeros 8
    hallmark := slice sealHead 40 32, ingots := [sealList], hms := [], disputes := [] }

/-- The first payload bytes of the seal header decide what reading it gives. -/
theorem readSeal_of {s : State} {sectors : Tab Bytes} {area : Option Nat} {t epoch vid : Nat} {b p q key : Bytes}
    (hb : Tab.get? sectors t = some b) (hl : hKind b = 5 ∧ b.length = 4096 ∧ hEpoch b = epoch ∧ hStream b = 0 ∧ hIsector b = 0)
    (hs : slotsBad s (hKslot b) (hHslot b) = none) (hk : keyBytes s (hKslot b) = key) (hp : payloadOf key t b = p)
    (hv : fld p 8 4 = vid) (hc : sectorCrcOk vid t b = true)
    (hpo : hPoison b = false) (hm : slice p 0 4 = [0x53, 0x45, 0x41, 0x4C] ∧ fld p 4 2 = 1)
    (h1 : slice p 128 8 = kcvOfSlot s (hKslot b)) (h2 : slice p 136 8 = kcvOfSlot s (256 + hHslot b))
    (ha : area.any (· ≠ (layoutIn p).area) = false) (hms : (layoutIn p).ms = 2)
    (hq : listSector s sectors vid (t + 1) epoch 1 = (.ok q, none))
    (hh : epochHallmark (keyBytes s (256 + hHslot b)) p
      (q.take (32 * fld p 120 4 + 32 * fld p 24 8 + 16 * fld p 124 2)) = slice p 40 32) :
    readSeal s sectors area t epoch = .ok
      { vid, epoch, base := fld p 16 4, anchor := fld p 72 4, plan := fld p 20 2, fenceGen := fld p 92 4
        lay := layoutIn p, kslot := hKslot b, hslot := hHslot b, kcv := slice p 128 8, hkcv := slice p 136 8
        hallmark := slice p 40 32
        ingots := (listParts p (q.take (32 * fld p 120 4 + 32 * fld p 24 8 + 16 * fld p 124 2))).1
        hms := (listParts p (q.take (32 * fld p 120 4 + 32 * fld p 24 8 + 16 * fld p 124 2))).2.1
        disputes := (listParts p (q.take (32 * fld p 120 4 + 32 * fld p 24 8 + 16 * fld p 124 2))).2.2 } := by
  obtain ⟨k1, k2, k3, k4, k5⟩ := hl
  have hr : (List.range ((layoutIn p).ms - 1)).map (fun i => listSector s sectors vid (t + 1 + i) epoch (1 + i)) = [(.ok q, none)] := by
    rw [hms]
    exact congrArg (fun x => [x]) hq
  have hd : Tab.getD sectors t [] = b := by rw [Tab.getD, hb]; rfl
  have hhd : readSealHead s sectors t epoch = .inr p := by
    unfold readSealHead
    rw [hb]
    simp only [k1, k2, k3, k4, k5, hs, hk, hp, hv, hc, hpo, hm.1, hm.2, h1, h2, Nat.lt_irrefl, ne_eq, not_true_eq_false, or_self,
      if_false, Bool.not_true, Bool.false_eq_true]
  unfold readSeal
  rw [hhd]
  simp only [ha, hd, if_false, Bool.false_eq_true]
  unfold readSealList
  simp only [hv, hr]
  simp only [List.any_cons, List.any_nil, List.flatMap_cons, List.flatMap_nil, List.append_nil, List.findSome?_cons,
    List.findSome?_nil, Bool.or_false, Bool.false_eq_true, if_false, hh, ne_eq, not_true_eq_false]

theorem list_read {s : State} (hk : Keyed s) :
    listSector s sealedVault 1 1 1 1 = (.ok (payloadOf (zeros 64) 1 listStored), none) := by
  have hb : Tab.get? sealedVault 1 = some listStored := rfl
  have hd : Tab.getD sealedVault 1 [] = listStored := rfl
  have h : hKind listStored = 5 ∧ hEpoch listStored = 1 ∧ hStream listStored = 0 ∧ hIsector listStored = 1 ∧
    hPoison listStored = false ∧ hKslot listStored = 1 ∧ hHslot listStored = 0 := by decide +kernel
  obtain ⟨h1, h2, h3, h4, h5, h6, h7⟩ := h
  rw [listSector, readSector, hb]
  simp [list_crc, hd, h1, h2, h3, h4, h5, h6, h7, hk.data, hk.ok]

/-- Reading the seal of epoch 1. -/
theorem seal_read {s : State} (hk : Keyed s) {area : Option Nat} (ha : area.any (· ≠ 16384) = false) :
    readSeal s sealedVault area 0 1 = .ok sealed1 := by
  have f := fun o n h => fld_of_take seal_plain o n h
  have g := fun o n h => slice_of_take seal_plain o n h
  have hsec : hKslot sealSector = 1 ∧ hHslot sealSector = 0 := by decide +kernel
  have hlay : layoutIn (payloadOf (zeros 64) 0 sealSector) = { area := 16384, tail := 4096, ms := 2, shared := 0 } := by
    simp only [layoutIn, f 96 8 (by decide), f 108 4 (by decide), f 112 4 (by decide), f 116 4 (by decide)]
    decide +kernel
  have hlist : (payloadOf (zeros 64) 1 listStored).take (32 * fld (payloadOf (zeros 64) 0 sealSector) 120 4 +
      32 * fld (payloadOf (zeros 64) 0 sealSector) 24 8 + 16 * fld (payloadOf (zeros 64) 0 sealSector) 124 2) = sealList := by
    simp only [f 120 4 (by decide), f 24 8 (by decide), f 124 2 (by decide)]
    exact list_plain
  refine (readSeal_of (vid := 1) (key := zeros 64) (b := sealSector) (q := payloadOf (zeros 64) 1 listStored) rfl (by decide +kernel)
    ?_ ?_ rfl ((f 8 4 (by decide)).trans (by decide +kernel)) seal_crc
    (by decide +kernel) ⟨(g 0 4 (by decide)).trans (by decide +kernel), (f 4 2 (by decide)).trans (by decide +kernel)⟩ ?_ ?_ ?_ ?_ (list_read hk) ?_).trans ?_
  · rw [hsec.1, hsec.2]; exact hk.ok
  · rw [hsec.1]; exact hk.data
  · rw [hsec.1, hk.kcv, g 128 8 (by decide)]; decide +kernel
  · rw [hsec.2, hk.hkcv, g 136 8 (by decide)]; decide +kernel
  · rw [hlay]; exact ha
  · rw [hlay]
  · rw [hlist, hsec.2, hk.mac, epochHallmark, g 8 32 (by decide), g 72 72 (by decide), g 40 32 (by decide), hmac_fast]
    decide +kernel
  · rw [hlist, hlay, hsec.1, hsec.2]
    simp only [listParts, f 16 4 (by decide), f 72 4 (by decide), f 20 2 (by decide), f 92 4 (by decide), f 120 4 (by decide),
      f 24 8 (by decide), f 124 2 (by decide), g 128 8 (by decide), g 136 8 (by decide), g 40 32 (by decide)]
    decide +kernel

/-- The payload of the ingot's header. -/
def header1 : Bytes := payloadOf (zeros 64) 2 ingotSector0

theorem ingot_read {s : State} (hk : Keyed s) : readIngot s sealedVault sealed1 sealList = some header1 := by
  have f := fun o n h => fld_of_take ingot_plain o n h
  have g := fun o n h => slice_of_take ingot_plain o n h
  have hb : Tab.get? sealedVault 2 = some ingotSector0 := rfl
  have h : hKind ingotSector0 = 1 ∧ hEpoch ingotSector0 = 1 ∧ hStream ingotSector0 = 1 ∧ hIsector ingotSector0 = 0 ∧
    hPoison ingotSector0 = false := by decide +kernel
  obtain ⟨h1, h2, h3, h4, h5⟩ := h
  have hr : ingotSector s sealedVault sealed1 sealList 1 0 = .ok header1 := by
    have i1 : irFirst sealList = 2 := by decide +kernel
    have i2 : irStream sealList = 1 := by decide +kernel
    rw [ingotSector, i1, i2, show placeOf sealed1 (2 + 0) = 2 from rfl, readSector, hb]
    simp [sealed1, hk.data, ingot_crc, h1, h2, h3, h4, h5, header1]
  rw [readIngot, hr]
  simp only [header1, ihKind, ihData, ihIndex, ihMaps, ihPayload, f 4 2 (by decide), f 12 4 (by decide), f 6 1 (by decide),
    f 32 4 (by decide), f 36 4 (by decide), f 40 4 (by decide), f 24 8 (by decide), g 0 4 (by decide), g 56 8 (by decide),
    g 64 8 (by decide)]
  rw [if_pos]
  decide +kernel

/-- The chain of stream 1. -/
def link1 : Link := { r := sealed1, ir := sealList, h := header1 }

theorem index_read {s : State} (hk : Keyed s) : indexEntry s sealedVault sealed1 sealList header1 0 = some (some (0, 65536)) := by
  have f := fun o n h => fld_of_take index_plain o n h
  have hd : ihData header1 = 17 := (fld_of_take ingot_plain 32 4 (by decide)).trans (by decide +kernel)
  have hb : Tab.get? sealedVault 20 = some indexSector := rfl
  have h : hKind indexSector = 3 ∧ hEpoch indexSector = 1 ∧ hStream indexSector = 1 ∧ hIsector indexSector = 18 ∧
    hPoison indexSector = false := by decide +kernel
  obtain ⟨h1, h2, h3, h4, h5⟩ := h
  have hr : ingotSector s sealedVault sealed1 sealList 3 (1 + ihData header1 + 0 / 336) = .ok (payloadOf (zeros 64) 20 indexSector) := by
    have i1 : irFirst sealList = 2 := by decide +kernel
    have i2 : irStream sealList = 1 := by decide +kernel
    rw [ingotSector, i1, i2, hd, show placeOf sealed1 (2 + (1 + 17 + 0 / 336)) = 20 from rfl,
      show 2 + (1 + 17 + 0 / 336) = 20 from rfl, readSector, hb]
    simp [sealed1, hk.data, index_crc, h1, h2, h3, h4, h5]
  rw [indexEntry, hr]
  simp only [show 32 + 12 * (0 % 336) = 32 from rfl, f 32 4 (by decide), f (32 + 6) 1 (by decide), f (32 + 4) 2 (by decide),
    f (32 + 8) 4 (by decide)]
  decide +kernel

/-- The vault of the witness. -/
def vault1 : Vault := { item := vaultItem, area := some 16384, tail := 4096 }

theorem seals_read {s : State} (hk : Keyed s) (hi : readIx s = 0) (he : s.cap.epochs = []) (vid : Nat) :
    sealsOf 4097 s sealedVault vid vault1 (16384, 4096) 1 = .inr [sealed1] := by
  have hs : sealAt vault1 (16384, 4096) 1 (readIx s) = 0 := by rw [hi]; decide +kernel
  have hst : staleBy s vid sealed1 = none := by simp [staleBy, epoch?, he, Tab.get?]
  have hb : sealed1.base = 0 := rfl
  have h0 : ∀ n, sealsOf (n + 1) s sealedVault vid vault1 (16384, 4096) 0 = .inr [] := fun n => by simp [sealsOf]
  rw [show (4097 : Nat) = 4095 + 1 + 1 from rfl, sealsOf, hs]
  simp only [seal_read hk (area := vault1.area) (by decide +kernel), hst, hb, h0, Nat.one_ne_zero, if_false]

theorem ingotRec_read : ingotRec sealed1 1 = some sealList := by decide +kernel

theorem header1_codec : ihCodec header1 = 0 := by
  rw [ihCodec, header1, fld_of_take ingot_plain 7 1 (by decide)]; decide +kernel

theorem linksOf_one {s : State} {sectors : Tab Bytes} {n : Nat} {r : SealRec} {ir h : Bytes} (h1 : ingotRec r n = some ir)
    (h2 : readIngot s sectors r ir = some h) : linksOf s sectors n [r] = .ok [⟨r, ir, h⟩] := by simp [linksOf, h1, h2, Except.map]

theorem streamLinks_one {s : State} {sectors : Tab Bytes} {n : Nat} {rs : List SealRec} {l : Link}
    (h1 : linksOf s sectors n rs = .ok [l]) (h2 : (ihCodec l.h == 4) = false) : streamLinks s sectors rs n = .inr [l] := by
  simp [streamLinks, h1, slotWrong, slotDiffers, h2]

theorem links_read {s : State} (hk : Keyed s) : streamLinks s sealedVault [sealed1] 1 = .inr [link1] :=
  streamLinks_one (linksOf_one ingotRec_read (ingot_read hk)) ((congrArg (· == 4) header1_codec).trans rfl)

/-! ### Restoring from it -/

theorem header1_size2 : 2 ^ ihLog2 link1.h = 65536 := by
  rw [show link1.h = header1 from rfl, ihLog2, header1, fld_of_take ingot_plain 72 1 (by decide)]; decide +kernel
theorem header1_kind : ihKind link1.h = 1 := by
  rw [show link1.h = header1 from rfl, ihKind, header1, fld_of_take ingot_plain 6 1 (by decide)]; decide +kernel
theorem header1_delta : ihDelta link1.h = false := by
  rw [show link1.h = header1 from rfl, ihDelta, header1, fld_of_take ingot_plain 9 1 (by decide)]; decide +kernel
theorem header1_size : ihSize link1.h = 65536 := by
  rw [show link1.h = header1 from rfl, ihSize, header1, fld_of_take ingot_plain 16 8 (by decide)]; decide +kernel
theorem header1_format : ihFormat link1.h = 0 := by
  rw [show link1.h = header1 from rfl, ihFormat, header1, fld_of_take ingot_plain 8 1 (by decide)]; decide +kernel
theorem header1_row : ihRow link1.h = 0 := by
  rw [show link1.h = header1 from rfl, ihRow, header1, fld_of_take ingot_plain 10 2 (by decide)]; decide +kernel

theorem pieces_one {s : State} {sectors : Tab Bytes} {l : Link} {n dest : Nat} {x : Nat × Nat} (hs : 2 ^ ihLog2 l.h = 65536)
    (hn : n ≤ 65536) (h0 : 0 < n) (hi : indexEntry s sectors l.r l.ir l.h 0 = some (some x)) :
    rangePieces s sectors [l] l.h 0 n dest = .ok [{ link := 0, off := 0, len := n, addr := dest }] := by
  have hc : (0 + n - 1) / 65536 + 1 - 0 / 65536 = 1 := by omega
  have hm : min (0 + n) ((0 / 65536 + 0 + 1) * 65536) = n := by omega
  simp only [rangePieces, hs, hc, show List.range 1 = [0] from rfl, List.mapM_cons, List.mapM_nil, blockSource]
  simp only [Nat.zero_div, Nat.add_zero, hi, Nat.zero_mul, Nat.max_self]
  simp [Except.map, bind, Except.bind, pure, Except.pure]
  omega

theorem jobs_one {s : State} {sectors : Tab Bytes} {l : Link} {o : Origin} {g : Bool} {n dest : Nat} {x : Nat × Nat}
    (hs : 2 ^ ihLog2 l.h = 65536) (hn : n ≤ 65536) (h0 : 0 < n) (hk : ihKind l.h = 1)
    (hi : indexEntry s sectors l.r l.ir l.h 0 = some (some x)) :
    ∃ j, jobsOf s sectors [l] o g [{ link := 0, off := 0, len := n, addr := dest }] = .ok [j] := by
  have hl : linkTotal s sectors l = .ok (ihBytes l.h) := by simp [linkTotal, hk]
  have hj : ∃ j, jobOf s sectors [l] o g { link := 0, off := 0, len := n, addr := dest } = .ok j := by
    simp [jobOf, hs, hi, hl, Except.map]
  obtain ⟨j, hj⟩ := hj
  have hc : cutPiece (n / 65536 + 2) 65536 { link := 0, off := 0, len := n, addr := dest } =
      [{ link := 0, off := 0, len := n, addr := dest }] := by
    rw [cutPiece]
    have h1 : min n (65536 - 0 % 65536) = n := by omega
    simp only [h1, Nat.pos_iff_ne_zero.mp h0, if_false, Nat.sub_self]
    rw [cutPiece]
    · simp
  refine ⟨j, ?_⟩
  have hp : cutPieces [l] [{ link := 0, off := 0, len := n, addr := dest }] = [{ link := 0, off := 0, len := n, addr := dest }] := by
    simp [cutPieces, hs, hc]
  simp [jobsOf, hp, hj, addJob, Except.map, bind, Except.bind, pure, Except.pure]

end Sys2Proof.Tests
end

