-- ==== Sys2Proof/Tests/Witness8.lean ====
section
/-! SUPPORT. States and operands that meet the hypotheses of the statements (see Witness1), where they need digests, ciphers
or check values: keys, TOUCHSTONE packages, restores of a sealed epoch, sectors that check. -/

set_option Elab.async false

set_option linter.all false
set_option maxRecDepth 100000

namespace Sys2Proof.Tests

open Sys2Proof.Machine

/-! ### Keys -/

/-- The example of RFC 3394, 4.6: a 256-bit key under a 256-bit key-encryption key. -/
def kek : Bytes := toBE 32 0x000102030405060708090A0B0C0D0E0F101112131415161718191A1B1C1D1E1F
def wrappedKey : Bytes := toBE 40 0x28C9F404C4B810F4CBCCB35CFB87F8263F5786E2D80ED326CBC7F0E71A99F43BFB988B9B7A02DD21
def plainKey : Bytes := toBE 32 0x00112233445566778899AABBCCDDEEFF000102030405060708090A0B0C0D0E0F

theorem rfc3394 : keyUnwrap kek (List.replicate 8 0xA6) wrappedKey = some plainKey := by
  rw [keyUnwrap_fast]; decide +kernel

def withKek (s : State) : State := { s with adm.keys := [(0, { form := 1, content := kek, kcv := zeros 8 })] }

/-- The state holds vault 1, which holds a sealed epoch, and its keys. -/
def holdingVault (s : State) : State := keyed { s with adm.vaults := [(1, vault1)] }

theorem holding_keyed (s : State) (x : Cmd → Cmd) (q seq : Nat) : Keyed (onCmd q seq x (holdingVault s)) := ⟨rfl, rfl, rfl, rfl, rfl⟩

def deriveItem : List (Nat × Nat × Nat) := [(9, 1, 5), (10, 1, 0), (12, 4, 1), (16, 4, 1), (20, 4, 0xFFFFFFFF)]
def deriveCmd : Cmd := started 0 1 (item 0x0B deriveItem)

theorem hallmark_read : deriveHallmark (onCmd 0 1 ranCmd (holdingVault (withCmd deriveCmd))) sealedVault deriveCmd.item vault1 =
    .inr sealed1.hallmark := by
  have hl : layoutRead (onCmd 0 1 ranCmd (holdingVault (withCmd deriveCmd))) vault1 sealedVault = .inr (16384, 4096) := rfl
  have he : fld deriveCmd.item 16 4 = 1 := by decide +kernel
  have ht : sealAt vault1 (16384, 4096) 1 (readIx (onCmd 0 1 ranCmd (holdingVault (withCmd deriveCmd)))) = 0 := by decide +kernel
  have hs : (Tab.get? sealedVault 0).isNone = false := rfl
  have hc : fld deriveCmd.item 20 4 = 0xFFFFFFFF := by decide +kernel
  have hr := seal_read (holding_keyed (withCmd deriveCmd) ranCmd 0 1) (area := vault1.area) (by decide +kernel)
  simp only [deriveHallmark, hl, he, ht, hs, hr, hc, Bool.false_eq_true, if_false, if_true]

theorem meets_RecipeAndKeyCommands_keys (h : Obligations.RecipeAndKeyCommands) : True := by
  obtain ⟨c1, c2, c3, c4, c5⟩ := h
  have w3 := c3 (withKek (adminCmd 0x0A [(9, 1, 1), (11, 1, 40)])) 0 1 (started 0 1 (item 0x0A [(9, 1, 1), (11, 1, 40)])) wrappedKey
    plainKey (1, plainKey) ⟨by decide +kernel, by decide +kernel⟩ (by constructor <;> decide +kernel) (by decide +kernel) (by decide +kernel) rfc3394 (by decide +kernel) (by decide +kernel)
  have w5 := c5 (holdingVault (withCmd deriveCmd)) 0 1 deriveCmd sealedVault vault1 sealed1.hallmark ⟨by decide +kernel, by decide +kernel⟩
      (by constructor <;> decide +kernel) (by decide +kernel) (by decide +kernel) (by decide +kernel) (by decide +kernel) hallmark_read (by simp only [deriveT, hmac_fast]; decide +kernel)
  trivial

/-! ### TOUCHSTONE -/

/-- A package of one pattern; its trailer was computed apart from the model. -/
def package : Bytes := fields 96 [(0, 4, 0x4E545354), (4, 2, 1), (8, 4, 7), (12, 4, 128), (18, 2, 1), (64, 1, 1), (65, 1, 1),
    (66, 2, 1), (68, 4, 32)] ++ toBE 32
  0xb374e863f5b21a33cd9e8bb396fdf919a538da97ac34548c888f71df939db60d

theorem trailer_ok (s : State) (hk : s.adm.keys = [(1, { form := 2, content := zeros 64, kcv := zeros 8 }),
    (256, { form := 3, content := zeros 64, kcv := zeros 8 })]) : trailerOk s package = true := by
  rw [trailerOk, keyBytes, hk, hmac_fast]
  decide +kernel

def loadedPackage : Package := { addr := 0x4000, len := 128, serial := 7, tdid := 0, sha := sha256 package }

theorem package_slice : slice package 0 128 = package := by decide +kernel

def tsLoadItem : List (Nat × Nat × Nat) := [(8, 1, 0), (12, 4, 128), (16, 8, 0x4000)]
def tsRunItem : List (Nat × Nat × Nat) := [(8, 1, 0), (10, 2, 5), (16, 8, 65536)]
def withPackage (s : State) : State := { keyed s with adm := { (keyed s).adm with packages := [(0, loadedPackage)] } }

theorem meets_TouchstoneCommands (h : Obligations.TouchstoneCommands) : True := by
  obtain ⟨c1, c2, c3, c4⟩ := h
  have hl : slice package 0 (fld (item 0x11 tsLoadItem) 12 4) = package := by decide +kernel
  have w1 := c1 (keyed (adminCmd 0x11 tsLoadItem)) 0 1 (started 0 1 (item 0x11 tsLoadItem)) package ⟨by decide +kernel, by decide +kernel⟩
      (by constructor <;> decide +kernel) (by decide +kernel) (by show (Tab.get? _ (256 + fld (slice package 0 (fld (item 0x11 tsLoadItem) 12 4)) 16 1)).isSome = true; rw [hl]; decide +kernel)
    (by show trailerOk _ (slice package 0 (fld (item 0x11 tsLoadItem) 12 4)) = true; rw [hl]; exact trailer_ok _ rfl) (by decide +kernel) (by decide +kernel) -- nochk
  have hr : trailerOk (withPackage (adminCmd 0x12 tsRunItem)) (slice package 0 loadedPackage.len) = true := by
    rw [show loadedPackage.len = 128 from rfl, package_slice]; exact trailer_ok _ rfl
  have hs : sha256 (slice package 0 loadedPackage.len) = loadedPackage.sha := by
    rw [show loadedPackage.len = 128 from rfl, package_slice]; rfl
  have w2 := c2 (withPackage (adminCmd 0x12 tsRunItem)) 0 1 (started 0 1 (item 0x12 tsRunItem)) loadedPackage package ⟨by decide +kernel, by decide +kernel⟩ (by constructor <;> decide +kernel) rfl hr hs -- nochk
  have w3 := c3 (withPackage (adminCmd 0x12 tsRunItem)) 0 1 (started 0 1 (item 0x12 tsRunItem)) loadedPackage package [2] 2 ⟨by decide +kernel, by decide +kernel⟩ (by constructor <;> decide +kernel) rfl hr hs (by decide +kernel) (by decide +kernel) (by decide +kernel) -- nochk
  have w4 := c4 (withPackage (adminCmd 0x12 tsRunItem)) 0 1 (started 0 1 (item 0x12 tsRunItem)) [] ⟨by decide +kernel, by decide +kernel⟩
  trivial

/-! ### Restores -/

theorem chain_read {q seq : Nat} {c : Cmd} (hb : fld c.item 8 4 = 1 ∧ fld c.item 12 4 = 1 ∧ fld c.item 16 4 = 1 ∧ srcBuf c.item = false) :
    chainFor (onCmd q seq ranCmd (holdingVault (withCmd c))) sealedVault c.item = .inr [link1] := by
  obtain ⟨h1, h2, h3, h4⟩ := hb
  have hv : vault? (onCmd q seq ranCmd (holdingVault (withCmd c))) 1 = some vault1 := rfl
  have hl : layoutRead (onCmd q seq ranCmd (holdingVault (withCmd c))) vault1 sealedVault = .inr (16384, 4096) := rfl
  have hk := holding_keyed (withCmd c) ranCmd q seq
  simp only [chainFor, h1, h2, h3, hv, hl, seals_read hk rfl rfl, fromBuffer, h4, links_read hk, Bool.false_eq_true, if_false]

def restore1 : Cmd := started 1 1 (item2 0x44 [(8, 4, 1), (12, 4, 1), (16, 4, 1), (32, 8, 65536), (40, 8, 4096), (64, 1, 2)])
def gather1 : Cmd := started 1 1 (item2 0x45 [(8, 4, 1), (12, 4, 1), (16, 4, 1), (64, 1, 2), (72, 8, 8), (80, 2, 64)])

theorem meets_RestoreCommands_chain (h : Obligations.RestoreCommands) : True := by
  obtain ⟨c1, c2, c3, c4, c5, c6⟩ := h
  let s := holdingVault (withCmd restore1)
  let w := readMeta vault1 restore1.item (bufOf s restore1.item) (cmdClass s restore1) [link1] sealedVault (onCmd 1 1 ranCmd s)
  let u := journalArea (fld restore1.item 8 4) (16384, 4096) link1.r.vid w
  have hk : Keyed u := ⟨rfl, rfl, rfl, rfl, rfl⟩
  have f1 : fld restore1.item 72 8 = 0 := by decide +kernel
  have f2 : fld restore1.item 40 8 = 4096 := by decide +kernel
  have f3 : fld restore1.item 32 8 = 65536 := by decide +kernel
  have f4 : srcBuf restore1.item = false := by decide +kernel
  have hi := index_read hk
  obtain ⟨j, hj⟩ := jobs_one (l := link1) (g := true) (dest := 65536)
    (o := { ctx := Tab.gap s.str.ctxs 0, vault := fld restore1.item 8 4, buf := bufOf u restore1.item })
    header1_size2 (by decide : 4096 ≤ 65536) (by decide) header1_kind hi
  have w1 := c1 s 1 1 restore1 sealedVault vault1 (16384, 4096) link1 [] _ [j] w u ⟨by decide +kernel, by decide +kernel⟩
      (by decide +kernel) rfl (by decide +kernel) (by rw [f4]; nofun) (chain_read (by decide +kernel)) rfl rfl rfl
    (by
      have k2 : ihKind header1 = 1 := by rw [← show link1.h = header1 from rfl]; exact header1_kind
      have k4 : ihSize header1 = 65536 := by rw [← show link1.h = header1 from rfl]; exact header1_size
      rw [f1, f2, ihBytes, show link1.h = header1 from rfl, k2, k4]; decide)
    (by rw [if_neg (by rw [header1_kind]; decide), f1, f2, f3]
        exact pieces_one header1_size2 (by decide) (by decide) hi)
    (by rw [bufRefused, f4]; rfl) hj
  trivial

theorem meets_RestoreCommands_gather (h : Obligations.RestoreCommands) : True := by
  obtain ⟨c1, c2, c3, c4, c5, c6⟩ := h
  have w5 := c5 (holdingVault (withCmd gather1)) _ 1 1 gather1 sealedVault vault1 (16384, 4096) link1 [] ⟨by decide +kernel, by decide +kernel⟩
      (by decide +kernel) rfl (by decide +kernel) (by rw [show srcBuf gather1.item = false from by decide +kernel]; nofun) (chain_read (by decide +kernel)) rfl rfl
  trivial

/-! ### PLAN_LAUNCH -/

theorem launchMismatch_one {s : State} {sectors : Tab Bytes} {r : SealRec} {l e ir h : Bytes} {i : Nat}
    (h0 : liveEntries l = [(i, e)]) (h1 : ingotRec r (eStream e) = some ir) (h2 : readIngot s sectors r ir = some h)
    (h3 : entryDiffers e (some h) = none) : launchMismatch s sectors r l = none := by
  simp [launchMismatch, h0, h1, h2, h3]

theorem allJobs_one {s : State} {sectors : Tab Bytes} {c : Cmd} {vid i : Nat} {rs : List SealRec} {e : Bytes} {l : Link}
    {ps : List Piece} {js : List Job} (h1 : streamLinks s sectors rs (eStream e) = .inr [l]) (hk : eKind e = 1)
    (hp : rangePieces s sectors [l] l.h 0 (eBytes e) (eAddr e) = .ok ps)
    (hj : jobsOf s sectors [l] { ctx := 0, vault := vid, buf := none } false ps = .ok js) :
    ∃ x, allJobs s sectors c vid rs [(i, e)] = .inr x := by
  have hx : entryJobs s sectors c vid i e rs = .inr ({ restoreCtx s c 4 vid sectors [l] with
      entry := i, lo := eAddr e, hi := eAddr e + eBytes e, dest := eAddr e, remain := eBytes e },
      js ++ [l].flatMap fun l => readJobs { ctx := 0, vault := vid, buf := none } l js) := by
    simp only [entryJobs, h1, List.head?_cons, hk, hp, Except.bind, Bind.bind, hj, show ¬(1 : Nat) = 2 from by decide,
      show ¬(1 : Nat) = 3 from by decide, if_false]
  exact ⟨_, by rw [allJobs, hx, allJobs]⟩

theorem meets_PlanLaunch_chain (h : Obligations.PlanLaunch) : True := by
  obtain ⟨c1, c2, c3, c4, c5⟩ := h
  let c : Cmd := { started 1 1 (item 0x49 [(12, 4, 1)]) with gen := 1 }
  let s0 : State := holdingVault (withCmd c)
  let s : State := readMeta vault1 c.item none (cmdClass s0 c) [] sealedVault s0
  have hk : Keyed s := ⟨rfl, rfl, rfl, rfl, rfl⟩
  have hi := index_read hk
  have hc : ihCodec header1 = 0 := header1_codec
  have k2 : ihKind header1 = 1 := by rw [← show link1.h = header1 from rfl]; exact header1_kind
  have k4 : ihSize header1 = 65536 := by rw [← show link1.h = header1 from rfl]; exact header1_size
  have k5 : ihFormat header1 = 0 := by rw [← show link1.h = header1 from rfl]; exact header1_format
  have k6 : ihRow header1 = 0 := by rw [← show link1.h = header1 from rfl]; exact header1_row
  have hl : liveEntries planList = [(1, rangeEntry)] := by decide +kernel
  have ho : launchOrder planList = [(1, rangeEntry)] := by decide +kernel
  have hn : eStream rangeEntry = 1 ∧ eBytes rangeEntry = 65536 ∧ eKind rangeEntry = 1 ∧ eAddr rangeEntry = 65536 ∧
    eCodec rangeEntry = 0 ∧ eFormat rangeEntry = 0 ∧ eSize rangeEntry = 65536 ∧ eRow rangeEntry = 0 := by decide +kernel
  obtain ⟨n1, n2, n3, n4, n5, n6, n7, n8⟩ := hn
  obtain ⟨j, hj⟩ := jobs_one (l := link1) (g := false) (dest := 65536) (o := { ctx := 0, vault := hVault planList, buf := none })
    header1_size2 (Nat.le_refl 65536) (by decide) header1_kind hi
  have hp := pieces_one (l := link1) (dest := 65536) header1_size2 (Nat.le_refl 65536) (by decide) hi
  have hd : entryDiffers rangeEntry (some header1) = none := by
    simp only [entryDiffers, k2, k4, k5, k6, hc, n3, n5, n6, n7, n8]
    rfl
  have hm : launchMismatch s sealedVault sealed1 planList = none :=
    launchMismatch_one hl (by rw [n1]; exact ingotRec_read) (ingot_read hk) hd
  have ha : ∃ js, allJobs s sealedVault c (hVault planList) [sealed1] (launchOrder planList) = .inr js := by
    rw [ho]
    exact allJobs_one (by rw [n1]; exact links_read hk) n3 (by rw [n2, n4]; exact hp) hj
  obtain ⟨js, ha⟩ := ha
  let rd : LaunchReads := { list := none, forecast := none, rowLists := [], headers := [], sectors := sealedVault }
  have w2 := c2 gen1 rd vault1 c s0 s (16384, 4096) sealed1 [] js rfl rfl
    (by rw [show hVault gen1.bytes = 1 by decide +kernel, show fld c.item 12 4 = 1 by decide +kernel]; exact seals_read hk rfl rfl 1)
    hm ha
  trivial

/-! ### Sectors that check -/

def arrivingSector : Bytes := stored 15 2 1 1 []

theorem arriving_crc : sectorCrcOk 1 15 arrivingSector = true := crc_of (by decide +kernel) rfl (by decide +kernel)

/-- A SECTOR_WRITE from device 7 of one sector that checks. -/
def sectorWrite7 : Bytes :=
  fields 64 [(0, 1, 0x10), (4, 4, 7), (8, 4, 5), (24, 4, 4160), (12, 4, 1), (28, 4, 1), (32, 4, 1), (36, 2, 1), (40, 8, 15),
    (48, 4, 1), (52, 4, 1)] ++ arrivingSector
def receiving : State :=
  let s := linked (rings State.reset)
  { s with adm := { s.adm with vaults := [(1, { item := item 1 [(8, 4, 1), (14, 2, 1), (16, 8, 0x100000), (24, 8, 16), (36, 4, 7)] })] }
           spl := { s.spl with opens := [(1, 7)], ports := [(0, { state := 5, partner := 7, rx := [sectorWrite7] })] } }

theorem msgSector_append {x y : Bytes} (hx : x.length = 64) (hy : y.length = 4096) : msgSector (x ++ y) 0 = y := by
  rw [msgSector, slice, List.drop_left' (by rw [hx]), List.take_of_length_le (by rw [hy]), hy, Nat.sub_self, List.replicate_zero,
    List.append_nil]

theorem arrives_ok : arrivedOk sectorWrite7 0 = true := by
  have h1 : msgSector sectorWrite7 0 = arrivingSector := msgSector_append (by decide +kernel) (by decide +kernel)
  have h2 : mPvault sectorWrite7 = 1 := by decide +kernel
  have h3 : (if mFlags sectorWrite7 = 1 then mArg sectorWrite7 else mSector sectorWrite7 + 0 * mStride sectorWrite7) = 15 := by
    decide +kernel
  have h4 : (hEpoch arrivingSector == mEpoch sectorWrite7) = true := by decide +kernel
  simp only [arrivedOk, h1, h2, h3, h4, arriving_crc, Bool.and_true]

theorem meets_VaultMessages_sectors (h : Obligations.VaultMessages) : True := by
  obtain ⟨c1, c2, c3, c4, c5, c6, c7, c8, c9, c10, c11⟩ := h
  have hp : port? receiving 0 = some { state := 5, partner := 7, rx := [sectorWrite7] } := rfl
  have ht : (mType sectorWrite7 == 0x10) = true := by decide +kernel
  have hw : waitsOn 0x10 0 sectorWrite7 receiving := by
    unfold waitsOn
    rw [hp]
    simp only [Option.bind_some, List.find?_cons, ht]
  have w7 := c7 receiving 0 sectorWrite7 { item := item 1 [(8, 4, 1), (14, 2, 1), (16, 8, 0x100000), (24, 8, 16), (36, 4, 7)] }
    ⟨by decide +kernel, hw, by decide +kernel, by decide +kernel, by decide +kernel⟩ (by decide +kernel) (by decide +kernel)
      (by decide +kernel) (by decide +kernel) arrives_ok (by decide +kernel)
  trivial

end Sys2Proof.Tests
end

