-- ==== Sys2Proof/WellFormed.lean ====
section
/-! DEFINITION. Well-formed commands: every operand within the range that the manual gives its field. A meaning takes any
operand; one out of range names nothing, and the meaning says what happens then. -/

namespace Sys2Proof

/-- A queue ID (R33) and a sequence number, which starts at 1 (R49). -/
def okCmd (q seq : Nat) : Bool := decide (q < 4096) && decide (0 < seq)

/-- An event ring or queue pair number. -/
def okQueue (q : Nat) : Bool := decide (q < 4096)

/-- A setup register offset (R368). -/
def okOff (off : Nat) : Bool := decide (off < 65536) && off % 4 == 0

/-- A fabric address (R327). -/
def okAddr (a : Nat) : Bool := decide (a < 2 ^ 48)

/-- A harvest chain (R111), a hazard filter (R106), a spill port (R237), a Crucible or spill lane. -/
def okChain (c : Nat) : Bool := decide (c < 64)
def okFilter (n : Nat) : Bool := decide (n < 8)
def okPort (p : Nat) : Bool := decide (p < 4)
def okLane (l : Nat) : Bool := decide (l < 32)
def okSpillLane (l : Nat) : Bool := decide (l < 4)

/-- A two-bit error field of a response (R327, R341). -/
def okErr (e : Nat) : Bool := decide (e < 4)

/-- A 64 B block of a spill lane, a 32 B harvest beat (R111) and a 128 B fabric beat. -/
def okBlock (b : Bytes) : Bool := b.length == 64
def okHarvest (b : Bytes) : Bool := b.length == 32
def okBeat (b : Bytes) : Bool := decide (b.length ≤ 128)

/-- The fields of a debug request (R382). -/
def okDbg (r : DbgReq) : Bool := decide (r.rsvd < 256) && decide (r.sel < 256) && decide (r.arg < 2 ^ 24)

/-- The register, width and operand fields of a recipe word (R184). -/
def okRec (l : Nat) (r : RFields) : Bool :=
  okLane l && decide (r.d < 16) && decide (r.a < 16) && decide (r.b < 16) && decide (r.w < 5)

/-- A channel of R95. -/
def okChannel (k i : Nat) : Bool := decide (i < [16, 4, 32, 32, 16, 16, 20, 16, 8, 2].getD k 0)

/-- Every operand of a command lies in the range of its field. -/
def Instr.wellFormed (i : Instr) : Bool :=
  match i with
  | .vaultCreate q seq | .vaultDelete q seq | .queueCreate q seq _ | .queueDelete q seq _ | .bufGrant q seq
  | .bufFree q seq | .planStore q seq _ | .planPatch q seq _ _ | .recipeLoad q seq _ | .keyLoad q seq _
  | .keyDerive q seq _ | .powerSet q seq | .laneRetire q seq | .laneReturn q seq _ | .buddySet q seq
  | .topologySet q seq _ | .touchstoneLoad q seq _ | .touchstoneRun q seq _ _ | .ledgerCompact q seq
  | .fenceRaise q seq | .epochOpen q seq _ | .capture q seq | .rowCapture q seq | .sealCmd q seq
  | .restore q seq _ | .gatherRestore q seq _ | .digest q seq | .checkvalue q seq | .barrier q seq
  | .planLaunch q seq _ | .cancel q seq | .flush q seq _ | .commandStart q seq => okCmd q seq
  | .sqTailDoorbell q _ | .cqHeadDoorbell q _ | .slotRepoll q | .itemAccept q | .completionWrite q
  | .headShadowWrite q | .queueStall q => okQueue q
  | .shadowedRegisterWrite off _ | .registerWrite off _ => okOff off
  | .hostReadResponse _ err _ _ | .hostWriteResponse _ err | .fabricWriteResponse _ err => okErr err
  | .fabricReadResponse _ err data _ => okErr err && okBeat data
  | .holdAck c | .cutSlow c | .harvestPushOk c | .harvestPushErr c => okChain c
  | .harvestBeat c beat => okChain c && okHarvest beat
  | .filterWritePresent n src addr _ | .filterWriteAccept n src addr _ =>
    okFilter n && decide (src < 65536) && okAddr addr
  | .filterReadPresent n addr _ ctx => okFilter n && okAddr addr && decide (ctx < 131072)
  | .injectedReadAccept n => okFilter n
  | .moverDescriptor mover ctx => okLane mover && decide (ctx < 131072)
  | .crucibleBlock lane _ => okLane lane
  | .channelRetired kind ix cause => okChannel kind ix && decide (cause < 4)
  | .ledgerLost _ cause => decide (cause < 4)
  | .faultHold cause => cause == 3 || cause == 4 || cause == 6
  | .codewordLock port lane _ => okPort port && okSpillLane lane
  | .align port lane block => okPort port && okSpillLane lane && okBlock block
  | .lctl port block | .linit port block | .linitAck port block | .frame port block _ => okPort port && okBlock block
  | .phyTrainingDone port _ | .linitRepeat port | .lctlDue port | .frameResendTimeout port | .hello port
  | .helloAck port | .fence port | .fenced port | .vaultOpen port | .vaultClose port | .vaultReply port
  | .sectorWrite port | .sectorAck port | .sectorRead port _ | .sectorData port _ | .digestMessage port
  | .digestVerdict port | .tiding port | .alignDue port => okPort port
  | .resetRelease failed => failed.all fun c => okChannel c.1 c.2
  | .clockLost c | .clockRunning c => decide (c < 4)
  | .fabSlip port => decide (port < 16)
  | .breakpointFire slot => decide (slot < 8)
  | .dbgNop r | .dbgStatus r | .dbgChallenge r | .dbgUnlock r | .dbgLock r | .dbgHalt r | .dbgResume r | .dbgStep r
  | .dbgRstep r | .dbgRresume r | .dbgBpSet r | .dbgBpClear r | .dbgSetaddr r | .dbgRead r | .dbgWrite r
  | .otpWrite r | .otpBurn r _ => okDbg r
  | .rNop l r | .rEnd l r | .rTrap l r | .rJmp l r | .rBz l r | .rBnz l r | .rLoop l r | .rSli l r | .rSadd l r
  | .rSaddi l r | .rSsub l r | .rSand l r | .rSor l r | .rSxor l r | .rSshl l r | .rSsra l r | .rSblen l r
  | .rSget l r | .rVld l r | .rVldb l r | .rVst l r | .rSld l r | .rSst l r | .rVadd l r | .rVsub l r | .rVmin l r
  | .rVmax l r | .rVand l r | .rVor l r | .rVxor l r | .rVshl l r | .rVsra l r | .rVbcast l r | .rVext l r
  | .rVins l r | .rVcmpz l r | .rVabsmax l r | .rVrq l r | .rVnarrow l r | .rVwiden l r => okRec l r
  | .ringEnable _ _ _ | .adminFlush _ | .castleBegin | .castleCommit | .castleRollback | .castleApply | .crcValWrite _
  | .crcIn8 _ | .crcIn16 _ | .crcIn32 _ | .xfCntClr _ | .assayClr _ | .spillClr _ | .eccClr _ | .bufClr _
  | .mirrorRetry _ | .flipArm _ | .lastGaspClear _ | .aonTimeLoRead | .eventHeadDoorbell _ | .dispatchOpportunity _
  | .eventFlush | .tick | .replay _ | .mirrorFault _ | .eccUe _ | .contextScan | .bitmapVerifyPass | .prepDone
  | .trackerGroupReadReturn _ _ _ | .deadlineRecompute | .sectorSeal _ | .sealRecordWrite _ | .helloRepeat _
  | .requestTimeout _ | .laterResend | .tileStart _ | .tileEnd _ | .load _ | .loadVerify _ | .operandRow _ _ _
  | .weightData _ | .weightExponents _ _ | .poolHeader _ | .poolIndices _ | .pooledVector _ _ | .poolCheck
  | .rowSum _ _ | .powerQuiescence | .branchGate | .powerOnReset | .coldReset | .warmReset | .rootLockLoss
  | .tapReset | .unlockLockoutExpiry | .haltReached | .stepDone => true

end Sys2Proof
end

