-- ==== Sys2Proof/Tests/Slice0.lean ====
section
/-! SUPPORT. Tests: a command out of range for each check of WellFormed, and the worked examples and known answers that the
manual and the standards it names give. -/

set_option Elab.async false

set_option maxRecDepth 100000

namespace Sys2Proof.Tests

open Sys2Proof.Machine

/-! ### A well-formed command passes, one out of range is refused by its check -/

theorem test_wf_ok : (Instr.vaultCreate 4095 1).wellFormed = true ∧ (Instr.rVadd 31 { d := 15, a := 15, b := 15, w := 4 }).wellFormed = true ∧
    (Instr.harvestBeat 63 (zeros 32)).wellFormed = true ∧ (Instr.dbgRead ⟨255, 255, 2 ^ 24 - 1, 0⟩).wellFormed = true := by decide
theorem test_wf_queueId : (Instr.vaultCreate 4096 1).wellFormed = false := by decide
theorem test_wf_seq : (Instr.flush 1 0 []).wellFormed = false := by decide
theorem test_wf_queue : (Instr.itemAccept 4096).wellFormed = false := by decide
theorem test_wf_offset_align : (Instr.registerWrite 2 0).wellFormed = false := by decide
theorem test_wf_offset_range : (Instr.shadowedRegisterWrite 65536 0).wellFormed = false := by decide
theorem test_wf_err : (Instr.hostWriteResponse 0 4).wellFormed = false := by decide
theorem test_wf_fabErr : (Instr.fabricReadResponse 0 4 [] true).wellFormed = false := by decide
theorem test_wf_beat : (Instr.fabricReadResponse 0 0 (zeros 129) true).wellFormed = false := by decide
theorem test_wf_chain : (Instr.holdAck 64).wellFormed = false := by decide
theorem test_wf_harvest : (Instr.harvestBeat 0 (zeros 64)).wellFormed = false := by decide
theorem test_wf_filter : (Instr.injectedReadAccept 8).wellFormed = false := by decide
theorem test_wf_source : (Instr.filterWritePresent 0 65536 0 64).wellFormed = false := by decide
theorem test_wf_addr : (Instr.filterWriteAccept 0 0 (2 ^ 48) []).wellFormed = false := by decide
theorem test_wf_context : (Instr.filterReadPresent 0 0 64 131072).wellFormed = false := by decide
theorem test_wf_mover : (Instr.moverDescriptor 32 0).wellFormed = false := by decide
theorem test_wf_moverCtx : (Instr.moverDescriptor 0 131072).wellFormed = false := by decide
theorem test_wf_lane : (Instr.crucibleBlock 32 true).wellFormed = false := by decide
theorem test_wf_channel : (Instr.channelRetired 0 16 0).wellFormed = false := by decide
theorem test_wf_kind : (Instr.channelRetired 10 0 0).wellFormed = false := by decide
theorem test_wf_retireCause : (Instr.channelRetired 0 0 4).wellFormed = false := by decide
theorem test_wf_ledgerCause : (Instr.ledgerLost true 4).wellFormed = false := by decide
theorem test_wf_holdCause : (Instr.faultHold 5).wellFormed = false := by decide
theorem test_wf_port : (Instr.hello 4).wellFormed = false := by decide
theorem test_wf_spillLane : (Instr.codewordLock 0 4 true).wellFormed = false := by decide
theorem test_wf_block : (Instr.lctl 0 (zeros 63)).wellFormed = false := by decide
theorem test_wf_failed : (Instr.resetRelease [(1, 4)]).wellFormed = false := by decide
theorem test_wf_clock : (Instr.clockLost 4).wellFormed = false := by decide
theorem test_wf_fabPort : (Instr.fabSlip 16).wellFormed = false := by decide
theorem test_wf_breakpoint : (Instr.breakpointFire 8).wellFormed = false := by decide
theorem test_wf_dbgRsvd : (Instr.dbgNop ⟨256, 0, 0, 0⟩).wellFormed = false := by decide
theorem test_wf_dbgSel : (Instr.dbgRead ⟨0, 256, 0, 0⟩).wellFormed = false := by decide
theorem test_wf_dbgArg : (Instr.otpBurn ⟨0, 0, 2 ^ 24, 0⟩ true).wellFormed = false := by decide
theorem test_wf_recipeLane : (Instr.rNop 32 {}).wellFormed = false := by decide
theorem test_wf_recipeD : (Instr.rVadd 0 { d := 16 }).wellFormed = false := by decide
theorem test_wf_recipeA : (Instr.rVadd 0 { a := 16 }).wellFormed = false := by decide
theorem test_wf_recipeB : (Instr.rVadd 0 { b := 16 }).wellFormed = false := by decide
theorem test_wf_recipeW : (Instr.rVadd 0 { w := 5 }).wellFormed = false := by decide

/-! ### The queue -/

/-- With nothing pending a step idles (log entry 1). -/
theorem test_idle : (match step State.reset with
  | .next t => decide (t.pending = [])
  | _ => false) = true := by decide +kernel

/-- No row has bits: a word changes nothing. -/
theorem test_noWord : State.reset.withFetchWord 32 0xFFFFFFFF = State.reset := by rfl

/-! ### Check values (R199) -/

/-- The state after a command. -/
def after (i : Instr) (s : State) : State :=
  match exec i s with
  | .next t => t
  | _ => s

/-- The check string "123456789" of R199, folded through the registers. -/
theorem test_crc_registers :
    (after (.crcIn8 0x39) (after (.crcIn32 0x38373635) (after (.crcIn32 0x34333231) (after (.crcValWrite 0xFFFFFFFF) State.reset)))).regs.crcRun =
      0x1CF96D7C#32 := by decide +kernel

/-- The finished value of R199. -/
theorem test_crc_string : crcN [0x31, 0x32, 0x33, 0x34, 0x35, 0x36, 0x37, 0x38, 0x39] = 0xE3069283 := by decide +kernel

/-- The fold prefix of the worked example after R203. -/
theorem test_foldPrefix : foldPrefix 7 1192960 42 = [7, 0, 0, 0, 0, 0x34, 0x12, 0, 0, 0, 0, 0, 0x2A, 0, 0, 0] := by decide

/-! ### Digests and ciphers -/

/-- FIPS 180-4: the digest of "abc". -/
theorem test_sha256 : sha256 [0x61, 0x62, 0x63] =
    toBE 32 0xBA7816BF8F01CFEA414140DE5DAE2223B00361A396177A9CB410FF61F20015AD := by
  rw [sha256_fast]; decide +kernel

/-- RFC 4231, test case 1: "Hi There" under twenty bytes 0x0B. -/
theorem test_hmac : hmac (hmacStates (List.replicate 20 0x0B)) [0x48, 0x69, 0x20, 0x54, 0x68, 0x65, 0x72, 0x65] =
    toBE 32 0xB0344C61D8DB38535CA8AFCEAF0BF12B881DC200C9833DA726E9376C2E32CFF7 := by
  rw [hmac_fast, hmacStates_fast]; decide +kernel

/-- FIPS 197, C.3: AES-256. -/
theorem test_aes : aesEnc kek (toBE 16 0x00112233445566778899AABBCCDDEEFF) = toBE 16 0x8EA2B7CA516745BFEAFC49904B496089 := by
  rw [enc_fast]; decide +kernel

/-- RFC 3394, 4.6: a wrapped key. -/
theorem test_unwrap : keyUnwrap kek (wrapIv 0) wrappedKey = some plainKey := rfc3394

/-! ### Codecs -/

/-- The requantized values of the worked example of R176: F block 3 of stream 0x30 in epoch 1. -/
theorem test_f2 : (encodeE 4 (lfsrSeed 0x30 1 3) ⟨-6, [127, 100, -37, 5]⟩) =
    (⟨-2, [7, 7, -2, 0]⟩, 1, 0xD0341001#32) := by decide +kernel

/-- The LIT and ZRUN bits of the worked example of R170, with five granules of zeros in place of 1,023. -/
theorem test_sparse : (encodeBitsL false ([0x03, 0xFE, 0x00, 0x11] ++ zeros 380)).length = 1 + 68 + 256 + 3 + 10 := by
  decide +kernel

/-- Its first bytes after the header. -/
theorem test_sparse_bytes : ((encodeL false ([0x03, 0xFE, 0x00, 0x11] ++ zeros 380)).drop 8).take 11 =
    [0x64, 0, 0, 0, 0, 0, 0, 0, 0x80, 0x0F, 0x10] := by decide +kernel

/-- 2^(−2) modulo p of R225. -/
theorem test_pow2 : pow2Mod (-2) = 0x3FFFFFFF := by decide +kernel

/-! ### Recipes -/

/-- Three words of the worked example of R187: the header, VLD and LOOP. -/
theorem test_recipe_words : rcpLog2 [0xF00000000007000C] = 12 ∧ wordReason 0 18 0xF00000000007000C = 0 ∧
    rOp 0x2000000000000000 = 0x20 ∧ rFields 0x0602000000000006 = { a := 2, imm := 6 } := by decide +kernel

/-! ### The castle -/

/-- The first attempt of the worked example in Setup Registers: SC_STAGE_CFG 0x2004 is refused for reason 2. -/
theorem test_castle_refused :
    let t := after .castleCommit { State.reset with regs.shadow := { State.reset.regs.shadow with
      castle.isOpen := true, staged := [(0x400, 0x2004)] } }
    (t.regs.shadow.castle.pend, t.regs.shadow.castle.result, t.regs.shadow.castle.reason, t.regs.shadow.castle.reg) =
      (false, 2, 2, 0x100) := by decide +kernel

/-- The second attempt is validated and waits. -/
theorem test_castle_pending :
    let t := after .castleCommit { State.reset with regs.shadow := { State.reset.regs.shadow with
      castle.isOpen := true, staged := [(0x400, 0x1004), (0x404, 0x4001F4)] }, str.ctxs := [(0, ctx)] }
    t.regs.shadow.castle.pend = true := by decide +kernel

end Sys2Proof.Tests
end

