-- ==== Sys2Proof/Tests/Witness1.lean ====
section
/-! SUPPORT. States and operands that meet the hypotheses of the statements: each theorem applies every clause of a
statement, in order, to concrete values, and each hypothesis is met by evaluation. Step, registers, rings. -/

set_option Elab.async false

set_option linter.all false
set_option maxRecDepth 8000

namespace Sys2Proof.Tests

open Sys2Proof.Machine

theorem meets_StepRunsFront (h : Obligations.StepRunsFront) : True := by
  have w1 := h .tick [] { State.reset with pending := [.tick] } rfl
  trivial

/-- One request of the host bridge or of the fabric, which waits for its grant. -/
def waitingHb : HbReq := { id := 3, kind := .cq 1 0, write := true, addr := 65536, tdid := 0, len := 16 }
def waitingFab : FabReq := { id := 3, kind := .source 1 0, port := 0, write := false, addr := 65536, len := 4096 }

theorem meets_IdleStep (h : Obligations.IdleStep) : True := by
  obtain ⟨c1, c2, c3, c4, c5, c6, c7⟩ := h
  have w1 := c1 { State.reset with pins.rst := 1 } rfl (by decide +kernel)
  have w2 := c2 State.reset rfl (by decide +kernel) -- nochk
  have w3 := c3 { State.reset with out.hb := [waitingHb] } waitingHb rfl (by decide +kernel) rfl rfl rfl (by decide +kernel) (by decide +kernel) nofun
  have w4 := c4 { State.reset with out.fab := [waitingFab] } waitingFab rfl (by decide +kernel) rfl rfl rfl (by decide +kernel) (by decide +kernel) (by decide +kernel) (by decide +kernel)
  have w5 := c5 {} [4, 1] 1 (by decide +kernel)
  have w6 := c6 { used := [32, 4, 4, 12, 8, 4], n := 60 } [2, 5] 2 (by decide +kernel) (by decide +kernel)
  have w7 := c7 (List.replicate 64 [0, 3]) 3 (by decide +kernel) (by decide +kernel) (by decide +kernel)
  trivial

theorem meets_ControlInvariant (h : Obligations.ControlInvariant) : True := by
  have w1 := h { State.reset with pending := [.castleBegin] } _ reset_ok rfl -- nochk
  trivial

/-- A castle that is open, and one that is pending with a value staged for SC_SEAL_CTL's register at 0x40C. -/
def openCastle : State := { State.reset with regs.shadow.castle.isOpen := true }

def pendCastle (staged : Tab W32) : State :=
  { State.reset with regs.shadow := { State.reset.regs.shadow with castle := { isOpen := false, pend := true }, staged } }

theorem meets_ShadowedRegisterRule (h : Obligations.ShadowedRegisterRule) : True := by
  obtain ⟨c1, c2, c3, c4, c5⟩ := h
  have w1 := c1 State.reset 0x404 (by decide +kernel)
  have w2 := c2 State.reset 0x404 5 (by decide +kernel) (by decide +kernel) (by decide +kernel)
  have w3 := c3 openCastle 0x404 0xFFFFFFFF (by decide +kernel) (by decide +kernel) (by decide +kernel)
  have w4 := c4 State.reset 0x24 7 (by decide +kernel)
  have w5 := c5 State.reset 0x404 0x4003E8 reset_ok.1 (by decide +kernel)
    (by decide +kernel)
  trivial

theorem meets_CastleCommands (h : Obligations.CastleCommands) : True := by
  obtain ⟨c1, c2, c3, c4, c5, c6, c7⟩ := h
  have w1 := c1 State.reset (by decide +kernel) (by decide +kernel) (by decide +kernel)
  have w2 := c2 openCastle (by decide +kernel) (by decide +kernel)
  have w3 := c3 openCastle (by decide +kernel) (by decide +kernel) (by decide +kernel)
  have w4 := c4 { openCastle with regs.shadow.staged := [(0x100, 0xFFFFFFFF)] }
    ((refusal? { openCastle with regs.shadow := { openCastle.regs.shadow with
      castle := { isOpen := false, pend := true }, staged := [(0x100, 0xFFFFFFFF)] } }).getD (0, 0))
    (by decide +kernel) (by decide +kernel) (by decide +kernel) (by decide +kernel)
  have w5 := c5 State.reset (by decide +kernel) (by decide +kernel)
  have w6 := c6 openCastle (by decide +kernel) (by decide +kernel) (by decide +kernel) (by decide +kernel)
  have w6b := c6 (pendCastle []) (by decide +kernel) (by decide +kernel) (by decide +kernel) (by decide +kernel)
  have w7 := c7 State.reset (by decide +kernel) (by decide +kernel) (by decide +kernel) (by decide +kernel)
  trivial

theorem meets_CastleApply (h : Obligations.CastleApply) : True := by
  obtain ⟨c1, c2⟩ := h
  have w1 := c1 (pendCastle [(0x404, 0x4003E8)]) (by decide +kernel) (by decide +kernel) (by decide +kernel) (by decide +kernel) (by decide +kernel) (by decide +kernel) -- nochk
  have w2 := c2 { pendCastle [(0x400, 0x2008)] with str.ctxs := [(0, ctx)] } (by decide +kernel) (by decide +kernel) (by decide +kernel)
  trivial


/-- A failed mirror write. -/
def failedMirror : HbReq := { id := 3, kind := .mirror 7 1 1 true, write := true, addr := 0, tdid := 0, len := 32, tries := 4 }

theorem meets_ImmediateRegisters (h : Obligations.ImmediateRegisters) : True := by
  obtain ⟨c1, c2, c3, c4⟩ := h
  have w1 := c1 State.reset 0x31323334 (by decide +kernel)
  have w2 := c2 { State.reset with regs.eccCe := 3 } 1 (by decide +kernel)
  have w3 := c3 State.reset 0x10E05 (by decide +kernel)
  obtain ⟨d1, d2⟩ := c4 { State.reset with out.hb := [failedMirror] } 1 (by decide +kernel)
  have w4 := d2 (by decide +kernel) (by decide +kernel) -- nochk
  obtain ⟨e1, e2⟩ := c4 State.reset 0 (by decide +kernel)
  have w5 := e1 (by decide +kernel)
  trivial

theorem meets_RingEnable (h : Obligations.RingEnable) : True := by
  obtain ⟨c1, c2, c3, c4⟩ := h
  have w1 := c1 desc evDesc [] State.reset (by decide +kernel) (by decide +kernel) (by decide +kernel) (by decide +kernel) (by decide +kernel) (by decide +kernel) (by decide +kernel)
  have w2 := c2 (zeros 64) 0 none none State.reset (by decide +kernel) (by decide +kernel) (by decide +kernel) (by decide +kernel) (by decide +kernel)
  have w3 := c3 none none State.reset (by decide +kernel) (by decide +kernel) (by decide +kernel) (by decide +kernel)
  have w4 := c4 none none none (rings State.reset) (by decide +kernel)
  trivial

/-- Queue 1 with items 0 to 2 in its ring. -/
def threeItems : Queue := { queue with tail := 3 }

def withQueue (x : Queue) (s : State) : State := { s with ring.queues := [(0, queue), (1, x)] }

theorem meets_DoorbellRule (h : Obligations.DoorbellRule) : True := by
  obtain ⟨c1, c1b, c2, c3, c4, c5, c6, c7, c7b, c7c, c8, c9, c10⟩ := h
  have w1 := c1 1 0x10000 threeItems 16 (withQueue threeItems (rings State.reset)) (by decide +kernel) (by decide +kernel) (by decide +kernel)
    (by decide +kernel) (by decide +kernel) (by decide +kernel) (by decide +kernel)
  have w1b := c1b 5 queue 5 { rings State.reset with pwr.state := 1 } (by decide +kernel) (by decide +kernel) (by decide +kernel)
    (by decide +kernel) (by decide +kernel) (by decide +kernel) (by decide +kernel)
  have w2 := c2 1 1 threeItems 1 (withQueue threeItems (rings State.reset)) (by decide +kernel) (by decide +kernel) (by decide +kernel) (by decide +kernel) (by decide +kernel)
  have w2b := c2 1 0x1000F { threeItems with acc := 14, head := 14, tail := 14 } 31 (withQueue { threeItems with acc := 14, head := 14, tail := 14 } (rings State.reset)) (by decide +kernel) (by decide +kernel) (by decide +kernel) (by decide +kernel) (by decide +kernel)
  have w3 := c3 1 1 { queue with state := .flushing, flushBy := some (1, 1) } (withQueue { queue with state := .flushing, flushBy := some (1, 1) } (rings State.reset)) (by decide +kernel)
    (by decide +kernel) (by decide +kernel)
  have w4 := c4 7 1 (rings State.reset) (by decide +kernel) (by decide +kernel)
  have w5 := c5 1 1 { queue with cqDone := 1 } 1 (withQueue { queue with cqDone := 1 } (rings State.reset)) (by decide +kernel) (by decide +kernel)
    (by decide +kernel) (by decide +kernel) (by decide +kernel)
  have w6 := c6 1 0 { queue with cqDone := 15, fresh := true } 0
    (withQueue { queue with cqDone := 15, fresh := true } (rings State.reset)) (by decide +kernel) (by decide +kernel) (by decide +kernel) (by decide +kernel) (by decide +kernel)
  have w7 := c7 1 2 { queue with cqDone := 1 } 2 (withQueue { queue with cqDone := 1 } (rings State.reset)) (by decide +kernel) (by decide +kernel) (by decide +kernel) (by decide +kernel) (by decide +kernel)
  have w7b := c7b 1 0 { queue with cqDone := 16, fresh := true } 0 (withQueue { queue with cqDone := 16, fresh := true } (rings State.reset)) (by decide +kernel) (by decide +kernel) (by decide +kernel) (by decide +kernel) (by decide +kernel)
  have w7c := c7c 0 State.reset (by decide +kernel) (by decide +kernel)
  let v : State := { rings State.reset with ring := { (rings State.reset).ring with ev := { (rings State.reset).ring.ev with written := 1 } } }
  obtain ⟨d8, d8b⟩ := c8 1 1 v (by decide +kernel) (by decide +kernel) (by decide +kernel) (by decide +kernel)
  have w8 := d8
  have w8b := d8b (by decide +kernel) (by decide +kernel)
  have w10 := c10 (rings State.reset) 0x10008 (by decide +kernel) (by decide +kernel) (by decide +kernel)
  have w9 := c9 1 1 (rings State.reset) (by decide +kernel) (by decide +kernel) (by decide +kernel) (by decide +kernel)
  trivial

theorem meets_Dispatch (h : Obligations.Dispatch) : True := by
  obtain ⟨c1, c2, c3, c4, c5, c6, c7, c8, c9⟩ := h
  let urgent : Queue := { threeItems with desc := fields 64 [(0, 8, 4096), (8, 8, 8192), (24, 8, 12288), (32, 1, 4), (33, 1, 4),
    (35, 1, 1), (36, 1, 2)] }
  let z : Queue := { threeItems with desc := fields 64 [(0, 8, 4096), (8, 8, 8192), (24, 8, 12288), (32, 1, 4), (33, 1, 4),
    (34, 1, 1), (35, 1, 1), (36, 1, 1)] }
  let x : Queue := { z with credit := 1 }
  let seen : Tab Bytes := [(1, [3, 3, 3])]
  have w1 := c1 (withQueue urgent (rings State.reset)) seen 1 urgent [1, 1] (by decide +kernel) (by decide +kernel) (by decide +kernel) (by decide +kernel) (by intro i; rw [show (lookAt seen 1 urgent).2.1 = .short by decide +kernel]; nofun) (by decide +kernel)
  have w2 := c2 (withQueue x (rings State.reset)) seen 1 x [1] (by decide +kernel) (by decide +kernel) (by decide +kernel) (by decide +kernel) (by decide +kernel) (by intro i; rw [show (lookAt seen 1 x).2.1 = .short by decide +kernel]; nofun) (by decide +kernel)
  have w3 := c3 (withQueue z (rings State.reset)) seen 1 z [1] (by decide +kernel) (by decide +kernel) (by decide +kernel) (by decide +kernel) (by decide +kernel) (by intro i; rw [show (lookAt seen 1 z).2.1 = .short by decide +kernel]; nofun) (by decide +kernel)
  have w4 := c4 (rings State.reset) [] (by decide +kernel) (by decide +kernel) (by decide +kernel)
  have w5 := c5 { rings State.reset with regs.gasp.hold := true } seen (.inl (by decide +kernel))
  have w6 := c6 (withQueue threeItems (rings State.reset)) [(1, [0])] 1 0 threeItems (by decide +kernel) (by decide +kernel) (by decide +kernel) (by decide +kernel) (by decide +kernel) (by decide +kernel) (by decide +kernel) (by decide +kernel) (by decide +kernel)
  have w7 := c7 16 14 [1, 1, 1]
  have w8 := c8 16 14 5 (by decide +kernel)
  have w9 := c9 (withQueue { threeItems with waitPub := some (1, 2) } (rings State.reset)) 1 { threeItems with waitPub := some (1, 2) } (1, 2)
    (by decide +kernel) (by decide +kernel) (by decide +kernel) (by decide +kernel) (by decide +kernel)
  trivial

theorem meets_ItemAccept (h : Obligations.ItemAccept) : True := by
  obtain ⟨c1, c2⟩ := h
  let x : Queue := { threeItems with fetched := [{ pos := 0, bytes := item 0x48 [] }] }
  have w1 := c1 (withQueue x (rings State.reset)) 1 x { pos := 0, bytes := item 0x48 [] } [] (by decide +kernel) (by decide +kernel) (by decide +kernel)
    (by decide +kernel) (by decide +kernel) (by decide +kernel)
  have w2 := c2 1 5 2 (item2 0x41 []) (by decide +kernel) -- nochk
  trivial

/-- A command not yet started. -/
def waiting (q seq : Nat) (it : Bytes) : Cmd := { started q seq it with st := .accepted }

theorem meets_CommandStart (h : Obligations.CommandStart) : True := by
  obtain ⟨c1, c2, c3, c4, c5, c6⟩ := h
  let c := waiting 1 1 (item 0x48 [])
  have w1 := c1 (withCmd c) 1 1 c (by decide +kernel) (by decide +kernel) (by decide +kernel) (by decide +kernel) (by decide +kernel) (by decide +kernel) -- nochk
  let d := waiting 0 2 (item 0x12 [])
  let o : Cmd := { started 0 1 (item 0x12 []) with maint := true }
  have w2 := c2 { rings State.reset with ldg.cmds := [o, d] } 0 2 d o (by decide +kernel) (by decide +kernel) (by decide +kernel) (by decide +kernel) (by decide +kernel)
  let l := waiting 1 1 (item 0x49 [(12, 4, 1)])
  let g : Gen := { gen1 with pending := some (fields 96 [(0, 4, 1), (4, 1, 1)]) }
  let s : State := { withGen (withCmd l) with adm := { (withGen (withCmd l)).adm with gens := [g] } }
  let wr := fun (st : Nat) => ({ s with adm := { s.adm with listWrites := [{ q := 1, seq := 1, plan := 0, bytes := planList, st }] } } : State)
  have w3 := c3 s 1 1 l g (fields 96 [(0, 4, 1), (4, 1, 1)]) (by decide +kernel) (by decide +kernel) (by decide +kernel) (by decide +kernel) (by decide +kernel) (by decide +kernel) -- nochk
  have w4 := c4 (wr 1) 1 1 l g (fields 96 [(0, 4, 1), (4, 1, 1)]) { q := 1, seq := 1, plan := 0, bytes := planList, st := 1 } (by decide +kernel) (by decide +kernel) (by decide +kernel) (by decide +kernel) (by decide +kernel) (by decide +kernel) (by decide +kernel) -- nochk
  have w5 := c5 (wr 2) 1 1 l g (fields 96 [(0, 4, 1), (4, 1, 1)]) { q := 1, seq := 1, plan := 0, bytes := planList, st := 2 } (by decide +kernel) (by decide +kernel) (by decide +kernel) (by decide +kernel) (by decide +kernel) (by decide +kernel) (by decide +kernel)
  have w6 := c6 (withCmd { c with mirrored := false }) 1 1 { c with mirrored := false } (by decide +kernel) (by decide +kernel) (by decide +kernel)
  trivial

theorem meets_WrongQueueIsMalformed (h : Obligations.WrongQueueIsMalformed) : True := by
  let c := waiting 0 1 (item 0x48 [])
  have w1 := h (withCmd c) 0 1 c (1, 1) (by decide +kernel) (by decide +kernel) (by decide +kernel) (by decide +kernel) (by decide +kernel) (by decide +kernel) (by decide +kernel)
    (by decide +kernel)
  trivial

theorem meets_ReservedFieldIsMalformed (h : Obligations.ReservedFieldIsMalformed) : True := by
  have w1 := h (.barrier 1 1) 0x48 1 1 (workCmd 0x48 [(60, 1, 1)]) (started 1 1 (item 0x48 [(60, 1, 1)])) 60 (by decide +kernel) (by decide +kernel)
    ⟨nofun, nofun⟩ (by decide +kernel) -- nochk
  trivial

theorem meets_CompletionWrite (h : Obligations.CompletionWrite) : True := by
  obtain ⟨c1, c2⟩ := h
  let c : Cmd := { started 1 1 (item 0x48 []) with st := .durable, status := 3 }
  have w1 := c1 (withCmd c) 1 queue [c] c (by decide +kernel) (by decide +kernel) (by decide +kernel) (by decide +kernel) (by decide +kernel) (by decide +kernel) (by decide +kernel)
  let a : Cmd := { c with status := 0 }
  let b : Cmd := { a with seq := 2, item := item 0x48 [(2, 2, 1)] }
  have w2 := c2 queue [a, b] [a, b] (by decide +kernel) -- nochk
  trivial

theorem meets_ShadowStallEventsTick (h : Obligations.ShadowStallEventsTick) : True := by
  obtain ⟨c1, c2, c3, c4, c5, c6, c7, c8⟩ := h
  have w1 := c1 (withQueue { queue with shadowDue := true } State.reset) 1 { queue with shadowDue := true } (by decide +kernel) (by decide +kernel)
    (by decide +kernel)
  have w2 := c2 (rings State.reset) 1 queue (by decide +kernel) (by decide +kernel)
  let x : Queue := { threeItems with desc := fields 64 [(0, 8, 4096), (8, 8, 8192), (24, 8, 12288), (32, 1, 4), (33, 1, 4),
    (35, 1, 1), (36, 1, 1), (42, 2, 1)] }
  have w3 := c3 { withQueue x (rings State.reset) with time.act := 1000 } 1 x (by decide +kernel) (by decide +kernel) (by decide +kernel) (by decide +kernel)
    (by decide +kernel) (by decide +kernel) (by decide +kernel) (by decide +kernel)
  have w4 := c4 { withQueue x (withCmd (started 1 1 (item 0x48 []))) with time.act := 1000 } 1 x (started 1 1 (item 0x48 [])) []
    (by decide +kernel) (by decide +kernel) (by decide +kernel) (by decide +kernel) (by decide +kernel) (by decide +kernel)
  have w5 := c5 { rings State.reset with ring := { (rings State.reset).ring with ev := { (rings State.reset).ring.ev with
    held := [⟨0x0801, 0, 0xFFFF, 5, 0, 9⟩] } } } (by decide +kernel) (by decide +kernel) (by decide +kernel) -- nochk
  have w6 := c6 { State.reset with ldg.live := true } (by decide +kernel) (by decide +kernel) (by decide +kernel) -- nochk
  have w7 := (c7 1 16 queue (rings State.reset) (by decide +kernel) (by decide +kernel)).1 (by decide +kernel) (by decide +kernel)
  have w7b := (c7 1 16 queue (rings State.reset) (by decide +kernel) (by decide +kernel)).2 (by decide +kernel)
  have w8 := c8 0x1FFFF (rings State.reset) (by decide +kernel) (by decide +kernel) (by decide +kernel)
  trivial

end Sys2Proof.Tests
end

