-- ==== Sys2Proof/Tests/Witness2.lean ====
section
/-! SUPPORT. States and operands that meet the hypotheses of the statements (see Witness1). Admin commands. -/

set_option Elab.async false

set_option linter.all false
set_option maxRecDepth 8000

namespace Sys2Proof.Tests

open Sys2Proof.Machine

theorem meets_VaultAndBufferCommands (h : Obligations.VaultAndBufferCommands) : True := by
  obtain ⟨c1, c2, c3, c4, c5, c6, c7, c8⟩ := h
  have w1 := c1 (adminCmd 1 [(8, 4, 1), (16, 8, 0x100000), (24, 8, 16384)]) 0 1
      (started 0 1 vaultItem) ⟨by decide +kernel, by decide +kernel⟩ (by decide +kernel) (by decide +kernel)
  have w2 := c2 (linked (adminCmd 1 [(8, 4, 1), (12, 1, 1), (24, 8, 16), (32, 4, 9)])) 0 1
    (started 0 1 (item 1 [(8, 4, 1), (12, 1, 1), (24, 8, 16), (32, 4, 9)])) 7 ⟨by decide +kernel, by decide +kernel⟩ (by decide +kernel)
      (by decide +kernel) (by decide +kernel) (by decide +kernel)
  have w3 := c3 (withVault (adminCmd 2 [(8, 4, 1)])) 0 1 (started 0 1
      (item 2 [(8, 4, 1)])) { item := vaultItem } ⟨by decide +kernel, by decide +kernel⟩ (by decide +kernel) (by decide +kernel) (by decide +kernel)
  have w4 := c4 { withVault (adminCmd 2 [(8, 4, 1)]) with ldg.cmds := [started 0 1 (item 2 [(8, 4, 1)]),
      started 1 4 (item2 0x44 [(8, 4, 1)])] } 0 1
    (started 0 1 (item 2 [(8, 4, 1)])) { item := vaultItem } ⟨by decide +kernel, by decide +kernel⟩ (by decide +kernel) (by decide +kernel)
  have w5 := c5 (adminCmd 5 [(8, 2, 3), (10, 2, 1), (16, 8, 0x200000), (24, 8, 65536)]) 0 1
    (started 0 1 (item 5 [(8, 2, 3), (10, 2, 1), (16, 8, 0x200000), (24, 8, 65536)])) ⟨by decide +kernel, by decide +kernel⟩ (by decide +kernel) -- nochk
  have w6 := c6 (withGrant 1 (workCmd 6 [(8, 2, 3), (12, 4, 9)])) 1 1 (started 1 1 (item 6 [(8, 2, 3), (12, 4, 9)]))
    { owner := 1, tdid := 0, base := 0x200000, len := 65536, gen := 9 } ⟨by decide +kernel, by decide +kernel⟩ (by decide +kernel) (by decide +kernel) (by decide +kernel) (by decide +kernel) -- nochk
  have w7 := c7 (workCmd 6 [(8, 2, 3), (12, 4, 9)]) 1 1 (started 1 1 (item 6 [(8, 2, 3),
      (12, 4, 9)])) ⟨by decide +kernel, by decide +kernel⟩ (by decide +kernel) (by decide +kernel)
  have w8 := c8 (withGrant 2 (workCmd 6 [(8, 2, 3), (12, 4, 9)])) 1 1 (started 1 1 (item 6 [(8, 2, 3), (12, 4, 9)]))
    { owner := 2, tdid := 0, base := 0x200000, len := 65536, gen := 9 } ⟨by decide +kernel, by decide +kernel⟩ (by decide +kernel)
      (by decide +kernel) (by decide +kernel) (by decide +kernel)
  trivial

theorem meets_QueueCommands (h : Obligations.QueueCommands) : True := by
  obtain ⟨c1, c2, c3, c4, c5, c6, c7, c8⟩ := h
  have w1 := c1 (adminCmd 3 [(8, 2, 4095)]) 0 1 (started 0 1 (item 3 [(8, 2, 4095)])) desc ⟨(by decide +kernel), (by decide +kernel)⟩ (by decide +kernel) (by decide +kernel) (by decide +kernel)
  have w2 := c2 (adminCmd 3 [(8, 2, 2)]) 0 1 (started 0 1 (item 3 [(8, 2, 2)])) (zeros 64) 0 ⟨(by decide +kernel), (by decide +kernel)⟩ (by decide +kernel) (by decide +kernel)
  have w3 := c3 (adminCmd 3 [(8, 2, 2)]) 0 1 (started 0 1 (item 3 [(8, 2, 2)])) ⟨(by decide +kernel), (by decide +kernel)⟩ (by decide +kernel)
  let m : State := { adminCmd 3 [(8, 2, 2)] with ldg.marks := [(16, (0, 1))] }
  have w4 := c4 m 0 1 (started 0 1 (item 3 [(8, 2, 2)])) none ⟨(by decide +kernel), (by decide +kernel)⟩ (by decide +kernel)
  have w5 := c5 (adminCmd 3 [(8, 2, 1)]) 0 1 (started 0 1 (item 3 [(8, 2, 1)])) none queue (by decide +kernel) (by decide +kernel) (by decide +kernel) -- nochk
  have w6 := c6 (adminCmd 4 [(8, 2, 1)]) 0 1 (started 0 1 (item 4 [(8, 2, 1)])) queue [] ⟨(by decide +kernel), (by decide +kernel)⟩ (by decide +kernel)
  have w7 := c7 (withGrant 1 (adminCmd 4 [(8, 2, 1)])) 0 1 (started 0 1 (item 4 [(8, 2, 1)])) queue [] ⟨(by decide +kernel), (by decide +kernel)⟩ (by decide +kernel) (by decide +kernel) (by decide +kernel) (by decide +kernel) (by decide +kernel) (by decide +kernel) (by decide +kernel) -- nochk
  have w8 := c8 (adminCmd 4 [(8, 2, 1)]) queue 1 0 1 [] (by decide +kernel) (by decide +kernel) (by decide +kernel) (by decide +kernel)
  trivial

/-- A patch that replaces entry 1 by itself with STREAM 2. -/
def patchRecs : Bytes := fields 64 [(0, 4, 1)] ++ fields 64 [(0, 1, 1), (8, 8, 65536), (16, 8, 65536), (24, 4, 2)]
def patchedList : Bytes := headerEntry ++ fields 64 [(0, 1, 1), (8, 8, 65536), (16, 8, 65536), (24, 4, 2)]

def storeItem : List (Nat × Nat × Nat) := [(8, 2, 0), (12, 4, 2), (16, 8, 0x8000)]

theorem meets_PlanCommands (h : Obligations.PlanCommands) : True := by
  obtain ⟨c1, c2, c3, c4, c5, c6, c7, c8, c9, c10, c11, c12⟩ := h
  have w1 := c1 (windows (withVault (adminCmd 7 storeItem))) 0 1 (started 0 1 (item 7 storeItem)) planList ⟨(by decide +kernel), (by decide +kernel)⟩ (by decide +kernel) (by decide +kernel) (by decide +kernel) (by decide +kernel)
  have w2 := c2 (windows (withVault (adminCmd 7 storeItem))) 0 1 (started 0 1 (item 7 storeItem)) (zeros 64 ++ rangeEntry)
    0 4 ⟨(by decide +kernel), (by decide +kernel)⟩ (by decide +kernel) (by decide +kernel) (by decide +kernel) (by decide +kernel)
  have w3 := c3 (withGen (adminCmd 7 [(8, 2, 0)])) 0 1 (started 0 1 (item 7 [(8, 2, 0)])) none ⟨(by decide +kernel), (by decide +kernel)⟩ (by decide +kernel) (by decide +kernel) (by decide +kernel)
  let newer : Cmd := started 0 1 (item 8 [(12, 4, 1), (24, 8, 0x9000)])
  let inPlace : Cmd := started 0 1 (item 8 [(10, 1, 1), (12, 4, 1)])
  have w4 := c4 (withGen (withCmd newer)) 0 1 newer gen1 patchRecs planList patchedList ⟨(by decide +kernel), (by decide +kernel)⟩ (by decide +kernel) (by decide +kernel) (by decide +kernel) (by decide +kernel) (by decide +kernel) (by decide +kernel)
  have w5 := c5 (withGen (withCmd inPlace)) 0 1 inPlace gen1 patchRecs planList patchedList ⟨(by decide +kernel), (by decide +kernel)⟩ (by decide +kernel) (by decide +kernel) (by decide +kernel) (by decide +kernel) (by decide +kernel) (by decide +kernel) (by decide +kernel)
  have w6 := c6 State.reset 0 1 4032 3 (zeros 128)
  let wr : ListWrite := { q := 0, seq := 1, plan := 0, bytes := patchedList }
  let going := fun (c : Cmd) => ({ withGen (withCmd c) with
    adm := { (withGen (withCmd c)).adm with listWrites := [wr] } } : State)
  have w7 := c7 (going newer) 0 1 newer wr (by decide +kernel) (by decide +kernel) (by decide +kernel) (by decide +kernel) (by decide +kernel)
  have w8 := c8 (going newer) newer wr gen1 (by decide +kernel) (by decide +kernel) (by decide +kernel) (by decide +kernel)
  have w9 := c9 (going inPlace) inPlace wr gen1 (by decide +kernel) (by decide +kernel) (by decide +kernel) (by decide +kernel) (by decide +kernel)
  have w10 := c10 (going newer) 0 1 newer wr (by decide +kernel) (by decide +kernel) (by decide +kernel) (by decide +kernel)
  have w10b := c10 (going inPlace) 0 1 inPlace wr (by decide +kernel) (by decide +kernel) (by decide +kernel) (by decide +kernel)
  have w11 := c11 { withGen (withCmd inPlace) with regs.shadow.castle.isOpen := true } 0 1 inPlace gen1 patchRecs planList
    patchedList ⟨(by decide +kernel), (by decide +kernel)⟩ (by decide +kernel) (by decide +kernel) (by decide +kernel) (by decide +kernel) (by decide +kernel) (by decide +kernel)
  have w12 := c12 (adminCmd 8 [(10, 1, 2)]) 0 1 (started 0 1 (item 8 [(10, 1, 2)])) none none ⟨(by decide +kernel), (by decide +kernel)⟩ (by decide +kernel)
  trivial

/-- A recipe of two words: a header of an encode program, and END. -/
def recipe2 : Bytes := toLE 8 0xF00000000000000A ++ toLE 8 0x0100000000000000

/-- Wrapping key 1 and its use. -/
def wrapKey : Bytes := zeros 32

def withKey (n form : Nat) (content : Bytes) (s : State) : State :=
  { s with adm.keys := [(n, { form, content, kcv := kcvOf form content })] }

theorem meets_RecipeAndKeyCommands (h : Obligations.RecipeAndKeyCommands) : True := by
  obtain ⟨c1, c2, c3, c4, c5⟩ := h
  have w1 := c1 (adminCmd 9 [(10, 2, 2)]) 0 1 (started 0 1 (item 9 [(10, 2, 2)])) recipe2 ⟨(by decide +kernel), (by decide +kernel)⟩ (by decide +kernel) (by decide +kernel)
  let l := headerEntry ++ fields 64 [(0, 1, 1), (1, 1, 4), (8, 8, 65536), (16, 8, 65536), (24, 4, 1)]
  let b : State := { adminCmd 9 [(10, 2, 2)] with
    cap.epochs := [(3, epoch 3 2 l)]
    adm := { (adminCmd 9 [(10, 2, 2)]).adm with gens := [{ gen1 with bytes := l }] } }
  have w2 := c2 b 0 1 (started 0 1 (item 9 [(10, 2, 2)])) none ⟨(by decide +kernel), (by decide +kernel)⟩ (by decide +kernel)
  have w4 := c4 { withGen (adminCmd 0x0A [(9, 1, 1), (11, 1, 40)]) with cap.epochs := [(3, epoch 3 2 planList)] } 0 1
    (started 0 1 (item 0x0A [(9, 1, 1), (11, 1, 40)])) none ⟨(by decide +kernel), (by decide +kernel)⟩ (by constructor <;> decide +kernel) (by decide +kernel)
  trivial

theorem meets_PowerStates (h : Obligations.PowerStates) : True := by
  obtain ⟨c1, c2, c3, c4, c5, c6, c7, c8⟩ := h
  have w1 := c1 (adminCmd 0x0C []) 0 1 (started 0 1 (item 0x0C [])) ⟨by decide +kernel, by decide +kernel⟩ (by decide +kernel)
  have w2 := c2 (adminCmd 0x0C [(8, 1, 3)]) 0 1 (started 0 1 (item 0x0C [(8, 1, 3)])) ⟨by decide +kernel, by decide +kernel⟩
      (by decide +kernel) (by decide +kernel)
  have w3 := c3 { adminCmd 0x0C [] with pwr.state := 2 } 0 1 (started 0 1 (item 0x0C [])) ⟨by decide +kernel, by decide +kernel⟩
      (by decide +kernel) (by decide +kernel)
  let e : State := { adminCmd 0x0C [(8, 1, 1)] with pwr := { entering := true, target := 1, cmd := some (0, 1) } }
  have w4 := c4 e 0 1 (started 0 1 (item 0x0C [(8, 1, 1)])) (by decide +kernel) (by decide +kernel) (by decide +kernel)
      (by decide +kernel) (by decide +kernel) (by decide +kernel) (by decide +kernel) (by decide +kernel)
    (fun p hp => all_of ((by decide +kernel : ∀ p < 4, (port? e p).all (fun x => decide (x.state = 0)) = true) p hp))
  have w5 := c5 { e with pwr.target := 3 } 0 1 (started 0 1 (item 0x0C [(8, 1, 1)])) (by decide +kernel) (by decide +kernel)
      (by decide +kernel) (by decide +kernel) (by decide +kernel) (by decide +kernel)
  have w6 := c6 State.reset (.inl rfl)
  have w7 := c7 { State.reset with pwr := { State.reset.pwr with state := 1, awake := true } } (by decide +kernel) (by decide +kernel)
      (by decide +kernel) (by decide +kernel) (by decide +kernel)
  have w8 := c8 State.reset (.inl rfl)
  trivial

def laneItem (op k i : Nat) : Bytes := item op [(8, 1, k), (9, 1, i)]

theorem meets_LaneCommands (h : Obligations.LaneCommands) : True := by
  obtain ⟨c1, c2, c3, c4, c5⟩ := h
  have w1 := c1 (withCmd (started 0 1 (laneItem 0x0D 8 7))) 0 1 (started 0 1 (laneItem 0x0D 8 7)) ⟨by decide +kernel, by decide +kernel⟩
      (by decide +kernel) (by decide +kernel) (by decide +kernel) (by decide +kernel)
  let r : State := { withCmd (started 0 1 (laneItem 0x0D 2 31)) with flt.retired := [(95, 1)] }
  have w2 := c2 r 0 1 (started 0 1 (laneItem 0x0D 2 31)) ⟨by decide +kernel, by decide +kernel⟩ (by decide +kernel) (by decide +kernel)
      (by decide +kernel)
  have w3 := c3 (withCmd (started 0 1 (laneItem 0x0E 2 31))) 0 1 (started 0 1
      (laneItem 0x0E 2 31)) true ⟨by decide +kernel, by decide +kernel⟩ (by decide +kernel)
  let t : State := { withCmd (started 0 1 (laneItem 0x0E 2 31)) with flt.retired := [(95, 1)] }
  have w4 := c4 t 0 1 (started 0 1 (laneItem 0x0E 2 31)) ⟨by decide +kernel, by decide +kernel⟩ (by decide +kernel)
  have w5 := c5 t 0 1 (started 0 1 (laneItem 0x0E 2 31)) ⟨by decide +kernel, by decide +kernel⟩ (by decide +kernel) -- nochk
  trivial

theorem meets_TopologyCommands (h : Obligations.TopologyCommands) : True := by
  obtain ⟨c1, c2, c3, c4, c5, c6⟩ := h
  have w1 := c1 (adminCmd 0x0F [(8, 1, 7), (9, 1, 1), (12, 4, 7)]) 0 1
    (started 0 1 (item 0x0F [(8, 1, 7), (9, 1, 1), (12, 4, 7)])) ⟨by decide +kernel, by decide +kernel⟩ (by decide +kernel)
  have w2 := c2 { adminCmd 0x0F [] with adm.fenced := true } 0 1 (started 0 1 (item 0x0F [])) ⟨by decide +kernel, by decide +kernel⟩
      (by decide +kernel)
  let i : Bytes := item 0x10 [(8, 4, 2), (24, 4, 3), (28, 4, 5)]
  have w3 := c3 (withCmd (started 0 1 i)) 0 1 (started 0 1 i) (selfRec ++ buddy7) ⟨by decide +kernel, by decide +kernel⟩
      (by decide +kernel) (by decide +kernel)
  have w4 := c4 { withCmd (started 0 1 i) with spl.peers := [(7, { port := 0, ready := true, ringGen := 4 })] } 0 1 (started 0 1 i)
    (selfRec ++ buddy7) ⟨by decide +kernel, by decide +kernel⟩ (by decide +kernel) (by decide +kernel)
  have w5 := c5 (adminCmd 0x14 [(8, 4, 7), (12, 4, 1)]) 0 1 (started 0 1 (item 0x14 [(8, 4, 7),
      (12, 4, 1)])) ⟨by decide +kernel, by decide +kernel⟩ (by decide +kernel) (by decide +kernel) (by decide +kernel)
  have w6 := c6 { linked (adminCmd 0x14 [(8, 4, 7), (12, 4, 2)]) with spl.reqs := [
    { tag := 3, peer := 7, mtype := 0x12, msg := [], owner := some (1, 4) }] } 0 1
    (started 0 1 (item 0x14 [(8, 4, 7), (12, 4, 2)])) ⟨by decide +kernel, by decide +kernel⟩
  trivial

theorem meets_CompactionAndReplay (h : Obligations.CompactionAndReplay) : True := by
  obtain ⟨c1, c2, c3, c4, c5, c6, c7⟩ := h
  have w1 := c1 (adminCmd 0x13 []) 0 1 (started 0 1 (item 0x13 [])) ⟨(by decide +kernel), (by decide +kernel)⟩ -- nochk
  let ran : Cmd := { started 0 1 (item 0x13 []) with ran := true }
  have w2 := c2 (withCmd ran) ran (by decide +kernel) (by decide +kernel) (by decide +kernel) (by decide +kernel) (by decide +kernel) (by decide +kernel)
  let w : HbReq := { id := 1, kind := .image 0 1, write := true, addr := 65536, tdid := 0, len := 64 }
  have w3 := c3 { withCmd ran with out.hb := [w] } ran w (by decide +kernel) (by decide +kernel) (by decide +kernel) (by decide +kernel)
  let due := fun (n : Nat) => ({ withCmd (started 1 1 (item 0x48 [])) with ldg.replayDue := n } : State)
  have w4 := c4 (due 1) [] false (by decide +kernel) (by decide +kernel) (by decide +kernel) (by constructor <;> decide +kernel) (by constructor <;> decide +kernel) (by decide +kernel) (by decide +kernel) (by decide +kernel)
    (by intro p x hx; simp [port?, due, withCmd, rings, State.reset, Tab.get?] at hx) -- nochk
  have w4b := c4 (due 2) [] true (by decide +kernel) (by decide +kernel) (by decide +kernel) (by constructor <;> decide +kernel) (by constructor <;> decide +kernel) (by decide +kernel) (by decide +kernel) (by decide +kernel)
    (by intro p x hx; simp [port?, due, withCmd, rings, State.reset, Tab.get?] at hx) -- nochk
  have w5 := c5 (due 2) [] (by decide +kernel) (by decide +kernel) (by decide +kernel) -- nochk
  have w6 := c6 State.reset [] (by decide +kernel)
  have w7 := c7 true (started 1 1 (item 0x48 []))
  trivial

end Sys2Proof.Tests
end

