-- ==== Sys2Proof/Tests/Witness3.lean ====
section
/-! SUPPORT. States and operands that meet the hypotheses of the statements (see Witness1). Work commands. -/

set_option Elab.async false

set_option linter.all false
set_option maxRecDepth 8000

namespace Sys2Proof.Tests

open Sys2Proof.Machine

/-- An EPOCH_OPEN of plan 0 as epoch 1, without and with a forecast of one record. -/
def openFields (fc : Nat) : List (Nat × Nat × Nat) := [(12, 4, 1), (20, 4, fc), (24, 8, 0xA000 * fc)]
def openCmd (fc : Nat) : Cmd := { started 1 1 (item 0x40 (openFields fc)) with epoch := 1, gen := 1 }
def openState (fc : Nat) : State := keyed (withGen (withCmd (openCmd fc)))
def opened (fc : Nat) : State :=
  readCtl gen1.list gen1.tdid (64 * gen1.count) 1
    (setPhase 1 1 { onCmd 1 1 ranCmd (openState fc) with cap.epochs := Tab.put (openState fc).cap.epochs 1 (epoch 1 1 planList) })
def reads (fc : HostRead) : LaunchReads := { list := some planList, forecast := fc, rowLists := [], headers := [], sectors := [] }
def forecast1 : Bytes := fields 32 [(0, 4, 1), (16, 8, 1)]

/-- Every context is taken. -/
def noCtx (s : State) : State := { s with str.ctxs := (List.range 131072).map fun i => (i, ctx) }

theorem noCtx_free (s : State) : ctxFree (noCtx s) = 0 := by simp [ctxFree, noCtx]

theorem noCtx_rooms (s : State) (e n : Nat) (he : 0 ≠ e) (hx : ((epoch? s e).map (·.reserved)).getD 0 = 0) (hn : 0 < n) :
    ctxRooms (noCtx s) e n = false := by
  have h : ctxsOfEpoch (noCtx s) e = 0 := by simp [ctxsOfEpoch, noCtx, ctx, he]
  have hy : epoch? (noCtx s) e = epoch? s e := by simp only [epoch?, noCtx]
  rw [ctxRooms, noCtx_free, h, hy]
  simp only [Nat.sub_zero, decide_eq_false_iff_not] at *
  omega

theorem meets_EpochOpen (h : Obligations.EpochOpen) : True := by
  obtain ⟨c1, c2, c3, c4⟩ := h
  have w1 := c1 (openState 0) 1 1 (openCmd 0) (reads none) gen1 (epoch 1 1 planList) planList { item := vaultItem } (opened 0)
    (buildOrder (planItems planList)) ⟨(by decide +kernel), (by decide +kernel)⟩ (by decide +kernel) (by decide +kernel) rfl rfl rfl rfl (by constructor <;> decide +kernel)
      (by decide +kernel) rfl (by decide +kernel) (by decide +kernel) (by decide +kernel) (by decide +kernel) (by decide +kernel) (by decide +kernel) (by decide +kernel) (by decide +kernel) (.inl ⟨(by decide +kernel), rfl⟩)
  have w2 := c1 (openState 1) 1 1 (openCmd 1) (reads (some forecast1)) gen1 (epoch 1 1 planList) planList { item := vaultItem }
    (opened 1) (buildOrder (forecastItems forecast1 1 [] ++ planItems planList)) ⟨(by decide +kernel), (by decide +kernel)⟩
      (by decide +kernel) (by decide +kernel) rfl rfl rfl rfl (by constructor <;> decide +kernel) (by decide +kernel) rfl (by decide +kernel) (by decide +kernel) (by decide +kernel) (by decide +kernel) (by decide +kernel) (by decide +kernel) (by decide +kernel) (by decide +kernel)
    (.inr ⟨(by decide +kernel), forecast1, rfl, (by decide +kernel), rfl, (by decide +kernel)⟩)
  have w3 := c2 (withCmd { started 1 1 (item 0x40 []) with badDetail := 13 }) 1 1 { started 1 1 (item 0x40 []) with badDetail := 13 }
    (reads none) (by decide +kernel) (by decide +kernel) -- nochk
  let o : Cmd := { started 1 1 (item 0x40 [(10, 2, 1), (12, 4, 1)]) with epoch := 1 }
  have w4 := c3 { openState 0 with cap.epochs := [(2, epoch 2 2 planList)], ldg.cmds := [o] } 1 1 o (reads none) (by decide +kernel) (by decide +kernel) (by decide +kernel)
  have w5 := c4 (noCtx (withCmd o)) 1 1 o (reads none) (by decide +kernel) (by decide +kernel) (by rw [noCtx_free]; decide +kernel) -- nochk
  trivial

def launchFields : List (Nat × Nat × Nat) := [(12, 4, 7)]
def launchCmd : Cmd := { started 1 1 (item 0x49 launchFields) with gen := 1 }
def launchState : State := keyed (withGen (withCmd launchCmd))

/-- One sector to be read from vault 1. -/
def unitJob : Job :=
  { ctx := 0, vault := 1, epoch := 1, stream := 0, block := 0, first := 8, count := 1, off := 0, elen := 4096, want := 4096
    full := 4096, codec := rawCodec, fmt := 0, dest := [] }

/-- A stream of the launch that has not started, and the state without a context for it. -/
def waitingStream : Ctx × List Job := ({ ctx with seq := 2 }, [unitJob])
def fullState : State := noCtx { launchState with str.starts := [waitingStream] }

theorem fullState_idle : ((ctxsOfCmd fullState 1 2).filter fun c => c.2.state != 5).length < 32 := by
  simp [ctxsOfCmd, fullState, noCtx, ctx, List.filter_map, Function.comp_def]

theorem meets_PlanLaunch (h : Obligations.PlanLaunch) : True := by
  obtain ⟨c1, c2, c3, c4, c5⟩ := h
  have w1 := c1 launchState (readCtl gen1.list gen1.tdid (64 * gen1.count) 1 (onCmd 1 1 ranCmd launchState)) 1 1 launchCmd (reads none)
    gen1 planList { item := vaultItem } ⟨(by decide +kernel), (by decide +kernel)⟩ (by decide +kernel) rfl rfl (by decide +kernel) (by decide +kernel) (by decide +kernel) (by decide +kernel) (by decide +kernel) (by decide +kernel)
  have w3 := c3 launchState 1 1 launchCmd { reads none with list := none } gen1 ⟨(by decide +kernel), (by decide +kernel)⟩ (by decide +kernel) (.inl rfl)
  have w3b := c3 launchState 1 1 launchCmd { reads none with list := some (zeros 128) } gen1 ⟨(by decide +kernel), (by decide +kernel)⟩ (by decide +kernel)
    (.inr ⟨zeros 128, rfl, (by decide +kernel)⟩)
  have w4 := c4 2 1 2 { launchState with str.starts := [waitingStream, waitingStream], str.ctxs := (List.range 31).map fun i => (i, { ctx with seq := 2 }) } (by decide +kernel)
  have w5 := c5 1 1 2 { launchState with str.starts := [waitingStream, waitingStream] } waitingStream (by decide +kernel) (by decide +kernel) -- nochk
  have w5b := (c5 1 1 2 fullState waitingStream (by decide +kernel) fullState_idle).1 (noCtx_free _) -- nochk
  trivial

def capFields : List (Nat × Nat × Nat) := [(8, 4, 1), (12, 4, 1)]

/-- Epoch 1 in a phase, with its copy order to go. -/
def inPhase (n : Nat) (e : Epoch) (c : Cmd) : State :=
  keyed { windows (withVault (withCmd c)) with cap.epochs := [(1, { e with phase := n })] }

def capEpochOf : Epoch := { epoch 1 2 planList with order := [⟨1, 0, 1⟩] }
def rowEpochOf : Epoch := { epoch 1 2 rowList with deferred := [1] }

/-- A ROW_CAPTURE with a list of two rows. -/
def listed : Cmd := started 1 4 (fields 128 ((0, 1, 1) :: (1, 1, 0x42) :: (64, 1, 2) :: (80, 4, 2) :: capFields))

/-- A listed ROW_CAPTURE and a CAPTURE of epochs that reserve nothing, without a free context. -/
def noRoomRows : State := noCtx (inPhase 2 { rowEpochOf with reserved := 0 } listed)
def noRoomPlates : State := noCtx (inPhase 2 { capEpochOf with reserved := 0 } (started 1 4 (item 0x41 capFields)))

theorem meets_CaptureAndSealCommands (h : Obligations.CaptureAndSealCommands) : True := by
  obtain ⟨c1, c2, c3, c4, c5, c6, c7, c8, c9, c10, c11⟩ := h
  let p : Cmd := started 1 4 (item 0x41 capFields)
  let r : Cmd := started 1 4 (item 0x42 (capFields ++ [(16, 8, 1023), (24, 8, 1)]))
  have w1 := c1 (inPhase 2 capEpochOf p) 1 4 p capEpochOf ⟨(by decide +kernel), (by decide +kernel)⟩ (by decide +kernel) (by decide +kernel) (by decide +kernel) (by decide +kernel) (by decide +kernel) -- nochk
  have w2 := c2 (inPhase 2 rowEpochOf r) 1 4 r rowEpochOf ⟨(by decide +kernel), (by decide +kernel)⟩ (by decide +kernel) (by decide +kernel) (by decide +kernel) (by decide +kernel) (by decide +kernel) (by decide +kernel) -- nochk
  have w3 := c3 (inPhase 2 rowEpochOf listed) 1 4 listed rowEpochOf ⟨(by decide +kernel), (by decide +kernel)⟩ (by decide +kernel) (by decide +kernel) (by decide +kernel) (by decide +kernel) (by decide +kernel) -- nochk
  have w4 := c4 noRoomRows 1 4 2 listed (by decide +kernel) (by decide +kernel) (by decide +kernel) (by decide +kernel) (noCtx_rooms _ _ _ (by decide +kernel) (by decide +kernel) (by decide +kernel)) -- nochk
  have w5 := c5 noRoomPlates 1 4 p (by decide +kernel) (by decide +kernel) (by decide +kernel) (noCtx_rooms _ _ _ (by decide +kernel) (by decide +kernel) (by decide +kernel)) -- nochk
  let gone : Epoch := { capEpochOf with phase := 6 }
  have w6 := (c6 (inPhase 6 capEpochOf { p with instead := some (0x10, 2) }) 1 4 { p with instead := some (0x10, 2) } gone (0x10, 2)
    (by decide +kernel) (by decide +kernel) (by decide +kernel) (by decide +kernel) (by decide +kernel)).1 ⟨(by decide +kernel), (by decide +kernel)⟩
  have w6b := (c6 (inPhase 6 rowEpochOf { r with instead := some (0x10, 2) }) 1 4 { r with instead := some (0x10, 2) }
    { rowEpochOf with phase := 6 } (0x10, 2) (by decide +kernel) (by decide +kernel) (by decide +kernel) (by decide +kernel) (by decide +kernel)).2 ⟨(by decide +kernel), (by decide +kernel)⟩
  have w7 := (c7 (inPhase 3 capEpochOf p) 1 4 p (by decide +kernel) (by decide +kernel)).1 (by decide +kernel) -- nochk
  have w7b := (c7 (inPhase 3 rowEpochOf r) 1 4 r (by decide +kernel) (by decide +kernel)).2 (by decide +kernel) -- nochk
  let ix : Ctx := { ctx with kind := 2, seq := 4, epoch := 1, entry := 1, linked := true, link := 1 }
  let reading := { inPhase 2 rowEpochOf listed with str.ctxs := [(0, ix), (1, { ix with kind := 3, link := 0 })] }
  have w8 := (c8 reading 0 ix listed rowEpochOf (some (toLE 8 5 ++ toLE 8 1024)) (by decide +kernel) (by decide +kernel) (by decide +kernel) (by decide +kernel)).1 (by decide +kernel) -- nochk
  have w8b := ((c8 reading 0 ix listed rowEpochOf (some (toLE 8 5 ++ toLE 8 1023)) (by decide +kernel) (by decide +kernel) (by decide +kernel) (by decide +kernel)).2 (by decide +kernel) (by decide +kernel)).2 (by decide +kernel)
  let long : Cmd := started 1 4 (fields 128 ((0, 1, 1) :: (1, 1, 0x42) :: (64, 1, 2) :: (80, 4, 513) :: capFields))
  have w8c := ((c8 { inPhase 2 rowEpochOf long with str.ctxs := reading.str.ctxs } 0 ix long rowEpochOf (some []) (by decide +kernel) (by decide +kernel) (by decide +kernel) (by decide +kernel)).2 (by decide +kernel) (by decide +kernel)).1 (by decide +kernel)
  let seal_ : Cmd := started 1 4 (item 0x43 [(8, 4, 1)])
  have w9 := c9 (inPhase 3 (epoch 1 3 headerEntry) seal_) 1 4 seal_ (epoch 1 3 headerEntry) { item := vaultItem }
    (vaultLay State.reset { item := vaultItem } headerEntry) (onEpoch 1 (fun y => { y with sealCmd := some (1, 4) })
      (onCmd 1 4 ranCmd (inPhase 3 (epoch 1 3 headerEntry) seal_))) ⟨(by decide +kernel), (by decide +kernel)⟩ (by constructor <;> decide +kernel) (by decide +kernel) (by decide +kernel) (by decide +kernel) (by decide +kernel) (by decide +kernel) (by decide +kernel) rfl (by decide +kernel) (by decide +kernel) -- nochk
  have w10 := c10 (inPhase 6 { epoch 1 6 headerEntry with why := (0x10, 2) } seal_) 1 4 seal_
    { epoch 1 6 headerEntry with why := (0x10, 2) } ⟨(by decide +kernel), (by decide +kernel)⟩ (by decide +kernel) (by decide +kernel) (by decide +kernel) (by decide +kernel)
  let sealedBy : Epoch := { epoch 1 5 headerEntry with sealCmd := some (1, 4), diverged := true }
  have w11 := (c11 (inPhase 5 sealedBy seal_) _ 1 4 seal_ sealedBy ⟨(by decide +kernel), (by decide +kernel)⟩ (by decide +kernel) (by decide +kernel) rfl).1 (by decide +kernel) (by decide +kernel)
  let told : Cmd := started 1 4 (item 0x43 [(8, 4, 1), (16, 8, 65536)])
  have w11b := (c11 (inPhase 5 sealedBy told) _ 1 4 told sealedBy ⟨(by decide +kernel), (by decide +kernel)⟩ (by decide +kernel) (by decide +kernel) rfl).2 (by decide +kernel)
  trivial

def restoreFields : List (Nat × Nat × Nat) := [(8, 4, 1), (12, 4, 1), (16, 4, 1), (32, 8, 65536), (40, 8, 4096)]
def restoreBuf : List (Nat × Nat × Nat) := (20, 2, 1) :: (22, 2, 3) :: (24, 4, 9) :: restoreFields

theorem meets_RestoreCommands (h : Obligations.RestoreCommands) : True := by
  obtain ⟨c1, c2, c3, c4, c5, c6⟩ := h
  let c : Cmd := started 1 1 (item2 0x44 ((64, 1, 2) :: restoreBuf))
  have w2 := c2 (withGrant 2 (withVault (withCmd c))) 1 1 c [] true ⟨(by decide +kernel), (by decide +kernel)⟩ (by decide +kernel) ⟨{ item := vaultItem }, (by decide +kernel)⟩ (by decide +kernel) (by decide +kernel)
  let d : Cmd := started 1 1 (item2 0x44 ((64, 1, 2) :: restoreFields))
  have w3 := c3 (withVault (withCmd d)) 1 1 d [] { item := vaultItem } ⟨3, 8, [], [], []⟩ ⟨(by decide +kernel), (by decide +kernel)⟩ (by decide +kernel) (by decide +kernel) (by decide +kernel) (by decide +kernel) (by decide +kernel)
  have w4 := (c4 (noCtx (withVault (withCmd d))) 1 1 d []).1 (by decide +kernel) (by decide +kernel) (noCtx_free _) -- nochk
  let g : Cmd := started 1 1 (item2 0x45 [(64, 1, 2), (8, 4, 1), (12, 4, 1), (16, 4, 1), (32, 8, 65536), (72, 8, 8), (80, 2, 64)])
  have w4b := (c4 (noCtx (withVault (withCmd g))) 1 1 g []).2 (by decide +kernel) (by decide +kernel) (by rw [noCtx_free]; decide +kernel) -- nochk
  let l : Link := ⟨⟨1, 1, 0, 0, 0, 1, ⟨0, 0, 0, 0⟩, 1, 0, [], [], [], [], [], []⟩, [], fields 4064 [(6, 1, 2), (10, 2, 64), (16, 8, 1024)]⟩
  have w6 := c6 (withCmd g) [] g l [] (by decide +kernel) (by decide +kernel) (by decide +kernel) -- nochk
  trivial

def digFields (src : Nat) : List (Nat × Nat × Nat) := [(8, 1, src), (9, 1, 255), (24, 8, 8), (32, 8, 65536)]

def region : Region :=
  { plan := 0, entry := 1, lastCut := 0, rows := 1024, rowSize := 64, cv := true, groups := [(0, groupOf (zeros 128))] }

/-- The rows of the table are tracked, and the group of row 0 is in the tracker with row 0 not stale. -/
def tracked (c : Cmd) : State :=
  { withRows (withCmd c) with cap.regions := [(131072, region)] }

def cvFields : List (Nat × Nat × Nat) := [(12, 4, 1), (24, 8, 1), (40, 8, 65536)]

theorem meets_CheckCommands (h : Obligations.CheckCommands) : True := by
  obtain ⟨c1, c2, c3, c4, c5, c6, c7, c8, c9, c10, c11, c12, c13, c14⟩ := h
  let a : Cmd := started 1 1 (item 0x46 (digFields 2))
  have w1 := c1 (withCmd a) 1 1 a ⟨(by decide +kernel), (by decide +kernel)⟩ (by constructor <;> decide +kernel) (by decide +kernel) (by decide +kernel) (by decide +kernel) -- nochk
  let v : Cmd := started 1 1 (item 0x46 [(8, 1, 0), (9, 1, 255), (12, 4, 1), (24, 8, 73728), (32, 8, 65536)])
  have w2 := c2 (withVault (withCmd v)) 1 1 v { item := vaultItem } ⟨(by decide +kernel), (by decide +kernel)⟩ (by constructor <;> decide +kernel) (by decide +kernel) (by decide +kernel) (by decide +kernel) (by decide +kernel) (by decide +kernel) -- nochk
  let d : Cmd := started 1 1 (item 0x46 [(8, 1, 1), (9, 1, 255), (10, 2, 3), (12, 4, 9), (24, 8, 4096), (32, 8, 65536)])
  let mine : Grant := { owner := 1, tdid := 0, base := 0x200000, len := 65536, gen := 9 }
  have w3 := c3 (withGrant 1 (withCmd d)) 1 1 d mine ⟨(by decide +kernel), (by decide +kernel)⟩ (by constructor <;> decide +kernel) (by decide +kernel) (by decide +kernel) (by decide +kernel) (by decide +kernel) (by decide +kernel) -- nochk
  let k : Ctx := { ctx with kind := 0, asm := [(0, (zeros 8, false))], remain := 4096, lo := 131072, cls := 5 }
  let k2 : Ctx := { ctx with kind := 1, lo := 131072, cursor := 65536, remain := 64, unit := 64, entry := 0 }
  let b : Blk := { id := 7, ctx := 0, kind := .raw 1, need := 4096, base := 65536, parts := [(0, zeros 4096)] }
  let s : State := { tracked a with str := { (tracked a).str with ctxs := [(0, k), (1, k2)], blocks := [b] } }
  have w4 := c4 s b 1 k (by decide +kernel)
  have w5 := c5 s b unitJob (by decide +kernel) (by decide +kernel)
  have w6 := (c6 s 0 k a (by decide +kernel)).1 (by decide +kernel)
  let bad : Cmd := started 1 1 (item 0x46 [(8, 1, 2), (9, 1, 63), (24, 8, 8), (32, 8, 65536)])
  have w6b := (c6 { s with ldg.cmds := [bad] } 0 k bad (by decide +kernel)).2 0 (by decide +kernel)
  have w7 := c7 (withCmd bad) 1 1 0 bad ⟨(by decide +kernel), (by decide +kernel)⟩ (by constructor <;> decide +kernel) (by decide +kernel) (by decide +kernel) (by decide +kernel)
  let far : Vault := { item := item 1 [(8, 4, 1), (12, 1, 1), (24, 8, 64), (32, 4, 9)] }
  have w8 := c8 { withCmd v with adm.vaults := [(1, far)] } 1 1 v far ⟨(by decide +kernel), (by decide +kernel)⟩ (by constructor <;> decide +kernel) (by decide +kernel) (by decide +kernel) (by decide +kernel) (by decide +kernel)
  have w9 := c9 (withGrant 2 (withCmd d)) 1 1 d true ⟨(by decide +kernel), (by decide +kernel)⟩ (by constructor <;> decide +kernel) (by decide +kernel) (by decide +kernel) (by decide +kernel)
  let f : Cmd := started 1 1 (item 0x47 cvFields)
  have w10 := c10 (tracked f) 1 1 f rowEntry ⟨(by decide +kernel), (by decide +kernel)⟩ (by decide +kernel) (by decide +kernel) -- nochk
  let e : Cmd := { started 1 1 (item 0x47 cvFields) with items := [(1, 1), (0, 0)], ran := true }
  have w11 := c11 { tracked e with str := { s.str with ctxs := [(0, k2)] } } { b with cv := some 5 } 0 k2 e (by decide +kernel) (by decide +kernel) (by decide +kernel) (by decide +kernel) -- nochk
  have w12 := c12 (tracked e) 0 k2 e (by decide +kernel)
  let g : Cmd := started 1 1 (item 0x47 [(12, 4, 1), (16, 8, 1024), (24, 8, 1), (40, 8, 65536)])
  have w13 := (c13 (tracked g) 1 1 16 g).2 (by decide +kernel) (by decide +kernel)
  let g2 : Cmd := started 1 1 (item 0x46 [(8, 1, 3), (9, 1, 255), (32, 8, 65536)])
  have w13b := (c13 (withCmd g2) 1 1 8 g2).1 (by decide +kernel) (by decide +kernel)
  have w14 := (c14 (noCtx (withCmd a)) 1 1 a (noCtx_free _)).1 (by decide +kernel) (by decide +kernel) -- nochk
  have w14b := (c14 (noCtx (tracked f)) 1 1 f (noCtx_free _)).2 (by decide +kernel) (by decide +kernel) -- nochk
  trivial

theorem meets_BarrierCancelFlush (h : Obligations.BarrierCancelFlush) : True := by
  obtain ⟨c1, c2, c3, c4, c5, c6, c7, c8⟩ := h
  let b : Cmd := started 1 2 (item 0x48 [(8, 2, 0xFFFF)])
  have w1 := c1 { withCmd b with ldg.cmds := [{ started 1 1 (item 0x48 []) with st := .durable }, b] } 1 2 b ⟨(by decide +kernel), (by decide +kernel)⟩ (by decide +kernel) (.inl (by decide +kernel))
  let b2 : Cmd := started 1 2 (item 0x48 [(8, 2, 0)])
  have w1b := c1 (withCmd b2) 1 2 b2 ⟨(by decide +kernel), (by decide +kernel)⟩ (by decide +kernel) (.inr ⟨queue, (by decide +kernel)⟩)
  have w2 := c2 { withCmd b with ldg.cmds := [started 1 1 (item 0x48 []), b] } 1 2 b (started 1 1 (item 0x48 [])) ⟨(by decide +kernel), (by decide +kernel)⟩ (by decide +kernel) (by decide +kernel) (by decide +kernel) (by decide +kernel) (by decide +kernel)
  let k : Cmd := started 2 1 (item 0x4A [(8, 2, 1), (16, 8, 1), (24, 8, 9)])
  have w3 := c3 (withCmd k) 2 1 k ⟨(by decide +kernel), (by decide +kernel)⟩ (by decide +kernel)
  let k1 : Cmd := started 2 1 (item 0x4A [(8, 2, 0xFFFF), (10, 1, 1), (12, 4, 1)])
  have w3b := c3 { inPhase 2 (epoch 1 2 planList) k1 with cap.capOf := 1 } 2 1 k1 ⟨(by decide +kernel), (by decide +kernel)⟩ (by decide +kernel)
  let t : Cmd := { started 1 9 (item 0x48 [(8, 2, 0xFFFF)]) with st := .accepted }
  let kt : Cmd := { k with items := [(1, 9)] }
  have w4 := c4 { withCmd kt with ldg.cmds := [t, kt] } 2 1 kt t ⟨(by decide +kernel), (by decide +kernel)⟩ (by decide +kernel) (by decide +kernel) (by decide +kernel) (by decide +kernel) (by decide +kernel) -- nochk
  let cap : Cmd := { started 1 4 (item 0x41 capFields) with ran := true, items := [(0, 1)] }
  have w5 := c5 { inPhase 2 capEpochOf cap with str.ctxs := [(0, { ctx with kind := 0, seq := 4, epoch := 1 })] } cap cap (by decide +kernel) (by decide +kernel) (by decide +kernel) (by decide +kernel)
  let done : Cmd := { k with ran := true, count := 1, items := [(1, 9)] }
  have w6 := (c6 (withCmd done) done (by decide +kernel) (by decide +kernel) (by decide +kernel) (by decide +kernel) (by decide +kernel)).1 (by decide +kernel)
  have w6b := (c6 { withCmd done with ldg.cmds := [t, done] } done (by decide +kernel) (by decide +kernel) (by decide +kernel) (by decide +kernel) (by decide +kernel)).2 (by decide +kernel)
  let f : Cmd := started 2 1 (item 0x4B [(8, 2, 1)])
  have w7 := c7 (withCmd f) 2 1 f queue [] (by decide +kernel) (by decide +kernel) (by decide +kernel) (by decide +kernel) (by decide +kernel) (by decide +kernel) (by decide +kernel) (by decide +kernel) (by decide +kernel) (by decide +kernel)
  have w8 := c8 (rings State.reset) queue [] (by decide +kernel) (by decide +kernel) (by decide +kernel) (by decide +kernel) (by decide +kernel) (by decide +kernel) (by decide +kernel) (by decide +kernel) (by decide +kernel) (by decide +kernel)
  trivial

theorem meets_FlushTargetRule (h : Obligations.FlushTargetRule) : True := by
  obtain ⟨c1, c2, c3, c4⟩ := h
  let f : Cmd := started 1 1 (item 0x4B [(8, 2, 1)])
  have w1 := c1 (withCmd f) 1 1 f [] (by decide +kernel) (by decide +kernel) (.inl (by decide +kernel)) -- nochk
  let g : Cmd := started 1 1 (item 0x4B [(8, 2, 7)])
  have w1b := c1 (withCmd g) 1 1 g [] (by decide +kernel) (by decide +kernel) (.inr (by decide +kernel)) -- nochk
  let k : Cmd := started 2 1 (item 0x4B [(8, 2, 1)])
  let x : Queue := { queue with state := .flushing, flushBy := some (0, 9) }
  have w2 := c2 { withCmd k with ring.queues := [(0, queue), (1, x), (2, queue)], ldg.cmds := [{ k with st := .accepted }] } 2 1
    { k with st := .accepted } x (by decide +kernel) (by decide +kernel) (by decide +kernel) (by decide +kernel) (by decide +kernel)
  have w3 := c3 { withCmd k with ring.queues := [(0, queue), (1, x), (2, queue)] } 2 1 k x (0, 9) [] (by decide +kernel) (by decide +kernel) (by decide +kernel) (by decide +kernel) (by decide +kernel)
  have w4 := c4 { withCmd k with ring.queues := [(0, queue), (1, queue), (2, queue)], ldg.cmds := [{ k with st := .accepted }] } 2 1
    { k with st := .accepted } (by decide +kernel) (by decide +kernel) (by decide +kernel) (by decide +kernel) (by decide +kernel) (all_of
      (by decide +kernel))
  trivial

end Sys2Proof.Tests
end

