-- ==== Sys2Proof/Tests/Witness4.lean ====
section
/-! SUPPORT. States and operands that meet the hypotheses of the statements (see Witness1). Responses, faults, the cut and
the filters. -/

set_option Elab.async false

set_option linter.all false
set_option maxRecDepth 8000

namespace Sys2Proof.Tests

open Sys2Proof.Machine

/-- One host-bridge request outstanding. -/
def hb (kind : HbKind) (write : Bool) (tries len : Nat) (data : Bytes) : HbReq :=
  { id := 3, kind, write, addr := 65536, tdid := 0, len, data, tries }

def withHb (r : HbReq) (s : State) : State := { s with out.hb := [r] }

/-- Queue 1 waits for the publication of its first slot, and reads it again. -/
def polling : Take := { start := 0, want := 0, slots := 1, reads := 1 }
def polled : Queue := { queue with takes := [polling], tail := 1, waitPub := some (0, 0) }

theorem meets_HostResponses (h : Obligations.HostResponses) : True := by
  obtain ⟨c1, c2, c3, c4, c5, c6, c7, c8, c9, c10, c11, c12⟩ := h
  let rd := hb (.vread 5 0) false 3 4096 []
  let s := withHb rd (rings State.reset)
  have w1 := (c1 s 3 2 [] [] rd (by decide +kernel) (by decide +kernel)).1 (by decide +kernel) (by decide +kernel)
  let held (s : State) : State := { s with regs := { s.regs with gasp := { s.regs.gasp with hold := true } } }
  let stopped (s : State) : State := { s with dbg.state := 2 }
  have w1b := (c1 (held s) 3 0 [] [] rd (by decide +kernel) (by decide +kernel)).2.1 (by decide +kernel)
  have w1c := (c1 (stopped s) 3 0 [] [] rd (by decide +kernel) (by decide +kernel)).2.2 (by decide +kernel) (by decide +kernel)
  let cq := hb (.cq 1 0) true 0 16 []
  let v := withHb cq (rings State.reset)
  have w2 := (c2 v 3 2 cq (by decide +kernel) (by decide +kernel) (by decide +kernel)).1 (by decide +kernel) (.inl (by decide +kernel))
  have w2b := (c2 (held v) 3 0 cq (by decide +kernel) (by decide +kernel) (by decide +kernel)).2.1 (by decide +kernel)
  have w2c := (c2 (stopped v) 3 0 cq (by decide +kernel) (by decide +kernel) (by decide +kernel)).2.2 (by decide +kernel) (by decide +kernel) (by decide +kernel)
  have w3 := (c3 (withHb { cq with granted := true } (rings State.reset)) { cq with granted := true }
    (fun s => hbWrite1 cq 0 s) (by decide +kernel)).1 (by decide +kernel)
  have w3b := (c3 v cq (fun s => hbWrite1 cq 0 s) (by decide +kernel)).2 { id := 3, cls := 1, ctx := none, fill := false } (by decide +kernel) rfl rfl (by decide +kernel) nofun
  have w4 := c4 v 1 [] cq (.inl rfl) (by decide +kernel)
  have w4b := c4 (withHb { rd with tries := 2 } State.reset) 2 [] { rd with tries := 2 } (.inr rfl) (by decide +kernel)
  let sl := hb (.slots 1 0 0) false 0 64 []
  have w5 := c5 (withQueueS polled (withHb sl (rings State.reset))) (item 0x48 []) sl 1 0 polled polling (0, 0)
    rfl (by decide +kernel) (by decide +kernel) (by decide +kernel) (by decide +kernel) (by decide +kernel) (by decide +kernel) (by decide +kernel) (by decide +kernel) -- nochk
  have w6 := (c6 s 2 [] rd (.inr rfl) (by decide +kernel)).1 5 0 rfl
  have w6b := (c6 s 1 [] { rd with kind := .ixPage 0 0 } (.inl rfl) (by decide +kernel)).2 0 0 rfl
  have w7 := (c7 s 0 (zeros 4096) rd (by decide +kernel) (by decide +kernel)).1 5 0 rfl
  have w7b := (c7 s 3 (zeros 4096) { rd with kind := .ixPage 0 0 } (by decide +kernel) (by decide +kernel)).2 0 0 rfl
  have w8 := c8 State.reset 3 0 [] [] (by decide +kernel)
  let mi := hb (.mirror 1 1 1 true) true 3 32 []
  have w9 := c9 (withHb mi State.reset) 3 1 mi (by decide +kernel) (by decide +kernel) (by decide +kernel) (by decide +kernel) (.inl rfl) (by decide +kernel) (by decide +kernel)
  have w10 := c10 (withHb (hb (.result 1 1 32) true 0 32 []) (workCmd 0x46 [])) (hb (.result 1 1 32) true 0 32 []) 1 1 32
    (started 1 1 (item 0x46 [])) rfl (by decide +kernel) (by decide +kernel) (.inr (by decide +kernel)) -- nochk
  let c : Cmd := { started 1 1 (item 0x48 []) with st := .accepted, mirrored := false }
  let ac := hb (.mirror 4 1 1 true) true 0 32 []
  have w11 := c11 (withHb ac (withCmd c)) ac 4 1 1 c queue rfl (by decide +kernel) (by decide +kernel) (by decide +kernel) (by decide +kernel) -- nochk
  have w12 := c12 State.reset 3 0 (by decide +kernel)
  trivial

def fab (kind : FabKind) (write : Bool) : FabReq := { id := 3, kind, port := 0, write, addr := 65536, len := 4096 }

def withFab (r : FabReq) (s : State) : State := { s with out.fab := [r] }

theorem meets_FabricResponses (h : Obligations.FabricResponses) : True := by
  obtain ⟨c1, c2, c3, c4, c5, c6, c7, c8, c9, c10, c11⟩ := h
  let rd := fab (.source 1 0) false
  let wr := fab (.dest 1 1) true
  have w1 := c1 (withFab rd State.reset) 3 2 (zeros 128) false rd (by decide +kernel) (by decide +kernel) (.inl (by decide +kernel)) (.inl (by decide +kernel))
  have w2 := c2 (withFab wr State.reset) 3 0 wr (by decide +kernel) (by decide +kernel) (.inl (by decide +kernel)) (.inl (by decide +kernel))
  have w3 := (c3 (withFab { rd with granted := true } State.reset) { rd with granted := true } (fun s => fabWrite1 wr 0 s) (by decide +kernel)).1 (by decide +kernel)
  have w3b := (c3 (withFab rd State.reset) rd (fun s => fabBeat 3 0 (zeros 128) false s) (by decide +kernel)).2
    { id := 3, cls := 4, ctx := none, fill := true } (by decide +kernel) rfl rfl (by decide +kernel) (by decide +kernel)
  have w4 := c4 (withFab rd State.reset) 3 2 (zeros 128) rd (by decide +kernel)
  have w5 := c5 (withFab rd State.reset) 3 (zeros 128) rd 1 0 (by decide +kernel) rfl rfl rfl
  have w6 := c6 (withFab rd State.reset) 3 (zeros 128) rd (by decide +kernel) (by decide +kernel) (by decide +kernel) (by decide +kernel)
  have w7 := c7 State.reset 3 0 [] true (by decide +kernel)
  have w8 := c8 (withFab wr State.reset) 0 wr (by decide +kernel) (by decide +kernel) (by decide +kernel) nofun nofun
  let gr := fab (.group 131072 2) true
  have w9 := (c9 { withFab gr State.reset with cap.regions := [(131072, regionOf)] } 0 131072 gr (by decide +kernel) (by decide +kernel)).1 2 rfl
  let hd := fab (.header 131072) true
  have w9b := (c9 { withFab hd State.reset with cap.regions := [(131072, regionOf)] } 0 131072 hd (by decide +kernel) (by decide +kernel)).2 rfl
  have w10 := c10 (withFab wr State.reset) wr (by decide +kernel)
  have w11 := c11 State.reset 3 0 (by decide +kernel)
  trivial

theorem meets_RetirementAndHold (h : Obligations.RetirementAndHold) : True := by
  obtain ⟨c1, c2, c3, c4⟩ := h
  have w1 := c1 { State.reset with cap.filters := [(0, {})] } 6 (by decide +kernel) (by decide +kernel) (.inr (.inr rfl)) -- nochk
  let u := fun (k ix c : Nat) => raise0 0x0A08 2 (k + ix * 2 ^ 8 + c * 2 ^ 16)
      (append 4 0 0xFFFF 0 (toLE 1 k ++ toLE 1 ix ++ toLE 1 c) true { State.reset with
        flt.retired := Tab.put State.reset.flt.retired (32 * k + ix) c
        flt.charged := Tab.del State.reset.flt.charged (32 * k + ix) })
  obtain ⟨w2, d4, -, -, -, -, -, -, -⟩ := c2 State.reset (u 6 1 1) 6 1 1 (by decide +kernel) (by decide +kernel) (by decide +kernel) (by decide +kernel) (by decide +kernel) rfl
  have w3 := d4 (by decide +kernel) (by decide +kernel)
  obtain ⟨-, -, d2, -, -, -, -, -, -⟩ := c2 State.reset (u 2 31 1) 2 31 1 (by decide +kernel) (by decide +kernel) (by decide +kernel) (by decide +kernel) (by decide +kernel) rfl
  have w4 := d2 rfl
  obtain ⟨-, -, -, d3, -, -, -, -, -⟩ := c2 State.reset (u 3 31 1) 3 31 1 (by decide +kernel) (by decide +kernel) (by decide +kernel) (by decide +kernel) (by decide +kernel) rfl
  have w5 := d3 rfl
  obtain ⟨-, -, -, -, d0, -, -, -, -⟩ := c2 State.reset (u 0 15 1) 0 15 1 (by decide +kernel) (by decide +kernel) (by decide +kernel) (by decide +kernel) (by decide +kernel) rfl
  have w6 := d0 rfl (by decide +kernel)
  obtain ⟨-, -, -, -, -, d1, -, -, -⟩ := c2 State.reset (u 1 3 2) 1 3 2 (by decide +kernel) (by decide +kernel) (by decide +kernel) (by decide +kernel) (by decide +kernel) rfl
  have w7 := d1 rfl
  obtain ⟨-, -, -, -, -, -, d7, -, -⟩ := c2 State.reset (u 7 1 3) 7 1 3 (by decide +kernel) (by decide +kernel) (by decide +kernel) (by decide +kernel) (by decide +kernel) rfl
  have w8 := d7 rfl
  obtain ⟨-, -, -, -, -, -, -, d8, -⟩ := c2 State.reset (u 8 7 1) 8 7 1 (by decide +kernel) (by decide +kernel) (by decide +kernel) (by decide +kernel) (by decide +kernel) rfl
  have w9 := d8 rfl
  obtain ⟨-, -, -, -, -, -, -, -, d9⟩ := c2 State.reset (u 9 1 1) 9 1 1 (by decide +kernel) (by decide +kernel) (by decide +kernel) (by decide +kernel) (by decide +kernel) rfl
  have w10 := d9 rfl
  have w11 := c3 State.reset true 3 (by decide +kernel) (by decide +kernel) (by decide +kernel) (by decide +kernel) (by decide +kernel)
  have w12 := c4 { State.reset with flt.retired := [(288, 1)] } true 1 (by decide +kernel) (by decide +kernel) (by decide +kernel) (by decide +kernel) (by decide +kernel)
  trivial

/-- A corruption of one bit of a store's lane 0. -/
def oneBit (store : Nat) : Nat × W64 × Byte := (store * 2 ^ 32, 1, 0)

theorem meets_ErrorsAndScans (h : Obligations.ErrorsAndScans) : True := by
  obtain ⟨c1, c2, c3, c4, c5, c6, c7⟩ := h
  let u := fun (s : State) (site : EccSite) =>
    raise0 0x0A07 2 ((siteLane s site).1 + 2 ^ 8 * ((siteLane s site).2 % 2 ^ 24)) { s with
      regs.eccUe := min 0xFFFFFFFF (s.regs.eccUe + 1)
      regs.eccLast := BitVec.ofNat 32 ((siteLane s site).1 + 32 + 2 ^ 8 * ((siteLane s site).2 % 2 ^ 24))
      flt.flipped := s.flt.flipped.filter fun x => x.1 != (siteLane s site).1 * 2 ^ 32 + (siteLane s site).2 }
  obtain ⟨w1, d1, -, -, -, -, -⟩ := c1 (keyed State.reset) (u (keyed State.reset) (.key 1)) (.key 1) (by decide +kernel) rfl
  have w2 := d1 1 rfl
  obtain ⟨-, -, d2, -, -, -, -⟩ := c1 State.reset (u State.reset (.recipe 63)) (.recipe 63) (by decide +kernel) rfl
  have w3 := d2 63 rfl
  obtain ⟨-, -, -, d3, -, -, -⟩ := c1 State.reset (u State.reset (.seqFetch 8 true)) (.seqFetch 8 true) (by decide +kernel) rfl
  have w4 := d3 8 rfl
  obtain ⟨-, -, -, -, d4, -, -⟩ := c1 State.reset (u State.reset (.seqFetch 8 false)) (.seqFetch 8 false) (by decide +kernel) rfl
  have w5 := d4 8 rfl (by decide +kernel)
  obtain ⟨-, -, -, -, -, d5, -⟩ := c1 State.reset (u State.reset (.ledger true 0 true false)) (.ledger true 0 true false) (by decide +kernel) rfl
  have w6 := d5 true 0 rfl
  obtain ⟨-, -, -, -, -, -, d6⟩ := c1 State.reset (u State.reset (.bank true 70)) (.bank true 70) (by decide +kernel) rfl
  have w7 := d6 70 rfl (by decide +kernel) (by decide +kernel)
  have w8 := c2 State.reset (by decide +kernel) (by decide +kernel) (by decide +kernel) (by decide +kernel)
  have w9 := c3 State.reset (by decide +kernel) (by decide +kernel) (by decide +kernel) (by decide +kernel)
  have w10 := c4 { State.reset with str.ctxs := [(0, ctx)], flt.flipped := [oneBit 2] } (oneBit 2) (by decide +kernel) (by decide +kernel) (by decide +kernel) (by decide +kernel) (by decide +kernel) -- nochk
  have w11 := c5 { State.reset with flt.flipped := [oneBit 5] } (oneBit 5) (by decide +kernel) (by decide +kernel) (by decide +kernel) (by decide +kernel) (by decide +kernel) -- nochk
  have w12 := (c6 { State.reset with flt.merge := [⟨7, 3, 0xFFFFFFFF, 0⟩] } 7 3 0xFFFFFFFF00000000 (by decide +kernel)).1 (by decide +kernel)
  have w13 := (c6 State.reset 7 3 0xFF (by decide +kernel)).2 (by decide +kernel) (by decide +kernel) (by decide +kernel)
  have w14 := c7 { State.reset with flt.merge := [⟨7, 3, 0xFF, 0⟩], flt.flipped := [(7 * 2 ^ 32 + 3, 3, 0)] } ⟨7, 3, 0xFF, 0⟩
    (7 * 2 ^ 32 + 3, 3, 0) (by decide +kernel) (by decide +kernel) (by decide +kernel)
  trivial

/-- A cut of epoch 1 with the chains given. -/
def inCut (st : CutState) (chains : Tab Chain) : State :=
  { windows (withVault (rings State.reset)) with cap := { State.reset.cap with
      epochs := [(1, epoch 1 1 planList)], cut := { st, epoch := 1, chains } } }

theorem meets_CutHoldsAndArm (h : Obligations.CutHoldsAndArm) : True := by
  obtain ⟨c1, c2, c3, c4, c5, c6, c7, c8⟩ := h
  have w1 := c1 (inCut .prep [(3, {})]) (epoch 1 1 planList) (by decide +kernel) (by decide +kernel) (by decide +kernel) (by decide +kernel)
  have w2 := c2 (inCut .prep []) (epoch 1 1 planList) (by decide +kernel) (by decide +kernel) (by decide +kernel) (by decide +kernel)
  have w3 := c3 (inCut .holdReq [(0, {}), (63, {})]) 63 {} (by decide +kernel) (by decide +kernel) (by decide +kernel) (by decide +kernel)
      (by decide +kernel) ⟨(0, {}), by decide +kernel⟩
  have w4 := c4 (inCut .holdReq [(63, {})]) 63 {} (epoch 1 1 planList) (by decide +kernel) (by decide +kernel) (by decide +kernel)
      (by decide +kernel) (by decide +kernel) (by decide +kernel)
  have w5 := c5 (inCut .holdReq [(63, { ack := true })]) 63 { ack := true } (by decide +kernel) (by decide +kernel) (by decide +kernel)
      (by decide +kernel)
  have w6 := c6 (inCut .holdReq [(63, {})]) 63 {} (by decide +kernel) (by decide +kernel) (by decide +kernel) (by decide +kernel)
      (by decide +kernel) (by decide +kernel)
  have w7 := c7 (inCut .holdReq [(63, { slow := true })]) 63 { slow := true } (by decide +kernel) (by decide +kernel) (by decide +kernel)
  have w8 := c8 (inCut .holdReq [(63, { ack := true })]) (epoch 1 1 planList) (by decide +kernel) -- nochk
  trivial

theorem meets_PrepKeepsUnsealedPlates (h : Obligations.PrepKeepsUnsealedPlates) : True := by
  obtain ⟨-, -, d1, -⟩ := h { State.reset with cap := { State.reset.cap with
    bank0 := [(0, 4)], bank1 := [(2, 9)], capOf := 1, epochs := [(1, epoch 1 3 planList)] } } (by decide +kernel) (by decide +kernel)
  have w1 := d1 (by decide +kernel) (all_of (by decide +kernel)) -- nochk
  obtain ⟨-, -, -, d2⟩ := h { State.reset with cap := { State.reset.cap with
    bank0 := [(0, 4)], bank1 := [(2, 9)], capOf := 1, epochs := [(1, epoch 1 5 planList)] } } (by decide +kernel) (by decide +kernel)
  have w2 := d2 (.inr ⟨epoch 1 5 planList, by decide +kernel, rfl⟩)
  trivial

/-- The chains of HARVEST with their lengths in beats. -/
def harvesting (chains : Tab Chain) : State := { inCut .harvest chains with pins.hvLen := [(0, 2), (3, 3)] }
def pushing (chains : Tab Chain) : State :=
  { withCmd (started 1 1 (item 0x49 [])) with cap.cut := { st := .push, chains, owner := some (1, 1) } }

theorem meets_Harvest (h : Obligations.Harvest) : True := by
  obtain ⟨c1, c2, c3, c4, c5, c6, c7⟩ := h
  have w1 := c1 (harvesting [(0, {}), (3, { beats := [zeros 32] })]) 3 (zeros 32) { beats := [zeros 32] } (by decide +kernel) (by decide +kernel) (by decide +kernel) (by decide +kernel) (by decide +kernel) -- nochk
  have w2 := c2 (harvesting [(0, { beats := [zeros 32] }), (3, {})]) 0 (toLE 4 (crcN (zeros 32)) ++ zeros 28) { beats := [zeros 32] }
      (by decide +kernel) (by decide +kernel) (by decide +kernel) (by decide +kernel) (by decide +kernel) (by decide +kernel)
  have w3 := c3 (harvesting [(0, { beats := [zeros 32], pulls := 1 }), (3, {})]) 0 (zeros 32) { beats := [zeros 32], pulls := 1 } (by decide +kernel) (by decide +kernel) (by decide +kernel) (by decide +kernel) (by decide +kernel) (by decide +kernel) (by decide +kernel) -- nochk
  have w4 := c4 (pushing [(0, {}), (3, {})]) 3 {} 1 1 (by decide +kernel) (by decide +kernel) (by decide +kernel) (by decide +kernel)
      (by decide +kernel) ⟨(0, {}), by decide +kernel⟩
  have w5 := c5 (pushing [(3, {})]) 3 {} 1 1 (by decide +kernel) (by decide +kernel) (by decide +kernel) (by decide +kernel) (by decide +kernel)
  have w6 := c6 (pushing [(3, {})]) 3 {} 1 1 (by decide +kernel) (by decide +kernel) (by decide +kernel) (by decide +kernel) (by decide +kernel)
  have w7 := c7 State.reset 0 (by decide +kernel)
  trivial

/-- Filter 0 with the segment of entry 1 (plate 1), the epoch capturing in full, no plate written yet. -/
def filtering (e : Epoch) (f : Filter) : State :=
  { windows (withVault (rings State.reset)) with cap := { State.reset.cap with
      epochs := [(1, e)], filters := [(0, f)], bank0 := [], bank1 := [(0, 16)], capOf := 1 } }

def filter0 : Filter := { segs := [{ entry := 1, lo := 1, hi := 2, cursor := 1 }] }
def inj0 : Inj := { tag := 0, addr := 65536, len := 4096, port := 0, id := 5 }
def pass0 : Passant := { filter := 0, epoch := 1, entry := 1, item := 1, row := false, units := 16, toAccept := 16, toReturn := 16 }
def src0 : Blk := { id := 0, ctx := 7, kind := .enc 1 1 0, need := 65536 }

theorem meets_FilterRows (h : Obligations.FilterRows) : True := by
  obtain ⟨c1, c2, c3, c4, c5, c6, c7, c8, c9, c10, c11, c12⟩ := h
  have w1 := c1 (filtering (epoch 1 2 planList) filter0) 0 9 131072 64 (epoch 1 2 planList) (by decide +kernel) (by decide +kernel)
      (by decide +kernel) (by decide +kernel) (by decide +kernel) (by decide +kernel) (by decide +kernel) (by decide +kernel)
  have w2 := c2 (filtering (epoch 1 2 planList) filter0) 0 9 65536 64 (epoch 1 2 planList) (by decide +kernel) (by decide +kernel)
      (by decide +kernel) (by decide +kernel) (by decide +kernel) (.inl (by decide +kernel))
  have w3 := c3 State.reset 0 9 65536 64 (by decide +kernel)
  have w4 := c4 (filtering (epoch 1 2 planList) filter0) 0 65535 131071 (zeros 2) (by decide +kernel) (by decide +kernel) (by decide +kernel) (by decide +kernel) (by decide +kernel) (by decide +kernel) (by decide +kernel) (by decide +kernel) -- nochk
  have w5 := c5 { State.reset with flt.retired := [(256, 1)] } 0 9 65536 [] (by decide +kernel)
  have w6 := c6 { filtering (epoch 1 2 planList) { filter0 with inj := [inj0, inj0] } with cap.passants := [(0, pass0)] } 0 inj0
    [inj0] { filter0 with inj := [inj0, inj0] } pass0 (by decide +kernel) (by decide +kernel) (by decide +kernel) (by decide +kernel)
      (by decide +kernel) (by decide +kernel)
  have w7 := c7 State.reset 0 (by decide +kernel)
  let s := filtering (epoch 1 2 planList) filter0
  let f : FabReq := { id := 5, kind := .source 0 0, port := 0, write := false, addr := 65536, len := 4096, granted := true }
  let t : State := { s with
    out.fab := [f]
    str.blocks := [src0]
    str.ctxs := [(7, ctx)] }
  have w8 := c8 t 0 65536 4096 7 f 0 0 src0 (by decide +kernel) rfl rfl rfl rfl rfl rfl rfl (by decide +kernel) (by decide +kernel) (by decide +kernel) (by decide +kernel)
  let g : FabReq := { id := 5, kind := .group 131072 2, port := 0, write := false, addr := 135168, len := 128, granted := true }
  have w9 := c9 { withFab g State.reset with cap.regions := [(131072, regionOf)] } 1 2 131072 (zeros 128) g (by decide +kernel) (by decide +kernel) (by decide +kernel) (by decide +kernel) (by decide +kernel)
  have w10 := c10 { State.reset with cap.regions := [(131072, regionOf)] } 2 131072 (zeros 128) regionOf (by decide +kernel) (by decide +kernel) (by decide +kernel) -- nochk
  let x : Group := { d := 3, w := 2, done := 1, stale := 4, gepoch := 1 }
  let r : Region := { regionOf with isOpen := true, lastCut := 2, groups := [(2, x)] }
  have w11 := c11 { filtering (epoch 1 2 planList) filter0 with cap.regions := [(131072, r)] } 131072 2 1 r x (by decide +kernel) (by decide +kernel) (by decide +kernel) (by decide +kernel)
  have w12 := c12 State.reset 1 2 [] (by decide +kernel)
  trivial

end Sys2Proof.Tests
end

