-- ==== Sys2Proof/Tests/Witness5.lean ====
section
/-! SUPPORT. States and operands that meet the hypotheses of the statements (see Witness1). Streams, sealing and links. -/

set_option Elab.async false

set_option linter.all false
set_option maxRecDepth 8000

namespace Sys2Proof.Tests

open Sys2Proof.Machine

/-- Epoch 1 in CAPTURING or later, with one context and some blocks of it. -/
def streaming (e : Epoch) (c : Ctx) (bs : List Blk) : State :=
  keyed { windows (withVault (rings State.reset)) with
    cap := { State.reset.cap with epochs := [(1, e)], bank0 := [], bank1 := [(0, 16)], capOf := 1 }
    str := { State.reset.str with ctxs := [(7, c)], blocks := bs } }

def encCtx : Ctx := { state := 2, kind := 0, cls := 2, epoch := 1, entry := 1, q := 1, slot := 0, seq := 1 }
def copying1 : Epoch := { epoch 1 2 planList with order := [⟨1, 0, 1⟩] }
def job0 : Job :=
  { ctx := 7, vault := 1, epoch := 1, stream := 1, block := 0, first := 20, count := 1, off := 0, elen := 8, want := 8, full := 8,
    codec := 0, fmt := 0, dest := [(0, 8, 65536, 0)] }
def row8 : Bytes := fields 64 [(0, 1, 1), (8, 8, 65536), (16, 8, 65536), (24, 4, 1)]
def encBlk : Blk := { id := 0, ctx := 7, kind := .enc 1 1 0, need := 8, parts := [(0, zeros 8)], base := 65536, issued := 8, passed := 8, lane := some 31 }
def decBlk : Blk := { id := 0, ctx := 7, kind := .dec job0, need := 8, parts := [(0, zeros 8)], issued := 8, passed := 8, lane := some 31 }

theorem meets_StreamsAndLanes (h : Obligations.StreamsAndLanes) : True := by
  obtain ⟨c1, c2, c3, c4, c5, c6, c7, c8, c9, c10⟩ := h
  let on := fun (m : Nat) => onCtx 7 (fun y => { y with mover := some m })
  have w1 := c1 (streaming copying1 encCtx []) (on 31 (streaming copying1 encCtx [])) 31 7 encCtx copying1 0 [] (by decide +kernel) (by decide +kernel) (by decide +kernel) (by decide +kernel) (.inl rfl)
    (by decide +kernel) rfl (by decide +kernel) rfl (by decide +kernel) (by decide +kernel) (by decide +kernel) (by decide +kernel) (by decide +kernel) (.inl (by decide +kernel)) (by decide +kernel) (by decide +kernel)
  let t : State := streaming copying1 { ctx with kind := 3, unit := 1024 } []
  have w2 := c2 { t with str.jobs := [job0] } (on 0 { t with str.jobs := [job0] }) 0 7 { ctx with kind := 3, unit := 1024 } job0 (by decide +kernel) (by decide +kernel) (by decide +kernel) (by decide +kernel) (.inl rfl)
    (by decide +kernel) (.inl rfl) (by decide +kernel) rfl (by decide +kernel) (by decide +kernel) (by decide +kernel) (by decide +kernel) (by decide +kernel)
  let dig : Cmd := started 1 1 (item 0x46 [(8, 1, 2), (16, 8, 65536), (24, 8, 8192), (32, 8, 131072)])
  let k : Ctx := { ctx with kind := 0, cls := 5, cursor := 65536, remain := 8192 }
  let g : State := { streaming copying1 k [] with ldg := (withCmd dig).ldg }
  have w3 := c3 g (on 0 g) 0 7 k dig (by decide +kernel) (by decide +kernel) (by decide +kernel) (by decide +kernel) (.inl rfl) (by decide +kernel) rfl (by decide +kernel) rfl (by decide +kernel) (by decide +kernel) (by decide +kernel) (by decide +kernel)
  let part : Blk := { encBlk with need := 8192, base := 69000, issued := 0, parts := [] }
  let u := streaming copying1 encCtx [part]
  let busy : FabReq := { id := 5, kind := .source 0 0, port := 0, write := false, addr := 65536, len := 4096, mover := some 31 }
  have w4 := (c4 u 1 0 31 4 part (by decide +kernel) (by decide +kernel)).2 (by decide +kernel)
  have w4b := (c4 { u with out.fab := List.replicate 16 busy } 1 0 31 4 part (by decide +kernel) (by decide +kernel)).1 (by decide +kernel)
  have w5 := c5 (rings State.reset) 32 7 (.inl (by decide +kernel))
  have w5b := c5 (streaming copying1 { encCtx with state := 1 } []) 0 7 (.inr (.inr (.inr ⟨{ encCtx with state := 1 }, (by decide +kernel), .inl (by decide +kernel)⟩)))
  have w5c := c5 (streaming copying1 { encCtx with mover := some 3 } []) 0 7 (.inr (.inr (.inr ⟨{ encCtx with mover := some 3 }, (by decide +kernel), .inr (by decide +kernel)⟩)))
  have w6 := c6 (streaming copying1 { ctx with cls := 4 } [encBlk]) (by decide +kernel) -- nochk
  have w7 := c7 (streaming copying1 encCtx [encBlk]) 31 1 1 0 true { id := 0, cls := 2, ctx := some 7, fill := false } encBlk copying1
    (by decide +kernel) (by decide +kernel) (by decide +kernel) (by constructor <;> decide +kernel) (by decide +kernel) rfl (by decide +kernel) (by intro h; exact absurd h (by decide +kernel))
  have w8 := c8 (streaming copying1 encCtx [encBlk]) 31 1 1 0 encBlk copying1 (by decide +kernel) (by decide +kernel)
  have w9 := c9 (streaming copying1 ctx [decBlk]) 31 true { id := 0, cls := 4, ctx := some 7, fill := false } decBlk job0
    (by decide +kernel) (by decide +kernel) (by decide +kernel) (by constructor <;> decide +kernel) (by decide +kernel) rfl (by intro h; exact absurd h (by decide +kernel))
  have w10 := c10 (rings State.reset) 32 true (.inl (by decide +kernel))
  have w10b := c10 (rings State.reset) 3 true (.inr (by decide +kernel))
  trivial

/-- A payload of the seal list of an epoch, and one of an entry's data. -/
def sealJob (entry kind : Nat) : SealJob := { epoch := 1, entry, kind, isector := 1, payload := zeros 4064 }
def unitOfSeal (s : State) (j : SealJob) : State := { s with pun.jobs := [j] }

theorem meets_Sealing (h : Obligations.Sealing) : True := by
  obtain ⟨c1, c2, c3, c4, c5, c6⟩ := h
  let v : Vault := { item := vaultItem }
  let e := epoch 1 3 planList
  let s := streaming e ctx []
  have w1 := (c1 (unitOfSeal s (sealJob 1 2)) (sealJob 1 2) [] e v (vaultLay State.reset v planList) (by decide +kernel) (by constructor <;> decide +kernel) (by decide +kernel) (by decide +kernel) (by decide +kernel) (by decide +kernel) (by decide +kernel)).1 (by decide +kernel) (.inl (by decide +kernel)) -- nochk
  have w1b := (c1 (unitOfSeal s (sealJob (sealMark 0) 5)) (sealJob (sealMark 0) 5) [] e v (vaultLay State.reset v planList)
    (by decide +kernel) (by constructor <;> decide +kernel) (by decide +kernel) (by decide +kernel) (by decide +kernel) (by decide +kernel) (by decide +kernel)).2.1 rfl -- nochk
  let two := fields 64 [(4, 4, 1), (8, 1, 1), (9, 1, 1), (12, 4, 2)] ++ fields 64 [(0, 1, 1), (4, 2, 4), (8, 8, 65536), (16, 8, 65536), (24, 4, 1)]
  let e2 := epoch 1 3 two
  let full : State := { unitOfSeal (streaming e2 ctx []) (sealJob 1 2) with regs.shadow.applied := [(0x414, 0)] }
  have w1c := (c1 full (sealJob 1 2) [] e2 v (vaultLay State.reset v two) (by decide +kernel) (by constructor <;> decide +kernel) (by decide +kernel) (by decide +kernel) (by decide +kernel) (by decide +kernel) (by decide +kernel)).2.2 (by decide +kernel) (by decide +kernel) (by decide +kernel) rfl
  have w2 := c2 s e v { sealJob (sealMark 0) 5 with isector := 0 } 40 (zeros 4096) rfl rfl
  have w3 := c3 (unitOfSeal s (sealJob 1 2)) (sealJob 1 2) [] 6 19 (by decide +kernel) (by decide +kernel) (.inr (.inr rfl)) (by decide +kernel) (by decide +kernel) (by decide +kernel) -- nochk
  have w4 := c4 { unitOfSeal s (sealJob 1 2) with adm := { (withVault State.reset).adm with keys := [] } }
    (sealJob 1 2) [] e v (vaultLay State.reset v planList) 0 (by decide +kernel) (by constructor <;> decide +kernel) (by decide +kernel) (by decide +kernel) (by decide +kernel) (by decide +kernel)
  let f : Epoch := { epoch 1 4 headerEntry with sealedHdr := zeros 4096, header := zeros 4064 }
  have w5 := c5 (streaming f ctx []) 1 f v (vaultLay State.reset v headerEntry) (by decide +kernel) (by decide +kernel) (by decide +kernel) (by decide +kernel) (by decide +kernel) (by decide +kernel) (by decide +kernel) (by decide +kernel) (by decide +kernel) (by decide +kernel)
  have w6 := c6 (streaming (epoch 1 3 headerEntry) ctx []) 1 (epoch 1 3 headerEntry) (by decide +kernel) (.inl (by decide +kernel))
  have w6b := c6 (streaming (epoch 1 4 headerEntry) ctx []) 1 (epoch 1 4 headerEntry) (by decide +kernel) (.inr (.inr (.inl rfl)))
  trivial

/-- Port 0 as given, of device 5 with buddy 7. -/
def onLink (x : Port) : State := { linked (rings State.reset) with spl.ports := [(0, x)] }

def locked (n : Nat) : Tab RxLane := (List.range n).map fun l => (l, { lock := true })
def alignBlock (l dev cnt : Nat) : Bytes := ctlBlock ([2] ++ toLE 1 l ++ [15, 0] ++ toLE 4 dev ++ toLE 4 cnt ++ zeros 16)
/-- Three lanes aligned on a device at count 9, the last one to come. -/
def nearly (dev : Nat) : Tab RxLane :=
  [(0, { lock := true, align := some (0, dev, 9), good := 2 }), (1, { lock := true, align := some (1, dev, 9), good := 2 }),
   (2, { lock := true, align := some (2, dev, 9), good := 2 }), (3, { lock := true, align := some (3, dev, 8), good := 1 })]

theorem meets_LinkTraining (h : Obligations.LinkTraining) : True := by
  obtain ⟨c1, c2, c3, c4, c5, c6, c7, c8⟩ := h
  have w1 := c1 (onLink { state := 1 }) 0 { state := 1 } [3] (by decide +kernel) (by decide +kernel) (by decide +kernel) (by intro l _ o ho; cases ho) ⟨0, (by decide +kernel)⟩ -- nochk
  have w2 := c2 State.reset 0 [] (by intro x hx; cases hx)
  have w3 := c3 (onLink { state := 2, lanes := locked 3 }) 0 3 { state := 2, lanes := locked 3 } (by decide +kernel) (by decide +kernel) (by decide +kernel) (by decide +kernel) (by decide +kernel) -- nochk
  obtain ⟨t, -, -, -, y, -, -, -, d1, d2⟩ := w3
  have w3a := d1 rfl (by intro k hk hne _; fin_cases hk <;> first | exact absurd rfl hne | exact ⟨{ lock := true }, rfl, rfl⟩) -- nochk
  obtain ⟨t, -, -, -, y, -, -, -, d1, d2⟩ := c3 (onLink { state := 2 }) 0 3 { state := 2 } (by decide +kernel) (by decide +kernel) (by decide +kernel) (by decide +kernel) (by decide +kernel)
  have w3b := d2 rfl ⟨0, (by decide +kernel), (by decide +kernel), (by decide +kernel), by intro o ho; cases ho⟩ -- nochk
  let up4 : Port := { state := 5, lanes := locked 4, lost := [(3, 0)] }
  have w4 := c4 (onLink up4) 0 3 up4 { lock := true } (by decide +kernel) (by decide +kernel) (by decide +kernel) (by decide +kernel) (by decide +kernel) (by decide +kernel) (by decide +kernel) (by intro a ha; cases ha) (by decide +kernel) -- nochk
  let worn : Port := { state := 5, lanes := locked 4, lost := List.replicate 62 (3, 0) }
  have w5 := c5 (onLink worn) 0 3 worn { lock := true } (by decide +kernel) (by decide +kernel) (by decide +kernel) (by decide +kernel) (by decide +kernel) (by decide +kernel) (by decide +kernel) (by intro a ha; cases ha) (by decide +kernel) -- nochk
  have w6 := c6 (onLink { state := 5, newMask := 7 }) 0 { state := 5, newMask := 7 } (by decide +kernel) (by decide +kernel) (by decide +kernel) (by decide +kernel) -- nochk
  obtain ⟨d1, -, -⟩ := c7 (onLink { state := 5, lanes := locked 4 }) 0 3
      (alignBlock 3 7 9) { state := 5, lanes := locked 4 } { lock := true } (by decide +kernel) (by decide +kernel) (by decide +kernel) (by decide +kernel) (by decide +kernel) (by decide +kernel) (by decide +kernel)
  have w7 := d1 (.inl rfl)
  obtain ⟨-, d2, -⟩ := c7 (onLink { state := 3, lanes := nearly 7 }) 0 3 (alignBlock 3 7 9) { state := 3, lanes := nearly 7 }
    { lock := true, align := some (3, 7, 8), good := 1 } (by decide +kernel) (by decide +kernel) (by decide +kernel) (by decide +kernel) (by decide +kernel) (by decide +kernel) (by decide +kernel)
  have w8 := d2 rfl (by decide +kernel) (by decide +kernel) (by decide +kernel)
  obtain ⟨-, -, d3⟩ := c7 (onLink { state := 3, lanes := nearly 5 }) 0 3 (alignBlock 3 5 9) { state := 3, lanes := nearly 5 }
    { lock := true, align := some (3, 5, 8), good := 1 } (by decide +kernel) (by decide +kernel) (by decide +kernel) (by decide +kernel) (by decide +kernel) (by decide +kernel) (by decide +kernel)
  have w9 := d3 rfl (by decide +kernel) (.inl (by decide +kernel)) -- nochk
  have w10 := c8 State.reset 0 0 (zeros 32) (by decide +kernel)
  trivial

def linitBlock (type dev : Nat) : Bytes := ctlBlock (toLE 1 type ++ [7, 0, 0] ++ toLE 4 dev ++ zeros 20)

theorem meets_LinkInitialization (h : Obligations.LinkInitialization) : True := by
  obtain ⟨c1, c2, c3, c4, c5, c6, c7⟩ := h
  have w1 := c1 (onLink { state := 4, partner := 7 }) 0 { state := 4, partner := 7 } (by decide +kernel) (by decide +kernel) (by decide +kernel) (by decide +kernel)
  have w2 := c2 State.reset 0 (by intro x hx; cases hx)
  have w3 := c3 (onLink { state := 4, partner := 3 }) 0 (linitBlock 0x30 3) { state := 4, partner := 3 } (by decide +kernel) (by decide +kernel) (by decide +kernel) (by decide +kernel) (by decide +kernel) (by decide +kernel) (by decide +kernel)
  have w4 := c4 (onLink { state := 4, partner := 7 }) 0 (linitBlock 0x31 7) { state := 4, partner := 7 } (by decide +kernel) (by decide +kernel) (by decide +kernel) (by decide +kernel) (by decide +kernel) (by decide +kernel)
  let x : Port := { state := 4, unacked := [{ vc := 0, msg := zeros 64, fseq := 4 }], queued := [{ vc := 1, msg := zeros 64 }] }
  have w5 := c5 { onLink x with adm := State.reset.adm } 0 x (by decide +kernel) (by decide +kernel) -- nochk
  have w6 := c6 State.reset 0 (zeros 32) (by decide +kernel)
  have w7 := c7 State.reset 0 (zeros 32) (by decide +kernel)
  trivial

/-- A message of a type in one frame, with its length, source, generation and count. -/
def msg (type len : Nat) (l : List (Nat × Nat × Nat)) : Bytes :=
  fields len ((0, 1, type) :: (4, 4, 7) :: (8, 4, 5) :: (24, 4, len) :: l)

def frameBlock (n seq crc : Nat) : Bytes := ctlBlock ([0x10, 0] ++ toLE 2 n ++ toLE 4 seq ++ toLE 4 crc ++ zeros 20)
def tx (seq sends : Nat) : TxFrame := { vc := 0, msg := msg 1 64 [], fseq := seq, sends }

theorem meets_Frames (h : Obligations.Frames) : True := by
  obtain ⟨c1, c2, c3, c4, c5, c6, c7, c8, c9, c10, c11, c12, c13, c14⟩ := h
  have w1 := c1 (onLink { state := 5 }) 0 (frameBlock 2 0 (crcN (msg 1 64 []))) (msg 1 64 []) { state := 5 } (by decide +kernel) (by decide +kernel) (by decide +kernel) (by decide +kernel) (by decide +kernel) (by decide +kernel) (by decide +kernel) (by decide +kernel) (by decide +kernel) (by decide +kernel)
  have w2 := (c2 (onLink { state := 5 }) 0 (frameBlock 2 1 0) (msg 1 64 []) { state := 5 } (by decide +kernel) (by decide +kernel) (by decide +kernel) (.inr (.inl (by decide +kernel)))).2 rfl
  have w2b := (c2 (onLink { state := 5, nakSent := true }) 0 (frameBlock 2 0 0) [] { state := 5, nakSent := true } (by decide +kernel) (by decide +kernel) (by decide +kernel)
    (.inr (.inr (.inl (by decide +kernel))))).1 rfl
  have w2c := (c2 (onLink { state := 5 }) 0 (zeros 32) [] { state := 5 } (by decide +kernel) (by decide +kernel) (by decide +kernel) (.inl (by decide +kernel))).2 rfl
  have w3 := c3 (onLink { state := 5, expect := 0 }) 0 { state := 5, expect := 0 } (by decide +kernel) (by decide +kernel) (by decide +kernel)
  have w4 := c4 true { state := 5 } (by decide +kernel)
  have w5 := c5 false { state := 5, ctl := [ctlBlock ([0x20, 1] ++ zeros 26)] }
  have w6 := c6 (onLink { state := 5, unacked := [tx 4 8] }) 0 { state := 5, unacked := [tx 4 8] } (by decide +kernel) (by decide +kernel) (by decide +kernel) (by decide +kernel) (by decide +kernel)
  have w7 := c7 (onLink { state := 5, unacked := [tx 4 9] }) 0 { state := 5, unacked := [tx 4 9] } (by decide +kernel) (by decide +kernel) (by decide +kernel) ⟨tx 4 9, (by decide +kernel)⟩
  let b : Bytes := ctlBlock ([0x20, 0, 0, 0] ++ toLE 4 4 ++ zeros 20)
  have w8 := c8 (onLink { state := 5, unacked := [tx 4 1, tx 5 1] }) 0 b { state := 5, unacked := [tx 4 1, tx 5 1] } (tx 4 1) [tx 5 1]
      (by decide +kernel) (by decide +kernel) (by decide +kernel) (by decide +kernel) (by decide +kernel) (by decide +kernel) (by decide +kernel) (by decide +kernel) (by decide +kernel)
  have w9 := c9 State.reset 0 (zeros 32) (by decide +kernel)
  let s := onLink { state := 5 }
  have w10 := c10 s { state := 5, ctl := [b], tx := [zeros 32] } b (by decide +kernel)
  have w11 := c11 s { state := 5, tx := [zeros 32, zeros 32] } (zeros 32) [zeros 32] (by decide +kernel) rfl
  have w12 := c12 s { state := 5, again := [4, 5], unacked := [tx 4 2, tx 5 2] } 4 [5] (tx 4 2) (by decide +kernel) rfl rfl rfl (by decide +kernel) -- nochk
  let m : OutMsg := { vc := 0, msg := msg 1 64 [] }
  have w13 := c13 s { state := 5, queued := [m], cred := [100, 100, 100, 100] } m (by decide +kernel) rfl rfl rfl (by decide +kernel) -- nochk
  have w14 := c14 s { state := 3 } (by decide +kernel) rfl (.inl (by decide +kernel))
  have w14b := c14 s { state := 5 } (by decide +kernel) rfl (.inr (by decide +kernel))
  trivial

end Sys2Proof.Tests
end

