-- ==== Sys2Proof/Tests/Witness6.lean ====
section
/-! SUPPORT. States and operands that meet the hypotheses of the statements (see Witness1). Messages and Assay. -/

set_option Elab.async false

set_option linter.all false
set_option maxRecDepth 8000

namespace Sys2Proof.Tests

open Sys2Proof.Machine

/-- A message from device 7, and one that carries the generation expected of it. -/
def from7 (type len : Nat) (l : List (Nat × Nat × Nat)) : Bytes :=
  fields len ((0, 1, type) :: (4, 4, 7) :: (8, 4, 5) :: (24, 4, len) :: l)
def good7 (type len : Nat) (l : List (Nat × Nat × Nat)) : Bytes := from7 type len ((12, 4, 1) :: l)

/-- Port 0 holds one message. -/
def received (m : Bytes) (s : State) : State :=
  { linked s with spl.ports := [(0, { state := 5, partner := 7, rx := [m] })] }

/-- The peer has not been ready yet. -/
def unready (s : State) : State := { s with spl.peers := [(7, { port := 0 })] }

theorem meets_MessagesAndFencing (h : Obligations.MessagesAndFencing) : True := by
  obtain ⟨c1, c2, c3, c4, c5, c6, c7, c8, c9, c10, c11, c12, c13⟩ := h
  have w1 := c1 (.tiding 0) 0x30 0 State.reset rfl (by intro x hx; cases hx)
  have w1b := c1 (.tiding 0) 0x30 0 (received (good7 1 96 []) (rings State.reset)) rfl
    (all_of (P := fun x : Port => ∀ m ∈ x.rx, mType m ≠ 0x30) (by decide +kernel))
  let s := rings State.reset
  have w2 := c2 (.fence 0) 3 0 (from7 3 64 []) { received (from7 3 64 []) s with adm.topo := [selfRec] } rfl (by decide +kernel)
    (by unfold waitsOn; decide +kernel) (by decide +kernel) (by decide +kernel)
  have w3 := c3 (.fence 0) 3 0 (from7 3 64 []) { received (from7 3 64 []) s with spl := { (received (from7 3 64 []) s).spl with
    fencedAt := [(7, 0)] } } rfl (by decide +kernel) (by unfold waitsOn; decide +kernel) (by decide +kernel)
      (by decide +kernel) ⟨0, by decide +kernel⟩
  have w4 := c4 (.fence 0) 3 0 (good7 3 64 [(28, 4, 1)]) (received (good7 3 64 [(28, 4, 1)]) s) rfl (by decide +kernel)
    (by unfold waitsOn; decide +kernel) (by decide +kernel) (by decide +kernel) (by decide +kernel)
  let hello := good7 1 96 [(72, 4, 5)]
  let t : State := { unready (received hello s) with adm := { (linked s).adm with coord := 5 } }
  have w5 := c5 t 0 hello ⟨by decide +kernel, by unfold waitsOn; decide +kernel, by decide +kernel, by decide +kernel, by decide +kernel⟩
      (by decide +kernel)
  have w5b := c5 { t with adm := {
      (linked s).adm with coord := 4 } } 0 hello
      ⟨by decide +kernel, by unfold waitsOn; decide +kernel, by decide +kernel, by decide +kernel, by decide +kernel⟩ (by decide +kernel)
  have w6 := c6 { t with adm := {
      (linked s).adm with coord := 9 } } 0 hello
      ⟨by decide +kernel, by unfold waitsOn; decide +kernel, by decide +kernel, by decide +kernel, by decide +kernel⟩ (by decide +kernel)
  let ack := good7 2 96 [(72, 4, 5)]
  have w7 := c7 { unready (received ack s) with adm := {
      (linked s).adm with coord := 5 } } 0 ack { port := 0 }
      ⟨by decide +kernel, by unfold waitsOn; decide +kernel, by decide +kernel, by decide +kernel, by decide +kernel⟩ (by decide +kernel)
      (by decide +kernel) (by decide +kernel) (by decide +kernel) (by decide +kernel) (by decide +kernel)
  let no := good7 2 96 [(1, 1, 9), (68, 4, 3)]
  have w8 := c8 (received no s) 0 no
      ⟨by decide +kernel, by unfold waitsOn; decide +kernel, by decide +kernel, by decide +kernel, by decide +kernel⟩ (by decide +kernel)
  have w9 := c9 0 7 3 5 (linked s) { state := 5, partner := 7 } (by decide +kernel) -- nochk
  let f3 := good7 3 64 [(56, 8, 2)]
  have w10 := c10 (received f3 s) 0 f3 ⟨by decide +kernel, by unfold waitsOn; decide +kernel, by decide +kernel, by decide +kernel, by decide +kernel⟩
  let f4 := good7 4 64 [(56, 8, 2 + 0x10 * 2 ^ 32)]
  have w11 := c11 (received f4 s) 0 f4 ⟨by decide +kernel, by unfold waitsOn; decide +kernel, by decide +kernel, by decide +kernel, by decide +kernel⟩
  have w12 := c12 (linked s) 7 1 (by decide +kernel)
  have w13 := c13 (linked s) 7 2 (by decide +kernel) (by decide +kernel) (by decide +kernel) (by decide +kernel) (by decide +kernel)
      (by decide +kernel) (by decide +kernel)
  trivial

/-- Vault 1 is exported to device 7, and opened by it. -/
def exportItem : Bytes := item 1 [(8, 4, 1), (14, 2, 1), (16, 8, 0x100000), (24, 8, 16), (36, 4, 7)]
def exporting (opens : List (Nat × Nat)) (s : State) : State :=
  { s with adm := { s.adm with vaults := [(1, { item := exportItem })] }, spl := { s.spl with opens } }

def req (mtype : Nat) (owner : Option (Nat × Nat)) (isectors : List Nat) : Req :=
  { tag := 3, peer := 7, mtype, msg := from7 mtype 64 [(36, 2, 1), (40, 8, 20)], owner, isectors, epoch := 1, entry := 1 }
def asked (r : Req) (s : State) : State := { s with spl := { s.spl with reqs := [r] } }

theorem notArrived {m : Bytes} {i : Nat} (h : (hEpoch (msgSector m i) == mEpoch m) = false) : arrivedOk m i = false := by
  simp only [arrivedOk, h, Bool.and_false]

theorem meets_VaultMessages (h : Obligations.VaultMessages) : True := by
  obtain ⟨c1, c2, c3, c4, c5, c6, c7, c8, c9, c10, c11⟩ := h
  let s := rings State.reset
  let v : Vault := { item := exportItem }
  let o := good7 8 64 [(28, 4, 1), (56, 8, 16)]
  have w1 := c1 (exporting []
      (received o s)) 0 o v ⟨by decide +kernel, by unfold waitsOn; decide +kernel, by decide +kernel, by decide +kernel, by decide +kernel⟩
      (by decide +kernel) (by decide +kernel) (by decide +kernel)
  have w2 := c2 (received o s) 0 o
      ⟨by decide +kernel, by unfold waitsOn; decide +kernel, by decide +kernel, by decide +kernel, by decide +kernel⟩ (.inl (by decide +kernel))
  let o2 := good7 8 64 [(28, 4, 1), (56, 8, 17)]
  have w2b := c2 (exporting []
      (received o2 s)) 0 o2 ⟨by decide +kernel, by unfold waitsOn; decide +kernel, by decide +kernel, by decide +kernel, by decide +kernel⟩
      (.inr ⟨v, by decide +kernel, by decide +kernel⟩)
  let cl := good7 9 64 [(28, 4, 1)]
  have w3 := c3 (exporting [(1, 7)]
      (received cl s)) 0 cl ⟨by decide +kernel, by unfold waitsOn; decide +kernel, by decide +kernel, by decide +kernel, by decide +kernel⟩
  let r := good7 0xA 64 [(16, 8, 3), (28, 4, 9)]
  let c : Cmd := { started 0 1 (item 1 [(8, 4, 2), (12, 1, 1), (24, 8, 16), (32, 4, 9)]) with ran := true }
  have w4 := c4 (asked (req 8 (some (0, 1)) []) (received r (withCmd c))) 0 r (req 8 (some
      (0, 1)) []) 0 1 c ⟨by decide +kernel, by unfold waitsOn; decide +kernel, by decide +kernel, by decide +kernel, by decide +kernel⟩
      (by decide +kernel) (by decide +kernel) (by decide +kernel) (.inl rfl) (by decide +kernel) (by decide +kernel) (by decide +kernel)
  let rd := good7 0x12 64 [(28, 4, 1), (36, 2, 1), (40, 8, 15), (48, 4, 1)]
  have w5 := c5 (exporting [(1, 7)] (received rd s)) 0 rd v [(15, zeros 4096)] ⟨by decide +kernel, by unfold waitsOn; decide +kernel, by decide +kernel, by decide +kernel, by decide +kernel⟩ (by decide +kernel) (by decide +kernel) (by decide +kernel) -- nochk
  have w6 := c6 (exporting []
      (received rd s)) 0 rd []
      ⟨by decide +kernel, by unfold waitsOn; decide +kernel, by decide +kernel, by decide +kernel, by decide +kernel⟩ (.inr (by decide +kernel))
  let wr := good7 0x10 4160 [(28, 4, 1), (32, 4, 1), (36, 2, 1), (40, 8, 15), (48, 4, 1), (52, 4, 1), (64, 1, 1)]
  have w8 := c8 (exporting [(1, 7)] (received wr s)) 0 wr v ⟨by decide +kernel, by unfold waitsOn; decide +kernel, by decide +kernel, by decide +kernel, by decide +kernel⟩ (by decide +kernel) (by decide +kernel) (by decide +kernel) (by decide +kernel) (notArrived (by decide +kernel)) -- nochk
  let ak := good7 0x11 64 [(16, 8, 3)]
  have w9 := c9 (asked (req 0x10 none [0]) (received ak s)) 0 ak
      (req 0x10 none [0]) ⟨by decide +kernel, by unfold waitsOn; decide +kernel, by decide +kernel, by decide +kernel, by decide +kernel⟩
      (by decide +kernel) (by decide +kernel) (by decide +kernel) (by decide +kernel) (by decide +kernel)
  let da := good7 0x13 4160 [(16, 8, 3), (36, 2, 1), (40, 8, 15), (48, 4, 1)]
  have w10 := c10 (asked (req 0x12 none [0]) (received da s)) 0 [] da (req 0x12 none [0]) ⟨by decide +kernel, by unfold waitsOn; decide +kernel, by decide +kernel, by decide +kernel, by decide +kernel⟩ (by decide +kernel) (by decide +kernel) (by decide +kernel) (by decide +kernel) (by decide +kernel) (by decide +kernel) -- nochk
  let no := good7 0x13 64 [(1, 1, 0x0C), (16, 8, 3)]
  have w11 := c11 (asked (req 0x12 none [0]) (received no s)) 0 [] no (req 0x12 none [0]) ⟨by decide +kernel, by unfold waitsOn; decide +kernel, by decide +kernel, by decide +kernel, by decide +kernel⟩ (by decide +kernel) (by decide +kernel) (by decide +kernel) (by decide +kernel) (by decide +kernel) -- nochk
  trivial

def tid (ty seq epoch : Nat) : Bytes := good7 0x30 96 [(64, 1, ty), (66, 2, 1), (72, 8, seq), (84, 4, epoch)]
def replica7 : Bytes := fields 32 [(0, 4, 7), (4, 1, 3), (6, 1, 1), (7, 1, 0xFF), (8, 4, 1), (12, 4, 1)]

/-- A DIGEST of sector 20 of epoch 1, and its verdict. -/
def dig7 : Bytes := good7 0x20 96 [(28, 4, 1), (32, 4, 1), (36, 2, 1), (40, 8, 20), (48, 4, 2), (64, 1, 9)]
def verdict7 (v : Nat) : Bytes := good7 0x21 96 [(16, 8, 3), (36, 2, 1), (64, 1, v)]

theorem meets_DigestsAndResending (h : Obligations.DigestsAndResending) : True := by
  obtain ⟨c1, c2, c3, c4, -, -, -, -, -, -, -, -, -⟩ := h
  let s := rings State.reset
  have w1 := c1 { received dig7 s with pun.own := [(20, (1, zeros 32, []))] } 0 dig7 (zeros 32) [] ⟨by decide +kernel, by unfold waitsOn; decide +kernel, by decide +kernel, by decide +kernel, by decide +kernel⟩ (by decide +kernel) (by decide +kernel) (by decide +kernel) (by decide +kernel) (by decide +kernel) -- nochk
  have w2 := c2 { received dig7 s with
    cap := { s.cap with epochs := [(2, epoch 2 3 planList)] }
    pun.own := [(20, (2, zeros 32, []))] } 0 2 dig7 (zeros 32) [] (epoch 2 3 planList) ⟨by decide +kernel, by unfold waitsOn; decide +kernel, by decide +kernel, by decide +kernel, by decide +kernel⟩ (by decide +kernel) (by decide +kernel) (by decide +kernel) (by decide +kernel) (by decide +kernel) (by decide +kernel) (by decide +kernel) (by decide +kernel) (by decide +kernel) (by decide +kernel) -- nochk
  have w3 := c3 { received dig7 s with
    cap := { s.cap with epochs := [(1, epoch 1 3 planList)] }
    regs.shadow.applied := [(0x414, 256)] } 0 dig7 ⟨by decide +kernel, by unfold waitsOn; decide +kernel, by decide +kernel, by decide +kernel, by decide +kernel⟩ (by decide +kernel) (by decide +kernel) (by decide +kernel) (by decide +kernel) (by decide +kernel) (by decide +kernel) (by decide +kernel)
  have w4 := (c4 (asked (req 0x20 none []) (received (verdict7 0) s)) 0 (verdict7 0) (req 0x20 none []) ⟨by decide +kernel, by unfold waitsOn; decide +kernel, by decide +kernel, by decide +kernel, by decide +kernel⟩ (by decide +kernel) (by decide +kernel) (by decide +kernel) (by decide +kernel) (by decide +kernel) (by decide +kernel)).1 (by decide +kernel)
  have w5 := (c4 (asked (req 0x20 none []) (received (verdict7 1) s)) 0 (verdict7 1) (req 0x20 none []) ⟨by decide +kernel, by unfold waitsOn; decide +kernel, by decide +kernel, by decide +kernel, by decide +kernel⟩ (by decide +kernel) (by decide +kernel) (by decide +kernel) (by decide +kernel) (by decide +kernel) (by decide +kernel)).2.1 (by decide +kernel)
  have w6 := (c4 (asked (req 0x20 none []) (received (verdict7 2) s)) 0 (verdict7 2) (req 0x20 none []) ⟨by decide +kernel, by unfold waitsOn; decide +kernel, by decide +kernel, by decide +kernel, by decide +kernel⟩ (by decide +kernel) (by decide +kernel) (by decide +kernel) (by decide +kernel) (by decide +kernel) (by decide +kernel)).2.2 (by decide +kernel) -- nochk
  trivial

theorem meets_DigestsAndResending_tidings (h : Obligations.DigestsAndResending) : True := by
  obtain ⟨-, -, -, -, c5, c6, c7, c8, c9, c10, c11, c12, c13⟩ := h
  let s := rings State.reset
  have w6 := c5 (received (tid 0 1 0) s) 0 (tid 0 1 0) ⟨by decide +kernel, by unfold waitsOn; decide +kernel, by decide +kernel, by decide +kernel, by decide +kernel⟩ (by decide +kernel) (by decide +kernel)
  have w7 := c6 { received (tid 0 1 0) s with spl := { (received (tid 0 1 0) s).spl with tidHigh := [(7 * 65536 + 1, 1)] } } 0
      (tid 0 1 0) ⟨by decide +kernel, by unfold waitsOn; decide +kernel, by decide +kernel, by decide +kernel, by decide +kernel⟩ (by decide +kernel) (by decide +kernel)
  have w8 := c7 (received (tid 1 0 4) s) 0 (tid 1 0 4) ⟨by decide +kernel, by unfold waitsOn; decide +kernel, by decide +kernel, by decide +kernel, by decide +kernel⟩ (by decide +kernel) (by decide +kernel)
  have w9 := c8 (asked { req 0x10 none [0] with sends := 7 } (linked s)) 3 0 { req 0x10 none [0] with sends := 7 } (by decide +kernel) (by decide +kernel) (by decide +kernel) (by decide +kernel) (by decide +kernel) (by decide +kernel)
  have w10 := c9 (asked { req 0x10 none [0] with sends := 8 } (linked s)) 3 { req 0x10 none [0] with sends := 8 } (by decide +kernel) (by decide +kernel) (by decide +kernel) (by decide +kernel) (by decide +kernel)
  have w11 := c10 (linked s) 3 (.inr (by decide +kernel))
  have w12 := (c11 (unready (linked s)) 7 0 { port := 0 } (by decide +kernel) (by decide +kernel) (by decide +kernel)).1 rfl (by decide +kernel)
  have w13 := (c11 (linked s) 7 0 { port := 0, ready := true } (by decide +kernel) (by decide +kernel) (by decide +kernel)).2 rfl
  have w14 := c12 { linked s with
      adm := { (linked s).adm with topo := [selfRec, replica7] }
      pun.later := [(1, 20, 1, 0)]
      pun.escrow := [(20, (1, 0, zeros 8))]
      cap := { s.cap with epochs := [(1, epoch 1 3 planList)] }
      time.aon := 100000 } 1 20 1 0 7 (epoch 1 3 planList) (1, 0, zeros 8) (by decide +kernel) (by decide +kernel) (by decide +kernel) (by decide +kernel) (by decide +kernel) (by decide +kernel) -- nochk
  have w15 := c13 State.reset (by decide +kernel)
  trivial

/-- A tile control word: operation, tile 5, handle 2, format 1. -/
def tw (op : Nat) : W64 := BitVec.ofNat 64 (5 + 2 ^ 32 * 2 + 2 ^ 48 * 1 + 2 ^ 50 * op)
def assayOn (tiles : List Tile) (handles : List (Nat × Handle)) : State :=
  { rings State.reset with
    regs := { (rings State.reset).regs with shadow := { State.reset.regs.shadow with applied := [(0x700, 3)] } }
    asy := { State.reset.asy with tiles, handles } }
def tile : Tile := { id := 5, handle := 2, fmt := 1, replay := false, dual := 0, ctl := 3, on := true, slices := List.range 16, rot := 0 }
def handle : Handle := { fmt := 1, w := [1, 2] }

theorem meets_TileVerdicts (h : Obligations.TileVerdicts) : True := by
  obtain ⟨c1, c2, c3, c4, c5, c6, c7, c8, c9, c10, c11, c12, c13, c14⟩ := h
  have w1 := c1 (assayOn [] [(2, handle)]) (tw 0) handle (by decide +kernel) (by decide +kernel) (by decide +kernel) (by decide +kernel) (by decide +kernel) (by decide +kernel) (by decide +kernel) (by decide +kernel) (by decide +kernel) (by decide +kernel) (by decide +kernel) (by decide +kernel)
  have w2 := c2 (assayOn [] [(2, handle)]) (tw 0 ||| 0x0100000000000000) (by decide +kernel) (by decide +kernel) (by decide +kernel) (by decide +kernel) (by decide +kernel) (by decide +kernel) (.inl (by decide +kernel)) -- nochk
  have w2b := c2 (assayOn [] []) (tw 0) (by decide +kernel) (by decide +kernel) (by decide +kernel) (by decide +kernel) (by decide +kernel) (by decide +kernel) (.inr ⟨(by decide +kernel), by intro h hh; cases hh⟩) -- nochk
  have w3 := c3 (assayOn [tile] [(2, handle)]) [] [] 0 tile [] handle (by decide +kernel) (by decide +kernel) (by decide +kernel) (by decide +kernel) (by decide +kernel) (by decide +kernel) (by decide +kernel) (by decide +kernel) (by decide +kernel) -- nochk
  have w4 := c4 State.reset [] [] 0 (by decide +kernel)
  let t1 : Tile := { tile with rows := 1, rhs := [[7]] }
  have w5 := c5 (assayOn [t1] []) (tw 1) t1 (by decide +kernel) (by decide +kernel) (by decide +kernel) (by decide +kernel) (by decide +kernel) (by decide +kernel) (by decide +kernel) (by decide +kernel) (by decide +kernel) (by decide +kernel) (by decide +kernel) (by decide +kernel)
  let t2 : Tile := { tile with skip := true }
  have w6 := c6 (assayOn [t2] []) (tw 1) t2 (by decide +kernel) (by decide +kernel) (by decide +kernel) (by decide +kernel) (by decide +kernel) (by decide +kernel) (by decide +kernel) (by decide +kernel)
  let t3 : Tile := { tile with rows := 1, rhs := [[3, 4]], ended := true }
  have w7 := c7 (assayOn [t3] []) [3, 4] [3, 4] t3 (by decide +kernel) (by decide +kernel) (by decide +kernel) (by decide +kernel) (by decide +kernel) (by decide +kernel) (by decide +kernel) (by decide +kernel) (by decide +kernel) (by decide +kernel) (by decide +kernel) (by decide +kernel) (by decide +kernel)
  have w8 := c8 (assayOn [t3] []) [3, 5] [3, 4] [] t3 (by decide +kernel) (by decide +kernel) (by decide +kernel) (by decide +kernel) (by decide +kernel) (by decide +kernel) (by decide +kernel) (by decide +kernel) (by decide +kernel) (by decide +kernel) (by decide +kernel) (by decide +kernel) (by decide +kernel) (by decide +kernel) -- nochk
  let t4 : Tile := { t3 with replay := true }
  let again := fun (n : Nat) (t : Tile) => ({ assayOn [t] [] with asy := { (assayOn [t] []).asy with failed := [⟨5, n, [0]⟩] } } : State)
  have w9 := c9 (again 0 t4) [3, 4] [3, 4] t4 ⟨5, 0, [0]⟩ [] (by decide +kernel) (by decide +kernel) (by decide +kernel) (by decide +kernel) (by decide +kernel) (by decide +kernel) (by decide +kernel) (by decide +kernel) (by decide +kernel) (by decide +kernel) (by decide +kernel) (by decide +kernel) (by decide +kernel) (by decide +kernel) (by decide +kernel) (by decide +kernel)
  let t6 : Tile := { t4 with ctl := 3 + 2 ^ 4 * 2 }
  have w10 := (c10 (again 0 t6) [3, 5] [3, 4] t6 ⟨5, 0, [0]⟩ [] (by decide +kernel) (by decide +kernel) (by decide +kernel) (by decide +kernel) (by decide +kernel) (by decide +kernel) (by decide +kernel) (by decide +kernel) (by decide +kernel) (by decide +kernel) (by decide +kernel) (by decide +kernel) (by decide +kernel) (by decide +kernel) (by decide +kernel) (by decide +kernel)).1 (by decide +kernel) -- nochk
  have w10b := (c10 (again 1 t6) [3, 5] [3, 4] t6 ⟨5, 1, [0]⟩ [] (by decide +kernel) (by decide +kernel) (by decide +kernel) (by decide +kernel) (by decide +kernel) (by decide +kernel) (by decide +kernel) (by decide +kernel) (by decide +kernel) (by decide +kernel) (by decide +kernel) (by decide +kernel) (by decide +kernel) (by decide +kernel) (by decide +kernel) (by decide +kernel)).2 (by decide +kernel) -- nochk
  let t7 : Tile := { tile with rows := 1, sums := 1 }
  have w11 := c11 (assayOn [t7] []) [9] [] t7 (by decide +kernel) (by decide +kernel) (by decide +kernel) (by decide +kernel) (by decide +kernel) (by decide +kernel) (by decide +kernel)
  have w12 := c12 (assayOn [] []) [9] [] (by decide +kernel) (by decide +kernel) (by decide +kernel)
  have w13 := c13 [0, 1, 2, 3] 1 2 7 8 9 (by decide +kernel)
  let t5 : Tile := { tile with on := false, rows := 2 }
  have w14 := c14 (assayOn [t5] []) [] t5 [] (by decide +kernel) (by decide +kernel) (by decide +kernel) (by decide +kernel) (by decide +kernel) (by decide +kernel)
  trivial

def loading (l : WLoad) : State := { assayOn [] [] with asy := { State.reset.asy with load := some l } }
def wl (fmt n : Nat) : WLoad := { handle := 2, verify := true, exps := List.replicate n 0, cur := { fmt } }

/-- The table of rows is the one that Assay pools over; a bag of one row. -/
def bagging (b : Bag) : State := { withRows (assayOn [] []) with asy := { State.reset.asy with bag := some b } }
def bag1 : Bag := { entry := 1, n := 1, id := 9, rows := [1023], elems := List.replicate 64 0, exps := [0, 0] }

theorem noShift (n k : Nat) : badShift ((List.replicate n (0 : Int)).take k) 0 = false := by
  rw [badShift, List.take_replicate, List.any_eq_false]
  intro x hx
  rw [List.eq_of_mem_replicate hx]
  decide

/-- The check value of the bag's row is in the tracker. -/
def holding (v : Nat) (b : Bag) : State := { bagging b with cap.regions := [(131072, { regionOf with check := [(1023, v)] })] }

theorem meets_WeightsAndPools (h : Obligations.WeightsAndPools) : True := by
  obtain ⟨c1, c2, c3, c4, c5, c6, c7, c8, c9, c10, c11, c12, c13, c14, c15, c16, c17⟩ := h
  have w1 := c1 (assayOn [] [(2, handle)]) (tw 2) (by decide +kernel) (by decide +kernel) (by decide +kernel) (by decide +kernel) -- nochk
  have w2 := c2 (assayOn [] [(2, handle)]) (tw 3) (by decide +kernel) (by decide +kernel) (by decide +kernel) (by decide +kernel) -- nochk
  have w3 := (c3 State.reset (tw 0)).1 (by decide +kernel)
  have w3b := (c3 State.reset (tw 0)).2 (by decide +kernel)
  have w4 := c4 (loading (wl 1 128)) (zeros 128) 0 (wl 1 128) (by decide +kernel) (by decide +kernel) (by decide +kernel) (.inl (by decide +kernel))
  have w5 := c5 (loading (wl 1 0)) (zeros 128) 0 (wl 1 0) (by decide +kernel) (by decide +kernel) (by decide +kernel) (by decide +kernel)
  have w6 := c6 (loading (wl 2 4096)) (zeros 1024) (wl 2 4096) (by decide +kernel) (by decide +kernel) List.length_replicate (by decide +kernel) (by decide +kernel) (noShift 4096 2048) -- nochk
  have w7 := c7 (loading (wl 1 4096)) (zeros 1024) (wl 1 4096) (by decide +kernel) (by decide +kernel) List.length_replicate (by decide +kernel) (by decide +kernel) (by have h := noShift 4096 4096; rwa [List.take_of_length_le (by rw [List.length_replicate])] at h) (by decide +kernel) -- nochk
  let l : WLoad := { handle := 2, verify := true, cur := { fmt := 1, w := [1, 3] } }
  have w8 := c8 { loading l with asy := { State.reset.asy with load := some l, handles := [(2, handle)] } } l handle 1 (by decide +kernel) (by decide +kernel) (by decide +kernel) -- nochk
  have w9 := c9 State.reset [] [] 0 (by decide +kernel)
  have w10 := c10 (assayOn [] []) (toLE 2 1 ++ toLE 2 4096 ++ toLE 4 9) (by decide +kernel)
  have w11 := (c11 (bagging { bag1 with rows := [] }) (toLE 8 1023) { bag1 with rows := [] } (by decide +kernel) (by decide +kernel)).2 rowEntry (by decide +kernel)
  have w11b := (c11 (bagging { bag1 with rows := [], entry := 0 }) (toLE 8 1023) { bag1 with rows := [], entry := 0 } (by decide +kernel) (by decide +kernel)).1 (by decide +kernel)
  have w12 := c12 (bagging { bag1 with elems := [] }) (zeros 64) [0, 0] { bag1 with elems := [] } (by decide +kernel) (by decide +kernel) (by decide +kernel) -- nochk
  have w13 := (c13 (holding 0 bag1) bag1 rowEntry (by decide +kernel) (by decide +kernel) (by decide +kernel) (by decide +kernel) (by decide +kernel) (by decide +kernel) (by decide +kernel)).1 (by decide +kernel)
  have w14 := (c13 (holding 1 bag1) bag1 rowEntry (by decide +kernel) (by decide +kernel) (by decide +kernel) (by decide +kernel) (by decide +kernel) (by decide +kernel) (by decide +kernel)).2 (by decide +kernel)
  have w15 := c14 (bagging { bag1 with rows := [1024] }) { bag1 with rows := [1024] } 2 (by decide +kernel) (by decide +kernel) (by decide +kernel) (by decide +kernel) (by decide +kernel) (by decide +kernel)
  have w16 := c15 (bagging bag1) bag1 rowEntry (by decide +kernel) (by decide +kernel) (by decide +kernel) (by decide +kernel) (by decide +kernel) (by decide +kernel)
  have w17 := c16 (bagging { bag1 with rows := [] }) { bag1 with rows := [] } (by decide +kernel) (.inl (by decide +kernel))
  have w17b := c16 (bagging { bag1 with elems := [] }) { bag1 with elems := [] } (by decide +kernel) (.inr ⟨rowEntry, (by decide +kernel), (by decide +kernel)⟩)
  have w18 := c17 State.reset [] [] (by decide +kernel)
  trivial

end Sys2Proof.Tests
end

