-- ==== Sys2Proof/Tests/Witness7.lean ====
section
/-! SUPPORT. States and operands that meet the hypotheses of the statements (see Witness1). Resets, the debug port and recipe
instructions. -/

set_option Elab.async false

set_option linter.all false
set_option maxRecDepth 8000

namespace Sys2Proof.Tests

open Sys2Proof.Machine

def withRst (n : Nat) (root : Bool) : State := { rings State.reset with pins := { State.reset.pins with rst := n, rstRoot := root } }

theorem meets_ResetsAndClocks (h : Obligations.ResetsAndClocks) : True := by
  obtain ⟨c1, c2, c3, c4, c5, c6, c7, c8, c9, c10, c11, c12, c13, c14, c15, c16, c17⟩ := h
  have w1 := c1 State.reset .powerOnReset 3 (.inl ⟨rfl, rfl⟩)
  have w1b := c1 (rings State.reset) .coldReset 2 (.inr (.inl ⟨rfl, rfl⟩))
  have w1c := c1 (rings State.reset) .warmReset 2 (.inr (.inr ⟨rfl, by decide +kernel, by decide +kernel⟩))
  have w2 := c2 { State.reset with pwr.state := 3 } rfl
  have w3 := c3 State.reset (by decide +kernel)
  have w4 := c4 { State.reset with pwr.state := 3 } rfl
  have w5 := c5 (withRst 3 false) rfl -- nochk
  have w6 := c6 (withRst 2 false) rfl rfl -- nochk
  have w7 := c7 (withRst 2 true) rfl rfl
  have w8 := c8 (withRst 1 false) [(0, 0)] rfl
  have w8b := c9 1 { adminCmd 0 [] with regs.qctl.flush := true }
  have w8c := c9 2 { State.reset with regs.qctl.flush := true, flt.merge := [{ store := 0, lane := 0, mask := 0, since := 0 }] }
  have w8d := c10 (withRst 1 false)
  have w9 := c11 State.reset [] rfl
  have w10 := c12 State.reset 2 (by decide +kernel) (by decide +kernel) (by decide +kernel)
  have w11 := c13 State.reset 0 (by decide +kernel) (by decide +kernel) (by decide +kernel)
  have w12 := c14 State.reset 3 (by decide +kernel)
  have w13 := c15 State.reset 4 (.inl (by decide))
  have w13b := c15 (withRst 2 false) 0 (.inr (by decide))
  have w14 := c16 State.reset 15 (by decide +kernel) (by decide +kernel) (by decide +kernel)
  have w15 := c17 State.reset 16 (by decide +kernel)
  trivial

def unlocked (n : Nat) : State := { rings State.reset with dbg := { State.reset.dbg with state := n } }
def dreq (sel arg : Nat) (data : W64) : DbgReq := { rsvd := 0, sel, arg, data }


theorem meets_DebugUnlocking (h : Obligations.DebugUnlocking) : True := by
  obtain ⟨c1, c2, c3, c4, c5, c6, c7, c8, c9, c10, c11, c12, c13⟩ := h
  let r := dreq 0 0 0
  have w1 := c1 (.dbgStatus r) 1 false r { State.reset with dbg := { State.reset.dbg with ansStatus := 1 } } rfl rfl (by decide +kernel)
  have w2 := c2 (.dbgHalt { r with rsvd := 1 }) 8 true { r with rsvd := 1 } State.reset rfl (by decide +kernel) (by decide +kernel)
  have w3 := c3 (.dbgLock r) 4 r State.reset rfl (by decide +kernel) rfl rfl
  have w4 := c4 State.reset r rfl
  have w5 := c5 (unlocked 1) r ⟨by decide, rfl, by decide⟩
  have w6 := c6 { State.reset with dbg := { State.reset.dbg with challenge := some (zeros 32) } } r
      (zeros 32) ⟨by decide, rfl, by decide⟩ rfl (by decide +kernel) rfl
  have w7 := c7 State.reset r ⟨by decide, rfl, by decide⟩ rfl (by decide +kernel) rfl -- nochk
  have w8 := c8 { State.reset with dbg := { State.reset.dbg with fails := 8 } } r ⟨by decide, rfl, by decide⟩ (.inr (by decide))
  have w9 := c9 State.reset (dreq 0 2 5) ⟨by decide, rfl, by decide⟩ (by decide +kernel)
  obtain ⟨d1, -⟩ := c10 State.reset (dreq 0 3 5) ⟨by decide, rfl, by decide⟩ rfl
  have w10 := d1 (by decide +kernel) -- nochk
  obtain ⟨-, d2⟩ := c10 { State.reset with pins := { State.reset.pins with unlockUse := some (zeros 32) } } (dreq 0 3 5)
    ⟨by decide, rfl, by decide⟩ rfl
  have w11 := d2 (by decide +kernel)
  have w12 := c12 (unlocked 1) r ⟨by decide, rfl, by decide⟩ (by decide +kernel) rfl
  have w13 := c13 (unlocked 1) (by decide +kernel) rfl
  trivial

def laneOf (x : Lane) : State := { rings State.reset with str := { State.reset.str with lanes := [(31, x)] } }
def halting (x : Lane) : State :=
  { laneOf x with
    dbg := { State.reset.dbg with state := 1, lanes := [31] }
    adm := { State.reset.adm with recipes := [(0, [0xF00000000000000A, 0, 0x0100000000000000])] } }

theorem meets_DebugHalting (h : Obligations.DebugHalting) : True := by
  obtain ⟨c1, c2, c3, c4, c5, c6, c7, c8, c9, c10, c11⟩ := h
  let r := dreq 31 0 0
  have w1 := c1 (unlocked 1) r ⟨by decide, rfl, by decide⟩ rfl (by decide +kernel) rfl
  have w2 := c2 (unlocked 2) r ⟨by decide, rfl, by decide⟩ rfl rfl
  have w3 := c3 { unlocked 1 with dbg := { (unlocked 1).dbg with haltReq := some 0xFF } } rfl rfl (by decide +kernel)
  have w4 := c4 (unlocked 1) (.inl rfl)
  have w5 := c5 (unlocked 2) r ⟨by decide, rfl, by decide⟩ rfl rfl
  have w6 := c6 (unlocked 2) r ⟨by decide, rfl, by decide⟩ rfl rfl
  have w7 := c7 { unlocked 1 with dbg := { (unlocked 1).dbg with stepping := true, recs := 1 } } rfl (by decide +kernel)
  have w8 := c8 (unlocked 1) (.inl rfl)
  have w9 := c9 (halting {}) r ⟨by decide, rfl, by decide⟩ (by decide +kernel) (by decide +kernel) (by decide +kernel) -- nochk
  have w10 := c10 (halting {}) r ⟨by decide, rfl, by decide⟩ (by decide +kernel) (by decide +kernel) -- nochk
  have w11 := c11 (unlocked 1) r ⟨by decide, rfl, by decide⟩ (by decide +kernel) (by decide +kernel)
  trivial

def inSpaceAt (n space addr : Nat) : State := { unlocked n with dbg := { (unlocked n).dbg with space, addr } }

theorem meets_DebugAccess (h : Obligations.DebugAccess) : True := by
  obtain ⟨c1, c2, c3, c4, c5, c6, c7, c8, c9, c10, c11, c12, c13⟩ := h
  have w1 := c1 (unlocked 1) (dreq 7 (6 * 2 ^ 20 + 5) 9) ⟨by decide, rfl, by decide⟩ (by decide +kernel) (by decide +kernel) (by decide +kernel)
  have w2 := c2 (unlocked 1) (dreq 7 0 0) ⟨by decide, rfl, by decide⟩ (by decide +kernel)
  have w3 := c3 (unlocked 1) (dreq 8 0 0) ⟨by decide, rfl, by decide⟩ (by decide +kernel)
  have w4 := c4 { unlocked 1 with dbg := { (unlocked 1).dbg with bps := [(7, ⟨1, 0, 0⟩)], hits := [7] } } 7 ⟨1, 0, 0⟩ rfl rfl
      (by decide +kernel) (by decide +kernel) (by decide +kernel)
  have w5 := c5 (unlocked 1) 7 rfl
  have w6 := c6 (unlocked 1) (dreq 13 0 8) ⟨by decide, rfl, by decide⟩ (.inl (by decide))
  have w6b := c6 (unlocked 1) (dreq 18 0 8) ⟨by decide, rfl, by decide⟩ (.inr (by decide))
  have w7 := c7 (inSpaceAt 1 17 0x404) (dreq 0 0 0) 0x4003E8 ⟨by decide, rfl, by decide⟩ (by decide +kernel) (by decide +kernel)
      (by decide +kernel) (by decide +kernel)
  have w8 := c8 (inSpaceAt 1 12 131064) (dreq 0 0 0) 0 ⟨by decide, rfl, by decide⟩ (by decide +kernel) (by decide +kernel)
      (by decide +kernel) (by decide +kernel) (by decide +kernel) (by decide +kernel) (by decide +kernel)
  have w9 := c9 (inSpaceAt 2 13 0) (dreq 0 0 0) ⟨by decide, rfl, by decide⟩ (.inl rfl)
  have w9b := c9 (inSpaceAt 1 12 0) (dreq 0 0 0) ⟨by decide, rfl, by decide⟩ (.inr (by decide))
  have w10 := c10 (inSpaceAt 2 12 131064) (dreq 0 0 7) ⟨by decide, rfl, by decide⟩ (by decide +kernel) (by decide +kernel) (by decide +kernel) (by decide +kernel) -- nochk
  have w11 := c11 (inSpaceAt 1 17 0xA00) (dreq 0 0 7) ⟨by decide, rfl, by decide⟩ (by decide +kernel) (by decide +kernel) (by decide +kernel)
  have w12 := c12 (unlocked 1) (dreq 1 3 7) 1 ⟨by decide, rfl, by decide⟩ rfl (by decide +kernel) (by decide +kernel)
  have w13 := c13 { unlocked 1 with pins := { State.reset.pins with otpUnlock := some (zeros 32) } } (dreq 1 0 0) true
    ⟨by decide, rfl, by decide⟩ (by decide +kernel) (by decide +kernel)
  trivial

/-- Lane 31 of the block with some registers, a source of 64 B. -/
def lane31 : Lane := { src := zeros 64, base := some (zeros 64), r := [0, 1, 5, 65536, 65537, 0, 0, 0] }
def atLane (x : Lane) : State := laneOf x

/-- A lane may execute an instruction. -/
theorem lane_takes {op : Nat} {r : RFields} {x : Lane} (h : decide (rReason op 256 r = 0 ∧ x.trap = 0 ∧ x.cycles < 1024) = true) :
    laneTakes op 31 r (atLane x) := by
  obtain ⟨a, b, c⟩ := of_decide_eq_true h
  exact ⟨rfl, by decide, b, a, c⟩

theorem meets_RecipeControl (h : Obligations.RecipeControl) : True := by
  obtain ⟨c1, c2, c3, c4, c5, c6, c7, c8, c9, c10⟩ := h
  let s := atLane lane31
  have w1 := c1 s 31 {} (lane_takes (by decide +kernel))
  have w2 := c2 s 31 { a := 3 } (lane_takes (by decide +kernel)) (by decide +kernel)
  have w3 := c3 s 31 { a := 4 } (lane_takes (by decide +kernel)) (by decide +kernel)
  have w4 := c4 s 31 { imm := 255 } (lane_takes (by decide +kernel))
  have w5 := c5 s 31 { imm := 255 } (lane_takes (by decide +kernel)) (by decide +kernel)
  have w6 := c6 s 31 { a := 0, imm := 2 } (lane_takes (by decide +kernel)) (by decide +kernel)
  have w7 := c7 s 31 { a := 1, imm := 2 } (lane_takes (by decide +kernel)) (by decide +kernel)
  have w8 := c8 s 31 { a := 1, imm := 2 } (lane_takes (by decide +kernel)) (by decide +kernel)
  have w9 := c9 (atLane { lane31 with cycles := 1024 }) (.rNop 31 {}) 0 31 {} rfl rfl (by decide +kernel) (by decide +kernel)
      (by decide +kernel) (by decide +kernel)
  have w10 := c10 (atLane lane31) (.rNop 32 {}) 0 32 {} rfl (.inl (by decide))
  trivial

theorem meets_RecipeScalars (h : Obligations.RecipeScalars) : True := by
  obtain ⟨c1, c2⟩ := h
  let s := atLane lane31
  obtain ⟨d0, -, -, -, -, -, -, -, -, -, -, -, -, -, -⟩ := c1 s 31 { d := 7, imm := 0xFFFFFFFF }
  have w1 := d0 (lane_takes (by decide +kernel)) 
  obtain ⟨-, d1, -, -, -, -, -, -, -, -, -, -, -, -, -⟩ := c1 s 31 { d := 7, a := 1, b := 2 }
  have w2 := d1 (lane_takes (by decide +kernel)) 
  obtain ⟨-, -, d2, -, -, -, -, -, -, -, -, -, -, -, -⟩ := c1 s 31 { d := 7, a := 1, imm := 0xFFFFFFFF }
  have w3 := d2 (lane_takes (by decide +kernel)) 
  obtain ⟨-, -, -, d3, -, -, -, -, -, -, -, -, -, -, -⟩ := c1 s 31 { d := 7, a := 1, b := 2 }
  have w4 := d3 (lane_takes (by decide +kernel)) 
  obtain ⟨-, -, -, -, d4, -, -, -, -, -, -, -, -, -, -⟩ := c1 s 31 { d := 7, a := 1, b := 2 }
  have w5 := d4 (lane_takes (by decide +kernel)) 
  obtain ⟨-, -, -, -, -, d5, -, -, -, -, -, -, -, -, -⟩ := c1 s 31 { d := 7, a := 1, b := 2 }
  have w6 := d5 (lane_takes (by decide +kernel)) 
  obtain ⟨-, -, -, -, -, -, d6, -, -, -, -, -, -, -, -⟩ := c1 s 31 { d := 7, a := 1, b := 2 }
  have w7 := d6 (lane_takes (by decide +kernel)) 
  obtain ⟨-, -, -, -, -, -, -, d7, -, -, -, -, -, -, -⟩ := c1 s 31 { d := 7, a := 1, imm := 63 }
  have w8 := d7 (lane_takes (by decide +kernel)) 
  obtain ⟨-, -, -, -, -, -, -, -, d8, -, -, -, -, -, -⟩ := c1 s 31 { d := 7, a := 1, imm := 63 }
  have w9 := d8 (lane_takes (by decide +kernel)) 
  obtain ⟨-, -, -, -, -, -, -, -, -, d9, -, -, -, -, -⟩ := c1 s 31 { d := 7, a := 2 }
  have w10 := d9 (lane_takes (by decide +kernel)) -- nochk
  obtain ⟨-, -, -, -, -, -, -, -, -, -, d10, -, -, -, -⟩ := c1 s 31 { d := 7, imm := 0 }
  have w11 := d10 (lane_takes (by decide +kernel)) rfl 
  obtain ⟨-, -, -, -, -, -, -, -, -, -, -, d11, -, -, -⟩ := c1 s 31 { d := 7, imm := 3 }
  have w12 := d11 (lane_takes (by decide +kernel)) rfl 
  obtain ⟨-, -, -, -, -, -, -, -, -, -, -, -, d12, -, -⟩ := c1 s 31 { d := 7, imm := 4 }
  have w13 := d12 (lane_takes (by decide +kernel)) rfl 
  obtain ⟨-, -, -, -, -, -, -, -, -, -, -, -, -, d13, -⟩ := c1 s 31 { d := 7, imm := 5 }
  have w14 := d13 (lane_takes (by decide +kernel)) rfl 
  obtain ⟨-, -, -, -, -, -, -, -, -, -, -, -, -, -, d14⟩ := c1 s 31 { d := 7, imm := 7 }
  have w15 := d14 (lane_takes (by decide +kernel)) rfl 
  obtain ⟨e0, -, -, -, -, -, -, -⟩ := c2 s 31 { d := 15 }
  have v1 := e0 (lane_takes (by decide +kernel)) (by decide +kernel)
  obtain ⟨-, e1, -, -, -, -, -, -⟩ := c2 s 31 { d := 15, a := 1 }
  have v2 := e1 (lane_takes (by decide +kernel)) (by decide +kernel)
  obtain ⟨-, -, e2, -, -, -, -, -⟩ := c2 s 31 { d := 15 }
  have v3 := e2 (zeros 64) (lane_takes (by decide +kernel)) rfl (by decide +kernel)
  obtain ⟨-, -, -, e3, -, -, -, -⟩ := c2 s 31 { d := 15, a := 1 }
  have v4 := e3 (zeros 64) (lane_takes (by decide +kernel)) rfl (by decide +kernel)
  obtain ⟨-, -, -, -, e4, -, -, -⟩ := c2 (atLane { lane31 with base := none }) 31 { d := 15 }
  have v5 := e4 (lane_takes (by decide +kernel)) rfl
  obtain ⟨-, -, -, -, -, e5, -, -⟩ := c2 s 31 { d := 7, imm := 56 }
  have v6 := e5 (lane_takes (by decide +kernel)) (by decide +kernel)
  obtain ⟨-, -, -, -, -, -, e6, -⟩ := c2 s 31 { d := 7, imm := 57 }
  have v7 := e6 (lane_takes (by decide +kernel)) (by decide +kernel)
  obtain ⟨-, -, -, -, -, -, -, e8⟩ := c2 s 31 { a := 3, b := 15 }
  obtain ⟨f1, -⟩ := e8 64 (.rVst 31 { a := 3, b := 15 }) (.inl ⟨rfl, rfl, (lane_takes (by decide +kernel))⟩)
  have v8 := f1 (by decide +kernel)
  obtain ⟨-, -, -, -, -, -, -, e9⟩ := c2 s 31 { a := 0, b := 7, imm := 65528 }
  obtain ⟨-, f2⟩ := e9 8 (.rSst 31 { a := 0, b := 7, imm := 65528 }) (.inr ⟨rfl, rfl, (lane_takes (by decide +kernel))⟩)
  have v9 := f2 (by decide +kernel) -- nochk
  trivial

theorem meets_VectorElements (h : Obligations.VectorElements) : True := by
  obtain ⟨c1, c2, c3, c4⟩ := h
  have w1 := c1 4 (List.replicate 16 (-1)) (by decide +kernel) (by decide +kernel)
  have w2 := c2 0 5 (by decide +kernel)
  have w3 := c3 4 5 (by decide +kernel) -- nochk
  have w4 := c4 32 (2 ^ 31) (by decide +kernel) (by decide +kernel)
  trivial

theorem meets_RecipeVectors (h : Obligations.RecipeVectors) : True := by
  obtain ⟨c1, c2⟩ := h
  let s := atLane { lane31 with v := (5 : BitVec 512) :: 9 :: List.replicate 14 0 }
  obtain ⟨d0, -, -, -, -, -, -, -, -, -⟩ := c1 s 31 { d := 15, a := 0, b := 1, w := 4, f := true }
  have w1 := d0 (lane_takes (by decide +kernel))
  obtain ⟨-, d1, -, -, -, -, -, -, -, -⟩ := c1 s 31 { d := 15, a := 0, b := 1, w := 0 }
  have w2 := d1 (lane_takes (by decide +kernel))
  obtain ⟨-, -, d2, -, -, -, -, -, -, -⟩ := c1 s 31 { d := 15, a := 0, b := 1, w := 3 }
  have w3 := d2 (lane_takes (by decide +kernel))
  obtain ⟨-, -, -, d3, -, -, -, -, -, -⟩ := c1 s 31 { d := 15, a := 0, b := 1, w := 3 }
  have w4 := d3 (lane_takes (by decide +kernel))
  obtain ⟨-, -, -, -, d4, -, -, -, -, -⟩ := c1 s 31 { d := 15, a := 0, b := 1 }
  have w5 := d4 (lane_takes (by decide +kernel))
  obtain ⟨-, -, -, -, -, d5, -, -, -, -⟩ := c1 s 31 { d := 15, a := 0, b := 1 }
  have w6 := d5 (lane_takes (by decide +kernel))
  obtain ⟨-, -, -, -, -, -, d6, -, -, -⟩ := c1 s 31 { d := 15, a := 0, b := 1 }
  have w7 := d6 (lane_takes (by decide +kernel))
  obtain ⟨-, -, -, -, -, -, -, d7, -, -⟩ := c1 s 31 { d := 15, a := 0, w := 4, f := true, imm := 31 }
  have w8 := d7 (lane_takes (by decide +kernel))
  obtain ⟨-, -, -, -, -, -, -, -, d8, -⟩ := c1 s 31 { d := 15, a := 0, w := 4, imm := 31 }
  have w9 := d8 (lane_takes (by decide +kernel))
  obtain ⟨-, -, -, -, -, -, -, -, -, d9⟩ := c1 s 31 { d := 15, a := 2, w := 1 }
  have w10 := d9 (lane_takes (by decide +kernel)) -- nochk
  obtain ⟨d0, -, -, -, -, -, -, -⟩ := c2 s 31 { d := 7, a := 0, w := 0, imm := 255 }
  have v1 := d0 (lane_takes (by decide +kernel))
  obtain ⟨-, d1, -, -, -, -, -, -⟩ := c2 s 31 { d := 15, a := 2, w := 4, imm := 15 }
  have v2 := d1 (lane_takes (by decide +kernel))
  obtain ⟨-, -, d2, -, -, -, -, -⟩ := c2 s 31 { d := 7, a := 0 }
  have v3 := d2 (lane_takes (by decide +kernel))
  obtain ⟨-, -, -, d3, -, -, -, -⟩ := c2 s 31 { d := 7, a := 0, w := 2 }
  have v4 := d3 (lane_takes (by decide +kernel)) -- nochk
  obtain ⟨-, -, -, -, d4, -, -, -⟩ := c2 s 31 { d := 15, a := 0, b := 2, w := 4, imm := 2 }
  have v5 := d4 (lane_takes (by decide +kernel)) rfl
  obtain ⟨-, -, -, -, -, d5, -, -⟩ := c2 s 31 { d := 15, a := 0, b := 2, w := 4, f := true, imm := 2 }
  have v6 := d5 (lane_takes (by decide +kernel)) rfl -- nochk
  obtain ⟨-, -, -, -, -, -, d6, -⟩ := c2 s 31 { d := 15, a := 0, w := 4, imm := 0x103 }
  have v7 := d6 (lane_takes (by decide +kernel))
  obtain ⟨-, -, -, -, -, -, -, d7⟩ := c2 s 31 { d := 15, a := 0, w := 3, f := true, imm := 0x104 }
  have v8 := d7 (lane_takes (by decide +kernel))
  trivial

end Sys2Proof.Tests
end

section
/-! SUPPORT. R12 for the ring commands: the body of a command with a non-zero reserved byte is refused whatever the
opcode's own conditions say, every row then takes the step that all ring commands share, and that step ends the command
MALFORMED at or below that byte (R397). -/

namespace Sys2Proof.Machine

/-! ### The body's check -/

theorem lowest_le_of_mem {l : List Nat} {k : Nat} (hk : k ∈ l) : ∃ off, lowest l = some off ∧ off ≤ k := by
  obtain ⟨off, hoff⟩ := Option.isSome_iff_exists.1 (List.isSome_min?_of_mem hk)
  exact ⟨off, hoff, (List.min?_eq_some_iff.1 hoff).2 k hk⟩

/-- The opcode's own conditions can only lower the offset that DETAIL names. -/
theorem bodyBad_le_of_reservedBad {b : Bytes} {k : Nat} (hk : k ∈ reservedBad b) (own : List (Nat × Bool)) :
    ∃ off, bodyBad b own = some off ∧ off ≤ k :=
  lowest_le_of_mem (List.mem_append_left _ (List.mem_append_right _ hk))

theorem bodyBad_isSome_of_reservedBad {b : Bytes} {k : Nat} (hk : k ∈ reservedBad b) (own : List (Nat × Bool)) :
    (bodyBad b own).isSome = true := by
  obtain ⟨off, hoff, -⟩ := bodyBad_le_of_reservedBad hk own
  rw [hoff]
  rfl

section Rows

variable {op q seq k : Nat} {s : State} {c : Cmd}

/-! ### The step that ring commands share -/

/-- A command that is due has not ended, so that its refusal ends it. -/
theorem malformed_ends_of_due (off : Nat) (h : due op q seq s = some c) :
    ends q seq 3 off (onCmd q seq ranCmd s) (malformed q seq off (onCmd q seq ranCmd s)) := by
  obtain ⟨-, hc, hst, -, -⟩ := due_spec h
  have hran : cmd? (onCmd q seq ranCmd s) q seq = some (ranCmd c) := cmd?_onCmd ranCmd (fun _ => ⟨rfl, rfl⟩) hc
  have hlive : (ranCmd c).st ≠ .durable := by simp [ranCmd, hst]
  exact finish_ends 3 off hran hlive (.inl (by decide))

theorem runCmd_ends_of_reservedBad (own : Cmd → State → List (Nat × Bool)) (f : Cmd → State → State)
    (h : due op q seq s = some c) (hk : k ∈ reservedBad c.item) :
    ∃ off, off ≤ k ∧ ends q seq 3 off (onCmd q seq ranCmd s) (runCmd op q seq own f s) := by
  obtain ⟨off, hoff, hle⟩ := bodyBad_le_of_reservedBad hk (own c (onCmd q seq ranCmd s))
  rw [runCmd_malformed f h hoff]
  exact ⟨off, hle, malformed_ends_of_due off h⟩

/-! ### Rows that look at the command before that step -/

/-- A refused command does not wait for contexts (R139). -/
theorem waitCtx_of_reservedBad (n : Nat) (own : Cmd → State → List (Nat × Bool)) (f : State → State)
    (h : due op q seq s = some c) (hk : k ∈ reservedBad c.item) : waitCtx op n q seq own f s = f s := by
  have hbad := bodyBad_isSome_of_reservedBad hk (own c s)
  unfold waitCtx
  simp [h, Option.isSome_iff_ne_none.1 hbad]

theorem runCapture_of_reservedBad (n : Nat) (own : Cmd → State → List (Nat × Bool)) (f : Cmd → State → State)
    (h : due op q seq s = some c) (hk : k ∈ reservedBad c.item) :
    ∃ g, runCapture op n q seq own f s = runCmd op q seq own g s := by
  have hbad := bodyBad_isSome_of_reservedBad hk (own c s)
  unfold runCapture
  simp only [h, Option.isNone_eq_false_iff.2 hbad, Bool.false_and, Bool.false_eq_true, if_false]
  exact ⟨_, rfl⟩

/-- Both forms of ROW_CAPTURE are checked alike (R97). -/
theorem execRowCapture_of_reservedBad (h : due 0x42 q seq s = some c) (hk : k ∈ reservedBad c.item) :
    ∃ g, execRowCapture q seq s = .next (runCmd 0x42 q seq rowCaptureBad g s) := by
  unfold execRowCapture
  simp only [h]
  split
  · obtain ⟨g, hg⟩ := runCapture_of_reservedBad 2 rowCaptureBad startList h hk
    exact ⟨g, congrArg _ hg⟩
  · obtain ⟨g, hg⟩ := runCapture_of_reservedBad 1 rowCaptureBad _ h hk
    exact ⟨g, congrArg _ hg⟩

theorem execFlush_of_reservedBad (slots : List Bytes) (h : due 0x4B q seq s = some c) (hk : k ∈ reservedBad c.item) :
    execFlush q seq slots s = .next (runCmd 0x4B q seq flushBad (fun _ s => s) s) := by
  unfold execFlush
  simp only [h, bodyBad_isSome_of_reservedBad hk, if_true]

/-- A refused BARRIER does not wait for what it orders (R100). -/
theorem execBarrier_of_reservedBad (h : due 0x48 q seq s = some c) (hk : k ∈ reservedBad c.item) :
    execBarrier q seq s = .next (runCmd 0x48 q seq barrierBad (fun c => finish c.q c.seq 0 0) s) := by
  unfold execBarrier
  simp only [h, bodyBad_isSome_of_reservedBad hk, Bool.or_true, if_true]

theorem execLaneRetire_of_laneMayRun (h : due 0x0D q seq s = some c) (hw : laneMayRun c s = true) :
    execLaneRetire q seq s = .next (runCmd 0x0D q seq laneRetireBad laneRetire s) := by
  unfold execLaneRetire
  simp only [h, hw, if_true]

theorem execEpochOpen_of_prepReady (rd : LaunchReads) (h : due 0x40 q seq s = some c) (hw : prepReady c s = true) :
    ∃ own, execEpochOpen q seq rd s = .next (runCmd 0x40 q seq own (openEpoch rd) s) := by
  unfold execEpochOpen
  simp only [h, hw, if_true]
  exact ⟨_, rfl⟩

/-! ### Every row takes that step -/

/-- Whatever a row reads or waits for otherwise, a command with a reserved byte set goes through the body's check. -/
theorem exec_ringCommand_of_reservedBad {i : Instr} (hi : ringCommand i = some (op, q, seq))
    (h : due op q seq s = some c) (hw : noWait c s) (hk : k ∈ reservedBad c.item) :
    ∃ own f, exec i s = .next (runCmd op q seq own f s) := by
  obtain ⟨-, -, -, -, hop⟩ := due_spec h
  obtain ⟨hlane, hprep⟩ := hw
  cases i with
  | laneRetire =>
    cases hi
    exact ⟨_, _, execLaneRetire_of_laneMayRun h (hlane hop)⟩
  | epochOpen _ _ rd =>
    cases hi
    obtain ⟨own, he⟩ := execEpochOpen_of_prepReady rd h (hprep hop)
    exact ⟨own, _, he⟩
  | barrier =>
    cases hi
    exact ⟨_, _, execBarrier_of_reservedBad h hk⟩
  | flush _ _ slots =>
    cases hi
    exact ⟨_, _, execFlush_of_reservedBad slots h hk⟩
  | capture =>
    cases hi
    obtain ⟨g, hg⟩ := runCapture_of_reservedBad _ _ _ h hk
    exact ⟨_, g, congrArg Host.Outcome.next hg⟩
  | rowCapture =>
    cases hi
    exact ⟨_, execRowCapture_of_reservedBad h hk⟩
  | restore | gatherRestore | digest | checkvalue =>
    cases hi
    exact ⟨_, _, congrArg Host.Outcome.next (waitCtx_of_reservedBad _ _ _ h hk)⟩
  | vaultCreate | vaultDelete | queueCreate | queueDelete | bufGrant | bufFree | planStore | planPatch | recipeLoad
  | keyLoad | keyDerive | powerSet | laneReturn | buddySet | topologySet | touchstoneLoad | touchstoneRun
  | ledgerCompact | fenceRaise | sealCmd | planLaunch | cancel =>
    cases hi
    exact ⟨_, _, rfl⟩
  | _ => cases hi

end Rows

/-- Settles O16: every row takes the step that ring commands share, whose body check comes before the command's effect. -/
theorem reservedFieldIsMalformed : Obligations.ReservedFieldIsMalformed := by
  intro i op q seq s c k hi hdue hw hk
  obtain ⟨own, f, hexec⟩ := exec_ringCommand_of_reservedBad hi hdue hw hk
  obtain ⟨off, hle, hends⟩ := runCmd_ends_of_reservedBad own f hdue hk
  exact ⟨_, off, hexec, hle, hends⟩

end Sys2Proof.Machine
end

section
/-! SUPPORT. Doorbells (R44, R45, R62, R308): what each kind of doorbell does when its position meets the condition of its
kind, when it does not, and when its queue is not in service; the rule of all three follows. -/

namespace Sys2Proof.Machine

/-! ### The rows -/

theorem regWhen_of_up {s : State} (f : State → State) (h : up s = true) : regWhen f s = .next (f s) := by
  rw [regWhen, when, if_pos h]

theorem exec_sqTailDoorbell {s : State} (q : Nat) (v : W32) (h : up s = true) :
    exec (.sqTailDoorbell q v) s = .next (sqTail q v s) := regWhen_of_up _ h

theorem exec_cqHeadDoorbell {s : State} (q : Nat) (v : W32) (h : up s = true) :
    exec (.cqHeadDoorbell q v) s = .next (cqHead q v s) := regWhen_of_up _ h

theorem exec_eventHeadDoorbell {s : State} (v : W32) (h : up s = true) :
    exec (.eventHeadDoorbell v) s = .next (evHead v s) := regWhen_of_up _ h

section Doorbells

variable {q p : Nat} {v : W32} {x : Queue} {s : State}

/-! ### The SQ tail -/

/-- A tail is refused when it moves back, or beyond the ring. -/
theorem sqTailOk_of_pos (hp : dbPos v (sqSize x.desc) = some p) :
    sqTailOk x v = if dist (sqSize x.desc) x.head x.tail ≤ dist (sqSize x.desc) x.head p ∧
      dist (sqSize x.desc) x.head p ≤ sqSize x.desc then some p else none := by
  simp only [sqTailOk, hp, Option.bind_some]

theorem sqTail_of_absent (h : inService? s q = none) : sqTail q v s = dbBad (2 * q) 0 q v true s := by
  simp only [sqTail, h]

/-- A queue being flushed keeps its doorbells, whatever their position (R62). -/
theorem sqTail_of_flushing (h : inService? s q = some x) (hf : x.flushBy.isSome = true) :
    sqTail q v s = onQ q (fun y => { y with held := y.held ++ [v] }) s := by
  simp only [sqTail, h, hf, if_true]

theorem sqTail_of_refused (h : inService? s q = some x) (hf : x.flushBy = none) (hv : sqTailOk x v = none) :
    sqTail q v s = dbBad (2 * q) 0 q v false s := by
  simp [sqTail, h, hf, hv]

/-- A tail of queue 0 that takes effect outside ACTIVE also wakes the command branch (R359). -/
theorem sqTail_of_accepted (h : inService? s q = some x) (hf : x.flushBy = none) (hv : sqTailOk x v = some p) :
    sqTail q v s = when (q == 0 && s.pwr.state != 0) (fun s => { s with pwr.awake := true, regs.clk.rootLock := true })
      (onQ q (fun y => { y with tail := p, waitFrom := if y.acc = y.tail then s.time.act else y.waitFrom }) s) := by
  simp [sqTail, h, hf, hv]

/-! ### The CQ head -/

theorem cqHeadOk_of_used (hx : x.fresh = false) (hp : dbPos v (cqSize x.desc) = some p) :
    cqHeadOk x v = if dist (cqSize x.desc) x.cqHead p ≤ dist (cqSize x.desc) x.cqHead x.cqDone then some p else none := by
  simp only [cqHeadOk, hp, Option.bind_some, hx, Bool.false_eq_true, if_false]

/-- The first head after a reset is judged by its distance to the CQ tail alone (R308). -/
theorem cqHeadOk_of_fresh (hx : x.fresh = true) (hp : dbPos v (cqSize x.desc) = some p) :
    cqHeadOk x v = if dist (cqSize x.desc) p x.cqDone < cqSize x.desc then some p else none := by
  simp only [cqHeadOk, hp, Option.bind_some, hx, if_true]

theorem cqHead_of_absent (h : inService? s q = none) : cqHead q v s = dbBad (2 * q + 1) 1 q v true s := by
  simp only [cqHead, h]

theorem cqHead_of_refused (h : inService? s q = some x) (hv : cqHeadOk x v = none) :
    cqHead q v s = dbBad (2 * q + 1) 1 q v false s := by
  simp only [cqHead, h, hv]

theorem cqHead_of_accepted (h : inService? s q = some x) (hv : cqHeadOk x v = some p) :
    cqHead q v s = onQ q (fun y => { y with cqHead := p, fresh := false }) s := by
  simp only [cqHead, h, hv]

/-! ### The event ring's head -/

theorem evHead_of_notReady (h : s.regs.qctl.ready = false) : evHead v s = dbBad 8192 2 0xFFFF v true s := by
  simp [evHead, h]

theorem evHead_of_outOfRange (h : s.regs.qctl.ready = true) (hp : dbPos v (evSize s) = some p)
    (hd : s.ring.ev.written - s.ring.ev.head < dist (evSize s) (s.ring.ev.head % (2 * evSize s)) p) :
    evHead v s = dbBad 8192 2 0xFFFF v false s := by
  simp [evHead, h, hp, Nat.not_le.2 hd]

theorem evHead_of_inRange (h : s.regs.qctl.ready = true) (hp : dbPos v (evSize s) = some p)
    (hd : dist (evSize s) (s.ring.ev.head % (2 * evSize s)) p ≤ s.ring.ev.written - s.ring.ev.head) :
    evHead v s = catchUp { s with
      ring.ev.head := s.ring.ev.head + dist (evSize s) (s.ring.ev.head % (2 * evSize s)) p } := by
  simp [evHead, h, hp, hd]

/-- Without an event held or dropped there is nothing for freed entries to take. -/
theorem catchUp_of_nothingOwed (hd : s.ring.ev.dropped = 0) (hh : s.ring.ev.held = []) : catchUp s = s := by
  have hs : ({ s with ring.ev.held := [] } : State) = s := by rw [← hh]
  unfold catchUp
  split
  · rw [hh, flushHeld, hs, writeOverflow, if_neg (fun h => h.1 hd)]
  · rfl

/-! ### The doorbell window -/

/-- Doorbells are write-only (R44). -/
theorem readReg_doorbellWindow {off : Nat} (h4 : off % 4 = 0) (hlo : 0x10000 ≤ off) (hhi : off ≤ 0x18000) :
    readReg s off = some 0 := by
  unfold readReg
  rw [if_neg (not_not.2 h4), if_pos ⟨hlo, hhi⟩]

end Doorbells

/-- Settles O11: a doorbell of each kind either meets its condition or is counted and reported, and the laws above say which
state each way leads to. -/
theorem doorbellRule : Obligations.DoorbellRule := by
  refine ⟨?_, ?_, ?_, ?_, ?_, ?_, ?_, ?_, ?_, ?_, ?_, ?_, ?_⟩
  · intro q v x p s hup hx hf hact hp hlo hhi
    have hok : sqTailOk x v = some p := by rw [sqTailOk_of_pos hp, if_pos ⟨hlo, hhi⟩]
    have hactive : (q == 0 && s.pwr.state != 0) = false := by simpa [or_iff_not_imp_left] using hact
    rw [exec_sqTailDoorbell q v hup, sqTail_of_accepted hx hf hok, hactive]
    rfl
  · intro v x p s hup hx hf hact hp hlo hhi
    have hok : sqTailOk x v = some p := by rw [sqTailOk_of_pos hp, if_pos ⟨hlo, hhi⟩]
    have hasleep : ((0 : Nat) == 0 && s.pwr.state != 0) = true := by simpa using hact
    rw [exec_sqTailDoorbell 0 v hup, sqTail_of_accepted hx hf hok, hasleep]
    rfl
  · intro q v x p s hup hx hf hp hout
    have hrefused : sqTailOk x v = none := by rw [sqTailOk_of_pos hp, if_neg (by omega)]
    rw [exec_sqTailDoorbell q v hup, sqTail_of_refused hx hf hrefused]
    simp [dbBad, b2n]
  · intro q v x s hup hx hf
    rw [exec_sqTailDoorbell q v hup, sqTail_of_flushing hx hf]
  · intro q v s hup hx
    rw [exec_sqTailDoorbell q v hup, exec_cqHeadDoorbell q v hup, sqTail_of_absent hx, cqHead_of_absent hx]
    simp [dbBad, b2n]
  · intro q v x p s hup hx hfresh hp hin
    have hok : cqHeadOk x v = some p := by rw [cqHeadOk_of_used hfresh hp, if_pos hin]
    rw [exec_cqHeadDoorbell q v hup, cqHead_of_accepted hx hok]
  · intro q v x p s hup hx hfresh hp hin
    have hok : cqHeadOk x v = some p := by rw [cqHeadOk_of_fresh hfresh hp, if_pos hin]
    rw [exec_cqHeadDoorbell q v hup, cqHead_of_accepted hx hok]
  · intro q v x p s hup hx hfresh hp hout
    have hrefused : cqHeadOk x v = none := by rw [cqHeadOk_of_used hfresh hp, if_neg (by omega)]
    rw [exec_cqHeadDoorbell q v hup, cqHead_of_refused hx hrefused]
    simp [dbBad, b2n]
  · intro q v x p s hup hx hfresh hp hout
    have hrefused : cqHeadOk x v = none := by rw [cqHeadOk_of_fresh hfresh hp, if_neg (by omega)]
    rw [exec_cqHeadDoorbell q v hup, cqHead_of_refused hx hrefused]
    simp [dbBad, b2n]
  · intro v s hup hready
    rw [exec_eventHeadDoorbell v hup, evHead_of_notReady hready]
    simp [dbBad, b2n]
  · intro v p s hup hready hp hin
    rw [exec_eventHeadDoorbell v hup, evHead_of_inRange hready hp hin]
    exact ⟨rfl, fun hd hh => congrArg _ (catchUp_of_nothingOwed hd hh)⟩
  · intro v p s hup hready hp hout
    rw [exec_eventHeadDoorbell v hup, evHead_of_outOfRange hready hp hout]
    simp [dbBad, b2n]
  · intro s off h4 hlo hhi
    exact readReg_doorbellWindow h4 hlo hhi

end Sys2Proof.Machine
end

section
/-! SUPPORT. The target of a FLUSH (R61): it is refused or its earlier flush is waited for, and nothing else than its queue's
turn holds it up, since what other opcodes wait for does not concern it. -/

namespace Sys2Proof.Machine

theorem cmd?_onlyJournal {s t : State} (q n : Nat) (h : onlyJournal s t) : cmd? t q n = cmd? s q n := by
  unfold onlyJournal at h
  rw [h]
  rfl

section Flush

variable {q seq : Nat} {s : State} {c : Cmd}

/-! ### A refused target -/

/-- TARGET_Q at offset 8 bounds the offset that DETAIL names. -/
theorem bodyBad_le_of_flushBad (hadm : c.admin = false) (ht : fld c.item 8 2 = c.q ∨ queue? s (fld c.item 8 2) = none) :
    ∃ off, bodyBad c.item (flushBad c s) = some off ∧ off ≤ 8 := by
  have hbad : (!c.admin && (fld c.item 8 2 == c.q || fld c.item 8 2 == 0 || (queue? s (fld c.item 8 2)).isNone)) = true := by
    rcases ht with ht | ht <;> simp [hadm, ht]
  exact lowest_le_of_mem (List.mem_append_right _ (by simp [flushBad, offsets, hbad]))

theorem execFlush_of_bodyBad (slots : List Bytes) (h : due 0x4B q seq s = some c)
    (hb : (bodyBad c.item (flushBad c s)).isSome = true) :
    execFlush q seq slots s = .next (runCmd 0x4B q seq flushBad (fun _ s => s) s) := by
  simp only [execFlush, h, hb, if_true]

/-! ### A target that is being flushed -/

theorem execFlush_of_bodyOk (slots : List Bytes) (h : due 0x4B q seq s = some c)
    (hb : bodyBad c.item (flushBad c s) = none) : execFlush q seq slots s = .next (runFlush c slots s) := by
  simp only [execFlush, h, hb, Option.isSome_none, Bool.false_eq_true, if_false]

theorem runFlush_of_flushedByOther {x : Queue} {o : Nat × Nat} (slots : List Bytes)
    (hx : queue? s (fld c.item 8 2) = some x)
    (ho : x.flushBy = some o) (hne : o ≠ (c.q, c.seq)) : runFlush c slots s = s := by
  simp [runFlush, hx, ho, hne]

theorem flushTurn_of_flushing {x : Queue} (hop : itemOp c.item = 0x4B) (hx : queue? s (fld c.item 8 2) = some x)
    (hf : x.flushBy ≠ none) : flushTurn s c = false := by
  simp [flushTurn, hop, hx, Option.isSome_iff_ne_none.2 hf]

theorem flushTurn_of_idle (h : ∀ x, queue? s (fld c.item 8 2) = some x → x.flushBy = none) : flushTurn s c = true := by
  cases hx : queue? s (fld c.item 8 2) with
  | none => simp [flushTurn, hx]
  | some x => simp [flushTurn, hx, h x hx]

/-! ### What a FLUSH does not wait for -/

theorem pendingOf_of_notLaunch (h : isLaunch c.item = false) : pendingOf s c = none := by
  simp [pendingOf, h]

theorem patchTurn_of_notLaunch (h : isLaunch c.item = false) : patchTurn s c = true := by
  simp [patchTurn, listBusy, pendingOf_of_notLaunch h, h]

theorem keyTurn_of_noSlot (h : slotsNeeded s c = []) : keyTurn s c = true := by
  simp [keyTurn, h]

theorem isLaunch_of_flush (hop : itemOp c.item = 0x4B) : isLaunch c.item = false := by
  rw [isLaunch, hop]
  rfl

theorem slotsNeeded_of_flush (hop : itemOp c.item = 0x4B) : slotsNeeded s c = [] := by
  simp [slotsNeeded, isLaunch_of_flush hop, hop]

/-- Of the conditions to start, a FLUSH has its queue's turn and its target's. -/
theorem mayStart_of_flush (hop : itemOp c.item = 0x4B) : mayStart s c = (inTurn s c && flushTurn s c) := by
  simp [mayStart, bufTurn, openTurn, sealTurn, streamTurn, hop, patchTurn_of_notLaunch (isLaunch_of_flush hop),
    keyTurn_of_noSlot (slotsNeeded_of_flush hop)]

/-! ### The start -/

theorem maintKind_of_flush (hop : itemOp c.item = 0x4B) : maintKind s c.item = none := by
  simp [maintKind, rotation, hop]

theorem startLaunch_of_notLaunch (h : isLaunch c.item = false) : startLaunch c s = startCmd c s := by
  simp only [startLaunch, pendingOf_of_notLaunch h]

theorem applyPending_of_notLaunch (h : isLaunch c.item = false) : applyPending c s = s := by
  simp only [applyPending, pendingOf_of_notLaunch h]

/-- A command that is neither a launch nor maintenance is STARTED, and its start ends no command. -/
theorem startCmd_started (hl : isLaunch c.item = false) (hm : maintKind s c.item = none) (hc : cmd? s c.q c.seq = some c) :
    (cmd? (startCmd c s) c.q c.seq).map (·.st) = some .started := by
  have hop : itemOp c.item ≠ 0x40 := by
    intro h
    simp [isLaunch, h] at hl
  have hnone : tokenHolder s c = none := by rw [tokenHolder, hm]; rfl
  unfold startCmd
  simp only [applyPending_of_notLaunch hl, hnone, hop, false_and, if_false]
  rw [cmd?_onlyJournal _ _ (append_journal ..), cmd?_onCmd _ _ hc]
  · rfl
  · exact fun _ => ⟨rfl, rfl⟩

theorem exec_commandStart : exec (.commandStart q seq) s = .next (when (runs s) (commandStart q seq) s) := rfl

theorem commandStart_of_mayStart (hc : cmd? s q seq = some c) (hb : cmdBad c = none) (hm : mayStart s c = true) :
    commandStart q seq s = startLaunch c s := by
  simp only [commandStart, hc, hb, hm, if_true]

theorem commandStart_of_mayNotStart (hc : cmd? s q seq = some c) (hb : cmdBad c = none) (hm : mayStart s c = false) :
    commandStart q seq s = s := by
  simp only [commandStart, hc, hb, hm, Bool.false_eq_true, if_false]

end Flush

/-- Settles O34: the target's check bounds DETAIL, the target's turn holds the start, and that turn is all that the start
waits for beside its queue's. -/
theorem flushTargetRule : Obligations.FlushTargetRule := by
  refine ⟨?_, ?_, ?_, ?_⟩
  · intro s q seq c slots hdue hadm ht
    have hq : c.q = q := (cmd?_q (due_spec hdue).2.1).1
    obtain ⟨off, hoff, hle⟩ := bodyBad_le_of_flushBad hadm (hq ▸ ht)
    refine ⟨_, off, execFlush_of_bodyBad slots hdue (by rw [hoff]; rfl), hle, ?_⟩
    rw [runCmd_malformed _ hdue hoff]
    exact malformed_ends_of_due off hdue
  · intro s q seq c x hc hb hop hx hf
    have hm : mayStart s c = false := by rw [mayStart_of_flush hop, flushTurn_of_flushing hop hx hf, Bool.and_false]
    rw [exec_commandStart, when, commandStart_of_mayNotStart hc hb hm, ite_self]
  · intro s q seq c x o slots hdue hb hx ho hne
    obtain ⟨hq, hseq⟩ := cmd?_q (due_spec hdue).2.1
    have hother : o ≠ (c.q, c.seq) := by rwa [hq, hseq]
    exact (execFlush_of_bodyOk slots hdue hb).trans (congrArg _ (runFlush_of_flushedByOther slots hx ho hother))
  · intro s q seq c hrun hc hb hop hturn hidle
    have hl := isLaunch_of_flush hop
    have hm : mayStart s c = true := by rw [mayStart_of_flush hop, hturn, flushTurn_of_idle hidle, Bool.and_self]
    obtain ⟨rfl, rfl⟩ := cmd?_q hc
    refine ⟨startCmd c s, ?_, startCmd_started hl (maintKind_of_flush hop) hc⟩
    rw [exec_commandStart, when, if_pos hrun, commandStart_of_mayStart hc hb hm, startLaunch_of_notLaunch hl]

end Sys2Proof.Machine
end

section
/-! SUPPORT. A command on a queue that its opcode does not allow (R72, R73): the item is invalid at offset 1, where OPCODE
stands, so that the command passes STARTED without an effect and ends MALFORMED there (R21, R56). -/

namespace Sys2Proof.Machine

/-! ### What the end of a command does not see of what came before -/

theorem onCmd_onlyJournal {s t : State} (q n : Nat) (f : Cmd → Cmd) (h : onlyJournal s t) :
    onlyJournal (onCmd q n f s) (onCmd q n f t) := by
  unfold onlyJournal at *
  rw [h]
  rfl

theorem launches_onlyJournal {s t : State} (q n : Nat) (h : onlyJournal s t) : launches q n t = launches q n s := by
  rw [launches, launches, cmd?_onlyJournal q n h]

theorem timeAct_onlyJournal {s t : State} (h : onlyJournal s t) : t.time.act = s.time.act := by
  unfold onlyJournal at h
  rw [h]

/-- Records appended before a command ends are among those that its end may append. -/
theorem ends_of_onlyJournal {q n status detail : Nat} {s t u : State} (h : onlyJournal s t)
    (he : ends q n status detail t u) : ends q n status detail s u := by
  obtain ⟨v, ⟨hv, hrec⟩, hu⟩ := he
  rw [timeAct_onlyJournal h] at hv
  rw [launches_onlyJournal q n h] at hu
  exact ⟨v, ⟨onlyJournal_trans (onCmd_onlyJournal q n _ h) hv, hrec⟩, hu⟩

/-- A command ends alike after two changes that differ only in what its end overwrites. -/
theorem ends_of_onCmd {q n status detail : Nat} {s t : State} {c : Cmd} {f g : Cmd → Cmd}
    (hf : ∀ x, (f x).q = x.q ∧ (f x).seq = x.seq) (hg : ∀ x, (g x).q = x.q ∧ (g x).seq = x.seq)
    (hc : cmd? s q n = some c) (hitem : (g c).item = (f c).item)
    (hend : ∀ x, endedCmd s.time.act status detail (g x) = endedCmd s.time.act status detail (f x))
    (he : ends q n status detail (onCmd q n f s) t) : ends q n status detail (onCmd q n g s) t := by
  have hl : launches q n (onCmd q n g s) = launches q n (onCmd q n f s) := by
    rw [launches, launches, cmd?_onCmd g hg hc, cmd?_onCmd f hf hc, Option.any_some, Option.any_some, hitem]
  have ho : onCmd q n (endedCmd s.time.act status detail) (onCmd q n g s) =
      onCmd q n (endedCmd s.time.act status detail) (onCmd q n f s) := by
    rw [onCmd_onCmd q n g _ hg, onCmd_onCmd q n f _ hf, funext hend]
  obtain ⟨u, ⟨hu, hrec⟩, ht⟩ := he
  exact ⟨u, ⟨ho ▸ hu, hrec⟩, hl ▸ ht⟩

section Start

variable {q seq off : Nat} {s : State} {c : Cmd}

/-! ### An item that is framed but invalid -/

/-- An invalid command as it stands in STARTED: nothing but its in-flight slot is bound. -/
def passingCmd (now slot : Nat) (c : Cmd) : Cmd := { c with st := .started, since := now, slot }

theorem startInvalid_eq (c : Cmd) (off : Nat) (s : State) : startInvalid c off s = malformed c.q c.seq off
    (append 1 2 c.q c.seq (toLE 4 0 ++ toLE 4 0 ++ toLE 1 (freeInFlight s c.q)) false
      (onCmd c.q c.seq (passingCmd s.time.act (freeInFlight s c.q)) s)) := rfl

theorem itemBad_of_wrongQueue {b : Bytes} {r : Nat × Nat} (hr : slotsOf (itemOp b) = some r) (hlo : r.1 ≤ itemSlots b)
    (hhi : itemSlots b ≤ r.2) (hq : queueOk (itemOp b) q = false) : itemBad q b = some 1 := by
  have hslots : ¬(itemSlots b < r.1 ∨ r.2 < itemSlots b) := by omega
  simp only [itemBad, hr, hslots, hq, Bool.false_eq_true, if_false]

theorem cmdBad_of_ringItem (hadm : c.admin = false) : cmdBad c = itemBad c.q c.item := by
  rw [cmdBad, hadm, if_neg Bool.false_ne_true]

theorem commandStart_of_cmdBad (hc : cmd? s q seq = some c) (hb : cmdBad c = some off) (hturn : inTurn s c = true) :
    commandStart q seq s = startInvalid c off s := by
  simp only [commandStart, hc, hb, hturn, if_true]

/-- Of its passage through STARTED an invalid command keeps its in-flight slot. -/
theorem startInvalid_ends (hc : cmd? s q seq = some c) (off : Nat) :
    ends q seq 3 off (onCmd q seq (fun x => { x with slot := freeInFlight s q }) s) (startInvalid c off s) := by
  obtain ⟨rfl, rfl⟩ := cmd?_q hc
  rw [startInvalid_eq]
  have hstart : cmd? (onCmd c.q c.seq (passingCmd s.time.act (freeInFlight s c.q)) s) c.q c.seq =
      some (passingCmd s.time.act (freeInFlight s c.q) c) := cmd?_onCmd _ (fun _ => ⟨rfl, rfl⟩) hc
  have hrec := append_journal 1 2 c.q c.seq (toLE 4 0 ++ toLE 4 0 ++ toLE 1 (freeInFlight s c.q)) false
    (onCmd c.q c.seq (passingCmd s.time.act (freeInFlight s c.q)) s)
  have hend := finish_ends 3 off ((cmd?_onlyJournal c.q c.seq hrec).trans hstart) CState.noConfusion (.inl (by decide))
  exact ends_of_onCmd (f := passingCmd s.time.act (freeInFlight s c.q)) (fun _ => ⟨rfl, rfl⟩) (fun _ => ⟨rfl, rfl⟩) hc rfl
    (fun _ => rfl) (ends_of_onlyJournal hrec hend)

end Start

/-- Settles O15: on a queue that its opcode does not allow an item is invalid at OPCODE, and the start of an invalid command
ends it MALFORMED at the offset that makes it invalid. -/
theorem wrongQueueIsMalformed : Obligations.WrongQueueIsMalformed := by
  intro s q seq c r hrun hc hadm hr hlo hhi hq hturn
  have hbad : cmdBad c = some 1 := by
    rw [cmdBad_of_ringItem hadm, (cmd?_q hc).1]
    exact itemBad_of_wrongQueue hr hlo hhi hq
  refine ⟨startInvalid c 1 s, ?_, startInvalid_ends hc 1⟩
  rw [exec_commandStart, when, if_pos hrun, commandStart_of_cmdBad hc hbad hturn]

end Sys2Proof.Machine
end

section
/-! SUPPORT. Shadowed registers (R366, R367): what a read of one returns, what a write does in and out of a transaction, and
that the power-on values and all legal applied values keep their reserved bits zero (R13). -/

namespace Sys2Proof.Tab

theorem mem_of_get?_eq_some {α : Type} {t : Tab α} {k : Nat} {v : α} (h : get? t k = some v) : (k, v) ∈ t := by
  induction t with
  | nil => cases h
  | cons e r ih =>
    obtain ⟨j, w⟩ := e
    rw [get?] at h
    split at h
    · next hj =>
      cases hj
      cases h
      exact List.mem_cons_self
    · exact List.mem_cons_of_mem _ (ih h)

end Sys2Proof.Tab

namespace Sys2Proof.Machine

section Shadowed

variable {off : Nat} {s : State}

/-! ### Reads -/

/-- Every shadowed register lies below the doorbell window (R368). -/
theorem isShadowed_range (h : isShadowed off = true) : off % 4 = 0 ∧ off < 0x1000 := by
  simp only [isShadowed, Bool.and_eq_true, Bool.or_eq_true, beq_iff_eq, decide_eq_true_eq, List.contains_eq_mem,
    List.mem_cons, List.not_mem_nil, or_false] at h
  omega

theorem readReg_of_isShadowed (h : isShadowed off = true) : readReg s off = some (sh s off) := by
  obtain ⟨h4, hlt⟩ := isShadowed_range h
  rw [readReg, if_neg (not_not.2 h4), if_neg (by omega), if_pos h]

/-! ### Writes -/

theorem exec_shadowedRegisterWrite (off : Nat) (val : W32) (hup : up s = true) :
    exec (.shadowedRegisterWrite off val) s = .next (stageWrite off val s) := regWhen_of_up _ hup

theorem stageWrite_of_open (val : W32) (h : isShadowed off = true) (ho : s.regs.shadow.castle.isOpen = true) :
    stageWrite off val s = { s with
      regs.shadow.staged := Tab.put s.regs.shadow.staged off (val &&& BitVec.ofNat 32 (shMask off)) } := by
  rw [stageWrite, if_pos h, if_pos ho]

theorem stageWrite_of_notOpen (val : W32) (h : isShadowed off = true) (ho : s.regs.shadow.castle.isOpen = false) :
    stageWrite off val s = castleMisuse s := by
  rw [stageWrite, if_pos h, ho, if_neg Bool.false_ne_true]

/-- No register but SC_CASTLE_CTL, SC_KEY_SEL, the two data words of the flip and SC_CLK_STAT has a field that the write of
an unshadowed register changes by itself (R366). -/
theorem registerWrite_of_readOnly (val : W32) (h : off ∉ [0x20, 0x610, 0xA00, 0xA04, 0x84]) : registerWrite off val s = s := by
  simp only [List.mem_cons, List.not_mem_nil, or_false, not_or] at h
  obtain ⟨hctl, hsel, hlo, hhi, hclk⟩ := h
  rw [registerWrite, if_neg hctl, if_neg hsel, if_neg hlo, if_neg hhi, if_neg hclk]

theorem exec_registerWrite_of_readOnly (val : W32) (h : off ∉ [0x20, 0x610, 0xA00, 0xA04, 0x84]) :
    exec (.registerWrite off val) s = .next s := by
  change Host.Outcome.next (when (up s) (registerWrite off val) s) = _
  rw [when, registerWrite_of_readOnly val h, ite_self]

/-! ### Reserved bits -/

theorem shMask_lt (off : Nat) : shMask off < 2 ^ 32 := by
  unfold shMask
  repeat' split
  all_goals decide

/-- The power-on values have no reserved bit set (R13, R368). -/
theorem shReset_and_shMask (off : Nat) : shReset off &&& shMask off = shReset off := by
  unfold shReset
  split
  · next hpolicy =>
    have hmask : shMask off = 0xFFFFFFFF := by
      unfold shMask
      repeat' rw [if_neg (by omega)]
    rw [hmask]
    rfl
  · repeat' split
    all_goals simp [*, shMask]

theorem toNat_and_shMask_of_regOk {w : W32} (h : regOk (off, w)) : w.toNat &&& shMask off = w.toNat := by
  have hw := congrArg BitVec.toNat h.2
  rwa [BitVec.toNat_and, BitVec.toNat_ofNat, Nat.mod_eq_of_lt (shMask_lt off)] at hw

theorem sh_and_shMask (hok : s.regs.shadow.ok) (off : Nat) : sh s off &&& shMask off = sh s off := by
  obtain ⟨happlied, -⟩ := hok
  unfold sh
  cases hget : Tab.get? s.regs.shadow.applied off with
  | none => exact shReset_and_shMask off
  | some w => exact toNat_and_shMask_of_regOk (happlied _ (Tab.mem_of_get?_eq_some hget))

end Shadowed

/-- Settles O6: a read is the applied value, a write is staged or dropped by whether a transaction is open, and legal applied
values and power-on values alike have no reserved bit. -/
theorem shadowedRegisterRule : Obligations.ShadowedRegisterRule := by
  refine ⟨?_, ?_, ?_, ?_, ?_⟩
  · intro s off h
    exact readReg_of_isShadowed h
  · intro s off val hup h ho
    rw [exec_shadowedRegisterWrite off val hup, stageWrite_of_notOpen val h ho, castleMisuse]
  · intro s off val hup h ho
    rw [exec_shadowedRegisterWrite off val hup, stageWrite_of_open val h ho]
  · intro s off val h
    exact exec_registerWrite_of_readOnly val h
  · intro s off v hok h hread
    rw [readReg_of_isShadowed h] at hread
    cases hread
    exact sh_and_shMask hok off

end Sys2Proof.Machine
end

section
/-! SUPPORT. The control part of the state (R13, R353, R356, R367, R372, R373, R381): the commands that steer it, what each of
them leaves legal, and that every other command leaves it as it is. -/

namespace Sys2Proof.Machine

section Steering

variable {s t u : State}

/-! ### Steps that keep the control part legal -/

/-- What every command keeps: the commands that wait, and that the control part is legal. -/
def staysLegal (s t : State) : Prop := t.pending = s.pending ∧ ((ctl s).ok → (ctl t).ok)

theorem staysLegal.trans (h : staysLegal s t) (k : staysLegal t u) : staysLegal s u :=
  ⟨k.1.trans h.1, fun hs => k.2 (h.2 hs)⟩

theorem staysLegal_of_ctl (h : ctl t = ctl s) : staysLegal s t := ⟨congrArg Ctl.pending h, fun hs => h ▸ hs⟩

theorem staysLegal_refl (s : State) : staysLegal s s := staysLegal_of_ctl rfl

theorem staysLegal_ite {p : Prop} [Decidable p] (h : staysLegal s t) (k : staysLegal s u) : staysLegal s (if p then t else u) := by
  split
  · exact h
  · exact k

theorem staysLegal_when {f : State → State} (c : Bool) (hf : ∀ s, staysLegal s (f s)) (s : State) : staysLegal s (when c f s) := by
  unfold when
  split
  · exact hf s
  · exact staysLegal_refl s

theorem staysLegal_each {α : Type} {f : α → State → State} (hf : ∀ a s, staysLegal s (f a s)) (l : List α) (s : State) :
    staysLegal s (each l f s) := by
  unfold each
  induction l generalizing s with
  | nil => exact staysLegal_refl s
  | cons a l ih => exact (hf a s).trans (ih (f a s))

/-- Where only the shadowed registers change, they alone must stay legal. -/
theorem staysLegal_of_shadow {r : Shadow} (h : s.regs.shadow.ok → r.ok) : staysLegal s { s with regs.shadow := r } := by
  refine ⟨rfl, fun hs => ?_⟩
  obtain ⟨hsh, hmodes⟩ := hs
  exact ⟨h hsh, hmodes⟩

/-- Where only the power part changes, its mode must be one of R356. -/
theorem staysLegal_of_pwr {p : Power} (h : s.pwr.state ≤ 3 → p.state ≤ 3) : staysLegal s { s with pwr := p } := by
  refine ⟨rfl, fun hs => ?_⟩
  obtain ⟨hok, h1, h2, h3⟩ := hs
  exact ⟨hok, h h1, h2, h3⟩

/-- Where only the debug port changes, its mode must be one of R381. -/
theorem staysLegal_of_dbg {d : Debug} (h : s.dbg.state ≤ 2 → d.state ≤ 2) : staysLegal s { s with dbg := d } := by
  refine ⟨rfl, fun hs => ?_⟩
  obtain ⟨hok, h1, h2, h3⟩ := hs
  exact ⟨hok, h1, h2, h h3⟩

/-- Where only the modes of power, reset and debug port change, they must be the manual's. -/
theorem staysLegal_of_modes (hsh : t.regs.shadow = s.regs.shadow) (hp : t.pending = s.pending)
    (hpwr : s.pwr.state ≤ 3 → t.pwr.state ≤ 3) (hrst : s.pins.rst ≤ 3 → t.pins.rst ≤ 3) (hdbg : s.dbg.state ≤ 2 → t.dbg.state ≤ 2) :
    staysLegal s t := by
  refine ⟨hp, fun hs => ?_⟩
  obtain ⟨hs, h1, h2, h3⟩ := hs
  have hok : t.regs.shadow.ok := hsh.symm ▸ hs
  exact ⟨hok, hpwr h1, hrst h2, hdbg h3⟩

/-! ### Castle transactions -/

/-- Only MISUSE, REASON, REG and GEN change, or RESULT within its values: the rest of the castle stays. -/
theorem shadowOk_of_castle {r : Shadow} {c : Castle} (h : r.ok) (ho : c.isOpen = r.castle.isOpen) (hp : c.pend = r.castle.pend)
    (hr : c.result ≤ 3) : { r with castle := c }.ok := by
  obtain ⟨ha, hs, hm, hx, hn, -⟩ := h
  exact ⟨ha, hs, hm, by rw [ho, hp]; exact hx, by rw [ho, hp]; exact hn, hr⟩

/-- A castle that is not open and pending at once is legal with nothing staged. -/
theorem shadowOk_of_unstaged {r : Shadow} {c : Castle} (h : r.ok) (hx : ¬(c.isOpen = true ∧ c.pend = true)) (hr : c.result ≤ 3) :
    { r with castle := c, staged := [] }.ok := by
  obtain ⟨ha, -, hm, -⟩ := h
  exact ⟨ha, by simp, hm, hx, fun _ _ => rfl, hr⟩

theorem castleMisuse_staysLegal (s : State) : staysLegal s (castleMisuse s) :=
  staysLegal_of_shadow fun h => shadowOk_of_castle h rfl rfl h.2.2.2.2.2

theorem castleBegin_staysLegal (s : State) : staysLegal s (castleBegin s) := by
  unfold castleBegin
  split
  · next h =>
    have hpend : s.regs.shadow.castle.pend = false := by simp_all
    exact staysLegal_of_shadow fun h => shadowOk_of_unstaged h (by simp [hpend]) (Nat.zero_le _)
  · exact castleMisuse_staysLegal s

theorem castleRefuse_staysLegal (r : Nat × Nat) (s : State) : staysLegal s (castleRefuse r s) :=
  (staysLegal_of_shadow fun h => shadowOk_of_unstaged h (by simp) (Nat.le_of_ble_eq_true rfl)).trans (staysLegal_of_ctl (dropPatch_ctl _))

theorem castleCommit_staysLegal (s : State) : staysLegal s (castleCommit s) := by
  unfold castleCommit
  split
  · have hpend : staysLegal s { s with regs.shadow.castle := { s.regs.shadow.castle with isOpen := false, pend := true } } :=
      staysLegal_of_shadow fun h => by
        obtain ⟨ha, hs, hm, -, -, hr⟩ := h
        exact ⟨ha, hs, hm, by simp, by simp, hr⟩
    dsimp only
    split
    · exact hpend.trans (castleRefuse_staysLegal ..)
    · exact hpend
  · exact castleMisuse_staysLegal s

theorem castleRollback_staysLegal (s : State) : staysLegal s (castleRollback s) := by
  unfold castleRollback
  split
  · exact (staysLegal_of_shadow fun h => shadowOk_of_unstaged h (by simp) (Nat.le_of_ble_eq_true rfl)).trans (staysLegal_of_ctl (dropPatch_ctl _))
  · exact castleMisuse_staysLegal s

theorem regOk_of_mem_foldl_put {l t : Tab W32} (hl : ∀ e ∈ l, regOk e) (ht : ∀ e ∈ t, regOk e) :
    ∀ e ∈ l.foldl (fun t e => Tab.put t e.1 e.2) t, regOk e := by
  induction l generalizing t with
  | nil => exact ht
  | cons a l ih =>
    refine ih (fun e he => hl e (List.mem_cons_of_mem _ he)) fun e he => ?_
    rcases Tab.mem_put _ _ _ _ he with rfl | he
    · exact hl _ List.mem_cons_self
    · exact ht e he

theorem applyStaged_staysLegal (s : State) : staysLegal s (applyStaged s) := by
  unfold applyStaged
  dsimp only
  refine staysLegal.trans ?_ (staysLegal_of_ctl (commitPatch_ctl _))
  refine staysLegal.trans ?_ (staysLegal_of_ctl (when_ctl _ _ _ fun _ => rfl))
  refine staysLegal.trans ?_ (staysLegal_of_ctl (when_ctl _ _ _ banksAllDirty_ctl))
  refine staysLegal_of_shadow fun h => ?_
  obtain ⟨ha, hs, hm, hx, -, -⟩ := h
  have hsub : ∀ p : Nat × W32 → Bool, ∀ e ∈ s.regs.shadow.staged.filter p, regOk e := fun p e he => hs e (List.mem_filter.1 he).1
  refine ⟨?_, by simp, ?_, by simp, fun _ _ => rfl, by simp⟩
  · refine regOk_of_mem_foldl_put ?_ ha
    split
    · exact hsub _
    · exact hs
  · refine regOk_of_mem_foldl_put ?_ hm
    split
    · exact hsub _
    · simp

theorem castleTry_staysLegal (s : State) : staysLegal s (castleTry s) := by
  unfold castleTry
  split
  · refine staysLegal.trans ?_ (staysLegal_of_ctl (enableResume_ctl _))
    split
    · exact castleRefuse_staysLegal ..
    · exact applyStaged_staysLegal s
  · exact staysLegal_refl s

theorem castleRollback_resume_staysLegal (s : State) : staysLegal s (enableResume (castleRollback s)) :=
  (castleRollback_staysLegal s).trans (staysLegal_of_ctl (enableResume_ctl _))

/-- What is staged is masked (R13). -/
theorem stageWrite_staysLegal (off : Nat) (val : W32) (s : State) : staysLegal s (stageWrite off val s) := by
  unfold stageWrite
  split
  · next hoff =>
    split
    · next hopen =>
      refine staysLegal_of_shadow fun h => ?_
      obtain ⟨ha, hs, hm, hx, -, hr⟩ := h
      refine ⟨ha, fun e he => ?_, hm, hx, fun hc => ?_, hr⟩
      · rcases Tab.mem_put _ _ _ _ he with rfl | he
        · exact ⟨hoff, by rw [BitVec.and_assoc, BitVec.and_self]⟩
        · exact hs e he
      · rw [hopen] at hc
        cases hc
    · exact castleMisuse_staysLegal s
  · exact staysLegal_refl s

theorem registerWrite_staysLegal (off : Nat) (val : W32) (s : State) : staysLegal s (registerWrite off val s) := by
  unfold registerWrite
  split
  · exact staysLegal_of_shadow fun h => shadowOk_of_castle h rfl rfl h.2.2.2.2.2
  · repeat' split
    all_goals exact staysLegal_of_ctl rfl

/-! ### The ledger, power and resets -/

theorem compact_staysLegal (c : Cmd) (s : State) : staysLegal s (compact c s) := by
  unfold compact
  dsimp only
  refine staysLegal.trans ?_ (staysLegal_of_ctl (onCmd_ctl ..))
  refine staysLegal.trans ?_ (staysLegal_of_ctl (hbWrite_ctl ..))
  refine staysLegal.trans ?_ (staysLegal_of_ctl (each_ctl _ _ _ fun _ _ => writePage_ctl ..))
  refine staysLegal.trans ?_ (staysLegal_of_ctl (each_ctl _ _ _ fun _ _ => appendRec_ctl ..))
  refine staysLegal_of_shadow fun h => ?_
  obtain ⟨ha, hs, hm, hrest⟩ := h
  exact ⟨regOk_of_mem_foldl_put hm ha, hs, by simp, hrest⟩

theorem offReached_staysLegal (b : Bytes) (s : State) : staysLegal s (offReached b s) := by
  unfold offReached
  split
  · exact staysLegal_refl s
  · split
    · exact staysLegal_of_modes rfl rfl (fun _ => Nat.le_refl 3) id id
    · exact staysLegal_refl s

theorem enterActive_staysLegal (q seq : Nat) (s : State) : staysLegal s (enterActive q seq s) := by
  unfold enterActive
  dsimp only
  refine staysLegal.trans ?_ (staysLegal_of_ctl (finish_ctl ..))
  refine staysLegal.trans ?_ (staysLegal_of_ctl (powerEvent_ctl ..))
  refine staysLegal.trans ?_ (staysLegal_of_ctl (startPorts_ctl ..))
  refine staysLegal.trans ?_ (staysLegal_of_ctl (sweepAll_ctl ..))
  refine staysLegal.trans ?_ (castleTry_staysLegal _)
  have hscan : ctl (scanBanks (scanContexts (scanLedger { s with regs.clk.rootLock := true }))) = ctl s := by
    rw [scanBanks_ctl, scanContexts_ctl, scanLedger_ctl]
    rfl
  exact (staysLegal_of_ctl hscan).trans (staysLegal_of_pwr fun _ => Nat.zero_le 3)

theorem powerSet_staysLegal (c : Cmd) (s : State) : staysLegal s (powerSet c s) := by
  unfold powerSet
  dsimp only
  split
  · exact staysLegal_of_ctl (finish_ctl ..)
  · split
    · exact (enterActive_staysLegal ..).trans (staysLegal_of_ctl (settleAfter_ctl _))
    · exact staysLegal_of_ctl rfl

theorem powerQuiescence_staysLegal (s : State) : staysLegal s (powerQuiescence s) := by
  unfold powerQuiescence
  split
  · exact staysLegal_refl s
  · split
    · exact staysLegal_refl s
    · dsimp only
      refine staysLegal.trans ?_ (staysLegal_of_ctl (finish_ctl ..))
      refine staysLegal.trans ?_ (staysLegal_of_ctl (powerEvent_ctl ..))
      have hports : ctl (if 2 ≤ s.pwr.target then adjourn s else startPorts { s with regs.clk.rootLock := true }) = ctl s := by
        split
        · exact adjourn_ctl s
        · exact startPorts_ctl _
      exact (staysLegal_of_ctl hports).trans (staysLegal_of_pwr fun _ => (Nat.min_le_right _ 2).trans (by decide))

theorem assertReset_staysLegal {k : Nat} (hk : k ≤ 3) (s : State) : staysLegal s (assertReset k s) := by
  unfold assertReset
  dsimp only
  split
  · exact staysLegal_refl s
  · refine staysLegal.trans ?_ (staysLegal_of_ctl (dropOutputs_ctl _))
    refine staysLegal_of_modes rfl rfl id (fun h => ?_) id
    dsimp only
    split <;> omega

theorem rootLockLoss_staysLegal (s : State) : staysLegal s (rootLockLoss s) := by
  unfold rootLockLoss
  split
  · exact staysLegal_refl s
  · exact (staysLegal_of_ctl rfl).trans (assertReset_staysLegal (by decide) _)

/-- A reset leaves nothing staged and no transaction, the applied values or none of them (R354). -/
theorem regsAfter_shadow_ok (k : Nat) (root admin : Bool) {r : Regs} (h : r.shadow.ok) : (regsAfter k root admin r).shadow.ok := by
  obtain ⟨ha, -, -, -, -, hr⟩ := h
  refine ⟨?_, by simp [regsAfter], by simp [regsAfter], by simp [regsAfter], fun _ _ => rfl, ?_⟩
  · unfold regsAfter
    dsimp only
    split
    · simp
    · exact ha
  · unfold regsAfter
    dsimp only
    split
    · exact Nat.zero_le 3
    · exact hr

theorem released_staysLegal (k : Nat) (s : State) : staysLegal s (released k s) := by
  refine ⟨rfl, fun h => ?_⟩
  obtain ⟨hsh, -, -, -⟩ := h
  refine ⟨regsAfter_shadow_ok k s.pins.rstRoot (s.ldg.cmds.any (·.admin)) hsh, Nat.zero_le 3, Nat.zero_le 3, ?_⟩
  simp only [ctl, released, debugAfter]
  split <;> omega

theorem resetRelease_staysLegal (failed : List (Nat × Nat)) (s : State) : staysLegal s (resetRelease failed s) := by
  unfold resetRelease
  dsimp only
  split
  · exact staysLegal_refl s
  · split
    · exact (released_staysLegal 1 s).trans (staysLegal_of_ctl (sweepAll_ctl _))
    · refine (released_staysLegal s.pins.rst s).trans (staysLegal_of_ctl ?_)
      rw [each_ctl _ _ _ fun _ _ => testFailed_ctl .., when_ctl _ _ _ fun _ => raise0_ctl ..]

/-! ### Host-bridge writes, and the responses that a halt keeps -/

theorem hbWriteDone_staysLegal (r : HbReq) (s : State) : staysLegal s (hbWriteDone r s) := by
  unfold hbWriteDone
  split
  · refine staysLegal.trans ?_ (offReached_staysLegal _ _)
    exact staysLegal_of_ctl (by rw [mirrorHealed_ctl, mirrored_ctl])
  · refine staysLegal_of_ctl ?_
    rw [mirrorHealed_ctl]
    split
    · rfl
    · exact finish_ctl ..
  · exact staysLegal_of_ctl (mirrorHealed_ctl _)
  · exact staysLegal_of_ctl (listWritten_ctl ..)
  · exact staysLegal_of_ctl (cqAcked_ctl ..)
  · exact staysLegal_of_ctl (ackSector_ctl ..)
  · exact staysLegal_of_ctl (sealListAcked_ctl ..)
  · exact staysLegal_of_ctl (sealed_ctl ..)
  · exact staysLegal_of_ctl (disputeDone_ctl ..)
  · exact staysLegal_of_ctl (peerSecDone_ctl ..)
  · refine staysLegal_of_ctl ?_
    split
    · exact finish_ctl ..
    · rfl
  · exact staysLegal_refl s

theorem hbWrite1_staysLegal (r : HbReq) (err : Nat) (s : State) : staysLegal s (hbWrite1 r err s) := by
  unfold hbWrite1
  split
  · refine staysLegal_of_ctl ?_
    split
    · exact reissueHb_ctl ..
    · split
      · exact mirrorFails_ctl ..
      · rw [settleAfter_ctl, hbWriteFails_ctl, dropHb_ctl]
  · refine staysLegal.trans ?_ (staysLegal_of_ctl (settleAfter_ctl _))
    refine staysLegal.trans ?_ (staysLegal_of_ctl (settleCompact_ctl _))
    exact (staysLegal_of_ctl (dropHb_ctl ..)).trans (hbWriteDone_staysLegal ..)

theorem hbAnswered_staysLegal {f : State → State} (r : HbReq) (hf : ∀ s, staysLegal s (f s)) (s : State) :
    staysLegal s (hbAnswered r f s) := by
  unfold hbAnswered
  dsimp only
  split
  · exact (staysLegal_of_ctl (hbGranted_ctl ..)).trans (hf _)
  · exact staysLegal_of_ctl (hbGranted_ctl ..)

theorem hostWriteResponse_staysLegal (id err : Nat) (s : State) : staysLegal s (hostWriteResponse id err s) := by
  unfold hostWriteResponse
  repeat' split
  · exact staysLegal_refl s
  · exact staysLegal_of_ctl (dropHb_ctl ..)
  · exact staysLegal_refl s
  · exact staysLegal_of_ctl (keepLate_ctl ..)
  · exact hbAnswered_staysLegal _ (hbWrite1_staysLegal _ _) s

theorem runLate_staysLegal (i : Instr) (s : State) : staysLegal s (runLate i s) := by
  unfold runLate
  split
  · exact staysLegal_of_ctl (hostReadResponse_ctl ..)
  · exact hostWriteResponse_staysLegal ..
  · exact staysLegal_of_ctl (fabricReadResponse_ctl ..)
  · exact staysLegal_of_ctl (fabricWriteResponse_ctl ..)
  · exact staysLegal_of_ctl (adminFlush_ctl ..)
  · exact staysLegal_refl s

/-! ### The debug port -/

theorem endHalt_staysLegal (s : State) : staysLegal s (endHalt s) := by
  unfold endHalt
  refine staysLegal.trans ?_ (staysLegal_each runLate_staysLegal _ _)
  refine staysLegal_of_dbg fun _ => ?_
  dsimp only
  split <;> omega

theorem resume_staysLegal (s : State) : staysLegal s (resume s) := by
  unfold resume
  dsimp only
  split
  · exact (endHalt_staysLegal s).trans (staysLegal_of_ctl (raise0_ctl ..))
  · exact endHalt_staysLegal s

theorem lockPort_staysLegal (s : State) : staysLegal s (lockPort s) :=
  (resume_staysLegal s).trans (staysLegal_of_modes rfl rfl id id fun _ => Nat.zero_le 2)

theorem unlockCheck_staysLegal (s : State) : staysLegal s (unlockCheck s) := by
  unfold unlockCheck
  dsimp only
  split
  · refine staysLegal.trans ?_ (staysLegal_of_ctl (raise0_ctl ..))
    exact (staysLegal_of_ctl (zeroize_ctl s)).trans (staysLegal_of_dbg fun h => Nat.max_le.2 ⟨h, by decide⟩)
  · exact (staysLegal_of_dbg id).trans (staysLegal_of_ctl (raise0_ctl ..))

theorem dbgUnlock_staysLegal (word : Nat) (data : W64) (s : State) : staysLegal s (dbgUnlock word data s) := by
  unfold dbgUnlock
  dsimp only
  split
  · exact (staysLegal_of_ctl rfl).trans (unlockCheck_staysLegal _)
  · exact staysLegal_of_ctl rfl

theorem enterHalt_staysLegal (s : State) : staysLegal s (enterHalt s) := by
  unfold enterHalt
  refine staysLegal.trans ?_ (staysLegal_of_ctl (serveFilters_ctl _))
  refine staysLegal.trans ?_ (staysLegal_of_ctl (haltAnswered_ctl _))
  exact staysLegal_of_dbg fun _ => Nat.le_refl 2

theorem haltWith_staysLegal (slot kind : Nat) (s : State) : staysLegal s (haltWith slot kind s) :=
  (enterHalt_staysLegal s).trans (staysLegal_of_ctl (raise0_ctl ..))

theorem dbgHalt_staysLegal (s : State) : staysLegal s (dbgHalt s) := by
  unfold dbgHalt
  repeat' split
  · exact staysLegal_of_ctl (status_ctl ..)
  · exact staysLegal_refl s
  · exact haltWith_staysLegal ..
  · exact staysLegal_of_ctl rfl

theorem dbgStep_staysLegal (s : State) : staysLegal s (dbgStep s) := by
  unfold dbgStep
  split
  · exact staysLegal_of_ctl (status_ctl ..)
  · exact (staysLegal_of_dbg fun _ => one_le_two).trans (staysLegal_each runLate_staysLegal _ _)

theorem breakpointFire_staysLegal (slot : Nat) (s : State) : staysLegal s (breakpointFire slot s) := by
  have hseen : staysLegal s { s with dbg := { s.dbg with hits := s.dbg.hits.filter (· != slot), lastBp := slot } } :=
    staysLegal_of_dbg id
  unfold breakpointFire
  split
  · exact staysLegal_refl s
  · refine staysLegal_ite (staysLegal_refl s) (staysLegal_ite hseen (staysLegal_ite (staysLegal_refl s) ?_))
    exact hseen.trans (haltWith_staysLegal ..)

theorem castleWrite_staysLegal (v : Nat) (s : State) : staysLegal s (castleWrite v s) := by
  unfold castleWrite
  dsimp only
  refine (registerWrite_staysLegal 0x20 (BitVec.ofNat 32 v) s).trans ?_
  split
  · exact castleBegin_staysLegal _
  · exact castleCommit_staysLegal _
  · exact castleRollback_resume_staysLegal _
  · exact staysLegal_refl _

/-- A write through the debug port takes the way that the register port gives it (R366). -/
theorem setupWrite_staysLegal (off : Nat) (w : W32) (s : State) : staysLegal s (setupWrite off w s) := by
  have hport : ∀ f : State → State, (∀ t, ctl (f t) = ctl t) → staysLegal s (when (up s) f s) :=
    fun f hf => staysLegal_of_ctl (when_ctl _ _ _ hf)
  have hclear : ∀ (c : Bool) (f : State → State), (∀ t, ctl (f t) = ctl t) → staysLegal s (when (up s) (when c f) s) :=
    fun c f hf => hport _ fun t => when_ctl c f t hf
  unfold setupWrite
  refine staysLegal_ite (hport _ (evHead_ctl _)) (staysLegal_ite (staysLegal_ite (hport _ (sqTail_ctl _ _)) (hport _ (cqHead_ctl _ _))) ?_)
  refine staysLegal_ite (stageWrite_staysLegal ..) (staysLegal_ite (castleWrite_staysLegal ..) ?_)
  refine staysLegal_ite (staysLegal_of_ctl (qctlWrite_ctl ..)) (staysLegal_ite (hclear _ _ fun _ => rfl) ?_)
  refine staysLegal_ite (hclear _ _ mirrorRetry_ctl) (staysLegal_ite (hclear _ _ fun _ => rfl) ?_)
  refine staysLegal_ite (hclear _ _ fun _ => rfl) (staysLegal_ite (staysLegal_of_ctl rfl) ?_)
  refine staysLegal_ite (staysLegal_of_ctl (crcIn_ctl ..)) (staysLegal_ite (staysLegal_of_ctl (crcIn_ctl ..)) ?_)
  refine staysLegal_ite (staysLegal_of_ctl (crcIn_ctl ..)) (staysLegal_ite (hclear _ _ fun _ => rfl) ?_)
  refine staysLegal_ite (hclear _ _ fun _ => rfl) (staysLegal_ite (staysLegal_of_ctl (flipArm_ctl ..)) ?_)
  exact staysLegal_ite (hclear _ _ fun _ => rfl) (registerWrite_staysLegal ..)

theorem dbgWrite_staysLegal (w : W64) (s : State) : staysLegal s (dbgWrite w s) := by
  unfold dbgWrite
  dsimp only
  split_ifs
  · exact staysLegal_of_ctl (sramWrite_ctl ..)
  · exact staysLegal_of_ctl (status_ctl ..)
  · exact staysLegal_of_ctl (dbgFabric_ctl ..)
  · exact (setupWrite_staysLegal ..).trans (staysLegal_of_ctl (nextAddr_ctl ..))
  · exact staysLegal_of_ctl (status_ctl ..)
  · exact staysLegal_of_ctl (status_ctl ..)

theorem dbgReq_staysLegal {f : State → State} (op : Nat) (unlocked : Bool) (r : DbgReq) (hf : ∀ s, staysLegal s (f s))
    (s : State) : staysLegal s (dbgReq op unlocked r f s) := by
  unfold dbgReq
  dsimp only
  have hir : staysLegal s { s with dbg.ir := 0x20 } := staysLegal_of_dbg id
  split_ifs
  · exact hir
  · exact hir.trans (staysLegal_of_ctl (answer_ctl ..))
  · exact hir.trans (staysLegal_of_ctl (answer_ctl ..))
  · exact (hir.trans (staysLegal_of_ctl (answer_ctl ..))).trans (hf _)

theorem runCmd_staysLegal {f : Cmd → State → State} (op q seq : Nat) (own : Cmd → State → List (Nat × Bool))
    (hf : ∀ c s, staysLegal s (f c s)) (s : State) : staysLegal s (runCmd op q seq own f s) := by
  unfold runCmd
  split
  · exact staysLegal_refl s
  · dsimp only
    split
    · exact (staysLegal_of_ctl (onCmd_ctl ..)).trans (staysLegal_of_ctl (malformed_ctl ..))
    · exact (staysLegal_of_ctl (onCmd_ctl ..)).trans (hf _ _)

/-! ### Every command -/

/-- The commands that steer the power, the resets, the castle and the debug port go through the laws above; every other command
leaves the control part as it is, as its function's own law says. -/
theorem exec_staysLegal (i : Instr) (s : State) : ∃ t, exec i s = .next t ∧ staysLegal s t := by
  have steers : ∀ {o : Host.Outcome State Fault Refusal} {t : State}, o = .next t → staysLegal s t →
      ∃ t, o = .next t ∧ staysLegal s t := fun ho h => ⟨_, ho, h⟩
  have keeps : ∀ {o : Host.Outcome State Fault Refusal} {t : State}, o = .next t → ctl t = ctl s →
      ∃ t, o = .next t ∧ staysLegal s t := fun ho h => steers ho (staysLegal_of_ctl h)
  cases i with
  | vaultCreate | vaultDelete | queueCreate | queueDelete | bufGrant | bufFree | planStore | planPatch | recipeLoad |
  keyLoad | keyDerive | laneReturn | buddySet | topologySet | touchstoneLoad | touchstoneRun | fenceRaise | sealCmd |
  planLaunch | cancel =>
    exact keeps rfl (runCmd_ctl _ _ _ _ _ _ (by simp only [vaultCreate_ctl, vaultDelete_ctl, queueCreate_ctl, queueDelete_ctl, bufGrant_ctl, bufFree_ctl, planStore_ctl,
      planPatch_ctl, recipeLoad_ctl, keyLoad_ctl, keyDerive_ctl, laneReturn_ctl, buddySet_ctl, topologySet_ctl,
      tsLoad_ctl, tsRun_ctl, fenceRaise_ctl, runSeal_ctl, planLaunch_ctl, cancelGo_ctl, implies_true]))
  | restore | gatherRestore =>
    exact keeps rfl (waitCtx_ctl _ _ _ _ _ _ _ fun _ => runCmd_ctl _ _ _ _ _ _ (by
      simp only [startRestore_ctl, restoreGo_ctl, gatherGo_ctl, implies_true]))
  | digest | checkvalue =>
    exact keeps rfl (waitCtx_ctl _ _ _ _ _ _ _ fun _ => runCmd_ctl _ _ _ _ _ _ (by
      simp only [digest_ctl, checkvalue_ctl, implies_true]))
  | hello | helloAck | fence | fenced | vaultOpen | vaultClose | vaultReply | sectorWrite | sectorAck | sectorRead |
  sectorData | digestMessage | digestVerdict | tiding =>
    exact keeps rfl (when_ctl _ _ _ fun _ => receive_ctl _ _ _ _ (by
      simp only [helloRx_ctl, helloAckRx_ctl, fencedBy_ctl, vaultOpenRx_ctl, vaultCloseRx_ctl, vaultReplyRx_ctl, sectorWriteRx_ctl,
      sectorAckRx_ctl, sectorReadRx_ctl, withChecks_ctl, sectorDataRx_ctl, digestRx_ctl, verdictRx_ctl, tidingRx_ctl, implies_true]))
  | crcValWrite | aonTimeLoRead => exact keeps rfl (when_ctl _ _ _ fun _ => rfl)
  | xfCntClr | assayClr | spillClr | eccClr | bufClr | lastGaspClear =>
    exact keeps rfl (when_ctl _ _ _ fun _ => when_ctl _ _ _ fun _ => rfl)
  | ringEnable | crcIn8 | crcIn16 | crcIn32 | mirrorRetry | flipArm | sqTailDoorbell | cqHeadDoorbell | eventHeadDoorbell =>
    exact keeps rfl (when_ctl _ _ _ (by
      simp only [when_ctl, ringEnable_ctl, crcIn_ctl, mirrorRetry_ctl, flipArm_ctl, sqTail_ctl, cqHead_ctl, evHead_ctl,
        implies_true]))
  | dispatchOpportunity | slotRepoll | hostReadResponse | itemAccept | commandStart | completionWrite | headShadowWrite |
  queueStall | tick | replay | mirrorFault | ledgerLost | faultHold | eccUe | channelRetired | contextScan |
  bitmapVerifyPass | prepDone | holdAck | cutSlow | harvestBeat | harvestPushOk | harvestPushErr | filterWritePresent |
  filterWriteAccept | injectedReadAccept | fabricReadResponse | fabricWriteResponse | moverDescriptor | deadlineRecompute |
  crucibleBlock | sectorSeal | sealRecordWrite | codewordLock | phyTrainingDone | align | lctl | linit | linitAck |
  linitRepeat | frame | lctlDue | frameResendTimeout | helloRepeat | requestTimeout | laterResend | tileStart | tileEnd |
  load | loadVerify | operandRow | weightData | weightExponents | poolHeader | poolIndices | pooledVector | poolCheck |
  rowSum | branchGate | clockLost | fabSlip | alignDue | filterReadPresent =>
    exact keeps rfl (when_ctl _ _ _ (by
      simp only [dispatch_ctl, slotRepoll_ctl, hostReadResponse_ctl, itemAccept_ctl, commandStart_ctl, completionWrite_ctl,
      headShadow_ctl, queueStall_ctl, append_ctl, replay_ctl, mirrorFaultRow_ctl, retire_ctl, faultHold_ctl,
      eccUe_ctl, settleAfter_ctl, scanContexts_ctl, scanBanks_ctl, prepDone_ctl, holdAck_ctl, cutSlow_ctl,
      harvestBeat_ctl, pushAnswered_ctl, filterWritePresent_ctl, filterWriteAccept_ctl, injectedReadAccept_ctl,
      fabricReadResponse_ctl, fabricWriteResponse_ctl, moverDescriptor_ctl, deadlineRecompute_ctl, crucibleBlock_ctl,
      serveFilters_ctl, sectorSeal_ctl, sealRecordWrite_ctl, lockChange_ctl, phyTrained_ctl, alignRx_ctl, lctl_ctl,
      linit_ctl, linitAck_ctl, sendLinit_ctl, frameRx_ctl, sendLctl_ctl, resend_ctl, helloRepeat_ctl,
      requestTimeout_ctl, laterResend_ctl, tileStart_ctl, tileEnd_ctl, loadWord_ctl, operandRow_ctl, weightData_ctl,
      weightExponents_ctl, poolHeader_ctl, poolIndices_ctl, pooledVector_ctl, poolCheck_ctl, rowSum_ctl,
      branchGate_ctl, clockLost_ctl, fabSlip_ctl, alignDue_ctl, settle_ctl, filterReadPresent_ctl, implies_true]))
  | dbgStatus | dbgChallenge | dbgRstep | dbgRresume | dbgBpSet | dbgBpClear | dbgSetaddr | dbgRead | otpWrite | otpBurn =>
    exact keeps rfl (dbgReq_ctl _ _ _ _ _ (by
      simp only [dbgStatus_ctl, dbgChallenge_ctl, onHaltedLane_ctl, rstep_ctl, rresume_ctl, bpSet_ctl, bpClear_ctl, setAddr_ctl,
      dbgRead_ctl, onOtp_ctl, otpWrite_ctl, otpBurn_ctl, implies_true]))
  | rNop | rEnd | rTrap | rJmp | rBz | rBnz | rLoop | rSli | rSadd | rSaddi | rSsub | rSand | rSor | rSxor | rSshl | rSsra
  | rSblen | rSget | rVld | rVldb | rVst | rSld | rSst | rVadd | rVsub | rVmin | rVmax | rVand | rVor | rVxor | rVshl |
  rVsra | rVbcast | rVext | rVins | rVcmpz | rVabsmax | rVrq | rVnarrow | rVwiden =>
    exact keeps rfl (recipeStep_ctl ..)
  | trackerGroupReadReturn =>
    refine keeps rfl (when_ctl _ _ _ fun t => ?_)
    split
    · rfl
    · exact trackerGroupReadReturn_ctl ..
  | laneRetire =>
    refine keeps rfl ?_
    split
    · rfl
    · split
      · exact runCmd_ctl _ _ _ _ _ _ fun _ _ => laneRetire_ctl ..
      · rfl
  | epochOpen =>
    refine keeps rfl ?_
    split
    · rfl
    · split
      · exact runCmd_ctl _ _ _ _ _ _ fun _ _ => openEpoch_ctl ..
      · exact prepWait_ctl ..
  | capture => exact keeps rfl (runCapture_ctl _ _ _ _ _ _ _ fun _ _ => captureStream_ctl ..)
  | rowCapture =>
    refine keeps rfl ?_
    split
    · rfl
    · split
      · exact runCapture_ctl _ _ _ _ _ _ _ fun _ _ => startList_ctl ..
      · exact runCapture_ctl _ _ _ _ _ _ _ fun _ _ => captureStream_ctl ..
  | barrier =>
    refine keeps rfl ?_
    split
    · rfl
    · split
      · exact runCmd_ctl _ _ _ _ _ _ fun _ _ => finish_ctl ..
      · rfl
  | flush =>
    refine keeps rfl ?_
    split
    · rfl
    · split
      · exact runCmd_ctl _ _ _ _ _ _ fun _ _ => rfl
      · exact runFlush_ctl ..
  | adminFlush => exact keeps rfl (adminFlushWrite_ctl ..)
  | eventFlush => exact keeps rfl (catchUp_ctl _)
  | unlockLockoutExpiry => exact keeps rfl rfl
  | clockRunning => exact keeps rfl (clockRunning_ctl ..)
  | dbgNop =>
    refine keeps rfl ?_
    dsimp only
    split
    · exact answer_ctl ..
    · rfl
  | castleBegin => exact steers rfl (staysLegal_when _ castleBegin_staysLegal s)
  | castleCommit => exact steers rfl (staysLegal_when _ castleCommit_staysLegal s)
  | castleRollback => exact steers rfl (staysLegal_when _ castleRollback_resume_staysLegal s)
  | castleApply => exact steers rfl (staysLegal_when _ castleTry_staysLegal s)
  | shadowedRegisterWrite off val => exact steers rfl (staysLegal_when _ (stageWrite_staysLegal off val) s)
  | registerWrite off val => exact steers rfl (staysLegal_when _ (registerWrite_staysLegal off val) s)
  | ledgerCompact => exact steers rfl (runCmd_staysLegal _ _ _ _ compact_staysLegal s)
  | powerSet => exact steers rfl (runCmd_staysLegal _ _ _ _ powerSet_staysLegal s)
  | powerQuiescence => exact steers rfl (staysLegal_when _ powerQuiescence_staysLegal s)
  | warmReset | coldReset | powerOnReset => exact steers rfl (assertReset_staysLegal (by decide) s)
  | rootLockLoss => exact steers rfl (rootLockLoss_staysLegal s)
  | resetRelease failed => exact steers rfl (resetRelease_staysLegal failed s)
  | hostWriteResponse id err => exact steers rfl (staysLegal_when _ (hostWriteResponse_staysLegal id err) s)
  | tapReset =>
    have hlock : staysLegal s (lockPort { s with dbg.ir := 1 }) := staysLegal.trans (staysLegal_of_dbg id) (lockPort_staysLegal _)
    exact steers rfl (staysLegal_ite (hlock.trans (staysLegal_of_ctl (status_ctl ..))) hlock)
  | dbgLock => exact steers rfl (dbgReq_staysLegal _ _ _ lockPort_staysLegal s)
  | dbgUnlock r => exact steers rfl (dbgReq_staysLegal _ _ _ (dbgUnlock_staysLegal (r.arg % 4) r.data) s)
  | dbgHalt => exact steers rfl (dbgReq_staysLegal _ _ _ dbgHalt_staysLegal s)
  | dbgResume => exact steers rfl (dbgReq_staysLegal _ _ _ resume_staysLegal s)
  | dbgStep => exact steers rfl (dbgReq_staysLegal _ _ _ dbgStep_staysLegal s)
  | dbgWrite r => exact steers rfl (dbgReq_staysLegal _ _ _ (dbgWrite_staysLegal r.data) s)
  | haltReached => exact steers rfl (staysLegal_when _ (haltWith_staysLegal 0xFF 0) s)
  | stepDone => exact steers rfl (staysLegal_when _ enterHalt_staysLegal s)
  | breakpointFire slot => exact steers rfl (staysLegal_when _ (breakpointFire_staysLegal slot) s)

end Steering

/-- Settles O1: by the definition of the step on a queue that is not empty. -/
theorem stepRunsFront : Obligations.StepRunsFront := by
  intro c rest s hs
  rw [step, hs]

/-- Settles O5: each row answers a next state, and among what it keeps are the commands that wait. -/
theorem queueIsInputOnly : Obligations.QueueIsInputOnly := by
  intro i s
  obtain ⟨t, ht, hpending, -⟩ := exec_staysLegal i s
  exact ⟨t, ht, hpending⟩

/-- Settles O4: a step without a command keeps the control part, and a step with one runs a row that keeps it legal. -/
theorem controlInvariant : Obligations.ControlInvariant := by
  intro s t hs hstep
  cases hp : s.pending with
  | nil =>
    simp only [step, hp, Host.Outcome.next.injEq] at hstep
    rw [← hstep, idle_ctl]
    exact hs
  | cons c rest =>
    rw [stepRunsFront c rest s hp] at hstep
    obtain ⟨u, hu, -, hlegal⟩ := exec_staysLegal c { s with pending := rest }
    cases hu.symm.trans hstep
    exact hlegal hs

/-- Settles O3: the reset state is a literal, so each of its registers is read by evaluation. -/
theorem resetState : Obligations.ResetState := by
  refine ⟨?_, by decide, by decide⟩
  have hnone : ∀ e ∈ ([] : Tab W32), regOk e := fun _ he => (List.not_mem_nil he).elim
  exact ⟨⟨hnone, hnone, hnone, by decide, fun _ _ => rfl, by decide⟩, by decide, by decide, by decide⟩

end Sys2Proof.Machine
end

section
/-! SUPPORT. What the end of a command leaves unchanged, the castle's commands and the apply of a commit (R372 to R378), the
immediate registers (R13, R199, R322, R364) and the enabling of the rings (R37, R304, R370). -/

namespace Sys2Proof.Machine

section Ends

variable {s t u : State}

/-! ### What the end of a command may change -/

/-- `t` is `s` but for what the ends of commands change: the commands, their records, events and the requests that write them,
and the generations that go free (R21, R90, R298). -/
def onlyEnds (s t : State) : Prop :=
  t = { s with
    ldg := { s.ldg with cmds := t.ldg.cmds, log := t.ldg.log, lsn := t.ldg.lsn, rot := t.ldg.rot, lowRaised := t.ldg.lowRaised }
    ring := { s.ring with ev := t.ring.ev }
    out := { s.out with hb := t.out.hb, nextId := t.out.nextId, msix := t.out.msix }
    regs := { s.regs with flip := t.regs.flip }
    dbg := { s.dbg with hits := t.dbg.hits, recs := t.dbg.recs }
    flt := { s.flt with flipped := t.flt.flipped }
    adm := { s.adm with gens := t.adm.gens } }

theorem onlyEnds_refl (s : State) : onlyEnds s s := rfl

theorem onlyEnds.trans (h : onlyEnds s t) (k : onlyEnds t u) : onlyEnds s u := by
  unfold onlyEnds at *
  rw [h] at k
  rw [k]

theorem onlyEnds_of_journal (h : onlyJournal s t) : onlyEnds s t := by
  unfold onlyJournal at h
  unfold onlyEnds
  rw [h]

theorem onlyEnds_of_events (h : onlyEvents s t) : onlyEnds s t := onlyEnds_of_journal (journal_of_events h)

theorem onCmd_onlyEnds (q n : Nat) (f : Cmd → Cmd) (s : State) : onlyEnds s (onCmd q n f s) := rfl

theorem freeGens_onlyEnds (s : State) : onlyEnds s (freeGens s) :=
  onlyEnds.trans (t := { s with adm.gens := s.adm.gens.map fun g => if goesFree s g then { g with freed := true } else g }) rfl
    (onlyEnds_of_events (freeGens_events s))

theorem finish_onlyEnds (q n status detail : Nat) (s : State) : onlyEnds s (finish q n status detail s) := by
  unfold finish
  split
  · exact onlyEnds_refl s
  · split
    · exact onlyEnds_refl s
    · dsimp only
      have hend : ∀ (f : Cmd → Cmd) (p : Rec → Bool) (b : Bytes), onlyEnds s (append 1 3 q n b false (kill p (onCmd q n f s))) :=
        fun f p b => (onCmd_onlyEnds q n f s).trans (onlyEnds_of_journal
          (onlyJournal_trans (kill_journal p _) (append_journal ..)))
      split
      · exact (hend ..).trans (freeGens_onlyEnds _)
      · exact hend ..

end Ends

section Castle

variable {s : State}

/-! ### The castle's commands -/

theorem exec_castleBegin (h : up s = true) : exec .castleBegin s = .next (castleBegin s) := regWhen_of_up _ h

theorem exec_castleCommit (h : up s = true) : exec .castleCommit s = .next (castleCommit s) := regWhen_of_up _ h

theorem exec_castleRollback (h : up s = true) : exec .castleRollback s = .next (enableResume (castleRollback s)) :=
  regWhen_of_up (fun s => enableResume (castleRollback s)) h

theorem castleBegin_of_idle (ho : s.regs.shadow.castle.isOpen = false) (hp : s.regs.shadow.castle.pend = false) :
    castleBegin s = { s with
      regs.shadow.castle := { s.regs.shadow.castle with isOpen := true, result := 0, reason := 0, reg := 0 }
      regs.shadow.staged := [] } := by
  simp [castleBegin, ho, hp]

theorem castleBegin_of_busy (h : s.regs.shadow.castle.isOpen = true ∨ s.regs.shadow.castle.pend = true) :
    castleBegin s = castleMisuse s := by
  unfold castleBegin
  rw [if_neg]
  rcases h with h | h <;> simp [h]

theorem castleCommit_of_notOpen (ho : s.regs.shadow.castle.isOpen = false) : castleCommit s = castleMisuse s := by
  simp [castleCommit, ho]

/-- The state in which a commit is validated (R374). -/
def committed (s : State) : State :=
  { s with regs.shadow.castle := { s.regs.shadow.castle with isOpen := false, pend := true } }

theorem castleCommit_of_sound (ho : s.regs.shadow.castle.isOpen = true) (hr : refusal? (committed s) = none) :
    castleCommit s = committed s := by
  unfold committed at hr
  simp only [castleCommit, ho, if_true, hr, committed]

theorem castleCommit_of_unsound {r : Nat × Nat} (ho : s.regs.shadow.castle.isOpen = true)
    (hr : refusal? (committed s) = some r) : castleCommit s = castleRefuse r (committed s) := by
  unfold committed at hr
  simp only [castleCommit, ho, if_true, hr, committed]

/-- Without a staged PLAN_PATCH the end of a transaction ends no command. -/
theorem dropPatch_of_none (h : s.adm.stagedPatch = none) : dropPatch s = s := by
  simp [dropPatch, h]

theorem enableResume_of_none (h : s.regs.enableWait = none) : enableResume s = s := by
  simp [enableResume, h]

theorem castleRollback_of_idle (ho : s.regs.shadow.castle.isOpen = false) (hp : s.regs.shadow.castle.pend = false) :
    castleRollback s = castleMisuse s := by
  simp [castleRollback, ho, hp]

theorem castleRollback_of_busy (h : s.regs.shadow.castle.isOpen = true ∨ s.regs.shadow.castle.pend = true)
    (hs : s.adm.stagedPatch = none) :
    castleRollback s = { s with
      regs.shadow.castle := { s.regs.shadow.castle with isOpen := false, pend := false, result := 3 }
      regs.shadow.staged := [] } := by
  unfold castleRollback
  rw [if_pos (by rcases h with h | h <;> simp [h])]
  exact dropPatch_of_none hs

/-! ### The apply of a commit -/

theorem exec_castleApply (hr : runs s = true) (hp : s.pwr.state = 0) : exec .castleApply s = .next (castleTry s) := by
  change Host.Outcome.next (when (runs s && s.pwr.state == 0) castleTry s) = _
  rw [when, if_pos (by simp [hr, hp])]

theorem castleTry_of_noSafePoint (h : safePoint s = false) : castleTry s = s := by
  simp [castleTry, h]

theorem commitPatch_onlyEnds_of (s : State) : onlyEnds { s with adm.stagedPatch := (commitPatch s).adm.stagedPatch } (commitPatch s) := by
  unfold commitPatch
  split
  · rfl
  · split
    · rfl
    · next p _ _ =>
      have h := finish_onlyEnds p.q p.seq 0 0 { s with
        adm.stagedPatch := none
        adm.gens := updWhere (fun g => g.plan == p.plan && g.current) (fun g => { g with pending := some p.recs }) s.adm.gens }
      unfold onlyEnds at h ⊢
      rw [h]

/-- The registers as an apply leaves them, before its further effects (R376, R378). -/
def appliedShadow (wait : Bool) (r : Shadow) : Shadow :=
  { applied := (if wait then r.staged.filter fun e => !isMirror e.1 else r.staged).foldl (fun t e => Tab.put t e.1 e.2) r.applied
    staged := []
    castle := { r.castle with pend := false, result := 1, gen := r.castle.gen + 1 }
    mirrorWait := (if wait then r.staged.filter fun e => isMirror e.1 else []).foldl (fun t e => Tab.put t e.1 e.2) r.mirrorWait }

/-- An apply changes the shadowed registers as above; beside them the banks, the tokens and a staged PLAN_PATCH (R378). -/
theorem applyStaged_frame (s : State) : ∃ t : State, applyStaged s = commitPatch t ∧
    t = { s with
      regs.shadow := appliedShadow s.regs.qctl.sawReady s.regs.shadow
      cap := { s.cap with bank0 := t.cap.bank0, bank1 := t.cap.bank1, capOf := t.cap.capOf }
      str.tokens := t.str.tokens } := by
  refine ⟨_, rfl, ?_⟩
  unfold when banksAllDirty
  split <;> split <;> rfl

/-- Writing a list of values into a table leaves, under each number, the last one written there. -/
theorem get?_foldl_put (l t : Tab W32) (off : Nat) : Tab.get? (l.foldl (fun t e => Tab.put t e.1 e.2) t) off =
    ((l.reverse.find? (·.1 == off)).map (·.2)).or (Tab.get? t off) := by
  induction l generalizing t with
  | nil => simp
  | cons a l ih =>
    rw [List.foldl_cons, ih, List.reverse_cons, List.find?_append]
    by_cases ha : a.1 = off
    · subst ha
      rw [Tab.get?_put_self]
      cases l.reverse.find? (·.1 == a.1) <;> simp
    · rw [Tab.get?_put_ne _ _ (Ne.symm ha)]
      cases l.reverse.find? (·.1 == off) <;> simp [ha]

theorem find?_filter_of_imp {l : Tab W32} {p : Nat × W32 → Bool} {off : Nat} (h : ∀ e : Nat × W32, e.1 = off → p e = true) :
    ((l.filter p).reverse.find? (·.1 == off)) = l.reverse.find? (·.1 == off) := by
  rw [← List.filter_reverse, List.find?_filter]
  congr 1
  funext e
  by_cases he : e.1 = off
  · simp [he, h e he]
  · simp [he]

theorem find?_filter_of_not {l : Tab W32} {p : Nat × W32 → Bool} {off : Nat} (h : ∀ e : Nat × W32, e.1 = off → p e = false) :
    ((l.filter p).reverse.find? (·.1 == off)) = none := by
  rw [List.find?_eq_none]
  intro e he hoff
  rw [List.mem_reverse, List.mem_filter] at he
  rw [h e (by simpa using hoff)] at he
  exact Bool.noConfusion he.2

/-- A register that does not wait for LEDGER_COMPACT takes its last staged value. -/
theorem get?_applied_of_now (wait : Bool) (r : Shadow) {off : Nat} (h : (isMirror off && wait) = false) :
    Tab.get? (appliedShadow wait r).applied off =
      ((r.staged.reverse.find? (·.1 == off)).map (·.2)).or (Tab.get? r.applied off) := by
  unfold appliedShadow
  dsimp only
  rw [get?_foldl_put]
  cases wait with
  | false => rfl
  | true =>
    have hm : isMirror off = false := by simpa using h
    rw [if_pos rfl, find?_filter_of_imp fun e he => by rw [he, hm]; rfl]

theorem get?_applied_of_later (wait : Bool) (r : Shadow) {off : Nat} (h : (isMirror off && wait) = true) :
    Tab.get? (appliedShadow wait r).applied off = Tab.get? r.applied off := by
  obtain ⟨hm, rfl⟩ : isMirror off = true ∧ wait = true := by simpa using h
  unfold appliedShadow
  dsimp only
  rw [get?_foldl_put, if_pos rfl, find?_filter_of_not fun e he => by rw [he, hm]; rfl]
  rfl

end Castle

/-- Settles O7: each command of the castle in and out of its state, a staged PLAN_PATCH and a waiting RING_ENABLE apart. -/
theorem castleCommands : Obligations.CastleCommands := by
  refine ⟨?_, ?_, ?_, ?_, ?_, ?_, ?_⟩
  · intro s hup ho hp
    rw [exec_castleBegin hup, castleBegin_of_idle ho hp]
  · intro s hup h
    rw [exec_castleBegin hup, castleBegin_of_busy h, castleMisuse]
  · intro s hup ho hr
    rw [exec_castleCommit hup, castleCommit_of_sound ho hr, committed]
  · intro s r hup ho hs hr
    rw [exec_castleCommit hup, castleCommit_of_unsound ho hr]
    exact congrArg _ (dropPatch_of_none hs)
  · intro s hup ho
    rw [exec_castleCommit hup, castleCommit_of_notOpen ho, castleMisuse]
  · intro s hup h hs he
    rw [exec_castleRollback hup, castleRollback_of_busy h hs]
    exact congrArg _ (enableResume_of_none he)
  · intro s hup ho hp he
    rw [exec_castleRollback hup, castleRollback_of_idle ho hp]
    exact congrArg _ (enableResume_of_none he)

/-- Settles O8: an apply is the writing of the staged values in order, and what follows it touches neither them nor the parts that
the statement names. -/
theorem castleApply : Obligations.CastleApply := by
  refine ⟨?_, ?_⟩
  · intro s hr hp hpend hsafe href hwait
    obtain ⟨t, ht, hframe⟩ := applyStaged_frame s
    have hcommit := commitPatch_onlyEnds_of t
    have htry : castleTry s = commitPatch t := by
      have hkept : (commitPatch t).regs.enableWait = none := by
        unfold onlyEnds at hcommit
        rw [hcommit, hframe]
        exact hwait
      rw [castleTry, hpend, hsafe, href]
      exact (congrArg enableResume ht).trans (enableResume_of_none hkept)
    unfold onlyEnds at hcommit
    have hshadow : (commitPatch t).regs.shadow = appliedShadow s.regs.qctl.sawReady s.regs.shadow := by
      rw [hcommit, hframe]
    refine ⟨commitPatch t, by rw [exec_castleApply hr hp, htry], ?_, ?_, ?_, ?_, ?_⟩
    · rw [hshadow]
      rfl
    · rw [hshadow]
      rfl
    · intro off hoff
      rw [hshadow]
      exact get?_applied_of_now _ _ hoff
    · intro off hoff
      rw [hshadow]
      exact get?_applied_of_later _ _ hoff
    · rw [hcommit, hframe]
      exact ⟨rfl, rfl, rfl, rfl⟩
  · intro s hr hpend hsafe
    change Host.Outcome.next (when (runs s && s.pwr.state == 0) castleTry s) = _
    rw [when, castleTry_of_noSafePoint hsafe, ite_self]

section Registers

variable {s : State}

/-! ### Immediate registers -/

theorem exec_registerWrite {off : Nat} {v : W32} (h : up s = true) :
    exec (.registerWrite off v) s = .next (registerWrite off v s) := regWhen_of_up (registerWrite off v) h

/-- Only the values 0 to 13 of MACRO name a store (R322). -/
theorem flipArm_eq (v : W32) (s : State) : flipArm v s = { s with regs.flip := { s.regs.flip with
    check := BitVec.ofNat 8 v.toNat, store := v.toNat / 2 ^ 8 % 2 ^ 5
    arm := v.getLsbD 16 && decide (v.toNat / 2 ^ 8 % 2 ^ 5 ≤ 13) } } := by
  have hlt : decide (bits v.toNat 12 8 < 14) = decide (v.toNat / 2 ^ 8 % 2 ^ 5 ≤ 13) :=
    decide_eq_decide.2 Nat.lt_succ_iff
  unfold flipArm
  dsimp only
  rw [hlt]
  rfl

/-- The request that MIRROR_RETRY makes of one that waits. -/
def retriedHb (r : HbReq) : HbReq :=
  match r.kind with
  | .mirror .. | .grant .. | .image .. => if 4 ≤ r.tries then { r with tries := 0 } else r
  | _ => r

theorem mirrorRetry_eq (s : State) : mirrorRetry s = { s with out.hb := s.out.hb.map retriedHb } := rfl

theorem retriedHb_eq (r : HbReq) : retriedHb r =
    match r.kind with
    | .mirror _ _ _ _ => { r with tries := if 4 ≤ r.tries then 0 else r.tries }
    | .grant _ _ => { r with tries := if 4 ≤ r.tries then 0 else r.tries }
    | .image .. => { r with tries := if 4 ≤ r.tries then 0 else r.tries }
    | _ => r := by
  obtain ⟨id, kind⟩ := r
  have hgone : ∀ r : HbReq, (if 4 ≤ r.tries then { r with tries := 0 } else r) =
      { r with tries := if 4 ≤ r.tries then 0 else r.tries } := fun r => by split <;> rfl
  cases kind with
  | mirror | grant | image => exact hgone _
  | _ => rfl

theorem exec_mirrorRetry {v : W32} (h : up s = true) :
    exec (.mirrorRetry v) s = .next (when (v.getLsbD 0 && !s.regs.gasp.hold) mirrorRetry s) :=
  regWhen_of_up (when (v.getLsbD 0 && !s.regs.gasp.hold) mirrorRetry) h

end Registers

/-- Settles O9: each row is a write of its own fields; MIRROR_RETRY is a map over the requests. -/
theorem immediateRegisters : Obligations.ImmediateRegisters := by
  refine ⟨?_, ?_, ?_, ?_⟩
  · intro s v hup
    exact ⟨regWhen_of_up (fun s => { s with regs.crcRun := v }) hup, regWhen_of_up (crcIn 1 v) hup,
      regWhen_of_up (crcIn 2 v) hup, regWhen_of_up (crcIn 4 v) hup, rfl⟩
  · intro s v hup
    refine ⟨?_, ?_, ?_, ?_, ?_⟩
    all_goals
      change regWhen _ s = _
      rw [regWhen_of_up _ hup]
      rfl
  · intro s v hup
    refine ⟨?_, regWhen_of_up (when (v.getLsbD 5) fun s => { s with regs.gasp := { s.regs.gasp with cause := 0, valid := false } }) hup,
      regWhen_of_up (fun s => { s with regs.aonHi := BitVec.ofNat 32 (s.time.aon / 2 ^ 32) }) hup,
      ?_, ?_, ?_, ?_, ?_⟩
    · rw [← flipArm_eq]
      exact regWhen_of_up (flipArm v) hup
    · rw [exec_registerWrite hup]
      rfl
    · rw [exec_registerWrite hup]
      simp [registerWrite, bits]
    all_goals
      rw [exec_registerWrite hup]
      rfl
  · intro s v hup
    refine ⟨fun hidle => ?_, fun hv hhold => ?_⟩
    · rw [exec_mirrorRetry hup, when, if_neg]
      rcases hidle with h | h
      · rw [h, Bool.false_and]
        exact Bool.false_ne_true
      · simp [h]
    · refine ⟨mirrorRetry s, ?_, rfl, by simp [mirrorRetry_eq], fun n => ?_⟩
      · rw [exec_mirrorRetry hup, when, if_pos (by simp [hv, hhold])]
      · simp only [mirrorRetry_eq, List.getElem?_map]
        exact congrArg (fun f => Option.map f s.out.hb[n]?) (funext retriedHb_eq)

section RingEnable

variable {s : State}

/-! ### RING_ENABLE -/

theorem exec_ringEnable (d de m : HostRead) (hup : up s = true) :
    exec (.ringEnable d de m) s = .next (ringEnable d de m s) := regWhen_of_up (ringEnable d de m) hup

theorem ringEnable_of_ready (d de m : HostRead) (h : s.regs.qctl.ready = true) : ringEnable d de m s = s := by
  simp [ringEnable, h]

theorem ringEnable_of_free (d de m : HostRead) (hr : s.regs.qctl.ready = false) (hh : s.regs.gasp.hold = false)
    (hp : s.regs.shadow.castle.pend = false) : ringEnable d de m s = ringEnableGo d de m s := by
  simp [ringEnable, hr, hh, hp]

/-- The state in which the descriptors are judged: they have been read, and RING_ENABLE reads 1 (R370). -/
def enabling (s : State) : State :=
  { enableReads s with regs.qctl := { (enableReads s).regs.qctl with enable := true, err := false, errOff := 0, errSrc := 0 } }

theorem ringEnableGo_of_noDesc (de m : HostRead) : ringEnableGo none de m s = ringErr 0 0xFF (enabling s) := rfl

theorem ringEnableGo_of_badDesc {d : Bytes} {o : Nat} (de m : HostRead) (h : descBad (slice d 0 64) true = some o) :
    ringEnableGo (some d) de m s = ringErr 0 o (enabling s) := by
  simp only [ringEnableGo, h, enabling]

/-- The journal in which the rings come up: a new one when the mirror is all zero (R304). -/
def enabledJournal (m : Bytes) (s : State) : State := if headerKind m = 0 then writeMirrorHeader (newJournal s) else s

theorem ringEnableGo_of_sound {d de m : Bytes} (hd : descBad (slice d 0 64) true = none)
    (he : evDescBad (slice de 0 64) = none) (hm : headerKind m ≤ 1) :
    ringEnableGo (some d) (some de) (some m) s = ringsUp (slice d 0 64) (slice de 0 64) (enabledJournal m (enabling s)) := by
  unfold enabledJournal
  obtain hk | hk : headerKind m = 0 ∨ headerKind m = 1 := by omega
  · simp only [ringEnableGo, hd, he, hk, enabling, if_true]
  · simp only [ringEnableGo, hd, he, hk, enabling, one_ne_zero, if_false]

/-- What the journal that comes up leaves as it was: all but the journal's objects and the header's write. -/
theorem enabledJournal_frame (m : Bytes) (s : State) : ∃ t : State, enabledJournal m s = t ∧ t = { s with
    ring := { s.ring with queues := t.ring.queues, nextSeqOf := t.ring.nextSeqOf }
    ldg := t.ldg, adm := t.adm, cap.epochs := t.cap.epochs, flt.retired := t.flt.retired
    out := { s.out with hb := t.out.hb, nextId := t.out.nextId } } ∧ t.ldg.resetCause = s.ldg.resetCause := by
  refine ⟨_, rfl, ?_⟩
  unfold enabledJournal
  split
  · exact ⟨rfl, rfl⟩
  · exact ⟨rfl, rfl⟩

theorem queue?_ringsUp_desc (d de : Bytes) (s : State) : (queue? (ringsUp d de s) 0).map (·.desc) = some d := by
  unfold ringsUp queue?
  dsimp only
  rw [Tab.get?_put_self]
  split <;> rfl

end RingEnable

/-- Settles O10: the reads come first, then the descriptors and the mirror's header are judged in turn; the rings come up in a
journal that leaves all other parts as they were. -/
theorem ringEnable_meets : Obligations.RingEnable := by
  refine ⟨?_, ?_, ?_, ?_⟩
  · intro d de m s hup hr hh hp hd he hm
    obtain ⟨t, ht, hframe, hcause⟩ := enabledJournal_frame m (enabling s)
    refine ⟨ringsUp (slice d 0 64) (slice de 0 64) t, ?_, ⟨?_, queue?_ringsUp_desc .., rfl, rfl, rfl⟩, ?_, ?_, ?_, ?_⟩
    · rw [exec_ringEnable _ _ _ hup, ringEnable_of_free _ _ _ hr hh hp, ringEnableGo_of_sound hd he hm, ht]
    · rw [hframe]
      simp [readReg, isShadowed, readQctl, ringsUp, enabling, enableReads, b2n]
    · rw [hframe]
      simp [ringsUp, enabling, enableReads, mirrorBase, queueBase]
      rfl
    · rw [show (ringsUp (slice d 0 64) (slice de 0 64) t).ring.ev.held = ⟨0x0B03, 0, 0xFFFF, t.time.aon, 0,
        t.ldg.resetCause + 16 * b2n t.pins.rstOff⟩ :: t.ring.ev.held from rfl, hcause, hframe]
      rfl
    · rw [hframe]
      rfl
    · rw [hframe]
      exact ⟨rfl, rfl, rfl⟩
  · intro d o de m s hup hr hh hp hd
    rw [exec_ringEnable _ _ _ hup, ringEnable_of_free _ _ _ hr hh hp, ringEnableGo_of_badDesc de m hd]
    rfl
  · intro de m s hup hr hh hp
    rw [exec_ringEnable _ _ _ hup, ringEnable_of_free _ _ _ hr hh hp, ringEnableGo_of_noDesc]
    rfl
  · intro d de m s hr
    change regWhen (ringEnable d de m) s = _
    rw [regWhen, when, ringEnable_of_ready d de m hr, ite_self]

end Sys2Proof.Machine
end

section
/-! SUPPORT. A cycle without a command (R16, R147): what it may change, the arbiters' choice, the grant of a request that waits
alone, and the reserve that a class keeps in a window of 64 grants. -/

namespace Sys2Proof.Machine

section Cycle

variable {s t u : State}

/-! ### What a cycle may change -/

/-- `t` is `s` but for what grants, the merge buffers and the spill ports change in a cycle; tokens are only drawn. -/
def onlyCycle (s t : State) : Prop :=
  t = { s with
    ring := t.ring
    out := { s.out with hb := t.out.hb, fab := t.out.fab, nextId := t.out.nextId, arbs := t.out.arbs, msix := t.out.msix, line := t.out.line }
    regs := { s.regs with flip := t.regs.flip, eccCe := t.regs.eccCe, eccUe := t.regs.eccUe, eccLast := t.regs.eccLast }
    dbg := { s.dbg with hits := t.dbg.hits }
    flt := t.flt
    spl := t.spl
    str.tokens := t.str.tokens } ∧ t.str.tokens ≤ s.str.tokens

theorem onlyCycle_refl (s : State) : onlyCycle s s := ⟨rfl, le_rfl⟩

theorem onlyCycle.trans (h : onlyCycle s t) (k : onlyCycle t u) : onlyCycle s u := by
  obtain ⟨h, hle⟩ := h
  obtain ⟨k, kle⟩ := k
  refine ⟨?_, kle.trans hle⟩
  rw [h] at k
  rw [k]

theorem onlyCycle_of_events (h : onlyEvents s t) : onlyCycle s t := by
  unfold onlyEvents at h
  refine ⟨?_, ?_⟩
  · rw [h]
  · rw [h]

theorem onlyCycle_each {α : Type} {f : α → State → State} (hf : ∀ a s, onlyCycle s (f a s)) (l : List α) (s : State) :
    onlyCycle s (each l f s) := by
  unfold each
  induction l generalizing s with
  | nil => exact onlyCycle_refl s
  | cons a l ih => exact (hf a s).trans (ih (f a s))

theorem flipHook_onlyCycle (store lane : Nat) (s : State) : onlyCycle s (flipHook store lane s) := by
  unfold flipHook
  dsimp only
  split
  · exact ⟨rfl, le_rfl⟩
  · exact ⟨rfl, le_rfl⟩

theorem eccCount_onlyCycle (store lane : Nat) (ue : Bool) (s : State) : onlyCycle s (laneClean store lane (eccCount store lane ue s)) :=
  ⟨rfl, le_rfl⟩

theorem ceCount_onlyCycle (store lane : Nat) (s : State) : onlyCycle s (ceCount store lane s) := by
  unfold ceCount
  dsimp only
  refine (eccCount_onlyCycle store lane false s).trans ?_
  split
  · refine onlyCycle.trans ?_ (onlyCycle_of_events (raise0_events ..))
    exact ⟨rfl, le_rfl⟩
  · exact ⟨rfl, le_rfl⟩

theorem ueCount_onlyCycle (store lane : Nat) (s : State) : onlyCycle s (ueCount store lane s) :=
  (eccCount_onlyCycle store lane true s).trans (onlyCycle_of_events (raise0_events ..))

theorem mergeOut_onlyCycle (e : Merge) (s : State) : onlyCycle s (mergeOut e s) := by
  have hdrop : onlyCycle s (dropMerge e.store e.lane s) := ⟨rfl, le_rfl⟩
  unfold mergeOut
  dsimp only
  refine hdrop.trans ?_
  split
  · exact flipHook_onlyCycle ..
  · split
    · refine onlyCycle.trans ?_ (flipHook_onlyCycle ..)
      split
      · exact ceCount_onlyCycle ..
      · exact onlyCycle_refl _
    · exact (ueCount_onlyCycle ..).trans ⟨rfl, le_rfl⟩

theorem mergeAge_onlyCycle (s : State) : onlyCycle s (mergeAge s) := onlyCycle_each mergeOut_onlyCycle _ s

theorem presentSlots_onlyCycle (q start : Nat) (s : State) : onlyCycle s (presentSlots q start s) := by
  unfold presentSlots
  split
  · exact onlyCycle_refl s
  · split
    · exact ⟨rfl, le_rfl⟩
    · exact onlyCycle_refl s

theorem grantHb_onlyCycle (c : Nat) (s : State) : onlyCycle s (grantHb c s) := by
  unfold grantHb
  split
  · exact onlyCycle_refl s
  · next w _ =>
    have hmark : onlyCycle s (counted (32 + c) w
        { s with out.hb := updWhere (fun r => r.id == w.id) (fun r => { r with granted := true }) s.out.hb }) := ⟨rfl, le_rfl⟩
    dsimp only
    split
    · exact hmark
    · split
      · exact hmark.trans (presentSlots_onlyCycle ..)
      · exact hmark

theorem grantFab_onlyCycle (port : Nat) (write : Bool) (s : State) : onlyCycle s (grantFab port write s) := by
  unfold grantFab
  split
  · exact onlyCycle_refl s
  · split
    · exact onlyCycle_refl s
    · exact ⟨rfl, Nat.sub_le ..⟩

theorem grantAll_onlyCycle (s : State) : onlyCycle s (grantAll s) :=
  (onlyCycle_each grantHb_onlyCycle _ s).trans
    (onlyCycle_each (fun p t => (grantFab_onlyCycle p false t).trans (grantFab_onlyCycle p true _)) _ _)

theorem sendLines_onlyCycle (s : State) : onlyCycle s (sendLines s) := ⟨rfl, le_rfl⟩

/-- The state in which the arbiters of a cycle grant: the counts have advanced, the budget is refilled, what was driven has been
taken. -/
def cycled (s : State) : State := { s with
  time.aon := (s.time.aon + 1) % 2 ^ 64
  time.core := (s.time.core + 20) % 2 ^ 64
  time.act := s.time.act + b2n (s.pwr.state == 0 && !halted s)
  str.tokens := refill s 20
  asy.verdicts := []
  out := { s.out with msix := [], pulls := [], rels := [], relAll := [], vld := [], reads := [], line := [] } }

theorem idle_of_up (h : up s = true) : idle s = sendLines (grantAll (mergeAge (cycled s))) := by
  have h' : up (cycled s) = true := h
  unfold idle
  exact if_pos h'

theorem idle_of_down (h : up s = false) : idle s = cycled s := by
  have h' : up (cycled s) = false := h
  have h' : ¬up (cycled s) = true := by rw [h']; exact Bool.false_ne_true
  unfold idle
  exact if_neg h'

theorem step_of_idle (h : s.pending = []) : step s = .next (idle s) := by rw [step, h]

theorem refill_eq (s : State) : refill s 20 =
    min (4096 * (sh s 0x404 / 2 ^ 16 % 2 ^ 12)) (s.str.tokens + 20 * (sh s 0x404 % 2 ^ 12)) := by
  simp [refill, bits, Nat.mul_comm]

theorem countActive_eq (s : State) :
    b2n (s.pwr.state == 0 && !halted s) = if s.pwr.state = 0 ∧ halted s = false then 1 else 0 := by
  simp [b2n]

/-! ### A request that waits alone -/

theorem mergeAge_of_empty (h : s.flt.merge = []) : mergeAge s = s := by
  simp [mergeAge, mergeDrain, h, each]

theorem choose_singleton (a : Arb) {c : Nat} (hc : c < 6) : a.choose [c] = some c := by
  have hcand : (List.range 6).filter (fun x => [c].contains x) = [c] := by
    interval_cases c <;> rfl
  unfold Arb.choose
  dsimp only
  rw [hcand]
  cases h : [c].find? fun c => decide (a.used.getD c 0 < reserves.getD c 0) with
  | none => rfl
  | some d => rw [List.mem_singleton.1 (List.mem_of_find?_eq_some h)]

theorem choose_nil (a : Arb) : a.choose [] = none := rfl

theorem nextInTurn_singleton (last : Nat) (w : Wait) : nextInTurn last [w] = some w := by
  unfold nextInTurn
  dsimp only
  by_cases h : last < w.ctx.getD 131072 <;> simp [h]

theorem pick_singleton (s : State) (a : Arb) {w : Wait} (hw : w.cls < 6) : pick s a [w] = some w := by
  unfold pick
  rw [List.map_singleton, choose_singleton a hw, Option.bind_some]
  have hmine : [w].filter (fun x => x.cls == w.cls) = [w] := by simp
  dsimp only
  rw [hmine]
  split
  · split
    · exact nextInTurn_singleton ..
    · rfl
  · rfl

theorem pick_nil (s : State) (a : Arb) : pick s a [] = none := rfl

theorem each_eq_of_fixed {α : Type} {f : α → State → State} {l : List α} (h : ∀ a ∈ l, f a s = s) : each l f s = s := by
  unfold each
  induction l with
  | nil => rfl
  | cons a l ih => rw [List.foldl_cons, h a List.mem_cons_self, ih fun b hb => h b (List.mem_cons_of_mem _ hb)]

/-- Over a range of indices, one of which changes the state and the others of which do not, before or after. -/
theorem each_range_eq {f : Nat → State → State} {n k : Nat} (hk : k < n) (hbefore : ∀ i, i ≠ k → f i s = s)
    (hafter : ∀ i, i ≠ k → f i (f k s) = f k s) : each (List.range n) f s = f k s := by
  obtain ⟨m, rfl⟩ : ∃ m, n = k + 1 + m := ⟨n - (k + 1), by omega⟩
  rw [List.range_add, List.range_succ]
  unfold each
  rw [List.foldl_append, List.foldl_append]
  have h1 : (List.range k).foldl (fun t x => f x t) s = s :=
    each_eq_of_fixed (f := f) fun i hi => hbefore i (by have := List.mem_range.1 hi; omega)
  rw [h1]
  refine each_eq_of_fixed (f := f) fun i hi => hafter i ?_
  obtain ⟨j, -, rfl⟩ := List.mem_map.1 hi
  omega

/-! ### The host bridge -/

theorem grantHb_of_noneWaits {c : Nat} (h : hbWaiting s c = []) : grantHb c s = s := by
  unfold grantHb
  rw [h, pick_nil]

theorem hbWaiting_of_single {r : HbReq} {c : Nat} (h : s.out.hb = [r]) (hn : r.granted = true ∨ r.chan ≠ c) :
    hbWaiting s c = [] := by
  unfold hbWaiting
  rw [h]
  rcases hn with hn | hn <;> simp [hn]

theorem grantHb_of_single {r : HbReq} (h : s.out.hb = [r]) (hg : r.granted = false) (hc : r.cls < 6)
    (hk : ∀ q start part, r.kind ≠ .slots q start part) : (grantHb r.chan s).out.hb = [{ r with granted := true }] := by
  have hw : hbWaiting s r.chan = [{ id := r.id, cls := r.cls, ctx := r.ctx, fill := !r.write }] := by
    unfold hbWaiting
    rw [h]
    simp [hg]
  unfold grantHb
  rw [hw, pick_singleton s _ hc]
  dsimp only
  have hfind : (counted (32 + r.chan) { id := r.id, cls := r.cls, ctx := r.ctx, fill := !r.write }
      { s with out.hb := updWhere (fun x => x.id == r.id) (fun x => { x with granted := true }) s.out.hb }).out.hb =
      [{ r with granted := true }] := by
    simp [counted, updWhere, h]
  rw [hfind, List.find?_singleton]
  simp only [beq_self_eq_true, if_true]
  cases hkind : r.kind with
  | slots q start part => exact absurd hkind (hk q start part)
  | _ => simpa only [hkind] using hfind

theorem grantHbAll_of_single {r : HbReq} (h : s.out.hb = [r]) (hg : r.granted = false) (hchan : r.chan < 4) (hc : r.cls < 6)
    (hk : ∀ q start part, r.kind ≠ .slots q start part) :
    (each (List.range 4) grantHb s).out.hb = [{ r with granted := true }] := by
  have hgranted := grantHb_of_single h hg hc hk
  rw [each_range_eq hchan (fun i hi => grantHb_of_noneWaits (hbWaiting_of_single h (.inr hi.symm)))
    fun i _ => grantHb_of_noneWaits (hbWaiting_of_single hgranted (.inl rfl))]
  exact hgranted

theorem grantFab_hb (port : Nat) (write : Bool) (s : State) : (grantFab port write s).out.hb = s.out.hb := by
  unfold grantFab
  repeat' split
  all_goals rfl

theorem each_keeps {α β : Type} {f : α → State → State} {p : State → β} (hf : ∀ a s, p (f a s) = p s) (l : List α) (s : State) :
    p (each l f s) = p s := by
  unfold each
  induction l generalizing s with
  | nil => rfl
  | cons a l ih => exact (ih (f a s)).trans (hf a s)

/-- One grant opportunity of a port in both directions. -/
def grantPort (p : Nat) (s : State) : State := grantFab p true (grantFab p false s)

theorem grantAll_eq (s : State) : grantAll s = each (List.range 16) grantPort (each (List.range 4) grantHb s) := by
  unfold grantAll
  rfl

theorem grantPort_hb (p : Nat) (s : State) : (grantPort p s).out.hb = s.out.hb :=
  (grantFab_hb p true _).trans (grantFab_hb p false s)

theorem grantAll_hb (s : State) : (grantAll s).out.hb = (each (List.range 4) grantHb s).out.hb := by
  rw [grantAll_eq]
  exact each_keeps (p := fun s => s.out.hb) grantPort_hb ..

theorem sendLines_out (s : State) : (sendLines s).out.hb = s.out.hb ∧ (sendLines s).out.fab = s.out.fab ∧
    (sendLines s).str = s.str := ⟨rfl, rfl, rfl⟩

/-! ### The fabric -/

theorem grantHb_fab (c : Nat) (s : State) :
    ((grantHb c s).out.fab, (grantHb c s).str.tokens) = (s.out.fab, s.str.tokens) := by
  unfold grantHb presentSlots
  dsimp only
  repeat' split
  all_goals rfl

theorem grantFab_of_noneWaits {port : Nat} {write : Bool} (h : fabWaiting s port write = []) : grantFab port write s = s := by
  unfold grantFab
  rw [h, pick_nil]

theorem fabWaiting_of_single {r : FabReq} {port : Nat} {write : Bool} (h : s.out.fab = [r])
    (hn : r.granted = true ∨ r.port ≠ port ∨ r.write ≠ write ∨ s.str.tokens < tokensOf r) : fabWaiting s port write = [] := by
  unfold fabWaiting mayGrant
  rw [h]
  rcases hn with hn | hn | hn | hn <;> simp [hn, Nat.not_le.2]

theorem grantFab_of_single {r : FabReq} (h : s.out.fab = [r]) (hg : r.granted = false) (hc : r.cls < 6)
    (hi : isInjected r = false) (hl : 512 < r.len) (ht : tokensOf r ≤ s.str.tokens) :
    (grantFab r.port r.write s).out.fab = [{ r with granted := true }] ∧
      (grantFab r.port r.write s).str.tokens = s.str.tokens - tokensOf r := by
  have hw : fabWaiting s r.port r.write = [{ id := r.id, cls := r.cls, ctx := r.ctx, fill := !r.write }] := by
    unfold fabWaiting mayGrant
    rw [h]
    simp [hg, hi, hl, ht]
  unfold grantFab
  rw [hw, pick_singleton s _ hc]
  dsimp only
  rw [h, List.find?_singleton]
  simp [counted, updWhere, Nat.not_le.2 hl]

theorem grantPort_of_other {r : FabReq} {p : Nat} (h : s.out.fab = [r]) (hn : r.granted = true ∨ r.port ≠ p ∨ s.str.tokens < tokensOf r) :
    grantPort p s = s := by
  have hn' : ∀ write, r.granted = true ∨ r.port ≠ p ∨ r.write ≠ write ∨ s.str.tokens < tokensOf r := by
    intro write
    rcases hn with hn | hn | hn
    · exact .inl hn
    · exact .inr (.inl hn)
    · exact .inr (.inr (.inr hn))
  unfold grantPort
  rw [grantFab_of_noneWaits (fabWaiting_of_single h (hn' false)), grantFab_of_noneWaits (fabWaiting_of_single h (hn' true))]

theorem grantPort_of_single {r : FabReq} (h : s.out.fab = [r]) (hg : r.granted = false) (hc : r.cls < 6)
    (hi : isInjected r = false) (hl : 512 < r.len) (ht : tokensOf r ≤ s.str.tokens) :
    (grantPort r.port s).out.fab = [{ r with granted := true }] ∧
      (grantPort r.port s).str.tokens = s.str.tokens - tokensOf r := by
  obtain ⟨hfab, htok⟩ := grantFab_of_single h hg hc hi hl ht
  unfold grantPort
  cases hw : r.write with
  | false =>
    rw [hw] at hfab htok
    rw [grantFab_of_noneWaits (fabWaiting_of_single hfab (.inl rfl))]
    exact ⟨hfab, htok⟩
  | true =>
    rw [hw] at hfab htok
    rw [grantFab_of_noneWaits (write := false) (fabWaiting_of_single h (.inr (.inr (.inl (by rw [hw]; decide)))))]
    exact ⟨hfab, htok⟩

theorem grantPorts_of_single {r : FabReq} (h : s.out.fab = [r]) (hg : r.granted = false) (hp : r.port < 16) (hc : r.cls < 6)
    (hi : isInjected r = false) (hl : 512 < r.len) :
    (each (List.range 16) grantPort s).out.fab = [{ r with granted := decide (tokensOf r ≤ s.str.tokens) }] ∧
      (each (List.range 16) grantPort s).str.tokens = s.str.tokens - (if tokensOf r ≤ s.str.tokens then tokensOf r else 0) := by
  by_cases ht : tokensOf r ≤ s.str.tokens
  · obtain ⟨hfab, htok⟩ := grantPort_of_single h hg hc hi hl ht
    rw [each_range_eq hp (fun i hi => grantPort_of_other h (.inr (.inl hi.symm)))
      fun i _ => grantPort_of_other hfab (.inl rfl)]
    simp only [hfab, htok, ht, decide_true, if_true, and_self]
  · rw [each_eq_of_fixed fun p _ => grantPort_of_other h (.inr (.inr (Nat.not_le.1 ht))), h]
    simp [ht, ← hg]

theorem grantAll_fab_of_single {r : FabReq} (h : s.out.fab = [r]) (hg : r.granted = false) (hp : r.port < 16) (hc : r.cls < 6)
    (hi : isInjected r = false) (hl : 512 < r.len) :
    (grantAll s).out.fab = [{ r with granted := decide (tokensOf r ≤ s.str.tokens) }] ∧
      (grantAll s).str.tokens = s.str.tokens - (if tokensOf r ≤ s.str.tokens then tokensOf r else 0) := by
  have hkeep := each_keeps (p := fun s => (s.out.fab, s.str.tokens)) grantHb_fab (List.range 4) s
  obtain ⟨hfab, htok⟩ := Prod.mk.inj hkeep
  rw [← htok, grantAll_eq]
  exact grantPorts_of_single (hfab.trans h) hg hp hc hi hl

end Cycle

section Window

variable {a : Arb} {waiting : List Nat} {c d : Nat}

/-! ### The classes of a window -/

theorem mem_candidates : c ∈ (List.range 6).filter waiting.contains ↔ c < 6 ∧ c ∈ waiting := by
  simp

/-- A grant goes to the lowest waiting class within its reserve, or, when none is, to the lowest one. -/
theorem choose_cases (h : a.choose waiting = some c) :
    (c < 6 ∧ c ∈ waiting) ∧
      ((a.used.getD c 0 < reserves.getD c 0 ∧ ∀ d ∈ waiting, d < c → reserves.getD d 0 ≤ a.used.getD d 0) ∨
        ∀ d ∈ waiting, d < 6 → reserves.getD d 0 ≤ a.used.getD d 0 ∧ c ≤ d) := by
  have hsorted : ((List.range 6).filter waiting.contains).Pairwise (· < ·) := (List.pairwise_lt_range).filter _
  unfold Arb.choose at h
  dsimp only at h
  split at h
  · next e hf =>
    cases h
    obtain ⟨hp, as, bs, hsplit, has⟩ := List.find?_eq_some_iff_append.1 hf
    have hc : c ∈ (List.range 6).filter waiting.contains := List.mem_of_find?_eq_some hf
    refine ⟨mem_candidates.1 hc, .inl ⟨by simpa using hp, fun d hd hlt => ?_⟩⟩
    have hdmem : d ∈ as ++ c :: bs := hsplit ▸ mem_candidates.2 ⟨hlt.trans (mem_candidates.1 hc).1, hd⟩
    rw [hsplit, List.pairwise_append, List.pairwise_cons] at hsorted
    obtain ⟨-, ⟨hcb, -⟩, -⟩ := hsorted
    rcases List.mem_append.1 hdmem with hda | hdc
    · simpa using has d hda
    · rcases List.mem_cons.1 hdc with rfl | hdb
      · omega
      · have := hcb d hdb
        omega
  · next hf =>
    rw [List.find?_eq_none] at hf
    have hc := List.mem_of_head? h
    refine ⟨mem_candidates.1 hc, .inr fun d hd hlt => ⟨by simpa using hf d (mem_candidates.2 ⟨hlt, hd⟩), ?_⟩⟩
    have hdmem := mem_candidates.2 ⟨hlt, hd⟩
    obtain ⟨l, hl⟩ := List.head?_eq_some_iff.1 h
    rw [hl] at hsorted hdmem
    rcases List.mem_cons.1 hdmem with rfl | hdl
    · exact le_rfl
    · exact (List.pairwise_cons.1 hsorted).1 d hdl |>.le

/-- While a waiting class is within its reserve, so is the class that is granted. -/
theorem choose_within (h : a.choose waiting = some d) (hc : c ∈ waiting) (hlt : c < 6)
    (hr : a.used.getD c 0 < reserves.getD c 0) : d < 6 ∧ a.used.getD d 0 < reserves.getD d 0 := by
  obtain ⟨⟨hd, -⟩, h | h⟩ := choose_cases h
  · exact ⟨hd, h.1⟩
  · exact absurd (h c hc hlt).1 (Nat.not_le.2 hr)

theorem choose_isSome (hc : c ∈ waiting) (hlt : c < 6) : ∃ d, a.choose waiting = some d := by
  have hmem := mem_candidates.2 ⟨hlt, hc⟩
  unfold Arb.choose
  dsimp only
  split
  · exact ⟨_, rfl⟩
  · exact ⟨_, List.head?_eq_some_head (List.ne_nil_of_mem hmem)⟩

/-- The grants that a window has counted: six classes, none beyond its reserve, as many as the window has made. -/
def inReserve (a : Arb) : Prop :=
  a.used.length = 6 ∧ a.n = a.used.sum ∧ ∀ d < 6, a.used.getD d 0 ≤ reserves.getD d 0

/-- A window whose 64 grants are all within the reserves has given every class its own: the reserves are 64 together. -/
theorem reserve_of_full (h : inReserve a) (hn : a.n = 64) (hc : c < 6) : a.used.getD c 0 = reserves.getD c 0 := by
  obtain ⟨hlen, hsum, hle⟩ := h
  obtain ⟨u0, u1, u2, u3, u4, u5, hu⟩ : ∃ u0 u1 u2 u3 u4 u5, a.used = [u0, u1, u2, u3, u4, u5] := by
    match a.used, hlen with
    | [u0, u1, u2, u3, u4, u5], _ => exact ⟨u0, u1, u2, u3, u4, u5, rfl⟩
  rw [hu] at hsum hle ⊢
  have h0 := hle 0 (by decide)
  have h1 := hle 1 (by decide)
  have h2 := hle 2 (by decide)
  have h3 := hle 3 (by decide)
  have h4 := hle 4 (by decide)
  have h5 := hle 5 (by decide)
  simp [reserves] at hsum h0 h1 h2 h3 h4 h5 ⊢
  interval_cases c <;> simp <;> omega

/-- One more grant of a class within its reserve. -/
theorem inReserve_modify (h : inReserve a) (last : Nat) (hd : d < 6) (hlt : a.used.getD d 0 < reserves.getD d 0) :
    inReserve { n := a.n + 1, used := a.used.modify d (· + 1), last } ∧
      ∀ c, (a.used.modify d (· + 1)).getD c 0 = a.used.getD c 0 + if c = d then 1 else 0 := by
  obtain ⟨hlen, hsum, hle⟩ := h
  have hget : ∀ c, (a.used.modify d (· + 1)).getD c 0 = a.used.getD c 0 + if c = d then 1 else 0 := by
    intro c
    simp only [List.getD_eq_getElem?_getD, List.getElem?_modify]
    by_cases hcd : c = d
    · subst hcd
      simp [List.getElem?_eq_getElem (hlen ▸ hd)]
    · simp [hcd, Ne.symm hcd]
  refine ⟨⟨by simpa using hlen, ?_, fun c hc => ?_⟩, hget⟩
  · dsimp only
    rw [hsum]
    match a.used, hlen with
    | [_, _, _, _, _, _], _ => interval_cases d <;> simp <;> omega
  · rw [hget c]
    split
    · next hcd =>
      subst hcd
      omega
    · exact hle c hc

theorem grantsOf_nil (a : Arb) : grantsOf a [] = [] := rfl

/-- A class that waits to the end of a window gets its reserve in it. -/
theorem reserve_le_grants (ws : List (List Nat)) (a : Arb) (h : inReserve a) (hn : a.n + ws.length = 64) (hc : c < 6)
    (hw : ∀ w ∈ ws, c ∈ w) : reserves.getD c 0 ≤ a.used.getD c 0 + (grantsOf a ws).count c := by
  induction ws generalizing a with
  | nil =>
    rw [reserve_of_full h (by simpa using hn) hc]
    exact Nat.le_add_right ..
  | cons w rest ih =>
    by_cases hr : a.used.getD c 0 < reserves.getD c 0
    · obtain ⟨d, hchoose⟩ := choose_isSome (a := a) (hw w List.mem_cons_self) hc
      obtain ⟨hd, hlt⟩ := choose_within hchoose (hw w List.mem_cons_self) hc hr
      obtain ⟨hin, hget⟩ := inReserve_modify h a.last hd hlt
      have hcount : (grantsOf a (w :: rest)).count c =
          (grantsOf (a.count d a.last) rest).count c + if c = d then 1 else 0 := by
        rw [grantsOf, hchoose]
        rw [List.count_cons]
        simp only [beq_iff_eq, eq_comm (a := c)]
      rw [hcount]
      have hrest : ∀ w ∈ rest, c ∈ w := fun x hx => hw x (List.mem_cons_of_mem _ hx)
      rw [List.length_cons] at hn
      by_cases hlast : a.n + 1 = 64
      · have hnil : rest = [] := List.eq_nil_of_length_eq_zero (by omega)
        have hfull := reserve_of_full hin hlast hc
        rw [hget c] at hfull
        rw [hnil, grantsOf_nil, ← hfull]
        omega
      · have hstep := ih _ hin (by simp only; omega) hrest
        rw [hget c] at hstep
        rw [Arb.count, if_neg hlast]
        omega
    · omega

theorem inReserve_new : inReserve {} := by
  refine ⟨rfl, rfl, fun d hd => ?_⟩
  interval_cases d <;> decide

end Window

/-- Settles O2: the frame of a cycle gives what stays; a request alone at its arbiter is granted; a window that grants within the
reserves has none left. -/
theorem idleStep : Obligations.IdleStep := by
  refine ⟨?_, ?_, ?_, ?_, ?_, ?_, ?_⟩
  · intro s hp hdown
    rw [step_of_idle hp, idle_of_down hdown, cycled, refill_eq, countActive_eq]
  · intro s hp hup
    have hcycle := (mergeAge_onlyCycle (cycled s)).trans ((grantAll_onlyCycle _).trans (sendLines_onlyCycle _))
    rw [← idle_of_up hup] at hcycle
    obtain ⟨hframe, hle⟩ := hcycle
    refine ⟨idle s, step_of_idle hp, ?_, ?_, ?_, ?_, ?_, ?_, ?_⟩
    · rw [hframe, ← countActive_eq]
      rfl
    · rw [hframe]
      rfl
    · rw [← refill_eq]
      exact hle
    · rw [hframe]
      rfl
    · rw [hframe]
      rfl
    · rw [hframe]
      exact ⟨rfl, rfl, rfl, rfl, rfl, rfl, hp⟩
    · rw [hframe]
      exact ⟨rfl, rfl, rfl, rfl, rfl, rfl⟩
  · intro s r hp hup hm hhb hg hchan hcls hk
    refine ⟨idle s, step_of_idle hp, ?_⟩
    have hm' : (cycled s).flt.merge = [] := hm
    have hhb' : (cycled s).out.hb = [r] := hhb
    rw [idle_of_up hup, mergeAge_of_empty hm']
    rw [(sendLines_out _).1, grantAll_hb]
    exact (grantHbAll_of_single hhb' hg hchan hcls hk)
  · intro s r hp hup hm hfab hg hport hcls hi hl
    refine ⟨idle s, step_of_idle hp, ?_⟩
    have hm' : (cycled s).flt.merge = [] := hm
    have hfab' : (cycled s).out.fab = [r] := hfab
    rw [idle_of_up hup, mergeAge_of_empty hm']
    rw [(sendLines_out _).2.1, (sendLines_out _).2.2]
    exact grantAll_fab_of_single hfab' hg hport hcls hi hl
  · intro a waiting c h
    obtain ⟨⟨hlt6, hc⟩, ⟨-, h⟩ | h⟩ := choose_cases h
    · exact ⟨hc, h⟩
    · exact ⟨hc, fun d hd hlt => (h d hd (hlt.trans hlt6)).1⟩
  · intro a waiting c h hr d hd hlt
    obtain ⟨-, h | h⟩ := choose_cases h
    · exact absurd h.1 (Nat.not_lt.2 hr)
    · exact h d hd hlt
  · intro ws c hlen hc hw
    have h := reserve_le_grants ws {} inReserve_new (by simp [hlen]) hc hw
    have hzero : ({} : Arb).used.getD c 0 = 0 := by interval_cases c <;> rfl
    rwa [hzero, Nat.zero_add] at h

end Sys2Proof.Machine
end

section
/-! SUPPORT. The slot that is read again (R43), of a queue table that lists one queue ID twice: the last clause about dispatch
reads the first entry of the ID, while the take is appended to each. -/

namespace Sys2Proof.Machine

/-- A queue that waits for its slot 0 and has no take. -/
def waitingQueue : Queue := { desc := List.replicate 64 0, waitPub := some (0, 0) }

/-- The same queue with a take whose reads have all gone. -/
def takingQueue : Queue :=
  { waitingQueue with takes := [{ start := 0, want := 0, slots := 0, reads := 0, todo := [] }] }

/-- A queue table with two entries of queue 0: the accessor sees the waiting one. -/
def twiceListed : State := { ring := { queues := [(0, waitingQueue), (0, takingQueue)] } }

/-- The takes of every entry of the queue table. -/
def takeCounts (s : State) : List Nat := s.ring.queues.map fun e => e.2.takes.length

/-- Refutes O12, in its last clause: that clause says that the takes of queue `q` become the new one alone, of every entry of the
table; the model appends it to those of each entry. With queue 0 listed twice, the second entry with a take, that entry
has two takes and not one. A table whose IDs rise has no such pair; the statement does not ask for one. -/
theorem not_dispatch : ¬ Obligations.Dispatch := by
  rintro ⟨-, -, -, -, -, -, -, -, hRepoll⟩
  have h := hRepoll twiceListed 0 waitingQueue (0, 0) rfl rfl rfl rfl rfl
  have htakes : takeCounts (slotRepoll 0 twiceListed) = [1, 1] :=
    congrArg takeCounts (Host.Outcome.next.inj h)
  exact absurd htakes (by decide)

end Sys2Proof.Machine
end

section
/-! SUPPORT. COMMAND_START (R21, R74, R89, R92, R98, R102, R298): what entering STARTED binds and journals, the end of a maintenance
command beside the token's holder, and a launch whose plan has a committed patch. -/

namespace Sys2Proof.Machine

section Starting

variable {q seq : Nat} {s : State} {c : Cmd}

/-! ### What entering STARTED binds -/

/-- A command as it stands once its start has bound its epoch, generation and in-flight slot. -/
def boundCmd (e : Nat × Nat) (gen : Nat) (c : Cmd) (s : State) (x : Cmd) : Cmd := { x with
  st := .started, since := s.time.act, epoch := e.1, badDetail := if e.2 = 0 then x.badDetail else e.2, gen
  slot := freeInFlight s c.q, maint := (maintKind s c.item).isSome && (tokenHolder s c).isNone
  items := if itemOp c.item = 0x4A then cancelTargets s c else x.items }

/-- The argument of a STARTED record (R298). -/
def startedArg (e gen slot : Nat) : Bytes := toLE 4 e ++ toLE 4 gen ++ toLE 1 slot

/-- The highest epoch number in use covers the one that an EPOCH_OPEN has bound (R98). -/
def coverEpoch (e : Nat) (c : Cmd) (s : State) : State :=
  if itemOp c.item = 0x40 ∧ e ≠ 0 then { s with ldg.highest := max s.ldg.highest e } else s

/-- The command bound and its STARTED record appended. -/
def enterStarted (e : Nat × Nat) (gen : Nat) (c : Cmd) (s : State) : State :=
  coverEpoch e.1 c (append 1 2 c.q c.seq (startedArg e.1 gen (freeInFlight s c.q)) false
    (onCmd c.q c.seq (boundCmd e gen c s) s))

theorem startCmd_eq (c : Cmd) (s : State) : startCmd c s =
    match tokenHolder (applyPending c s) c with
    | some h => finish c.q c.seq 7 (itemOp h.item) (enterStarted (bindEpoch s c) (bindGen s c) c (applyPending c s))
    | none => enterStarted (bindEpoch s c) (bindGen s c) c (applyPending c s) := by
  unfold startCmd enterStarted coverEpoch boundCmd startedArg
  rfl

theorem startCmd_of_noHolder (h : tokenHolder (applyPending c s) c = none) :
    startCmd c s = enterStarted (bindEpoch s c) (bindGen s c) c (applyPending c s) := by
  rw [startCmd_eq, h]

theorem ldgHighest_onlyJournal {s t : State} (h : onlyJournal s t) : t.ldg.highest = s.ldg.highest := by
  unfold onlyJournal at h
  rw [h]

theorem coverEpoch_onlyJournal {s t : State} (e : Nat) (c : Cmd) (h : onlyJournal s t) :
    onlyJournal { s with ldg.highest := if itemOp c.item = 0x40 then max s.ldg.highest e else s.ldg.highest }
      (coverEpoch e c t) := by
  have hhigh := ldgHighest_onlyJournal h
  unfold coverEpoch
  by_cases hop : itemOp c.item = 0x40
  · by_cases he : e = 0
    · simp only [hop, he, ne_eq, not_true, and_false, if_false, if_true, Nat.max_zero]
      exact h
    · simp only [hop, he, ne_eq, not_false_iff, and_self, if_true, hhigh]
      unfold onlyJournal at *
      rw [h]
  · simp only [hop, false_and, if_false]
    exact h

/-- Beside the command and the highest epoch number a start changes the journal only. -/
theorem enterStarted_onlyJournal (e : Nat × Nat) (gen : Nat) (c : Cmd) (s : State) :
    onlyJournal (onCmd c.q c.seq (boundCmd e gen c s)
        { s with ldg.highest := if itemOp c.item = 0x40 then max s.ldg.highest e.1 else s.ldg.highest })
      (enterStarted e gen c s) :=
  coverEpoch_onlyJournal e.1 c (append_journal ..)

theorem enterStarted_holdsRec (e : Nat × Nat) (gen : Nat) (c : Cmd) (s : State) :
    holdsRec (enterStarted e gen c s) 1 2 c.q c.seq (startedArg e.1 gen (freeInFlight s c.q)) := by
  have happ := holdsRec_append 1 2 c.q c.seq (startedArg e.1 gen (freeInFlight s c.q)) false
    (onCmd c.q c.seq (boundCmd e gen c s) s) (.inr ⟨rfl, rfl, rfl, rfl, rfl, rfl⟩)
  unfold enterStarted coverEpoch
  split
  · exact holdsRec_of_log rfl happ
  · exact happ

theorem cmd?_enterStarted (e : Nat × Nat) (gen : Nat) {x : Cmd} (hc : cmd? s c.q c.seq = some x) :
    cmd? (enterStarted e gen c s) c.q c.seq = some (boundCmd e gen c s x) := by
  rw [cmd?_onlyJournal _ _ (enterStarted_onlyJournal e gen c s)]
  exact cmd?_onCmd (boundCmd e gen c s) (fun _ => ⟨rfl, rfl⟩) hc

theorem timeAct_enterStarted (e : Nat × Nat) (gen : Nat) (c : Cmd) (s : State) :
    (enterStarted e gen c s).time.act = s.time.act := by
  rw [timeAct_onlyJournal (enterStarted_onlyJournal e gen c s)]
  rfl

theorem gens_enterStarted (e : Nat × Nat) (gen : Nat) (c : Cmd) (s : State) : (enterStarted e gen c s).adm.gens = s.adm.gens := by
  have h := enterStarted_onlyJournal e gen c s
  unfold onlyJournal at h
  rw [h]
  rfl

/-! ### Launches and maintenance -/

theorem isLaunch_iff (b : Bytes) : isLaunch b = true ↔ itemOp b = 0x40 ∨ itemOp b = 0x49 := by
  simp [isLaunch]

theorem maintKind_of_launch (h : isLaunch c.item = true) : maintKind s c.item = none := by
  rcases (isLaunch_iff _).1 h with hop | hop <;> simp [maintKind, rotation, hop]

theorem tokenHolder_of_launch (h : isLaunch c.item = true) : tokenHolder s c = none := by
  rw [tokenHolder, maintKind_of_launch h]
  rfl

theorem notLaunch_of_tokenHolder {x : Cmd} (h : tokenHolder s c = some x) : isLaunch c.item = false := by
  rw [← Bool.not_eq_true]
  intro hl
  rw [tokenHolder_of_launch hl] at h
  cases h

/-- CANCEL is no maintenance command. -/
theorem itemOp_ne_cancel_of_tokenHolder {x : Cmd} (h : tokenHolder s c = some x) : itemOp c.item ≠ 0x4A := by
  intro hop
  have hm : maintKind s c.item = none := by simp [maintKind, rotation, hop]
  simp [tokenHolder, hm] at h

theorem applyPending_of_notPending (h : pendingOf s c = none) : applyPending c s = s := by
  simp only [applyPending, h]

/-- A launch with a committed patch has bound no generation, and binds the current one's successor (R89, R92). -/
theorem pendingOf_spec {g : Gen} {r : Bytes} (h : pendingOf s c = some (g, r)) :
    isLaunch c.item = true ∧ bindGen s c = g.num + 1 := by
  unfold pendingOf at h
  split at h
  · cases h
  · next hl =>
    simp only [Bool.or_eq_true, Bool.not_eq_true', bne_iff_ne, not_or, Bool.not_eq_false, not_not] at hl
    obtain ⟨hlaunch, hgen⟩ := hl
    obtain ⟨x, hx, hmap⟩ := Option.bind_eq_some_iff.1 h
    obtain ⟨y, hy, hpair⟩ := Option.map_eq_some_iff.1 hmap
    cases hpair
    refine ⟨hlaunch, ?_⟩
    simp [bindGen, hgen, hlaunch, hx, hy, b2n]

/-! ### A command that may start -/

theorem exec_commandStart_of_mayStart (hrun : runs s = true) (hc : cmd? s q seq = some c) (hb : cmdBad c = none)
    (hm : mayStart s c = true) : exec (.commandStart q seq) s = .next (startLaunch c s) := by
  rw [exec_commandStart, when, if_pos hrun, commandStart_of_mayStart hc hb hm]

theorem accepted_of_mayStart (hm : mayStart s c = true) : c.st = .accepted := by
  simp only [mayStart, inTurn, Bool.and_eq_true, beq_iff_eq] at hm
  exact hm.1.1.1.1.1.1.1.1.1.1.1.1.1.1

theorem startLaunch_of_notPending (h : pendingOf s c = none) : startLaunch c s = startCmd c s := by
  simp only [startLaunch, h]

theorem startLaunch_of_unwritten {g : Gen} {r : Bytes} (h : pendingOf s c = some (g, r)) (hw : listWriteOf s c.q c.seq = none) :
    startLaunch c s = writePending c.q c.seq g r s := by
  simp only [startLaunch, h, hw, Option.map_none]

theorem startLaunch_of_written {g : Gen} {r : Bytes} {w : ListWrite} (h : pendingOf s c = some (g, r))
    (hw : listWriteOf s c.q c.seq = some w) (hst : w.st = 1) : startLaunch c s = startCmd c s := by
  simp only [startLaunch, h, hw, Option.map_some, hst]

theorem startLaunch_of_failed {g : Gen} {r : Bytes} {w : ListWrite} (h : pendingOf s c = some (g, r))
    (hw : listWriteOf s c.q c.seq = some w) (hst : 2 ≤ w.st) :
    startLaunch c s = startInvalid c 0xFE (dropListWrite c.q c.seq s) := by
  obtain ⟨n, hn⟩ := Nat.exists_eq_add_of_le' hst
  simp only [startLaunch, h, hw, Option.map_some, hn]

/-! ### The maintenance token -/

/-- A maintenance command beside the token's holder ends MAINT_BUSY, without the token (R102). -/
theorem cmd?_startCmd_of_tokenHolder {h : Cmd} (hc : cmd? s c.q c.seq = some c) (hh : tokenHolder s c = some h) :
    cmd? (startCmd c s) c.q c.seq =
      some (endedCmd s.time.act 7 (itemOp h.item) (boundCmd (bindEpoch s c) (bindGen s c) c s c)) := by
  rw [startCmd_eq, applyPending_of_notLaunch (notLaunch_of_tokenHolder hh), hh]
  dsimp only
  have hcmd := cmd?_enterStarted (bindEpoch s c) (bindGen s c) hc
  have hend := finish_ends 7 (itemOp h.item) hcmd CState.noConfusion (.inl (by decide))
  rw [ends_cmd hend hcmd, timeAct_enterStarted]

/-! ### The writes of a committed patch -/

/-- `t` is `s` but for the requests to the host bridge that it has presented. -/
def onlySends (s t : State) : Prop := t = { s with out := { s.out with hb := t.out.hb, nextId := t.out.nextId } }

theorem onlySends_refl (s : State) : onlySends s s := rfl

theorem onlySends_trans {s t u : State} (h : onlySends s t) (k : onlySends t u) : onlySends s u := by
  unfold onlySends at *
  rw [h] at k
  rw [k]

theorem each_onlySends {α : Type} {f : α → State → State} (h : ∀ a s, onlySends s (f a s)) (l : List α) (s : State) :
    onlySends s (each l f s) := by
  unfold each
  induction l generalizing s with
  | nil => rfl
  | cons a l ih => exact onlySends_trans (h a s) (ih (f a s))

theorem hbReq_onlySends (kind : HbKind) (write : Bool) (addr tdid len : Nat) (data : Bytes) (cls chan : Nat)
    (ctx : Option Nat) (s : State) : onlySends s (hbReq kind write addr tdid len data cls chan ctx s) := rfl

theorem listPieces_onlySends (q seq addr tdid : Nat) (d : Bytes) (s : State) :
    onlySends s (listPieces q seq addr tdid d s) :=
  each_onlySends (fun _ _ => hbReq_onlySends ..) _ _

theorem recWrites_onlySends (q seq : Nat) (g : Gen) (recs : Bytes) (s : State) : onlySends s (recWrites q seq g recs s) :=
  each_onlySends (fun _ _ => listPieces_onlySends ..) _ _

theorem cmd?_onlySends {s t : State} (q n : Nat) (h : onlySends s t) : cmd? t q n = cmd? s q n := by
  unfold onlySends at h
  rw [h]
  rfl

/-- A command without a list write begins one. -/
theorem startWrite_of_none (plan : Nat) (m : Bytes) (h : listWriteOf s q seq = none) :
    startWrite q seq plan m s =
      { s with adm.listWrites := s.adm.listWrites ++ [{ q, seq, plan, bytes := m }] } := by
  have hkeep : (s.adm.listWrites.filter fun w => !(w.q == q && w.seq == seq)) = s.adm.listWrites := by
    rw [List.filter_eq_self]
    intro w hw
    rw [Bool.not_eq_true', ← Bool.not_eq_true]
    exact List.find?_eq_none.1 h w hw
  rw [startWrite, hkeep]

/-! ### A committed patch whose list is written -/

theorem applyPending_of_written {g : Gen} {r : Bytes} {w : ListWrite} (h : pendingOf s c = some (g, r))
    (hw : listWriteOf s c.q c.seq = some w) : applyPending c s = dropListWrite c.q c.seq (advanceGen g w.bytes s) := by
  simp only [applyPending, h, hw]

theorem advanceGen_events (g : Gen) (l : Bytes) (s : State) : onlyEvents { s with
    adm.gens := updWhere (fun x => x.plan == g.plan && x.num == g.num)
      (fun x => { x with num := g.num + 1, count := entryCount l, crc := crcN l, bytes := l, pending := none }) s.adm.gens }
    (advanceGen g l s) := raise0_events ..

theorem cmd?_advanceGen (g : Gen) (l : Bytes) (s : State) (q n : Nat) :
    cmd? (advanceGen g l s) q n = cmd? s q n := by
  rw [cmd?, cmds_onlyEvents (advanceGen_events g l s)]
  rfl

theorem gens_onlyEvents {s t : State} (h : onlyEvents s t) : t.adm.gens = s.adm.gens := by
  unfold onlyEvents at h
  rw [h]

end Starting

/-- Settles O14: a start binds and journals, the token's holder ends it, and a committed patch is written into the list before
the launch that applies it starts. -/
theorem commandStart_meets : Obligations.CommandStart := by
  refine ⟨?_, ?_, ?_, ?_, ?_, ?_⟩
  · intro s q seq c hrun hc hb hm hh hp
    obtain ⟨rfl, rfl⟩ := cmd?_q hc
    have happly := applyPending_of_notPending hp
    refine ⟨_, exec_commandStart_of_mayStart hrun hc hb hm, ?_⟩
    rw [startLaunch_of_notPending hp, startCmd_of_noHolder (happly.symm ▸ hh), happly]
    have hframe := enterStarted_onlyJournal (bindEpoch s c) (bindGen s c) c s
    unfold boundCmd at hframe
    rw [hh, Option.isNone_none, Bool.and_true] at hframe
    exact ⟨hframe, enterStarted_holdsRec (bindEpoch s c) (bindGen s c) c s⟩
  · intro s q seq c h hrun hc hb hm hh
    obtain ⟨rfl, rfl⟩ := cmd?_q hc
    have hl := notLaunch_of_tokenHolder hh
    refine ⟨_, exec_commandStart_of_mayStart hrun hc hb hm, ?_⟩
    rw [startLaunch_of_notLaunch hl, cmd?_startCmd_of_tokenHolder hc hh, boundCmd,
      if_neg (itemOp_ne_cancel_of_tokenHolder hh), endedCmd]
  · intro s q seq c g r hrun hc hb hm hp hw
    obtain ⟨rfl, rfl⟩ := cmd?_q hc
    have hsend := recWrites_onlySends c.q c.seq g r (startWrite c.q c.seq g.plan (applyRecs g.bytes r) s)
    have hadm : (writePending c.q c.seq g r s).adm =
        { s.adm with listWrites := s.adm.listWrites ++ [{ q := c.q, seq := c.seq, plan := g.plan, bytes := applyRecs g.bytes r }] } := by
      rw [writePending, hsend, startWrite_of_none _ _ hw]
    refine ⟨_, exec_commandStart_of_mayStart hrun hc hb hm, ?_⟩
    rw [startLaunch_of_unwritten hp hw]
    refine ⟨?_, hadm, ?_⟩
    · rw [writePending, cmd?_onlySends _ _ hsend]
      exact hc
    · rw [hadm]
      rw [writePending, startWrite_of_none _ _ hw] at *
      exact hsend
  · intro s q seq c g r w hrun hc hb hm hp hw hst
    obtain ⟨rfl, rfl⟩ := cmd?_q hc
    obtain ⟨hl, hgen⟩ := pendingOf_spec hp
    have happly := applyPending_of_written hp hw
    have hc' : cmd? (applyPending c s) c.q c.seq = some c := by
      rw [happly]
      exact (cmd?_advanceGen g w.bytes s c.q c.seq).trans hc
    refine ⟨_, boundCmd (bindEpoch s c) (bindGen s c) c (applyPending c s) c,
      exec_commandStart_of_mayStart hrun hc hb hm, ?_, ?_⟩
    · rw [startLaunch_of_written hp hw hst, startCmd_of_noHolder (tokenHolder_of_launch hl)]
      exact cmd?_enterStarted _ _ hc'
    · refine ⟨rfl, hgen, ?_⟩
      rw [startLaunch_of_written hp hw hst, startCmd_of_noHolder (tokenHolder_of_launch hl), gens_enterStarted, happly]
      exact gens_onlyEvents (advanceGen_events g w.bytes s)
  · intro s q seq c g r w hrun hc hb hm hp hw hst
    obtain ⟨rfl, rfl⟩ := cmd?_q hc
    have hc' : cmd? (dropListWrite c.q c.seq s) c.q c.seq = some c := hc
    refine ⟨_, exec_commandStart_of_mayStart hrun hc hb hm, ?_⟩
    rw [startLaunch_of_failed hp hw hst, ends_cmd (startInvalid_ends hc' 0xFE) (cmd?_onCmd _ (fun _ => ⟨rfl, rfl⟩) hc')]
    rfl
  · intro s q seq c hc hb hm
    rw [exec_commandStart, when, commandStart_of_mayNotStart hc hb hm, ite_self]

end Sys2Proof.Machine
end

section
/-! SUPPORT. A completion that is announced by a tiding (R60): sending it uses the topology record of its target, and the records
used last are part of what the admin part keeps (R252). -/

namespace Sys2Proof.Machine

/-- Zero bytes but for fields, lowest byte first, each given by its offset, size and value: for the concrete items, descriptors
and records of the refutations. -/
def bytesWith (n : Nat) (l : List (Nat × Nat × Nat)) : Bytes := l.foldl (fun b f => overwrite b f.1 (toLE f.2.1 f.2.2)) (zeros n)

/-- The topology record of this device, device 5. -/
def self5 : Bytes := bytesWith 32 [(0, 4, 5), (7, 1, 0xFF), (8, 4, 1)]

/-- The topology record of replica 0, device 7, reached directly through port 0. -/
def replica7 : Bytes := bytesWith 32 [(0, 4, 7), (4, 1, 3), (6, 1, 1), (7, 1, 0xFF), (8, 4, 1)]

/-- A queue that announces its completions by tidings to device 7. -/
def tidingsQueue : Queue := { desc := bytesWith 64 [(37, 1, 1), (44, 4, 7)] }

/-- A command that has ended with a STATUS other than OK, so that it is completed alone. -/
def endedWork : Cmd := { q := 1, seq := 1, item := bytesWith 64 [(0, 1, 1), (1, 1, 0x48)], pos := 0, st := .durable, status := 4 }

/-- Queue 1 is to complete its one command, and the link to device 7, a replica of the table, is up. -/
def tidingDue : State :=
  { ring := { queues := [(1, tidingsQueue)] }
    ldg := { cmds := [endedWork] }
    adm := { topo := [self5, replica7], topoMem := [self5, replica7], topoSet := true, selfDev := some 5 }
    spl := { ports := [(0, { state := 5, partner := 7 })], peers := [(7, { ready := true, port := 0 })] } }

theorem cmdsFrom_of_singleton {s : State} {q seq : Nat} {c : Cmd}
    (h : (s.ldg.cmds.filter fun c => c.q == q && decide (seq < c.seq)) = [c]) : cmdsFrom s q seq = [c] := by
  rw [cmdsFrom, h, List.mergeSort_singleton]

theorem cmdsFrom_tidingDue : cmdsFrom tidingDue 1 0 = [endedWork] := cmdsFrom_of_singleton rfl

/-- What the completion of the one command is. -/
theorem completionWrite_tidingDue : completionWrite 1 tidingDue =
    writeCompletion 1 1 1 (itemTag endedWork.item) 1 (headAfter tidingsQueue endedWork) 1 4 0
      ([endedWork].any fun c => itemIrq c.item) tidingDue := by
  have hq : queue? tidingDue 1 = some tidingsQueue := rfl
  have hgo : ¬ (cqStopped tidingsQueue = true ∨ tidingDue.ldg.replayDue ≠ 0) := by decide
  have hcs : cmdsFrom tidingDue 1 tidingsQueue.covered = [endedWork] := cmdsFrom_tidingDue
  simp only [completionWrite, hq, if_neg hgo, hcs]
  rfl

/-- Refutes O17, in its last conjunct: the admin part does not stay as it is when the completion is announced by a tiding whose
target is a replica of the topology table, since its record joins the ones that were used last. -/
theorem not_completionWrite : ¬ Obligations.CompletionWrite := by
  rintro ⟨hWrite, -⟩
  have hcs : nextCover tidingsQueue (cmdsFrom tidingDue 1 tidingsQueue.covered) = some [endedWork] := by
    change nextCover tidingsQueue (cmdsFrom tidingDue 1 0) = _
    rw [cmdsFrom_tidingDue]
    rfl
  obtain ⟨t, ht, -, -, -, -, hadm, -⟩ := hWrite tidingDue 1 tidingsQueue [endedWork] endedWork rfl rfl rfl rfl rfl hcs rfl
  have hrun : exec (.completionWrite 1) tidingDue = .next (completionWrite 1 tidingDue) := rfl
  have hused : (completionWrite 1 tidingDue).adm.topoUsed = [1] := by
    rw [completionWrite_tidingDue]
    decide
  rw [hrun] at ht
  rw [Host.Outcome.next.inj ht, hadm] at hused
  exact absurd hused (by decide)

end Sys2Proof.Machine
end

section
/-! SUPPORT. Head shadow, stall reports, the flush of held events, TICK, and doorbells whose INDEX is not below the size (R45, R49,
R65, R66, R300, R301, R398). -/

namespace Sys2Proof.Machine

section Reports

variable {q : Nat} {s : State} {x : Queue}

/-! ### Head shadow and stall reports -/

theorem exec_headShadowWrite : exec (.headShadowWrite q) s = .next (when (runs s) (headShadow q) s) := rfl

theorem headShadow_of_due (hx : queue? s q = some x) (hd : x.shadowDue = true) : headShadow q s =
    hbWrite (.shadow q) (fld x.desc 24 8) (qTdid x.desc) (shadowBytes x) (onQ q (fun y => { y with shadowDue := false }) s) := by
  simp only [headShadow, hx, hd, if_true]

theorem headShadow_of_notDue (hx : queue? s q = some x) (hd : x.shadowDue = false) : headShadow q s = s := by
  simp only [headShadow, hx, hd, Bool.false_eq_true, if_false]

theorem exec_queueStall (hrun : runs s = true) (hp : s.pwr.state = 0) :
    exec (.queueStall q) s = .next (queueStall q s) := by
  change Host.Outcome.next (when _ _ s) = _
  simp [when, hrun, hp]

theorem queueStall_of_slots (hx : queue? s q = some x) (hc : cmdsFrom s q x.covered = []) (hst : x.state = .run)
    (hw : x.acc ≠ x.tail) (hi : fld x.desc 42 2 ≠ 0)
    (hlate : max x.waitFrom x.stallFrom + fld x.desc 42 2 * 1000 ≤ s.time.act) : queueStall q s =
    raise 0x0101 1 q 0 (2 ^ 56 * stallCause s q x) (onQ q (fun y => { y with stallFrom := s.time.act }) s) := by
  simp [queueStall, hx, hc, hst, hw, hi, hlate]

theorem queueStall_of_command {c : Cmd} {rest : List Cmd} (hx : queue? s q = some x)
    (hc : cmdsFrom s q x.covered = c :: rest) (hi : fld x.desc 42 2 ≠ 0)
    (hlate : max (max c.since x.doneAt) x.stallFrom + fld x.desc 42 2 * 1000 ≤ s.time.act) : queueStall q s =
    raise 0x0101 1 q c.seq (stateNo c.st) (onQ q (fun y => { y with stallFrom := s.time.act }) s) := by
  rw [Nat.max_assoc] at hlate
  simp [queueStall, hx, hc, Option.filter_some, hi, hlate]

/-! ### Held events -/

theorem mem_hb_writeEvent {r : HbReq} (e : Event) (h : r ∈ s.out.hb) : r ∈ (writeEvent e s).out.hb := by
  have hmem : r ∈ (hbWrite .event (fld s.ring.ev.desc 0 8 + 32 * (s.ring.ev.written % evSize s)) (fld s.ring.ev.desc 12 2)
      (eventBytes e (1 - s.ring.ev.written / evSize s % 2)) s).out.hb := List.mem_append_left _ h
  unfold writeEvent
  dsimp only
  split <;> exact hmem

/-- Where an event goes and what its entry holds, by the count of entries written before it (R66). -/
def eventEntry (s : State) (n : Nat) (e : Event) (r : HbReq) : Prop :=
  r.kind = .event ∧ r.addr = fld s.ring.ev.desc 0 8 + 32 * (n % evSize s) ∧ r.data = eventBytes e (1 - n / evSize s % 2)

theorem writeEvent_entry (e : Event) (s : State) : ∃ r ∈ (writeEvent e s).out.hb, eventEntry s s.ring.ev.written e r := by
  have hmem : ∃ r ∈ (hbWrite .event (fld s.ring.ev.desc 0 8 + 32 * (s.ring.ev.written % evSize s)) (fld s.ring.ev.desc 12 2)
      (eventBytes e (1 - s.ring.ev.written / evSize s % 2)) s).out.hb, eventEntry s s.ring.ev.written e r :=
    ⟨_, List.mem_append_right _ List.mem_cons_self, rfl, rfl, rfl⟩
  unfold writeEvent
  dsimp only
  split <;> exact hmem

theorem writeEvent_ev (e : Event) (s : State) :
    (writeEvent e s).ring.ev = { s.ring.ev with written := s.ring.ev.written + 1 } := by
  unfold writeEvent
  dsimp only
  split <;> rfl

theorem evRoom_writeEvent (e : Event) (s : State) : evRoom s ≤ evRoom (writeEvent e s) + 1 := by
  simp only [evRoom, evSize, writeEvent_ev]
  omega

theorem writeOverflow_of_noneDropped (h : s.ring.ev.dropped = 0) : writeOverflow s = s :=
  if_neg fun hd => hd.1 h

/-- Held events that the ring has room for are all written, in order. -/
theorem flushHeld_spec (l : List Event) (s : State) (hd : s.ring.ev.dropped = 0) (hroom : l.length ≤ evRoom s) :
    (flushHeld l s).ring.ev = { s.ring.ev with held := [], written := s.ring.ev.written + l.length } ∧
      (∀ r ∈ s.out.hb, r ∈ (flushHeld l s).out.hb) ∧
      ∀ (i : Nat) (e : Event), l[i]? = some e →
        ∃ r ∈ (flushHeld l s).out.hb, eventEntry s (s.ring.ev.written + i) e r := by
  induction l generalizing s with
  | nil =>
    have hd' : ({ s with ring.ev.held := [] } : State).ring.ev.dropped = 0 := hd
    rw [flushHeld, writeOverflow_of_noneDropped hd']
    exact ⟨rfl, fun r hr => hr, nofun⟩
  | cons a l ih =>
    rw [List.length_cons] at hroom
    have hev := writeEvent_ev a s
    have hroom' := evRoom_writeEvent a s
    rw [flushHeld, if_pos (by omega)]
    obtain ⟨hring, hkeep, hentry⟩ := ih (writeEvent a s) (by rw [hev]; exact hd) (by omega)
    refine ⟨?_, fun r hr => hkeep r (mem_hb_writeEvent a hr), ?_⟩
    · rw [hring, hev, List.length_cons]
      simp only [EvRing.mk.injEq, true_and, and_true]
      omega
    · intro i e hi
      cases i with
      | zero =>
        cases hi
        obtain ⟨r, hr, hent⟩ := writeEvent_entry a s
        exact ⟨r, hkeep r hr, hent⟩
      | succ i =>
        obtain ⟨r, hr, hent⟩ := hentry i e hi
        refine ⟨r, hr, ?_⟩
        simp only [eventEntry, evSize, hev] at hent
        rwa [Nat.add_assoc, Nat.add_comm 1 i] at hent

/-! ### TICK -/

/-- The tail passes a dead record that stands alone. -/
theorem reclaim_of_singleDead {r : Rec} (k : Nat) (h : s.ldg.log = [r]) (hd : r.dead = true) :
    reclaim (k + 2) s = { s with ldg.log := [] } := by
  simp only [reclaim, h, hd, if_true]

theorem checkLow_lsn (s : State) : (checkLow s).ldg.lsn = s.ldg.lsn := by
  unfold checkLow
  split
  · split
    · rfl
    · have hldg : ∀ u : State, (raise0 0x0A03 1 (freeWords s) u).ldg = u.ldg := fun u => by
        have h := raise0_events 0x0A03 1 (freeWords s) u
        unfold onlyEvents at h
        rw [h]
      rw [hldg]
  · rfl

theorem appendRec_lsn (r : Rec) (s : State) : (appendRec r s).ldg.lsn = (s.ldg.lsn + 1) % 2 ^ 32 := by
  unfold appendRec mirrorRec
  rw [hbWrite_ldg, wordWrite_ldg, wordWrite_ldg]

/-- A TICK on an empty journal leaves it empty: the tail passes its record at once. -/
theorem tick_of_empty (h : s.ldg.log = []) : (append 5 0 0xFFFF 0 [] true s).ldg.log = [] ∧
    (append 5 0 0xFFFF 0 [] true s).ldg.lsn = (s.ldg.lsn + 1) % 2 ^ 32 := by
  have hlog := appendRec_log { kind := 5, state := 0, queue := 0xFFFF, lsn := 0, seq := 0, arg := [], dead := true } s
  have hlsn := appendRec_lsn { kind := 5, state := 0, queue := 0xFFFF, lsn := 0, seq := 0, arg := [], dead := true } s
  rw [h, List.nil_append] at hlog
  have hkind : ¬((5 : Nat) = 1 ∨ (5 : Nat) = 3) := by decide
  unfold append
  simp only [if_neg hkind, hlog, List.length_singleton]
  rw [reclaim_of_singleDead 2 hlog rfl, checkLow_log, checkLow_lsn]
  exact ⟨rfl, hlsn⟩

/-! ### Doorbells whose INDEX is not below the size -/

theorem dbPos_of_beyond {v : W32} {size : Nat} (h : size ≤ v.toNat % 2 ^ 16) : dbPos v size = none := by
  have hindex : dbIndex v = v.toNat % 2 ^ 16 := by simp [dbIndex, bits]
  rw [dbPos, hindex, if_neg (Nat.not_lt.2 h)]

theorem sqTailOk_of_beyond {v : W32} (h : sqSize x.desc ≤ v.toNat % 2 ^ 16) : sqTailOk x v = none := by
  simp only [sqTailOk, dbPos_of_beyond h, Option.bind_none]

theorem cqHeadOk_of_beyond {v : W32} (h : cqSize x.desc ≤ v.toNat % 2 ^ 16) : cqHeadOk x v = none := by
  simp only [cqHeadOk, dbPos_of_beyond h, Option.bind_none]

theorem evHead_of_beyond {v : W32} (hr : s.regs.qctl.ready = true) (h : evSize s ≤ v.toNat % 2 ^ 16) :
    evHead v s = dbBad 8192 2 0xFFFF v false s := by
  simp [evHead, hr, dbPos_of_beyond h]

end Reports

/-- Settles O18: each report is written when it is due, held events fill the entries that follow, and the tail passes the record
of a TICK before any that lives. -/
theorem shadowStallEventsTick : Obligations.ShadowStallEventsTick := by
  refine ⟨?_, ?_, ?_, ?_, ?_, ?_, ?_, ?_⟩
  · intro s q x hrun hx hd
    rw [exec_headShadowWrite, when, if_pos hrun, headShadow_of_due hx hd]
    rfl
  · intro s q x hx hd
    rw [exec_headShadowWrite, when, headShadow_of_notDue hx hd, ite_self]
  · intro s q x hrun hp hx hc hst hw hi hlate
    rw [exec_queueStall hrun hp, queueStall_of_slots hx hc hst hw hi hlate]
    rfl
  · intro s q x c rest hrun hp hx hc hi hlate
    rw [exec_queueStall hrun hp, queueStall_of_command hx hc hi hlate]
  · intro s ho hd hroom
    have hcatch : catchUp s = flushHeld s.ring.ev.held s := if_pos ho
    obtain ⟨hring, -, hentry⟩ := flushHeld_spec s.ring.ev.held s hd hroom
    refine ⟨catchUp s, rfl, catchUp_events s, ?_⟩
    rw [hcatch, hring]
    exact ⟨rfl, rfl, rfl, hentry⟩
  · intro s hup hhold hlive
    have hgo : (up s && !s.regs.gasp.hold && s.ldg.live) = true := by simp [hup, hhold, hlive]
    refine ⟨append 5 0 0xFFFF 0 [] true s, congrArg _ (if_pos hgo), append_journal .., ?_, tick_of_empty⟩
    exact fun kind state q seq arg h => holdsRec_append _ _ _ _ _ _ _ (.inl h)
  · intro q v x s hup hx
    refine ⟨fun hf hv => ?_, fun hv => ?_⟩
    · rw [exec_sqTailDoorbell q v hup, sqTail_of_refused hx hf (sqTailOk_of_beyond hv)]
      simp [dbBad, b2n]
    · rw [exec_cqHeadDoorbell q v hup, cqHead_of_refused hx (cqHeadOk_of_beyond hv)]
      simp [dbBad, b2n]
  · intro v s hup hr hv
    rw [exec_eventHeadDoorbell v hup, evHead_of_beyond hr hv]
    simp [dbBad, b2n]

end Sys2Proof.Machine
end

section
/-! SUPPORT. The end of a ring command's step (R21, R298), and the commands on vaults and staging buffers (R77 to R83, R261, R303). -/

namespace Sys2Proof.Machine

section RingCommands

variable {op q seq : Nat} {own : Cmd → State → List (Nat × Bool)} {s t : State} {c : Cmd}

/-! ### What a ready command has -/

theorem ready_cmd (h : ready op q seq own c s) : cmd? s q seq = some c := (due_spec h.1).2.1

theorem ready_q (h : ready op q seq own c s) : c.q = q := (cmd?_q (ready_cmd h)).1

theorem ready_seq (h : ready op q seq own c s) : c.seq = seq := (cmd?_q (ready_cmd h)).2

theorem ready_op (h : ready op q seq own c s) : itemOp c.item = op := (due_spec h.1).2.2.2.2

theorem ready_runs (h : ready op q seq own c s) : runs s = true := (due_spec h.1).1

theorem ready_ran (h : ready op q seq own c s) : cmd? (onCmd q seq ranCmd s) q seq = some (ranCmd c) :=
  cmd?_onCmd ranCmd (fun _ => ⟨rfl, rfl⟩) (ready_cmd h)

theorem ready_live (h : ready op q seq own c s) : (ranCmd c).st ≠ .durable := by
  simp [ranCmd, (due_spec h.1).2.2.1]

theorem cmd?_of_cmds {s t : State} (h : t.ldg.cmds = s.ldg.cmds) (q n : Nat) : cmd? t q n = cmd? s q n := by
  rw [cmd?, cmd?, h]

/-- A ready command is ended by `finish` after changes that left the commands alone. -/
theorem finish_ends_of_ready (status detail : Nat) (h : ready op q seq own c s)
    (ht : t.ldg.cmds = (onCmd q seq ranCmd s).ldg.cmds) (h0 : status ≠ 0 ∨ detail = 0) :
    ends q seq status detail t (finish q seq status detail t) :=
  finish_ends status detail ((cmd?_of_cmds ht q seq).trans (ready_ran h)) (ready_live h)
    (h0.imp_right Or.inl)

/-- The command itself after such an end. -/
theorem cmd?_finish_of_ready (status detail : Nat) (h : ready op q seq own c s)
    (ht : t.ldg.cmds = (onCmd q seq ranCmd s).ldg.cmds) (h0 : status ≠ 0 ∨ detail = 0) :
    cmd? (finish q seq status detail t) q seq = some (endedCmd t.time.act status detail (ranCmd c)) :=
  ends_cmd (finish_ends_of_ready status detail h ht h0) ((cmd?_of_cmds ht q seq).trans (ready_ran h))

end RingCommands

section Vaults

variable {q seq : Nat} {s : State} {c : Cmd}

/-! ### Vaults -/

theorem exec_vaultCreate (h : ready 0x01 q seq vaultCreateBad c s) :
    exec (.vaultCreate q seq) s = .next (vaultCreate c (onCmd q seq ranCmd s)) :=
  congrArg _ (runCmd_ready vaultCreate h)

theorem exec_vaultDelete (h : ready 0x02 q seq vaultDeleteBad c s) :
    exec (.vaultDelete q seq) s = .next (vaultDelete c (onCmd q seq ranCmd s)) :=
  congrArg _ (runCmd_ready vaultDelete h)

theorem vaultCreate_of_host (hm : marked s 1 (fld c.item 8 4) c.q c.seq = false) (hw : fld c.item 12 1 = 0) :
    vaultCreate c s = finish c.q c.seq 0 0 (putVault c s) := by
  have hw' : vWhere { item := c.item } = 0 := hw
  simp only [vaultCreate, hm, hw', Bool.false_eq_true, if_false, if_true]

theorem vaultCreate_of_peer {d : Nat} (hm : marked s 1 (fld c.item 8 4) c.q c.seq = false) (hw : fld c.item 12 1 ≠ 0)
    (hd : vPeer s { item := c.item } = some d) (hb : vaultBad s { item := c.item } = none) : vaultCreate c s =
    request { mtype := 8, dst := d, vault := fld c.item 32 4, arg := fld c.item 24 8 }
      { tag := 0, peer := d, mtype := 8, msg := [], owner := some (c.q, c.seq) } s := by
  have hw' : vWhere { item := c.item } ≠ 0 := hw
  simp only [vaultCreate, hm, if_neg hw', hb, hd, Bool.false_eq_true, if_false]
  rfl

theorem vaultDelete_of_busy {v : Vault} (hv : vault? s (fld c.item 8 4) = some v) (hb : vaultBusy s (fld c.item 8 4) = true) :
    vaultDelete c s = finish c.q c.seq 6 0 s := by
  simp only [vaultDelete, hv, hb, if_true]

theorem vaultDelete_of_host {v : Vault} (hv : vault? s (fld c.item 8 4) = some v) (hb : vaultBusy s (fld c.item 8 4) = false)
    (hw : fld v.item 12 1 = 0) : vaultDelete c s = finish c.q c.seq 0 0 (dropVault c s) := by
  have hw' : vWhere v = 0 := hw
  simp only [vaultDelete, hv, hb, hw', Bool.false_eq_true, if_false, if_true]

/-! ### Staging buffers -/

theorem exec_bufGrant (h : ready 0x05 q seq bufGrantBad c s) :
    exec (.bufGrant q seq) s = .next (bufGrant c (onCmd q seq ranCmd s)) :=
  congrArg _ (runCmd_ready bufGrant h)

theorem exec_bufFree (h : ready 0x06 q seq (fun _ _ => []) c s) :
    exec (.bufFree q seq) s = .next (bufFree c (onCmd q seq ranCmd s)) :=
  congrArg _ (runCmd_ready bufFree h)

theorem bufGrant_of_new (hm : marked s 5 (fld c.item 8 2) c.q c.seq = false) : bufGrant c s =
    writeGrant (fld c.item 8 2) c.q c.seq (mark 5 (fld c.item 8 2) c.q c.seq { s with
      adm.grants := Tab.put s.adm.grants (fld c.item 8 2)
        { owner := fld c.item 10 2, tdid := fld c.item 12 2, base := fld c.item 16 8, len := fld c.item 24 8
          gen := c.seq % 2 ^ 32 } }) := by
  simp only [bufGrant, hm, Bool.false_eq_true, if_false]

theorem adm_useGrant (buf : Nat) (s : State) : (useGrant buf s).adm = s.adm := by
  rw [useGrant_frame]

theorem regs_useGrant (buf : Nat) (s : State) : (useGrant buf s).regs = s.regs := by
  rw [useGrant_frame]

theorem cmds_useGrant (buf : Nat) (s : State) : (useGrant buf s).ldg.cmds = s.ldg.cmds := by
  rw [useGrant_frame]

theorem bufCheck_of_none {buf gen : Nat} (h : Tab.get? s.adm.grants buf = none) : bufCheck s q buf gen = some false := by
  simp only [bufCheck, h]

theorem bufCheck_of_foreign {buf : Nat} {g : Grant} (h : Tab.get? s.adm.grants buf = some g) (ho : g.owner ≠ q) :
    bufCheck s q buf g.gen = some true := by
  simp [bufCheck, h, ho]

theorem bufCheck_of_held {buf : Nat} {g : Grant} (h : Tab.get? s.adm.grants buf = some g) (ho : g.owner = q) :
    bufCheck s q buf g.gen = none := by
  simp [bufCheck, h, ho]

theorem bufFree_of_held {g : Grant} (hm : marked s 5 (fld c.item 8 2) c.q c.seq = false)
    (hg : Tab.get? s.adm.grants (fld c.item 8 2) = some g) (hgen : g.gen = fld c.item 12 4) (ho : g.owner = c.q) :
    bufFree c s = writeGrant (fld c.item 8 2) c.q c.seq (mark 5 (fld c.item 8 2) c.q c.seq
      { useGrant (fld c.item 8 2) s with adm.grants := Tab.del s.adm.grants (fld c.item 8 2) }) := by
  have hcheck : bufCheck (useGrant (fld c.item 8 2) s) c.q (fld c.item 8 2) (fld c.item 12 4) = none := by
    rw [← hgen]
    exact bufCheck_of_held (by rw [adm_useGrant, hg]) ho
  simp only [bufFree, hm, hcheck, Bool.false_eq_true, if_false, adm_useGrant]

theorem bufFree_of_refused {f : Bool} (hm : marked s 5 (fld c.item 8 2) c.q c.seq = false)
    (hcheck : bufCheck s c.q (fld c.item 8 2) (fld c.item 12 4) = some f) :
    bufFree c s = bufFault c.q c.seq (fld c.item 8 2) (fld c.item 12 4) f (useGrant (fld c.item 8 2) s) := by
  have hcheck' : bufCheck (useGrant (fld c.item 8 2) s) c.q (fld c.item 8 2) (fld c.item 12 4) = some f := by
    rw [bufCheck, adm_useGrant]
    exact hcheck
  simp only [bufFree, hm, hcheck', Bool.false_eq_true, if_false]

/-! ### A refused buffer (R83) -/

/-- The counts after a buffer was refused. -/
def countFault (foreign : Bool) (s : State) : State :=
  if foreign then { s with regs.bufForeign := satAdd 0xFFFF s.regs.bufForeign 1 }
  else { s with regs.bufNotHeld := satAdd 0xFFFF s.regs.bufNotHeld 1 }

theorem cmds_countFault (foreign : Bool) (s : State) : (countFault foreign s).ldg.cmds = s.ldg.cmds := by
  cases foreign <;> rfl

theorem adm_countFault (foreign : Bool) (s : State) : (countFault foreign s).adm = s.adm := by
  cases foreign <;> rfl

theorem bufFault_eq (q seq buf gen : Nat) (foreign : Bool) (s : State) : bufFault q seq buf gen foreign s =
    finish q seq (if foreign then 5 else 4) 0
      (raise 0x0201 1 q seq (buf + 2 ^ 16 * b2n foreign + 2 ^ 20 * q + 2 ^ 32 * gen) (countFault foreign s)) := by
  cases foreign <;> rfl

/-- A command that is no launch and ends changes neither the admin part nor the counts of refused buffers. -/
theorem finish_notLaunch_keeps {status detail : Nat} (hc : cmd? s q seq = some c) (hl : isLaunch c.item = false) :
    (finish q seq status detail s).adm = s.adm ∧ (finish q seq status detail s).regs.bufNotHeld = s.regs.bufNotHeld ∧
      (finish q seq status detail s).regs.bufForeign = s.regs.bufForeign := by
  have happ := fun d t => append_journal 1 3 q seq (toLE 1 status ++ toLE 1 d) false t
  unfold onlyJournal at happ
  unfold finish
  simp only [hc, hl, Bool.false_eq_true, if_false]
  split
  · exact ⟨rfl, rfl, rfl⟩
  · rw [happ]
    exact ⟨rfl, rfl, rfl⟩

/-- The end of a BUF_FREE whose buffer was refused. -/
theorem bufFault_of_ready (f : Bool) (h : ready 0x06 q seq (fun _ _ => []) c s) (buf gen : Nat) :
    let t := bufFault q seq buf gen f (useGrant buf (onCmd q seq ranCmd s))
    t.adm = s.adm ∧ t.regs.bufNotHeld = (countFault f s).regs.bufNotHeld ∧
      t.regs.bufForeign = (countFault f s).regs.bufForeign ∧
      (cmd? t q seq).map (fun x => (x.st, x.status, x.detail)) = some (.durable, if f then 5 else 4, 0) := by
  have hev := raise_events 0x0201 1 q seq (buf + 2 ^ 16 * b2n f + 2 ^ 20 * q + 2 ^ 32 * gen)
    (countFault f (useGrant buf (onCmd q seq ranCmd s)))
  have hcmds := (cmds_onlyEvents hev).trans ((cmds_countFault f _).trans (cmds_useGrant buf (onCmd q seq ranCmd s)))
  have hl : isLaunch (ranCmd c).item = false := by
    change isLaunch c.item = false
    rw [isLaunch, ready_op h]
    rfl
  have hstatus : (if f then 5 else 4) ≠ 0 ∨ (0 : Nat) = 0 := .inr rfl
  obtain ⟨hadm, hn, hf⟩ := finish_notLaunch_keeps (status := if f then 5 else 4) (detail := 0)
    ((cmd?_of_cmds hcmds q seq).trans (ready_ran h)) hl
  have hcmd := cmd?_finish_of_ready (if f then 5 else 4) 0 h hcmds hstatus
  unfold onlyEvents at hev
  dsimp only
  rw [bufFault_eq]
  refine ⟨?_, ?_, ?_, ?_⟩
  · rw [hadm, hev]
    exact (adm_countFault f _).trans (adm_useGrant buf _)
  · rw [hn, hev]
    cases f <;> simp [countFault, regs_useGrant]
  · rw [hf, hev]
    cases f <;> simp [countFault, regs_useGrant]
  · rw [hcmd]
    cases f <;> rfl

end Vaults

/-- Settles O19: each command's step runs once and ends it, or waits for the peer or for the word of the grant table. -/
theorem vaultAndBufferCommands : Obligations.VaultAndBufferCommands := by
  refine ⟨?_, ?_, ?_, ?_, ?_, ?_, ?_, ?_⟩
  · intro s q seq c h hm hw
    obtain ⟨rfl, rfl⟩ := cmd?_q (ready_cmd h)
    refine ⟨_, exec_vaultCreate h, ?_⟩
    rw [vaultCreate_of_host (s := onCmd c.q c.seq ranCmd s) hm hw]
    exact finish_ends_of_ready 0 0 h rfl (.inr rfl)
  · intro s q seq c d h hm hw hd hb
    obtain ⟨rfl, rfl⟩ := cmd?_q (ready_cmd h)
    rw [exec_vaultCreate h, vaultCreate_of_peer (s := onCmd c.q c.seq ranCmd s) hm hw hd hb]
  · intro s q seq c v h hv hb hw
    obtain ⟨rfl, rfl⟩ := cmd?_q (ready_cmd h)
    refine ⟨_, exec_vaultDelete h, ?_⟩
    rw [vaultDelete_of_host (s := onCmd c.q c.seq ranCmd s) hv hb hw]
    exact finish_ends_of_ready 0 0 h rfl (.inr rfl)
  · intro s q seq c v h hv hb
    obtain ⟨rfl, rfl⟩ := cmd?_q (ready_cmd h)
    refine ⟨_, exec_vaultDelete h, ?_⟩
    rw [vaultDelete_of_busy (s := onCmd c.q c.seq ranCmd s) hv hb]
    exact finish_ends_of_ready 6 0 h rfl (.inl (by decide))
  · intro s q seq c h hm
    obtain ⟨rfl, rfl⟩ := cmd?_q (ready_cmd h)
    rw [exec_bufGrant h, bufGrant_of_new (s := onCmd c.q c.seq ranCmd s) hm]
    rfl
  · intro s q seq c g h hm hg hgen ho
    obtain ⟨rfl, rfl⟩ := cmd?_q (ready_cmd h)
    rw [exec_bufFree h, bufFree_of_held (s := onCmd c.q c.seq ranCmd s) hm hg hgen ho]
    have hmarks : (useGrant (fld c.item 8 2) (onCmd c.q c.seq ranCmd s)).ldg.marks = s.ldg.marks := by rw [useGrant_frame]; rfl
    rw [mark]
    dsimp only
    rw [hmarks]
    rfl
  · intro s q seq c h hm hg
    obtain ⟨rfl, rfl⟩ := cmd?_q (ready_cmd h)
    obtain ⟨hadm, hn, hf, hcmd⟩ := bufFault_of_ready false h (fld c.item 8 2) (fld c.item 12 4)
    rw [← bufFree_of_refused (s := onCmd c.q c.seq ranCmd s) hm (bufCheck_of_none hg)] at hadm hn hf hcmd
    exact ⟨_, exec_bufFree h, hn, hf, hadm, hcmd⟩
  · intro s q seq c g h hm hg hgen ho
    obtain ⟨rfl, rfl⟩ := cmd?_q (ready_cmd h)
    obtain ⟨hadm, hn, hf, hcmd⟩ := bufFault_of_ready true h (fld c.item 8 2) (fld c.item 12 4)
    rw [← bufFree_of_refused (s := onCmd c.q c.seq ranCmd s) hm (hgen ▸ bufCheck_of_foreign hg ho)] at hadm hn hf hcmd
    exact ⟨_, exec_bufFree h, hf, hn, hadm, hcmd⟩

end Sys2Proof.Machine
end

section
/-! SUPPORT. The snapshot of a flush (R62) of a queue table that lists one queue ID twice: each entry keeps its own head, while the
last clause about QUEUE_DELETE gives every entry the head of the first. -/

namespace Sys2Proof.Machine

/-- A queue table with two entries of queue 1, whose next items to journal stand at slots 0 and 4. -/
def twoHeads : State :=
  { ring := { queues := [(1, { desc := zeros 64 }), (1, { desc := zeros 64, acc := 4 })] } }

/-- The head at the snapshot of every entry of the queue table. -/
def flushHeads (s : State) : List Nat := s.ring.queues.map fun e => e.2.flushHead

theorem flushAccepted_of_noCmds {s : State} (q : Nat) (h : s.ldg.cmds = []) : flushAccepted q s = s := by
  rw [flushAccepted, cmdsFrom, h, List.filter_nil, List.mergeSort_nil]
  rfl

theorem flushHeads_flushBegin_twoHeads : flushHeads (flushBegin 1 (0, 1) [] twoHeads) = [0, 4] := by
  have hq : queue? twoHeads 1 = some { desc := zeros 64 } := rfl
  simp only [flushBegin, hq]
  rw [flushAccepted_of_noCmds 1 rfl]
  rfl

/-- Refutes O20, in its last clause: a flush keeps the head of each entry of the queue table, and that clause claims the head of the
first for all. With queue 1 listed twice, at heads 0 and 4, the two differ. A table whose IDs rise has no such pair; the
statement does not ask for one. -/
theorem not_queueCommands : ¬ Obligations.QueueCommands := by
  rintro ⟨-, -, -, -, -, -, -, hBegin⟩
  have h := hBegin twoHeads { desc := zeros 64 } 1 0 1 [] rfl rfl rfl (fun c hc => nomatch hc)
  have hheads : flushHeads (flushBegin 1 (0, 1) [] twoHeads) = [0, 0] := congrArg flushHeads h
  rw [flushHeads_flushBegin_twoHeads] at hheads
  exact absurd hheads (by decide)

end Sys2Proof.Machine
end

section
/-! SUPPORT. PLAN_STORE and PLAN_PATCH (R85, R91, R92, R399): the pieces in which a list is written, what each form of the two commands
reads and leaves, and the end of a patch whose list is written or could not be. -/

namespace Sys2Proof.Machine

section Pieces

/-! ### Writes of a list of pieces -/

/-- A run of class 1 writes presents one request for each piece, in order. -/
theorem each_hbWrite {α : Type} (k : HbKind) (tdid : Nat) (addr : α → Nat) (data : α → Bytes) (l : List α) (s : State) :
    ∃ rs, (each l (fun j t => hbWrite k (addr j) tdid (data j) t) s).out.hb = s.out.hb ++ rs ∧
      rs.flatMap (·.data) = l.flatMap data ∧
      ∀ r ∈ rs, ∃ j ∈ l, r.kind = k ∧ r.write = true ∧ r.tdid = tdid ∧ r.cls = 1 ∧ r.addr = addr j ∧
        r.len = (data j).length ∧ r.data = data j := by
  induction l generalizing s with
  | nil => exact ⟨[], (List.append_nil _).symm, rfl, nofun⟩
  | cons a l ih =>
    obtain ⟨rs, hhb, hdata, hall⟩ := ih (hbWrite k (addr a) tdid (data a) s)
    refine ⟨{ id := s.out.nextId, kind := k, write := true, addr := addr a, tdid, len := (data a).length, data := data a,
              cls := 1, chan := 0, ctx := none } :: rs, ?_, ?_, ?_⟩
    · change (each l _ (hbWrite k (addr a) tdid (data a) s)).out.hb = _
      rw [hhb]
      exact List.append_assoc ..
    · rw [List.flatMap_cons, List.flatMap_cons, hdata]
    · intro r hr
      rcases List.mem_cons.1 hr with rfl | hr
      · exact ⟨a, List.mem_cons_self, rfl, rfl, rfl, rfl, rfl, rfl, rfl⟩
      · obtain ⟨j, hj, h⟩ := hall r hr
        exact ⟨j, List.mem_cons_of_mem _ hj, h⟩

/-- Within the bytes a slice is no longer than asked for, and needs no padding. -/
theorem slice_of_le {d : Bytes} {off n : Nat} (h : off + n ≤ d.length) : slice d off n = (d.drop off).take n := by
  have hlen : ((d.drop off).take n).length = n := by simp; omega
  simp only [slice, hlen, Nat.sub_self, List.replicate_zero, List.append_nil]

theorem slice_length (d : Bytes) (off n : Nat) : (slice d off n).length = n := by
  simp only [slice, List.length_append, List.length_replicate, List.length_take]
  omega

/-- Where the piece that ends at the `n`-th 4 KiB boundary after the start `a` of its page ends. -/
def pieceEnd (a len n : Nat) : Nat := min len (4096 * n - a)

theorem pieces_flatMap (d : Bytes) {a : Nat} (ha : a < 4096) (n : Nat) :
    ((List.range n).flatMap fun j => slice d (4096 * j - a) (pieceEnd a d.length (j + 1) - (4096 * j - a))) =
      d.take (pieceEnd a d.length n) := by
  induction n with
  | zero => simp [pieceEnd]
  | succ n ih =>
    rw [List.range_succ, List.flatMap_append, ih, List.flatMap_singleton]
    unfold pieceEnd
    by_cases h : 4096 * n - a ≤ d.length
    · rw [slice_of_le (by omega), Nat.min_eq_right h, ← List.take_add]
      congr 1
      omega
    · have hend : min d.length (4096 * n - a) = d.length := by omega
      have hend' : min d.length (4096 * (n + 1) - a) = d.length := by omega
      have hnone : d.length - (4096 * n - a) = 0 := by omega
      rw [hend, hend', hnone]
      simp [slice]

/-- The pieces of a list write hold its bytes in order, and none crosses a 4 KiB boundary. -/
theorem listPieces_spec (q seq addr tdid : Nat) (d : Bytes) (s : State) :
    ((listPieces q seq addr tdid d s).out.hb.drop s.out.hb.length).flatMap (·.data) = d ∧
    (∀ r ∈ (listPieces q seq addr tdid d s).out.hb.drop s.out.hb.length, r.kind = .planList q seq ∧ r.write = true ∧
      r.tdid = tdid ∧ r.cls = 1 ∧ r.data.length = r.len ∧ r.addr % 4096 + r.len ≤ 4096) := by
  have ha : addr % 4096 < 4096 := Nat.mod_lt _ (by decide)
  obtain ⟨rs, hhb, hdata, hall⟩ := each_hbWrite (.planList q seq) tdid (fun j => addr + (4096 * j - addr % 4096))
    (fun j => slice d (4096 * j - addr % 4096) (pieceEnd (addr % 4096) d.length (j + 1) - (4096 * j - addr % 4096)))
    (List.range (cdiv (addr % 4096 + d.length) 4096)) s
  have hpieces : (listPieces q seq addr tdid d s).out.hb.drop s.out.hb.length = rs := by
    rw [← List.drop_left (l₁ := s.out.hb) (l₂ := rs), ← hhb]
    rfl
  rw [hpieces]
  refine ⟨?_, fun r hr => ?_⟩
  · rw [hdata, pieces_flatMap d ha, List.take_of_length_le]
    simp only [pieceEnd, cdiv]
    omega
  · obtain ⟨j, -, hk, hw, ht, hc, haddr, hlen, hd⟩ := hall r hr
    refine ⟨hk, hw, ht, hc, by rw [hd, hlen], ?_⟩
    rw [haddr, hlen, slice_length]
    simp only [pieceEnd]
    rcases Nat.eq_zero_or_pos j with rfl | hj <;> omega

end Pieces

section Plans

variable {q seq : Nat} {s : State} {c : Cmd} {g : Gen} {l r m : Bytes}

/-! ### PLAN_STORE -/

theorem exec_planStore (l : HostRead) (h : ready 0x07 q seq storeBad c s) :
    exec (.planStore q seq l) s = .next (planStore l c (onCmd q seq ranCmd s)) :=
  congrArg _ (runCmd_ready (planStore l) h)

/-- The read of a PLAN_STORE's list. -/
def readStore (c : Cmd) (s : State) : State := readCtl (fld c.item 16 8) (fld c.item 24 2) (64 * fld c.item 12 4) 1 s

theorem listBad_readStore (plan : Nat) (l : Bytes) (c : Cmd) (s : State) : listBad (readStore c s) plan l = listBad s plan l := rfl

theorem planStore_of_list (l : Bytes) (hm : marked s 2 (fld c.item 8 2) c.q c.seq = false) (hn : fld c.item 12 4 ≠ 0)
    (hroom : s.adm.gens.length < 4096) : planStore (some l) c s =
    match listBad s (fld c.item 8 2) (slice l 0 (64 * fld c.item 12 4)) with
    | some (ix, off) => rejectPlan c.q c.seq (fld c.item 8 2) ix off (readStore c s)
    | none => finish c.q c.seq 0 0 (mark 2 (fld c.item 8 2) c.q c.seq { readStore c s with adm.gens := s.adm.gens ++ [{
        plan := fld c.item 8 2, num := 1, list := fld c.item 16 8, tdid := fld c.item 24 2, count := fld c.item 12 4
        crc := crcN (slice l 0 (64 * fld c.item 12 4)), bytes := slice l 0 (64 * fld c.item 12 4) }] }) := by
  simp only [planStore, hm, if_neg hn, if_neg (Nat.not_le.2 hroom), Bool.false_eq_true, if_false]
  rfl

/-- Every generation of a plan withdrawn (R85). -/
def withdrawPlan (plan : Nat) (s : State) : State :=
  { s with adm.gens := s.adm.gens.map fun g => if g.plan = plan then { g with withdrawn := true, current := false } else g }

theorem planStore_of_empty (l : HostRead) (hm : marked s 2 (fld c.item 8 2) c.q c.seq = false) (hn : fld c.item 12 4 = 0)
    (hp : ∀ g ∈ s.adm.gens, g.plan = fld c.item 8 2 → g.pending = none) : planStore l c s =
    finish c.q c.seq 0 0 (freeGens (mark 2 (fld c.item 8 2) c.q c.seq (withdrawPlan (fld c.item 8 2) s))) := by
  have hnone : (s.adm.gens.any fun g => g.plan == fld c.item 8 2 && g.pending.isSome) = false := by
    rw [List.any_eq_false]
    intro g hg
    by_cases hplan : g.plan = fld c.item 8 2
    · simp [hp g hg hplan]
    · simp [hplan]
  simp only [planStore, hm, hn, hnone, updWhere, withdrawPlan, beq_iff_eq, Bool.false_eq_true, if_false, if_true]

theorem cmds_freeGens (s : State) : (freeGens s).ldg.cmds = s.ldg.cmds := by
  rw [cmds_onlyEvents (freeGens_events s)]

/-! ### PLAN_PATCH -/

theorem exec_planPatch (l r : HostRead) (h : ready 0x08 q seq patchBad c s) :
    exec (.planPatch q seq l r) s = .next (planPatch l r c (onCmd q seq ranCmd s)) :=
  congrArg _ (runCmd_ready (planPatch l r) h)

theorem patched_readPatch (plan : Nat) (l r : Bytes) : patched (readPatch c g s) plan l r = patched s plan l r := rfl

theorem planPatch_of_reclaim (l r : HostRead) (hmode : fld c.item 10 1 = 2) :
    planPatch l r c s = finish c.q c.seq 0 0 (collect s) := by
  simp only [planPatch, hmode, if_true]

section Sound

variable (hm : marked s 2 (fld c.item 8 2) c.q c.seq = false) (hg : current? s (fld c.item 8 2) = some g)
  (hpend : g.pending = none)
  (hsound : patched s (fld c.item 8 2) (slice l 0 (64 * g.count)) (slice r 0 (128 * fld c.item 12 4)) = .inl m)

include hm hg hpend hsound

theorem planPatch_of_new (hmode : fld c.item 10 1 = 0) (hroom : s.adm.gens.length < 4096) :
    planPatch (some l) (some r) c s = listPieces c.q c.seq (fld c.item 24 8) (fld c.item 32 2) m
      (startWrite c.q c.seq (fld c.item 8 2) m (readPatch c g s)) := by
  simp [planPatch, hmode, hm, hg, hpend, Nat.not_le.2 hroom, patched_readPatch, hsound]

theorem planPatch_of_inPlace (hmode : fld c.item 10 1 = 1) (ho : s.regs.shadow.castle.isOpen = false)
    (hl : launched s (fld c.item 8 2) g.num = false) : planPatch (some l) (some r) c s =
      recWrites c.q c.seq g (slice r 0 (128 * fld c.item 12 4))
        (startWrite c.q c.seq (fld c.item 8 2) m (readPatch c g s)) := by
  simp [planPatch, hmode, hm, hg, hpend, ho, hl, patched_readPatch, hsound]

theorem planPatch_of_staged (hmode : fld c.item 10 1 = 1) (ho : s.regs.shadow.castle.isOpen = true) :
    planPatch (some l) (some r) c s = { readPatch c g s with
      adm.stagedPatch := some { q := c.q, seq := c.seq, plan := fld c.item 8 2, recs := slice r 0 (128 * fld c.item 12 4) } } := by
  simp [planPatch, hmode, hm, hg, hpend, ho, patched_readPatch, hsound]

end Sound

/-! ### The end of a patch -/

theorem listWritten_of_patch {w : ListWrite} (hw : listWriteOf s q seq = some w) (hst : w.st = 0) (hc : cmd? s q seq = some c)
    (hop : itemOp c.item = 8) (hdone : ∀ r ∈ s.out.hb, r.kind ≠ .planList q seq) :
    listWritten q seq s = patchDone c w (dropListWrite q seq s) := by
  have hnone : (s.out.hb.any fun r => r.kind == .planList q seq) = false := by
    rw [List.any_eq_false]
    exact fun r hr => by simpa using hdone r hr
  simp [listWritten, hnone, hw, hc, hst, hop]

theorem patchDone_of_new {w : ListWrite} (hmode : fld c.item 10 1 = 0) (hg : current? s w.plan = some g) : patchDone c w s =
    finish c.q c.seq 0 0 (freeGens (mark 2 w.plan c.q c.seq { s with
      adm.gens := (s.adm.gens.map fun x => if x.plan = w.plan then { x with current := false } else x) ++ [{
        plan := w.plan, num := g.num + 1, list := fld c.item 24 8, tdid := fld c.item 32 2
        count := entryCount w.bytes, crc := crcN w.bytes, bytes := w.bytes }] })) := by
  have hne : ¬ (0 : Nat) = 1 := by decide
  simp only [patchDone, hg, hmode, if_neg hne, updWhere, beq_iff_eq]

theorem patchDone_of_inPlace {w : ListWrite} (hmode : fld c.item 10 1 = 1) (hg : current? s w.plan = some g) :
    patchDone c w s = finish c.q c.seq 0 0 (mark 2 w.plan c.q c.seq (advanceGen g w.bytes s)) := by
  simp only [patchDone, hg, hmode, if_true]

theorem listFailed_of_patch {w : ListWrite} (hw : listWriteOf s q seq = some w) (hc : cmd? s q seq = some c)
    (hop : itemOp c.item = 8) :
    listFailed q seq s = malformed q seq (if fld c.item 10 1 = 0 then 24 else 0xFE) (dropListWrite q seq s) := by
  simp only [listFailed, hw, hc, hop, if_true]

end Plans

/-- Settles O21: each form of the two commands reads, then ends or waits for its list writes, whose pieces hold the list in order. -/
theorem planCommands : Obligations.PlanCommands := by
  refine ⟨?_, ?_, ?_, ?_, ?_, ?_, ?_, ?_, ?_, ?_, ?_, ?_⟩
  · intro s q seq c l h hm hn hroom hbad
    obtain ⟨rfl, rfl⟩ := cmd?_q (ready_cmd h)
    refine ⟨_, exec_planStore _ h, ?_⟩
    rw [planStore_of_list (s := onCmd c.q c.seq ranCmd s) l hm hn hroom, hbad]
    exact finish_ends_of_ready 0 0 h rfl (.inr rfl)
  · intro s q seq c l ix off h hm hn hroom hbad
    obtain ⟨rfl, rfl⟩ := cmd?_q (ready_cmd h)
    refine ⟨_, exec_planStore _ h, ?_⟩
    rw [planStore_of_list (s := onCmd c.q c.seq ranCmd s) l hm hn hroom, hbad]
    unfold rejectPlan planReject
    have hcmds := cmds_onlyEvents (raise0_events 0x0203 1 (fld c.item 8 2 + ix % 65536 * 2 ^ 16 + off * 2 ^ 32)
      (readStore c (onCmd c.q c.seq ranCmd s)))
    exact finish_ends_of_ready 3 (128 + off) h hcmds (.inl (by decide))
  · intro s q seq c l h hm hn hp
    obtain ⟨rfl, rfl⟩ := cmd?_q (ready_cmd h)
    refine ⟨_, exec_planStore _ h, ?_⟩
    rw [planStore_of_empty (s := onCmd c.q c.seq ranCmd s) l hm hn hp]
    exact finish_ends_of_ready 0 0 h (cmds_freeGens _) (.inr rfl)
  · intro s q seq c g r l m h hm hmode hg hpend hroom hsound
    obtain ⟨rfl, rfl⟩ := cmd?_q (ready_cmd h)
    rw [exec_planPatch _ _ h, planPatch_of_new (s := onCmd c.q c.seq ranCmd s) hm hg hpend hsound hmode hroom]
  · intro s q seq c g r l m h hm hmode hg hpend ho hl hsound
    obtain ⟨rfl, rfl⟩ := cmd?_q (ready_cmd h)
    rw [exec_planPatch _ _ h, planPatch_of_inPlace (s := onCmd c.q c.seq ranCmd s) hm hg hpend hsound hmode ho hl]
  · intro s q seq addr tdid d
    exact listPieces_spec q seq addr tdid d s
  · intro s q seq c w hw hst hc hop hdone
    exact listWritten_of_patch hw hst hc hop hdone
  · intro s c w g hc hlive hmode hg
    rw [patchDone_of_new hmode hg]
    exact finish_ends 0 0 ((cmd?_of_cmds (cmds_freeGens _) c.q c.seq).trans hc) hlive (.inr (.inl rfl))
  · intro s c w g hc hlive hop hmode hg
    have hl : isLaunch c.item = false := by
      rw [isLaunch, hop]
      rfl
    have hc' : cmd? (mark 2 w.plan c.q c.seq (advanceGen g w.bytes s)) c.q c.seq = some c :=
      (cmd?_advanceGen g w.bytes s c.q c.seq).trans hc
    rw [patchDone_of_inPlace hmode hg]
    refine ⟨?_, ?_⟩
    · rw [(finish_notLaunch_keeps hc' hl).1]
      refine (gens_onlyEvents (advanceGen_events g w.bytes s)).trans ?_
      simp only [updWhere, Bool.and_eq_true, beq_iff_eq]
    · rw [ends_cmd (finish_ends 0 0 hc' hlive (.inr (.inl rfl))) hc']
      rfl
  · intro s q seq c w hw hc hop hlive
    rw [listFailed_of_patch hw hc hop]
    exact finish_ends (s := dropListWrite q seq s) 3 _ hc hlive (.inl (by decide))
  · intro s q seq c g r l m h hm hmode hg hpend ho hsound
    obtain ⟨rfl, rfl⟩ := cmd?_q (ready_cmd h)
    rw [exec_planPatch _ _ h, planPatch_of_staged (s := onCmd c.q c.seq ranCmd s) hm hg hpend hsound hmode ho]
  · intro s q seq c l r h hmode
    obtain ⟨rfl, rfl⟩ := cmd?_q (ready_cmd h)
    refine ⟨_, exec_planPatch _ _ h, ?_⟩
    rw [planPatch_of_reclaim _ _ hmode]
    exact finish_ends_of_ready 0 0 h rfl (.inr rfl)

end Sys2Proof.Machine
end

section
/-! SUPPORT. Reads of a clean store (R317), and the commands that fill recipe and key slots (R182, R207 to R210). -/

namespace Sys2Proof.Machine

section Clean

/-! ### Reads of a clean store -/

variable {store : Nat} {s t : State}

theorem each_nil {α : Type} (f : α → State → State) (s : State) : each [] f s = s := rfl

theorem storeClean_of_flt (h : storeClean store s) (ht : t.flt = s.flt) : storeClean store t := by
  unfold storeClean
  rw [ht]
  exact h

theorem mergeDrain_of_clean (p : Nat → Bool) (h : storeClean store s) :
    mergeDrain (fun e => e.store == store && p e.lane) s = s := by
  have hnone : (s.flt.merge.filter fun e => e.store == store && p e.lane) = [] := by
    rw [List.filter_eq_nil_iff]
    intro e he
    simp [h.1 e he]
  rw [mergeDrain, hnone, each_nil]

theorem readLanes_of_clean (p : Nat → Bool) (lost : Nat → State → State) (h : storeClean store s) :
    readLanes store p lost s = s := by
  have hnone : corrupted s store p = [] := by
    rw [corrupted, List.filter_eq_nil_iff]
    intro x hx
    simp [show ¬ x.1 / 4294967296 = store from h.2 x hx]
  rw [readLanes, mergeDrain_of_clean p h, hnone, each_nil]

theorem readKeys_of_clean (slots : List Nat) (h : storeClean 13 s) : readKeys slots s = s :=
  readLanes_of_clean _ _ h

/-! ### What writing lanes leaves alone -/

theorem flipHook_ldg (m l : Nat) (s : State) : (flipHook m l s).ldg = s.ldg := by
  unfold flipHook
  dsimp only
  split <;> rfl

theorem flipHook_adm (m l : Nat) (s : State) : (flipHook m l s).adm = s.adm := by
  unfold flipHook
  dsimp only
  split <;> rfl

theorem lanesWrite_ldg (store lane n : Nat) (s : State) : (lanesWrite store lane n s).ldg = s.ldg := by
  unfold lanesWrite
  dsimp only
  split
  · rfl
  · rw [flipHook_ldg]

theorem lanesWrite_adm (store lane n : Nat) (s : State) : (lanesWrite store lane n s).adm = s.adm := by
  unfold lanesWrite
  dsimp only
  split
  · rfl
  · rw [flipHook_adm]

/-- Reads of control structures are noted, and change nothing else. -/
theorem each_readCtl {α : Type} (addr : α → Nat) (tdid len cls : Nat) (l : List α) (s : State) :
    ∃ rs, each l (fun x => readCtl (addr x) tdid len cls) s = { s with out.reads := rs } := by
  induction l generalizing s with
  | nil => exact ⟨s.out.reads, rfl⟩
  | cons a l ih =>
    obtain ⟨rs, h⟩ := ih (readCtl (addr a) tdid len cls s)
    exact ⟨rs, h⟩

end Clean

section Slots

variable {q seq : Nat} {s : State} {c : Cmd}

/-! ### Recipes -/

theorem exec_recipeLoad (b : HostRead) (h : ready 0x09 q seq recipeLoadBad c s) :
    exec (.recipeLoad q seq b) s = .next (recipeLoad b c (onCmd q seq ranCmd s)) :=
  congrArg _ (runCmd_ready (recipeLoad b) h)

theorem recipeLoad_of_busy (b : HostRead) (hb : recipeBusy s (fld c.item 8 1) = true) :
    recipeLoad b c s = finish c.q c.seq 6 5 s := by
  simp only [recipeLoad, hb, if_true]

theorem recipeLoad_of_sound {b : Bytes} (hb : recipeBusy s (fld c.item 8 1) = false)
    (hp : progBad (progWords (fld c.item 10 2) b) = none) : recipeLoad (some b) c s =
    finish c.q c.seq 0 0 (lanesWrite 12 (256 * fld c.item 8 1) (fld c.item 10 2)
      { readCtl (fld c.item 16 8) (fld c.item 12 2) (8 * fld c.item 10 2) 1 s with
        adm.recipes := Tab.put s.adm.recipes (fld c.item 8 1) (progWords (fld c.item 10 2) b) }) := by
  have hlen : (progWords (fld c.item 10 2) b).length = fld c.item 10 2 := by simp [progWords]
  simp only [recipeLoad, hb, hp, hlen, Bool.false_eq_true, if_false]
  rfl

/-! ### Keys -/

/-- The state of a slot just filled, before its end (R207, R213). -/
def filledKey (c : Cmd) (n form : Nat) (content : Bytes) (s : State) : State :=
  let t := lanesWrite 13 (8 * n) 8 { s with
    adm.keys := Tab.put s.adm.keys n { form, content, kcv := kcvOf form content }
    adm.keyLost := s.adm.keyLost.filter fun m => m != n
    adm.keyLoads := Tab.put s.adm.keyLoads n ((Tab.getD s.adm.keyLoads n 0 + 1) % 65536) }
  if marked t 3 n c.q c.seq then t
  else mark 3 n c.q c.seq { t with adm.keyRec := Tab.put t.adm.keyRec n (form, kcvOf form content) }

theorem fillKey_eq (c : Cmd) (n form : Nat) (content : Bytes) (s : State) : fillKey c n form content s =
    finish c.q c.seq 0 0 (raise0 0x0602 0 (n + 2 ^ 32 * fld (kcvOf form content) 0 4) (filledKey c n form content s)) := rfl

theorem filledKey_of_new {n form : Nat} {content : Bytes} (hm : marked s 3 n c.q c.seq = false) :
    filledKey c n form content s = { lanesWrite 13 (8 * n) 8 { s with
        adm.keys := Tab.put s.adm.keys n { form, content, kcv := kcvOf form content }
        adm.keyLost := s.adm.keyLost.filter fun m => m != n
        adm.keyLoads := Tab.put s.adm.keyLoads n ((Tab.getD s.adm.keyLoads n 0 + 1) % 65536) } with
      adm.keyRec := Tab.put s.adm.keyRec n (form, kcvOf form content)
      ldg.marks := Tab.put s.ldg.marks (8 * n + 3) (c.q, c.seq) } := by
  unfold filledKey
  simp only [marked, lanesWrite_ldg, lanesWrite_adm] at hm ⊢
  rw [hm, if_neg Bool.false_ne_true, mark]

theorem filledKey_keys (c : Cmd) (n form : Nat) (content : Bytes) (s : State) :
    (filledKey c n form content s).adm.keys = Tab.put s.adm.keys n { form, content, kcv := kcvOf form content } := by
  unfold filledKey mark
  dsimp only
  split <;> simp only [lanesWrite_adm]

theorem filledKey_cmds (c : Cmd) (n form : Nat) (content : Bytes) (s : State) :
    (filledKey c n form content s).ldg.cmds = s.ldg.cmds := by
  unfold filledKey mark
  dsimp only
  split <;> simp only [lanesWrite_ldg]

theorem keys_onlyEvents {s t : State} (h : onlyEvents s t) : t.adm.keys = s.adm.keys := by
  unfold onlyEvents at h
  rw [h]

/-- A slot is filled, and the other slots keep what they held. -/
theorem fillKey_keys {n form : Nat} {content : Bytes} {x : Cmd} (hc : cmd? s c.q c.seq = some x) (hl : isLaunch x.item = false) :
    (fillKey c n form content s).adm.keys = Tab.put s.adm.keys n { form, content, kcv := kcvOf form content } := by
  have hev := raise0_events 0x0602 0 (n + 2 ^ 32 * fld (kcvOf form content) 0 4) (filledKey c n form content s)
  have hcmds := (cmds_onlyEvents hev).trans (filledKey_cmds c n form content s)
  rw [fillKey_eq, (finish_notLaunch_keeps ((cmd?_of_cmds hcmds c.q c.seq).trans hc) hl).1, keys_onlyEvents hev, filledKey_keys]

theorem exec_keyLoad (w : HostRead) (h : ready 0x0A q seq keyLoadBad c s) :
    exec (.keyLoad q seq w) s = .next (keyLoad w c (onCmd q seq ranCmd s)) :=
  congrArg _ (runCmd_ready (keyLoad w) h)

theorem exec_keyDerive (l : Tab Bytes) (h : ready 0x0B q seq keyDeriveBad c s) :
    exec (.keyDerive q seq l) s = .next (keyDerive l c (onCmd q seq ranCmd s)) :=
  congrArg _ (runCmd_ready (keyDerive l) h)

theorem keyLoad_of_busy (w : HostRead) (hclean : storeClean 13 s) (hu : keyInUse s c (slotOfLoad c.item) = true) :
    keyLoad w c s = finish c.q c.seq 6 4 s := by
  simp only [keyLoad, readKeys_of_clean _ hclean, hu, if_true]

theorem keyLoad_of_sound {w k : Bytes} {f : Nat × Bytes} (hclean : storeClean 13 s)
    (hu : keyInUse s c (slotOfLoad c.item) = false) (hk : keyBad s (fld c.item 10 1) 1 none = none)
    (hw : keyUnwrap (keyBytes s (fld c.item 10 1)) (wrapIv (fld c.item 8 1)) (slice w 0 (fld c.item 11 1)) = some k)
    (hf : keyForm (fld c.item 8 1) (fld c.item 11 1) k = .inr f) : keyLoad (some w) c s =
    fillKey c (slotOfLoad c.item) f.1 f.2 (readCtl (fld c.item 16 8) (fld c.item 12 2) (fld c.item 11 1) 1 s) := by
  have hw' : keyUnwrap (keyBytes (readCtl (fld c.item 16 8) (fld c.item 12 2) (fld c.item 11 1) 1 s) (fld c.item 10 1))
      (wrapIv (fld c.item 8 1)) (slice w 0 (fld c.item 11 1)) = some k := hw
  simp only [keyLoad, readKeys_of_clean _ hclean, hu, hk, hw', hf, Bool.false_eq_true, if_false]

/-- What a KEY_DERIVE fills its slot with, from the states of its HMAC key and the hallmark (R208). -/
def derivedKey (b states h : Bytes) : Nat × Bytes :=
  if fld b 8 1 = 0 then (2, deriveT states h b 1 ++ deriveT states h b 2) else (3, hmacStates (deriveT states h b 1))

/-- The sectors of a host vault that a KEY_DERIVE reads. -/
def readDerive (sectors : Tab Bytes) (v : Vault) (s : State) : State :=
  if vWhere v = 0 then each sectors (fun x => readCtl (vBase v + 4096 * x.1) (vTdid v) 4096 5) s else s

theorem readDerive_eq (sectors : Tab Bytes) (v : Vault) (s : State) :
    ∃ rs, readDerive sectors v s = { s with out.reads := rs } := by
  unfold readDerive
  split
  · exact each_readCtl (fun x : Nat × Bytes => vBase v + 4096 * x.1) (vTdid v) 4096 5 sectors s
  · exact ⟨s.out.reads, rfl⟩

theorem keyDerive_of_sound {sectors : Tab Bytes} {v : Vault} {h : Bytes} (hclean : storeClean 13 s)
    (hu : keyInUse s c (slotOfLoad c.item) = false) (hk : keyBad s (256 + fld c.item 10 1) 3 none = none)
    (hv : vault? s (fld c.item 12 4) = some v) (hb : vaultBad s v = none) (hh : deriveHallmark s sectors c.item v = .inr h)
    (hne : deriveT (keyBytes s (256 + fld c.item 10 1)) h c.item 1 ≠ deriveT (keyBytes s (256 + fld c.item 10 1)) h c.item 2) :
    ∃ rs, keyDerive sectors c s = fillKey c (slotOfLoad c.item)
      (derivedKey c.item (keyBytes s (256 + fld c.item 10 1)) h).1
      (derivedKey c.item (keyBytes s (256 + fld c.item 10 1)) h).2 { s with out.reads := rs } := by
  obtain ⟨rs, hrs⟩ := readDerive_eq sectors v s
  have hh' : deriveHallmark (readDerive sectors v s) sectors c.item v = .inr h := by
    rw [hrs]
    exact hh
  have hkeys : keyBytes (readDerive sectors v s) (256 + fld c.item 10 1) = keyBytes s (256 + fld c.item 10 1) := by
    rw [hrs]
    rfl
  refine ⟨rs, ?_⟩
  unfold keyDerive
  simp only [readKeys_of_clean _ hclean, hu, hk, hv, hb, Bool.false_eq_true, if_false, Option.isSome_none]
  rw [← readDerive, hh', hkeys]
  simp only [if_neg hne, derivedKey, hrs]
  split <;> rfl

end Slots

/-- Settles O22: a slot in use refuses its load; any other is filled, its loads are counted, and its record is kept. -/
theorem recipeAndKeyCommands : Obligations.RecipeAndKeyCommands := by
  refine ⟨?_, ?_, ?_, ?_, ?_⟩
  · intro s q seq c b h hb hp
    obtain ⟨rfl, rfl⟩ := cmd?_q (ready_cmd h)
    refine ⟨_, exec_recipeLoad _ h, ?_⟩
    rw [recipeLoad_of_sound (s := onCmd c.q c.seq ranCmd s) hb hp]
    exact finish_ends_of_ready 0 0 h (congrArg Ledger.cmds (lanesWrite_ldg ..)) (.inr rfl)
  · intro s q seq c b h hb
    obtain ⟨rfl, rfl⟩ := cmd?_q (ready_cmd h)
    refine ⟨_, exec_recipeLoad _ h, ?_⟩
    rw [recipeLoad_of_busy (s := onCmd c.q c.seq ranCmd s) b hb]
    exact finish_ends_of_ready 6 5 h rfl (.inl (by decide))
  · intro s q seq c w k f h hclean hu hk hw hf hm
    obtain ⟨rfl, rfl⟩ := cmd?_q (ready_cmd h)
    have hclean' : storeClean 13 (onCmd c.q c.seq ranCmd s) := hclean
    have hm' : marked (readCtl (fld c.item 16 8) (fld c.item 12 2) (fld c.item 11 1) 1 (onCmd c.q c.seq ranCmd s)) 3
        (slotOfLoad c.item) c.q c.seq = false := hm
    have hcmds := (cmds_onlyEvents (raise0_events 0x0602 0 (slotOfLoad c.item + 2 ^ 32 * fld (kcvOf f.1 f.2) 0 4) _)).trans
      (filledKey_cmds c (slotOfLoad c.item) f.1 f.2
        (readCtl (fld c.item 16 8) (fld c.item 12 2) (fld c.item 11 1) 1 (onCmd c.q c.seq ranCmd s)))
    refine ⟨_, exec_keyLoad _ h, ?_⟩
    rw [keyLoad_of_sound hclean' hu hk hw hf, fillKey_eq]
    have hends := finish_ends_of_ready 0 0 h hcmds (.inr rfl)
    rw [filledKey_of_new hm'] at hends ⊢
    exact hends
  · intro s q seq c w h hclean hu
    obtain ⟨rfl, rfl⟩ := cmd?_q (ready_cmd h)
    have hclean' : storeClean 13 (onCmd c.q c.seq ranCmd s) := hclean
    refine ⟨_, exec_keyLoad _ h, ?_⟩
    rw [keyLoad_of_busy w hclean' hu]
    exact finish_ends_of_ready 6 4 h rfl (.inl (by decide))
  · intro s q seq c sectors v h hr hclean hu hk hv hb hh hne
    obtain ⟨rfl, rfl⟩ := cmd?_q (ready_cmd hr)
    have hclean' : storeClean 13 (onCmd c.q c.seq ranCmd s) := hclean
    obtain ⟨rs, hderive⟩ := keyDerive_of_sound hclean' hu hk hv hb hh hne
    have hl : isLaunch (ranCmd c).item = false := by
      change isLaunch c.item = false
      rw [isLaunch, ready_op hr]
      rfl
    have hc : cmd? { onCmd c.q c.seq ranCmd s with out.reads := rs } c.q c.seq = some (ranCmd c) := ready_ran hr
    have hkeys := fillKey_keys (n := slotOfLoad c.item)
      (form := (derivedKey c.item (keyBytes s (256 + fld c.item 10 1)) h).1)
      (content := (derivedKey c.item (keyBytes s (256 + fld c.item 10 1)) h).2) hc hl
    refine ⟨_, exec_keyDerive sectors hr, ?_, ?_, ?_⟩
    · rw [hderive]
      exact hkeys ▸ Tab.get?_put_self ..
    · intro n hn
      rw [hderive]
      exact hkeys ▸ Tab.get?_put_ne _ _ hn
    · have hcmds := (cmds_onlyEvents (raise0_events 0x0602 0 (slotOfLoad c.item + 2 ^ 32 *
          fld (kcvOf (derivedKey c.item (keyBytes s (256 + fld c.item 10 1)) h).1
            (derivedKey c.item (keyBytes s (256 + fld c.item 10 1)) h).2) 0 4) _)).trans
        (filledKey_cmds c (slotOfLoad c.item) (derivedKey c.item (keyBytes s (256 + fld c.item 10 1)) h).1
          (derivedKey c.item (keyBytes s (256 + fld c.item 10 1)) h).2 { onCmd c.q c.seq ranCmd s with out.reads := rs })
      rw [hderive, fillKey_eq]
      exact congrArg (Option.map _) (cmd?_finish_of_ready 0 0 hr hcmds (.inr rfl))

end Sys2Proof.Machine
end

section
/-! SUPPORT. What leaves the ledger alone: links, peers and the channels that come back; then the commands on channels, and those on the
topology (R95, R252, R255, R263, R313). -/

namespace Sys2Proof.Machine

section Ledger

variable {s t : State}

/-! ### Operations that leave the ledger alone -/

theorem ldg_onlyEvents (h : onlyEvents s t) : t.ldg = s.ldg := by
  unfold onlyEvents at h
  rw [h]

theorem raise_ldg (code sev q n d : Nat) (s : State) : (raise code sev q n d s).ldg = s.ldg := ldg_onlyEvents (raise_events ..)

theorem raise0_ldg (code sev d : Nat) (s : State) : (raise0 code sev d s).ldg = s.ldg := ldg_onlyEvents (raise0_events ..)

theorem setResync_ldg (t : Nat) (s : State) : (setResync t s).ldg = s.ldg := by
  unfold setResync
  split
  · rfl
  · split
    · rfl
    · unfold writeHeader
      split <;> rfl

theorem linkDown_ldg (p cause state : Nat) (s : State) : (linkDown p cause state s).ldg = s.ldg := by
  unfold linkDown
  split
  · rfl
  · dsimp only
    split
    · rw [raise0_ldg]
      rfl
    · rfl

theorem listPort_ldg (p : Nat) (s : State) : (listPort p s).ldg = s.ldg := by
  unfold listPort
  dsimp only
  split
  · split
    · rfl
    · exact linkDown_ldg ..
  · split
    · rfl
    · split
      · rfl
      · split
        · exact linkDown_ldg ..
        · rfl

theorem sendOn_ldg (p : Nat) (m : Msg) (s : State) : (sendOn p m s).ldg = s.ldg := by
  unfold sendOn
  split <;> rfl

theorem sendHello_ldg (p d : Nat) (s : State) : (sendHello p d s).ldg = s.ldg := by
  unfold sendHello
  split
  · exact sendOn_ldg ..
  · rfl

theorem clearConflicts_ldg (s : State) : (clearConflicts s).ldg = s.ldg := by
  unfold clearConflicts
  dsimp only
  refine each_keeps (p := State.ldg) (fun p t => ?_) _ _
  split
  · exact each_keeps (p := State.ldg) (fun d u => sendHello_ldg p d u) _ _
  · rfl

theorem dropPeers_ldg (s : State) : (dropPeers s).ldg = s.ldg := rfl

theorem ensurePeers_ldg (s : State) : (ensurePeers s).ldg = s.ldg := rfl

theorem tableChanged_ldg (s : State) : (tableChanged s).ldg = s.ldg := by
  rw [tableChanged, dropPeers_ldg, clearConflicts_ldg, each_keeps (p := State.ldg) listPort_ldg, ensurePeers_ldg]

theorem leaveFenced_ldg (s : State) : (leaveFenced s).ldg = s.ldg := by
  unfold leaveFenced
  split <;> rfl

theorem rebuild_ldg (kind ix : Nat) (s : State) : (rebuild kind ix s).ldg = s.ldg := by
  unfold rebuild
  split
  · rfl
  · exact listPort_ldg ..
  · rfl
  · refine (each_keeps (p := State.ldg) (fun _ _ => setResync_ldg ..) _ _).trans ?_
    dsimp only
    split <;> rfl
  · rfl

theorem cmds_onlyJournal (h : onlyJournal s t) : t.ldg.cmds = s.ldg.cmds := by
  unfold onlyJournal at h
  rw [h]

theorem readmitLane_cmds (kind ix : Nat) (s : State) : (readmitLane kind ix s).ldg.cmds = s.ldg.cmds := by
  unfold readmitLane
  rw [raise0_ldg, faultRecord, cmds_onlyJournal (append_journal ..), rebuild_ldg]

end Ledger

section Lanes

variable {q seq : Nat} {s : State} {c : Cmd}

/-! ### Channels -/

theorem exec_laneRetire (h : ready 0x0D q seq laneRetireBad c s) (hm : laneMayRun c s = true) :
    exec (.laneRetire q seq) s = .next (laneRetire c (onCmd q seq ranCmd s)) := by
  rw [← runCmd_ready laneRetire h]
  exact execLaneRetire_of_laneMayRun h.1 hm

theorem exec_laneReturn (pass : Bool) (h : ready 0x0E q seq (fun c _ => laneBad c) c s) :
    exec (.laneReturn q seq pass) s = .next (laneReturn pass c (onCmd q seq ranCmd s)) :=
  congrArg _ (runCmd_ready (laneReturn pass) h)

/-- With no LANE_RETURN there is none to end. -/
theorem endReturn_of_none (k i : Nat) (h : ∀ x ∈ s.ldg.cmds, itemOp x.item ≠ 0x0E) : endReturn k i s = s := by
  have hnone : (s.ldg.cmds.filter fun c => itemOp c.item == 0x0E && c.st == .started && fld c.item 8 1 == k &&
      fld c.item 9 1 == i) = [] := by
    rw [List.filter_eq_nil_iff]
    intro x hx
    simp [h x hx]
  rw [endReturn, hnone, each_nil]

theorem itemOps_onCmd_ran {op : Nat} (h : ∀ x ∈ s.ldg.cmds, itemOp x.item ≠ op) :
    ∀ x ∈ (onCmd q seq ranCmd s).ldg.cmds, itemOp x.item ≠ op := by
  intro x hx
  rw [onCmd_ldg] at hx
  simp only [updWhere, List.mem_map] at hx
  obtain ⟨y, hy, rfl⟩ := hx
  split
  · exact h y hy
  · exact h y hy

theorem laneRetire_of_gone (h : ∀ x ∈ s.ldg.cmds, itemOp x.item ≠ 0x0E)
    (hr : retired s (fld c.item 8 1) (fld c.item 9 1) = true) : laneRetire c s = finish c.q c.seq 0 0 s := by
  simp only [laneRetire, endReturn_of_none _ _ h, hr, if_true]

theorem laneRetire_of_noCut (h : ∀ x ∈ s.ldg.cmds, itemOp x.item ≠ 0x0E)
    (hr : retired s (fld c.item 8 1) (fld c.item 9 1) = false) (hcut : fld c.item 8 1 = 8 → capEpoch s = none) :
    laneRetire c s = laneRetireEnd (fld c.item 8 1) (fld c.item 9 1) c.q c.seq s := by
  have hnone : (if fld c.item 8 1 = 8 then capEpoch s else none) = none := by
    split
    · next h8 => exact hcut h8
    · rfl
  simp only [laneRetire, endReturn_of_none _ _ h, hr, hnone, Bool.false_eq_true, if_false]

theorem laneReturn_of_inService (pass : Bool) (hr : retired s (fld c.item 8 1) (fld c.item 9 1) = false) :
    laneReturn pass c s = finish c.q c.seq 0 0 s := by
  simp [laneReturn, hr]

theorem laneReturn_of_failed (hr : retired s (fld c.item 8 1) (fld c.item 9 1) = true) :
    laneReturn false c s = finish c.q c.seq 0x0F 0 s := by
  simp [laneReturn, hr]

theorem laneReturn_of_passed (hr : retired s (fld c.item 8 1) (fld c.item 9 1) = true) : laneReturn true c s =
    settleAfter (finish c.q c.seq 0 0 (readmitLane (fld c.item 8 1) (fld c.item 9 1) s)) := by
  simp [laneReturn, hr]

end Lanes

/-- Settles O24: a channel that is not, or no longer, in service ends the command at once; the others are retired or readmitted first. -/
theorem laneCommands : Obligations.LaneCommands := by
  refine ⟨?_, ?_, ?_, ?_, ?_⟩
  · intro s q seq c h hm hr hcut hret
    obtain ⟨rfl, rfl⟩ := cmd?_q (ready_cmd h)
    rw [exec_laneRetire h hm, laneRetire_of_noCut (itemOps_onCmd_ran hret) hr hcut]
    rfl
  · intro s q seq c h hm hr hret
    obtain ⟨rfl, rfl⟩ := cmd?_q (ready_cmd h)
    refine ⟨_, exec_laneRetire h hm, ?_⟩
    rw [laneRetire_of_gone (itemOps_onCmd_ran hret) hr]
    exact finish_ends_of_ready 0 0 h rfl (.inr rfl)
  · intro s q seq c pass h hr
    obtain ⟨rfl, rfl⟩ := cmd?_q (ready_cmd h)
    refine ⟨_, exec_laneReturn pass h, ?_⟩
    rw [laneReturn_of_inService (s := onCmd c.q c.seq ranCmd s) pass hr]
    exact finish_ends_of_ready 0 0 h rfl (.inr rfl)
  · intro s q seq c h hr
    obtain ⟨rfl, rfl⟩ := cmd?_q (ready_cmd h)
    refine ⟨_, exec_laneReturn false h, ?_⟩
    rw [laneReturn_of_failed (s := onCmd c.q c.seq ranCmd s) hr]
    exact finish_ends_of_ready 0x0F 0 h rfl (.inl (by decide))
  · intro s q seq c h hr
    obtain ⟨rfl, rfl⟩ := cmd?_q (ready_cmd h)
    refine ⟨_, finish_ends_of_ready 0 0 h (readmitLane_cmds ..) (.inr rfl), ?_⟩
    rw [exec_laneReturn true h, laneReturn_of_passed (s := onCmd c.q c.seq ranCmd s) hr]

section Topology

variable {q seq : Nat} {s : State} {c : Cmd}

/-! ### The topology -/

theorem exec_buddySet (h : ready 0x0F q seq buddySetBad c s) :
    exec (.buddySet q seq) s = .next (buddySet c (onCmd q seq ranCmd s)) :=
  congrArg _ (runCmd_ready buddySet h)

theorem exec_topologySet (b : HostRead) (h : ready 0x10 q seq topologyBad c s) :
    exec (.topologySet q seq b) s = .next (topologySet b c (onCmd q seq ranCmd s)) :=
  congrArg _ (runCmd_ready (topologySet b) h)

theorem exec_fenceRaise (h : ready 0x14 q seq fenceRaiseBad c s) :
    exec (.fenceRaise q seq) s = .next (fenceRaise c (onCmd q seq ranCmd s)) :=
  congrArg _ (runCmd_ready fenceRaise h)

theorem buddySet_of_fenced (h : s.adm.fenced = true) : buddySet c s = finish c.q c.seq 8 0 s := by
  simp only [buddySet, h, if_true]

theorem buddySet_of_notFenced (h : s.adm.fenced = false) : buddySet c s = finish c.q c.seq 0 0 (tableChanged { s with
    adm.topo := (s.adm.topo.filter fun r => !(tRole r == 1 && tIndex r == fld c.item 8 1)) ++
      (if fld c.item 10 1 = 0 then [buddyRec c.item] else []) }) := by
  simp only [buddySet, h, Bool.false_eq_true, if_false]
  split <;> simp only [List.append_nil]

/-- The records of the table that a TOPOLOGY_SET reads. -/
def tableRecs (c : Cmd) (b : Bytes) : List Bytes := (List.range (fld c.item 8 4)).map fun i => slice b (32 * i) 32

/-- The read of a TOPOLOGY_SET's table. -/
def readTable (c : Cmd) (s : State) : State := readCtl (fld c.item 16 8) (fld c.item 12 2) (32 * fld c.item 8 4) 1 s

theorem topologySet_of_sound {b : Bytes}
    (hb : topoBad (((tableRecs c b).filter fun r => tRole r == 2).map tIndex) [] (tableRecs c b) = none) :
    topologySet (some b) c s =
      if s.spl.peers.any fun p => p.2.ready && claimLoses (fld c.item 24 4) (fld c.item 28 4) p.2.ringGen p.2.coord then
        finish c.q c.seq 9 0 (readTable c s)
      else finish c.q c.seq 0 0 (installTopo c (tableRecs c b) (readTable c s)) := by
  unfold topologySet
  dsimp only
  rw [← tableRecs, hb]
  rfl

/-- The generation expected of a device, as a FENCE_RAISE records it unless it has before (R263, R296). -/
def raiseFence (c : Cmd) (s : State) : State :=
  if marked s 4 (fld c.item 8 4) c.q c.seq then s
  else mark 4 (fld c.item 8 4) c.q c.seq { s with
    adm.fenceExp := Tab.put s.adm.fenceExp (fld c.item 8 4) (fld c.item 12 4) }

/-- FENCE goes to a device that a route leads to. -/
def tellFence (c : Cmd) (s : State) : State :=
  if routeUp s (fld c.item 8 4) then send { mtype := 3, dst := fld c.item 8 4, arg := fld c.item 12 4 } s else s

theorem fenceRaise_eq (c : Cmd) (s : State) : fenceRaise c s = finish c.q c.seq 0 0
    (endRequests (fun r => r.peer == fld c.item 8 4 && r.owner.isSome) 8 0 (tellFence c (raiseFence c s))) := rfl

theorem endRequests_of_none {p : Req → Bool} (status detail : Nat) (h : ∀ r ∈ s.spl.reqs, p r = false) :
    endRequests p status detail s = s := by
  have hgone : s.spl.reqs.filter p = [] := by
    rw [List.filter_eq_nil_iff]
    exact fun r hr => by simp [h r hr]
  have hkeep : (s.spl.reqs.filter fun r => !p r) = s.spl.reqs := by
    rw [List.filter_eq_self]
    exact fun r hr => by simp [h r hr]
  unfold endRequests
  dsimp only
  rw [hgone, hkeep]
  rfl

theorem reqs_finish (q n status detail : Nat) (s : State) : (finish q n status detail s).spl.reqs = s.spl.reqs := by
  rw [finish_onlyEnds]

theorem stopCmd_reqs (q n : Nat) (s : State) : (stopCmd q n s).spl.reqs = s.spl.reqs := by
  unfold stopCmd stopStreams
  exact each_keeps (f := withdraw) (p := fun s => s.spl.reqs) (fun _ _ => rfl) _ s

theorem endFor_reqs (q n status detail : Nat) (s : State) : (endFor q n status detail s).spl.reqs = s.spl.reqs := by
  unfold endFor
  split <;> exact reqs_finish ..

/-- No request that meets the test is left. -/
theorem endRequests_reqs (p : Req → Bool) (status detail : Nat) (s : State) :
    (endRequests p status detail s).spl.reqs = s.spl.reqs.filter fun r => !p r := by
  unfold endRequests
  refine each_keeps (p := fun s => s.spl.reqs) (fun r t => ?_) _ _
  split
  · exact (endFor_reqs ..).trans (stopCmd_reqs ..)
  · rfl

end Topology

/-- Settles O25: a table that changes leaves the ledger alone, so that the command that changed it ends; no request to the device fenced
is left with an owner. -/
theorem topologyCommands : Obligations.TopologyCommands := by
  refine ⟨?_, ?_, ?_, ?_, ?_, ?_⟩
  · intro s q seq c h hf
    obtain ⟨rfl, rfl⟩ := cmd?_q (ready_cmd h)
    refine ⟨_, exec_buddySet h, ?_⟩
    rw [buddySet_of_notFenced (s := onCmd c.q c.seq ranCmd s) hf]
    exact finish_ends_of_ready 0 0 h (congrArg Ledger.cmds (tableChanged_ldg _)) (.inr rfl)
  · intro s q seq c h hf
    obtain ⟨rfl, rfl⟩ := cmd?_q (ready_cmd h)
    refine ⟨_, exec_buddySet h, ?_⟩
    rw [buddySet_of_fenced (s := onCmd c.q c.seq ranCmd s) hf]
    exact finish_ends_of_ready 8 0 h rfl (.inl (by decide))
  · intro s q seq c b h rs hb hp
    obtain ⟨rfl, rfl⟩ := cmd?_q (ready_cmd h)
    have hno : ((onCmd c.q c.seq ranCmd s).spl.peers.any fun p =>
        p.2.ready && claimLoses (fld c.item 24 4) (fld c.item 28 4) p.2.ringGen p.2.coord) = false := by
      rw [List.any_eq_false]
      intro p hpeer
      cases hr : p.2.ready with
      | false => simp
      | true => simp [hp p hpeer hr]
    refine ⟨_, exec_topologySet _ h, ?_⟩
    rw [topologySet_of_sound hb, hno, if_neg Bool.false_ne_true]
    exact finish_ends_of_ready 0 0 h
      (congrArg Ledger.cmds ((tableChanged_ldg _).trans (leaveFenced_ldg _))) (.inr rfl)
  · intro s q seq c b h rs hb hp
    obtain ⟨rfl, rfl⟩ := cmd?_q (ready_cmd h)
    have hyes : ((onCmd c.q c.seq ranCmd s).spl.peers.any fun p =>
        p.2.ready && claimLoses (fld c.item 24 4) (fld c.item 28 4) p.2.ringGen p.2.coord) = true := by
      rw [List.any_eq_true]
      obtain ⟨p, hpeer, hr, hl⟩ := hp
      exact ⟨p, hpeer, by simp [hr, hl]⟩
    refine ⟨_, exec_topologySet _ h, ?_⟩
    rw [topologySet_of_sound hb, hyes, if_pos rfl]
    exact finish_ends_of_ready 9 0 h rfl (.inl (by decide))
  · intro s q seq c h hm hroute hreqs
    obtain ⟨rfl, rfl⟩ := cmd?_q (ready_cmd h)
    have hraise : raiseFence c (onCmd c.q c.seq ranCmd s) = mark 4 (fld c.item 8 4) c.q c.seq { onCmd c.q c.seq ranCmd s with
        adm.fenceExp := Tab.put s.adm.fenceExp (fld c.item 8 4) (fld c.item 12 4) } :=
      if_neg (by rw [show marked (onCmd c.q c.seq ranCmd s) 4 (fld c.item 8 4) c.q c.seq = false from hm]; exact Bool.false_ne_true)
    have htell : tellFence c (raiseFence c (onCmd c.q c.seq ranCmd s)) = raiseFence c (onCmd c.q c.seq ranCmd s) := by
      rw [hraise]
      exact if_neg (fun hup => Bool.false_ne_true (hroute.symm.trans hup))
    refine ⟨_, exec_fenceRaise h, ?_⟩
    rw [fenceRaise_eq, htell, hraise, endRequests_of_none]
    · exact finish_ends_of_ready 0 0 h rfl (.inr rfl)
    · intro r hr
      simp [hreqs r hr]
  · intro s q seq c h
    obtain ⟨rfl, rfl⟩ := cmd?_q (ready_cmd h)
    refine ⟨_, exec_fenceRaise h, fun r hr hpeer => ?_⟩
    rw [fenceRaise_eq, reqs_finish, endRequests_reqs, List.mem_filter] at hr
    simpa [hpeer] using hr.2

end Sys2Proof.Machine
end

section
/-! SUPPORT. LEDGER_COMPACT (R301, R303, R378): the journal copied to its head, the pages and the header of the mirror, and the end of a
compaction. -/

namespace Sys2Proof.Machine

section Compaction

variable {q seq : Nat} {s t : State} {c : Cmd}

theorem exec_ledgerCompact (h : ready 0x13 q seq (fun _ _ => []) c s) :
    exec (.ledgerCompact q seq) s = .next (compact c (onCmd q seq ranCmd s)) := by
  change Host.Outcome.next (runCmd 0x13 q seq (fun _ _ => []) compact s) = _
  rw [runCmd_ready compact h]

/-! ### The journal -/

/-- A record without its number. -/
def unnumbered (r : Rec) : Rec := { r with lsn := 0 }

/-- A record as it is copied to the head: not in the mirror yet. -/
def copiedRec (r : Rec) : Rec := { r with mirrored := false }

theorem each_appendRec_log (l : List Rec) (s : State) :
    (each l (fun r => appendRec (copiedRec r)) s).ldg.log.map unnumbered =
      s.ldg.log.map unnumbered ++ l.map fun r => unnumbered (copiedRec r) := by
  unfold each
  induction l generalizing s with
  | nil => simp
  | cons a l ih =>
    refine (ih (appendRec (copiedRec a) s)).trans ?_
    rw [appendRec_log, List.map_append, List.map_cons, List.append_assoc]
    rfl

/-- The committed mirror registers applied, and an empty journal. -/
def compacting0 (s : State) : State := { s with
  regs.shadow.applied := s.regs.shadow.mirrorWait.foldl (fun t e => Tab.put t e.1 e.2) s.regs.shadow.applied
  regs.shadow.mirrorWait := []
  ldg.log := [] }

/-- The live records copied to the head. -/
def copied (s : State) : State :=
  each (s.ldg.log.filter fun r => !r.dead) (fun r => appendRec (copiedRec r)) (compacting0 s)

theorem copied_journal (s : State) : onlyJournal (compacting0 s) (copied s) :=
  each_journal _ (fun _ _ => appendRec_journal ..) _ _

theorem copied_log (s : State) : (copied s).ldg.log.map unnumbered =
    (s.ldg.log.filter fun r => !r.dead).map fun r => unnumbered (copiedRec r) := by
  rw [copied, each_appendRec_log]
  rfl

/-! ### The mirror's pages -/

/-- `t` is `s` but for the requests to the host bridge presented and the free values drawn. -/
def onlyPages (s t : State) : Prop :=
  t = { s with time := { s.time with free := t.time.free }, out := { s.out with hb := t.out.hb, nextId := t.out.nextId } }

theorem onlyPages_trans {s t u : State} (h : onlyPages s t) (k : onlyPages t u) : onlyPages s u := by
  unfold onlyPages at *
  rw [h] at k
  rw [k]

theorem base_onlyPages (h : onlyPages s t) : mirrorBase s = mirrorBase t ∧ sh s 0x68 = sh t 0x68 := by
  unfold onlyPages at h
  rw [h]
  exact ⟨rfl, rfl⟩

theorem ldg_onlyPages (h : onlyPages s t) : t.ldg = s.ldg := by
  unfold onlyPages at h
  rw [h]

theorem regs_onlyPages (h : onlyPages s t) : t.regs = s.regs := by
  unfold onlyPages at h
  rw [h]

theorem shadow_onlyJournal (h : onlyJournal s t) : t.regs.shadow = s.regs.shadow := by
  unfold onlyJournal at h
  rw [h]

theorem writePage_onlyPages (c : Cmd) (i : Nat) (s : State) : onlyPages s (writePage c i s) := rfl

theorem writePages_onlyPages (c : Cmd) (l : List Nat) (s : State) : onlyPages s (each l (writePage c) s) := by
  unfold each
  induction l generalizing s with
  | nil => rfl
  | cons a l ih => exact onlyPages_trans (writePage_onlyPages c a s) (ih _)

theorem toLE_length (k n : Nat) : (toLE k n).length = k := by
  induction k generalizing n with
  | zero => rfl
  | succ k ih => rw [toLE, List.length_cons, ih]

theorem flatMap_toLE_length (k n : Nat) (f : Nat → Nat) : ((List.range n).flatMap fun i => toLE k (f i)).length = n * k := by
  induction n with
  | zero => simp
  | succ n ih =>
    rw [List.range_succ, List.flatMap_append, List.length_append, ih, List.flatMap_singleton, toLE_length, Nat.succ_mul]

theorem tablePage_length (s : State) : (tablePage s).1.length = 4096 := by
  rw [tablePage]
  dsimp only
  rw [flatMap_toLE_length]

/-- The request that writes page `i`. -/
def pageReq (c : Cmd) (i : Nat) (s : State) : HbReq :=
  { id := s.out.nextId, kind := .image c.q c.seq, write := true, addr := mirrorBase s + 0x1000 + 4096 * i, tdid := sh s 0x68
    len := (tablePage s).1.length, data := (tablePage s).1, cls := 1, chan := 0, ctx := none }

theorem writePage_hb (c : Cmd) (i : Nat) (s : State) : (writePage c i s).out.hb = s.out.hb ++ [pageReq c i s] := by
  have hdrawn : (tablePage s).2 = { s with time.free := s.time.free + 512 } := rfl
  unfold writePage pageReq
  dsimp only
  rw [hbWrite_out, hdrawn]

/-- Where page `i` goes and how long it is. -/
def isPage (c : Cmd) (i : Nat) (s : State) (r : HbReq) : Prop :=
  r.kind = .image c.q c.seq ∧ r.write = true ∧ r.addr = mirrorBase s + 0x1000 + 4096 * i ∧ r.tdid = sh s 0x68 ∧
    r.data.length = 4096

theorem pageReq_isPage (c : Cmd) (i : Nat) (s : State) : isPage c i s (pageReq c i s) := by
  have hlen := tablePage_length s
  unfold isPage pageReq
  generalize (tablePage s).1 = b at hlen
  exact ⟨rfl, rfl, rfl, rfl, hlen⟩

theorem writePages_page (c : Cmd) (l : List Nat) (s : State) :
    (∀ r ∈ s.out.hb, r ∈ (each l (writePage c) s).out.hb) ∧
      ∀ i ∈ l, ∃ r ∈ (each l (writePage c) s).out.hb, isPage c i s r := by
  unfold each
  induction l generalizing s with
  | nil => exact ⟨fun r hr => hr, nofun⟩
  | cons a l ih =>
    obtain ⟨hkeep, hpages⟩ := ih (writePage c a s)
    rw [writePage_hb] at hkeep
    refine ⟨fun r hr => hkeep r (List.mem_append_left _ hr), fun i hi => ?_⟩
    rcases List.mem_cons.1 hi with rfl | hi
    · exact ⟨pageReq c i s, hkeep _ (List.mem_append_right _ List.mem_cons_self), pageReq_isPage c i s⟩
    · exact hpages i hi

/-- The pages of the mirror written. -/
def paged (c : Cmd) (s : State) : State := each (List.range 656) (writePage c) (copied s)

/-- The header's write, presented. -/
def withHeader (c : Cmd) (s : State) : State :=
  hbWrite (.image c.q c.seq) (mirrorBase s) (sh s 0x68) (mirrorHeader s) s

/-- The header written behind the pages. -/
def headed (c : Cmd) (s : State) : State := withHeader c (paged c s)

/-- A command that waits for the requests numbered below `n`. -/
def awaiting (n : Nat) (x : Cmd) : Cmd := { x with items := [(n, 0)] }

theorem compact_eq (c : Cmd) (s : State) :
    compact c s = onCmd c.q c.seq (awaiting (headed c s).out.nextId) (headed c s) := by
  unfold compact headed withHeader paged copied compacting0 copiedRec awaiting
  rfl

theorem paged_page (c : Cmd) (s : State) (i : Nat) (hi : i < 656) : ∃ r ∈ (paged c s).out.hb, isPage c i (copied s) r := by
  unfold paged
  exact (writePages_page c (List.range 656) (copied s)).2 i (List.mem_range.2 hi)

theorem paged_onlyPages (c : Cmd) (s : State) : onlyPages (copied s) (paged c s) := by
  unfold paged
  exact writePages_onlyPages c (List.range 656) (copied s)

/-! ### The end of a compaction -/

theorem settleCompact_eq (s : State) : settleCompact s = each (s.ldg.cmds.filter fun c =>
    itemOp c.item == 0x13 && c.st == .started && c.ran && !(s.out.hb.any (compacting c))) (fun c => finish c.q c.seq 0 0) s := rfl

/-- Ending a command once more, for every command of a list that has its name, changes nothing. -/
theorem each_finish_of_durable {q n status detail : Nat} {x : Cmd} (l : List Cmd) (hl : ∀ d ∈ l, d.q = q ∧ d.seq = n)
    (hx : cmd? s q n = some x) (hd : x.st = .durable) : each l (fun c => finish c.q c.seq status detail) s = s := by
  unfold each
  induction l with
  | nil => rfl
  | cons a l ih =>
    obtain ⟨hq, hn⟩ := hl a List.mem_cons_self
    have hstay : finish a.q a.seq status detail s = s := by rw [hq, hn, finish_durable status detail hx hd]
    rw [List.foldl_cons]
    dsimp only
    rw [hstay]
    exact ih fun d hd => hl d (List.mem_cons_of_mem _ hd)

theorem cmd?_of_mem (hc : c ∈ s.ldg.cmds) (huniq : ∀ d ∈ s.ldg.cmds, d.q = c.q → d.seq = c.seq → d = c) :
    cmd? s c.q c.seq = some c := by
  obtain ⟨d, hd⟩ := Option.isSome_iff_exists.1 (List.find?_isSome.2 ⟨c, hc, by simp⟩ : (cmd? s c.q c.seq).isSome)
  obtain ⟨hq, hn⟩ := cmd?_q hd
  exact hd.trans (congrArg some (huniq d (List.mem_of_find?_eq_some hd) hq hn))

/-- The commands whose compaction is done. -/
def doneCompacts (s : State) : List Cmd := s.ldg.cmds.filter fun c =>
  itemOp c.item == 0x13 && c.st == .started && c.ran && !(s.out.hb.any (compacting c))

theorem mem_doneCompacts (s : State) (d : Cmd) : d ∈ doneCompacts s ↔
    d ∈ s.ldg.cmds ∧ itemOp d.item = 0x13 ∧ d.st = .started ∧ d.ran = true ∧ s.out.hb.any (compacting d) = false := by
  simp [doneCompacts, and_assoc]

/-- A compaction whose writes have all ended ends, once. -/
theorem settleCompact_ends (hc : c ∈ s.ldg.cmds) (hop : itemOp c.item = 0x13) (hst : c.st = .started) (hran : c.ran = true)
    (huniq : ∀ d ∈ s.ldg.cmds, (itemOp d.item = 0x13 → d.q = c.q ∧ d.seq = c.seq) ∧ (d.q = c.q → d.seq = c.seq → d = c))
    (hdone : ∀ r ∈ s.out.hb, compacting c r = false) : ends c.q c.seq 0 0 s (settleCompact s) := by
  have hcmd : cmd? s c.q c.seq = some c := cmd?_of_mem hc fun d hd => (huniq d hd).2
  have hend := finish_ends 0 0 hcmd (by simp [hst]) (.inr (.inl rfl))
  have hafter := ends_cmd hend hcmd
  have hname : ∀ d ∈ doneCompacts s, d.q = c.q ∧ d.seq = c.seq := fun d hd =>
    ((huniq d ((mem_doneCompacts s d).1 hd).1).1 ((mem_doneCompacts s d).1 hd).2.1)
  have hmem : c ∈ doneCompacts s := (mem_doneCompacts s c).2 ⟨hc, hop, hst, hran, by simpa using hdone⟩
  rw [settleCompact_eq, ← doneCompacts]
  cases hl : doneCompacts s with
  | nil => simp [hl] at hmem
  | cons a l =>
    rw [hl] at hname
    obtain ⟨hq, hn⟩ := hname a List.mem_cons_self
    have hrest := each_finish_of_durable (status := 0) (detail := 0) l
      (fun d hd => hname d (List.mem_cons_of_mem _ hd)) hafter rfl
    unfold each at hrest ⊢
    rw [List.foldl_cons]
    dsimp only at hrest ⊢
    rw [hq, hn, hrest]
    exact hend

/-- A compaction with a write outstanding goes on. -/
theorem settleCompact_of_outstanding {r : HbReq} (hr : r ∈ s.out.hb) (hcr : compacting c r = true)
    (huniq : ∀ d ∈ s.ldg.cmds, itemOp d.item = 0x13 → d = c) : settleCompact s = s := by
  have hnone : doneCompacts s = [] := by
    rw [List.eq_nil_iff_forall_not_mem]
    intro d hd
    obtain ⟨hmem, hop, -, -, hany⟩ := (mem_doneCompacts s d).1 hd
    rw [huniq d hmem hop, List.any_eq_false] at hany
    exact hany r hr hcr
  rw [settleCompact_eq, ← doneCompacts, hnone, each_nil]

theorem withHeader_cmd? (c : Cmd) (s : State) (q n : Nat) : cmd? (withHeader c s) q n = cmd? s q n := rfl

theorem withHeader_header (c : Cmd) (s : State) (n : Nat) : ∃ r ∈ (withHeader c s).out.hb,
    r.kind = .image c.q c.seq ∧ r.write = true ∧ r.addr = mirrorBase (onCmd c.q c.seq (awaiting n) (withHeader c s)) ∧
      r.data = mirrorHeader (onCmd c.q c.seq (awaiting n) (withHeader c s)) :=
  ⟨_, List.mem_append_right _ List.mem_cons_self, rfl, rfl, rfl, rfl⟩

/-- `t` has the registers changed over and the live records of `s` in order, the pages and the header of the mirror are under way, and
the command waits for them. -/
def compacted (q seq : Nat) (s t : State) : Prop :=
  t.regs.shadow.mirrorWait = [] ∧
    t.regs.shadow.applied = s.regs.shadow.mirrorWait.foldl (fun a e => Tab.put a e.1 e.2) s.regs.shadow.applied ∧
    t.regs.shadow.castle = s.regs.shadow.castle ∧ t.regs.shadow.staged = s.regs.shadow.staged ∧
    t.ldg.log.map (fun r => { r with lsn := 0 }) =
      (s.ldg.log.filter fun r => !r.dead).map (fun r => { r with lsn := 0, mirrored := false }) ∧
    (∀ i, i < 656 → ∃ r ∈ t.out.hb, r.kind = .image q seq ∧ r.write = true ∧ r.addr = mirrorBase t + 0x1000 + 4096 * i ∧
      r.tdid = sh t 0x68 ∧ r.data.length = 4096) ∧
    (∃ r ∈ t.out.hb, r.kind = .image q seq ∧ r.write = true ∧ r.addr = mirrorBase t ∧ r.data = mirrorHeader t) ∧
    (cmd? t q seq).map (fun x => (x.st, x.ran)) = some (.started, true)

/-- What a compaction leaves, given its journal and its pages. -/
theorem compacted_of_pages {k p : State} (n : Nat) (hst : c.st = .started) (hcmd : cmd? p c.q c.seq = some (ranCmd c))
    (hshadow : p.regs.shadow = (compacting0 s).regs.shadow)
    (hlog : p.ldg.log.map unnumbered = (s.ldg.log.filter fun r => !r.dead).map fun r => unnumbered (copiedRec r))
    (hbase : mirrorBase k = mirrorBase p ∧ sh k 0x68 = sh p 0x68)
    (hpages : ∀ i, i < 656 → ∃ r ∈ p.out.hb, isPage c i k r) :
    compacted c.q c.seq s (onCmd c.q c.seq (awaiting n) (withHeader c p)) := by
  have hcastle : p.regs.shadow.castle = s.regs.shadow.castle := by rw [hshadow]; rfl
  have hstaged : p.regs.shadow.staged = s.regs.shadow.staged := by rw [hshadow]; rfl
  refine ⟨congrArg Shadow.mirrorWait hshadow, congrArg Shadow.applied hshadow, hcastle, hstaged, hlog, ?_, ?_, ?_⟩
  · intro i hi
    obtain ⟨r, hr, hk, hw, ha, ht, hlen⟩ := hpages i hi
    rw [hbase.1] at ha
    exact ⟨r, List.mem_append_left _ hr, hk, hw, ha, ht.trans hbase.2, hlen⟩
  · exact withHeader_header c p n
  · rw [cmd?_onCmd (awaiting n) (fun _ => ⟨rfl, rfl⟩) ((withHeader_cmd? c p c.q c.seq).trans hcmd)]
    simp [awaiting, ranCmd, hst]

theorem compact_compacted (h : ready 0x13 q seq (fun _ _ => []) c s) :
    compacted q seq s (compact c (onCmd q seq ranCmd s)) := by
  obtain ⟨rfl, rfl⟩ := cmd?_q (ready_cmd h)
  have hj := copied_journal (onCmd c.q c.seq ranCmd s)
  have hp := paged_onlyPages c (onCmd c.q c.seq ranCmd s)
  have hldg := ldg_onlyPages hp
  have hcmds := (congrArg Ledger.cmds hldg).trans (cmds_onlyJournal hj)
  rw [compact_eq]
  refine compacted_of_pages _ (due_spec h.1).2.2.1 ((cmd?_of_cmds hcmds c.q c.seq).trans (ready_ran h)) ?_ ?_
    (base_onlyPages hp) (paged_page c (onCmd c.q c.seq ranCmd s))
  · have hshadow := shadow_onlyJournal hj
    exact (congrArg Regs.shadow (regs_onlyPages hp)).trans hshadow
  · rw [hldg, copied_log]
    rfl

end Compaction

end Sys2Proof.Machine
end

section
/-! SUPPORT. REPLAY (R62, R250, R306, R307): the queues come back, the commands run again, the streams stop, and the listed ports start. -/

namespace Sys2Proof.Machine

section Replay

variable {q : Nat} {s t u : State} {x y : Queue}

/-! ### What the rewriting of completions leaves alone -/

/-- What of a queue the rewriting of its completions leaves alone. -/
def queueCore (x : Queue) : Bytes × QState × Nat × QState × Option (Nat × Nat) × List Item :=
  (x.desc, x.before, x.acc, x.state, x.flushBy, x.fetched)

/-- `t` has the ledger, the epochs, the keys' records, the staged patch of `s`, and its queues but for their completions. -/
def onlyCompletions (s t : State) : Prop :=
  t.ldg = s.ldg ∧ t.cap.epochs = s.cap.epochs ∧ t.adm.keyRec = s.adm.keyRec ∧ t.adm.stagedPatch = s.adm.stagedPatch ∧
    ∀ q, (queue? t q).map queueCore = (queue? s q).map queueCore

theorem onlyCompletions_refl (s : State) : onlyCompletions s s := ⟨rfl, rfl, rfl, rfl, fun _ => rfl⟩

theorem onlyCompletions_trans (h : onlyCompletions s t) (k : onlyCompletions t u) : onlyCompletions s u := by
  obtain ⟨hl, he, hk, hp, hq⟩ := h
  obtain ⟨kl, ke, kk, kp, kq⟩ := k
  exact ⟨kl.trans hl, ke.trans he, kk.trans hk, kp.trans hp, fun q => (kq q).trans (hq q)⟩

theorem queues_onlyEvents (h : onlyEvents s t) : t.ring.queues = s.ring.queues := by
  unfold onlyEvents at h
  rw [h]

theorem onlyCompletions_of_events (h : onlyEvents s t) : onlyCompletions s t := by
  have hq := queues_onlyEvents h
  unfold onlyEvents at h
  exact ⟨by rw [h], by rw [h], by rw [h], by rw [h], fun q => by rw [queue?, hq, queue?]⟩

theorem onQ_onlyCompletions {f : Queue → Queue} (q : Nat) (hf : ∀ x, queueCore (f x) = queueCore x) (s : State) :
    onlyCompletions s (onQ q f s) := by
  refine ⟨rfl, rfl, rfl, rfl, fun p => ?_⟩
  change (Tab.get? (Tab.upd s.ring.queues q f) p).map queueCore = _
  rw [Tab.get?_upd]
  split
  · rw [Option.map_map]
    exact congrArg (fun g => (queue? s p).map g) (funext hf)
  · rfl

theorem useRecord_onlyCompletions (d : Nat) (s : State) : onlyCompletions s (useRecord d s) := by
  unfold useRecord
  split
  · exact onlyCompletions_refl s
  · split
    · exact onlyCompletions_refl s
    · dsimp only
      split <;> exact ⟨rfl, rfl, rfl, rfl, fun _ => rfl⟩

theorem sendOn_onlyCompletions (p : Nat) (m : Msg) (s : State) : onlyCompletions s (sendOn p m s) := by
  unfold sendOn
  split <;> exact ⟨rfl, rfl, rfl, rfl, fun _ => rfl⟩

theorem send_onlyCompletions (m : Msg) (s : State) : onlyCompletions s (send m s) := by
  unfold send
  dsimp only
  split
  · exact useRecord_onlyCompletions ..
  · split
    · exact onlyCompletions_trans (useRecord_onlyCompletions ..) (sendOn_onlyCompletions ..)
    · exact useRecord_onlyCompletions ..

theorem writeSeqWord_events (q seq : Nat) (s : State) : onlyEvents s (writeSeqWord q seq s) := by
  unfold writeSeqWord
  split
  · rfl
  · split
    · rfl
    · exact hbWrite_events ..

theorem issueCompletion_onlyCompletions (q : Nat) (o : CqOut) (s : State) : onlyCompletions s (issueCompletion q o s) := by
  unfold issueCompletion
  split
  · exact onlyCompletions_refl s
  · next x _ =>
    dsimp only
    have hout : ∀ f : Queue → Queue, (∀ y, queueCore (f y) = queueCore y) → onlyCompletions s (onQ q f
        (hbWrite (.cq q o.pos) (fld x.desc 8 8 + 16 * (o.pos % cqSize x.desc)) (qTdid x.desc) o.bytes s)) := fun f hf =>
      onlyCompletions_trans (onlyCompletions_of_events (hbWrite_events ..)) (onQ_onlyCompletions q hf _)
    split
    · refine onlyCompletions_trans (hout _ ?_) (send_onlyCompletions ..)
      exact fun _ => rfl
    · split
      · refine onlyCompletions_trans (hout _ ?_) (onlyCompletions_of_events
          (onlyEvents_trans (writeSeqWord_events ..) (raise_events ..)))
        exact fun _ => rfl
      · split
        · refine onlyCompletions_trans (hout _ ?_) (onlyCompletions_of_events
            (onlyEvents_trans (writeSeqWord_events ..) (msix_events ..)))
          exact fun _ => rfl
        · refine onlyCompletions_trans (hout _ ?_) (onlyCompletions_of_events (writeSeqWord_events ..))
          exact fun _ => rfl

theorem each_onlyCompletions {α : Type} {f : α → State → State} (h : ∀ a s, onlyCompletions s (f a s)) (l : List α) (s : State) :
    onlyCompletions s (each l f s) := by
  unfold each
  induction l generalizing s with
  | nil => exact onlyCompletions_refl s
  | cons a l ih => exact onlyCompletions_trans (h a s) (ih (f a s))

/-! ### The queues -/

/-- What a queue that comes back keeps: its descriptor and its head, and the state that a flush began from. -/
def turned (x : Queue) : Bytes × QState × Nat × QState :=
  (x.desc, x.before, x.acc, if x.state = .flushing then x.before else x.state)

/-- A queue that has come back: no flush is under way, and nothing read is held. -/
def calm (x : Queue) : Prop := x.flushBy = none ∧ x.fetched = [] ∧ (x.state = .flushing → x.before = .flushing)

theorem turned_of_core (h : queueCore x = queueCore y) : turned x = turned y := by
  simp only [queueCore, Prod.mk.injEq] at h
  obtain ⟨hd, hb, ha, hs, -, -⟩ := h
  simp only [turned, hd, hb, ha, hs]

theorem calm_of_core (h : queueCore x = queueCore y) (hy : calm y) : calm x := by
  simp only [queueCore, Prod.mk.injEq] at h
  obtain ⟨-, hb, -, hs, hf, hi⟩ := h
  unfold calm
  rw [hb, hs, hf, hi]
  exact hy

/-- A queue as it comes back, but for the completions that are written again. -/
def cameBack (cold : Bool) (s : State) (q : Nat) (x : Queue) : Queue := { takeBack s q x with
  state := if (takeBack s q x).state = .flushing then (takeBack s q x).before else (takeBack s q x).state
  flushBy := none
  fetched := []
  cqOut := []
  redo := if cold then [] else (takeBack s q x).redo
  shadowDue := true }

theorem replayQueue_of_some (cold : Bool) (hx : queue? s q = some x) : replayQueue cold q s =
    each (rewrites s cold q x) (issueCompletion q) (onQ q (fun _ => cameBack cold s q x) s) := by
  simp only [replayQueue, hx]
  rfl

theorem replayQueue_of_none (cold : Bool) (hx : queue? s q = none) : replayQueue cold q s = s := by
  simp only [replayQueue, hx]

theorem takeBack_core (s : State) (q : Nat) (x : Queue) : queueCore (takeBack s q x) = queueCore x := by
  unfold takeBack
  split <;> rfl

theorem cameBack_turned (cold : Bool) (s : State) (q : Nat) (x : Queue) : turned (cameBack cold s q x) = turned x := by
  rw [← turned_of_core (takeBack_core s q x)]
  simp only [turned, cameBack]
  split <;> simp_all

theorem cameBack_calm (cold : Bool) (s : State) (q : Nat) (x : Queue) : calm (cameBack cold s q x) := by
  refine ⟨rfl, rfl, ?_⟩
  simp only [cameBack]
  split
  · exact id
  · exact fun h => absurd h ‹_›

/-- `t` has the ledger, the epochs, the keys' records and the staged patch of `s`; its queues are those of `s` come back or as they
were. -/
def onlyReplays (s t : State) : Prop :=
  t.ldg = s.ldg ∧ t.cap.epochs = s.cap.epochs ∧ t.adm.keyRec = s.adm.keyRec ∧ t.adm.stagedPatch = s.adm.stagedPatch ∧
    ∀ q, (queue? t q).map turned = (queue? s q).map turned

theorem onlyReplays_of_completions (h : onlyCompletions s t) : onlyReplays s t := by
  obtain ⟨hl, he, hk, hp, hq⟩ := h
  refine ⟨hl, he, hk, hp, fun q => ?_⟩
  have hcore := hq q
  cases hs : queue? s q with
  | none =>
    rw [hs, Option.map_none, Option.map_eq_none_iff] at hcore
    rw [hcore]
  | some x =>
    rw [hs, Option.map_some] at hcore
    obtain ⟨y, hy, hyx⟩ := Option.map_eq_some_iff.1 hcore
    rw [hy, Option.map_some, Option.map_some, turned_of_core hyx]

theorem onlyReplays_trans (h : onlyReplays s t) (k : onlyReplays t u) : onlyReplays s u := by
  obtain ⟨hl, he, hk, hp, hq⟩ := h
  obtain ⟨kl, ke, kk, kp, kq⟩ := k
  exact ⟨kl.trans hl, ke.trans he, kk.trans hk, kp.trans hp, fun q => (kq q).trans (hq q)⟩

theorem queue?_onQ (f : Queue → Queue) (q p : Nat) (s : State) :
    queue? (onQ q f s) p = if p = q then (queue? s p).map f else queue? s p := Tab.get?_upd ..

/-- The queues of `s` that are calm. -/
def calmAt (s : State) (q : Nat) : Prop := ∀ y, queue? s q = some y → calm y

theorem calmAt_of_completions {q : Nat} (h : onlyCompletions s t) (hs : calmAt s q) : calmAt t q := by
  intro y hy
  have hcore := h.2.2.2.2 q
  rw [hy, Option.map_some, eq_comm] at hcore
  obtain ⟨x, hx, hxy⟩ := Option.map_eq_some_iff.1 hcore
  exact calm_of_core hxy.symm (hs x hx)

theorem replayQueue_onlyReplays (cold : Bool) (q : Nat) (s : State) : onlyReplays s (replayQueue cold q s) := by
  cases hx : queue? s q with
  | none =>
    rw [replayQueue_of_none cold hx]
    exact onlyReplays_of_completions (onlyCompletions_refl s)
  | some x =>
    rw [replayQueue_of_some cold hx]
    refine onlyReplays_trans (t := onQ q (fun _ => cameBack cold s q x) s) ⟨rfl, rfl, rfl, rfl, fun p => ?_⟩
      (onlyReplays_of_completions (each_onlyCompletions (issueCompletion_onlyCompletions q) _ _))
    rw [queue?_onQ]
    split
    · next hp =>
      rw [hp, hx, Option.map_some, Option.map_some, Option.map_some, cameBack_turned]
    · rfl

/-- A queue is calm once it has come back, and stays so. -/
theorem replayQueue_calmAt (cold : Bool) {p : Nat} (q : Nat) (h : p = q ∨ calmAt s p) : calmAt (replayQueue cold q s) p := by
  cases hx : queue? s q with
  | none =>
    rw [replayQueue_of_none cold hx]
    rcases h with rfl | h
    · intro y hy
      rw [hx] at hy
      cases hy
    · exact h
  | some x =>
    rw [replayQueue_of_some cold hx]
    refine calmAt_of_completions (each_onlyCompletions (issueCompletion_onlyCompletions q) _ _) fun y hy => ?_
    rw [queue?_onQ] at hy
    split at hy
    · next hp =>
      rw [hp, hx] at hy
      cases hy
      exact cameBack_calm cold s q x
    · next hp => exact h.resolve_left hp y hy

/-- Every queue of the table comes back. -/
def replayQueues (cold : Bool) (s : State) : State := each (s.ring.queues.map (·.1)) (replayQueue cold) s

theorem each_replayQueue (cold : Bool) (l : List Nat) (s : State) : onlyReplays s (each l (replayQueue cold) s) ∧
    ∀ q, (q ∈ l ∨ calmAt s q) → calmAt (each l (replayQueue cold) s) q := by
  unfold each
  induction l generalizing s with
  | nil =>
    refine ⟨onlyReplays_of_completions (onlyCompletions_refl s), fun q h => ?_⟩
    rcases h with h | h
    · cases h
    · exact h
  | cons a l ih =>
    obtain ⟨honly, hcalm⟩ := ih (replayQueue cold a s)
    refine ⟨onlyReplays_trans (replayQueue_onlyReplays cold a s) honly, fun q h => hcalm q ?_⟩
    rcases h with h | h
    · rcases List.mem_cons.1 h with rfl | h
      · exact .inr (replayQueue_calmAt cold q (.inl rfl))
      · exact .inl h
    · exact .inr (replayQueue_calmAt cold a (.inr h))

theorem replayQueues_calmAt (cold : Bool) (q : Nat) (s : State) : calmAt (replayQueues cold s) q := by
  refine (each_replayQueue cold _ s).2 q ?_
  cases hx : queue? s q with
  | none => exact .inr fun y hy => by rw [hx] at hy; cases hy
  | some x => exact .inl (List.mem_map.2 ⟨(q, x), Tab.mem_of_get?_eq_some hx, rfl⟩)

/-! ### Before the queues: the mirror's journal, or the records that it lacks -/

/-- The state that the queues come back in. -/
def replayFrom (cold : Bool) (s : State) : State :=
  if cold then fromMirror s else each (s.ldg.log.filter fun r => !r.mirrored) mirrorRec (scanLedger s)

theorem corrupted_of_clean {store : Nat} (p : Nat → Bool) (h : storeClean store s) : corrupted s store p = [] := by
  rw [corrupted, List.filter_eq_nil_iff]
  intro x hx
  simp [show ¬ x.1 / 4294967296 = store from h.2 x hx]

theorem scanLedger_of_clean (h3 : storeClean 3 s) (h4 : storeClean 4 s) : scanLedger s = s := by
  unfold scanLedger
  dsimp only
  rw [corrupted_of_clean _ h3, corrupted_of_clean _ h4]
  rfl

theorem mirrorRec_onlySends (r : Rec) (s : State) : onlySends s (mirrorRec r s) := hbReq_onlySends ..

theorem replayFrom_warm (h3 : storeClean 3 s) (h4 : storeClean 4 s) : onlySends s (replayFrom false s) := by
  rw [replayFrom, if_neg Bool.false_ne_true, scanLedger_of_clean h3 h4]
  exact each_onlySends (fun _ _ => mirrorRec_onlySends ..) _ _

/-! ### The streams stop -/

theorem each_withdraw (l : List Nat) (s : State) :
    ∃ hb fab, each l withdraw s = { s with out := { s.out with hb := hb, fab := fab } } := by
  unfold each
  induction l generalizing s with
  | nil => exact ⟨s.out.hb, s.out.fab, rfl⟩
  | cons a l ih =>
    obtain ⟨hb, fab, h⟩ := ih (withdraw a s)
    exact ⟨hb, fab, h⟩

/-- Stopping streams changes the streams and withdraws requests. -/
theorem stopStreams_frame (p : Ctx → Bool) (s : State) : stopStreams p s = { s with
    str := (stopStreams p s).str, out := { s.out with hb := (stopStreams p s).out.hb, fab := (stopStreams p s).out.fab } } := by
  unfold stopStreams
  dsimp only
  obtain ⟨hb, fab, h⟩ := each_withdraw ((s.str.ctxs.filter fun c => p c.2 && c.2.state != 5).map (·.1)) s
  rw [h]

/-- When all streams stop, the contexts that remain are STOPPING. -/
theorem stopStreams_all (s : State) : ∀ k ∈ (stopStreams (fun _ => true) s).str.ctxs, k.2.state = 5 := by
  intro k hk
  unfold stopStreams at hk
  dsimp only at hk
  obtain ⟨hb, fab, h⟩ := each_withdraw ((s.str.ctxs.filter fun c => true && c.2.state != 5).map (·.1)) s
  rw [h] at hk
  obtain ⟨c, hc, rfl⟩ := List.mem_map.1 hk
  have hmem := (List.mem_filter.1 hc).1
  split
  · rfl
  · next hgone =>
    by_contra hne
    exact hgone (List.contains_iff_mem.2 (List.mem_map.2 ⟨c, List.mem_filter.2 ⟨hmem, by simp [hne]⟩, rfl⟩))

/-! ### Epochs and commands -/

theorem resolveEpoch_of_resolved (headers : Tab Bytes) (e : Nat) (h : ∀ k ∈ s.cap.epochs, unresolved k.2 = false) :
    resolveEpoch headers e s = s := by
  unfold resolveEpoch
  split
  · rfl
  · next x hx =>
    have hx' := h (e, x) (Tab.mem_of_get?_eq_some hx)
    rw [if_pos (by rw [hx']; rfl)]

theorem each_resolveEpoch (headers : Tab Bytes) (l : List Nat) (h : ∀ k ∈ s.cap.epochs, unresolved k.2 = false) :
    each l (resolveEpoch headers) s = s := by
  unfold each
  induction l with
  | nil => rfl
  | cons a l ih =>
    rw [List.foldl_cons, resolveEpoch_of_resolved headers a h]
    exact ih

theorem dropStaged_of_none (h : s.adm.stagedPatch = none) : dropStaged s = s := by
  simp only [dropStaged, h]

/-- With no key recorded none is missing (R210). -/
theorem keyMissing_of_noRecord (n : Nat) (h : s.adm.keyRec = []) : keyMissing s n = false := by
  simp [keyMissing, h]

theorem holdForKeys_runAgain (cold : Bool) (c : Cmd) (h : cold = true → s.adm.keyRec = []) :
    holdForKeys s (runAgain cold c) = runAgain cold c := by
  unfold holdForKeys
  refine if_neg fun hn => ?_
  obtain ⟨hst, hturn⟩ := hn
  have hkeys : keyTurn s (runAgain cold c) = true := by
    cases cold with
    | true =>
      have hnone : (slotsNeeded s (runAgain true c)).any (keyMissing s) = false := by
        rw [List.any_eq_false]
        exact fun n _ => by rw [keyMissing_of_noRecord n (h rfl)]; exact Bool.false_ne_true
      rw [keyTurn, hnone, Bool.not_false, Bool.or_true]
    | false =>
      have hwait : c.st ≠ .durable → (runAgain false c).keyWait = false := by
        intro hd
        unfold runAgain
        rw [if_neg hd]
        split <;> rfl
      have hlive : c.st ≠ .durable := by
        intro hd
        rw [runAgain, if_pos hd, hd] at hst
        cases hst
      rw [keyTurn, hwait hlive]
      rfl
  rw [hkeys] at hturn
  exact absurd hturn (by decide)

/-! ### The ports -/

/-- `t` is `s` but for its links, and events. -/
def onlyLinks (s t : State) : Prop := t = { s with
  spl := t.spl, ring := { s.ring with ev := t.ring.ev }
  out := { s.out with hb := t.out.hb, nextId := t.out.nextId, msix := t.out.msix }
  dbg := { s.dbg with hits := t.dbg.hits } }

theorem onlyLinks_refl (s : State) : onlyLinks s s := rfl

theorem onlyLinks_trans (h : onlyLinks s t) (k : onlyLinks t u) : onlyLinks s u := by
  unfold onlyLinks at *
  rw [h] at k
  rw [k]

theorem onlyLinks_of_events (h : onlyEvents s t) : onlyLinks s t := by
  unfold onlyEvents at h
  unfold onlyLinks
  rw [h]

theorem dropPeers_onlyLinks (s : State) : onlyLinks s (dropPeers s) := rfl

theorem onPort_onlyLinks (p : Nat) (f : Port → Port) (s : State) : onlyLinks s (onPort p f s) := rfl

theorem raise0_onlyLinks (e sev d : Nat) (s : State) : onlyLinks s (raise0 e sev d s) :=
  onlyLinks_of_events (raise0_events ..)

theorem linkDown_onlyLinks (p cause state : Nat) (s : State) : onlyLinks s (linkDown p cause state s) := by
  unfold linkDown
  split
  · rfl
  · have hdown : ∀ f, onlyLinks s (dropPeers (onPort p f s)) := fun f =>
      onlyLinks_trans (onPort_onlyLinks p f s) (dropPeers_onlyLinks _)
    split
    · exact onlyLinks_trans (hdown _) (raise0_onlyLinks ..)
    · exact hdown _

theorem listPort_onlyLinks (p : Nat) (s : State) : onlyLinks s (listPort p s) := by
  unfold listPort
  dsimp only
  split
  · split
    · rfl
    · exact linkDown_onlyLinks ..
  · split
    · rfl
    · split
      · rfl
      · split
        · exact onlyLinks_trans (linkDown_onlyLinks p 3 0 s) rfl
        · rfl

theorem each_onlyLinks {α : Type} {f : α → State → State} (h : ∀ a s, onlyLinks s (f a s)) (l : List α) (s : State) :
    onlyLinks s (each l f s) := by
  unfold each
  induction l generalizing s with
  | nil => rfl
  | cons a l ih => exact onlyLinks_trans (h a s) (ih (f a s))

/-! ### REPLAY as a whole -/

/-- The commands run again, and their streams stop. -/
def stopForReplay (cold : Bool) (s : State) : State :=
  stopStreams (fun _ => true) { s with ldg.cmds := s.ldg.cmds.map (runAgain cold) }

/-- No replay is due, and no command whose keys are missing starts. -/
def replaySettled (s : State) : State :=
  { s with
    ldg.cmds := s.ldg.cmds.map (holdForKeys s)
    ldg.replayDue := 0
    regs.qctl.flush := s.regs.qctl.flush && s.ldg.cmds.any (·.admin) }

/-- The state after a replay of queues and commands, before its report. -/
def replayed (headers : Tab Bytes) (cold : Bool) (s : State) : State :=
  let t := stopForReplay cold (replayQueues cold (replayFrom cold s))
  replaySettled (dropStaged (each (t.cap.epochs.map (·.1)) (resolveEpoch headers) t))

/-- The completions that a replay writes again. -/
def rewritten (cold : Bool) (s : State) : Nat := s.ring.queues.foldl (fun n e => n + (rewrites s cold e.1 e.2).length) 0

/-- The end of a replay: generations go free, REPLAY_DONE reports it, and the listed ports start. -/
def replayReported (cold : Bool) (n : Nat) (s : State) : State :=
  each [0, 1, 2, 3] listPort (raise0 0x0A05 0
    (b2n cold + 2 ^ 8 * ((s.ldg.cmds.filter fun c => c.st != .durable).length % 2 ^ 24) + 2 ^ 32 * n) (freeGens s))

theorem replay_of_due (headers : Tab Bytes) (hr : s.regs.qctl.ready = true) (hd : s.ldg.replayDue ≠ 0) :
    replay headers s = replayReported (s.ldg.replayDue == 2) (rewritten (s.ldg.replayDue == 2) (replayFrom (s.ldg.replayDue == 2) s))
      (replayed headers (s.ldg.replayDue == 2) s) := by
  unfold replay
  rw [if_neg (by rw [hr]; simpa using hd)]
  rfl

theorem replay_of_notDue (headers : Tab Bytes) (h : s.regs.qctl.ready = false ∨ s.ldg.replayDue = 0) : replay headers s = s := by
  unfold replay
  rw [if_pos (h.imp (fun hr => by rw [hr]; rfl) id)]

theorem exec_replay (headers : Tab Bytes) (h : runs s = true) : exec (.replay headers) s = .next (replay headers s) :=
  congrArg Host.Outcome.next (if_pos h)

theorem replayReported_frame (cold : Bool) (n : Nat) (s : State) :
    onlyLinks { s with adm.gens := s.adm.gens.map fun g => if goesFree s g then { g with freed := true } else g }
      (replayReported cold n s) :=
  onlyLinks_trans (onlyLinks_of_events (onlyEvents_trans (freeGens_events s) (raise0_events ..)))
    (each_onlyLinks (fun _ _ => listPort_onlyLinks ..) _ _)

theorem keeps_onlyLinks (h : onlyLinks s t) : t.ldg = s.ldg ∧ t.cap = s.cap ∧ t.str = s.str ∧ t.ring.queues = s.ring.queues := by
  unfold onlyLinks at h
  rw [h]
  exact ⟨rfl, rfl, rfl, rfl⟩

theorem replayReported_keeps (cold : Bool) (n : Nat) (s : State) : (replayReported cold n s).ldg = s.ldg ∧
    (replayReported cold n s).cap = s.cap ∧ (replayReported cold n s).str = s.str ∧
    (replayReported cold n s).ring.queues = s.ring.queues := by
  have h := keeps_onlyLinks (replayReported_frame cold n s)
  exact h

theorem stopForReplay_eq (cold : Bool) (s : State) : ∃ str hb fab,
    stopForReplay cold s = { s with
      ldg.cmds := s.ldg.cmds.map (runAgain cold), str := str, out := { s.out with hb := hb, fab := fab } } ∧
    ∀ k ∈ str.ctxs, k.2.state = 5 :=
  ⟨_, _, _, stopStreams_frame .., stopStreams_all _⟩

theorem replayFrom_ldg (cold : Bool) (h3 : storeClean 3 s) (h4 : storeClean 4 s) :
    (replayFrom cold s).ldg.cmds = (if cold = true then fromMirror s else s).ldg.cmds := by
  cases cold with
  | true => rfl
  | false =>
    have hs := replayFrom_warm h3 h4
    unfold onlySends at hs
    rw [hs]
    rfl

theorem replayFrom_keeps (cold : Bool) (h3 : storeClean 3 s) (h4 : storeClean 4 s) :
    (replayFrom cold s).cap.epochs = s.cap.epochs ∧ (replayFrom cold s).adm.keyRec = s.adm.keyRec ∧
      (replayFrom cold s).adm.stagedPatch = s.adm.stagedPatch := by
  cases cold with
  | true => exact ⟨rfl, rfl, rfl⟩
  | false =>
    have hs := replayFrom_warm h3 h4
    unfold onlySends at hs
    rw [hs]
    exact ⟨rfl, rfl, rfl⟩

theorem get?_mapKeyed {α β : Type} (t : Tab α) (f : Nat → α → β) (k : Nat) :
    Tab.get? (t.map fun e => (e.1, f e.1 e.2)) k = (Tab.get? t k).map (f k) := by
  induction t with
  | nil => rfl
  | cons e t ih =>
    obtain ⟨j, v⟩ := e
    simp only [List.map_cons, Tab.get?]
    split
    · next hk => rw [hk, Option.map_some]
    · exact ih

theorem replayFrom_queue? (cold : Bool) (h3 : storeClean 3 s) (h4 : storeClean 4 s) (q : Nat) :
    queue? (replayFrom cold s) q = (queue? s q).map fun x => if cold = true then queueFromMirror s q x else x := by
  cases cold with
  | true => exact get?_mapKeyed s.ring.queues (queueFromMirror s) q
  | false =>
    have hs := replayFrom_warm h3 h4
    unfold onlySends at hs
    rw [hs]
    exact Option.map_id'.symm

theorem replaySettled_due (s : State) : (replaySettled s).ldg.replayDue = 0 := rfl

theorem replayed_due (headers : Tab Bytes) (cold : Bool) (s : State) : (replayed headers cold s).ldg.replayDue = 0 := by
  unfold replayed
  exact replaySettled_due _

/-- With no epoch to resolve and no patch staged, a replay stops the streams, has the commands run again, and brings the queues back. -/
theorem replayed_spec (headers : Tab Bytes) (cold : Bool) (h3 : storeClean 3 s) (h4 : storeClean 4 s)
    (he : ∀ e ∈ s.cap.epochs, unresolved e.2 = false) (hp : s.adm.stagedPatch = none) (hk : cold = true → s.adm.keyRec = []) :
    (replayed headers cold s).ldg.cmds = ((if cold = true then fromMirror s else s).ldg.cmds).map (runAgain cold) ∧
    (replayed headers cold s).cap.epochs = s.cap.epochs ∧ (∀ k ∈ (replayed headers cold s).str.ctxs, k.2.state = 5) ∧
    ∀ q, queue? (replayed headers cold s) q = queue? (replayQueues cold (replayFrom cold s)) q := by
  obtain ⟨hfe, hfk, hfp⟩ := replayFrom_keeps cold h3 h4
  obtain ⟨hql, hqe, hqk, hqp, -⟩ := (each_replayQueue cold ((replayFrom cold s).ring.queues.map (·.1)) (replayFrom cold s)).1
  obtain ⟨str, hb, fab, hstop, hctx⟩ := stopForReplay_eq cold (replayQueues cold (replayFrom cold s))
  have hepochs : (stopForReplay cold (replayQueues cold (replayFrom cold s))).cap.epochs = s.cap.epochs := by
    rw [hstop]
    exact hqe.trans hfe
  have hpatch : (stopForReplay cold (replayQueues cold (replayFrom cold s))).adm.stagedPatch = none := by
    rw [hstop]
    exact (hqp.trans hfp).trans hp
  have heq : replayed headers cold s = replaySettled (stopForReplay cold (replayQueues cold (replayFrom cold s))) := by
    unfold replayed
    dsimp only
    rw [each_resolveEpoch headers _ (by rw [hepochs]; exact he), dropStaged_of_none hpatch]
  rw [heq]
  refine ⟨?_, hepochs, ?_, ?_⟩
  · have hrec : cold = true → (stopForReplay cold (replayQueues cold (replayFrom cold s))).adm.keyRec = [] := by
      rw [hstop]
      exact fun hc => (hqk.trans hfk).trans (hk hc)
    have hcmds : (stopForReplay cold (replayQueues cold (replayFrom cold s))).ldg.cmds =
        ((if cold = true then fromMirror s else s).ldg.cmds).map (runAgain cold) := by
      rw [hstop, ← replayFrom_ldg cold h3 h4]
      exact congrArg (fun l => l.cmds.map (runAgain cold)) hql
    change (stopForReplay cold _).ldg.cmds.map (holdForKeys (stopForReplay cold _)) = _
    rw [hcmds, List.map_map]
    exact List.map_congr_left fun c _ => holdForKeys_runAgain cold c hrec
  · change ∀ k ∈ (stopForReplay cold _).str.ctxs, k.2.state = 5
    rw [hstop]
    exact hctx
  · intro q
    change queue? (stopForReplay cold _) q = _
    rw [hstop]
    rfl

/-- A queue after a replay (R62, R306). -/
theorem replayed_queue (cold : Bool) (h3 : storeClean 3 s) (h4 : storeClean 4 s) (hx : queue? s q = some x) :
    ∃ y, queue? (replayQueues cold (replayFrom cold s)) q = some y ∧ y.desc = x.desc ∧ y.flushBy = none ∧ y.fetched = [] ∧
      y.state = (if x.state = .flushing then x.before else x.state) ∧ y.acc = (if cold = true then x.mirHead else x.acc) := by
  obtain ⟨-, -, -, -, hq⟩ := (each_replayQueue cold ((replayFrom cold s).ring.queues.map (·.1)) (replayFrom cold s)).1
  have hturned : (queue? (replayQueues cold (replayFrom cold s)) q).map turned = _ := hq q
  rw [replayFrom_queue? cold h3 h4, hx, Option.map_some, Option.map_some] at hturned
  obtain ⟨y, hy, hyx⟩ := Option.map_eq_some_iff.1 hturned
  obtain ⟨hby, hfetched, hfl⟩ := replayQueues_calmAt cold q (replayFrom cold s) y hy
  simp only [turned, Prod.mk.injEq] at hyx
  obtain ⟨hdesc, hbefore, hacc, hstate⟩ := hyx
  have hy' : y.state = if y.state = .flushing then y.before else y.state := by
    split
    · next h => exact h.trans (hfl h).symm
    · rfl
  refine ⟨y, hy, ?_, hby, hfetched, ?_, ?_⟩
  · rw [hdesc]
    split <;> rfl
  · rw [hy', hstate]
    split <;> rfl
  · rw [hacc]
    split <;> rfl

end Replay

/-- Settles O26: the mirror is rewritten and kept up with, and a replay runs the commands again, by the stages of `replay`. -/
theorem compactionAndReplay : Obligations.CompactionAndReplay := by
  unfold Obligations.CompactionAndReplay
  refine ⟨?_, ?_, ?_, ?_, ?_, ?_, ?_⟩
  · intro s q seq c h
    exact ⟨_, exec_ledgerCompact h, compact_compacted h⟩
  · intro s c hmem hop hst hran huniq hout
    exact settleCompact_ends hmem hop hst hran huniq hout
  · intro s c r hc hr hcomp huniq
    exact settleCompact_of_outstanding hr hcomp huniq
  · intro s h cold hruns hready hdue h3 h4 he hp hk _
    have hcold : (s.ldg.replayDue == 2) = cold := by rw [hdue]; cases cold <;> rfl
    have hne : s.ldg.replayDue ≠ 0 := by rw [hdue]; cases cold <;> decide
    refine ⟨_, exec_replay h hruns, ?_⟩
    rw [replay_of_due h hready hne, hcold]
    obtain ⟨hcmds, hepochs, hctx, hqueue⟩ := replayed_spec h cold h3 h4 he hp hk
    obtain ⟨hldg, hcap, hstr, hring⟩ := replayReported_keeps cold (rewritten cold (replayFrom cold s)) (replayed h cold s)
    rw [hldg, hcap, hstr]
    refine ⟨replayed_due h cold s, hcmds, hepochs, hctx, fun q x hx => ?_⟩
    obtain ⟨y, hy, hrest⟩ := replayed_queue cold h3 h4 hx
    rw [queue?, hring]
    exact ⟨y, (hqueue q).trans hy, hrest⟩
  · intro s h hruns hready hdue
    have hkind : b2n (s.ldg.replayDue == 2) = if s.ldg.replayDue = 2 then 1 else 0 := by simp [b2n]
    refine ⟨replayed h (s.ldg.replayDue == 2) s, rewritten (s.ldg.replayDue == 2) (replayFrom (s.ldg.replayDue == 2) s), ?_,
      replayed_due ..⟩
    rw [exec_replay h hruns, replay_of_due h hready hdue, replayReported, hkind]
  · intro s h hnot
    refine congrArg Host.Outcome.next ?_
    unfold when
    split
    · exact replay_of_notDue h hnot
    · rfl
  · intro cold c
    unfold runAgain
    split
    · next hd => exact ⟨rfl, rfl, rfl, fun _ => rfl, fun hs => by rw [hd] at hs; cases hs⟩
    · next hd =>
      split
      · exact ⟨rfl, rfl, rfl, fun h => absurd h hd, fun _ => ⟨rfl, rfl, rfl⟩⟩
      · next hs => exact ⟨rfl, rfl, rfl, fun h => absurd h hd, fun h => absurd h hs⟩

end Sys2Proof.Machine
end

section
/-! SUPPORT. TOUCHSTONE_LOAD and TOUCHSTONE_RUN (R230 to R232). -/

namespace Sys2Proof.Machine

section Touchstone

variable {q seq i : Nat} {c : Cmd} {s : State} {d p : Bytes} {k : Package} {faulty l : List Nat}

theorem exec_touchstoneLoad (b : HostRead) (h : ready 0x11 q seq tsLoadBad c s) :
    exec (.touchstoneLoad q seq b) s = .next (tsLoad b c (onCmd q seq ranCmd s)) :=
  congrArg _ (runCmd_ready (tsLoad b) h)

theorem exec_touchstoneRun (b : HostRead) (faulty : List Nat) (h : ready 0x12 q seq tsRunBad c s) :
    exec (.touchstoneRun q seq b faulty) s = .next (tsRun b faulty c (onCmd q seq ranCmd s)) :=
  congrArg _ (runCmd_ready (tsRun b faulty) h)

/-- A sound package is kept with the digest of its bytes (R231). -/
theorem tsLoad_of_sound (hclean : storeClean 13 s) (hslot : fld (slice d 0 (fld c.item 12 4)) 16 1 ≤ 63)
    (hkey : (Tab.get? s.adm.keys (256 + fld (slice d 0 (fld c.item 12 4)) 16 1)).isSome = true)
    (htr : trailerOk s (slice d 0 (fld c.item 12 4)) = true)
    (hhdr : pkHeaderBad (slice d 0 (fld c.item 12 4)) (fld c.item 12 4) (Tab.get? s.adm.packages (fld c.item 8 1)) = [])
    (hrec : pkRecsBad (fld (slice d 0 (fld c.item 12 4)) 18 2) 0 64 (fld c.item 12 4 - 32) (slice d 0 (fld c.item 12 4)) = none) :
    tsLoad (some d) c s = finish c.q c.seq 0 0 { s with
      out.reads := s.out.reads ++ [⟨fld c.item 16 8, fld c.item 24 2, fld c.item 12 4, 5⟩]
      adm.packages := Tab.put s.adm.packages (fld c.item 8 1) {
        addr := fld c.item 16 8
        len := fld c.item 12 4
        serial := fld (slice d 0 (fld c.item 12 4)) 8 4
        tdid := fld c.item 24 2
        sha := sha256 (slice d 0 (fld c.item 12 4)) } } := by
  have hread : storeClean 13 (readCtl (fld c.item 16 8) (fld c.item 24 2) (fld c.item 12 4) 5 s) := hclean
  have hslot' : ¬ 63 < pkSlot (slice d 0 (fld c.item 12 4)) := Nat.not_lt.2 hslot
  have hkey' : ¬ (Tab.get? (readCtl (fld c.item 16 8) (fld c.item 24 2) (fld c.item 12 4) 5 s).adm.keys
      (256 + pkSlot (slice d 0 (fld c.item 12 4)))).isNone = true := by
    rw [Option.isNone_iff_eq_none]
    exact fun hn => by rw [pkSlot, readCtl_adm] at hn; rw [hn] at hkey; cases hkey
  have htr' : ¬ (!trailerOk (readCtl (fld c.item 16 8) (fld c.item 24 2) (fld c.item 12 4) 5 s)
      (slice d 0 (fld c.item 12 4))) = true := by
    rw [show trailerOk (readCtl _ _ _ 5 s) (slice d 0 (fld c.item 12 4)) = trailerOk s (slice d 0 (fld c.item 12 4)) from rfl, htr]
    decide
  unfold tsLoad
  dsimp only
  rw [readKeys_of_clean _ hread, if_neg hslot', if_neg hkey', if_neg htr', readCtl_adm, hhdr, pkPatterns, hrec]
  rfl

/-! ### The slices that are tested -/

/-- With none faulty, every slice tested is in service. -/
theorem tsSlices_of_none (p : Bytes) (l : List Nat) (s : State) : tsSlices p [] l s =
    ([], { s with asy.sliceOut := s.asy.sliceOut.filter fun i => !l.contains i }) := by
  induction l generalizing s with
  | nil =>
    have : s.asy.sliceOut.filter (fun i => !([] : List Nat).contains i) = s.asy.sliceOut :=
      List.filter_eq_self.2 fun _ _ => rfl
    rw [this]
    rfl
  | cons a l ih =>
    rw [tsSlices, ih]
    refine Prod.ext rfl ?_
    simp only [tsSlice, List.contains_nil, Bool.false_eq_true, if_false, List.filter_filter]
    congr 3
    funext x
    simp only [List.contains_cons, Bool.not_or, bne, Bool.and_comm]

theorem sliceGone_cmds (b i : Nat) (s : State) : (sliceGone b i s).ldg.cmds = s.ldg.cmds := by
  unfold sliceGone
  split
  · rfl
  · rw [cmds_onlyEvents (raise0_events ..)]

theorem asy_onlyEvents {t : State} (h : onlyEvents s t) : t.asy = s.asy := by
  unfold onlyEvents at h
  rw [h]

theorem mem_sliceGone (b i : Nat) (s : State) : i ∈ (sliceGone b i s).asy.sliceOut := by
  unfold sliceGone
  split
  · next h => exact List.contains_iff_mem.1 h
  · rw [asy_onlyEvents (raise0_events ..)]
    exact List.mem_cons_self ..

theorem mem_sliceGone_of_mem (b j : Nat) (h : i ∈ s.asy.sliceOut) : i ∈ (sliceGone b j s).asy.sliceOut := by
  unfold sliceGone
  split
  · exact h
  · rw [asy_onlyEvents (raise0_events ..)]
    exact List.mem_cons_of_mem _ h

theorem tsSlice_cmds (p : Bytes) (faulty : List Nat) (i : Nat) (s : State) :
    (tsSlice p faulty i s).2.ldg.cmds = s.ldg.cmds := by
  unfold tsSlice
  split
  · exact (cmds_onlyEvents (raise0_events ..)).trans (sliceGone_cmds ..)
  · rfl

theorem tsSlices_cmds (p : Bytes) (faulty l : List Nat) (s : State) : (tsSlices p faulty l s).2.ldg.cmds = s.ldg.cmds := by
  induction l generalizing s with
  | nil => rfl
  | cons a l ih => exact (ih _).trans (tsSlice_cmds ..)

/-- A faulty slice fails the test and is out of service (R232). -/
theorem tsSlice_of_faulty (h : i ∈ faulty) (p : Bytes) (s : State) :
    (tsSlice p faulty i s).1 ≠ [] ∧ i ∈ (tsSlice p faulty i s).2.asy.sliceOut := by
  unfold tsSlice
  rw [if_pos (List.contains_iff_mem.2 h)]
  refine ⟨List.cons_ne_nil _ _, ?_⟩
  rw [asy_onlyEvents (raise0_events ..)]
  exact mem_sliceGone ..

/-- The test of another slice leaves a slice out of service. -/
theorem tsSlice_keeps_out {j : Nat} (hij : i ≠ j) (h : i ∈ s.asy.sliceOut) : i ∈ (tsSlice p faulty j s).2.asy.sliceOut := by
  unfold tsSlice
  split
  · rw [asy_onlyEvents (raise0_events ..)]
    exact mem_sliceGone_of_mem _ _ h
  · exact List.mem_filter.2 ⟨h, bne_iff_ne.2 hij⟩

theorem tsSlices_keeps_out (hl : i ∉ l) (h : i ∈ s.asy.sliceOut) : i ∈ (tsSlices p faulty l s).2.asy.sliceOut := by
  induction l generalizing s with
  | nil => exact h
  | cons a l ih =>
    exact ih (fun hm => hl (List.mem_cons_of_mem _ hm)) (tsSlice_keeps_out (fun e => hl (e ▸ List.mem_cons_self ..)) h)

theorem tsSlices_of_faulty (p : Bytes) (hf : i ∈ faulty) (hl : i ∈ l) (hd : l.Nodup) (s : State) :
    (tsSlices p faulty l s).1 ≠ [] ∧ i ∈ (tsSlices p faulty l s).2.asy.sliceOut := by
  induction l generalizing s with
  | nil => cases hl
  | cons a l ih =>
    obtain ⟨ha, hd⟩ := List.nodup_cons.1 hd
    rcases List.mem_cons.1 hl with rfl | hl
    · obtain ⟨hfails, hout⟩ := tsSlice_of_faulty hf p s
      exact ⟨fun hn => hfails (List.append_eq_nil_iff.1 hn).1, tsSlices_keeps_out (l := l) ha hout⟩
    · obtain ⟨hfails, hout⟩ := ih hl hd (tsSlice p faulty a s).2
      exact ⟨fun hn => hfails (List.append_eq_nil_iff.1 hn).2, hout⟩

/-! ### TOUCHSTONE_RUN -/

/-- The slices that the command names. -/
def tsTested (c : Cmd) : List Nat := (List.range 16).filter fun i => bit (fld c.item 10 2) i

/-- A run of a sound package tests its slices and writes its result. -/
theorem tsRun_of_sound (hclean : storeClean 13 s) (hk : Tab.get? s.adm.packages (fld c.item 8 1) = some k)
    (htr : trailerOk s (slice d 0 k.len) = true) (hsha : sha256 (slice d 0 k.len) = k.sha) :
    tsRun (some d) faulty c s =
      let r := tsSlices (slice d 0 k.len) faulty (tsTested c) (readCtl k.addr k.tdid k.len 5 s)
      sendResult c (fld c.item 16 8) (fld c.item 24 2) 16 (tsResult (slice d 0 k.len) (tsTested c).length r.1 (free r.2).1)
        (onCmd c.q c.seq (fun x => { x with bad := if r.1.isEmpty then 0 else 0x0A }) (free r.2).2) := by
  have hread : storeClean 13 (readCtl k.addr k.tdid k.len 5 s) := hclean
  have htr' : trailerOk (readCtl k.addr k.tdid k.len 5 s) (slice d 0 k.len) = true := htr
  unfold tsRun
  dsimp only
  rw [hk]
  dsimp only
  rw [readKeys_of_clean _ hread, if_neg (by simp [htr', hsha])]
  rfl

theorem tsRun_of_unread (faulty : List Nat) : tsRun none faulty c s = malformed c.q c.seq 0xFE s := by
  unfold tsRun
  dsimp only
  split
  · next hn => cases hn
  · rfl

theorem tsResult_take (p : Bytes) (n : Nat) (w : W64) : (tsResult p n [] w).take 16 =
    toLE 4 (fld p 8 4) ++ toLE 2 n ++ toLE 2 0 ++ toLE 4 0xFFFFFFFF ++ toLE 4 (fld p 18 2) := by
  unfold tsResult
  rw [List.append_assoc, List.append_assoc]
  exact List.take_left' (by simp only [List.length_append, toLE_length])

theorem tsResult_drop (p : Bytes) (n : Nat) (fails : List Nat) (w : W64) :
    (tsResult p n fails w).drop 24 = slice p 24 8 ++ sha256 p := by
  unfold tsResult
  rw [List.append_assoc]
  exact List.drop_left' (by simp only [List.length_append, toLE_length])

theorem mem_tsTested (hi : i < 16) (hb : bit (fld c.item 10 2) i = true) : i ∈ tsTested c :=
  List.mem_filter.2 ⟨List.mem_range.2 hi, hb⟩

/-- Whether a test found a failing slice is kept with the command. -/
def tested (fails : List Nat) (x : Cmd) : Cmd := { x with bad := if fails.isEmpty then 0 else 0x0A }

end Touchstone

/-- Settles O27: the slices that compute rightly come back, one that does not stays out, and the result names them. -/
theorem touchstoneCommands : Obligations.TouchstoneCommands := by
  unfold Obligations.TouchstoneCommands
  refine ⟨?_, ?_, ?_, ?_⟩
  · intro s q seq c d h p hclean hslot hkey htr hhdr hrec
    obtain ⟨rfl, rfl⟩ := cmd?_q (ready_cmd h)
    refine ⟨_, exec_touchstoneLoad _ h, ?_⟩
    rw [tsLoad_of_sound (s := onCmd c.q c.seq ranCmd s) hclean hslot hkey htr hhdr hrec]
    exact finish_ends_of_ready 0 0 h rfl (.inr rfl)
  · intro s q seq c k d h hclean hk htr hsha p slices
    obtain ⟨rfl, rfl⟩ := cmd?_q (ready_cmd h)
    refine ⟨_, exec_touchstoneRun _ _ h, ?_⟩
    rw [tsRun_of_sound (s := onCmd c.q c.seq ranCmd s) hclean hk htr hsha, tsSlices_of_none]
    refine ⟨rfl, ⟨_, List.mem_append_right _ (List.mem_singleton.2 rfl), rfl, rfl, rfl, rfl, rfl, ?_, ?_⟩, ?_⟩
    · exact tsResult_take ..
    · exact tsResult_drop ..
    · exact congrArg (Option.map (·.st)) (cmd?_onCmd (tested []) (fun _ => ⟨rfl, rfl⟩) (ready_ran h))
        |>.trans (congrArg some (due_spec h.1).2.2.1)
  · intro s q seq c k d faulty i h hclean hk htr hsha hi hb hf
    obtain ⟨rfl, rfl⟩ := cmd?_q (ready_cmd h)
    obtain ⟨hfails, hout⟩ := tsSlices_of_faulty (slice d 0 k.len) hf (mem_tsTested hi hb)
      (List.nodup_range.filter _) (readCtl k.addr k.tdid k.len 5 (onCmd c.q c.seq ranCmd s))
    have hcmds := tsSlices_cmds (slice d 0 k.len) faulty (tsTested c) (readCtl k.addr k.tdid k.len 5 (onCmd c.q c.seq ranCmd s))
    refine ⟨_, exec_touchstoneRun _ _ h, ?_⟩
    rw [tsRun_of_sound (s := onCmd c.q c.seq ranCmd s) hclean hk htr hsha]
    dsimp only
    generalize tsSlices (slice d 0 k.len) faulty (tsTested c) (readCtl k.addr k.tdid k.len 5 (onCmd c.q c.seq ranCmd s)) = r
      at hfails hout hcmds ⊢
    refine ⟨hout, ?_⟩
    have hcmd := cmd?_onCmd (tested r.1) (fun _ => ⟨rfl, rfl⟩) ((cmd?_of_cmds (t := (free r.2).2) hcmds c.q c.seq).trans (ready_ran h))
    refine (congrArg (Option.map fun x => (x.st, x.bad)) hcmd).trans ?_
    simp [tested, hfails, ranCmd, (due_spec h.1).2.2.1]
  · intro s q seq c faulty h
    obtain ⟨rfl, rfl⟩ := cmd?_q (ready_cmd h)
    refine ⟨_, exec_touchstoneRun _ _ h, ?_⟩
    rw [tsRun_of_unread]
    exact finish_ends_of_ready 3 0xFE h rfl (.inl (by decide))

end Sys2Proof.Machine
end

section
/-! SUPPORT. EPOCH_OPEN (R97, R98, R108, R114, R139). -/

namespace Sys2Proof.Machine

section JournalFlips

variable {s t u : State} {store : Nat}

/-- What the journal's writes corrupt is in the ledger macros (R322). -/
def flipsLedger (s t : State) : Prop := t.flt.merge = s.flt.merge ∧
  ∀ x ∈ t.flt.flipped, x ∈ s.flt.flipped ∨ x.1 / 2 ^ 32 = 3 ∨ x.1 / 2 ^ 32 = 4

theorem flipsLedger_of_flt (h : t.flt = s.flt) : flipsLedger s t := ⟨by rw [h], fun _ hx => .inl (h ▸ hx)⟩

theorem flipsLedger_trans (h : flipsLedger s t) (k : flipsLedger t u) : flipsLedger s u :=
  ⟨k.1.trans h.1, fun x hx => (k.2 x hx).elim (h.2 x) .inr⟩

theorem flipsLedger_laneClean (m l : Nat) (s : State) : flipsLedger s (laneClean m l s) :=
  ⟨rfl, fun _ hx => .inl (List.mem_filter.1 hx).1⟩

theorem flipsLedger_flipHook {m l : Nat} (hm : m = 3 ∨ m = 4) (hl : l < 2 ^ 32) (s : State) : flipsLedger s (flipHook m l s) := by
  have hclean := flipsLedger_laneClean m l s
  unfold flipHook
  dsimp only
  split
  · refine flipsLedger_trans hclean ⟨rfl, fun x hx => ?_⟩
    rcases List.mem_cons.1 hx with rfl | hx
    · exact .inr (by dsimp only; omega)
    · exact .inl hx
  · exact hclean

theorem flipsLedger_wordWrite {m w : Nat} (hm : m = 3 ∨ m = 4) (hw : 4 * w < 2 ^ 32) (s : State) :
    flipsLedger s (wordWrite m w s) :=
  flipsLedger_trans (flipsLedger_trans (flipsLedger_trans (flipsLedger_laneClean ..) (flipsLedger_laneClean ..))
    (flipsLedger_laneClean ..)) (flipsLedger_flipHook hm hw _)

theorem flipsLedger_appendRec (r : Rec) (s : State) : flipsLedger s (appendRec r s) := by
  have hw : 4 * (18432 + s.ldg.lsn % logWords) < 2 ^ 32 := by
    have : s.ldg.lsn % logWords < logWords := Nat.mod_lt _ (by decide)
    have hl : logWords ≤ 1000000 := by decide
    omega
  unfold appendRec mirrorRec
  refine flipsLedger_trans ?_ (flipsLedger_of_flt rfl)
  refine flipsLedger_trans ?_ (flipsLedger_wordWrite (.inr rfl) hw _)
  exact flipsLedger_trans (flipsLedger_of_flt rfl) (flipsLedger_wordWrite (.inl rfl) hw _)

theorem flipsLedger_each {α : Type} {f : α → State → State} (h : ∀ a s, flipsLedger s (f a s)) (l : List α) (s : State) :
    flipsLedger s (each l f s) := by
  unfold each
  induction l generalizing s with
  | nil => exact flipsLedger_of_flt rfl
  | cons a l ih => exact flipsLedger_trans (h a s) (ih (f a s))

theorem flipsLedger_reclaim (n : Nat) (s : State) : flipsLedger s (reclaim n s) := by
  induction n generalizing s with
  | zero => exact flipsLedger_of_flt rfl
  | succ n ih =>
    unfold reclaim
    split
    · exact flipsLedger_of_flt rfl
    · next r rest _ =>
      split
      · exact flipsLedger_trans (flipsLedger_of_flt rfl) (ih _)
      · split
        · refine flipsLedger_trans (flipsLedger_trans ?_ (flipsLedger_each (fun _ _ => flipsLedger_appendRec ..) _ _)) (ih _)
          exact flipsLedger_of_flt rfl
        · exact flipsLedger_of_flt rfl

theorem flt_onlyEvents (h : onlyEvents s t) : t.flt = s.flt := by
  unfold onlyEvents at h
  rw [h]

theorem flipsLedger_checkLow (s : State) : flipsLedger s (checkLow s) := by
  unfold checkLow
  split
  · split
    · exact flipsLedger_of_flt rfl
    · refine flipsLedger_of_flt ?_
      rw [flt_onlyEvents (raise0_events ..)]
  · exact flipsLedger_of_flt rfl

theorem flipsLedger_append (kind state q n : Nat) (arg : Bytes) (dead : Bool) (s : State) :
    flipsLedger s (append kind state q n arg dead s) := by
  unfold append
  dsimp only
  refine flipsLedger_trans ?_ (flipsLedger_trans (flipsLedger_reclaim ..) (flipsLedger_checkLow ..))
  split
  · exact flipsLedger_trans (flipsLedger_appendRec ..) (flipsLedger_of_flt rfl)
  · exact flipsLedger_appendRec ..

theorem flipsLedger_kill (p : Rec → Bool) (s : State) : flipsLedger s (kill p s) := flipsLedger_of_flt rfl

theorem flipsLedger_setPhase (e phase : Nat) (s : State) : flipsLedger s (setPhase e phase s) := by
  have he : flipsLedger s (onEpoch e (fun x => { x with phase }) s) := flipsLedger_of_flt rfl
  unfold setPhase
  split
  · exact flipsLedger_trans (flipsLedger_trans he (flipsLedger_kill ..)) (flipsLedger_append ..)
  · exact flipsLedger_trans he (flipsLedger_append ..)

/-- The stores outside the ledger macros stay clean. -/
theorem storeClean_of_flipsLedger (h : flipsLedger s t) (hs : storeClean store s) (h3 : store ≠ 3) (h4 : store ≠ 4) :
    storeClean store t :=
  ⟨h.1 ▸ hs.1, fun x hx => (h.2 x hx).elim (hs.2 x) fun hl => by omega⟩

end JournalFlips

section EpochOpen

variable {q seq off : Nat} {c : Cmd} {s t u : State} {x : Epoch} {g : Gen} {v : Vault} {a : Layout} {rd : LaunchReads}
  {order : List CopyItem} {l : Bytes}

/-- The own fields of EPOCH_OPEN were checked when it started. -/
def openRefused (c : Cmd) (_ : State) : List (Nat × Bool) := if c.epoch = 0 then [(c.badDetail - 1, true)] else []

theorem exec_epochOpen_of_due (rd : LaunchReads) (h : due 0x40 q seq s = some c) (hp : prepReady c s = true) :
    exec (.epochOpen q seq rd) s = .next (runCmd 0x40 q seq openRefused (openEpoch rd) s) := by
  change Host.Outcome.next (match due 0x40 q seq s with | none => s | some c => _) = _
  rw [h]
  dsimp only
  rw [if_pos hp]
  rfl

theorem exec_epochOpen_of_wait (rd : LaunchReads) (h : due 0x40 q seq s = some c) (hp : prepReady c s = false) :
    exec (.epochOpen q seq rd) s = .next (prepWait c s) := by
  change Host.Outcome.next (match due 0x40 q seq s with | none => s | some c => _) = _
  rw [h]
  dsimp only
  rw [if_neg (by rw [hp]; exact Bool.false_ne_true)]

theorem min?_cons_le (l : List Nat) (n : Nat) : ∃ m, (l ++ [n]).min? = some m ∧ m ≤ n := by
  cases h : (l ++ [n]).min? with
  | none => cases (List.append_eq_nil_iff.1 (List.min?_eq_none_iff.1 h)).2
  | some m => exact ⟨m, rfl, (List.min?_eq_some_iff.1 h).2 n (List.mem_append_right _ (List.mem_singleton.2 rfl))⟩

/-- A command whose own fields offend at an offset is refused there or before it. -/
theorem bodyBad_of_own (b : Bytes) (n : Nat) : ∃ off, bodyBad b [(n, true)] = some off ∧ off ≤ n := min?_cons_le _ n

/-- The epoch that an EPOCH_OPEN has bound. -/
def opened (c : Cmd) (g : Gen) (s : State) : Epoch :=
  let base := if oIncr c.item then fld c.item 16 4 else 0
  { num := c.epoch, plan := oPlan c.item, gen := g.num, list := g.bytes, phase := 1, base
    anchor := if base = 0 then 0 else ((epoch? s base).map fun e => if e.anchor = 0 then e.num else e.anchor).getD 0,
    incr := oIncr c.item, q := c.q, seq := c.seq }

theorem openEpoch_of_gen (rd : LaunchReads) (h : gen? s (fld c.item 8 2) c.gen = some g) : openEpoch rd c s =
    prep (opened c g s) g rd c.item (setPhase c.epoch 1 { s with cap.epochs := Tab.put s.cap.epochs c.epoch (opened c g s) }) := by
  unfold openEpoch oPlan
  dsimp only
  rw [h]
  rfl

theorem eq_opened (hx : x = {
      num := c.epoch, plan := fld c.item 8 2, gen := g.num, list := g.bytes, phase := 1, base := x.base,
      anchor := x.anchor, incr := bit (fld c.item 10 2) 0, q := c.q, seq := c.seq })
    (hb : x.base = (if x.incr = true then fld c.item 16 4 else 0))
    (ha : x.anchor = (if x.base = 0 then 0 else ((epoch? s x.base).map fun e => if e.anchor = 0 then e.num else e.anchor).getD 0)) :
    x = opened c g s := by
  have hi : x.incr = bit (fld c.item 10 2) 0 := by rw [hx]
  rw [hi] at hb
  refine hx.trans ?_
  rw [ha, hb]
  rfl

/-- `t` is `s` but for reads of host memory. -/
def onlyReads (s t : State) : Prop := t = { s with out := { s.out with reads := t.out.reads } }

theorem onlyReads_trans (h : onlyReads s t) (k : onlyReads t u) : onlyReads s u := by
  unfold onlyReads at *
  rw [h] at k
  rw [k]

theorem each_onlyReads {α : Type} {f : α → State → State} (h : ∀ a s, onlyReads s (f a s)) (l : List α) (s : State) :
    onlyReads s (each l f s) := by
  unfold each
  induction l generalizing s with
  | nil => rfl
  | cons a l ih => exact onlyReads_trans (h a s) (ih (f a s))

theorem readCtl_onlyReads (a d n k : Nat) (s : State) : onlyReads s (readCtl a d n k s) := rfl

theorem readForecast_onlyReads (q : Nat) (b : Bytes) (fc : HostRead) (s : State) : onlyReads s (readForecast q b fc s) := by
  unfold readForecast
  split
  · rfl
  · exact onlyReads_trans (readCtl_onlyReads ..) (each_onlyReads (fun _ _ => readCtl_onlyReads ..) _ _)

/-! ### PREP once every check has passed -/

/-- What PREP does for the base of an incremental epoch. -/
def prepBase (x : Epoch) (rd : LaunchReads) (s : State) : State :=
  match (if x.incr then epoch? s x.base else none) with
  | some b => onEpoch x.num (fun y => { y with
      full := (baseInfo s x b rd.sectors).full, delta := (baseInfo s x b rd.sectors).delta
      anchors := (baseInfo s x b rd.sectors).delta.map fun n => (n, rd.sectors) })
      (if (baseInfo s x b rd.sectors).reject then sealReject b.num 1 s else s)
  | none => s

/-- The order of the copy is kept with the epoch. -/
def prepOrder (x : Epoch) (order : List CopyItem) (s : State) : State :=
  onEpoch x.num (fun y => { y with order, deferred := ((liveEntries x.list).filter fun n => eDeferred n.2).map (·.1) }) s

/-- The vault takes its layout at the first launch into it. -/
def prepVault (x : Epoch) (v : Vault) (a : Layout) (s : State) : State :=
  if v.area.isSome then s else mark 1 (hVault x.list) x.q x.seq { s with
    adm.vaults := Tab.upd s.adm.vaults (hVault x.list) fun w => { w with area := some a.area, tail := a.tail } }

/-- The tracking region of a table that this boot has not met is known from its header. -/
def prepRegion (x : Epoch) (rd : LaunchReads) (n : Nat × Bytes) (t : State) : State :=
  if (slice ((Tab.get? rd.headers n.1).getD []) 0 4096).all (· == 0) then
    (if (region? t (eTrack n.2)).any fun r => r.lastCut == 0 && r.plan == x.plan && r.entry == n.1 then t
      else { t with cap.regions := Tab.del t.cap.regions (eTrack n.2) })
  else if (region? t (eTrack n.2)).isSome then t
  else { t with cap.regions := Tab.put t.cap.regions (eTrack n.2) {
    plan := x.plan, entry := n.1, lastCut := fld (slice ((Tab.get? rd.headers n.1).getD []) 0 4096) 4 4, rows := eSize n.2
    rowSize := eRow n.2, cv := eCheck n.2, cached := bit (fld (slice ((Tab.get? rd.headers n.1).getD []) 0 4096) 18 2) 1
    resync := bit (fld (slice ((Tab.get? rd.headers n.1).getD []) 0 4096) 18 2) 2 } }

/-- The state in which PREP prepares the banks. -/
def prepBefore (x : Epoch) (order : List CopyItem) (rd : LaunchReads) (v : Vault) (a : Layout) (s : State) : State :=
  each ((liveEntries x.list).filter fun n => eKind n.2 == 2) (prepRegion x rd) (prepVault x v a (prepOrder x order (prepBase x rd s)))

/-- The cut is in PREP with the chains that the plan names. -/
def cutOf (x : Epoch) : Cut :=
  { st := .prep, epoch := x.num, chains := (chainsOf x.list).foldl (fun t c => Tab.put t c {}) [] }

theorem prepGo_eq (x : Epoch) (order : List CopyItem) (rd : LaunchReads) (v : Vault) (a : Layout) (s : State) :
    prepGo x order rd v a s = { prepareBanks (scanBanks (prepBefore x order rd v a s)) with cap.cut := cutOf x } := rfl

/-- `t` has the banks and the stores of `s`, and its epochs are in the phases that they are in there. -/
def keepsBanks (s t : State) : Prop := t.flt = s.flt ∧
  (t.cap.bank0, t.cap.bank1, t.cap.coll, t.cap.capOf) = (s.cap.bank0, s.cap.bank1, s.cap.coll, s.cap.capOf) ∧
  ∀ e, (epoch? t e).map (·.phase) = (epoch? s e).map (·.phase)

theorem keepsBanks_refl (s : State) : keepsBanks s s := ⟨rfl, rfl, fun _ => rfl⟩

theorem keepsBanks_trans (h : keepsBanks s t) (k : keepsBanks t u) : keepsBanks s u := by
  obtain ⟨hf, hb, hp⟩ := h
  obtain ⟨kf, kb, kp⟩ := k
  exact ⟨kf.trans hf, kb.trans hb, fun e => (kp e).trans (hp e)⟩

theorem keepsBanks_of_events (h : onlyEvents s t) : keepsBanks s t := by
  unfold onlyEvents at h
  rw [h]
  exact ⟨rfl, rfl, fun _ => rfl⟩

theorem onEpoch_keepsBanks (e : Nat) (f : Epoch → Epoch) (hf : ∀ y, (f y).phase = y.phase) (s : State) :
    keepsBanks s (onEpoch e f s) := by
  refine ⟨rfl, rfl, fun n => ?_⟩
  change (Tab.get? (Tab.upd s.cap.epochs e f) n).map _ = _
  rw [Tab.get?_upd]
  split
  · rw [Option.map_map]
    exact congrArg (fun k => (epoch? s n).map k) (funext hf)
  · rfl

theorem prepBase_keepsBanks (x : Epoch) (rd : LaunchReads) (s : State) : keepsBanks s (prepBase x rd s) := by
  unfold prepBase
  split
  · refine keepsBanks_trans ?_ (onEpoch_keepsBanks _ _ ?_ _)
    · split
      · exact keepsBanks_of_events (raise0_events ..)
      · exact keepsBanks_refl s
    · exact fun _ => rfl
  · exact keepsBanks_refl s

theorem prepOrder_keepsBanks (x : Epoch) (order : List CopyItem) (s : State) : keepsBanks s (prepOrder x order s) := by
  refine onEpoch_keepsBanks _ _ ?_ _
  exact fun _ => rfl

theorem prepVault_keepsBanks (x : Epoch) (v : Vault) (a : Layout) (s : State) : keepsBanks s (prepVault x v a s) := by
  unfold prepVault
  split <;> exact ⟨rfl, rfl, fun _ => rfl⟩

theorem prepRegion_keepsBanks (x : Epoch) (rd : LaunchReads) (n : Nat × Bytes) (s : State) :
    keepsBanks s (prepRegion x rd n s) := by
  unfold prepRegion
  split
  · split <;> exact ⟨rfl, rfl, fun _ => rfl⟩
  · split <;> exact ⟨rfl, rfl, fun _ => rfl⟩

theorem each_keepsBanks {α : Type} {f : α → State → State} (h : ∀ a s, keepsBanks s (f a s)) (l : List α) (s : State) :
    keepsBanks s (each l f s) := by
  unfold each
  induction l generalizing s with
  | nil => exact keepsBanks_refl s
  | cons a l ih => exact keepsBanks_trans (h a s) (ih (f a s))

theorem prepBefore_keepsBanks (x : Epoch) (order : List CopyItem) (rd : LaunchReads) (v : Vault) (a : Layout) (s : State) :
    keepsBanks s (prepBefore x order rd v a s) :=
  keepsBanks_trans (keepsBanks_trans (keepsBanks_trans (prepBase_keepsBanks ..) (prepOrder_keepsBanks ..)) (prepVault_keepsBanks ..))
    (each_keepsBanks (prepRegion_keepsBanks x rd) _ _)

theorem scanBanks_of_clean (h : storeClean 5 s) : scanBanks s = s := readLanes_of_clean _ _ h

/-- No launch's plates are left in the bank that was captured last, or its epoch is SEALED (R114). -/
def capturedSealed (s : State) : Bool := s.cap.capOf == 0 || (epoch? s s.cap.capOf).any fun e => e.phase == 5

theorem capturedSealed_eq (h : keepsBanks s t) : capturedSealed t = capturedSealed s := by
  obtain ⟨-, hb, hp⟩ := h
  simp only [Prod.mk.injEq] at hb
  obtain ⟨-, -, -, hcap⟩ := hb
  have hany : ∀ o : Option Epoch, (o.any fun e => e.phase == 5) = (o.map (·.phase)).any (· == 5) := fun o => by
    cases o <;> rfl
  rw [capturedSealed, capturedSealed, hcap, hany, hany, hp]

theorem prepareBanks_banks (s : State) : capBank (prepareBanks s) = [] ∧
    collBank (prepareBanks s) = if capturedSealed s = true then collBank s else Iset.union (collBank s) (capBank s) := by
  have hcoll : (prepareBanks s).cap.coll = s.cap.coll := rfl
  unfold capBank
  rw [hcoll]
  constructor
  · cases h : s.cap.coll <;> simp [prepareBanks, h]
  · unfold collBank
    rw [hcoll]
    cases h : s.cap.coll <;> simp [prepareBanks, h, capturedSealed, collBank, capBank]

/-- The banks after PREP (R114). -/
theorem prepGo_banks (x : Epoch) (order : List CopyItem) (rd : LaunchReads) (v : Vault) (a : Layout) (h : storeClean 5 s) :
    capBank (prepGo x order rd v a s) = [] ∧ collBank (prepGo x order rd v a s) =
      if capturedSealed s = true then collBank s else Iset.union (collBank s) (capBank s) := by
  have hk := prepBefore_keepsBanks x order rd v a s
  have hbanks := prepareBanks_banks (prepBefore x order rd v a s)
  rw [capturedSealed_eq hk] at hbanks
  obtain ⟨hflt, hb, -⟩ := hk
  simp only [Prod.mk.injEq] at hb
  obtain ⟨hb0, hb1, hcoll, -⟩ := hb
  have hc : collBank (prepBefore x order rd v a s) = collBank s := by rw [collBank, collBank, hcoll, hb0, hb1]
  have hp : capBank (prepBefore x order rd v a s) = capBank s := by rw [capBank, capBank, hcoll, hb0, hb1]
  rw [hc, hp] at hbanks
  rw [prepGo_eq, scanBanks_of_clean (storeClean_of_flt h hflt)]
  exact hbanks

/-! ### The checks of PREP -/

/-- The checks of PREP that do not concern the forecast pass, in the state after the plan's list was read. -/
structure PrepSound (x : Epoch) (g : Gen) (rd : LaunchReads) (v : Vault) (l : Bytes) (s : State) : Prop where
  base : x.incr = true → (lastSealed s x.plan).any (fun m => m.num == x.base) = true
  list : rd.list = some l
  crc : crcN (slice l 0 x.list.length) = g.crc
  group : groupBad s x.list = false
  keys : planKeysBad s x.list = none
  vault : vault? s (hVault x.list) = some v
  up : vaultDown s v = false
  area : areaLive s x v (vaultLay s v x.list) = false
  entries : prepEntryBad s x.plan x.list rd.headers = none
  segs : tooManySegs s x.list (buildOrder (planItems x.list)) = false

theorem prep_of_sound {b : Bytes} (h : PrepSound x g rd v l (readCtl g.list g.tdid (64 * g.count) 1 s)) (hfc : oFcAddr b = 0) :
    prep x g rd b s = prepGo x (buildOrder (planItems x.list)) rd v (vaultLay (readCtl g.list g.tdid (64 * g.count) 1 s) v x.list)
      (readCtl g.list g.tdid (64 * g.count) 1 s) := by
  have hbase : ¬ (x.incr = true ∧ (!((lastSealed s x.plan).any fun m => m.num == x.base)) = true) := fun hn => by
    have hb : (lastSealed s x.plan).any (fun m => m.num == x.base) = true := h.base hn.1
    rw [hb] at hn
    exact absurd hn.2 (by decide)
  unfold prep
  dsimp only
  simp only [hbase, if_false, h.list, h.crc, ne_eq, not_true, h.group, h.keys, h.vault, h.up, h.area, h.entries, h.segs, hfc,
    Bool.false_eq_true, if_true]

theorem tooManySegs_onlyReads (h : onlyReads s t) (l : Bytes) (order : List CopyItem) :
    tooManySegs t l order = tooManySegs s l order := by
  unfold onlyReads at h
  rw [h]
  rfl

theorem prep_of_forecast {b fc : Bytes} (h : PrepSound x g rd v l (readCtl g.list g.tdid (64 * g.count) 1 s)) (hfc : oFcAddr b ≠ 0)
    (hrd : rd.forecast = some fc) (hrec : forecastBad x.list fc (oFcCount b) rd.rowLists = none)
    (hseg : tooManySegs (readCtl g.list g.tdid (64 * g.count) 1 s) x.list
      (buildOrder (forecastItems fc (oFcCount b) rd.rowLists ++ planItems x.list)) = false) :
    prep x g rd b s = prepGo x (buildOrder (forecastItems fc (oFcCount b) rd.rowLists ++ planItems x.list)) rd v
      (vaultLay (readCtl g.list g.tdid (64 * g.count) 1 s) v x.list)
      (readForecast x.q b rd.forecast (readCtl g.list g.tdid (64 * g.count) 1 s)) := by
  have hbase : ¬ (x.incr = true ∧ (!((lastSealed s x.plan).any fun m => m.num == x.base)) = true) := fun hn => by
    have hb : (lastSealed s x.plan).any (fun m => m.num == x.base) = true := h.base hn.1
    rw [hb] at hn
    exact absurd hn.2 (by decide)
  have hseg' := (tooManySegs_onlyReads (readForecast_onlyReads x.q b rd.forecast (readCtl g.list g.tdid (64 * g.count) 1 s)) x.list
    (buildOrder (forecastItems fc (oFcCount b) rd.rowLists ++ planItems x.list))).trans hseg
  rw [hrd] at hseg'
  unfold prep
  dsimp only
  simp only [hbase, if_false, h.list, h.crc, ne_eq, not_true, h.group, h.keys, h.vault, h.up, h.area, h.entries, h.segs, hfc,
    Bool.false_eq_true, hrd, hrec, hseg']

theorem banks_onlyReads (h : onlyReads s t) : capturedSealed t = capturedSealed s ∧ collBank t = collBank s ∧
    capBank t = capBank s ∧ t.flt = s.flt := by
  unfold onlyReads at h
  rw [h]
  exact ⟨rfl, rfl, rfl, rfl⟩

theorem setPhase_journal (e phase : Nat) (s : State) :
    onlyJournal (onEpoch e (fun x => { x with phase }) s) (setPhase e phase s) := by
  unfold setPhase
  split
  · exact onlyJournal_trans (kill_journal ..) (append_journal ..)
  · exact append_journal ..

theorem cap_onlyJournal (h : onlyJournal s t) : t.cap = s.cap ∧ t.adm = s.adm := by
  unfold onlyJournal at h
  rw [h]
  exact ⟨rfl, rfl⟩

/-- The state in which the checks of PREP begin: the epoch is in CUT. -/
def inCut (c : Cmd) (x : Epoch) (s : State) : State := setPhase c.epoch 1 { s with cap.epochs := Tab.put s.cap.epochs c.epoch x }

theorem inCut_keeps (c : Cmd) (x : Epoch) (s : State) : collBank (inCut c x s) = collBank s ∧
    capBank (inCut c x s) = capBank s ∧ (inCut c x s).cap.capOf = s.cap.capOf ∧ (inCut c x s).adm = s.adm := by
  obtain ⟨hcap, hadm⟩ := cap_onlyJournal (setPhase_journal c.epoch 1 { s with cap.epochs := Tab.put s.cap.epochs c.epoch x })
  unfold inCut
  rw [collBank, capBank, hcap, hadm]
  exact ⟨rfl, rfl, rfl, rfl⟩

theorem inCut_clean {store : Nat} (h : storeClean store s) (h3 : store ≠ 3) (h4 : store ≠ 4) (c : Cmd) (x : Epoch) :
    storeClean store (inCut c x s) :=
  storeClean_of_flipsLedger (flipsLedger_setPhase ..) h h3 h4

end EpochOpen

/-- Settles O28: a launch whose checks pass prepares the banks and the cut, one refused at its start ends there. -/
theorem epochOpen_meets : Obligations.EpochOpen := by
  unfold Obligations.EpochOpen
  refine ⟨?_, ?_, ?_, ?_⟩
  · intro s q seq c rd g x l v s1 order h hprep hgen hx hbase hanchor hs1 hclean hincr hlist hcrc hgroup hkeys hvault hup harea
      hentries hsegs horder
    obtain ⟨rfl, rfl⟩ := cmd?_q (ready_cmd h)
    have hopened : x = opened c g (onCmd c.q c.seq ranCmd s) := eq_opened hx hbase hanchor
    obtain ⟨hlistx, hplanx, hnumx, hqx⟩ : x.list = g.bytes ∧ x.plan = fld c.item 8 2 ∧ x.num = c.epoch ∧ x.q = c.q := by
      rw [hopened]; exact ⟨rfl, rfl, rfl, rfl⟩
    have hrun := (exec_epochOpen_of_due rd h.1 hprep).trans (congrArg Host.Outcome.next (runCmd_ready (openEpoch rd) h))
    rw [openEpoch_of_gen (s := onCmd c.q c.seq ranCmd s) rd hgen, ← hopened] at hrun
    change exec _ s = .next (prep x g rd c.item (inCut c x (onCmd c.q c.seq ranCmd s))) at hrun
    obtain ⟨hcoll0, hcap0, hof0, hadm0⟩ := inCut_keeps c x (onCmd c.q c.seq ranCmd s)
    have hclean0 := inCut_clean (s := onCmd c.q c.seq ranCmd s) hclean (by decide) (by decide) c x
    change s1 = readCtl g.list g.tdid (64 * g.count) 1 (inCut c x (onCmd c.q c.seq ranCmd s)) at hs1
    generalize inCut c x (onCmd c.q c.seq ranCmd s) = s0 at hrun hs1 hcoll0 hcap0 hof0 hadm0 hclean0
    have hsound : PrepSound x g rd v l s1 := by
      rw [← hlistx] at hcrc hgroup hkeys harea hentries hsegs hvault
      refine ⟨hincr, hlist, hcrc, hgroup, hkeys, ?_, hup, harea, hplanx ▸ hentries, hsegs⟩
      rw [vault?, hs1, readCtl_adm, hadm0]
      exact hvault
    have ht : exec (.epochOpen c.q c.seq rd) s = .next (prepGo x order rd v (vaultLay s1 v g.bytes)
        (if fld c.item 24 8 = 0 then s1 else readForecast c.q c.item rd.forecast s1)) := by
      rw [hrun, ← hlistx]
      rw [hs1] at hsound ⊢
      rcases horder with ⟨h0, rfl⟩ | ⟨h0, fc, hfc, hbad, rfl, hseg⟩
      · rw [if_pos h0, prep_of_sound hsound h0, hlistx]
      · rw [if_neg h0, prep_of_forecast hsound h0 hfc (hlistx ▸ hbad) (by rw [hlistx, ← hs1]; exact hseg), hlistx, hqx]
        rfl
    have hreads : onlyReads s1 (if fld c.item 24 8 = 0 then s1 else readForecast c.q c.item rd.forecast s1) := by
      split
      · rfl
      · exact readForecast_onlyReads ..
    obtain ⟨hcs, hcb, hpb, hflt⟩ := banks_onlyReads hreads
    have hclean1 : storeClean 5 s1 := storeClean_of_flt hclean0 (by rw [hs1]; rfl)
    obtain ⟨hcap, hcoll⟩ := prepGo_banks x order rd v (vaultLay s1 v g.bytes) (storeClean_of_flt hclean1 hflt)
    refine ⟨_, ht, rfl, ?_, hcap, hcoll.trans ?_⟩
    · rw [prepGo_eq, cutOf, hnumx, hlistx]
    · rw [hcs, hcb, hpb, capturedSealed]
      have hof1 : s1.cap.capOf = s.cap.capOf := by rw [hs1]; exact hof0
      have hcoll1 : collBank s1 = collBank s := by rw [hs1]; exact hcoll0
      have hcap1 : capBank s1 = capBank s := by rw [hs1]; exact hcap0
      rw [hof1, hcoll1, hcap1]
      simp only [Bool.or_eq_true, beq_iff_eq]
  · intro s q seq c rd h h0
    obtain ⟨-, hc, hst, -, -⟩ := due_spec h
    obtain ⟨off, hbad, hoff⟩ := bodyBad_of_own c.item (c.badDetail - 1)
    have hown : openRefused c (onCmd q seq ranCmd s) = [(c.badDetail - 1, true)] := if_pos h0
    refine ⟨_, off, exec_epochOpen_of_due rd h (by rw [prepReady, h0]; rfl), hoff, ?_⟩
    rw [runCmd_malformed (openEpoch rd) h (by rw [hown]; exact hbad)]
    exact finish_ends 3 off (cmd?_onCmd ranCmd (fun _ => ⟨rfl, rfl⟩) hc) (by simp [ranCmd, hst]) (.inl (by decide))
  · intro s q seq c rd h hp hfree
    rw [exec_epochOpen_of_wait rd h hp, prepWait, if_neg (by simp; omega)]
  · intro s q seq c rd h h0 hfree
    obtain ⟨rfl, rfl⟩ := cmd?_q (due_spec h).2.1
    have hp : prepReady c s = false := by
      rw [prepReady]
      simp [h0, hfree]
    rw [exec_epochOpen_of_wait rd h hp, prepWait, if_pos (by simp [h0, hfree])]

end Sys2Proof.Machine
end

section
/-! SUPPORT. PLAN_LAUNCH (R88, R137, R139, R289). -/

namespace Sys2Proof.Machine

section PlanLaunch

variable {q seq n : Nat} {c : Cmd} {s t u : State} {g : Gen} {v : Vault} {rd : LaunchReads} {l : Bytes}

/-! ### Contexts -/

theorem flipHook_frame (store lane : Nat) (s : State) : flipHook store lane s = { s with
    regs := { s.regs with flip := (flipHook store lane s).regs.flip }, flt := (flipHook store lane s).flt } := by
  unfold flipHook
  dsimp only
  split <;> rfl

/-- Writing lanes of a store changes what is known of errors, and SC_FLIP. -/
theorem lanesWrite_frame (store lane n : Nat) (s : State) : lanesWrite store lane n s = { s with
    regs := { s.regs with flip := (lanesWrite store lane n s).regs.flip }, flt := (lanesWrite store lane n s).flt } := by
  unfold lanesWrite
  dsimp only
  split
  · rfl
  · rw [flipHook_frame]

theorem lanesWrite_str (store lane n : Nat) (s : State) : (lanesWrite store lane n s).str = s.str := by
  rw [lanesWrite_frame]

theorem newCtx_str (k : Ctx) (s : State) :
    (newCtx k s).2.str = { s.str with ctxs := Tab.put s.str.ctxs (Tab.gap s.str.ctxs 0) k } := lanesWrite_str ..

/-- A table with one more value has at most one more of those that meet a test. -/
theorem length_filter_put {α : Type} (p : Nat × α → Bool) (t : Tab α) (k : Nat) (v : α) :
    ((Tab.put t k v).filter p).length ≤ (t.filter p).length + 1 := by
  have hcons : ∀ (e : Nat × α) (r : Tab α), ((e :: r).filter p).length ≤ (r.filter p).length + 1 := fun e r => by
    rw [List.filter_cons]
    split
    · exact Nat.le_refl _
    · exact Nat.le_succ _
  have hle : ∀ (e : Nat × α) (r : Tab α), (r.filter p).length ≤ ((e :: r).filter p).length := fun e r => by
    rw [List.filter_cons]
    split
    · exact Nat.le_succ _
    · exact Nat.le_refl _
  induction t with
  | nil => exact hcons (k, v) []
  | cons e r ih =>
    obtain ⟨j, w⟩ := e
    rw [Tab.put]
    split
    · exact hcons ..
    · split
      · exact (hcons (k, v) r).trans (Nat.succ_le_succ (hle (j, w) r))
      · rw [List.filter_cons, List.filter_cons]
        split
        · exact Nat.succ_le_succ ih
        · exact ih

/-! ### The streams that start -/

/-- The streams of a command that run. -/
def running (q seq : Nat) (s : State) : Nat := ((ctxsOfCmd s q seq).filter fun c => c.2.state != 5).length

/-- The stream that waits first takes a context. -/
def started (s : State) (x : Ctx × List Job) : State :=
  let r := newCtx { x.1 with state := creditState s x.1 } { s with str.starts := s.str.starts.erase x }
  { r.2 with str.jobs := r.2.str.jobs ++ x.2.map fun j => { j with ctx := r.1 } }

theorem startWaiting_succ (n q seq : Nat) (s : State) : startWaiting (n + 1) q seq s =
    match s.str.starts.find? fun x => x.1.q == q && x.1.seq == seq with
    | none => s
    | some x =>
      if 32 ≤ running q seq s then s
      else if ctxFree s = 0 then contextWait q seq s
      else startWaiting n q seq (started s x) := by
  rw [startWaiting]
  rfl

theorem started_str (s : State) (x : Ctx × List Job) : (started s x).str = { s.str with
    starts := s.str.starts.erase x
    ctxs := Tab.put s.str.ctxs (Tab.gap s.str.ctxs 0) { x.1 with state := creditState s x.1 }
    jobs := s.str.jobs ++ x.2.map fun j => { j with ctx := Tab.gap s.str.ctxs 0 } } := by
  have h := newCtx_str { x.1 with state := creditState s x.1 } { s with str.starts := s.str.starts.erase x }
  unfold started
  dsimp only
  rw [h]
  rfl

theorem running_started (s : State) (x : Ctx × List Job) : running q seq (started s x) ≤ running q seq s + 1 := by
  unfold running ctxsOfCmd
  rw [started_str, List.filter_filter, List.filter_filter]
  exact length_filter_put ..

theorem contextWait_str (q seq : Nat) (s : State) : (contextWait q seq s).str = s.str := by
  unfold contextWait
  split
  · rfl
  · split
    · rfl
    · have h := fun t => raise_events 0x0401 0 q seq t (onCmd q seq (fun x => { x with waited := true }) s)
      unfold onlyEvents at h
      rw [h]
      rfl

/-- At most 32 streams of a command run (R137). -/
theorem running_startWaiting (n : Nat) (s : State) (h : running q seq s ≤ 32) : running q seq (startWaiting n q seq s) ≤ 32 := by
  induction n generalizing s with
  | zero => exact h
  | succ n ih =>
    rw [startWaiting_succ]
    split
    · exact h
    · split
      · exact h
      · split
        · rw [running, ctxsOfCmd, contextWait_str]
          exact h
        · next hr _ => exact ih _ ((running_started ..).trans (by omega))

/-! ### PLAN_LAUNCH -/

theorem exec_planLaunch (rd : LaunchReads) (h : ready 0x49 q seq planLaunchBad c s) :
    exec (.planLaunch q seq rd) s = .next (planLaunch rd c (onCmd q seq ranCmd s)) :=
  congrArg _ (runCmd_ready (planLaunch rd) h)

theorem planLaunch_of_sound (hg : gen? s (fld c.item 8 2) c.gen = some g) (hs1 : t = readCtl g.list g.tdid (64 * g.count) 1 s)
    (hl : rd.list = some l) (hcrc : crcN (slice l 0 g.bytes.length) = g.crc) (hgroup : groupBad t g.bytes = false)
    (hkeys : planKeysBad t g.bytes = none) (hv : vault? s (hVault g.bytes) = some v) (hbad : vaultBad t v = none)
    (hentries : prepEntryBad t (fld c.item 8 2) g.bytes rd.headers = none) : planLaunch rd c s = launchRestore g rd v c t := by
  subst hs1
  have hv' : vault? (readCtl g.list g.tdid (64 * g.count) 1 s) (hVault g.bytes) = some v := hv
  have hg' : gen? (readCtl g.list g.tdid (64 * g.count) 1 s) (fld c.item 8 2) c.gen = some g := hg
  unfold planLaunch
  dsimp only
  rw [hg]
  dsimp only
  rw [hg', hl]
  dsimp only
  rw [if_neg (not_not.2 hcrc), if_neg (by rw [hgroup]; exact Bool.false_ne_true), hkeys, hv']
  dsimp only
  rw [hbad, hentries]

theorem planLaunch_of_unread (hg : gen? s (fld c.item 8 2) c.gen = some g)
    (hl : rd.list = none ∨ ∃ l, rd.list = some l ∧ crcN (slice l 0 g.bytes.length) ≠ g.crc) :
    planLaunch rd c s = malformed c.q c.seq 0xFE (readCtl g.list g.tdid (64 * g.count) 1 s) := by
  have hg' : gen? (readCtl g.list g.tdid (64 * g.count) 1 s) (fld c.item 8 2) c.gen = some g := hg
  unfold planLaunch
  dsimp only
  rw [hg]
  dsimp only
  rw [hg']
  rcases hl with hl | ⟨l, hl, hcrc⟩
  · rw [hl]
  · rw [hl]
    dsimp only
    rw [if_pos hcrc]

/-! ### The restore of its entries -/

theorem each_readCtl_frame {α : Type} (f : α → Nat × Nat × Nat × Nat) (l : List α) (s : State) :
    each l (fun x => readCtl (f x).1 (f x).2.1 (f x).2.2.1 (f x).2.2.2) s = { s with
      out.reads := s.out.reads ++ l.map fun x => ⟨(f x).1, (f x).2.1, (f x).2.2.1, (f x).2.2.2⟩ } := by
  unfold each
  induction l generalizing s with
  | nil => simp
  | cons a l ih =>
    rw [List.foldl_cons, ih]
    simp [readCtl]

/-- The reads of a vault's metadata when no buffer holds it: of each sector at its place, in the domain of the vault. -/
theorem readMeta_of_vault (v : Vault) (b : Bytes) (k : Nat) (sectors : Tab Bytes) (s : State) :
    readMeta v b none k [] sectors s = if vWhere v = 0 then { s with
      out.reads := s.out.reads ++ sectors.map fun x => ⟨vBase v + 4096 * x.1, vTdid v, 4096, k⟩ } else s := by
  unfold readMeta
  simp only [List.any_nil, Bool.and_false, Bool.false_eq_true, if_false]
  split
  · exact each_readCtl_frame (fun x => (vBase v + 4096 * x.1, vTdid v, 4096, k)) sectors s
  · unfold each
    induction sectors with
    | nil => rfl
    | cons a l ih => exact ih

/-- The state in which the streams of a launch wait to start. -/
def launchWaits (vid : Nat) (lay : Nat × Nat) (r : SealRec) (l : List (Ctx × List Job)) (s : State) : State :=
  { journalArea vid lay r.vid s with str.starts := s.str.starts ++ l }

theorem launchRestore_of_sound {lay : Nat × Nat} {r : SealRec} {rs : List SealRec} {l : List (Ctx × List Job)}
    (hs1 : t = readMeta v c.item none (cmdClass s c) [] rd.sectors s) (hlay : layoutRead t v rd.sectors = .inr lay)
    (hseals : sealsOf 4097 t rd.sectors (hVault g.bytes) v lay (fld c.item 12 4) = .inr (r :: rs))
    (hmis : launchMismatch t rd.sectors r g.bytes = none)
    (hjobs : allJobs t rd.sectors c (hVault g.bytes) (r :: rs) (launchOrder g.bytes) = .inr l) :
    launchRestore g rd v c s = settleRestores (launchWaits (hVault g.bytes) lay r l t) := by
  subst hs1
  unfold launchRestore
  dsimp only
  rw [hlay]
  dsimp only
  rw [hseals]
  dsimp only [List.head?_cons]
  rw [hmis]
  dsimp only
  rw [hjobs]
  rfl

end PlanLaunch

/-- Settles O29: a sound launch queues its streams, which start in order, at most 32 at once. -/
theorem planLaunch_meets : Obligations.PlanLaunch := by
  unfold Obligations.PlanLaunch
  refine ⟨?_, ?_, ?_, ?_, ?_⟩
  · intro s s1 q seq c rd g l v h hg hs1 hl hcrc hgroup hkeys hv hbad hentries
    rw [exec_planLaunch rd h]
    exact congrArg Host.Outcome.next (planLaunch_of_sound (s := onCmd q seq ranCmd s) hg hs1 hl hcrc hgroup hkeys hv hbad hentries)
  · intro g rd v c s s1 lay r rs l hs1 hlay hseals hmis hjobs
    refine ⟨launchWaits (hVault g.bytes) lay r l s1, launchRestore_of_sound hs1 hlay hseals hmis hjobs, ?_⟩
    rw [readMeta_of_vault] at hs1
    split at hs1
    · next h0 => subst hs1; exact ⟨rfl, rfl, rfl, rfl, rfl, fun hn => absurd h0 hn, fun _ => rfl⟩
    · next h0 => subst hs1; exact ⟨rfl, rfl, rfl, rfl, rfl, fun _ => rfl, fun hn => absurd hn h0⟩
  · intro s q seq c rd g h hg hl
    obtain ⟨rfl, rfl⟩ := cmd?_q (ready_cmd h)
    refine ⟨_, exec_planLaunch rd h, ?_⟩
    rw [planLaunch_of_unread (s := onCmd c.q c.seq ranCmd s) hg hl]
    exact finish_ends_of_ready 3 0xFE h rfl (.inl (by decide))
  · intro n q seq s run h
    exact running_startWaiting n s h
  · intro n q seq s x hx hrun
    have hrun' : ¬ 32 ≤ running q seq s := Nat.not_le.2 hrun
    rw [startWaiting_succ, hx]
    dsimp only
    rw [if_neg hrun']
    refine ⟨fun h0 => if_pos h0, fun hfree => ⟨started s x, _, if_neg (Nat.pos_iff_ne_zero.1 hfree), rfl, ?_⟩⟩
    rw [started_str]
    exact ⟨rfl, rfl, rfl⟩

end Sys2Proof.Machine
end

section
/-! SUPPORT. CAPTURE, ROW_CAPTURE and SEAL (R25, R99, R104, R137, R139, R153, R154, R281). -/

namespace Sys2Proof.Machine

section Captures

variable {op n q seq kind : Nat} {own : Cmd → State → List (Nat × Bool)} {c : Cmd} {s t u : State} {x : Epoch}
  {items : List (Nat × Nat)} {f : Cmd → State → State}

/-! ### How a CAPTURE or ROW_CAPTURE runs -/

/-- A command whose epoch was abandoned since its acceptance ends as that says. -/
def orInstead (f : Cmd → State → State) (c : Cmd) (s : State) : State :=
  match c.instead with
  | some r => finish c.q c.seq r.1 r.2 s
  | none => f c s

theorem runCapture_eq (h : due op q seq s = some c) : runCapture op n q seq own f s =
    if (bodyBad c.item (own c s)).isNone && phaseIn c s [2] && !ctxRooms s (fld c.item 8 4) n then contextWait q seq s
    else runCmd op q seq own (orInstead f) s := by
  have hf : runCmd op q seq own (fun c s => match c.instead with
      | some r => finish q seq r.1 r.2 s
      | none => f c s) s = runCmd op q seq own (orInstead f) s := by
    obtain ⟨rfl, rfl⟩ := cmd?_q (due_spec h).2.1
    unfold runCmd
    rw [h]
    dsimp only
    split
    · rfl
    · unfold orInstead
      cases c.instead <;> rfl
  unfold runCapture
  rw [h]
  exact if_congr Iff.rfl rfl hf

theorem runCapture_of_ready (h : ready op q seq own c s) (hroom : phaseIn c s [2] = false ∨ ctxRooms s (fld c.item 8 4) n = true) :
    runCapture op n q seq own f s = orInstead f c (onCmd q seq ranCmd s) := by
  rw [runCapture_eq h.1, if_neg, runCmd_ready _ h]
  rcases hroom with hp | hr
  · rw [hp, Bool.and_false, Bool.false_and]
    exact Bool.false_ne_true
  · rw [hr, Bool.not_true, Bool.and_false]
    exact Bool.false_ne_true

theorem runCapture_of_wait (h : due op q seq s = some c) (hb : bodyBad c.item (own c s) = none) (hp : phaseIn c s [2] = true)
    (hr : ctxRooms s (fld c.item 8 4) n = false) : runCapture op n q seq own f s = contextWait q seq s := by
  rw [runCapture_eq h, if_pos (by rw [hb, hp, hr]; rfl)]

/-- The offset of a field that offends bounds the offset that a command is refused at. -/
theorem bodyBad_of_mem {l : List (Nat × Bool)} {k : Nat} (b : Bytes) (h : (k, true) ∈ l) : ∃ off, bodyBad b l = some off ∧ off ≤ k := by
  have hmem : k ∈ flagsBad b ++ reservedBad b ++ offsets l :=
    List.mem_append_right _ (List.mem_map.2 ⟨(k, true), List.mem_filter.2 ⟨h, rfl⟩, rfl⟩)
  unfold bodyBad lowest
  cases hm : (flagsBad b ++ reservedBad b ++ offsets l).min? with
  | none => rw [List.min?_eq_none_iff.1 hm] at hmem; cases hmem
  | some m => exact ⟨m, rfl, (List.min?_eq_some_iff.1 hm).2 k hmem⟩

/-- A command of an epoch in another phase is refused at its epoch field, or before it (R99). -/
theorem runCapture_of_phase (h : due op q seq s = some c) (hp : phaseIn c s [2] = false)
    (hown : (8, true) ∈ own c (onCmd q seq ranCmd s)) :
    ∃ off, off ≤ 8 ∧ ends q seq 3 off (onCmd q seq ranCmd s) (runCapture op n q seq own f s) := by
  obtain ⟨-, hc, hst, -, -⟩ := due_spec h
  obtain ⟨off, hbad, hoff⟩ := bodyBad_of_mem c.item hown
  refine ⟨off, hoff, ?_⟩
  rw [runCapture_eq h, if_neg (by rw [hp, Bool.and_false, Bool.false_and]; exact Bool.false_ne_true), runCmd_malformed _ h hbad]
  exact finish_ends 3 off (cmd?_onCmd ranCmd (fun _ => ⟨rfl, rfl⟩) hc) (by simp [ranCmd, hst]) (.inl (by decide))

/-- With STATUS OK the DETAIL that is given does not show, unless a head or a count does. -/
theorem finish_ends_as {r : Nat × Nat} (h : cmd? s q seq = some c) (hd : c.st ≠ .durable) (hh : c.headPos = none) (hn : c.count = 0) :
    ends q seq r.1 (if r.1 = 0 then 0 else r.2) s (finish q seq r.1 r.2 s) := by
  by_cases h0 : r.1 = 0
  · have heq : finish q seq r.1 r.2 s = finish q seq 0 0 s := by
      unfold finish
      rw [h, h0]
      simp [hh, hn]
    rw [heq, if_pos h0, h0]
    exact finish_ends 0 0 h hd (.inr (.inl rfl))
  · rw [if_neg h0]
    exact finish_ends _ _ h hd (.inl h0)

/-- The command as it ends in place of running. -/
theorem runCapture_of_instead {r : Nat × Nat} (h : ready op q seq own c s) (hp : phaseIn c s [2] = false) (hi : c.instead = some r)
    (hh : c.headPos = none) (hn : c.count = 0) :
    ends q seq r.1 (if r.1 = 0 then 0 else r.2) (onCmd q seq ranCmd s) (runCapture op n q seq own f s) := by
  obtain ⟨rfl, rfl⟩ := cmd?_q (ready_cmd h)
  rw [runCapture_of_ready h (.inl hp), orInstead, hi]
  exact finish_ends_as (ready_ran h) (ready_live h) hh hn

theorem phaseIn_of_phase {l : List Nat} (hx : epoch? s (fld c.item 8 4) = some x) : phaseIn c s l = l.contains x.phase := by
  rw [phaseIn, namedEpoch, hx]
  rfl

/-! ### The stream of a command -/

/-- The state once a command's items are named and its stream has a context. -/
def captured (kind : Nat) (items : List (Nat × Nat)) (x : Epoch) (c : Cmd) (s : State) : State :=
  (newCtx (sourceCtx s x c.q c.seq (fld c.item 12 4) kind) (captureItems items c s)).2

theorem captureStream_of_epoch (hx : epoch? s (fld c.item 8 4) = some x) :
    captureStream kind items c s = settleAll (captured kind items x c s) := by
  rw [captureStream, namedEpoch, hx]
  rfl

/-- A command with its items named. -/
def withItems (items : List (Nat × Nat)) (y : Cmd) : Cmd := { y with items }

/-- An epoch whose entry was named: released when it was DEFERRED, else its items come first. -/
def itemsReleased (entry : Nat) (items : List (Nat × Nat)) (y : Epoch) : Epoch :=
  if y.deferred.contains entry then { y with deferred := y.deferred.filter (· != entry) }
  else { y with order := frontOrder entry items y.order }

theorem lanesWrite_cap (store lane n : Nat) (s : State) : (lanesWrite store lane n s).cap = s.cap := by
  rw [lanesWrite_frame]

theorem captured_cmd (hc : cmd? s c.q c.seq = some c) :
    (cmd? (captured kind items x c s) c.q c.seq).map (·.items) = some items := by
  have hcmd : cmd? (captured kind items x c s) c.q c.seq = some (withItems items c) := by
    rw [captured, newCtx, cmd?_of_cmds (congrArg Ledger.cmds (lanesWrite_ldg ..))]
    exact cmd?_onCmd (withItems items) (fun _ => ⟨rfl, rfl⟩) hc
  rw [hcmd]
  rfl

theorem captured_epoch (hx : epoch? s (fld c.item 8 4) = some x) :
    epoch? (captured kind items x c s) (fld c.item 8 4) = some (itemsReleased (fld c.item 12 4) items x) := by
  rw [captured, newCtx, epoch?, lanesWrite_cap]
  change Tab.get? (Tab.upd s.cap.epochs (fld c.item 8 4) (itemsReleased (fld c.item 12 4) items)) (fld c.item 8 4) = _
  rw [Tab.get?_upd, if_pos rfl]
  exact (congrArg (Option.map _) hx).trans rfl

theorem itemsReleased_deferred (entry : Nat) (items : List (Nat × Nat)) (x : Epoch) :
    (itemsReleased entry items x).deferred = x.deferred.filter (· != entry) := by
  unfold itemsReleased
  split
  · rfl
  · next h =>
    refine (List.filter_eq_self.2 fun a ha => bne_iff_ne.2 fun hae => h ?_).symm
    exact List.contains_iff_mem.2 (hae ▸ ha)

theorem itemsReleased_order (entry : Nat) (items : List (Nat × Nat)) (x : Epoch) :
    (itemsReleased entry items x).order = if x.deferred.contains entry then x.order else frontOrder entry items x.order := by
  unfold itemsReleased
  split <;> rfl

theorem captured_ctxs : (captured kind items x c s).str.ctxs =
    Tab.put s.str.ctxs (Tab.gap s.str.ctxs 0) (sourceCtx s x c.q c.seq (fld c.item 12 4) kind) := by
  rw [captured, newCtx_str]
  rfl

/-- The context of a stream that reads an epoch's entry. -/
theorem sourceCtx_spec (hc : cmd? s q seq = some c) (entry : Nat) :
    (sourceCtx s x q seq entry kind).kind = kind ∧ (sourceCtx s x q seq entry kind).cls = 4 ∧
    (sourceCtx s x q seq entry kind).epoch = x.num ∧ (sourceCtx s x q seq entry kind).entry = entry ∧
    (sourceCtx s x q seq entry kind).q = q ∧ (sourceCtx s x q seq entry kind).seq = seq ∧
    (sourceCtx s x q seq entry kind).slot = c.slot := by
  refine ⟨rfl, rfl, rfl, rfl, rfl, rfl, ?_⟩
  change ((cmd? s q seq).map (·.slot)).getD 0 = c.slot
  rw [hc]
  rfl

/-- What a CAPTURE or a ROW_CAPTURE of one range does (R25, R99, R137). -/
theorem captured_spec (hc : cmd? s q seq = some (ranCmd c)) (hq : c.q = q) (hs : c.seq = seq)
    (hx : epoch? s (fld c.item 8 4) = some x) (hnum : x.num = fld c.item 8 4) :
    (cmd? (captured kind items x c s) q seq).map (·.items) = some items ∧
    (epoch? (captured kind items x c s) x.num).map (·.deferred) = some (x.deferred.filter (· != fld c.item 12 4)) ∧
    (epoch? (captured kind items x c s) x.num).map (·.order) = some (if x.deferred.contains (fld c.item 12 4) then x.order
      else frontOrder (fld c.item 12 4) items x.order) ∧
    (captured kind items x c s).str.ctxs = Tab.put s.str.ctxs (Tab.gap s.str.ctxs 0) (sourceCtx s x q seq (fld c.item 12 4) kind) := by
  subst hq hs
  rw [hnum, captured_epoch hx, Option.map_some, Option.map_some, itemsReleased_deferred, itemsReleased_order]
  have hitems := captured_cmd (kind := kind) (items := items) (x := x) (c := ranCmd c) hc
  exact ⟨hitems, rfl, rfl, captured_ctxs⟩

/-! ### The listed ROW_CAPTURE -/

theorem exec_capture (q seq : Nat) (s : State) : exec (.capture q seq) s =
    .next (runCapture 0x41 1 q seq captureBadFields (fun c s => captureStream 0 [(fld c.item 16 8 / 65536,
      if fld c.item 24 8 = 0 then eSize (namedEntry c s) / 65536 - fld c.item 16 8 / 65536 else fld c.item 24 8 / 65536)] c s) s) := rfl

theorem exec_rowCapture_of_one (h : due 0x42 q seq s = some c) (h1 : isTwo c = false) : exec (.rowCapture q seq) s =
    .next (runCapture 0x42 1 q seq rowCaptureBad (fun c s => captureStream 1 [(fld c.item 16 8, fld c.item 24 8)] c s) s) := by
  change Host.Outcome.next (match due 0x42 q seq s with | none => s | some c => _) = _
  rw [h]
  dsimp only
  rw [if_neg (by rw [h1]; exact Bool.false_ne_true)]

theorem exec_rowCapture_of_two (h : due 0x42 q seq s = some c) (h2 : isTwo c = true) : exec (.rowCapture q seq) s =
    .next (runCapture 0x42 2 q seq rowCaptureBad startList s) := by
  change Host.Outcome.next (match due 0x42 q seq s with | none => s | some c => _) = _
  rw [h]
  dsimp only
  rw [if_pos h2]

/-- A ROW_CAPTURE runs as one of either form. -/
theorem exec_rowCapture (h : due 0x42 q seq s = some c) : ∃ n f, n = (if itemSlots c.item = 2 then 2 else 1) ∧
    exec (.rowCapture q seq) s = .next (runCapture 0x42 n q seq rowCaptureBad f s) := by
  by_cases h2 : itemSlots c.item = 2
  · exact ⟨2, _, (if_pos h2).symm, exec_rowCapture_of_two h (by rw [isTwo, h2]; rfl)⟩
  · exact ⟨1, _, (if_neg h2).symm, exec_rowCapture_of_one h (beq_eq_false_iff_ne.2 h2)⟩

/-- The context of the index stream of a list. -/
def listCtx (c : Cmd) (x : Epoch) (s : State) : Ctx := { streamCtx s c.q c.seq 2 4 with
  epoch := x.num, entry := fld c.item 12 4, tdid := fld c.item 84 2, remain := fld c.item 80 4 }

/-- The context of the data stream that it drives. -/
def drivenCtx (c : Cmd) (x : Epoch) (s : State) : Ctx :=
  { sourceCtx (newCtx (listCtx c x s) s).2 x c.q c.seq (fld c.item 12 4) 3 with linked := true, link := Tab.gap s.str.ctxs 0 }

theorem startList_of_epoch (hx : epoch? s (fld c.item 8 4) = some x) : startList c s =
    onCtx (Tab.gap s.str.ctxs 0) (fun k => { k with link := Tab.gap (newCtx (listCtx c x s) s).2.str.ctxs 0 })
      (newCtx (drivenCtx c x s) (newCtx (listCtx c x s) s).2).2 := by
  rw [startList, namedEpoch, hx]
  rfl

theorem newCtx_keeps (k : Ctx) (s : State) : (newCtx k s).2.cap = s.cap ∧ (newCtx k s).2.out = s.out := by
  have h := lanesWrite_frame 2 (6 * Tab.gap s.str.ctxs 0) 6
    { s with str.ctxs := Tab.put s.str.ctxs (Tab.gap s.str.ctxs 0) k }
  rw [newCtx, h]
  exact ⟨rfl, rfl⟩

theorem startList_spec (hx : epoch? s (fld c.item 8 4) = some x) :
    (startList c s).str.ctxs = (Tab.upd (Tab.put (Tab.put s.str.ctxs (Tab.gap s.str.ctxs 0) (listCtx c x s))
        (Tab.gap (Tab.put s.str.ctxs (Tab.gap s.str.ctxs 0) (listCtx c x s)) 0) (drivenCtx c x s)) (Tab.gap s.str.ctxs 0)
        fun k => { k with link := Tab.gap (Tab.put s.str.ctxs (Tab.gap s.str.ctxs 0) (listCtx c x s)) 0 }) ∧
    (startList c s).cap = s.cap ∧ (startList c s).out = s.out := by
  rw [startList_of_epoch hx]
  obtain ⟨hcap1, hout1⟩ := newCtx_keeps (listCtx c x s) s
  obtain ⟨hcap2, hout2⟩ := newCtx_keeps (drivenCtx c x s) (newCtx (listCtx c x s) s).2
  rw [onCtx_str, onCtx_cap, onCtx_out, hcap2, hout2, newCtx_str, newCtx_str]
  exact ⟨rfl, hcap1, hout1⟩

/-! ### The pages of a list -/

theorem cmds_stopStreams (p : Ctx → Bool) (s : State) : (stopStreams p s).ldg = s.ldg := by
  rw [stopStreams_frame]

/-- The rows of a page. -/
def pageRows (c : Cmd) (data : HostRead) : List Nat := listRows (data.getD []) (min 512 (fld c.item 80 4 - c.items.length))

variable {k : Ctx} {ctx : Nat} {data : HostRead}

theorem listPage_of_bad (hk : Tab.get? s.str.ctxs ctx = some k) (hc : cmd? s k.q k.seq = some c) (hx : epoch? s k.epoch = some x)
    (hst : c.st = .started) (hbad : data = none ∨ ∃ r ∈ pageRows c data, eSize (entryAt x.list k.entry) ≤ r) :
    ∃ u, listPage ctx data s = settleAll u ∧
      ends c.q c.seq 3 72 (stopStreams (fun y => y.q == c.q && y.seq == c.seq && y.epoch == x.num) s) u := by
  obtain ⟨hq, hs⟩ := cmd?_q hc
  have hcond : (data.isNone || (pageRows c data).any fun r => decide (eSize (entryAt x.list k.entry) ≤ r)) = true := by
    rcases hbad with rfl | ⟨r, hr, hle⟩
    · rfl
    · rw [Bool.or_eq_true]
      exact .inr (List.any_eq_true.2 ⟨r, hr, decide_eq_true hle⟩)
  refine ⟨_, ?_, finish_ends 3 72 (c := c) ?_ (by simp [hst]) (.inl (by decide))⟩
  · simp only [listPage, hk, hc, hx]
    exact if_pos hcond
  · rw [cmd?, cmds_stopStreams, hq, hs]
    exact hc

theorem listPage_of_good (hk : Tab.get? s.str.ctxs ctx = some k) (hc : cmd? s k.q k.seq = some c) (hx : epoch? s k.epoch = some x)
    (hdata : data ≠ none) (hrows : ∀ r ∈ pageRows c data, r < eSize (entryAt x.list k.entry)) :
    listPage ctx data s = if (c.items ++ (pageRows c data).map fun r => (r, 1)).length < fld c.item 80 4 then
        onCmd c.q c.seq (withItems (c.items ++ (pageRows c data).map fun r => (r, 1))) s
      else settleAll (captureItems (c.items ++ (pageRows c data).map fun r => (r, 1)) c
        { onCmd c.q c.seq (withItems (c.items ++ (pageRows c data).map fun r => (r, 1))) s with
          str.ctxs := Tab.del s.str.ctxs ctx }) := by
  have hcond : ¬ (data.isNone || (pageRows c data).any fun r => decide (eSize (entryAt x.list k.entry) ≤ r)) = true := by
    rw [Bool.or_eq_true, not_or]
    refine ⟨fun h => hdata (Option.isNone_iff_eq_none.1 h), fun h => ?_⟩
    obtain ⟨r, hr, hle⟩ := List.any_eq_true.1 h
    exact absurd (hrows r hr) (Nat.not_lt.2 (of_decide_eq_true hle))
  simp only [listPage, hk, hc, hx]
  exact if_neg hcond

/-! ### SEAL -/

theorem exec_seal (h : ready 0x43 q seq sealBad c s) : exec (.sealCmd q seq) s = .next (runSeal c (onCmd q seq ranCmd s)) :=
  congrArg _ (runCmd_ready runSeal h)

theorem runSeal_of_abandoned (hx : epoch? s (fld c.item 8 4) = some x) (hp : x.phase = 6) :
    runSeal c s = finish c.q c.seq x.why.1 x.why.2 s := by
  rw [runSeal, namedEpoch, hx]
  exact if_pos hp

theorem runSeal_of_sealed (hx : epoch? s (fld c.item 8 4) = some x) (hp : x.phase = 5) : runSeal c s = endSeal x s := by
  rw [runSeal, namedEpoch, hx]
  dsimp only
  rw [if_neg (by omega), if_pos hp]

theorem epoch?_onEpoch (e : Nat) (f : Epoch → Epoch) (hx : epoch? s e = some x) : epoch? (onEpoch e f s) e = some (f x) := by
  change Tab.get? (Tab.upd s.cap.epochs e f) e = _
  rw [Tab.get?_upd, if_pos rfl]
  exact (congrArg (Option.map f) hx).trans rfl

theorem epoch?_setPhase (e phase : Nat) (hx : epoch? s e = some x) : epoch? (setPhase e phase s) e = some { x with phase } := by
  rw [epoch?, (cap_onlyJournal (setPhase_journal e phase s)).1]
  exact epoch?_onEpoch e _ hx

/-- The epoch once its SEAL is known. -/
def sealing (c : Cmd) (y : Epoch) : Epoch := { y with sealCmd := some (c.q, c.seq) }

/-- SEAL of a drained epoch enters SEALING and builds the seal record (R72, R281, R282). -/
theorem runSeal_of_drained {v : Vault} {a : Layout} (hclean : storeClean 13 s) (hx : epoch? s (fld c.item 8 4) = some x)
    (hnum : x.num = fld c.item 8 4) (h5 : x.phase ≠ 5) (h6 : x.phase ≠ 6) (hp : x.poison = false) (hw : writerRecords x ≤ 2048)
    (hslots : slotsBad (onEpoch x.num (sealing c) s) (hDataKey x.list) (hHmac x.list) = none)
    (hvault : epochVault (onEpoch x.num (sealing c) s) x = some (v, a)) :
    runSeal c s = startSeal { sealing c x with phase := 4, fenceGen := s.adm.selfGen } v a
      (onEpoch x.num (fun y => { y with fenceGen := s.adm.selfGen }) (setPhase x.num 4 (onEpoch x.num (sealing c) s))) := by
  have hclean' : storeClean 13 (onEpoch x.num (sealing c) s) := hclean
  have hepoch : epoch? (onEpoch x.num (fun y => { y with fenceGen := s.adm.selfGen })
      (setPhase x.num 4 (onEpoch x.num (sealing c) s))) x.num = some { sealing c x with phase := 4, fenceGen := s.adm.selfGen } :=
    epoch?_onEpoch _ _ (epoch?_setPhase _ _ (epoch?_onEpoch _ _ (hnum ▸ hx)))
  rw [runSeal, namedEpoch, hx]
  dsimp only
  rw [if_neg h6, if_neg h5, if_neg (by rw [hp]; exact Bool.false_ne_true), if_neg (Nat.not_lt.2 hw)]
  have hread : readKeys [hDataKey x.list, 256 + hHmac x.list]
      (onEpoch x.num (fun y => { y with sealCmd := some (c.q, c.seq) }) s) = onEpoch x.num (sealing c) s :=
    readKeys_of_clean _ hclean'
  rw [hread, hslots, hvault]
  dsimp only
  rw [onEpoch_adm, hepoch]

/-- A SEAL whose epoch is SEALED, with whether replicas differed (R104). -/
def divergedAs (x : Epoch) (y : Cmd) : Cmd := { y with bad := if x.diverged then 0x0A else 0 }

theorem endSeal_of_command (hs : x.sealCmd = some (q, seq)) (hc : cmd? s q seq = some c) : endSeal x s =
    endWithResult q seq (fld c.item 16 8) (fld c.item 24 2) 16 x.hallmark
      (onCmd q seq (fun y => { y with bad := if x.diverged then 0x0A else 0 }) s) := by
  have hc' := cmd?_onCmd (divergedAs x) (fun _ => ⟨rfl, rfl⟩) hc
  change cmd? (onCmd q seq (fun y => { y with bad := if x.diverged then 0x0A else 0 }) s) q seq = _ at hc'
  unfold endSeal
  rw [hs]
  dsimp only
  rw [hc']
  rfl

theorem sealBad_of_sealed (h : bodyBad c.item (sealBad c s) = none) (hx : epoch? s (fld c.item 8 4) = some x) (hp : x.phase = 5) :
    x.sealCmd = some (c.q, c.seq) := by
  by_contra hne
  have hmem : (8, true) ∈ sealBad c s := by
    have hd : drained x = false := by simp [drained, hp]
    rw [sealBad, namedEpoch, hx]
    simp [hd, hp, hne]
  obtain ⟨off, hoff, -⟩ := bodyBad_of_mem c.item hmem
  rw [hoff] at h
  cases h

/-- A CAPTURE that is not refused names an entry of plates, which the list has. -/
theorem namedEntry_of_capture (h : bodyBad c.item (captureBadFields c s) = none) (hx : epoch? s (fld c.item 8 4) = some x)
    (hp : phaseIn c s [2] = true) : namedEntry c s = entryAt x.list (fld c.item 12 4) := by
  have hknown : mayCapture c s = true := by rw [mayCapture, hp, Bool.true_or]
  have hkind : ¬ (12, true) ∈ captureBadFields c s := fun hmem => by
    obtain ⟨off, hoff, -⟩ := bodyBad_of_mem c.item hmem
    rw [hoff] at h
    cases h
  rw [namedEntry, namedEpoch, hx]
  dsimp only
  refine if_pos ?_
  by_contra hlt
  refine hkind ?_
  have hzero : namedEntry c s = zeros 64 := by
    rw [namedEntry, namedEpoch, hx]
    exact if_neg hlt
  have hbad : (eKind (zeros 64) != 1) = true := by decide
  rw [captureBadFields, hzero, hknown, hbad]
  exact List.mem_cons_of_mem _ (List.mem_cons_self ..)

theorem cmdClass_of_seal (h : itemOp c.item = 0x43) : cmdClass s c = 4 := by
  unfold cmdClass
  exact if_pos (by omega)

end Captures

/-- Settles O30: what a CAPTURE, a ROW_CAPTURE or a SEAL does in each phase of the epoch that it names. -/
theorem captureAndSealCommands : Obligations.CaptureAndSealCommands := by
  unfold Obligations.CaptureAndSealCommands
  refine ⟨?_, ?_, ?_, ?_, ?_, ?_, ?_, ?_, ?_, ?_, ?_⟩
  · intro s q seq c x h hi hx hp hnum hroom first n
    have hin : namedEntry (c := c) (onCmd q seq ranCmd s) = entryAt x.list (fld c.item 12 4) :=
      namedEntry_of_capture h.2 hx (by rw [phaseIn_of_phase (s := onCmd q seq ranCmd s) hx, hp]; rfl)
    obtain ⟨hitems, hdef, hord, hctx⟩ := captured_spec (items := [(first, n)]) (kind := 0) (ready_ran h) (ready_q h) (ready_seq h)
      (s := onCmd q seq ranCmd s) hx hnum
    refine ⟨_, _, ?_, hitems, hdef, hord, hctx, sourceCtx_spec (ready_ran h) (fld c.item 12 4)⟩
    rw [exec_capture, runCapture_of_ready h (.inr (hnum ▸ hroom)), orInstead, hi]
    refine congrArg Host.Outcome.next ?_
    rw [hin]
    exact captureStream_of_epoch hx
  · intro s q seq c x h hi hx hp hnum h1 hroom items
    obtain ⟨hitems, hdef, hord, hctx⟩ := captured_spec (items := items) (kind := 1) (ready_ran h) (ready_q h) (ready_seq h)
      (s := onCmd q seq ranCmd s) hx hnum
    refine ⟨_, _, ?_, hitems, hdef, hord, hctx, sourceCtx_spec (ready_ran h) (fld c.item 12 4)⟩
    rw [exec_rowCapture_of_one h.1 (by rw [isTwo, h1]; rfl), runCapture_of_ready h (.inr (hnum ▸ hroom)), orInstead, hi]
    exact congrArg Host.Outcome.next (captureStream_of_epoch hx)
  · intro s q seq c x h hi hx hp h2 hroom
    obtain ⟨hctx, hcap, hout⟩ := startList_spec (s := onCmd q seq ranCmd s) (c := c) hx
    have hq := ready_q h
    have hs := ready_seq h
    refine ⟨_, listCtx c x (onCmd q seq ranCmd s), drivenCtx c x (onCmd q seq ranCmd s),
      (exec_rowCapture_of_two h.1 (by rw [isTwo, h2]; rfl)).trans ?_, ⟨rfl, hq, hs, rfl, rfl, rfl⟩,
      ⟨rfl, hq, hs, rfl, rfl, rfl, rfl⟩, hctx, by rw [hcap]; rfl, hout⟩
    rw [runCapture_of_ready h (.inr hroom), orInstead, hi]
  · intro s q seq n c hn h hb hp hroom
    obtain ⟨m, f, hm, hexec⟩ := exec_rowCapture h
    rw [hexec, runCapture_of_wait h hb hp (by rw [hm, ← hn]; exact hroom)]
  · intro s q seq c h hb hp hroom
    rw [exec_capture, runCapture_of_wait h hb hp hroom]
  · intro s q seq c x r hx hp hi hh hcount
    have hp2 : phaseIn c s [2] = false := by rw [phaseIn_of_phase hx, hp]; rfl
    refine ⟨fun h => ⟨_, exec_capture .., runCapture_of_instead h hp2 hi hh hcount⟩, fun h => ?_⟩
    obtain ⟨m, f, -, hexec⟩ := exec_rowCapture h.1
    exact ⟨_, hexec, runCapture_of_instead h hp2 hi hh hcount⟩
  · intro s q seq c hp hi
    have hno : mayCapture c (onCmd q seq ranCmd s) = false := by
      rw [mayCapture, hi, show phaseIn c (onCmd q seq ranCmd s) [2] = phaseIn c s [2] from rfl, hp]
      rfl
    refine ⟨fun h => ?_, fun h => ?_⟩
    · obtain ⟨off, hoff, hends⟩ := runCapture_of_phase (n := 1) (own := captureBadFields) (f := fun c s => captureStream 0
        [(fld c.item 16 8 / 65536, if fld c.item 24 8 = 0 then eSize (namedEntry c s) / 65536 - fld c.item 16 8 / 65536
          else fld c.item 24 8 / 65536)] c s) h hp (by rw [captureBadFields, hno]; exact List.mem_cons_self ..)
      exact ⟨_, off, exec_capture .., hoff, hends⟩
    · obtain ⟨m, f, -, hexec⟩ := exec_rowCapture h
      obtain ⟨off, hoff, hends⟩ := runCapture_of_phase (n := m) (own := rowCaptureBad) (f := f) h hp
        (by rw [rowCaptureBad, hno]; exact List.mem_append_left _ (List.mem_cons_self ..))
      exact ⟨_, off, hexec, hoff, hends⟩
  · intro s ctx k c x data hk hc hx hst rows items
    refine ⟨fun hbad => listPage_of_bad hk hc hx hst hbad, fun hdata hrows => ?_⟩
    have hgood := listPage_of_good hk hc hx hdata hrows
    exact ⟨fun hlt => hgood.trans (if_pos hlt), fun hle => hgood.trans (if_neg (Nat.not_lt.2 hle))⟩
  · intro s q seq c x v a u h hclean hx hnum h5 h6 hp hw hu hslots hvault
    subst hu
    obtain ⟨rfl, rfl⟩ := cmd?_q (ready_cmd h)
    exact (exec_seal h).trans (congrArg Host.Outcome.next
      (runSeal_of_drained (s := onCmd c.q c.seq ranCmd s) hclean hx hnum h5 h6 hp hw hslots hvault))
  · intro s q seq c x h hx hp hh hcount
    obtain ⟨rfl, rfl⟩ := cmd?_q (ready_cmd h)
    refine ⟨_, exec_seal h, ?_⟩
    rw [runSeal_of_abandoned (s := onCmd c.q c.seq ranCmd s) hx hp]
    exact finish_ends_as (ready_ran h) (ready_live h) hh hcount
  · intro s u q seq c x h hx hp hu
    subst hu
    obtain ⟨rfl, rfl⟩ := cmd?_q (ready_cmd h)
    have hcmd : x.sealCmd = some (c.q, c.seq) := sealBad_of_sealed (s := onCmd c.q c.seq ranCmd s) h.2 hx hp
    have hrun := (exec_seal h).trans (congrArg Host.Outcome.next ((runSeal_of_sealed (s := onCmd c.q c.seq ranCmd s) hx hp).trans
      (endSeal_of_command hcmd (ready_ran h))))
    have hc' := cmd?_onCmd (divergedAs x) (fun _ => ⟨rfl, rfl⟩) (ready_ran h)
    change cmd? (onCmd c.q c.seq (fun y => { y with bad := if x.diverged then 0x0A else 0 }) _) _ _ = _ at hc'
    unfold endWithResult at hrun
    rw [hc'] at hrun
    dsimp only at hrun
    rw [show (ranCmd c).item = c.item from rfl] at hrun
    have hran := ready_live h
    have hop0 := ready_op h
    have hlive : (divergedAs x (ranCmd c)).st ≠ .durable := hran
    have hop : itemOp (divergedAs x (ranCmd c)).item = 0x43 := hop0
    refine ⟨fun h0 hd => ?_, fun h0 => ?_⟩
    · rw [if_pos h0, show (divergedAs x (ranCmd c)).badDetail = 0 from hd] at hrun
      exact ⟨_, hrun, finish_ends _ 0 hc' hlive (.inr (.inl rfl))⟩
    · rw [hrun, if_neg h0, cmdClass_of_seal (c := divergedAs x (ranCmd c)) hop]

end Sys2Proof.Machine
end

section
/-! SUPPORT. RESTORE and GATHER_RESTORE (R84, R137, R139, R153, R285 to R288). -/

namespace Sys2Proof.Machine

section Restores

variable {op n q seq : Nat} {own : Cmd → State → List (Nat × Bool)} {c : Cmd} {s t u w : State} {sectors : Tab Bytes} {v : Vault}
  {lay : Nat × Nat} {l : Link} {ls : List Link} {f : State → State} {go : List Link → State → State}

/-! ### Waiting for contexts -/

theorem waitCtx_of_room (h : due op q seq s = some c) (hroom : n ≤ ctxFree s) : waitCtx op n q seq own f s = f s := by
  unfold waitCtx
  rw [h]
  dsimp only
  rw [if_neg]
  rw [decide_eq_false (Nat.not_lt.2 hroom), Bool.and_false]
  exact Bool.false_ne_true

theorem waitCtx_of_wait (h : due op q seq s = some c) (hb : bodyBad c.item (own c s) = none) (hroom : ctxFree s < n) :
    waitCtx op n q seq own f s = contextWait q seq s := by
  unfold waitCtx
  rw [h]
  dsimp only
  rw [if_pos]
  rw [hb, decide_eq_true hroom]
  rfl

theorem exec_restore (sectors : Tab Bytes) (h : ready 0x44 q seq restoreBad c s) (hroom : 0 < ctxFree s) :
    exec (.restore q seq sectors) s = .next (startRestore sectors c (restoreGo sectors c) (onCmd q seq ranCmd s)) := by
  change Host.Outcome.next (waitCtx 0x44 1 q seq restoreBad _ s) = _
  rw [waitCtx_of_room h.1 hroom]
  exact congrArg Host.Outcome.next (runCmd_ready (fun c => startRestore sectors c (restoreGo sectors c)) h)

theorem exec_gatherRestore (sectors : Tab Bytes) (h : ready 0x45 q seq gatherBad c s) (hroom : 2 ≤ ctxFree s) :
    exec (.gatherRestore q seq sectors) s = .next (startRestore sectors c (gatherGo sectors c) (onCmd q seq ranCmd s)) := by
  change Host.Outcome.next (waitCtx 0x45 2 q seq gatherBad _ s) = _
  rw [waitCtx_of_room h.1 hroom]
  exact congrArg Host.Outcome.next (runCmd_ready (fun c => startRestore sectors c (gatherGo sectors c)) h)

/-! ### What both restores share -/

/-- The state once the grant of a restore's buffer has been used. -/
def usedGrant (b : Bytes) (s : State) : State := when (srcBuf b) (useGrant (fld b 22 2)) s

theorem usedGrant_frame (b : Bytes) (s : State) :
    ∃ rs gs, usedGrant b s = { s with out.reads := rs, ldg.grantUsed := gs } := by
  unfold usedGrant when
  split
  · exact ⟨_, _, useGrant_frame ..⟩
  · exact ⟨s.out.reads, s.ldg.grantUsed, rfl⟩

/-- The refusal of the buffer that a restore names. -/
def bufBad (s : State) (q : Nat) (b : Bytes) : Option Bool := if srcBuf b then bufCheck s q (fld b 22 2) (fld b 24 4) else none

theorem startRestore_of_vault (hv : vault? s (fld c.item 8 4) = some v) (hbad : vaultBad s v = none) :
    startRestore sectors c go s = match bufBad (usedGrant c.item s) c.q c.item with
      | some f => bufFault c.q c.seq (fld c.item 22 2) (fld c.item 24 4) f (usedGrant c.item s)
      | none => match chainFor (usedGrant c.item s) sectors c.item with
        | .inl f => failRestore c.q c.seq f
            (readMeta v c.item none (cmdClass (usedGrant c.item s) c) [] sectors (usedGrant c.item s))
        | .inr links =>
          let s := readMeta v c.item (bufOf (usedGrant c.item s) c.item) (cmdClass (usedGrant c.item s) c) links sectors
            (usedGrant c.item s)
          go links (match layoutRead s v sectors with
            | .inr lay => journalArea (fld c.item 8 4) lay ((links.head?.map (·.r.vid)).getD (fld c.item 8 4)) s
            | .inl _ => s) := by
  rw [startRestore, hv]
  dsimp only
  rw [hbad]
  rfl

theorem sealsOf_grant (rs : List CtlRead) (gs : List Nat) (sectors : Tab Bytes) (vid : Nat) (v : Vault) (lay : Nat × Nat) (n e : Nat) :
    sealsOf n { s with out.reads := rs, ldg.grantUsed := gs } sectors vid v lay e = sealsOf n s sectors vid v lay e := by
  induction n generalizing e with
  | zero => rfl
  | succ n ih =>
    simp only [sealsOf, ih]
    rfl

theorem linksOf_grant (rs : List CtlRead) (gs : List Nat) (sectors : Tab Bytes) (n : Nat) (l : List SealRec) :
    linksOf { s with out.reads := rs, ldg.grantUsed := gs } sectors n l = linksOf s sectors n l := by
  induction l with
  | nil => rfl
  | cons r l ih =>
    simp only [linksOf, ih]
    rfl

theorem streamLinks_grant (rs : List CtlRead) (gs : List Nat) (sectors : Tab Bytes) (l : List SealRec) (n : Nat) :
    streamLinks { s with out.reads := rs, ldg.grantUsed := gs } sectors l n = streamLinks s sectors l n := by
  simp only [streamLinks, linksOf_grant]
  rfl

theorem chainFor_grant (rs : List CtlRead) (gs : List Nat) (sectors : Tab Bytes) (b : Bytes) :
    chainFor { s with out.reads := rs, ldg.grantUsed := gs } sectors b = chainFor s sectors b := by
  unfold chainFor
  simp only [sealsOf_grant, streamLinks_grant]
  rfl

theorem usedGrant_keeps (b : Bytes) (s : State) : (∀ q, bufBad (usedGrant b s) q b = bufBad s q b) ∧
    (∀ sectors, chainFor (usedGrant b s) sectors b = chainFor s sectors b) ∧ bufOf (usedGrant b s) b = bufOf s b ∧
    (∀ c, cmdClass (usedGrant b s) c = cmdClass s c) := by
  obtain ⟨rs, gs, h⟩ := usedGrant_frame b s
  rw [h]
  exact ⟨fun _ => rfl, fun _ => chainFor_grant .., rfl, fun _ => rfl⟩

theorem startRestore_of_chain (hv : vault? s (fld c.item 8 4) = some v) (hbad : vaultBad s v = none)
    (hbuf : bufBad s c.q c.item = none) (hchain : chainFor s sectors c.item = .inr (l :: ls))
    (hw : w = readMeta v c.item (bufOf s c.item) (cmdClass s c) (l :: ls) sectors (usedGrant c.item s))
    (hlay : layoutRead w v sectors = .inr lay) :
    startRestore sectors c go s = go (l :: ls) (journalArea (fld c.item 8 4) lay l.r.vid w) := by
  obtain ⟨kbuf, kchain, kof, kcls⟩ := usedGrant_keeps c.item s
  rw [startRestore_of_vault hv hbad, kbuf, hbuf, kchain, hchain]
  dsimp only
  rw [kof, kcls, ← hw, hlay]
  rfl

theorem startRestore_of_refused {f : RFail} (hv : vault? s (fld c.item 8 4) = some v) (hbad : vaultBad s v = none)
    (hbuf : bufBad s c.q c.item = none) (hchain : chainFor s sectors c.item = .inl f) :
    startRestore sectors c go s = failRestore c.q c.seq f (readMeta v c.item none (cmdClass s c) [] sectors (usedGrant c.item s)) := by
  obtain ⟨kbuf, kchain, -, kcls⟩ := usedGrant_keeps c.item s
  rw [startRestore_of_vault hv hbad, kbuf, hbuf, kchain, hchain, kcls]

theorem startRestore_of_buf {f : Bool} (hv : vault? s (fld c.item 8 4) = some v) (hbad : vaultBad s v = none)
    (hbuf : bufBad s c.q c.item = some f) :
    startRestore sectors c go s = bufFault c.q c.seq (fld c.item 22 2) (fld c.item 24 4) f (usedGrant c.item s) := by
  rw [startRestore_of_vault hv hbad, (usedGrant_keeps c.item s).1, hbuf]

theorem bufBad_of_check (h : srcBuf c.item = true → bufCheck s q (fld c.item 22 2) (fld c.item 24 4) = none) :
    bufBad s q c.item = none := by
  unfold bufBad
  split
  · next hs => exact h hs
  · rfl

theorem readMeta_onlyReads (v : Vault) (b : Bytes) (buf : Option (Nat × Nat)) (k : Nat) (links : List Link) (sectors : Tab Bytes)
    (s : State) : onlyReads s (readMeta v b buf k links sectors s) := by
  unfold readMeta
  refine each_onlyReads (fun x s => ?_) _ _
  dsimp only
  split
  · split
    · rfl
    · split <;> rfl
  · split <;> rfl

/-- What reading the metadata and keeping the layout leave as it was. -/
theorem restoreBefore_keeps (hw : w = readMeta v c.item (bufOf s c.item) (cmdClass s c) (l :: ls) sectors (usedGrant c.item s))
    (hu : u = journalArea (fld c.item 8 4) lay l.r.vid w) : u.cap = s.cap ∧ u.str = s.str ∧ u.regs = s.regs ∧ u.ring = s.ring := by
  have hreads := readMeta_onlyReads v c.item (bufOf s c.item) (cmdClass s c) (l :: ls) sectors (usedGrant c.item s)
  rw [← hw] at hreads
  obtain ⟨rs, gs, hg⟩ := usedGrant_frame c.item s
  rw [hg] at hreads
  unfold onlyReads at hreads
  rw [hu, hreads]
  exact ⟨rfl, rfl, rfl, rfl⟩

/-! ### RESTORE and GATHER_RESTORE once the chain is known -/

/-- The context of a RESTORE. -/
def restoreTo (sectors : Tab Bytes) (c : Cmd) (links : List Link) (s : State) : Ctx :=
  { restoreCtx s c 4 (sourceVault c.item) sectors links with
    lo := fld c.item 32 8, hi := fld c.item 32 8 + fld c.item 40 8, dest := fld c.item 32 8, remain := fld c.item 40 8 }

/-- The state once a RESTORE has its context and its jobs. -/
def restoring1 (sectors : Tab Bytes) (c : Cmd) (links : List Link) (js : List Job) (s : State) : State :=
  { (newCtx (restoreTo sectors c links s) s).2 with
    str.jobs := (newCtx (restoreTo sectors c links s) s).2.str.jobs ++ js }

theorem restoreGo_of_sound {ps : List Piece} {js : List Job} (hlen : fld c.item 72 8 + fld c.item 40 8 ≤ ihBytes l.h)
    (hps : (if ihKind l.h = 2 then
        tablePieces s sectors (l :: ls) (max 1 (ihRow l.h)) (fld c.item 72 8) (fld c.item 40 8) (fld c.item 32 8)
      else rangePieces s sectors (l :: ls) l.h (fld c.item 72 8) (fld c.item 40 8) (fld c.item 32 8)) = .ok ps)
    (hbuf : bufRefused s c.item (l :: ls) ps = false)
    (hjs : jobsOf s sectors (l :: ls) { ctx := Tab.gap s.str.ctxs 0, vault := fld c.item 8 4, buf := bufOf s c.item } true ps = .ok js) :
    restoreGo sectors c (l :: ls) s = restoring1 sectors c (l :: ls) js s := by
  unfold restoreGo
  dsimp only [List.head?_cons]
  rw [if_neg (Nat.not_lt.2 hlen), hps]
  dsimp only
  rw [if_neg (by rw [hbuf]; exact Bool.false_ne_true), hjs]
  rfl

theorem restoring1_spec (sectors : Tab Bytes) (c : Cmd) (links : List Link) (js : List Job) (s : State) :
    (restoring1 sectors c links js s).str.jobs = s.str.jobs ++ js ∧
    (restoring1 sectors c links js s).str.ctxs = Tab.put s.str.ctxs (Tab.gap s.str.ctxs 0) (restoreTo sectors c links s) ∧
    (restoring1 sectors c links js s).ldg = s.ldg ∧ (restoring1 sectors c links js s).adm = s.adm ∧
    (restoring1 sectors c links js s).cap = s.cap ∧ (restoring1 sectors c links js s).out = s.out := by
  obtain ⟨hcap, hout⟩ := newCtx_keeps (restoreTo sectors c links s) s
  have hstr := newCtx_str (restoreTo sectors c links s) s
  refine ⟨?_, ?_, lanesWrite_ldg .., lanesWrite_adm .., hcap, hout⟩
  · change (newCtx _ s).2.str.jobs ++ js = _
    rw [hstr]
  · change (newCtx _ s).2.str.ctxs = _
    rw [hstr]

theorem streamCtx_runs (h : sh s 0x408 ≠ 1) (q seq kind cls : Nat) : (streamCtx s q seq kind cls).state = 2 := by
  have hcredit : (sh s 0x408 == 1) = false := beq_eq_false_iff_ne.2 h
  unfold streamCtx
  dsimp only
  rw [hcredit]
  rfl

/-- The context of the index stream of a GATHER_RESTORE. -/
def gatherList (c : Cmd) (s : State) : Ctx :=
  { streamCtx s c.q c.seq 2 (cmdClass s c) with tdid := fld c.item 82 2, remain := fld c.item 72 8 }

/-- The context of the data stream that it drives. -/
def gatherData (sectors : Tab Bytes) (c : Cmd) (l : Link) (ls : List Link) (s : State) : Ctx :=
  { restoreCtx (newCtx (gatherList c s) s).2 c 3 (sourceVault c.item) sectors (l :: ls) with
    lo := fld c.item 32 8, hi := fld c.item 32 8 + ihSize l.h * ihRow l.h, unit := ihRow l.h, dest := fld c.item 32 8
    remain := fld c.item 72 8 * ihRow l.h, linked := true, link := Tab.gap s.str.ctxs 0 }

theorem gatherGo_of_sound (hrow : fld c.item 80 2 = ihRow l.h) (hkind : ihKind l.h = 2)
    (hbuf : bufRefused s c.item (l :: ls) [] = false) : gatherGo sectors c (l :: ls) s =
    onCtx (Tab.gap s.str.ctxs 0) (fun y => { y with link := Tab.gap (newCtx (gatherList c s) s).2.str.ctxs 0 })
      (newCtx (gatherData sectors c l ls s) (newCtx (gatherList c s) s).2).2 := by
  unfold gatherGo
  dsimp only [List.head?_cons]
  rw [if_neg (by rw [hrow, hkind]; simp), if_neg (by rw [hbuf]; exact Bool.false_ne_true)]
  rfl

theorem gatherGo_ctxs (hrow : fld c.item 80 2 = ihRow l.h) (hkind : ihKind l.h = 2)
    (hbuf : bufRefused s c.item (l :: ls) [] = false) : (gatherGo sectors c (l :: ls) s).str.ctxs =
    Tab.upd (Tab.put (Tab.put s.str.ctxs (Tab.gap s.str.ctxs 0) (gatherList c s))
      (Tab.gap (Tab.put s.str.ctxs (Tab.gap s.str.ctxs 0) (gatherList c s)) 0) (gatherData sectors c l ls s)) (Tab.gap s.str.ctxs 0)
      fun y => { y with link := Tab.gap (Tab.put s.str.ctxs (Tab.gap s.str.ctxs 0) (gatherList c s)) 0 } := by
  rw [gatherGo_of_sound hrow hkind hbuf, onCtx_str, newCtx_str, newCtx_str]

end Restores

/-- Settles O31: a restore whose chain reads takes its contexts, one that is refused ends, and one without contexts waits. -/
theorem restoreCommands : Obligations.RestoreCommands := by
  unfold Obligations.RestoreCommands
  refine ⟨?_, ?_, ?_, ?_, ?_, ?_⟩
  · intro s q seq c sectors v lay l ls ps js w u h hroom hv hbad hbuf hchain hw hlay hu hlen hps hrefused hjs
    obtain ⟨rfl, rfl⟩ := cmd?_q (ready_cmd h)
    have hstart := startRestore_of_chain (s := onCmd c.q c.seq ranCmd s) (go := restoreGo sectors c) hv hbad
      (bufBad_of_check (s := onCmd c.q c.seq ranCmd s) hbuf) hchain hw hlay
    obtain ⟨hcap, hstr, hregs, hring⟩ := restoreBefore_keeps (s := onCmd c.q c.seq ranCmd s) hw hu
    obtain ⟨kjobs, kctxs, kldg, kadm, kcap, kout⟩ := restoring1_spec sectors c (l :: ls) js u
    have hgap : u.str = s.str := hstr
    rw [← hu, restoreGo_of_sound hlen hps hrefused (by rw [hgap]; exact hjs)] at hstart
    rw [hgap] at kjobs kctxs
    have hcls : cmdClass u c = cmdClass s c := by
      rw [cmdClass, cmdClass, queue?, queue?, hring]
      rfl
    refine ⟨_, _, (exec_restore sectors h hroom).trans (congrArg Host.Outcome.next hstart), kjobs, kctxs,
      ⟨rfl, hcls, rfl, rfl, rfl, rfl, rfl, rfl, rfl, fun h8 => ?_⟩, kldg, kadm, kcap.trans hcap, kout⟩
    refine streamCtx_runs ?_ ..
    rw [sh, hregs]
    exact h8
  · intro s q seq c sectors f h hroom hv hsrc hbuf
    obtain ⟨v, hv, hbad⟩ := hv
    obtain ⟨rfl, rfl⟩ := cmd?_q (ready_cmd h)
    have hb : bufBad (onCmd c.q c.seq ranCmd s) c.q c.item = some f := by
      rw [bufBad, if_pos hsrc]
      exact hbuf
    rw [exec_restore sectors h hroom, startRestore_of_buf (s := onCmd c.q c.seq ranCmd s) hv hbad hb, usedGrant, when, if_pos hsrc]
  · intro s q seq c sectors v f h hroom hv hbad hbuf hchain
    obtain ⟨rfl, rfl⟩ := cmd?_q (ready_cmd h)
    exact (exec_restore sectors h hroom).trans (congrArg Host.Outcome.next (startRestore_of_refused
      (s := onCmd c.q c.seq ranCmd s) hv hbad (bufBad_of_check (s := onCmd c.q c.seq ranCmd s) hbuf) hchain))
  · intro s q seq c sectors
    refine ⟨fun h hb hroom => ?_, fun h hb hroom => ?_⟩
    · exact congrArg Host.Outcome.next (waitCtx_of_wait h hb (by omega))
    · exact congrArg Host.Outcome.next (waitCtx_of_wait h hb hroom)
  · intro s w q seq c sectors v lay l ls h hroom hv hbad hbuf hchain hw hlay
    obtain ⟨rfl, rfl⟩ := cmd?_q (ready_cmd h)
    exact (exec_gatherRestore sectors h hroom).trans (congrArg Host.Outcome.next (startRestore_of_chain
      (s := onCmd c.q c.seq ranCmd s) hv hbad (bufBad_of_check (s := onCmd c.q c.seq ranCmd s) hbuf) hchain hw hlay))
  · intro s sectors c l ls hrow hkind hbuf t i
    exact ⟨gatherList c s, gatherData sectors c l ls s, ⟨rfl, rfl, rfl, rfl, rfl⟩, ⟨rfl, rfl, rfl, rfl, rfl, rfl, rfl⟩,
      gatherGo_ctxs hrow hkind hbuf⟩

end Sys2Proof.Machine
end

section
/-! SUPPORT. DIGEST and CHECKVALUE (R84, R97, R137, R198, R200, R225, R226, R258). -/

namespace Sys2Proof.Machine

section Checks

variable {op n q seq ctx off : Nat} {own : Cmd → State → List (Nat × Bool)} {c m : Cmd} {k : Ctx} {s t u : State} {v : Vault}
  {g : Grant} {e : Bytes} {f : Cmd → State → State}

theorem exec_digest (h : ready 0x46 q seq digestBad c s) (hroom : 0 < ctxFree s) :
    exec (.digest q seq) s = .next (digest c (onCmd q seq ranCmd s)) := by
  change Host.Outcome.next (waitCtx 0x46 1 q seq digestBad _ s) = _
  rw [waitCtx_of_room h.1 hroom]
  exact congrArg Host.Outcome.next (runCmd_ready digest h)

theorem exec_checkvalue (h : ready 0x47 q seq checkvalueBad c s) (hroom : 0 < ctxFree s) :
    exec (.checkvalue q seq) s = .next (checkvalue c (onCmd q seq ranCmd s)) := by
  change Host.Outcome.next (waitCtx 0x47 1 q seq checkvalueBad _ s) = _
  rw [waitCtx_of_room h.1 hroom]
  exact congrArg Host.Outcome.next (runCmd_ready checkvalue h)

/-- A command that would wait for contexts is refused first (R12). -/
theorem waitCtx_of_malformed (h : due op q seq s = some c) (hb : bodyBad c.item (own c s) = some off)
    (hran : own c (onCmd q seq ranCmd s) = own c s) :
    ends q seq 3 off (onCmd q seq ranCmd s) (waitCtx op n q seq own (runCmd op q seq own f) s) := by
  obtain ⟨-, hc, hst, -, -⟩ := due_spec h
  unfold waitCtx
  rw [h]
  dsimp only
  rw [hb, if_neg (by simp), runCmd_malformed f h (by rw [hran]; exact hb)]
  exact finish_ends 3 off (cmd?_onCmd ranCmd (fun _ => ⟨rfl, rfl⟩) hc) (by simp [ranCmd, hst]) (.inl (by decide))

/-! ### The start of a DIGEST -/

/-- The vault that a DIGEST reads cannot be used. -/
def digestDown (s : State) (b : Bytes) : Bool :=
  fld b 8 1 == 0 && (vault? s (fld b 12 4)).any fun v => (vaultBad s v).isSome

theorem digest_of_range (hclean : storeClean 13 s) (hsrc : fld c.item 8 1 ≠ 1) : digest c s =
    match digestKey s c.item with
    | some d => if digestDown s c.item then finish c.q c.seq 0x0F 1 s else finish c.q c.seq 0x0E d s
    | none => if digestDown s c.item then finish c.q c.seq 0x0F 1 s else settleChecked (startDigest c s) := by
  unfold digest
  dsimp only
  rw [readKeys_of_clean _ hclean, beq_eq_false_iff_ne.2 hsrc, if_neg hsrc, show when false (useGrant (fld c.item 10 2)) s = s from rfl]
  cases digestKey s c.item <;> rfl

theorem digest_of_down (hclean : storeClean 13 s) (hsrc : fld c.item 8 1 ≠ 1) (hdown : digestDown s c.item = true) :
    digest c s = finish c.q c.seq 0x0F 1 s := by
  rw [digest_of_range hclean hsrc, hdown]
  split <;> rfl

theorem digest_of_key {d : Nat} (hclean : storeClean 13 s) (hsrc : fld c.item 8 1 ≠ 1) (hdown : digestDown s c.item = false)
    (hkey : digestKey s c.item = some d) : digest c s = finish c.q c.seq 0x0E d s := by
  rw [digest_of_range hclean hsrc, hdown, hkey]
  rfl

theorem digest_of_sound (hclean : storeClean 13 s) (hsrc : fld c.item 8 1 ≠ 1) (hdown : digestDown s c.item = false)
    (hkey : digestKey s c.item = none) : digest c s = settleChecked (startDigest c s) := by
  rw [digest_of_range hclean hsrc, hdown, hkey]
  rfl

theorem digestDown_of_src (h : fld c.item 8 1 ≠ 0) : digestDown s c.item = false := by
  rw [digestDown, beq_eq_false_iff_ne.2 h, Bool.false_and]

theorem digestDown_of_vault (h : fld c.item 8 1 = 0) (hv : vault? s (fld c.item 12 4) = some v) :
    digestDown s c.item = (vaultBad s v).isSome := by
  rw [digestDown, h, hv]
  rfl

/-- The buffer that a DIGEST names is used before it is checked. -/
theorem digest_of_buffer (hclean : storeClean 13 s) (hsrc : fld c.item 8 1 = 1) : digest c s =
    match bufCheck s c.q (fld c.item 10 2) (fld c.item 12 4) with
    | some f => bufFault c.q c.seq (fld c.item 10 2) (fld c.item 12 4) f (useGrant (fld c.item 10 2) s)
    | none => match digestKey s c.item with
      | some d => finish c.q c.seq 0x0E d (useGrant (fld c.item 10 2) s)
      | none => settleChecked (startDigest c (useGrant (fld c.item 10 2) s)) := by
  have hg := useGrant_frame (fld c.item 10 2) s
  have hb : bufCheck (useGrant (fld c.item 10 2) s) c.q (fld c.item 10 2) (fld c.item 12 4) =
      bufCheck s c.q (fld c.item 10 2) (fld c.item 12 4) := by rw [hg]; rfl
  have hk : digestKey (useGrant (fld c.item 10 2) s) c.item = digestKey s c.item := by rw [hg]; rfl
  unfold digest
  dsimp only
  rw [readKeys_of_clean _ hclean, hsrc, if_pos rfl,
    show when (1 == 1) (useGrant (fld c.item 10 2)) s = useGrant (fld c.item 10 2) s from rfl, hb, hk]
  cases bufCheck s c.q (fld c.item 10 2) (fld c.item 12 4) with
  | some f => rfl
  | none => cases digestKey s c.item <;> rfl

/-- The keys that a DIGEST's stream needs. -/
def digestKeys (b : Bytes) : List Nat := if fld b 9 1 = 0xFF then [] else [256 + fld b 9 1]

/-- The context of a DIGEST of fabric memory. -/
def rangeDigestCtx (c : Cmd) (s : State) : Ctx := { streamCtx s c.q c.seq 0 (cmdClass s c) with
  cursor := fld c.item 16 8, remain := fld c.item 24 8, keys := digestKeys c.item }

theorem startDigest_of_range (h : fld c.item 8 1 = 2) : startDigest c s = (newCtx (rangeDigestCtx c s) s).2 := by
  unfold startDigest
  dsimp only
  rw [if_pos h]
  rfl

/-- The context of a DIGEST of sectors. -/
def sectorDigestCtx (c : Cmd) (gen : Nat) (s : State) : Ctx := { streamCtx s c.q c.seq 4 (cmdClass s c) with
  cursor := fld c.item 16 8, remain := fld c.item 24 8, keys := digestKeys c.item, fenceGen := gen }

/-- The state once a stream has its context and its jobs. -/
def withJobs (k : Ctx) (js : List Job) (s : State) : State :=
  { (newCtx k s).2 with str.jobs := (newCtx k s).2.str.jobs ++ js }

theorem withJobs_spec (k : Ctx) (js : List Job) (s : State) : (withJobs k js s).str.jobs = s.str.jobs ++ js ∧
    (withJobs k js s).str.ctxs = Tab.put s.str.ctxs (Tab.gap s.str.ctxs 0) k ∧ (withJobs k js s).ldg = s.ldg ∧
    (withJobs k js s).out = s.out := by
  have hstr := newCtx_str k s
  refine ⟨?_, ?_, lanesWrite_ldg .., (newCtx_keeps k s).2⟩
  · change (newCtx _ s).2.str.jobs ++ js = _
    rw [hstr]
  · change (newCtx _ s).2.str.ctxs = _
    rw [hstr]

theorem startDigest_of_vault (h : fld c.item 8 1 = 0) (hv : vault? s (fld c.item 12 4) = some v) :
    startDigest c s = withJobs (sectorDigestCtx c (vaultGen s (fld c.item 12 4)) s)
      (digestJobs c (Tab.gap s.str.ctxs 0) (v.vid.getD (fld c.item 12 4)) none) s := by
  have hvid : digestVid c.item s = (v.vid.getD (fld c.item 12 4), s) := by
    rw [digestVid, if_pos h, hv]
    rfl
  have h1 : ¬ fld c.item 8 1 = 1 := by omega
  have h2 : ¬ fld c.item 8 1 = 2 := by omega
  unfold startDigest
  dsimp only
  rw [if_neg h2, hvid, if_neg h1]
  rfl

theorem startDigest_of_buffer (h : fld c.item 8 1 = 1) (hg : Tab.get? s.adm.grants (fld c.item 10 2) = some g) :
    startDigest c s = withJobs (sectorDigestCtx c 0 (free s).2)
      (digestJobs c (Tab.gap s.str.ctxs 0) ((free s).1.toNat % 2 ^ 32) (some (g.base, g.tdid))) (free s).2 := by
  have hvid : digestVid c.item s = ((free s).1.toNat % 2 ^ 32, (free s).2) := by rw [digestVid, if_neg (by omega)]
  have hg' : Tab.get? (free s).2.adm.grants (fld c.item 10 2) = some g := hg
  unfold startDigest
  dsimp only
  rw [if_neg (by omega), hvid, if_pos h, hg']
  rfl

theorem newCtx_spec (k : Ctx) (s : State) : (newCtx k s).2.str.jobs = s.str.jobs ∧
    (newCtx k s).2.str.ctxs = Tab.put s.str.ctxs (Tab.gap s.str.ctxs 0) k ∧ (newCtx k s).2.out = s.out := by
  rw [newCtx_str]
  exact ⟨rfl, rfl, (newCtx_keeps k s).2⟩

/-! ### Parts and rows -/

theorem get?_onCtx (i : Nat) (f : Ctx → Ctx) (h : Tab.get? s.str.ctxs i = some k) :
    Tab.get? (onCtx i f s).str.ctxs i = some (f k) := by
  rw [onCtx_str, Tab.get?_upd, if_pos rfl, h]
  rfl

theorem noteDrain_asm (i d : Nat) (h : Tab.get? s.str.ctxs i = some k) :
    ∃ y, Tab.get? (noteDrain i d s).str.ctxs i = some y ∧ y.asm = k.asm := by
  unfold noteDrain
  exact ⟨_, get?_onCtx i _ h, rfl⟩

theorem messagePart_spec (b : Blk) (part : Nat) (h : Tab.get? s.str.ctxs b.ctx = some k) :
    (Tab.get? (messagePart b part s).str.ctxs b.ctx).map (·.asm) = some (Tab.put k.asm part (blkBytes b, b.bad != 0)) ∧
    (messagePart b part s).str.blocks = s.str.blocks.filter fun x => x.id != b.id := by
  have hdrop : Tab.get? (dropBlk b.id s).str.ctxs b.ctx = some k := h
  obtain ⟨y, hy, hasm⟩ := noteDrain_asm b.ctx (blkBytes b).length hdrop
  refine ⟨?_, rfl⟩
  unfold messagePart
  dsimp only
  rw [get?_onCtx _ _ hy, Option.map_some, hasm]

theorem sectorsPart_of_good (b : Blk) (j : Job) (hbad : b.badUnits = []) (hb : (blk? s b.id).isSome = true) :
    sectorsPart b j s = messagePart b j.block (onCtx b.ctx (fun c => { c with remain := c.remain - 4096 * j.count }) s) := by
  have hs : sectorsBad b j s = s := by
    rw [sectorsBad, hbad]
    rfl
  unfold sectorsPart
  rw [hs]
  exact if_pos hb

/-- A CHECKVALUE with one more row counted. -/
def countRow (row : Nat) (wrong : Bool) (m : Cmd) : Cmd :=
  { m with items := [((cvCounts m).1 + 1, (cvCounts m).2.1 + b2n wrong),
      (if wrong && (cvCounts m).2.1 == 0 then row else (cvCounts m).2.2, 0)] }

theorem cvCounts_countRow (row : Nat) (wrong : Bool) (m : Cmd) : cvCounts (countRow row wrong m) =
    ((cvCounts m).1 + 1, (cvCounts m).2.1 + b2n wrong, if wrong && (cvCounts m).2.1 == 0 then row else (cvCounts m).2.2) := rfl

/-- The state once a row of a CHECKVALUE is counted. -/
def rowCounted (b : Blk) (row : Nat) (k : Ctx) (s : State) : State :=
  onCmd k.q k.seq (countRow row (b.cv.any (· != rowCv (eFormat (cvEntryOf k)) (blkBytes b))))
    (noteDrain b.ctx (blkBytes b).length (dropBlk b.id s))

theorem cmd?_rowCounted (b : Blk) (row : Nat) (hm : cmd? s k.q k.seq = some m) :
    cmd? (rowCounted b row k s) k.q k.seq =
      some (countRow row (b.cv.any (· != rowCv (eFormat (cvEntryOf k)) (blkBytes b))) m) :=
  cmd?_onCmd _ (fun _ => ⟨rfl, rfl⟩) (s := noteDrain b.ctx (blkBytes b).length (dropBlk b.id s)) hm

theorem cvRefresh_rowCounted (b : Blk) (row : Nat) (hm : cmd? s k.q k.seq = some m) :
    cvRefresh (rowCounted b row k s) k = cvRefresh s k := by
  rw [cvRefresh, cvRefresh, cmd?_rowCounted b row hm, hm]
  rfl

theorem cvArrived_of_good (b : Blk) (row : Nat) (hk : Tab.get? s.str.ctxs b.ctx = some k) (ht : b.tries ≠ 1) (hbad : b.bad = 0)
    (hm : cmd? s k.q k.seq = some m) : cvArrived b row s =
      if cvRefresh s k = true then groupOp { region := k.lo, group := row / 128, fresh := 2 ^ (row % 128)
                                             vals := [(row, rowCv (eFormat (cvEntryOf k)) (blkBytes b))] } (rowCounted b row k s)
      else rowCounted b row k s := by
  rw [← cvRefresh_rowCounted b row hm]
  unfold cvArrived
  rw [hk]
  dsimp only
  rw [if_neg ht, if_neg (not_not.2 hbad)]
  rfl

/-! ### The end of a check -/

/-- The state in which the result of a check leaves: its context is free. -/
def ctxDone (ctx : Nat) (s : State) : State := { s with str.ctxs := Tab.del s.str.ctxs ctx }

theorem checkOver_of_digest (hop : itemOp m.item = 0x46) : checkOver ctx k m s = match digestKey s m.item with
    | some d => finish k.q k.seq 0x0E d (ctxDone ctx s)
    | none => sendResult m (fld m.item 32 8) (fld m.item 40 2) 32
        (digestOf s (fld m.item 9 1) ((Tab.vals k.asm).flatMap (·.1))) (ctxDone ctx s) := by
  unfold checkOver
  dsimp only
  rw [if_neg (by omega)]
  rfl

theorem checkOver_of_checkvalue (hop : itemOp m.item = 0x47) : checkOver ctx k m s =
    sendResult m (fld m.item 40 8) (fld m.item 48 2) 40
      (toLE 8 (cvCounts m).1 ++ toLE 4 (cvCounts m).2.1 ++ toLE 4 (cvCounts m).2.2) (ctxDone ctx s) := by
  unfold checkOver
  dsimp only
  rw [if_pos hop]
  rfl

/-! ### The start of a CHECKVALUE -/

/-- The context of a CHECKVALUE. -/
def cvCtx (c : Cmd) (e : Bytes) (s : State) : Ctx := { streamCtx s c.q c.seq 1 (cmdClass s c) with
  entry := fld c.item 12 4, cursor := itemAddr e (fld c.item 16 8), remain := fld c.item 24 8 * eRow e, lo := eTrack e
  known := [(0, e)] }

theorem checkvalue_of_entry (h : cvEntry c s = some e) : checkvalue c s =
    (newCtx (cvCtx c e (openTable (fld c.item 8 2) (fld c.item 12 4) e s)) (openTable (fld c.item 8 2) (fld c.item 12 4) e s)).2 := by
  rw [checkvalue, h]
  rfl

theorem openTable_spec (plan n : Nat) (e : Bytes) (s : State) : (region? (openTable plan n e s) (eTrack e)).isSome = true ∧
    ((region? s (eTrack e)).isSome = true → (openTable plan n e s).cap = s.cap) ∧ (openTable plan n e s).out = s.out ∧
    (openTable plan n e s).str = s.str ∧ (openTable plan n e s).ring = s.ring := by
  unfold openTable
  split
  · next h => exact ⟨h, fun _ => rfl, rfl, rfl, rfl⟩
  · next h =>
    refine ⟨?_, fun hs => absurd hs h, rfl, rfl, rfl⟩
    rw [region?]
    dsimp only
    rw [Tab.get?_put_self]
    rfl

end Checks

/-- Settles O32: a check starts its stream, keeps what it brings, and its result leaves. -/
theorem checkCommands : Obligations.CheckCommands := by
  unfold Obligations.CheckCommands
  refine ⟨?_, ?_, ?_, ?_, ?_, ?_, ?_, ?_, ?_, ?_, ?_, ?_, ?_, ?_⟩
  · intro s q seq c h hclean hroom hsrc hkey
    obtain ⟨rfl, rfl⟩ := cmd?_q (ready_cmd h)
    obtain ⟨hjobs, hctxs, hout⟩ := newCtx_spec (rangeDigestCtx c (onCmd c.q c.seq ranCmd s)) (onCmd c.q c.seq ranCmd s)
    have hrun := digest_of_sound (s := onCmd c.q c.seq ranCmd s) (c := c) hclean (by omega) (digestDown_of_src (by omega)) hkey
    rw [startDigest_of_range hsrc] at hrun
    exact ⟨_, _, (exec_digest h hroom).trans (congrArg Host.Outcome.next hrun), hctxs, ⟨rfl, rfl, rfl, rfl, rfl, rfl, rfl⟩, hjobs, hout⟩
  · intro s q seq c v h hclean hroom hsrc hkey hv hbad
    obtain ⟨rfl, rfl⟩ := cmd?_q (ready_cmd h)
    have hv' : vault? (onCmd c.q c.seq ranCmd s) (fld c.item 12 4) = some v := hv
    have hdown : digestDown (onCmd c.q c.seq ranCmd s) c.item = false := by
      rw [digestDown_of_vault hsrc hv', show vaultBad (onCmd c.q c.seq ranCmd s) v = vaultBad s v from rfl, hbad]
      rfl
    have hrun := digest_of_sound (s := onCmd c.q c.seq ranCmd s) (c := c) hclean (by omega) hdown hkey
    rw [startDigest_of_vault hsrc hv'] at hrun
    obtain ⟨hjobs, hctxs, -, hout⟩ := withJobs_spec (sectorDigestCtx c (vaultGen (onCmd c.q c.seq ranCmd s) (fld c.item 12 4))
      (onCmd c.q c.seq ranCmd s)) (digestJobs c (Tab.gap s.str.ctxs 0) (v.vid.getD (fld c.item 12 4)) none)
      (onCmd c.q c.seq ranCmd s)
    exact ⟨_, _, (exec_digest h hroom).trans (congrArg Host.Outcome.next hrun), hctxs, ⟨rfl, rfl, rfl, rfl, rfl, rfl⟩, hjobs, hout⟩
  · intro s q seq c g h hclean hroom hsrc hkey hbuf hg
    obtain ⟨rfl, rfl⟩ := cmd?_q (ready_cmd h)
    have hframe := useGrant_frame (fld c.item 10 2) (onCmd c.q c.seq ranCmd s)
    have hrun := digest_of_buffer (s := onCmd c.q c.seq ranCmd s) (c := c) hclean hsrc
    rw [show bufCheck (onCmd c.q c.seq ranCmd s) c.q (fld c.item 10 2) (fld c.item 12 4) = none from hbuf,
      show digestKey (onCmd c.q c.seq ranCmd s) c.item = none from hkey] at hrun
    dsimp only at hrun
    have hout : (useGrant (fld c.item 10 2) (onCmd c.q c.seq ranCmd s)).out = (useGrant (fld c.item 10 2) s).out := by
      rw [hframe, useGrant_frame (fld c.item 10 2) s]
      rfl
    have hused : (useGrant (fld c.item 10 2) (onCmd c.q c.seq ranCmd s)).ldg.grantUsed =
        (useGrant (fld c.item 10 2) s).ldg.grantUsed := by
      rw [hframe, useGrant_frame (fld c.item 10 2) s]
      rfl
    obtain ⟨hadm, hstr, hring⟩ : (useGrant (fld c.item 10 2) (onCmd c.q c.seq ranCmd s)).adm = s.adm ∧
        (useGrant (fld c.item 10 2) (onCmd c.q c.seq ranCmd s)).str = s.str ∧
        (useGrant (fld c.item 10 2) (onCmd c.q c.seq ranCmd s)).ring = s.ring := by
      rw [hframe]
      exact ⟨rfl, rfl, rfl⟩
    generalize useGrant (fld c.item 10 2) (onCmd c.q c.seq ranCmd s) = u at hrun hout hused hadm hstr hring
    rw [startDigest_of_buffer hsrc (by rw [hadm]; exact hg)] at hrun
    obtain ⟨kjobs, kctxs, kldg, kout⟩ := withJobs_spec (sectorDigestCtx c 0 (free u).2)
      (digestJobs c (Tab.gap u.str.ctxs 0) ((free u).1.toNat % 2 ^ 32) (some (g.base, g.tdid))) (free u).2
    have hstr' : (free u).2.str = s.str := hstr
    rw [hstr'] at kjobs kctxs
    have hcls : cmdClass (free u).2 c = cmdClass s c := by
      rw [cmdClass, cmdClass, queue?, queue?, show (free u).2.ring = s.ring from hring]
    rw [hstr] at kjobs hrun
    exact ⟨_, _, _, (exec_digest h hroom).trans (congrArg Host.Outcome.next hrun), kctxs,
      ⟨rfl, hcls, rfl, rfl, rfl, rfl⟩, kjobs, kout.trans hout, (congrArg Ledger.grantUsed kldg).trans hused⟩
  · exact fun s b part c hc => messagePart_spec b part hc
  · exact fun s b j hbad hb => sectorsPart_of_good b j hbad hb
  · intro s ctx c m hop u d
    refine ⟨fun hkey => ?_, fun e hkey => ?_⟩
    · rw [checkOver_of_digest hop, hkey]
      rfl
    · rw [checkOver_of_digest hop, hkey]
      rfl
  · intro s q seq d c h hclean hroom hsrc hkey
    obtain ⟨rfl, rfl⟩ := cmd?_q (ready_cmd h)
    refine ⟨_, exec_digest h hroom, ?_⟩
    rw [digest_of_key (s := onCmd c.q c.seq ranCmd s) hclean (by omega) (digestDown_of_src (by omega)) hkey]
    exact finish_ends_of_ready 0x0E d h rfl (.inl (by decide))
  · intro s q seq c v h hclean hroom hsrc hv hbad
    obtain ⟨rfl, rfl⟩ := cmd?_q (ready_cmd h)
    refine ⟨_, exec_digest h hroom, ?_⟩
    have hdown : digestDown (onCmd c.q c.seq ranCmd s) c.item = true := by
      rw [digestDown_of_vault hsrc (s := onCmd c.q c.seq ranCmd s) hv]
      exact Option.isSome_iff_ne_none.2 hbad
    rw [digest_of_down (s := onCmd c.q c.seq ranCmd s) hclean (by omega) hdown]
    exact finish_ends_of_ready 0x0F 1 h rfl (.inl (by decide))
  · intro s q seq c f h hclean hroom hsrc hbuf
    obtain ⟨rfl, rfl⟩ := cmd?_q (ready_cmd h)
    rw [exec_digest h hroom, digest_of_buffer (s := onCmd c.q c.seq ranCmd s) hclean hsrc,
      show bufCheck (onCmd c.q c.seq ranCmd s) c.q (fld c.item 10 2) (fld c.item 12 4) = some f from hbuf]
  · intro s q seq c e h hroom he
    obtain ⟨rfl, rfl⟩ := cmd?_q (ready_cmd h)
    obtain ⟨hregion, hcap, hout, hstr, hring⟩ := openTable_spec (fld c.item 8 2) (fld c.item 12 4) e (onCmd c.q c.seq ranCmd s)
    have hrun := (exec_checkvalue h hroom).trans (congrArg Host.Outcome.next
      (checkvalue_of_entry (s := onCmd c.q c.seq ranCmd s) he))
    generalize openTable (fld c.item 8 2) (fld c.item 12 4) e (onCmd c.q c.seq ranCmd s) = t at hrun hregion hcap hout hstr hring
    obtain ⟨-, hctxs, hout'⟩ := newCtx_spec (cvCtx c e t) t
    have hcap' := (newCtx_keeps (cvCtx c e t) t).1
    have hcls : cmdClass t c = cmdClass s c := by
      rw [cmdClass, cmdClass, queue?, queue?, hring]
      rfl
    rw [hstr] at hctxs
    refine ⟨_, _, hrun, hctxs, ⟨rfl, hcls, rfl, rfl, rfl, rfl, rfl, rfl, rfl⟩, ?_, fun hs => hcap'.trans (hcap hs), hout'.trans hout⟩
    rw [region?, hcap']
    exact hregion
  · intro s b row c m hc ht hbad hm n v wrong
    refine ⟨rowCounted b row c s, cvArrived_of_good b row hc ht hbad hm, rfl, ?_⟩
    rw [cmd?_rowCounted b row hm, Option.map_some, cvCounts_countRow]
  · intro s ctx c m hop n
    exact checkOver_of_checkvalue hop
  · intro s q seq off c
    exact ⟨fun h hb => ⟨_, rfl, waitCtx_of_malformed h hb rfl⟩, fun h hb => ⟨_, rfl, waitCtx_of_malformed h hb rfl⟩⟩
  · intro s q seq c hroom
    exact ⟨fun h hb => congrArg Host.Outcome.next (waitCtx_of_wait h hb (by omega)),
      fun h hb => congrArg Host.Outcome.next (waitCtx_of_wait h hb (by omega))⟩

end Sys2Proof.Machine
end

section
/-! SUPPORT. BARRIER (R100) and CANCEL (R156, R157). -/

namespace Sys2Proof.Machine

section BarrierCancel

variable {q seq n : Nat} {c x y : Cmd} {s t u : State}

/-! ### BARRIER -/

/-- The end of a BARRIER. -/
def barrierEnd (c : Cmd) : State → State := finish c.q c.seq 0 0

theorem exec_barrier_of_due (h : due 0x48 q seq s = some c) : exec (.barrier q seq) s =
    .next (if barrierReady s c || (bodyBad c.item (barrierBad c s)).isSome then runCmd 0x48 q seq barrierBad barrierEnd s else s) := by
  change Host.Outcome.next (match due 0x48 q seq s with | none => s | some c => _) = _
  rw [h]
  rfl

theorem mem_earlier : x ∈ earlier s c ↔ x ∈ s.ldg.cmds ∧ x.q = c.q ∧ x.seq < c.seq := by
  simp [earlier]

theorem barrierReady_of_durable (hearlier : ∀ x ∈ s.ldg.cmds, x.q = c.q → x.seq < c.seq → x.st = .durable)
    (htarget : fld c.item 8 2 = 0xFFFF ∨ ∃ x, queue? s (fld c.item 8 2) = some x ∧ fld c.item 16 8 ≤ x.completed) :
    barrierReady s c = true := by
  have hall : ((earlier s c).all fun x => x.st == .durable) = true := List.all_eq_true.2 fun x hx => by
    obtain ⟨hmem, hq, hs⟩ := mem_earlier.1 hx
    exact beq_iff_eq.2 (hearlier x hmem hq hs)
  rw [barrierReady, hall, Bool.true_and, Bool.or_eq_true]
  rcases htarget with h | ⟨x, hx, hle⟩
  · exact .inl (beq_iff_eq.2 h)
  · rw [hx]
    exact .inr (decide_eq_true hle)

theorem barrierReady_of_live (hmem : x ∈ s.ldg.cmds) (hq : x.q = c.q) (hs : x.seq < c.seq) (hst : x.st ≠ .durable) :
    barrierReady s c = false := by
  have hall : ((earlier s c).all fun x => x.st == .durable) = false := by
    rw [List.all_eq_false]
    exact ⟨x, mem_earlier.2 ⟨hmem, hq, hs⟩, fun h => hst (beq_iff_eq.1 h)⟩
  rw [barrierReady, hall, Bool.false_and]

/-! ### CANCEL -/

theorem exec_cancel (h : ready 0x4A q seq cancelBad c s) : exec (.cancel q seq) s =
    .next (cancelGo c (onCmd q seq ranCmd s)) := by
  change Host.Outcome.next (runCmd 0x4A q seq cancelBad cancelGo s) = _
  rw [runCmd_ready cancelGo h]

/-- A change of one command is not seen by the read of another. -/
theorem cmd?_onCmd_ne (f : Cmd → Cmd) (hf : ∀ x, (f x).q = x.q ∧ (f x).seq = x.seq) {p m : Nat} (hne : ¬ (p = q ∧ m = n)) (s : State) :
    cmd? (onCmd q n f s) p m = cmd? s p m := by
  unfold cmd?
  rw [onCmd_ldg]
  dsimp only
  unfold updWhere
  induction s.ldg.cmds with
  | nil => rfl
  | cons a l ih =>
    rw [List.map_cons, List.find?_cons, List.find?_cons, ih]
    by_cases ha : (a.q == q && a.seq == n) = true
    · have hname : a.q = q ∧ a.seq = n := by simpa using ha
      have hout : (a.q == p && a.seq == m) = false := by
        rw [hname.1, hname.2, Bool.and_eq_false_iff, beq_eq_false_iff_ne, beq_eq_false_iff_ne]
        exact Classical.not_and_iff_not_or_not.1 fun h => hne ⟨h.1.symm, h.2.symm⟩
      rw [if_pos ha, (hf a).1, (hf a).2, hout]
    · rw [if_neg ha]

/-- An accepted command that is no SEAL ends CANCELLED at once. -/
theorem cancelOne_of_accepted (hc : cmd? s x.q x.seq = some x) (hst : x.st = .accepted) (hop : itemOp x.item ≠ 0x43) :
    cancelOne x s = finish x.q x.seq 1 0 s := by
  have hlive : ¬ ((cmd? s x.q x.seq).all fun y => y.st == .durable) = true := by
    rw [hc]
    simp [hst]
  unfold cancelOne
  dsimp only
  rw [if_neg hlive, if_neg hop, if_pos hst]

theorem cancelOne_of_capture (hop : itemOp x.item = 0x41 ∨ itemOp x.item = 0x42) (hst : x.st = .started)
    (hc : cmd? s x.q x.seq = some y) (hlive : y.st ≠ .durable) :
    cancelOne x s = finish x.q x.seq 1 0 (stopCapture x.q x.seq s) := by
  have hall : ¬ ((cmd? s x.q x.seq).all fun y => y.st == .durable) = true := by
    rw [hc]
    simpa using hlive
  unfold cancelOne
  dsimp only
  rw [if_neg hall, if_neg (by omega), if_neg (by rw [hst]; decide), if_neg (by omega), if_pos hop]

/-! ### What stopping a capture leaves alone -/

theorem heir_ldg (e : Epoch) (k : Ctx) (s : State) : (heir e k s).2.ldg = s.ldg := by
  unfold heir
  split
  · rfl
  · split
    · exact lanesWrite_ldg ..
    · rfl

theorem bequeath_ldg (i : Nat) (k : Ctx) (s : State) : (bequeath i k s).ldg = s.ldg := by
  unfold bequeath
  split
  · rfl
  · next e _ =>
    dsimp only
    split
    · rfl
    · generalize hh : heir e k _ = r
      have hldg := heir_ldg e k (setOrder e.num ((s.str.blocks.filter fun b => b.ctx == i && !isKept (keptBlocks s i) b).filterMap
        blkItem ++ e.order) s)
      rw [hh] at hldg
      obtain ⟨o, t⟩ := r
      cases o <;> exact hldg

theorem each_ldg {α : Type} {f : α → State → State} (h : ∀ a s, (f a s).ldg = s.ldg) (l : List α) (s : State) :
    (each l f s).ldg = s.ldg := each_keeps (p := State.ldg) h l s

theorem stopCapture_ldg (q seq : Nat) (s : State) : (stopCapture q seq s).ldg = s.ldg := by
  unfold stopCapture
  dsimp only
  rw [cmds_stopStreams]
  exact each_ldg (fun k s => bequeath_ldg ..) _ s

/-- Streams that are stopped are STOPPING while they remain. -/
theorem stopStreams_stopped (p : Ctx → Bool) (s : State) : ∀ k ∈ (stopStreams p s).str.ctxs, p k.2 = true → k.2.state = 5 := by
  intro k hk hp
  unfold stopStreams at hk
  dsimp only at hk
  obtain ⟨hb, fab, h⟩ := each_withdraw ((s.str.ctxs.filter fun c => p c.2 && c.2.state != 5).map (·.1)) s
  rw [h] at hk
  obtain ⟨c, hc, rfl⟩ := List.mem_map.1 hk
  have hmem := (List.mem_filter.1 hc).1
  by_cases hgone : (((s.str.ctxs.filter fun c => p c.2 && c.2.state != 5).map (·.1)).contains c.1) = true
  · rw [if_pos hgone]
  · rw [if_neg hgone] at hp ⊢
    by_contra hne
    exact hgone (List.contains_iff_mem.2 (List.mem_map.2 ⟨c, List.mem_filter.2 ⟨hmem, by simp [hne, hp]⟩, rfl⟩))

theorem str_onlyEnds (h : onlyEnds s t) : t.str = s.str := by
  unfold onlyEnds at h
  rw [h]

/-! ### The end of a CANCEL -/

/-- The CANCELs that run. -/
def runningCancels (s : State) : List Cmd := s.ldg.cmds.filter fun c => itemOp c.item == 0x4A && c.st == .started && c.ran

/-- A CANCEL ends once its targets have. -/
def endCancel (c : Cmd) (t : State) : State := if (stillOpen t c.items).isEmpty then finish c.q c.seq 0 c.count t else t

theorem endCancels_eq (s : State) : endCancels s = each (runningCancels s) endCancel s := rfl

/-- With one CANCEL in the ledger, `endCancels` is its end. -/
theorem each_endCancel_of_durable (l : List Cmd) (hl : ∀ d ∈ l, d = c) (hx : cmd? s c.q c.seq = some x) (hd : x.st = .durable) :
    each l endCancel s = s := by
  unfold each
  induction l with
  | nil => rfl
  | cons a l ih =>
    have hstay : endCancel a s = s := by
      rw [hl a List.mem_cons_self, endCancel]
      split
      · exact finish_durable _ _ hx hd
      · rfl
    rw [List.foldl_cons, hstay]
    exact ih fun d hd => hl d (List.mem_cons_of_mem _ hd)

theorem endCancels_of_closed (hc : c ∈ s.ldg.cmds) (hop : itemOp c.item = 0x4A) (hst : c.st = .started) (hran : c.ran = true)
    (huniq : ∀ d ∈ s.ldg.cmds, (itemOp d.item = 0x4A → d = c) ∧ (d.q = c.q → d.seq = c.seq → d = c))
    (hopen : stillOpen s c.items = []) : ends c.q c.seq 0 c.count s (endCancels s) := by
  have hcmd : cmd? s c.q c.seq = some c := cmd?_of_mem hc fun d hd => (huniq d hd).2
  have h0 : (0 : Nat) ≠ 0 ∨ c.count = 0 ∨ c.headPos.isSome = true ∨ c.count ≠ 0 := by
    rcases Nat.eq_zero_or_pos c.count with h | h
    · exact .inr (.inl h)
    · exact .inr (.inr (.inr (by omega)))
  have hend := finish_ends 0 c.count hcmd (by simp [hst]) h0
  have hall : ∀ d ∈ runningCancels s, d = c := fun d hd => by
    obtain ⟨hmem, hcond⟩ := List.mem_filter.1 hd
    exact (huniq d hmem).1 (by simp at hcond; exact hcond.1.1)
  have hmem : c ∈ runningCancels s := List.mem_filter.2 ⟨hc, by simp [hop, hst, hran]⟩
  rw [endCancels_eq]
  cases hl : runningCancels s with
  | nil => rw [hl] at hmem; cases hmem
  | cons a l =>
    rw [hl] at hall
    have hfirst : endCancel a s = finish c.q c.seq 0 c.count s := by
      rw [hall a List.mem_cons_self, endCancel, hopen]
      rfl
    have hrest := each_endCancel_of_durable (s := finish c.q c.seq 0 c.count s) l
      (fun d hd => hall d (List.mem_cons_of_mem _ hd)) (ends_cmd hend hcmd) rfl
    unfold each at hrest ⊢
    rw [List.foldl_cons, hfirst, hrest]
    exact hend

theorem endCancels_of_open (huniq : ∀ d ∈ s.ldg.cmds, itemOp d.item = 0x4A → d = c) (hopen : stillOpen s c.items ≠ []) :
    endCancels s = s := by
  have hall : ∀ d ∈ runningCancels s, d = c := fun d hd => by
    obtain ⟨hmem, hcond⟩ := List.mem_filter.1 hd
    exact huniq d hmem (by simp at hcond; exact hcond.1.1)
  have hstay : ∀ l : List Cmd, (∀ d ∈ l, d = c) → each l endCancel s = s := fun l hl => by
    unfold each
    induction l with
    | nil => rfl
    | cons a l ih =>
      have ha : endCancel a s = s := by
        rw [hl a List.mem_cons_self, endCancel]
        exact if_neg fun h => hopen (List.isEmpty_iff.1 h)
      rw [List.foldl_cons, ha]
      exact ih fun d hd => hl d (List.mem_cons_of_mem _ hd)
  rw [endCancels_eq, hstay _ hall]

/-- CANCEL reaches one target. -/
def cancelItem (t : Nat × Nat) (u : State) : State :=
  match cmd? u t.1 t.2 with
  | some x => cancelOne x u
  | none => u

/-- The state once a CANCEL has reached its targets and its epoch. -/
def cancelled (c : Cmd) (s : State) : State :=
  if fld c.item 10 1 = 1 then cancelTheEpoch (fld c.item 12 4) (each c.items cancelItem s) else each c.items cancelItem s

theorem cancelGo_eq (c : Cmd) (s : State) : cancelGo c s =
    settleAfter (onCmd c.q c.seq (fun x => { x with count := cancelCount (cancelled c s) c.items }) (cancelled c s)) := rfl

/-- A CANCEL without a target reaches its epoch, and counts none. -/
theorem cancelGo_of_none (h : c.items = []) (s : State) : cancelGo c s = settleAfter (onCmd c.q c.seq (fun x => { x with count := 0 })
    (if fld c.item 10 1 = 1 then cancelTheEpoch (fld c.item 12 4) s else s)) := by
  rw [cancelGo_eq, cancelled, h, each_nil]
  rfl

theorem cancelCount_of_cancelled (hc : cmd? s q seq = some c) (hst : c.st = .durable) (hs : c.status = 1) :
    cancelCount s [(q, seq)] = 1 := by
  simp [cancelCount, hc, hst, hs]

/-- A CANCEL of one command that was accepted ends and counts it. -/
theorem cancelGo_of_accepted (hmode : fld c.item 10 1 = 0) (hitems : c.items = [(x.q, x.seq)]) (hx : cmd? s x.q x.seq = some x)
    (hst : x.st = .accepted) (hop : itemOp x.item ≠ 0x43) :
    cancelGo c s = settleAfter (onCmd c.q c.seq (fun y => { y with count := 1 }) (finish x.q x.seq 1 0 s)) := by
  have hend := finish_ends 1 0 hx (by rw [hst]; decide) (.inl (by decide))
  have hcount : cancelCount (finish x.q x.seq 1 0 s) [(x.q, x.seq)] = 1 := cancelCount_of_cancelled (ends_cmd hend hx) rfl rfl
  have hdone : cancelled c s = finish x.q x.seq 1 0 s := by
    rw [cancelled, if_neg (by omega), hitems]
    change cancelItem (x.q, x.seq) s = _
    rw [cancelItem, hx]
    exact cancelOne_of_accepted hx hst hop
  rw [cancelGo_eq, hdone, hitems, hcount]

end BarrierCancel

section Flush

variable {q n p seq : Nat} {c : Cmd} {s t : State} {x y : Queue} {owner : Nat × Nat}

/-! ### A flush of a queue that holds nothing (R62, R64) -/

theorem dist_self {size a : Nat} (h : a < 2 * size) : dist size a a = 0 := by
  rw [dist, Nat.mod_eq_of_lt h, show a + 2 * size - a = 2 * size by omega, Nat.mod_self]

theorem slotReads_zero (n size start : Nat) : slotReads n size start 0 = [] := by
  cases n with
  | zero => rfl
  | succ n => exact if_pos rfl

theorem cmdsFrom_of_none (h : ∀ d ∈ s.ldg.cmds, d.q ≠ q) (n : Nat) : cmdsFrom s q n = [] := by
  have hnil : s.ldg.cmds.filter (fun c => c.q == q && decide (n < c.seq)) = [] := by
    rw [List.filter_eq_nil_iff]
    intro d hd
    simp [h d hd]
  rw [cmdsFrom, hnil, List.mergeSort_nil]

/-- A queue in RUN at the snapshot of a flush that finds nothing to read. -/
def snapshot (owner : Nat × Nat) (y : Queue) : Queue := { y with
  before := .run, state := .flushing, fetched := [], waitPub := none, shadowDue := true, flushBy := some owner, flushHead := y.acc }

theorem flushBegin_of_quiet (slots : List Bytes) (hx : queue? s q = some x) (hrun : x.state = .run) (hacc : x.acc = x.tail)
    (hlt : x.acc < 2 * sqSize x.desc) (hc : ∀ d ∈ s.ldg.cmds, d.q ≠ q) :
    flushBegin q owner slots s = onQ q (snapshot owner) (dropTakes q s) := by
  have hdist : dist (sqSize x.desc) x.acc x.tail = 0 := hacc ▸ dist_self hlt
  have hnone : ∀ f : Queue → Queue, flushAccepted q (onQ q f (dropTakes q s)) = onQ q f (dropTakes q s) := fun f => by
    rw [flushAccepted, cmdsFrom_of_none (s := onQ q f (dropTakes q s)) hc 0]
    rfl
  unfold flushBegin
  rw [hx]
  dsimp only
  rw [hdist, slotReads_zero, hrun, each_nil, hnone]
  rfl

/-- The queue that a flush of nothing has taken its snapshot of. -/
def atSnapshot (owner : Nat × Nat) (x : Queue) : Queue := snapshot owner { x with takes := [] }

theorem queue?_snapshot (hx : queue? s q = some x) (owner : Nat × Nat) :
    queue? (onQ q (snapshot owner) (dropTakes q s)) q = some (atSnapshot owner x) := by
  have hd : queue? (dropTakes q s) q = some { x with takes := [] } := by
    rw [dropTakes, queue?_onQ, if_pos rfl]
    exact (congrArg (Option.map _) hx).trans rfl
  rw [queue?_onQ, if_pos rfl, hd]
  rfl

theorem flushAccept_of_empty (hy : queue? s q = some y) (hf : y.fetched = []) : flushAccept q s = s := by
  rw [flushAccept, hy, Option.map_some, Option.getD_some, hf, flushItems]

/-! ### The end of a flush -/

/-- The queue once its flush is over. -/
def unflushed (z : Queue) : Queue := { z with
  tail := z.acc, state := .run, errSeq := min z.errSeq (z.nextSeq - 1), shadowDue := true, cqOut := [], flushBy := none, held := [] }

theorem flushEnd_of_quiet (hy : queue? s q = some y) (hacc : y.acc = y.tail) (hcq : y.cqOut = []) :
    (flushEnd q s).1 = false ∧ (flushEnd q s).2.ldg = s.ldg ∧ (flushEnd q s).2.regs = s.regs ∧
    queue? (flushEnd q s).2 q = some { y with
      tail := y.acc, state := .run, errSeq := min y.errSeq (y.nextSeq - 1), shadowDue := true, cqOut := [], flushBy := none } := by
  have hstop : queue? (onQ q (fun z => { z with
      tail := z.acc, state := .run, errSeq := min z.errSeq (z.nextSeq - 1), shadowDue := true }) s) q = some { y with
      tail := y.acc, state := .run, errSeq := min y.errSeq (y.nextSeq - 1), shadowDue := true } := by
    rw [queue?_onQ, if_pos rfl, hy]
    rfl
  unfold flushEnd flushStop releaseHeld
  rw [hstop, hy]
  dsimp only
  rw [hcq, List.filter_nil, each_nil]
  refine ⟨by simp [hacc], rfl, rfl, ?_⟩
  rw [queue?_onQ, if_pos rfl, queue?_onQ, if_pos rfl, hstop]
  simp [hcq]

theorem queues_onlyEnds (h : onlyEnds s t) : t.ring.queues = s.ring.queues ∧ t.regs.qctl = s.regs.qctl := by
  unfold onlyEnds at h
  rw [h]
  exact ⟨rfl, rfl⟩

/-- The FLUSH reports the head of its target. -/
def headOfFlush (head : Nat) (c : Cmd) : Cmd := { c with headPos := some head, count := b2n false }

theorem applyHeld_of_empty (hy : queue? s q = some y) (hh : y.held = []) :
    applyHeld q s = onQ q (fun x => { x with held := [] }) s := by
  rw [applyHeld, hy]
  dsimp only
  rw [hh, each_nil]

/-- A flush that holds nothing more ends its command OK with DETAIL 0, and the queue is in RUN (R62). -/
theorem flushOver_of_quiet (hy : queue? s p = some y) (hacc : y.acc = y.tail) (hcq : y.cqOut = []) (hheld : y.held = [])
    (hc : cmd? s q seq = some c) (hlive : c.st ≠ .durable) :
    queue? (flushOver p q seq s) p = some (unflushed y) ∧ (flushOver p q seq s).regs.qctl = s.regs.qctl ∧
    (cmd? (flushOver p q seq s) q seq).map (fun d => (d.st, d.status, d.detail, d.admin)) = some (.durable, 0, 0, c.admin) := by
  obtain ⟨h1, hldg, hregs, hq⟩ := flushEnd_of_quiet hy hacc hcq
  unfold flushOver
  dsimp only
  rw [h1]
  generalize (flushEnd p s).2 = u at hldg hregs hq
  have hc1 : cmd? (onCmd q seq (headOfFlush (headOf u p)) u) q seq = some (headOfFlush (headOf u p) c) :=
    cmd?_onCmd _ (fun _ => ⟨rfl, rfl⟩) ((cmd?_of_cmds (congrArg Ledger.cmds hldg) q seq).trans hc)
  have hend := finish_ends 0 0 hc1 hlive (.inr (.inl rfl))
  have hafter := ends_cmd hend hc1
  obtain ⟨hqueues, hqctl⟩ := queues_onlyEnds (finish_onlyEnds q seq 0 0 (onCmd q seq (headOfFlush (headOf u p)) u))
  change queue? (applyHeld p (finish q seq 0 0 (onCmd q seq (headOfFlush (headOf u p)) u))) p = _ ∧
    (applyHeld p (finish q seq 0 0 (onCmd q seq (headOfFlush (headOf u p)) u))).regs.qctl = _ ∧
    (cmd? (applyHeld p (finish q seq 0 0 (onCmd q seq (headOfFlush (headOf u p)) u))) q seq).map _ = _
  generalize finish q seq 0 0 (onCmd q seq (headOfFlush (headOf u p)) u) = w at hafter hqueues hqctl
  have hw : queue? w p = some { y with
      tail := y.acc, state := .run, errSeq := min y.errSeq (y.nextSeq - 1), shadowDue := true, cqOut := [], flushBy := none } := by
    rw [queue?, hqueues]
    exact hq
  rw [applyHeld_of_empty hw hheld]
  refine ⟨?_, hqctl.trans (congrArg Regs.qctl hregs), ?_⟩
  · rw [queue?_onQ, if_pos rfl, hw]
    rfl
  · exact congrArg (Option.map _) hafter

/-! ### FLUSH and ADMIN_FLUSH of a queue that holds nothing -/

theorem runFlush_of_quiet (slots : List Bytes) (hx : queue? s (fld c.item 8 2) = some x) (hrun : x.state = .run)
    (hby : x.flushBy = none) (hacc : x.acc = x.tail) (hlt : x.acc < 2 * sqSize x.desc) (hc : ∀ d ∈ s.ldg.cmds, d.q ≠ fld c.item 8 2) :
    runFlush c slots s = flushOver (fld c.item 8 2) c.q c.seq
      (onQ (fld c.item 8 2) (snapshot (c.q, c.seq)) (dropTakes (fld c.item 8 2) s)) := by
  have hy := queue?_snapshot hx (c.q, c.seq)
  unfold runFlush
  dsimp only
  rw [hx]
  dsimp only
  rw [hby, if_neg (by simp), flushBegin_of_quiet slots hx hrun hacc hlt hc]
  simp only [Option.isSome_none, Bool.false_eq_true, if_false]
  rw [flushAccept_of_empty hy rfl, hy]
  rfl

/-- The command that ADMIN_FLUSH forms (R64). -/
theorem acceptItem_admin (hy : queue? s 0 = some y) (hc : ∀ d ∈ s.ldg.cmds, d.q ≠ 0) (pos : Nat) (b : Bytes) :
    (acceptItem 0 pos b true s).regs.qctl = s.regs.qctl ∧
    (∃ n, queue? (acceptItem 0 pos b true s) 0 = some { y with nextSeq := y.nextSeq + 1, waitFrom := n }) ∧
    ∃ c, cmd? (acceptItem 0 pos b true s) 0 y.nextSeq = some c ∧ c.st = .accepted ∧ c.admin = true := by
  have hj : onlyJournal s (append 1 1 0 y.nextSeq (acceptedArg y pos b true) false (each (bodyRecs 0 y.nextSeq b) appendRec s)) :=
    onlyJournal_trans (each_journal _ (fun _ _ => appendRec_journal ..) _ _) (append_journal ..)
  unfold acceptItem
  rw [hy]
  dsimp only
  generalize append 1 1 0 y.nextSeq (acceptedArg y pos b true) false (each (bodyRecs 0 y.nextSeq b) appendRec s) = t at hj
  obtain ⟨hqueues, hqctl⟩ := queues_onlyEnds (onlyEnds_of_journal hj)
  have hcmds := cmds_onlyJournal hj
  have hnone : t.ldg.cmds.find? (fun d => d.q == 0 && d.seq == y.nextSeq) = none := by
    rw [hcmds, List.find?_eq_none]
    intro d hd
    simp [hc d hd]
  refine ⟨hqctl, ⟨s.time.act, ?_⟩,
    { q := 0, seq := y.nextSeq, item := b, pos, admin := true, since := t.time.act, waitFor := olderEpoch b t }, ?_, rfl, rfl⟩
  · have ht : queue? t 0 = some y := by
      rw [queue?, hqueues]
      exact hy
    rw [queue?_onQ, if_pos rfl]
    have htime : t.time = s.time := by
      unfold onlyJournal at hj
      rw [hj]
    rw [← htime]
    exact (congrArg (Option.map _) ht).trans rfl
  · change (t.ldg.cmds ++ [_]).find? _ = _
    rw [List.find?_append, hnone]
    simp

theorem adminFlushWrite_of_runs (slots : List Bytes) (h : runs s = true) : adminFlushWrite slots s = adminFlush slots s := by
  have hhalt : halted s = false := by
    simp only [runs, Bool.and_eq_true, Bool.not_eq_true'] at h
    exact h.2
  unfold adminFlushWrite when
  rw [hhalt, Bool.and_false, Bool.false_and, if_neg Bool.false_ne_true, if_pos h]

/-- The state in which ADMIN_FLUSH has taken its snapshot. -/
def adminSnapshot (s : State) : State := onQ 0 (snapshot (0, 0)) (dropTakes 0 { s with regs.qctl.flush := true })

/-- Room for the FLUSH that ADMIN_FLUSH forms is the same after the snapshot. -/
theorem roomHere_adminSnapshot (hx : queue? s 0 = some x) : roomHere (adminSnapshot s) 0 1 = roomHere s 0 1 := by
  have hy : queue? (adminSnapshot s) 0 = some (atSnapshot (0, 0) x) := queue?_snapshot hx (0, 0)
  rw [roomHere, roomHere, hy, hx]
  rfl

theorem adminFlush_of_quiet (slots : List Bytes) (hready : s.regs.qctl.ready = true) (hx : queue? s 0 = some x)
    (hrun : x.state = .run) (hacc : x.acc = x.tail) (hlt : x.acc < 2 * sqSize x.desc) (hheld : x.held = []) (hcq : x.cqOut = [])
    (hc : ∀ d ∈ s.ldg.cmds, d.q ≠ 0) (hroom : roomHere s 0 1 = true) :
    (adminFlush slots s).regs.qctl.flush = true ∧
    (queue? (adminFlush slots s) 0).map (fun y => (y.state, y.head, y.acc, y.tail, y.nextSeq)) =
      some (.run, x.head, x.acc, x.acc, x.nextSeq + 1) ∧
    (cmd? (adminFlush slots s) 0 x.nextSeq).map (fun d => (d.st, d.status, d.detail, d.admin)) = some (.durable, 0, 0, true) := by
  have hx' : queue? { s with regs.qctl.flush := true } 0 = some x := hx
  have hy : queue? (adminSnapshot s) 0 = some (atSnapshot (0, 0) x) := queue?_snapshot hx (0, 0)
  have heq : adminFlush slots s = flushOver 0 0 x.nextSeq (acceptItem 0 x.acc adminFlushItem true (adminSnapshot s)) := by
    unfold adminFlush
    rw [hx]
    dsimp only
    rw [if_neg (by rw [hready]; decide), hrun, if_neg (by decide), flushBegin_of_quiet slots hx' hrun hacc hlt hc, ← adminSnapshot,
      flushAccept_of_empty hy rfl, adminFlushEnd, hy]
    dsimp only
    rw [if_pos ⟨rfl, rfl, rfl, (roomHere_adminSnapshot hx).trans hroom⟩]
    rfl
  obtain ⟨kqctl, ⟨n, kq⟩, d, kcmd, kst, kadmin⟩ := acceptItem_admin hy (s := adminSnapshot s) hc x.acc adminFlushItem
  obtain ⟨hq, hqctl, hcmd⟩ := flushOver_of_quiet (q := 0) (seq := x.nextSeq) kq hacc hcq hheld kcmd (by rw [kst]; decide)
  rw [heq, hqctl, kqctl, hq, hcmd, kadmin]
  exact ⟨rfl, rfl, rfl⟩

end Flush

/-- Settles O33: a BARRIER and a CANCEL wait for what they name, and a flush of an empty queue ends at once. -/
theorem barrierCancelFlush : Obligations.BarrierCancelFlush := by
  unfold Obligations.BarrierCancelFlush
  refine ⟨?_, ?_, ?_, ?_, ?_, ?_, ?_, ?_⟩
  · intro s q seq c h hearlier htarget
    obtain ⟨rfl, rfl⟩ := cmd?_q (ready_cmd h)
    refine ⟨_, exec_barrier_of_due h.1, ?_⟩
    rw [barrierReady_of_durable hearlier htarget, Bool.true_or, if_pos rfl, runCmd_ready barrierEnd h]
    exact finish_ends_of_ready 0 0 h rfl (.inr rfl)
  · intro s q seq c x h hmem hq hs hst hb
    obtain ⟨rfl, rfl⟩ := cmd?_q (ready_cmd h)
    rw [exec_barrier_of_due h.1, barrierReady_of_live hmem hq hs hst, hb]
    rfl
  · intro s q seq c h hi
    obtain ⟨rfl, rfl⟩ := cmd?_q (ready_cmd h)
    rw [exec_cancel h, cancelGo_of_none hi]
  · intro s q seq c x h hmode hx hst hop hi
    obtain ⟨rfl, rfl⟩ := cmd?_q (ready_cmd h)
    have hne : ¬ (x.q = c.q ∧ x.seq = c.seq) := fun heq => by
      have hsame := ready_cmd h
      rw [← heq.1, ← heq.2, hx] at hsame
      have hstarted := (due_spec h.1).2.2.1
      rw [← Option.some.inj hsame, hst] at hstarted
      cases hstarted
    have hx' : cmd? (onCmd c.q c.seq ranCmd s) x.q x.seq = some x := (cmd?_onCmd_ne ranCmd (fun _ => ⟨rfl, rfl⟩) hne s).trans hx
    exact ⟨_, (exec_cancel h).trans (congrArg Host.Outcome.next (cancelGo_of_accepted hmode hi hx' hst hop)),
      finish_ends 1 0 hx' (by rw [hst]; decide) (.inl (by decide))⟩
  · intro s x y hst hop hc hlive
    have hc' : cmd? (stopCapture x.q x.seq s) x.q x.seq = some y := by
      rw [cmd?, stopCapture_ldg]
      exact hc
    rw [cancelOne_of_capture hop hst hc hlive]
    refine ⟨finish_ends 1 0 hc' hlive (.inl (by decide)), fun k hk hq hs he => ?_⟩
    rw [str_onlyEnds (finish_onlyEnds ..)] at hk
    exact stopStreams_stopped _ _ k hk (by simp [hq, hs, he])
  · intro s c hmem hop hst hran huniq
    exact ⟨endCancels_of_closed hmem hop hst hran huniq, endCancels_of_open fun d hd => (huniq d hd).1⟩
  · intro s q seq c x slots h hb hx hrun hby hacc hlt hheld hcq hnone
    obtain ⟨-, hc, hst, -, -⟩ := due_spec h
    obtain ⟨rfl, rfl⟩ := cmd?_q hc
    have hexec : exec (.flush c.q c.seq slots) s = .next (runFlush c slots s) := by
      change Host.Outcome.next (match due 0x4B c.q c.seq s with | none => s | some c => _) = _
      rw [h]
      dsimp only
      rw [hb]
      rfl
    obtain ⟨hq, -, hcmd⟩ := flushOver_of_quiet (c := c) (q := c.q) (seq := c.seq) (queue?_snapshot hx (c.q, c.seq)) hacc hcq hheld hc
      (by rw [hst]; decide)
    refine ⟨_, hexec, ?_, ?_⟩
    · rw [runFlush_of_quiet slots hx hrun hby hacc hlt hnone, hq]
      rfl
    · rw [runFlush_of_quiet slots hx hrun hby hacc hlt hnone]
      have := congrArg (Option.map fun d : CState × Nat × Nat × Bool => (d.1, d.2.1, d.2.2.1)) hcmd
      rw [Option.map_map] at this
      exact this
  · intro s x slots hruns hready hx hrun hacc hlt hheld hcq hnone hroom
    obtain ⟨hqctl, hq, hcmd⟩ := adminFlush_of_quiet slots hready hx hrun hacc hlt hheld hcq hnone hroom
    exact ⟨_, congrArg Host.Outcome.next (adminFlushWrite_of_runs slots hruns), hqctl, hq, hcmd⟩

end Sys2Proof.Machine
end

section
/-! SUPPORT. Recipe control and scalar instructions (R182 to R185). -/

namespace Sys2Proof.Machine

section RecipeRules

variable {i : Instr} {op l : Nat} {r : RFields} {s : State} {x : Lane}

/-! ### What the row of a recipe instruction does -/

theorem exec_of_recipeRow (h : recipeRow i = some (op, l, r)) : exec i s = .next (recipeStep op l r (laneOp op r) s) := by
  unfold recipeRow at h
  split at h <;> cases h <;> rfl

theorem recipeStep_of_takes {f : Lane → Lane} (hup : up s = true) (hl : l < 32) (ht : (lane s l).trap = 0)
    (hr : rReason op 256 r = 0) : recipeStep op l r f s = setLane l (f (lane s l)) s := by
  unfold recipeStep when
  rw [if_pos (by simp [hup, hl, ht, hr])]

theorem exec_lane (h : laneTakes op l r s) (hi : recipeRow i = some (op, l, r)) :
    exec i s = .next (setLane l (laneOp op r (lane s l)) s) := by
  obtain ⟨hup, hl, ht, hr, -⟩ := h
  rw [exec_of_recipeRow hi, recipeStep_of_takes hup hl ht hr]

theorem exec_lane_refused (hi : recipeRow i = some (op, l, r))
    (h : 32 ≤ l ∨ (lane s l).trap ≠ 0 ∨ rReason op 256 r ≠ 0) : exec i s = .next s := by
  have hg : (up s && decide (l < 32) && (lane s l).trap == 0 && rReason op 256 r == 0) = false := by
    rcases h with h | h | h
    · simp [Nat.not_lt.mpr h]
    · simp [h]
    · simp [h]
  rw [exec_of_recipeRow hi]
  unfold recipeStep when
  rw [hg]
  rfl

/-! ### Cycles -/

theorem spend_of_left {n : Nat} {f : Lane → Lane} (h : x.cycles + n ≤ 1024) :
    spend n f x = f { x with cycles := x.cycles + n } := if_neg (by omega)

theorem spend_of_spent {n : Nat} {f : Lane → Lane} (h : 1024 < x.cycles + n) : spend n f x = rTrapWith 2 x := if_pos h

theorem straight_of_spent {f : Lane → Lane} (h : 1024 ≤ x.cycles) : straight f x = rTrapWith 2 x :=
  spend_of_spent (by omega)

theorem branch_of_spent {b : Bool} {p : Nat} {f : Lane → Lane} (h : 1024 ≤ x.cycles) : branch b p f x = rTrapWith 2 x := by
  unfold branch
  split
  · exact spend_of_spent (by omega)
  · exact spend_of_spent (by omega)

theorem spend_one_of_spent {f : Lane → Lane} (h : 1024 ≤ x.cycles) : spend 1 f x = rTrapWith 2 x := spend_of_spent (by omega)

/-- Every instruction spends a cycle first. -/
theorem laneOp_of_spent (h : 1024 ≤ x.cycles) : laneOp op r x = rTrapWith 2 x := by
  have hs {f : Lane → Lane} := straight_of_spent (f := f) h
  have hb {b p} {f : Lane → Lane} := branch_of_spent (b := b) (p := p) (f := f) h
  have h1 {f : Lane → Lane} := spend_one_of_spent (f := f) h
  unfold laneOp
  split
  all_goals simp only [laneNop, laneEnd, laneTrap, laneJmp, laneBz, laneBnz, laneLoop, laneSli, laneSadd, laneSaddi, laneSsub,
    laneSand, laneSor, laneSxor, laneSshl, laneSsra, laneSblen, laneSget, laneVld, laneVldb, laneVst, laneSld, laneSst,
    zipElems, laneVadd, laneVsub, laneVmin, laneVmax, laneVand, laneVor, laneVxor, laneVshl, laneVsra, laneVbcast, laneVext,
    laneVins, laneVcmpz, laneVabsmax, laneVrq, laneVnarrow, laneVwiden, hs, hb, h1]

/-! ### Straight instructions, ends and branches -/

/-- An instruction that does not trap changes the lane's registers and goes on. -/
theorem exec_straight {f g : Lane → Lane} (h : laneTakes op l r s) (hi : recipeRow i = some (op, l, r)) (hop : laneOp op r = straight f)
    (hf : ∀ c, f { lane s l with cycles := c } = { g (lane s l) with cycles := c }) (ht : (g (lane s l)).trap = (lane s l).trap)
    (hp : (g (lane s l)).pc = (lane s l).pc) : exec i s = .next (laneOn l g s) := by
  obtain ⟨-, -, h0, -, hc⟩ := id h
  have hst : straight f (lane s l) = { g (lane s l) with cycles := (lane s l).cycles + 1, pc := (lane s l).pc + 1 } := by
    unfold straight
    rw [spend_of_left (by omega), hf]
    change (if (g (lane s l)).trap = 0 then _ else _) = _
    rw [if_pos (ht.trans h0), ← hp]
  rw [exec_lane h hi, hop, hst]
  rfl

/-- An instruction that traps leaves the lane at its word. -/
theorem exec_straight_trap {f : Lane → Lane} {n : Nat} (h : laneTakes op l r s) (hi : recipeRow i = some (op, l, r))
    (hop : laneOp op r = straight f) (hn : n ≠ 0) (hf : ∀ c, f { lane s l with cycles := c } = { lane s l with cycles := c, trap := n }) :
    exec i s = .next (setLane l { lane s l with cycles := (lane s l).cycles + 1, trap := n } s) := by
  obtain ⟨-, -, -, -, hc⟩ := id h
  have hst : straight f (lane s l) = { lane s l with cycles := (lane s l).cycles + 1, trap := n } := by
    unfold straight
    rw [spend_of_left (by omega), hf]
    exact if_neg hn
  rw [exec_lane h hi, hop, hst]

/-- An instruction of one cycle that sets its own next word or ends the invocation. -/
theorem exec_spend {f : Lane → Lane} (h : laneTakes op l r s) (hi : recipeRow i = some (op, l, r)) (hop : laneOp op r = spend 1 f) :
    exec i s = .next (setLane l (f { lane s l with cycles := (lane s l).cycles + 1 }) s) := by
  obtain ⟨-, -, -, -, hc⟩ := id h
  rw [exec_lane h hi, hop, spend_of_left (by omega)]

theorem exec_branch {b : Bool} {p : Nat} {f : Lane → Lane} (h : laneTakes op l r s) (hi : recipeRow i = some (op, l, r))
    (hop : laneOp op r (lane s l) = branch b p f (lane s l)) (hc : (lane s l).cycles < 1023) :
    exec i s = .next (if b = true then setLane l { f { lane s l with cycles := (lane s l).cycles + 2 } with pc := p } s
      else setLane l { f { lane s l with cycles := (lane s l).cycles + 1 } with pc := (lane s l).pc + 1 } s) := by
  rw [exec_lane h hi, hop]
  unfold branch
  rw [spend_of_left (by omega), spend_of_left (by omega)]
  cases b <;> rfl

theorem laneOp_end : laneOp 0x01 r = spend 1 fun y =>
    if 65536 < (sGet y r.a).toNat then rTrapWith 6 y else { y with trap := 7, outLen := (sGet y r.a).toNat } := rfl

theorem laneOp_trap : laneOp 0x02 r = spend 1 fun y => { y with trap := 1, code := r.imm.toNat % 256 } := rfl

theorem exec_end (h : laneTakes 0x01 l r s) : exec (.rEnd l r) s = .next (setLane l
    (if 65536 < (sGet (lane s l) r.a).toNat then { lane s l with cycles := (lane s l).cycles + 1, trap := 6 }
      else { lane s l with cycles := (lane s l).cycles + 1, trap := 7, outLen := (sGet (lane s l) r.a).toNat }) s) :=
  exec_spend h rfl laneOp_end

end RecipeRules

/-- Settles O57: each control instruction is one `spend`, `straight` or `branch`, and none runs without a cycle. -/
theorem recipeControl : Obligations.RecipeControl := by
  unfold Obligations.RecipeControl
  refine ⟨fun s l r h => ?_, fun s l r h hn => ?_, fun s l r h hn => ?_, fun s l r h => ?_, fun s l r h hc => ?_,
    fun s l r h hc => ?_, fun s l r h hc => ?_, fun s l r h hc => ?_, fun s i op l r hi hup hl ht hr hc => ?_,
    fun s i op l r hi h => exec_lane_refused hi h⟩
  · exact exec_straight h rfl rfl (fun _ => rfl) rfl rfl
  · rw [exec_end h, if_neg (by omega)]
  · rw [exec_end h, if_pos hn]
  · exact exec_spend h rfl laneOp_trap
  · exact exec_branch (b := true) h rfl rfl hc
  · rw [exec_branch h rfl rfl hc]
    exact congrArg _ (if_congr beq_iff_eq rfl rfl)
  · rw [exec_branch h rfl rfl hc]
    exact congrArg _ (if_congr bne_iff_ne rfl rfl)
  · rw [exec_branch h rfl rfl hc]
    refine congrArg _ (if_congr (bne_iff_ne.trans (not_congr ?_)) rfl rfl)
    exact sub_eq_zero
  · rw [exec_of_recipeRow hi, recipeStep_of_takes hup hl ht hr, laneOp_of_spent hc]
    rfl

end Sys2Proof.Machine
end

section
/-! SUPPORT. Scalar instructions, loads and stores of a recipe (R184, R185). -/

namespace Sys2Proof.Machine

section RecipeValues

variable {i : Instr} {op l : Nat} {r : RFields} {s : State} {x : Lane}

/-- An instruction that only puts a value into S[D]. -/
theorem exec_scalar {v : Lane → W64} {w : W64} (h : laneTakes op l r s) (hi : recipeRow i = some (op, l, r))
    (hop : laneOp op r = straight fun y => sSet r.d (v y) y) (hv : ∀ c, v { lane s l with cycles := c } = w) :
    exec i s = .next (laneOn l (fun y => { y with r := y.r.set r.d w }) s) :=
  exec_straight h hi hop (fun c => by rw [hv]; rfl) rfl rfl

/-- An instruction that only puts a value into V[D]. -/
theorem exec_vector {v : Lane → BitVec 512} {w : BitVec 512} (h : laneTakes op l r s) (hi : recipeRow i = some (op, l, r))
    (hop : laneOp op r = straight fun y => vSet r.d (v y) y) (hv : ∀ c, v { lane s l with cycles := c } = w) :
    exec i s = .next (laneOn l (fun y => { y with v := y.v.set r.d w }) s) :=
  exec_straight h hi hop (fun c => by rw [hv]; rfl) rfl rfl

/-! ### Immediates in range -/

theorem rImmBad_of_reason (h : rReason op 256 r = 0) : rImmBad op r = false := by
  unfold rReason at h
  split at h
  case h_1 => cases h
  case h_2 =>
    split_ifs at h with h1 h2 h3 h4 h5
    exact eq_false_of_ne_true h4

theorem rWidthBad_of_reason (h : rReason op 256 r = 0) : rWidthBad op r = false := by
  unfold rReason at h
  split at h
  case h_1 => cases h
  case h_2 =>
    split_ifs at h with h1 h2 h3 h4 h5
    exact eq_false_of_ne_true h3

theorem rImmBad_of_takes (h : laneTakes op l r s) : rImmBad op r = false := rImmBad_of_reason h.2.2.2.1

theorem width_le_of_takes (h : laneTakes op l r s) : r.w ≤ 4 := by
  have hw := rWidthBad_of_reason h.2.2.2.1
  unfold rWidthBad at hw
  rw [Bool.or_eq_false_iff, Bool.or_eq_false_iff] at hw
  simpa using hw.1.1

theorem shift_lt_of_takes (h : laneTakes op l r s) (hop : op = 0x17 ∨ op = 0x18) : r.imm.toNat < 64 := by
  have hb := rImmBad_of_takes h
  rcases hop with rfl | rfl
  · exact Nat.lt_succ_of_le (not_lt.mp (of_decide_eq_false hb))
  · exact Nat.lt_succ_of_le (not_lt.mp (of_decide_eq_false hb))

/-! ### The signed bit length -/

/-- The magnitude whose binary length the signed bit length is. -/
def signedMag (n : Int) : Nat := if n < 0 then (-n - 1).toNat else n.toNat

theorem signedLen_eq (n : Int) : signedLen n = if signedMag n = 0 then 1 else Nat.log2 (signedMag n) + 2 := rfl

theorem signedMag_lt (n : Int) (k : Nat) : signedMag n < k ↔ -(k : Int) ≤ n ∧ n < k := by
  unfold signedMag
  split <;> omega

theorem signedLen_bounds (n : Int) : 1 ≤ signedLen n ∧ signedMag n < 2 ^ (signedLen n - 1) ∧
    (1 < signedLen n → 2 ^ (signedLen n - 2) ≤ signedMag n) := by
  rw [signedLen_eq]
  by_cases h : signedMag n = 0
  · rw [if_pos h, h]
    exact ⟨Nat.le_refl 1, Nat.one_pos, fun hlt => absurd hlt (by omega)⟩
  · rw [if_neg h]
    exact ⟨by omega, Nat.lt_log2_self, fun _ => Nat.log2_self_le h⟩

theorem signedLen_le (v : W64) : signedLen v.toInt ≤ 64 := by
  obtain ⟨-, -, hlow⟩ := signedLen_bounds v.toInt
  by_contra hgt
  have h64 : 2 ^ 63 ≤ 2 ^ (signedLen v.toInt - 2) := Nat.pow_le_pow_right (by omega) (by omega)
  have hmag : signedMag v.toInt < 2 ^ 63 := (signedMag_lt _ _).mpr ⟨by
    have := BitVec.le_toInt v
    omega, by
    have := BitVec.toInt_lt (x := v)
    omega⟩
  have := hlow (by omega)
  omega

/-! ### Reads and writes of buffers -/

theorem rRead_in {buf : Bytes} {n : Nat} {f : Nat → Lane → Lane} (h : rAddr x r + n ≤ buf.length) :
    rRead buf n r f x = f (fld buf (rAddr x r) n) x := if_neg (by omega)

theorem rRead_out {buf : Bytes} {n : Nat} {f : Nat → Lane → Lane} (h : buf.length < rAddr x r + n) :
    rRead buf n r f x = rTrapWith 3 x := if_pos h

/-- The bytes of OUT after a store. -/
def storedOut (out : Bytes) (a : Nat) (d : Bytes) : Bytes := overwrite (slice out 0 (max out.length (a + d.length))) a d

theorem storedOut_length (out : Bytes) (a : Nat) (d : Bytes) : (storedOut out a d).length = max out.length (a + d.length) := by
  unfold storedOut overwrite
  have := slice_length out 0 (max out.length (a + d.length))
  grind

theorem getD_slice_zero (out : Bytes) (n k : Nat) (h : out.length ≤ n) : (slice out 0 n).getD k 0 = out.getD k 0 := by
  have ht : slice out 0 n = out ++ List.replicate (n - out.length) 0 := by
    unfold slice
    rw [List.drop_zero, List.take_of_length_le h]
  rw [ht, List.getD_eq_getElem?_getD, List.getD_eq_getElem?_getD, List.getElem?_append]
  split
  · rfl
  case isFalse hk =>
    rw [List.getElem?_eq_none (Nat.le_of_not_lt hk), List.getElem?_replicate]
    split <;> rfl

theorem storedOut_getD (out : Bytes) (a : Nat) (d : Bytes) (k : Nat) :
    (storedOut out a d).getD k 0 = if a ≤ k ∧ k < a + d.length then d.getD (k - a) 0 else out.getD k 0 := by
  have hs := getD_slice_zero out (max out.length (a + d.length)) k (le_max_left _ _)
  have hlen := slice_length out 0 (max out.length (a + d.length))
  unfold storedOut overwrite
  generalize slice out 0 (max out.length (a + d.length)) = y at hs hlen ⊢
  rw [← hs]
  simp only [List.getD_eq_getElem?_getD, List.getElem?_append, List.length_append, List.length_take, List.getElem?_take,
    List.getElem?_drop]
  have ha : min a y.length = a := by omega
  rw [ha]
  by_cases h1 : k < a
  · rw [if_pos (by omega), if_pos h1, if_pos h1, if_neg (by omega)]
  · by_cases h2 : k < a + d.length
    · rw [if_pos h2, if_neg h1, if_pos (by omega)]
    · rw [if_neg h2, if_neg (by omega), show a + d.length + (k - (a + d.length)) = k by omega]

/-! ### Scalar operations -/

theorem shiftLeft_eq_ofNat (v : W64) (n : Nat) : v <<< n = BitVec.ofNat 64 (v.toNat * 2 ^ n) := by
  apply BitVec.eq_of_toNat_eq
  rw [BitVec.toNat_shiftLeft, BitVec.toNat_ofNat, Nat.shiftLeft_eq]

theorem sshiftRight_eq_ofInt (v : W64) (n : Nat) : v.sshiftRight n = BitVec.ofInt 64 (v.toInt / 2 ^ n) := by
  unfold BitVec.sshiftRight
  rw [Int.shiftRight_eq_div_pow]
  norm_cast

theorem laneOp_sli : laneOp 0x10 r = straight fun y => sSet r.d (immVal r) y := rfl

theorem laneOp_sadd : laneOp 0x11 r = straight fun y => sSet r.d (sGet y r.a + sGet y r.b) y := rfl

theorem laneOp_saddi : laneOp 0x12 r = straight fun y => sSet r.d (sGet y r.a + immVal r) y := rfl

theorem laneOp_ssub : laneOp 0x13 r = straight fun y => sSet r.d (sGet y r.a - sGet y r.b) y := rfl

theorem laneOp_sand : laneOp 0x14 r = straight fun y => sSet r.d (sGet y r.a &&& sGet y r.b) y := rfl

theorem laneOp_sor : laneOp 0x15 r = straight fun y => sSet r.d (sGet y r.a ||| sGet y r.b) y := rfl

theorem laneOp_sxor : laneOp 0x16 r = straight fun y => sSet r.d (sGet y r.a ^^^ sGet y r.b) y := rfl

theorem laneOp_sshl : laneOp 0x17 r = straight fun y => sSet r.d (sGet y r.a <<< (r.imm.toNat % 64)) y := rfl

theorem laneOp_ssra : laneOp 0x18 r = straight fun y => sSet r.d ((sGet y r.a).sshiftRight (r.imm.toNat % 64)) y := rfl

theorem laneOp_sblen : laneOp 0x19 r = straight fun y => sSet r.d (BitVec.ofNat 64 (signedLen (sGet y r.a).toInt)) y := rfl

theorem laneOp_sget : laneOp 0x1A r = straight fun y => sSet r.d (special y (r.imm.toNat % 8)) y := rfl

theorem exec_sblen (h : laneTakes 0x19 l r s) : ∃ n : Nat,
    exec (.rSblen l r) s = .next (laneOn l (fun y => { y with r := y.r.set r.d (BitVec.ofNat 64 n) }) s) ∧ 1 ≤ n ∧ n ≤ 64 ∧
      -(2 ^ (n - 1) : Nat) ≤ (sGet (lane s l) r.a).toInt ∧ (sGet (lane s l) r.a).toInt < (2 ^ (n - 1) : Nat) ∧
      (1 < n → (sGet (lane s l) r.a).toInt < -(2 ^ (n - 2) : Nat) ∨ (2 ^ (n - 2) : Nat) ≤ (sGet (lane s l) r.a).toInt) := by
  obtain ⟨hone, hlt, hge⟩ := signedLen_bounds (sGet (lane s l) r.a).toInt
  obtain ⟨hlo, hhi⟩ := (signedMag_lt _ _).mp hlt
  refine ⟨_, exec_scalar h rfl laneOp_sblen (fun _ => rfl), hone, signedLen_le _, hlo, hhi, fun hn => ?_⟩
  have hout := mt (signedMag_lt _ _).mpr (not_lt.mpr (hge hn))
  omega

theorem exec_sget (h : laneTakes 0x1A l r s) {n : Nat} (hn : r.imm = BitVec.ofNat 32 n) (h8 : n < 8) :
    exec (.rSget l r) s = .next (laneOn l (fun y => { y with r := y.r.set r.d (special (lane s l) n) }) s) := by
  have hi : r.imm.toNat % 8 = n := by
    rw [hn, BitVec.toNat_ofNat]
    omega
  refine exec_scalar h rfl laneOp_sget fun _ => ?_
  rw [hi]
  rfl

/-! ### Loads and stores -/

theorem laneOp_vld : laneOp 0x20 r = straight fun y => rRead y.src 64 r (fun n => vSet r.d (BitVec.ofNat 512 n)) y := rfl

theorem laneOp_sld : laneOp 0x23 r = straight fun y => rRead y.src 8 r (fun n => sSet r.d (BitVec.ofNat 64 n)) y := rfl

theorem laneOp_vst : laneOp 0x22 r = straight fun y => rWrite (toLE 64 (vGet y r.b).toNat) r y := rfl

theorem laneOp_sst : laneOp 0x24 r = straight fun y => rWrite (toLE 8 (sGet y r.b).toNat) r y := rfl

/-- VLDB with a BASE is a read of it. -/
def readBase (r : RFields) (y : Lane) : Lane :=
  match y.base with
  | none => rTrapWith 5 y
  | some b => rRead b 64 r (fun n => vSet r.d (BitVec.ofNat 512 n)) y

theorem laneOp_vldb : laneOp 0x21 r = straight (readBase r) := rfl

theorem readBase_some {b : Bytes} (h : x.base = some b) :
    readBase r x = rRead b 64 r (fun n => vSet r.d (BitVec.ofNat 512 n)) x := by
  unfold readBase
  rw [h]

theorem readBase_none (h : x.base = none) : readBase r x = rTrapWith 5 x := by
  unfold readBase
  rw [h]

theorem exec_vld (h : laneTakes 0x20 l r s) (hin : rAddr (lane s l) r + 64 ≤ (lane s l).src.length) :
    exec (.rVld l r) s = .next (laneOn l
      (fun y => { y with v := y.v.set r.d (BitVec.ofNat 512 (fld (lane s l).src (rAddr (lane s l) r) 64)) }) s) :=
  exec_straight h rfl laneOp_vld (fun _ => rRead_in hin) rfl rfl

theorem exec_sld (h : laneTakes 0x23 l r s) (hin : rAddr (lane s l) r + 8 ≤ (lane s l).src.length) :
    exec (.rSld l r) s = .next (laneOn l
      (fun y => { y with r := y.r.set r.d (BitVec.ofNat 64 (fld (lane s l).src (rAddr (lane s l) r) 8)) }) s) :=
  exec_straight h rfl laneOp_sld (fun _ => rRead_in hin) rfl rfl

theorem exec_vldb {b : Bytes} (h : laneTakes 0x21 l r s) (hb : (lane s l).base = some b) (hin : rAddr (lane s l) r + 64 ≤ b.length) :
    exec (.rVldb l r) s = .next (laneOn l
      (fun y => { y with v := y.v.set r.d (BitVec.ofNat 512 (fld b (rAddr (lane s l) r) 64)) }) s) :=
  exec_straight h rfl laneOp_vldb (fun c => (readBase_some (x := { lane s l with cycles := c }) hb).trans (rRead_in hin)) rfl rfl

theorem exec_vldb_out {b : Bytes} (h : laneTakes 0x21 l r s) (hb : (lane s l).base = some b)
    (hout : b.length < rAddr (lane s l) r + 64) :
    exec (.rVldb l r) s = .next (setLane l { lane s l with cycles := (lane s l).cycles + 1, trap := 3 } s) :=
  exec_straight_trap h rfl laneOp_vldb (by decide) fun c =>
    (readBase_some (x := { lane s l with cycles := c }) hb).trans (rRead_out hout)

theorem exec_vldb_none (h : laneTakes 0x21 l r s) (hb : (lane s l).base = none) :
    exec (.rVldb l r) s = .next (setLane l { lane s l with cycles := (lane s l).cycles + 1, trap := 5 } s) :=
  exec_straight_trap h rfl laneOp_vldb (by decide) fun c => readBase_none (x := { lane s l with cycles := c }) hb

theorem exec_load_trap {buf : Lane → Bytes} {n : Nat} {f : Nat → Lane → Lane} (h : laneTakes op l r s)
    (hi : recipeRow i = some (op, l, r)) (hop : laneOp op r = straight fun y => rRead (buf y) n r f y)
    (hb : ∀ c, buf { lane s l with cycles := c } = buf (lane s l)) (hout : (buf (lane s l)).length < rAddr (lane s l) r + n) :
    exec i s = .next (setLane l { lane s l with cycles := (lane s l).cycles + 1, trap := 3 } s) := by
  refine exec_straight_trap h hi hop (by decide) fun c => ?_
  rw [rRead_out (by rw [hb]; exact hout)]
  rfl

theorem exec_store {d : Lane → Bytes} {e : Bytes} (h : laneTakes op l r s) (hi : recipeRow i = some (op, l, r))
    (hop : laneOp op r = straight fun y => rWrite (d y) r y) (hd : ∀ c, d { lane s l with cycles := c } = e)
    (hin : rAddr (lane s l) r + e.length ≤ 65536) :
    exec i s = .next (laneOn l (fun y => { y with out := storedOut (lane s l).out (rAddr (lane s l) r) e }) s) := by
  refine exec_straight h hi hop (fun c => ?_) rfl rfl
  rw [hd]
  exact if_neg (not_lt.mpr hin)

theorem exec_store_trap {d : Lane → Bytes} {e : Bytes} (h : laneTakes op l r s) (hi : recipeRow i = some (op, l, r))
    (hop : laneOp op r = straight fun y => rWrite (d y) r y) (hd : ∀ c, d { lane s l with cycles := c } = e)
    (hout : 65536 < rAddr (lane s l) r + e.length) :
    exec i s = .next (setLane l { lane s l with cycles := (lane s l).cycles + 1, trap := 4 } s) := by
  refine exec_straight_trap h hi hop (by decide) fun c => ?_
  rw [hd]
  exact if_pos hout

/-- A store of `e` puts its bytes into OUT and no other byte of it, or traps beyond the end. -/
theorem store_spec {d : Lane → Bytes} {e : Bytes} {w : Nat} (h : laneTakes op l r s) (hi : recipeRow i = some (op, l, r))
    (hop : laneOp op r = straight fun y => rWrite (d y) r y) (hd : ∀ c, d { lane s l with cycles := c } = e) (hw : e.length = w) :
    (65536 < rAddr (lane s l) r + w →
      exec i s = .next (setLane l { lane s l with cycles := (lane s l).cycles + 1, trap := 4 } s)) ∧
    (rAddr (lane s l) r + w ≤ 65536 → ∃ o, exec i s = .next (laneOn l (fun y => { y with out := o }) s) ∧
      o.length = max (lane s l).out.length (rAddr (lane s l) r + w) ∧
      ∀ k : Nat, o.getD k 0 = if rAddr (lane s l) r ≤ k ∧ k < rAddr (lane s l) r + w then e.getD (k - rAddr (lane s l) r) 0
        else (lane s l).out.getD k 0) := by
  subst hw
  exact ⟨exec_store_trap h hi hop hd, fun hin => ⟨_, exec_store h hi hop hd hin, storedOut_length _ _ _,
    storedOut_getD _ _ _⟩⟩

end RecipeValues

/-- Settles O58: each scalar instruction is a `straight` one with its value, loads read in range, stores write in range. -/
theorem recipeScalars : Obligations.RecipeScalars := by
  unfold Obligations.RecipeScalars
  refine ⟨fun s l r => ?_, fun s l r => ?_⟩
  · refine ⟨fun h => exec_scalar (v := fun _ => immVal r) h rfl laneOp_sli fun _ => rfl, fun h => exec_scalar h rfl laneOp_sadd fun _ => rfl,
      fun h => exec_scalar h rfl laneOp_saddi fun _ => rfl, fun h => exec_scalar h rfl laneOp_ssub fun _ => rfl,
      fun h => exec_scalar h rfl laneOp_sand fun _ => rfl, fun h => exec_scalar h rfl laneOp_sor fun _ => rfl,
      fun h => exec_scalar h rfl laneOp_sxor fun _ => rfl, fun h => exec_scalar h rfl laneOp_sshl fun _ => ?_,
      fun h => exec_scalar h rfl laneOp_ssra fun _ => ?_, exec_sblen, fun h hn => exec_sget h hn (by decide),
      fun h hn => exec_sget h hn (by decide), fun h hn => exec_sget h hn (by decide), fun h hn => ?_,
      fun h hn => exec_sget h hn (by decide)⟩
    · rw [Nat.mod_eq_of_lt (shift_lt_of_takes h (.inl rfl))]
      exact shiftLeft_eq_ofNat _ _
    · rw [Nat.mod_eq_of_lt (shift_lt_of_takes h (.inr rfl))]
      exact sshiftRight_eq_ofInt _ _
    · rw [exec_sget h hn (by decide)]
      unfold special
      cases (lane s l).base <;> rfl
  · refine ⟨fun h hin => exec_vld h hin, fun h hout => exec_load_trap h rfl laneOp_vld (fun _ => rfl) hout,
      fun b h hb hin => exec_vldb h hb hin, fun b h hb hout => exec_vldb_out h hb hout, exec_vldb_none,
      fun h hin => exec_sld h hin,
      fun h hout => exec_load_trap h rfl laneOp_sld (fun _ => rfl) hout, fun w i hw => ?_⟩
    rcases hw with ⟨rfl, rfl, h⟩ | ⟨rfl, rfl, h⟩
    · exact store_spec h rfl laneOp_vst (fun _ => rfl) (toLE_length 64 _)
    · exact store_spec h rfl laneOp_sst (fun _ => rfl) (toLE_length 8 _)

end Sys2Proof.Machine
end

section
/-! SUPPORT. Vector instructions of a recipe, and a vector as its elements (R184). -/

namespace Sys2Proof.Machine

section Elements

variable {b k n : Nat} {xs : List Int}

/-! ### Signed values of a width -/

theorem wrapN_lt (b : Nat) (x : Int) : wrapN b x < 2 ^ b := by
  have hpos : (0 : Int) < ((2 ^ b : Nat) : Int) := by positivity
  have h0 := Int.emod_nonneg x hpos.ne'
  have h1 := Int.emod_lt_of_pos x hpos
  change (x % ((2 ^ b : Nat) : Int)).toNat < 2 ^ b
  omega

theorem wrapN_cast (b : Nat) (x : Int) : ((wrapN b x : Nat) : Int) = x % ((2 ^ b : Nat) : Int) :=
  Int.toNat_of_nonneg (Int.emod_nonneg x (by positivity))

theorem sext_mod (b n : Nat) : sext b (n % 2 ^ b) = sext b n := by
  unfold sext
  rw [Nat.mod_mod]

theorem wrapN_sext (b n : Nat) : wrapN b (sext b n) = n % 2 ^ b := by
  have hz : ((wrapN b (sext b n) : Nat) : Int) = ((n % 2 ^ b : Nat) : Int) := by
    rw [wrapN_cast]
    unfold sext
    dsimp only
    split
    · rw [Int.sub_emod_right]
      exact_mod_cast Nat.mod_mod n (2 ^ b)
    · exact_mod_cast Nat.mod_mod n (2 ^ b)
  exact_mod_cast hz

theorem sext_bounds (hb : 1 ≤ b) (n : Nat) : -(2 ^ (b - 1) : Nat) ≤ sext b n ∧ sext b n < (2 ^ (b - 1) : Nat) := by
  have hp : 2 ^ b = 2 * 2 ^ (b - 1) := by rw [← Nat.pow_succ', Nat.succ_eq_add_one, Nat.sub_add_cancel hb]
  have hm : n % 2 ^ b < 2 ^ b := Nat.mod_lt _ (by positivity)
  unfold sext
  dsimp only
  generalize n % 2 ^ b = m at hm ⊢
  rw [hp] at hm ⊢
  generalize 2 ^ (b - 1) = p at hm ⊢
  split <;> omega

theorem clampW_spec (w : Nat) (x : Int) : -(2 ^ (w - 1) : Nat) ≤ (clampW w x).1 ∧ (clampW w x).1 < (2 ^ (w - 1) : Nat) ∧
    ((clampW w x).2 = false ↔ -(2 ^ (w - 1) : Nat) ≤ x ∧ x < (2 ^ (w - 1) : Nat)) ∧
    ((clampW w x).2 = false → (clampW w x).1 = x) := by
  have hp : 0 < 2 ^ (w - 1) := by positivity
  unfold clampW
  dsimp only
  generalize 2 ^ (w - 1) = p at hp ⊢
  split_ifs with hlo hhi
  · refine ⟨le_refl _, by dsimp only; omega, by simp; omega, nofun⟩
  · refine ⟨by dsimp only; omega, by dsimp only; omega, by simp; omega, nofun⟩
  · refine ⟨by dsimp only; omega, by dsimp only; omega, by simp; omega, fun _ => rfl⟩

/-! ### Packing elements -/

/-- The number whose digits to the base of a width are the elements, lowest first. -/
def packed (b : Nat) (xs : List Int) : Nat := xs.foldr (fun x a => wrapN b x + 2 ^ b * a) 0

theorem packed_cons (b : Nat) (x : Int) (xs : List Int) : packed b (x :: xs) = wrapN b x + 2 ^ b * packed b xs := rfl

theorem packed_lt (b : Nat) : ∀ xs : List Int, packed b xs < 2 ^ (b * xs.length)
  | [] => by simp [packed]
  | x :: xs => by
    have ih := packed_lt b xs
    have hx := wrapN_lt b x
    rw [packed_cons, List.length_cons, Nat.mul_succ, Nat.add_comm (b * xs.length), pow_add]
    calc wrapN b x + 2 ^ b * packed b xs < 2 ^ b * (packed b xs + 1) := by rw [Nat.mul_succ]; omega
      _ ≤ 2 ^ b * 2 ^ (b * xs.length) := Nat.mul_le_mul_left _ ih

theorem packed_digit (b : Nat) : ∀ (xs : List Int) (i : Nat) (h : i < xs.length), packed b xs / 2 ^ (i * b) % 2 ^ b = wrapN b xs[i]
  | x :: xs, 0, _ => by
    rw [packed_cons, Nat.zero_mul, pow_zero, Nat.div_one, Nat.add_mul_mod_self_left, Nat.mod_eq_of_lt (wrapN_lt b x)]
    rfl
  | x :: xs, i + 1, h => by
    rw [packed_cons, Nat.succ_mul, Nat.add_comm (i * b), pow_add, ← Nat.div_div_eq_div_mul,
      Nat.add_mul_div_left _ _ (by positivity), Nat.div_eq_of_lt (wrapN_lt b x), Nat.zero_add]
    exact packed_digit b xs i (Nat.lt_of_succ_lt_succ h)

theorem packed_digits (b : Nat) : ∀ k n : Nat,
    packed b ((List.range k).map fun i => sext b (n / 2 ^ (i * b))) = n % 2 ^ (b * k)
  | 0, n => by simp [packed, Nat.mod_one]
  | k + 1, n => by
    have hstep : (fun i => sext b (n / 2 ^ (i * b))) ∘ Nat.succ = fun i => sext b (n / 2 ^ b / 2 ^ (i * b)) := by
      funext i
      dsimp only [Function.comp]
      rw [Nat.succ_mul, Nat.add_comm (i * b), pow_add, Nat.div_div_eq_div_mul]
    rw [List.range_succ_eq_map, List.map_cons, List.map_map, hstep, packed_cons, packed_digits b k, wrapN_sext, Nat.zero_mul,
      pow_zero, Nat.div_one, Nat.mul_succ, Nat.add_comm (b * k), pow_add, Nat.mod_mul]

/-! ### Vectors -/

theorem wBits_mul_wElems {c : Nat} (h : c ≤ 4) : wBits c * wElems c = 512 := by
  interval_cases c <;> rfl

theorem one_le_wBits (c : Nat) : 1 ≤ wBits c := Nat.one_le_two_pow

theorem vElems_length (c : Nat) (x : BitVec 512) : (vElems c x).length = wElems c := by
  unfold vElems
  rw [List.length_map, List.length_range]

theorem mem_vElems_bounds {c : Nat} {x : BitVec 512} {y : Int} (h : y ∈ vElems c x) :
    -(2 ^ (wBits c - 1) : Nat) ≤ y ∧ y < (2 ^ (wBits c - 1) : Nat) := by
  unfold vElems at h
  obtain ⟨i, -, rfl⟩ := List.mem_map.mp h
  exact sext_bounds (one_le_wBits c) _

theorem ofElems_vElems {c : Nat} (hc : c ≤ 4) (x : BitVec 512) : ofElems c (vElems c x) = x := by
  have hp : packed (wBits c) (vElems c x) = x.toNat % 2 ^ (wBits c * wElems c) := packed_digits _ _ _
  apply BitVec.eq_of_toNat_eq
  change (BitVec.ofNat 512 (packed (wBits c) (vElems c x))).toNat = _
  rw [hp, wBits_mul_wElems hc, BitVec.toNat_ofNat, Nat.mod_mod, Nat.mod_eq_of_lt x.isLt]

theorem vElems_ofElems {c : Nat} (hc : c ≤ 4) (hlen : xs.length = wElems c) :
    vElems c (ofElems c xs) = xs.map fun x => sext (wBits c) (wrapN (wBits c) x) := by
  have hlt := packed_lt (wBits c) xs
  rw [hlen, wBits_mul_wElems hc] at hlt
  have hn : (ofElems c xs).toNat = packed (wBits c) xs := by
    change (BitVec.ofNat 512 (packed (wBits c) xs)).toNat = _
    rw [BitVec.toNat_ofNat, Nat.mod_eq_of_lt hlt]
  have hlist : vElems c (ofElems c xs) =
      (List.range (wElems c)).map fun i => sext (wBits c) ((ofElems c xs).toNat / 2 ^ (i * wBits c)) := rfl
  rw [hlist, hn]
  refine List.ext_getElem (by simp [hlen]) fun i hi hi' => ?_
  rw [List.getElem_map, List.getElem_range, List.getElem_map, ← sext_mod, packed_digit _ _ _ (by simpa using hi')]

end Elements

/-- Settles O59: a vector is the number whose digits are its elements. -/
theorem vectorElements : Obligations.VectorElements := by
  unfold Obligations.VectorElements
  exact ⟨fun c xs hc hlen => vElems_ofElems hc hlen, fun c x hc => ofElems_vElems hc x,
    fun c x _ => ⟨vElems_length c x, fun y hy => mem_vElems_bounds hy⟩, fun w x _ _ => clampW_spec w x⟩

end Sys2Proof.Machine
end

section
/-! SUPPORT. Element-wise, packing and requantizing vector instructions of a recipe (R172, R184). -/

namespace Sys2Proof.Machine

section VectorRules

variable {i : Instr} {op l : Nat} {r : RFields} {s : State} {x : Lane}

/-! ### Clamped results -/

theorem clampAll_eq (c : Nat) (xs : List Int) : clampAll c xs =
    (xs.map fun z => (clampW (wBits c) z).1, (xs.filter fun z => (clampW (wBits c) z).2).length) := by
  unfold clampAll
  dsimp only
  rw [List.map_map, List.filter_map, List.length_map]
  rfl

theorem putElems_wrap {d c : Nat} {zs : List Int} : putElems d c false zs x = vSet d (ofElems c zs) x := rfl

theorem putElems_clamp {d c : Nat} {zs : List Int} : putElems d c true zs x =
    { vSet d (ofElems c (zs.map fun z => (clampW (wBits c) z).1)) x with
      sat := x.sat + (zs.filter fun z => (clampW (wBits c) z).2).length } := by
  unfold putElems
  rw [if_pos rfl, clampAll_eq]

/-- A result that is clamped and counted with SAT and wraps without. -/
theorem exec_fit {z : Lane → List Int} {zs : List Int} (h : laneTakes op l r s) (hi : recipeRow i = some (op, l, r))
    (hop : laneOp op r = straight fun y => putElems r.d r.w r.f (z y) y) (hz : ∀ c, z { lane s l with cycles := c } = zs) :
    exec i s = .next (if r.f = true then (laneOn l (fun y => { y with
        v := y.v.set r.d (ofElems r.w (zs.map fun z => (clampW (wBits r.w) z).1))
        sat := y.sat + (zs.filter fun z => (clampW (wBits r.w) z).2).length }) s)
      else laneOn l (fun y => { y with v := y.v.set r.d (ofElems r.w zs) }) s) := by
  cases hf : r.f with
  | false =>
    rw [if_neg (by decide)]
    exact exec_straight h hi hop (fun c => by rw [hz, hf]; rfl) rfl rfl
  | true =>
    rw [if_pos rfl]
    exact exec_straight h hi hop (fun c => by rw [hz, hf, putElems_clamp]; rfl) rfl rfl

/-! ### The instructions that put a vector -/

theorem laneOp_vadd : laneOp 0x30 r = straight fun y =>
    putElems r.d r.w r.f ((vElems r.w (vGet y r.a)).zipWith (· + ·) (vElems r.w (vGet y r.b))) y := rfl

theorem laneOp_vsub : laneOp 0x31 r = straight fun y =>
    putElems r.d r.w r.f ((vElems r.w (vGet y r.a)).zipWith (· - ·) (vElems r.w (vGet y r.b))) y := rfl

theorem laneOp_vmin : laneOp 0x32 r = straight fun y =>
    vSet r.d (ofElems r.w ((vElems r.w (vGet y r.a)).zipWith min (vElems r.w (vGet y r.b)))) y := rfl

theorem laneOp_vmax : laneOp 0x33 r = straight fun y =>
    vSet r.d (ofElems r.w ((vElems r.w (vGet y r.a)).zipWith max (vElems r.w (vGet y r.b)))) y := rfl

theorem laneOp_vand : laneOp 0x34 r = straight fun y => vSet r.d (vGet y r.a &&& vGet y r.b) y := rfl

theorem laneOp_vor : laneOp 0x35 r = straight fun y => vSet r.d (vGet y r.a ||| vGet y r.b) y := rfl

theorem laneOp_vxor : laneOp 0x36 r = straight fun y => vSet r.d (vGet y r.a ^^^ vGet y r.b) y := rfl

theorem laneOp_vshl : laneOp 0x37 r = straight fun y =>
    putElems r.d r.w r.f ((vElems r.w (vGet y r.a)).map (· * (2 ^ (r.imm.toNat % 32) : Nat))) y := rfl

theorem laneOp_vsra : laneOp 0x38 r = straight fun y =>
    vSet r.d (ofElems r.w ((vElems r.w (vGet y r.a)).map (·.fdiv (2 ^ (r.imm.toNat % 32) : Nat)))) y := rfl

theorem laneOp_vbcast : laneOp 0x39 r = straight fun y =>
    vSet r.d (ofElems r.w (List.replicate (wElems r.w) (sGet y r.a).toInt)) y := rfl

theorem laneOp_vext : laneOp 0x3A r = straight fun y =>
    sSet r.d (BitVec.ofInt 64 ((vElems r.w (vGet y r.a)).getD (r.imm.toNat % 256) 0)) y := rfl

theorem laneOp_vins : laneOp 0x3B r = straight fun y =>
    vSet r.d (ofElems r.w ((vElems r.w (vGet y r.d)).set (r.imm.toNat % 256) (sGet y r.a).toInt)) y := rfl

theorem laneOp_vcmpz : laneOp 0x3C r = straight fun y => sSet r.d (BitVec.ofNat 64 (b2n (vGet y r.a == 0))) y := rfl

theorem laneOp_vabsmax : laneOp 0x3D r = straight fun y =>
    sSet r.d (BitVec.ofNat 64 ((vElems r.w (vGet y r.a)).foldl (fun a x => max a x.natAbs) 0)) y := rfl

theorem laneOp_vwiden : laneOp 0x40 r = straight fun y =>
    let xs := ((vElems r.w (vGet y r.a)).drop (bits r.imm.toNat 15 8 * wElems (r.imm.toNat % 8))).take (wElems (r.imm.toNat % 8))
    vSet r.d (ofElems (r.imm.toNat % 8) (if r.f then xs.map (fun x => ((wrapN (wBits r.w) x : Nat) : Int)) else xs)) y := rfl

/-! ### Immediates and elements -/

theorem wBits_le {c : Nat} (h : c ≤ 4) : wBits c ≤ 32 := Nat.pow_le_pow_right (by decide) (Nat.succ_le_succ h)

theorem wElems_le (c : Nat) : wElems c ≤ 256 := by
  have h2 : 2 ≤ wBits c := Nat.pow_le_pow_right (n := 2) (by decide) (Nat.succ_le_succ (Nat.zero_le c))
  calc 512 / wBits c ≤ 512 / 2 := Nat.div_le_div_left h2 (by decide)
    _ = 256 := rfl

theorem vector_shift_mod (h : laneTakes op l r s) (hop : op = 0x37 ∨ op = 0x38) : r.imm.toNat % 32 = r.imm.toNat := by
  have hw := wBits_le (width_le_of_takes h)
  have hb := rImmBad_of_takes h
  have hlt : r.imm.toNat < wBits r.w := by
    rcases hop with rfl | rfl
    · exact not_le.mp (of_decide_eq_false hb)
    · exact not_le.mp (of_decide_eq_false hb)
  omega

theorem element_index_mod (h : laneTakes op l r s) (hop : op = 0x3A ∨ op = 0x3B) : r.imm.toNat % 256 = r.imm.toNat := by
  have hw := wElems_le r.w
  have hb := rImmBad_of_takes h
  have hlt : r.imm.toNat < wElems r.w := by
    rcases hop with rfl | rfl
    · exact not_le.mp (of_decide_eq_false hb)
    · exact not_le.mp (of_decide_eq_false hb)
  omega

theorem wrapN_toInt {b : Nat} (hb : b ≤ 64) (v : W64) : wrapN b v.toInt = v.toNat % 2 ^ b := by
  have hz : ((wrapN b v.toInt : Nat) : Int) = ((v.toNat % 2 ^ b : Nat) : Int) := by
    have hd : ((2 ^ b : Nat) : Int) ∣ ((2 ^ 64 : Nat) : Int) := Int.natCast_dvd_natCast.mpr (Nat.pow_dvd_pow 2 hb)
    rw [wrapN_cast, BitVec.toInt_eq_toNat_cond, Int.natCast_mod]
    split
    · rfl
    · exact Int.emod_eq_emod_iff_emod_sub_eq_zero.mpr (Int.emod_eq_zero_of_dvd (by simpa using hd))
  exact_mod_cast hz

theorem foldl_max_le (es : List Int) (n : Nat) : n ≤ es.foldl (fun a y => max a y.natAbs) n ∧
    ∀ e ∈ es, e.natAbs ≤ es.foldl (fun a y => max a y.natAbs) n := by
  induction es generalizing n with
  | nil => exact ⟨Nat.le_refl n, nofun⟩
  | cons e es ih =>
    obtain ⟨hn, hall⟩ := ih (max n e.natAbs)
    exact ⟨(le_max_left _ _).trans hn, List.forall_mem_cons.mpr ⟨(le_max_right _ _).trans hn, hall⟩⟩

theorem foldl_max_mem (es : List Int) (n : Nat) : es.foldl (fun a y => max a y.natAbs) n = n ∨
    ∃ e ∈ es, e.natAbs = es.foldl (fun a y => max a y.natAbs) n := by
  induction es generalizing n with
  | nil => exact .inl rfl
  | cons e es ih =>
    rw [List.foldl_cons]
    rcases ih (max n e.natAbs) with h | ⟨y, hy, h⟩
    · rw [h]
      rcases le_total n e.natAbs with hle | hle
      · exact .inr ⟨e, List.mem_cons_self .., (max_eq_right hle).symm⟩
      · exact .inl (max_eq_left hle)
    · exact .inr ⟨y, List.mem_cons_of_mem _ hy, h⟩

theorem one_le_wElems {c : Nat} (h : c ≤ 4) : 1 ≤ wElems c := by
  interval_cases c <;> decide

theorem exec_vabsmax (h : laneTakes 0x3D l r s) : ∃ n : Nat,
    exec (.rVabsmax l r) s = .next (laneOn l (fun y => { y with r := y.r.set r.d (BitVec.ofNat 64 n) }) s) ∧
    (∀ e ∈ vElems r.w (vGet (lane s l) r.a), e.natAbs ≤ n) ∧ ∃ e ∈ vElems r.w (vGet (lane s l) r.a), e.natAbs = n := by
  refine ⟨_, exec_scalar h rfl laneOp_vabsmax fun _ => rfl, (foldl_max_le _ 0).2, ?_⟩
  rcases foldl_max_mem (vElems r.w (vGet (lane s l) r.a)) 0 with h0 | hm
  · have hlen : 0 < (vElems r.w (vGet (lane s l) r.a)).length := by
      rw [vElems_length]
      exact one_le_wElems (width_le_of_takes h)
    obtain ⟨e, he⟩ := List.exists_mem_of_length_pos hlen
    have hle := (foldl_max_le (vElems r.w (vGet (lane s l) r.a)) 0).2 e he
    exact ⟨e, he, by omega⟩
  · exact hm

theorem exec_vbcast (h : laneTakes 0x39 l r s) : ∃ v,
    exec (.rVbcast l r) s = .next (laneOn l (fun y => { y with v := y.v.set r.d v }) s) ∧
    ∀ e ∈ vElems r.w v, e = sext (wBits r.w) (sGet (lane s l) r.a).toNat := by
  have hw := width_le_of_takes h
  refine ⟨ofElems r.w (List.replicate (wElems r.w) (sGet (lane s l) r.a).toInt),
    exec_vector h rfl laneOp_vbcast fun _ => rfl, fun e he' => ?_⟩
  rw [vElems_ofElems hw List.length_replicate, List.map_replicate, wrapN_toInt ((wBits_le hw).trans (by decide)), sext_mod] at he'
  exact List.eq_of_mem_replicate he'

/-! ### Requantization and packing -/

theorem widened_eq (es : List Int) : (if r.f then es.map (fun x => ((wrapN (wBits r.w) x : Nat) : Int)) else es) =
    es.map fun e => if r.f = true then ((wrapN (wBits r.w) e : Nat) : Int) else e := by
  cases r.f
  · exact (List.map_id' es).symm
  · rfl

/-- VRQ of a lane. -/
def vrqOf (r : RFields) (y : Lane) : Lane :=
  let z := rqElems ((sGet y r.b).toNat % 64) (wBits (r.imm.toNat % 8)) r.f y.lfsr (vElems r.w (vGet y r.a))
  { vSet r.d (ofElems r.w z.1) y with sat := y.sat + z.2.1, lfsr := z.2.2 }

theorem laneOp_vrq : laneOp 0x3E r = straight (vrqOf r) := rfl

theorem exec_vrq_nearest (h : laneTakes 0x3E l r s) (hf : r.f = false) :
    exec (.rVrq l r) s = .next (laneOn l (fun y => { y with
      v := y.v.set r.d (ofElems r.w ((vElems r.w (vGet (lane s l) r.a)).map fun e =>
        (rq e ((sGet (lane s l) r.b).toNat % 64) (wBits (r.imm.toNat % 8)) none).1))
      sat := y.sat + ((vElems r.w (vGet (lane s l) r.a)).filter fun e =>
        (rq e ((sGet (lane s l) r.b).toNat % 64) (wBits (r.imm.toNat % 8)) none).2).length }) s) := by
  refine exec_straight h rfl laneOp_vrq (fun c => ?_) rfl rfl
  unfold vrqOf rqElems
  rw [hf]
  dsimp only
  rw [if_neg (by decide), List.map_map, List.filter_map, List.length_map]
  rfl

theorem rqStoch_lfsr (k w : Nat) (v : W32) (es : List Int) :
    (rqStoch k w v es).2.2 = (List.range es.length).foldl (fun a _ => lfsrStep a) v := by
  induction es generalizing v with
  | nil => rfl
  | cons e es ih =>
    rw [List.length_cons, List.range_succ_eq_map, List.foldl_cons, List.foldl_map]
    exact ih (lfsrStep v)

theorem lane_setLane_self : lane (setLane l x s) l = x := by
  unfold lane setLane Tab.getD
  rw [Tab.get?_put_self]
  rfl

theorem lane_setLane_ne {k : Nat} (h : k ≠ l) : lane (setLane l x s) k = lane s k := by
  unfold lane setLane Tab.getD
  exact congrArg (fun y => Option.getD y ({} : Lane)) (Tab.get?_put_ne s.str.lanes x h)

theorem exec_vrq_stochastic (h : laneTakes 0x3E l r s) (hf : r.f = true) : ∃ t, exec (.rVrq l r) s = .next t ∧
    (lane t l).lfsr = ((List.range (wElems r.w)).foldl (fun a _ => lfsrStep a) (lane s l).lfsr) ∧
    (lane t l).out = (lane s l).out ∧ (lane t l).r = (lane s l).r ∧ ∀ k, k ≠ l → lane t k = lane s k := by
  refine ⟨_, exec_straight (g := vrqOf r) h rfl laneOp_vrq (fun c => rfl) rfl rfl, ?_, ?_, ?_, fun k hk => lane_setLane_ne hk⟩
  · unfold laneOn
    rw [lane_setLane_self]
    unfold vrqOf rqElems
    rw [hf]
    dsimp only
    rw [if_pos rfl, rqStoch_lfsr, vElems_length]
  · unfold laneOn
    rw [lane_setLane_self]
    rfl
  · unfold laneOn
    rw [lane_setLane_self]
    rfl

/-- VNARROW of a lane. -/
def vnarrowOf (r : RFields) (y : Lane) : Lane :=
  let wo := r.imm.toNat % 8
  let k := clampAll wo (vElems r.w (vGet y r.a))
  let old := vElems wo (vGet y r.d)
  let p := bits r.imm.toNat 15 8 * wElems r.w
  { vSet r.d (ofElems wo (old.take p ++ k.1 ++ old.drop (p + wElems r.w))) y with sat := y.sat + k.2 }

theorem laneOp_vnarrow : laneOp 0x3F r = straight (vnarrowOf r) := rfl

theorem vnarrowOf_eq : vnarrowOf r x = { x with
    v := x.v.set r.d (ofElems (r.imm.toNat % 8) ((vElems (r.imm.toNat % 8) (vGet x r.d)).take (bits r.imm.toNat 15 8 * wElems r.w) ++
      ((vElems r.w (vGet x r.a)).map fun e => (clampW (wBits (r.imm.toNat % 8)) e).1) ++
      (vElems (r.imm.toNat % 8) (vGet x r.d)).drop (bits r.imm.toNat 15 8 * wElems r.w + wElems r.w)))
    sat := x.sat + ((vElems r.w (vGet x r.a)).filter fun e => (clampW (wBits (r.imm.toNat % 8)) e).2).length } := by
  unfold vnarrowOf
  dsimp only
  rw [clampAll_eq]
  rfl

end VectorRules

/-- Settles O60: each vector instruction is a `straight` one, with its elements clamped or wrapped. -/
theorem recipeVectors : Obligations.RecipeVectors := by
  unfold Obligations.RecipeVectors
  refine ⟨fun s l r => ?_, fun s l r => ?_⟩
  · refine ⟨fun h => exec_fit h rfl laneOp_vadd fun _ => rfl, fun h => exec_fit h rfl laneOp_vsub fun _ => rfl,
      fun h => exec_vector h rfl laneOp_vmin fun _ => rfl, fun h => exec_vector h rfl laneOp_vmax fun _ => rfl,
      fun h => exec_vector h rfl laneOp_vand fun _ => rfl, fun h => exec_vector h rfl laneOp_vor fun _ => rfl,
      fun h => exec_vector h rfl laneOp_vxor fun _ => rfl, fun h => exec_fit h rfl laneOp_vshl fun _ => ?_,
      fun h => exec_vector h rfl laneOp_vsra fun _ => ?_, exec_vbcast⟩
    · rw [vector_shift_mod h (.inl rfl)]
      rfl
    · rw [vector_shift_mod h (.inr rfl)]
      refine congrArg _ (List.map_congr_left fun e _ => ?_)
      exact Int.fdiv_eq_ediv_of_nonneg _ (by positivity)
  · refine ⟨fun h => exec_scalar h rfl laneOp_vext fun _ => ?_, fun h => exec_vector h rfl laneOp_vins fun _ => ?_,
      fun h => exec_scalar h rfl laneOp_vcmpz fun _ => ?_, exec_vabsmax, exec_vrq_nearest, exec_vrq_stochastic,
      fun h => exec_straight h rfl laneOp_vnarrow (fun _ => vnarrowOf_eq) rfl rfl,
      fun h => exec_vector h rfl laneOp_vwiden fun _ => ?_⟩
    · rw [element_index_mod h (.inl rfl)]
      rfl
    · rw [element_index_mod h (.inr rfl)]
      rfl
    · change BitVec.ofNat 64 (b2n (vGet (lane s l) r.a == 0)) = _
      by_cases h0 : vGet (lane s l) r.a = 0
      · rw [if_pos h0, beq_iff_eq.mpr h0]
        rfl
      · rw [if_neg h0, beq_false_of_ne h0]
        rfl
    · exact congrArg (ofElems (r.imm.toNat % 8)) (widened_eq _)

end Sys2Proof.Machine
end

section
/-! SUPPORT. The OR of two dirty-plate banks (R27, R114). -/

namespace Sys2Proof.Machine

section BankUnion

variable {a b : Iset} {s : State}

/-- Every interval of a set has an element. -/
def Iset.proper (a : Iset) : Prop := ∀ i ∈ a, i.1 < i.2

theorem Iset.mem_cons (i : Nat × Nat) (a : Iset) (p : Nat) :
    Iset.mem (i :: a) p = (decide (i.1 ≤ p) && decide (p < i.2) || Iset.mem a p) := rfl

theorem Iset.mem_add {lo hi : Nat} (hlt : lo < hi) (ha : Iset.proper a) (p : Nat) :
    Iset.mem (Iset.add a lo hi) p = (Iset.mem a p || decide (lo ≤ p) && decide (p < hi)) := by
  induction a generalizing lo hi with
  | nil => simp [Iset.add, Iset.mem]
  | cons i r ih =>
    obtain ⟨hi0, hr⟩ := List.forall_mem_cons.mp ha
    unfold Iset.add
    split_ifs with h1 h2
    · rw [Iset.mem_cons, Bool.or_comm]
    · rw [Iset.mem_cons, ih hlt hr, Iset.mem_cons, Bool.or_assoc]
    · have hmerged : (decide (min lo i.1 ≤ p) && decide (p < max hi i.2)) =
          (decide (i.1 ≤ p) && decide (p < i.2) || decide (lo ≤ p) && decide (p < hi)) := by
        rw [Bool.eq_iff_iff]
        simp only [Bool.and_eq_true, Bool.or_eq_true, decide_eq_true_eq]
        omega
      rw [ih (by omega) hr, hmerged, Iset.mem_cons, ← Bool.or_assoc, Bool.or_comm (Iset.mem r p)]

theorem Iset.proper_add {lo hi : Nat} (hlt : lo < hi) (ha : Iset.proper a) : Iset.proper (Iset.add a lo hi) := by
  induction a generalizing lo hi with
  | nil => exact List.forall_mem_singleton.mpr hlt
  | cons i r ih =>
    obtain ⟨hi0, hr⟩ := List.forall_mem_cons.mp ha
    unfold Iset.add
    split_ifs
    · exact List.forall_mem_cons.mpr ⟨hlt, ha⟩
    · exact List.forall_mem_cons.mpr ⟨hi0, ih hlt hr⟩
    · exact ih (by omega) hr

theorem Iset.mem_union (ha : Iset.proper a) (hb : Iset.proper b) (p : Nat) :
    Iset.mem (Iset.union a b) p = (Iset.mem a p || Iset.mem b p) := by
  unfold Iset.union
  induction b generalizing a with
  | nil => exact (Bool.or_false _).symm
  | cons i r ih =>
    obtain ⟨hi0, hr⟩ := List.forall_mem_cons.mp hb
    rw [List.foldl_cons, ih (Iset.proper_add hi0 ha) hr, Iset.mem_add hi0 ha, Iset.mem_cons, Bool.or_assoc]

theorem collBank_proper (h0 : Iset.proper s.cap.bank0) (h1 : Iset.proper s.cap.bank1) : Iset.proper (collBank s) := by
  unfold collBank
  split
  · exact h1
  · exact h0

theorem capBank_proper (h0 : Iset.proper s.cap.bank0) (h1 : Iset.proper s.cap.bank1) : Iset.proper (capBank s) := by
  unfold capBank
  split
  · exact h0
  · exact h1

theorem capturedSealed_iff : capturedSealed s = true ↔ s.cap.capOf = 0 ∨ ∃ e, epoch? s s.cap.capOf = some e ∧ e.phase = 5 := by
  unfold capturedSealed
  rw [Bool.or_eq_true, beq_iff_eq, Option.any_eq_true_iff_get]
  simp [Option.eq_some_iff_get_eq]

end BankUnion

/-- Settles O40: PREP leaves the OR of the banks, or the collecting bank alone when the captured epoch is SEALED. -/
theorem prepKeepsUnsealedPlates : Obligations.PrepKeepsUnsealedPlates := by
  unfold Obligations.PrepKeepsUnsealedPlates
  intro s h0 h1
  obtain ⟨hcap, hcoll⟩ := prepareBanks_banks s
  have hmem := Iset.mem_union (collBank_proper h0 h1) (capBank_proper h0 h1)
  refine ⟨fun p => by rw [hcap]; rfl, fun p hp => ?_, fun hn hopen p => ?_, fun hs => ?_⟩
  · rw [hcoll]
    split
    · exact hp
    · rw [hmem, hp, Bool.true_or]
  · rw [hcoll, if_neg (fun hs => (capturedSealed_iff.mp hs).elim hn fun ⟨e, he, h5⟩ => hopen e he h5), hmem]
  · rw [hcoll, if_pos (capturedSealed_iff.mpr hs)]

end Sys2Proof.Machine
end

section
/-! SUPPORT. Responses of the host bridge (R16, R43, R49, R159, R303, R305, R309, R343, R399). -/

namespace Sys2Proof.Machine

section HostAnswers

variable {id err q seq : Nat} {data : Bytes} {fails : List (Nat × Nat)} {r : HbReq} {s : State}

/-! ### The rows -/

theorem exec_hostReadResponse_of_found (hup : up s = true) (hf : hbFind s id false = some r) :
    exec (.hostReadResponse id err data fails) s = .next
      (if s.regs.gasp.hold then dropHb id s
        else if halted s then keepLate (.hostReadResponse id err data fails) s
        else withChecks fails (hbAnswered r (hbRead1 r err data)) s) := by
  change Host.Outcome.next (when (up s) (hostReadResponse id err data fails) s) = _
  rw [when, if_pos hup, hostReadResponse, hf]

theorem exec_hostReadResponse_of_none (hf : hbFind s id false = none) :
    exec (.hostReadResponse id err data fails) s = .next s := by
  change Host.Outcome.next (when (up s) (hostReadResponse id err data fails) s) = _
  rw [when, hostReadResponse, hf, ite_self]

theorem exec_hostWriteResponse_of_found (hup : up s = true) (hf : hbFind s id true = some r) (ht : r.tries < 4) :
    exec (.hostWriteResponse id err) s = .next
      (if s.regs.gasp.hold then dropHb id s
        else if halted s && !inHalt r then keepLate (.hostWriteResponse id err) s
        else hbAnswered r (hbWrite1 r err) s) := by
  change Host.Outcome.next (when (up s) (hostWriteResponse id err) s) = _
  rw [when, if_pos hup, hostWriteResponse, hf]
  exact congrArg Host.Outcome.next (if_congr Iff.rfl rfl (if_neg (Nat.not_le.mpr ht)))

theorem exec_hostWriteResponse_of_none (hf : hbFind s id true = none) : exec (.hostWriteResponse id err) s = .next s := by
  change Host.Outcome.next (when (up s) (hostWriteResponse id err) s) = _
  rw [when, hostWriteResponse, hf, ite_self]

/-! ### A response shows its grant -/

theorem hbGranted_of_granted (h : ∀ x ∈ s.out.hb, x.id = r.id → x.granted = true) : hbGranted r s = s := by
  have hany : (s.out.hb.any fun x => x.id == r.id && !x.granted) = false := by
    rw [List.any_eq_false]
    intro x hx hb
    rw [Bool.and_eq_true, beq_iff_eq, Bool.not_eq_true'] at hb
    rw [h x hx hb.1] at hb
    exact Bool.noConfusion hb.2
  unfold hbGranted
  cases s.out.hb.length + slotsToPresent s with
  | zero => rfl
  | succ n =>
    unfold grantHbTo
    rw [hany]
    rfl

theorem hbAnswered_of_granted (f : State → State) (hr : r ∈ s.out.hb) (h : ∀ x ∈ s.out.hb, x.id = r.id → x.granted = true) :
    hbAnswered r f s = f s := by
  unfold hbAnswered
  rw [hbGranted_of_granted h]
  refine if_pos (List.any_eq_true.mpr ⟨r, hr, ?_⟩)
  rw [h r hr rfl, beq_self_eq_true]
  rfl

/-- The state in which a request has been granted at its channel. -/
def hbMarked (c : Nat) (w : Wait) (s : State) : State :=
  counted (32 + c) w { s with out.hb := updWhere (fun r => r.id == w.id) (fun r => { r with granted := true }) s.out.hb }

theorem hbMarked_hb (c : Nat) (w : Wait) (s : State) : (hbMarked c w s).out.hb =
    s.out.hb.map fun x => if x.id == w.id then { x with granted := true } else x := rfl

theorem grantHb_of_plain {w : Wait} (hw : pick s (arb s (32 + r.chan)) (hbWaiting s r.chan) = some w) (hid : w.id = r.id)
    (hone : ∀ x ∈ s.out.hb, x.id = r.id → x = r) (hk : ∀ q st p, r.kind ≠ .slots q st p) :
    grantHb r.chan s = hbMarked r.chan w s := by
  have hg : grantHb r.chan s = match (hbMarked r.chan w s).out.hb.find? fun r => r.id == w.id with
      | none => hbMarked r.chan w s
      | some r' => match r'.kind with
        | .slots q start _ => presentSlots q start (hbMarked r.chan w s)
        | _ => hbMarked r.chan w s := by
    unfold grantHb
    rw [hw]
    rfl
  rw [hg]
  split
  · rfl
  · next r' hr' =>
    obtain ⟨x, hx, hxr⟩ := List.mem_map.mp (List.mem_of_find?_eq_some hr')
    have hid' := List.find?_some hr'
    have hxid : x.id = r.id := by
      rw [← hxr] at hid'
      rw [← hid]
      split at hid' <;> exact beq_iff_eq.mp hid'
    have hkind : r'.kind = r.kind := by
      rw [← hxr, hone x hx hxid]
      split <;> rfl
    split
    · next q start p hs => exact absurd (hkind ▸ hs) (hk q start p)
    · rfl

theorem hbAnswered_of_picked (f : State → State) {w : Wait} (hr : r ∈ s.out.hb)
    (hw : pick s (arb s (32 + r.chan)) (hbWaiting s r.chan) = some w) (hid : w.id = r.id) (hg : r.granted = false)
    (hone : ∀ x ∈ s.out.hb, x.id = r.id → x = r) (hk : ∀ q st p, r.kind ≠ .slots q st p) :
    hbAnswered r f s = f (grantHb r.chan s) := by
  have hgrant := grantHb_of_plain hw hid hone hk
  have hall : ∀ x ∈ (hbMarked r.chan w s).out.hb, x.id = r.id → x.granted = true := by
    rw [hbMarked_hb]
    intro x hx hxid
    obtain ⟨y, -, rfl⟩ := List.mem_map.mp hx
    split at hxid
    · next h => rw [if_pos h]
    · next h => exact absurd (beq_iff_eq.mpr (hxid.trans hid.symm)) h
  have hmem : { r with granted := true } ∈ (hbMarked r.chan w s).out.hb := by
    rw [hbMarked_hb]
    exact List.mem_map.mpr ⟨r, hr, if_pos (beq_iff_eq.mpr hid.symm)⟩
  have hone' : hbGranted r s = hbMarked r.chan w s := by
    have hrest : ∀ n, grantHbTo n r.id r.chan (hbMarked r.chan w s) = hbMarked r.chan w s := by
      intro n
      cases n with
      | zero => rfl
      | succ n =>
        unfold grantHbTo
        refine if_neg fun h => ?_
        obtain ⟨x, hx, hb⟩ := List.any_eq_true.mp h
        rw [Bool.and_eq_true, beq_iff_eq, Bool.not_eq_true'] at hb
        rw [hall x hx hb.1] at hb
        exact Bool.noConfusion hb.2
    have hlen := List.length_pos_of_mem hr
    unfold hbGranted
    obtain ⟨n, hn⟩ := Nat.exists_eq_add_of_lt (Nat.add_pos_left hlen (slotsToPresent s))
    rw [hn, Nat.zero_add]
    unfold grantHbTo
    rw [if_pos (List.any_eq_true.mpr ⟨r, hr, by rw [hg, beq_self_eq_true]; rfl⟩), hgrant, hrest]
  unfold hbAnswered
  rw [hone', hgrant]
  exact if_pos (List.any_eq_true.mpr ⟨_, hmem, by rw [Bool.and_eq_true]; exact ⟨beq_self_eq_true r.id, rfl⟩⟩)

/-! ### Reissues and what a read delivers -/

theorem hbError_of_err (h : err = 1 ∨ err = 2) : hbError err = true := by
  rcases h with rfl | rfl <;> rfl

theorem hbError_of_good (h1 : err ≠ 1) (h2 : err ≠ 2) : hbError err = false := by
  unfold hbError
  rw [beq_false_of_ne h1, beq_false_of_ne h2]
  rfl

theorem reissueHb_eq (id : Nat) (s : State) : reissueHb id s = { s with out.hb := s.out.hb.map fun x =>
    if x.id = id then { x with tries := x.tries + 1, granted := false } else x } := by
  unfold reissueHb updWhere
  simp only [beq_iff_eq]

theorem hbRead1_reissued (he : err = 1 ∨ err = 2) (ht : r.tries < 3) : hbRead1 r err data s = reissueHb r.id s :=
  if_pos ⟨hbError_of_err he, ht⟩

theorem hbRead1_failed (he : err = 1 ∨ err = 2) (ht : 3 ≤ r.tries) :
    hbRead1 r err data s = settleAfter (hbReadDone r none (dropHb r.id s)) := by
  unfold hbRead1
  rw [if_neg fun h => Nat.not_le.mpr h.2 ht, if_pos (hbError_of_err he)]

theorem hbRead1_good (h1 : err ≠ 1) (h2 : err ≠ 2) :
    hbRead1 r err data s = settleAfter (hbReadDone r (some (slice data 0 r.len)) (dropHb r.id s)) := by
  have he := hbError_of_good h1 h2
  unfold hbRead1
  rw [he, if_neg (fun h => Bool.false_ne_true h.1), if_neg Bool.false_ne_true]

theorem hbReadDone_vread {blk i : Nat} (h : r.kind = .vread blk i) (d : HostRead) : hbReadDone r d s = match d with
    | some b => sectorArrives blk i r.again b s
    | none => keepSector blk i [] 1 s := by
  unfold hbReadDone
  rw [h]
  cases d <;> rfl

theorem hbReadDone_ixPage {ctx page : Nat} (h : r.kind = .ixPage ctx page) (d : HostRead) :
    hbReadDone r d s = pageArrives ctx page d s := by
  unfold hbReadDone
  rw [h]

theorem hbReadDone_slots {st p : Nat} (h : r.kind = .slots q st p) (d : HostRead) : hbReadDone r d s = slotsArrive q st p d s := by
  unfold hbReadDone
  rw [h]

theorem hbWrite1_reissued (he : err = 1 ∨ err = 2) (ht : r.tries < 3) : hbWrite1 r err s = reissueHb r.id s := by
  unfold hbWrite1
  rw [if_pos (hbError_of_err he), if_pos ht]

theorem hbWrite1_mirrorFails (he : err = 1 ∨ err = 2) (ht : r.tries = 3) (hm : isMirrorWrite r = true) :
    hbWrite1 r err s = mirrorFails r.id s := by
  unfold hbWrite1
  rw [if_pos (hbError_of_err he), if_neg (by omega), if_pos hm]

theorem hbWrite1_good : hbWrite1 r 0 s = settleAfter (settleCompact (hbWriteDone r (dropHb r.id s))) := rfl

end HostAnswers

section PolledSlot

variable {q p : Nat} {s : State} {x : Queue} {t : Take} {w : Nat × Nat} {b : Bytes}

/-- The queue once the slot that it polls has been read again. -/
def polledQueue (x : Queue) (w : Nat × Nat) (b : Bytes) : Queue :=
  { x with takes := [], waitPub := if published x w b = true then none else some w }

theorem takeDone_of_polled (hx : queue? s q = some x) (ht : x.takes = [t]) (hf : t.failed = false) (hw : t.want = 0)
    (hb : (Tab.vals t.parts).flatten = b) (hpub : x.waitPub = some w) :
    (takeDone q t s).ldg = s.ldg ∧ (takeDone q t s).out.hb = s.out.hb ∧ queue? (takeDone q t s) q = some (polledQueue x w b) := by
  have htail : queue? (onQ q (fun y => { y with takes := y.takes.tail }) s) q = some { x with takes := [] } := by
    rw [queue?_onQ, if_pos rfl, hx, Option.map_some, ht]
    rfl
  have heq : takeDone q t s = if published x w b then onQ q (fun y => { y with waitPub := none })
      (onQ q (fun y => { y with takes := y.takes.tail }) s) else onQ q (fun y => { y with takes := y.takes.tail }) s := by
    unfold takeDone
    rw [hx]
    dsimp only
    rw [hf, if_neg (by decide), if_pos hw, hb, hpub]
    rfl
  rw [heq]
  by_cases hp : published x w b = true
  · rw [if_pos hp, polledQueue, if_pos hp, queue?_onQ, if_pos rfl, htail]
    exact ⟨rfl, rfl, rfl⟩
  · rw [if_neg hp, polledQueue, if_neg hp, htail, ← hpub]
    exact ⟨rfl, rfl, rfl⟩

theorem takesDone_zero (q : Nat) (s : State) : takesDone 0 q s = s := rfl

/-- A take once the data of its first read has arrived. -/
def gotFirst (b : Bytes) (t : Take) : Take := { t with parts := Tab.put t.parts 0 b, failed := t.failed || false }

/-- The state in which the queue's take that starts at `p` has the data of its first read. -/
def gotSlot (q p : Nat) (b : Bytes) (s : State) : State :=
  onQ q (fun y => { y with takes := updWhere (fun t => t.start == p) (gotFirst b) y.takes }) s

theorem slotsArrive_eq : slotsArrive q p 0 (some b) s =
    takesDone (((queue? (gotSlot q p b s) q).map (·.takes.length)).getD 0) q (gotSlot q p b s) := rfl

theorem takesDone_one {n : Nat} (hx : queue? s q = some x) (ht : x.takes = [t]) (hr : t.parts.length = t.reads) (hn : n = 1) :
    takesDone n q s = takeDone q t s := by
  subst hn
  unfold takesDone
  rw [hx, Option.bind_some, ht]
  exact if_pos hr

/-- The one read of a queue that polls a slot. -/
theorem slotsArrive_of_polled (hx : queue? s q = some x) (ht : x.takes = [t]) (hp : t.start = p) (hw : t.want = 0)
    (hr : t.reads = 1) (hparts : t.parts = []) (hf : t.failed = false) (hpub : x.waitPub = some w) :
    (slotsArrive q p 0 (some b) s).ldg = s.ldg ∧ (slotsArrive q p 0 (some b) s).out.hb = s.out.hb ∧
      queue? (slotsArrive q p 0 (some b) s) q = some (polledQueue x w b) := by
  have hx1 : queue? (gotSlot q p b s) q = some { x with takes := [gotFirst b t] } := by
    unfold gotSlot
    rw [queue?_onQ, if_pos rfl, hx, Option.map_some, ht]
    simp [updWhere, hp]
  have hgot : (gotFirst b t).parts = [(0, b)] := by
    unfold gotFirst
    rw [hparts]
    rfl
  have hfail : (gotFirst b t).failed = false := by
    unfold gotFirst
    rw [hf]
    rfl
  have hstep : slotsArrive q p 0 (some b) s = takeDone q (gotFirst b t) (gotSlot q p b s) := by
    rw [slotsArrive_eq, hx1]
    exact takesDone_one hx1 rfl (by rw [hgot]; exact hr.symm) rfl
  rw [hstep]
  have hdone := takeDone_of_polled (b := b) (w := w) hx1 rfl hfail hw (by rw [hgot]; exact List.append_nil b) hpub
  exact hdone

end PolledSlot

end Sys2Proof.Machine
end

section
/-! SUPPORT. Acknowledged and failed mirror writes (R21, R49, R303, R305). -/

namespace Sys2Proof.Machine

section KeepsRequests

variable {r : HbReq} {s : State}

/-! ### An event keeps the requests that are outstanding -/

theorem mem_hb_writeOverflow (h : r ∈ s.out.hb) : r ∈ (writeOverflow s).out.hb := by
  unfold writeOverflow
  split
  · exact mem_hb_writeEvent _ h
  · exact h

theorem mem_hb_flushHeld (l : List Event) (h : r ∈ s.out.hb) : r ∈ (flushHeld l s).out.hb := by
  induction l generalizing s with
  | nil => exact mem_hb_writeOverflow (s := { s with ring.ev.held := [] }) h
  | cons e l ih =>
    unfold flushHeld
    split
    · exact ih (mem_hb_writeEvent e h)
    · exact h

theorem mem_hb_catchUp (h : r ∈ s.out.hb) : r ∈ (catchUp s).out.hb := by
  unfold catchUp
  split
  · exact mem_hb_flushHeld _ h
  · exact h

theorem mem_hb_formed (e : Event) (h : r ∈ s.out.hb) : r ∈ (if !evUp s then
    if s.ring.ev.held.length < 64 then { s with ring.ev.held := s.ring.ev.held ++ [e] } else dropEvent s
  else if s.regs.gasp.hold then dropEvent s
  else if (catchUp s).ring.ev.held = [] ∧ (catchUp s).ring.ev.dropped = 0 ∧ 0 < evRoom (catchUp s) then
    writeEvent e (catchUp s) else dropEvent (catchUp s)).out.hb := by
  split
  · split <;> exact h
  · split
    · exact h
    · split
      · exact mem_hb_writeEvent e (mem_hb_catchUp h)
      · exact mem_hb_catchUp h

theorem mem_hb_emit (e : Event) (h : r ∈ s.out.hb) : r ∈ (emit e s).out.hb := by
  unfold emit
  dsimp only
  split
  · exact mem_hb_formed e (s := hitKind 4 (fun b => bit b.arg (bits e.detail 61 60))
      (hitKind 5 (fun b => bits b.arg 15 0 == e.code) s)) h
  · exact mem_hb_formed e (s := hitKind 5 (fun b => bits b.arg 15 0 == e.code) s) h

theorem mem_hb_raise0 (code sev d : Nat) (h : r ∈ s.out.hb) : r ∈ (raise0 code sev d s).out.hb := mem_hb_emit _ h

end KeepsRequests

section MirrorWrites

variable {id err lsn q seq : Nat} {r : HbReq} {s : State} {c : Cmd} {x : Queue}

theorem gasp_onlyEvents {t : State} (h : onlyEvents s t) : t.regs = s.regs := by
  rw [h]

theorem exec_mirrorFault_of_found (hup : up s = true) (hh : s.regs.gasp.hold = false) (hf : hbFind s id true = some r)
    (hm : isMirrorWrite r = true) : exec (.mirrorFault id) s = .next (mirrorFails id s) := by
  change Host.Outcome.next (when (up s && !s.regs.gasp.hold) (mirrorFaultRow id) s) = _
  rw [when, hup, hh, mirrorFaultRow, hf]
  exact congrArg _ (if_pos hm)

theorem latchGasp_five (h : s.regs.gasp.valid = false) :
    (latchGasp 5 s).regs.gasp.cause = 5 ∧ (latchGasp 5 s).regs.gasp.valid = true := by
  unfold latchGasp
  dsimp only
  rw [h, if_pos (by rfl)]
  exact ⟨rfl, rfl⟩

theorem latchGasp_out (n : Nat) (s : State) : (latchGasp n s).out = s.out ∧ (latchGasp n s).ldg = s.ldg := by
  unfold latchGasp
  dsimp only
  split <;> exact ⟨rfl, rfl⟩

/-- The state in which a mirror write that failed is kept and acceptance has stopped. -/
def mirrorStopped (id : Nat) (s : State) : State :=
  { s with
    out.hb := updWhere (fun r => r.id == id) (fun r => { r with tries := 4 }) s.out.hb
    ldg.mirrorFault := true }

theorem mirrorFails_of_first (h : s.ldg.mirrorFault = false) : mirrorFails id s =
    raise0 0x0A04 2 (firstPending { s with out.hb := updWhere (fun r => r.id == id) (fun r => { r with tries := 4 }) s.out.hb })
      (latchGasp 5 (mirrorStopped id s)) := by
  unfold mirrorFails
  exact if_neg (by rw [h]; decide)

theorem mirrorFails_spec (hr : r ∈ s.out.hb) (hid : r.id = id) (h : s.ldg.mirrorFault = false) :
    (mirrorFails id s).ldg = { s.ldg with mirrorFault := true } ∧
    (s.regs.gasp.valid = false → (mirrorFails id s).regs.gasp.cause = 5 ∧ (mirrorFails id s).regs.gasp.valid = true) ∧
    ∃ x ∈ (mirrorFails id s).out.hb, x.id = id ∧ x.tries = 4 := by
  obtain ⟨hout, hldg⟩ := latchGasp_out 5 (mirrorStopped id s)
  have hmem : { r with tries := 4 } ∈ (latchGasp 5 (mirrorStopped id s)).out.hb := by
    rw [hout]
    exact List.mem_map.mpr ⟨r, hr, if_pos (beq_iff_eq.mpr hid)⟩
  rw [mirrorFails_of_first h]
  refine ⟨?_, fun hv => ?_, _, mem_hb_raise0 _ _ _ hmem, hid, rfl⟩
  · rw [raise0_ldg, hldg]
    rfl
  · rw [gasp_onlyEvents (raise0_events ..)]
    exact latchGasp_five hv

/-! ### Acknowledgements -/

theorem hbWriteDone_mirror {a : Bool} (h : r.kind = .mirror lsn q seq a) (hoff : s.pwr.off = none) :
    hbWriteDone r s = mirrorHealed (mirrored lsn q seq a r.data s) := by
  have hw : hbWriteDone r s = offReached r.data (mirrorHealed (mirrored lsn q seq a r.data s)) := by
    unfold hbWriteDone
    rw [h]
  have hp : (mirrorHealed (mirrored lsn q seq a r.data s)).pwr.off = none := by
    unfold mirrorHealed mirrored
    cases a <;> dsimp only <;> split_ifs <;> exact hoff
  rw [hw, offReached, hp]

theorem mirrorHealed_keeps (s : State) : (mirrorHealed s).ldg.cmds = s.ldg.cmds ∧ (mirrorHealed s).ldg.log = s.ldg.log ∧
    (mirrorHealed s).ring = s.ring ∧ (mirrorHealed s).out = s.out := by
  unfold mirrorHealed
  split <;> exact ⟨rfl, rfl, rfl, rfl⟩

/-- The queue after the mirror has taken in an ACCEPTED record. -/
def headMirrored (seq : Nat) (b : Bytes) (x : Queue) : Queue :=
  if x.mirSeq < seq then
    { x with mirHead := headIn x b, mirSeq := seq, shadowDue := true, head := consumed x (headIn x b) } else x

/-- The command after the mirror has taken in its ACCEPTED record. -/
def cmdMirrored (c : Cmd) : Cmd := { c with mirrored := true }

/-- The log after the mirror has taken in a record. -/
def recMirrored (lsn : Nat) (s : State) : State :=
  { s with ldg.log := updWhere (fun r => r.lsn == lsn) (fun r => { r with mirrored := true }) s.ldg.log }

theorem mirrored_accepted (b : Bytes) : mirrored lsn q seq true b s =
    onQ q (headMirrored seq b) (onCmd q seq cmdMirrored (recMirrored lsn s)) := rfl

theorem recMirrored_log {e : Rec} (h : e ∈ (recMirrored lsn s).ldg.log) (hl : e.lsn = lsn) : e.mirrored = true := by
  obtain ⟨y, -, rfl⟩ := List.mem_map.mp h
  split at hl
  · next hy => rw [if_pos hy]
  · next hy => exact absurd (beq_iff_eq.mpr hl) hy

theorem mirrored_accepted_spec (b : Bytes) (hc : cmd? s q seq = some c) (hx : queue? s q = some x) (hseq : x.mirSeq < seq) :
    cmd? (mirrored lsn q seq true b s) q seq = some { c with mirrored := true } ∧
    queue? (mirrored lsn q seq true b s) q = some { x with
      mirHead := headIn x b, mirSeq := seq, shadowDue := true, head := consumed x (headIn x b) } ∧
    (∀ e ∈ (mirrored lsn q seq true b s).ldg.log, e.lsn = lsn → e.mirrored = true) ∧
    (mirrored lsn q seq true b s).out = s.out := by
  rw [mirrored_accepted]
  refine ⟨?_, ?_, fun e he hl => recMirrored_log he hl, rfl⟩
  · exact cmd?_onCmd (s := recMirrored lsn s) cmdMirrored (fun _ => ⟨rfl, rfl⟩) hc
  · rw [queue?_onQ, if_pos rfl]
    change (queue? s q).map (headMirrored seq b) = _
    rw [hx, Option.map_some, headMirrored, if_pos hseq]

theorem hbWriteDone_result {off : Nat} (h : r.kind = .result q seq off) (hc : cmd? s q seq = some c) :
    hbWriteDone r s = finish q seq c.bad c.badDetail s := by
  unfold hbWriteDone
  rw [h]
  dsimp only
  rw [hc]

end MirrorWrites

/-- Settles O35: an error is reissued or fails, good data goes to its reader, and a response shows its grant. -/
theorem hostResponses : Obligations.HostResponses := by
  unfold Obligations.HostResponses
  refine ⟨fun s id err data fails r hup hf => ?_, fun s id err r hup hf ht => ?_, fun s r f hr =>
    ⟨hbAnswered_of_granted f hr, fun w hw hid hg hone hk => hbAnswered_of_picked f hr hw hid hg hone hk⟩,
    fun s err data r he ht => ?_, fun s data r q p x t w hk hx htk hst hwant hreads hparts hfail hpub => ?_,
    fun s err data r he ht => ?_, fun s err data r h1 h2 => ?_, fun s id err data fails hf => exec_hostReadResponse_of_none hf,
    fun s id err r hup hh hf hm he ht hmf => ?_, fun s r q seq off c hk hc hst h0 => ?_,
    fun s r lsn q seq c x hk hoff hc hx hseq => ?_, fun s id err hf => exec_hostWriteResponse_of_none hf⟩
  · rw [exec_hostReadResponse_of_found hup hf]
    exact ⟨fun hh hd => by rw [hh, hd]; rfl, fun hh => by rw [hh]; rfl, fun hh hd => by rw [hh, hd]; rfl⟩
  · rw [exec_hostWriteResponse_of_found hup hf ht]
    refine ⟨fun hh hd => ?_, fun hh => by rw [hh]; rfl, fun hh hd hi => by rw [hh, hd, hi]; rfl⟩
    have hn : (halted s && !inHalt r) = false := by
      rcases hd with hd | hd
      · rw [hd]; rfl
      · rw [hd]; exact Bool.and_false _
    rw [hh, hn]
    rfl
  · rw [hbRead1_reissued he ht, hbWrite1_reissued he ht, reissueHb_eq]
    exact ⟨rfl, rfl⟩
  · obtain ⟨hldg, hout, hq⟩ := slotsArrive_of_polled (b := slice data 0 r.len) (s := dropHb r.id s) hx htk hst hwant hreads hparts
      hfail hpub
    refine ⟨_, (hbRead1_good (by decide) (by decide)).trans (congrArg settleAfter (hbReadDone_slots hk _)), hout, hldg, hq⟩
  · refine ⟨fun blk i hk => ?_, fun ctx page hk => ?_⟩
    · rw [hbRead1_failed he ht, hbReadDone_vread hk]
      rfl
    · rw [hbRead1_failed he ht, hbReadDone_ixPage hk]
      rfl
  · refine ⟨fun blk i hk => ?_, fun ctx page hk => ?_⟩
    · rw [hbRead1_good h1 h2, hbReadDone_vread hk]
      rfl
    · rw [hbRead1_good h1 h2, hbReadDone_ixPage hk]
      rfl
  · have hid := List.find?_some hf
    rw [Bool.and_eq_true, beq_iff_eq] at hid
    obtain ⟨hldg, hgasp, hhb⟩ := mirrorFails_spec (List.mem_of_find?_eq_some hf) hid.1 hmf
    refine ⟨_, rfl, ?_⟩
    rw [hbWrite1_mirrorFails he ht hm, hid.1, exec_mirrorFault_of_found hup hh hf hm]
    exact ⟨rfl, by rw [hldg], hgasp, hhb, by rw [hldg], by rw [hldg]⟩
  · refine ⟨_, hbWrite1_good.trans (congrArg (fun u => settleAfter (settleCompact u)) (hbWriteDone_result hk hc)), ?_⟩
    have hends := finish_ends (s := dropHb r.id s) c.bad c.badDetail hc (by rw [hst]; decide)
      (h0.imp_right Or.inl)
    exact hends
  · obtain ⟨hcmds, hlog, hring, hout⟩ := mirrorHealed_keeps (mirrored lsn q seq true r.data (dropHb r.id s))
    obtain ⟨hmc, hmq, hml, hmo⟩ := mirrored_accepted_spec (s := dropHb r.id s) (lsn := lsn) r.data hc hx hseq
    refine ⟨_, hbWrite1_good.trans (congrArg (fun u => settleAfter (settleCompact u)) (hbWriteDone_mirror hk hoff)),
      (cmd?_of_cmds hcmds q seq).trans hmc, ?_, ?_, ?_⟩
    · rw [queue?, hring]
      exact hmq
    · rw [hlog]
      exact hml
    · rw [hout, hmo]
      rfl

end Sys2Proof.Machine
end

section
/-! SUPPORT. Responses of the fabric (R16, R141, R309, R329 to R331). -/

namespace Sys2Proof.Machine

section FabricAnswers

variable {id err : Nat} {data : Bytes} {last : Bool} {r : FabReq} {s t u : State}

/-! ### The rows -/

theorem exec_fabricReadResponse_of_none (hf : fabFind s id false = none) : exec (.fabricReadResponse id err data last) s = .next s := by
  change Host.Outcome.next (when (up s) (fabricReadResponse id err data last) s) = _
  rw [when, fabricReadResponse, hf, ite_self]

theorem exec_fabricWriteResponse_of_none (hf : fabFind s id true = none) : exec (.fabricWriteResponse id err) s = .next s := by
  change Host.Outcome.next (when (up s) (fabricWriteResponse id err) s) = _
  rw [when, fabricWriteResponse, hf, ite_self]

theorem hold_blocks_not (hh : s.regs.gasp.hold = false ∨ r.kind = .dbg) : ¬ (s.regs.gasp.hold && r.kind != .dbg) = true := by
  rcases hh with hh | hh
  · rw [hh, Bool.false_and]; exact Bool.false_ne_true
  · rw [hh, bne_self_eq_false, Bool.and_false]; exact Bool.false_ne_true

theorem halt_blocks_not (hd : halted s = false ∨ fabInHalt r = true) : ¬ (halted s && !fabInHalt r) = true := by
  rcases hd with hd | hd
  · rw [hd, Bool.false_and]; exact Bool.false_ne_true
  · rw [hd, Bool.not_true, Bool.and_false]; exact Bool.false_ne_true

theorem exec_fabricReadResponse_of_found (hup : up s = true) (hf : fabFind s id false = some r)
    (hh : s.regs.gasp.hold = false ∨ r.kind = .dbg) (hd : halted s = false ∨ fabInHalt r = true) :
    exec (.fabricReadResponse id err data last) s = .next (fabAnswered r (fabBeat id err data last) s) := by
  change Host.Outcome.next (when (up s) (fabricReadResponse id err data last) s) = _
  rw [when, if_pos hup, fabricReadResponse, hf]
  exact congrArg _ ((if_neg (hold_blocks_not hh)).trans (if_neg (halt_blocks_not hd)))

theorem exec_fabricWriteResponse_of_found (hup : up s = true) (hf : fabFind s id true = some r)
    (hh : s.regs.gasp.hold = false ∨ r.kind = .dbg) (hd : halted s = false ∨ fabInHalt r = true) :
    exec (.fabricWriteResponse id err) s = .next (fabAnswered r (fabWrite1 r err) s) := by
  change Host.Outcome.next (when (up s) (fabricWriteResponse id err) s) = _
  rw [when, if_pos hup, fabricWriteResponse, hf]
  exact congrArg _ ((if_neg (hold_blocks_not hh)).trans (if_neg (halt_blocks_not hd)))

theorem fabFind_id {w : Bool} (h : fabFind s id w = some r) : r.id = id := by
  have hp := List.find?_some h
  rw [Bool.and_eq_true, beq_iff_eq] at hp
  exact hp.1

/-! ### A response shows its grant -/

theorem grantFabTo_of_granted {port : Nat} {w : Bool} (n : Nat) (h : ∀ x ∈ s.out.fab, x.id = id → x.granted = true) :
    grantFabTo n id port w s = s := by
  cases n with
  | zero => rfl
  | succ n =>
    unfold grantFabTo
    refine if_neg fun hany => ?_
    obtain ⟨x, hx, hb⟩ := List.any_eq_true.mp hany
    rw [Bool.and_eq_true, beq_iff_eq, Bool.not_eq_true'] at hb
    rw [h x hx hb.1] at hb
    exact Bool.noConfusion hb.2

theorem fabAnswered_of_granted (f : State → State) (hr : r ∈ s.out.fab) (h : ∀ x ∈ s.out.fab, x.id = r.id → x.granted = true) :
    fabAnswered r f s = f s := by
  have hg : fabGranted r s = s := by
    unfold fabGranted
    split
    · rfl
    · exact grantFabTo_of_granted _ h
  unfold fabAnswered
  rw [hg]
  refine if_pos (List.any_eq_true.mpr ⟨r, hr, ?_⟩)
  rw [h r hr rfl, beq_self_eq_true]
  rfl

/-- The grant that the arbiter's choice gives. -/
theorem grantFab_of_picked {w : Wait} (hr : r ∈ s.out.fab)
    (hw : pick s (arb s (fabArb r.port r.write)) (fabWaiting s r.port r.write) = some w) (hid : w.id = r.id) :
    (∀ x ∈ (grantFab r.port r.write s).out.fab, x.id = r.id → x.granted = true) ∧
    ∃ x ∈ (grantFab r.port r.write s).out.fab, x.id = r.id := by
  have hfind : ∃ y, (s.out.fab.find? fun x => x.id == w.id) = some y := by
    rw [← Option.isSome_iff_exists, List.find?_isSome]
    exact ⟨r, hr, beq_iff_eq.mpr hid.symm⟩
  obtain ⟨y, hy⟩ := hfind
  have hfab : ∃ m, (grantFab r.port r.write s).out.fab =
      s.out.fab.map fun x => if x.id == w.id then { x with granted := true, mover := m } else x := by
    unfold grantFab
    rw [hw]
    dsimp only
    rw [hy]
    exact ⟨_, rfl⟩
  obtain ⟨m, hm⟩ := hfab
  rw [hm]
  refine ⟨fun x hx hxid => ?_, _, List.mem_map.mpr ⟨r, hr, rfl⟩, ?_⟩
  · obtain ⟨z, -, rfl⟩ := List.mem_map.mp hx
    split at hxid
    · next h => rw [if_pos h]
    · next h => exact absurd (beq_iff_eq.mpr (hxid.trans hid.symm)) h
  · split <;> rfl

theorem fabAnswered_of_picked (f : State → State) {w : Wait} (hr : r ∈ s.out.fab)
    (hw : pick s (arb s (fabArb r.port r.write)) (fabWaiting s r.port r.write) = some w) (hid : w.id = r.id)
    (hg : r.granted = false) (hi : isInjected r = false) : fabAnswered r f s = f (grantFab r.port r.write s) := by
  obtain ⟨hall, x, hx, hxid⟩ := grantFab_of_picked hr hw hid
  have hgrant : fabGranted r s = grantFab r.port r.write s := by
    obtain ⟨n, hn⟩ := Nat.exists_eq_add_of_lt (List.length_pos_of_mem hr)
    unfold fabGranted
    rw [hi, if_neg (by decide), hn, Nat.zero_add]
    unfold grantFabTo
    rw [if_pos (List.any_eq_true.mpr ⟨r, hr, by rw [hg, beq_self_eq_true]; rfl⟩), grantFabTo_of_granted _ hall]
  unfold fabAnswered
  rw [hgrant]
  refine if_pos (List.any_eq_true.mpr ⟨x, hx, ?_⟩)
  rw [hall x hx hxid, hxid, beq_self_eq_true]
  rfl

/-! ### Reissues -/

/-- The fabric's requests and the channels retired are the same. -/
def sameFabric (s t : State) : Prop := t.out.fab = s.out.fab ∧ t.flt.retired = s.flt.retired

theorem sameFabric_trans (h : sameFabric s t) (k : sameFabric t u) : sameFabric s u := ⟨k.1.trans h.1, k.2.trans h.2⟩

theorem sameFabric_of_events (h : onlyEvents s t) : sameFabric s t := by
  rw [h]
  exact ⟨rfl, rfl⟩

theorem poisonEpoch_sameFabric (e : Nat) (s : State) : sameFabric s (poisonEpoch e s) := ⟨rfl, rfl⟩

theorem upset_sameFabric (k : Nat) (s : State) : sameFabric s (upset k s) := by
  unfold upset
  dsimp only
  split
  · exact sameFabric_trans (t := { s with flt.upsets := Tab.del s.flt.upsets k, flt.upsetAt := Tab.put s.flt.upsetAt k s.time.aon })
      ⟨rfl, rfl⟩ (sameFabric_of_events (raise0_events ..))
  · exact ⟨rfl, rfl⟩

theorem markReadBad_sameFabric (r : FabReq) (s : State) : sameFabric s (markReadBad r s) := by
  unfold markReadBad
  dsimp only
  split
  · split <;> exact ⟨rfl, rfl⟩
  · split <;> exact ⟨rfl, rfl⟩
  · exact ⟨rfl, rfl⟩

theorem fabPort_sameFabric (h : sameFabric s t) (a k : Nat) : fabPort t a k = fabPort s a k := by
  unfold fabPort retired
  rw [h.2]

theorem reissueFab_fab (r : FabReq) (s : State) : (reissueFab r s).out.fab = s.out.fab.map fun x => if x.id = r.id then
    { x with tries := r.tries + 1, data := (if r.write then r.data else []), err := 0, granted := false
             failed := r.failed ++ [r.port], port := if r.tries = 0 then r.port else fabPort s r.addr r.tries } else x := by
  have hsame : sameFabric s (upset 7 (if reissueBad s r then markReadBad r s else s)) := by
    refine sameFabric_trans ?_ (upset_sameFabric 7 _)
    split
    · exact markReadBad_sameFabric r s
    · exact ⟨rfl, rfl⟩
  unfold reissueFab onFab updWhere
  dsimp only
  rw [hsame.1, fabPort_sameFabric hsame]
  simp only [beq_iff_eq]

theorem chargeFab_of_first (h : r.failed = []) (s : State) : chargeFab r s = s := by
  unfold chargeFab
  rw [h]

/-! ### Beats -/

/-- A read's request once a beat has arrived. -/
def beatIn (r : FabReq) (err : Nat) (data : Bytes) : FabReq :=
  { r with data := r.data ++ slice data 0 128, err := fabWorse r.err err }

theorem fabBeat_last (hf : fabFind s id false = some r) : fabBeat id err data true s = fabRead1 (beatIn r err data) s := by
  unfold fabBeat
  rw [hf]
  rfl

theorem fabBeat_more (hf : fabFind s id false = some r) :
    fabBeat id err data false s = onFab id (fun _ => beatIn r err data) s := by
  unfold fabBeat
  rw [hf]
  rfl

theorem beatIn_good (h : r.err = 0) : beatIn r 0 data = { r with data := r.data ++ slice data 0 128 } := by
  unfold beatIn
  rw [h]
  cases r
  subst h
  rfl

theorem mayReissue_of_error (hi : isInjected r = false) (he : r.err = 1) (ht : r.tries < 3) : mayReissue r = true := by
  unfold mayReissue
  unfold isInjected at hi
  split
  · next h =>
    rw [h] at hi
    cases hi
  · rw [he, decide_eq_true ht]
    rfl

theorem mayReissue_of_good (he : r.err = 0) : mayReissue r = false := by
  unfold mayReissue
  split
  · rfl
  · rw [he]
    rfl

theorem fabRead1_good (he : r.err = 0) (hf : r.failed = []) :
    fabRead1 r s = serveFilters (settleAfter (fabReadDone r (slice r.data 0 r.len) false (dropFab r.id s))) := by
  unfold fabRead1
  rw [mayReissue_of_good he, if_neg (by decide)]
  dsimp only
  rw [if_pos he, chargeFab_of_first hf, he]
  rfl

theorem fabReadDone_source {blk off : Nat} (hk : r.kind = .source blk off) (d : Bytes) (bad : Bool) (s : State) :
    fabReadDone r d bad s = sourceArrives r blk off d bad (sourcePassed r s) := by
  unfold fabReadDone
  rw [hk]

/-! ### Writes -/

theorem fabWrite1_good (he : err ≠ 1) (hf : r.failed = []) :
    fabWrite1 r err s = serveFilters (settleAfter (fabWriteDone r (dropFab r.id s))) := by
  unfold fabWrite1
  rw [if_neg he, chargeFab_of_first hf]

theorem fabWrite1_reissued (ht : r.tries < 3) : fabWrite1 r 1 s = reissueFab r s := by
  unfold fabWrite1
  rw [if_pos rfl, if_pos ht]

theorem fabWriteDone_plain (hd : r.kind ≠ .dbg) (hg : ∀ t g, r.kind ≠ .group t g) (hh : ∀ t, r.kind ≠ .header t) :
    fabWriteDone r s = s := by
  unfold fabWriteDone
  split
  · next t g h => exact absurd h (hg t g)
  · next t h => exact absurd h (hh t)
  · next h => exact absurd h hd
  · rfl

theorem fabWriteDone_group {t g : Nat} (hk : r.kind = .group t g) : fabWriteDone r s = groupWritten t s := by
  unfold fabWriteDone
  rw [hk]

theorem fabWriteDone_header {t : Nat} (hk : r.kind = .header t) : fabWriteDone r s = headerWritten t s := by
  unfold fabWriteDone
  rw [hk]

end FabricAnswers

/-- Settles O36: beats are kept, the last one delivers or is reissued, and a response shows its grant. -/
theorem fabricResponses : Obligations.FabricResponses := by
  unfold Obligations.FabricResponses
  refine ⟨fun s id err data last r hup hf hh hd => exec_fabricReadResponse_of_found hup hf hh hd,
    fun s id err r hup hf hh hd => exec_fabricWriteResponse_of_found hup hf hh hd, fun s r f hr =>
    ⟨fabAnswered_of_granted f hr, fun w hw hid hg hi _ => fabAnswered_of_picked f hr hw hid hg hi⟩,
    fun s id err data r hf => ?_, fun s id data r blk off hf hk he hfl => ?_, fun s id data r hf he ht hi => ?_,
    fun s id err data last hf => exec_fabricReadResponse_of_none hf, fun s err r he hf hd hg hh => ?_,
    fun s err t r he hf => ⟨fun g hk => ?_, fun hk => ?_⟩, fun s r ht => ?_,
    fun s id err hf => exec_fabricWriteResponse_of_none hf⟩
  · rw [fabBeat_more hf]
    unfold onFab updWhere
    simp only [beq_iff_eq]
    rfl
  · have hread := fabRead1_good (r := { r with data := r.data ++ slice data 0 128 }) (s := s) he hfl
    rw [fabReadDone_source (r := { r with data := r.data ++ slice data 0 128 }) hk] at hread
    rw [fabBeat_last hf, beatIn_good he]
    refine hread.trans ?_
    rw [← fabFind_id hf]
    rfl
  · have herr : (beatIn r 1 data).err = 1 := by
      unfold beatIn fabWorse
      rw [he]
      rfl
    rw [fabBeat_last hf, fabRead1, if_pos (mayReissue_of_error (r := beatIn r 1 data) hi herr ht), reissueFab_fab]
    change s.out.fab.map (fun x => if x.id = r.id then _ else x) = _
    rw [fabFind_id hf]
    rfl
  · rw [fabWrite1_good he hf, fabWriteDone_plain hd hg hh]
    rfl
  · rw [fabWrite1_good he hf, fabWriteDone_group hk]
    rfl
  · rw [fabWrite1_good he hf, fabWriteDone_header hk]
    rfl
  · rw [fabWrite1_reissued ht, reissueFab_fab]

end Sys2Proof.Machine
end

section
/-! SUPPORT. FAULT_HOLD (R315, R316) and the retirement of channels (R310 to R314). -/

namespace Sys2Proof.Machine

section Holding

variable {cause kind ix : Nat} {s t u : State}

/-! ### What a latched cause and a record leave unchanged -/

/-- But for the registers, the rings of events, the host bridge's writes, the log and the debug port nothing differs; the
last-gasp register stays. -/
def onlyReports (s t : State) : Prop := t.cap = s.cap ∧ t.ldg.cmds = s.ldg.cmds ∧ t.ring.queues = s.ring.queues ∧ t.adm = s.adm ∧
  t.flt.retired = s.flt.retired ∧ t.regs.gasp = s.regs.gasp ∧ t.pwr = s.pwr ∧ t.pins = s.pins

theorem onlyReports_trans (h : onlyReports s t) (k : onlyReports t u) : onlyReports s u := by
  obtain ⟨h1, h2, h3, h4, h5, h6, h7, h8⟩ := h
  obtain ⟨k1, k2, k3, k4, k5, k6, k7, k8⟩ := k
  exact ⟨k1.trans h1, k2.trans h2, k3.trans h3, k4.trans h4, k5.trans h5, k6.trans h6, k7.trans h7, k8.trans h8⟩

theorem onlyReports_of_journal (h : onlyJournal s t) : onlyReports s t := by
  rw [h]
  exact ⟨rfl, rfl, rfl, rfl, rfl, rfl, rfl, rfl⟩

theorem onlyReports_of_events (h : onlyEvents s t) : onlyReports s t := by
  rw [h]
  exact ⟨rfl, rfl, rfl, rfl, rfl, rfl, rfl, rfl⟩

theorem latchGasp_spec (cause : Nat) (s : State) : (latchGasp cause s).cap = s.cap ∧ (latchGasp cause s).ldg = s.ldg ∧
    (latchGasp cause s).ring = s.ring ∧ (latchGasp cause s).adm = s.adm ∧ (latchGasp cause s).flt = s.flt ∧
    (latchGasp cause s).regs.gasp.hold = s.regs.gasp.hold ∧ (latchGasp cause s).regs.gasp.valid = true := by
  unfold latchGasp
  dsimp only
  split
  · exact ⟨rfl, rfl, rfl, rfl, rfl, rfl, rfl⟩
  · next h =>
    refine ⟨rfl, rfl, rfl, rfl, rfl, rfl, ?_⟩
    cases hv : s.regs.gasp.valid with
    | true => rfl
    | false =>
      rw [hv] at h
      exact absurd rfl h

theorem latchGasp_cause_of_invalid (h : s.regs.gasp.valid = false) : (latchGasp cause s).regs.gasp.cause = cause := by
  unfold latchGasp
  dsimp only
  rw [h]
  rfl

/-- The causes that enter FAULT_HOLD. -/
def holding (cause : Nat) : Prop := cause = 3 ∨ cause = 4 ∨ cause = 6

theorem latchGasp_cause_of_holding (hc : holding cause) (h : s.regs.gasp.cause ∉ [3, 4, 6]) :
    (latchGasp cause s).regs.gasp.cause = cause := by
  have hn : (s.regs.gasp.cause == 3 || s.regs.gasp.cause == 4 || s.regs.gasp.cause == 6) = false := by
    simpa [not_or, and_assoc] using h
  have hy : (cause == 3 || cause == 4 || cause == 6) = true := by
    rcases hc with rfl | rfl | rfl <;> rfl
  have hcond : (!s.regs.gasp.valid || ((cause == 3 || cause == 4 || cause == 6) &&
      !(s.regs.gasp.cause == 3 || s.regs.gasp.cause == 4 || s.regs.gasp.cause == 6))) = true := by
    rw [hn, hy, Bool.not_false, Bool.and_self, Bool.or_true]
  exact congrArg (fun u : State => u.regs.gasp.cause) (if_pos hcond)

/-! ### Entering FAULT_HOLD -/

/-- The state in which the cause is latched, recorded and reported. -/
def holdReported (cause : Nat) (s : State) : State :=
  raise0 0x0A02 3 (cause + 2 ^ 16 * (((faultRecord 0xFF 0 cause 2 (latchGasp cause s)).ldg.lsn + 2 ^ 32 - 1) % 2 ^ 32))
    (faultRecord 0xFF 0 cause 2 (latchGasp cause s))

/-- The state in which the cut is over and nothing is held. -/
def holdEntered (s : State) : State :=
  { fixUnits { disarmFilters { s with cap.cut := {} } with cap.passants := [] } with regs.gasp.hold := true }

theorem faultHold_eq (h : s.regs.gasp.hold = false) : faultHold cause s = holdEntered (holdReported cause s) := by
  unfold faultHold
  rw [if_neg (by rw [h]; exact Bool.false_ne_true)]
  rfl

theorem holdReported_reports (cause : Nat) (s : State) : onlyReports (latchGasp cause s) (holdReported cause s) :=
  onlyReports_trans (onlyReports_of_journal (append_journal ..)) (onlyReports_of_events (raise0_events ..))

theorem runs_of_hold (h : s.regs.gasp.hold = true) : runs s = false := by
  unfold runs
  rw [h, Bool.not_true, Bool.and_false, Bool.false_and]

theorem faultHold_spec (h : s.regs.gasp.hold = false) : runs (faultHold cause s) = false ∧
    (faultHold cause s).regs.gasp.hold = true ∧ (faultHold cause s).regs.gasp.valid = true ∧
    (faultHold cause s).regs.gasp.cause = (latchGasp cause s).regs.gasp.cause ∧ (faultHold cause s).cap.cut = {} ∧
    (faultHold cause s).cap.filters = [] ∧ (faultHold cause s).cap.passants = [] ∧
    ((faultHold cause s).ldg.cmds = s.ldg.cmds ∧ (faultHold cause s).ring.queues = s.ring.queues ∧
      (faultHold cause s).adm = s.adm) := by
  obtain ⟨-, hldg, hring, hadm, -, -, hvalid⟩ := latchGasp_spec cause s
  obtain ⟨-, hcmds, hqs, hadm', -, hgasp, -, -⟩ := holdReported_reports cause s
  rw [faultHold_eq h]
  generalize holdReported cause s = u at hcmds hqs hadm' hgasp ⊢
  refine ⟨runs_of_hold rfl, rfl, ?_, congrArg (·.cause) hgasp, rfl, rfl, rfl, hcmds.trans (by rw [hldg]),
    hqs.trans (by rw [hring]), hadm'.trans hadm⟩
  exact (congrArg (·.valid) hgasp).trans hvalid

theorem exec_faultHold (hup : up s = true) (hc : holding cause) : exec (.faultHold cause) s = .next (faultHold cause s) := by
  change Host.Outcome.next (when (up s && (cause == 3 || cause == 4 || cause == 6)) (faultHold cause) s) = _
  have hy : (cause == 3 || cause == 4 || cause == 6) = true := by
    rcases hc with rfl | rfl | rfl <;> rfl
  rw [when, hup, hy]
  rfl

/-- While the block does not run, commands and queues stay as they are. -/
theorem exec_of_notRunning (h : runs s = false) (q seq : Nat) (seen : Tab Bytes) : exec (.commandStart q seq) s = .next s ∧
    exec (.itemAccept q) s = .next s ∧ exec (.completionWrite q) s = .next s ∧ exec (.dispatchOpportunity seen) s = .next s := by
  have hw : ∀ f : State → State, when (runs s) f s = s := fun f => by
    rw [when, h]
    rfl
  exact ⟨congrArg _ (hw _), congrArg _ (hw _), congrArg _ (hw _), congrArg _ (hw _)⟩

/-! ### Retirement -/

/-- The state in which a channel is out of service, which is journalled and reported. -/
def outOfService (kind ix cause : Nat) (s : State) : State :=
  raise0 0x0A08 2 (kind + ix * 2 ^ 8 + cause * 2 ^ 16)
    (append 4 0 0xFFFF 0 (toLE 1 kind ++ toLE 1 ix ++ toLE 1 cause) true { s with
      flt.retired := Tab.put s.flt.retired (32 * kind + ix) cause
      flt.charged := Tab.del s.flt.charged (32 * kind + ix) })

/-- What the retirement of a channel moves. -/
def channelWork (kind ix cause : Nat) (s : State) : State :=
  match kind with
  | 0 => laneGone ix s
  | 1 => moveMessages ix (linkDown ix 2 0 s)
  | 2 => moverGone ix s
  | 3 => laneRetired ix s
  | 7 => moveRequests ix s
  | 8 => filterGone ix cause s
  | 9 => macroGone ix cause s
  | _ => s

theorem retire1_of_inService (h : retired s kind ix = false) :
    retire1 kind ix cause s = channelWork kind ix cause (outOfService kind ix cause s) := by
  unfold retire1
  exact if_neg (by rw [h]; exact Bool.false_ne_true)

theorem retire_of_inService (h : retired s kind ix = false) (hk : kind ≠ 0) :
    retire kind ix cause s = channelWork kind ix cause (outOfService kind ix cause s) := by
  rw [retire, retire1_of_inService h]
  exact if_neg fun h0 => hk h0.1

theorem retire_lane (h : retired s 0 ix = false) (hl : lanesLeft (laneGone ix (outOfService 0 ix cause s)) (ix / 4) = true) :
    retire 0 ix cause s = laneGone ix (outOfService 0 ix cause s) := by
  rw [retire, retire1_of_inService h]
  refine if_neg fun h0 => ?_
  have hn : (!lanesLeft (laneGone ix (outOfService 0 ix cause s)) (ix / 4)) = true := h0.2
  rw [hl] at hn
  exact Bool.false_ne_true hn

theorem outOfService_reports (kind ix cause : Nat) (s : State) : onlyReports { s with
    flt.retired := Tab.put s.flt.retired (32 * kind + ix) cause
    flt.charged := Tab.del s.flt.charged (32 * kind + ix) } (outOfService kind ix cause s) :=
  onlyReports_trans (onlyReports_of_journal (append_journal ..)) (onlyReports_of_events (raise0_events ..))

theorem retired_outOfService : retired (outOfService kind ix cause s) kind ix = true := by
  obtain ⟨-, -, -, -, hret, -⟩ := outOfService_reports kind ix cause s
  unfold retired
  rw [hret, Tab.get?_put_self]
  rfl

theorem retired_outOfService_ne {j : Nat} (h : j ≠ ix) : retired (outOfService kind ix cause s) kind j = retired s kind j := by
  obtain ⟨-, -, -, -, hret, -⟩ := outOfService_reports kind ix cause s
  unfold retired
  rw [hret, Tab.get?_put_ne _ _ (by omega)]

theorem gasp_outOfService : (outOfService kind ix cause s).regs.gasp = s.regs.gasp := by
  obtain ⟨-, -, -, -, -, hgasp, -⟩ := outOfService_reports kind ix cause s
  exact hgasp

theorem kind_lt_ten (h : ix < kindCount kind) : kind < 10 := by
  by_contra hge
  unfold kindCount at h
  rw [List.getD_eq_default _ _ (by simpa using Nat.le_of_not_lt hge)] at h
  exact Nat.not_lt_zero _ h

theorem exec_channelRetired (hup : up s = true) (hix : ix < kindCount kind) (h1 : 1 ≤ cause) (h3 : cause ≤ 3) :
    exec (.channelRetired kind ix cause) s = .next (retire kind ix cause s) := by
  change Host.Outcome.next (when _ _ s) = _
  rw [when, hup, decide_eq_true (kind_lt_ten hix), decide_eq_true hix, decide_eq_true h1, decide_eq_true h3]
  rfl

theorem exec_ledgerLost (hup : up s = true) (h3 : cause ≤ 3) (b : Bool) :
    exec (.ledgerLost b cause) s = .next (retire 9 (b2n b) cause s) := by
  change Host.Outcome.next (when _ _ s) = _
  rw [when, hup, decide_eq_true h3]
  rfl

/-! ### The ledger macros -/

/-- LEDGER_LOST of one ledger copy while the other one is in service. -/
def macroReported (ix cause : Nat) (s : State) : State := raise0 0x0A01 2 (ix + cause * 2 ^ 8) (latchGasp (1 + ix) s)

theorem macroGone_first (h : (retired s 9 0 && retired s 9 1) = false) : macroGone ix cause s = macroReported ix cause s := by
  unfold macroGone
  dsimp only
  rw [h]
  rfl

theorem macroGone_second (h : (retired s 9 0 && retired s 9 1) = true) : macroGone ix cause s =
    faultHold 3 { raise0 0x0A01 2 (ix + cause * 2 ^ 8) s with
      flt.retired := Tab.put (raise0 0x0A01 2 (ix + cause * 2 ^ 8) s).flt.retired (288 + ix) (cause + 16) } := by
  unfold macroGone
  dsimp only
  rw [h]
  rfl

theorem macroReported_spec (ix cause : Nat) (s : State) : (macroReported ix cause s).flt.retired = s.flt.retired ∧
    (macroReported ix cause s).regs.gasp = (latchGasp (1 + ix) s).regs.gasp := by
  obtain ⟨-, -, -, -, hflt, -, -⟩ := latchGasp_spec (1 + ix) s
  obtain ⟨-, -, -, -, hret, hgasp, -⟩ := onlyReports_of_events (raise0_events 0x0A01 2 (ix + cause * 2 ^ 8) (latchGasp (1 + ix) s))
  exact ⟨hret.trans (congrArg (·.retired) hflt), hgasp⟩

/-- The ledger copy that is not the named one. -/
theorem other_macro (b : Bool) : (1 : Nat) - b2n b ≠ b2n b := by
  cases b <;> decide

theorem both_macros (b : Bool) (s : State) : (retired s 9 0 && retired s 9 1) = (retired s 9 (b2n b) && retired s 9 (1 - b2n b)) := by
  cases b with
  | false => rfl
  | true => exact Bool.and_comm _ _

end Holding

/-- Settles O37: the hold and each retirement are a report, and what a report leaves is known. -/
theorem retirementAndHold : Obligations.RetirementAndHold := by
  unfold Obligations.RetirementAndHold
  refine ⟨fun s cause hup hh hc => ?_, fun s u kind ix cause hup hix h1 h3 hret hu => ?_,
    fun s b cause hup h3 h0 h1 hv => ?_, fun s b cause hup h3 hb ho hh => ?_⟩
  · obtain ⟨hruns, hhold, hvalid, hcause, hcut, hfil, hpas, hrest⟩ := faultHold_spec (cause := cause) hh
    refine ⟨_, exec_faultHold hup hc, hruns, hhold, hvalid, fun hn => hcause.trans ?_, hcut, hfil, hpas, hrest,
      exec_of_notRunning hruns⟩
    exact hn.elim latchGasp_cause_of_invalid (latchGasp_cause_of_holding hc)
  · have hu' : u = outOfService kind ix cause s := hu
    subst hu'
    have hch := exec_channelRetired hup hix h1 h3
    refine ⟨retired_outOfService, fun h4 h6 => ?_, fun hk => ?_, fun hk => ?_, fun hk hl => ?_, fun hk => ?_, fun hk => ?_,
      fun hk => ?_, fun hk => ?_⟩
    · have hw : channelWork kind ix cause (outOfService kind ix cause s) = outOfService kind ix cause s := by
        interval_cases kind <;> rfl
      rw [hch, retire_of_inService hret (by omega), hw]
    · subst hk
      rw [hch, retire_of_inService hret (by decide)]
      rfl
    · subst hk
      rw [hch, retire_of_inService hret (by decide)]
      rfl
    · subst hk
      rw [hch, retire_lane hret hl]
    · subst hk
      rw [hch, retire_of_inService hret (by decide)]
      rfl
    · subst hk
      rw [hch, retire_of_inService hret (by decide)]
      rfl
    · subst hk
      rw [hch, retire_of_inService hret (by decide)]
      rfl
    · subst hk
      have hb : b2n (decide (ix = 1)) = ix := by
        have hix2 : ix < 2 := hix
        interval_cases ix <;> rfl
      rw [hch, exec_ledgerLost hup h3, hb, retire_of_inService hret (by decide)]
      exact ⟨rfl, rfl⟩
  · have hmine : retired s 9 (b2n b) = false := by cases b <;> assumption
    have hother : retired s 9 (1 - b2n b) = false := by cases b <;> assumption
    have hout : retired (outOfService 9 (b2n b) cause s) 9 (1 - b2n b) = false := by
      rw [retired_outOfService_ne (other_macro b), hother]
    have hfirst : channelWork 9 (b2n b) cause (outOfService 9 (b2n b) cause s) =
        macroReported (b2n b) cause (outOfService 9 (b2n b) cause s) :=
      macroGone_first (by rw [both_macros b, hout, Bool.and_false])
    obtain ⟨hr, hg⟩ := macroReported_spec (b2n b) cause (outOfService 9 (b2n b) cause s)
    obtain ⟨-, -, -, -, -, hhold, hvalid⟩ := latchGasp_spec (1 + b2n b) (outOfService 9 (b2n b) cause s)
    refine ⟨_, (exec_ledgerLost hup h3 b).trans (congrArg _ ((retire_of_inService hmine (by decide)).trans hfirst)), ?_, ?_, ?_, ?_, ?_⟩
    · rw [retired, hr]
      exact retired_outOfService
    · rw [retired, hr]
      exact hout
    · rw [hg, latchGasp_cause_of_invalid (by rw [gasp_outOfService, hv])]
    · rw [hg, hvalid]
    · rw [hg, hhold, gasp_outOfService]
  · have hboth : (retired (outOfService 9 (b2n b) cause s) 9 0 && retired (outOfService 9 (b2n b) cause s) 9 1) = true := by
      rw [both_macros b, retired_outOfService, retired_outOfService_ne (other_macro b), ho]
      rfl
    have hsecond : channelWork 9 (b2n b) cause (outOfService 9 (b2n b) cause s) = _ := macroGone_second (ix := b2n b) (cause := cause) hboth
    refine ⟨_, (exec_ledgerLost hup h3 b).trans (congrArg _ ((retire_of_inService hb (by decide)).trans hsecond)), ?_⟩
    have hrep := onlyReports_of_events (raise0_events 0x0A01 2 (b2n b + cause * 2 ^ 8) (outOfService 9 (b2n b) cause s))
    obtain ⟨-, -, -, -, -, hgasp, -, -⟩ := hrep
    generalize raise0 0x0A01 2 (b2n b + cause * 2 ^ 8) (outOfService 9 (b2n b) cause s) = v at hgasp ⊢
    have hv : ({ v with flt.retired := Tab.put v.flt.retired (288 + b2n b) (cause + 16) } : State).regs.gasp.hold = false := by
      change v.regs.gasp.hold = false
      rw [hgasp, gasp_outOfService, hh]
    obtain ⟨hruns, hhold, -⟩ := faultHold_spec (cause := 3) hv
    exact ⟨hhold, hruns⟩

end Sys2Proof.Machine
end

section
/-! SUPPORT. Errors of the SRAM lanes, scans and merge buffers (R212, R310, R317 to R323). -/

namespace Sys2Proof.Machine

section LaneErrors

variable {site : EccSite} {store ln : Nat} {mask : W64} {s t u : State} {x : Nat × W64 × Byte} {e : Merge}

/-! ### An error is counted and reported -/

theorem exec_eccUe (hup : up s = true) : exec (.eccUe site) s =
    .next (settleAfter (siteEffect site (ueCount (siteLane s site).1 (siteLane s site).2 s))) := by
  change Host.Outcome.next (when (up s) (eccUe site) s) = _
  rw [when, if_pos hup]
  rfl

/-- The state in which an uncorrectable error is counted. -/
def ueCounted (store ln : Nat) (s : State) : State := laneClean store ln (eccCount store ln true s)

theorem ueCount_events (store ln : Nat) (s : State) : onlyEvents (ueCounted store ln s) (ueCount store ln s) := raise0_events ..

theorem ueCount_spec (store ln : Nat) (s : State) : (ueCount store ln s).flt = (ueCounted store ln s).flt ∧
    (ueCount store ln s).regs = (ueCounted store ln s).regs ∧ (ueCount store ln s).cap = s.cap ∧
    (ueCount store ln s).adm = s.adm := by
  have h := ueCount_events store ln s
  refine ⟨by rw [h], by rw [h], by rw [h]; rfl, by rw [h]; rfl⟩

theorem ceCount_spec (store ln : Nat) (s : State) : (ceCount store ln s).regs.eccCe = min 0xFFFFFFFF (s.regs.eccCe + 1) ∧
    (ceCount store ln s).flt.flipped = (laneClean store ln s).flt.flipped ∧ (ceCount store ln s).regs.eccUe = s.regs.eccUe ∧
    (ceCount store ln s).cap = s.cap ∧ (ceCount store ln s).str = s.str := by
  unfold ceCount
  dsimp only
  split
  · rw [raise0_events]
    exact ⟨rfl, rfl, rfl, rfl, rfl⟩
  · exact ⟨rfl, rfl, rfl, rfl, rfl⟩

/-! ### Sites -/

theorem seqTrap_first {a : Nat} (h : Tab.get? u.flt.traps a = none) : seqTrap a false u = raise0 0x0A0B 1 a
    (lanesWrite 11 (a / 8) 1 (lanesWrite 10 0 1 { u with flt.traps := Tab.put u.flt.traps a u.time.aon })) := by
  unfold seqTrap
  refine if_neg fun hc => ?_
  rw [h] at hc
  exact hc.elim Bool.false_ne_true Bool.false_ne_true

theorem seqTrap_rom (a : Nat) (u : State) : seqTrap a true u = faultHold 4 u := if_pos (.inl rfl)

theorem retireSlice_outside {p : Nat} (h : ∀ n, n < 8 → ¬(winFirst s n ≤ p ∧ p < winFirst s n + winLen s n)) : retireSlice p s = s := by
  have hnone : ((List.range 8).find? fun n => decide (winFirst s n ≤ p) && decide (p < winFirst s n + winLen s n)) = none := by
    rw [List.find?_eq_none]
    intro n hn hb
    rw [Bool.and_eq_true, decide_eq_true_eq, decide_eq_true_eq] at hb
    exact h n (List.mem_range.mp hn) hb
  unfold retireSlice
  rw [hnone]

theorem bankWordLost_captured {p : Nat} (hcap : capEpoch s = none)
    (h : ∀ n, n < 8 → ¬(winFirst s n ≤ p ∧ p < winFirst s n + winLen s n)) :
    bankWordLost (!s.cap.coll) p s = { s with cap.bank0 := Iset.add s.cap.bank0 (64 * (p / 64)) (64 * (p / 64) + 64) } := by
  have hne : ¬ (!s.cap.coll) = s.cap.coll := by cases s.cap.coll <;> decide
  have hcap' : capEpoch { s with cap.bank0 := Iset.add s.cap.bank0 (64 * (p / 64)) (64 * (p / 64) + 64) } = none := hcap
  unfold bankWordLost
  dsimp only
  rw [if_neg hne, hcap']
  exact retireSlice_outside h

/-! ### Scans -/

theorem mergeDrain_of_noneIn (p : Nat → Bool) (h : ∀ e ∈ s.flt.merge, e.store ≠ store) :
    mergeDrain (fun e => e.store == store && p e.lane) s = s := by
  have hnone : (s.flt.merge.filter fun e => e.store == store && p e.lane) = [] := by
    rw [List.filter_eq_nil_iff]
    intro e he hb
    rw [Bool.and_eq_true, beq_iff_eq] at hb
    exact h e he hb.1
  unfold mergeDrain
  rw [hnone]
  rfl

theorem readLanes_of_none (p : Nat → Bool) (lost : Nat → State → State) (h : ∀ e ∈ s.flt.merge, e.store ≠ store)
    (hc : corrupted s store p = []) : readLanes store p lost s = s := by
  unfold readLanes
  dsimp only
  rw [mergeDrain_of_noneIn p h, hc]
  rfl

theorem readLanes_of_corrected (p : Nat → Bool) (lost : Nat → State → State) (h : ∀ e ∈ s.flt.merge, e.store ≠ store)
    (hx : flips x = 1) (hc : corrupted s store p = [x]) :
    readLanes store p lost s = ceCount (x.1 / 2 ^ 32) (x.1 % 2 ^ 32) s := by
  unfold readLanes
  dsimp only
  rw [mergeDrain_of_noneIn p h, hc]
  change readLane lost x s = _
  unfold readLane
  rw [hx]
  rfl

theorem corrected_notMem : x ∉ (ceCount (x.1 / 2 ^ 32) (x.1 % 2 ^ 32) s).flt.flipped := by
  obtain ⟨-, hflip, -⟩ := ceCount_spec (x.1 / 2 ^ 32) (x.1 % 2 ^ 32) s
  rw [hflip]
  intro hm
  have hne := (List.mem_filter.mp hm).2
  rw [Nat.div_add_mod', bne_self_eq_false] at hne
  exact Bool.false_ne_true hne

theorem exec_contextScan (hr : runs s = true) (hp : s.pwr.state = 0) : exec .contextScan s = .next (settleAfter (scanContexts s)) := by
  change Host.Outcome.next (when _ _ s) = _
  rw [when, hr, hp]
  rfl

theorem exec_bitmapVerifyPass (hr : up s = true) (hp : s.pwr.state = 0) :
    exec .bitmapVerifyPass s = .next (settleAfter (scanBanks s)) := by
  change Host.Outcome.next (when _ _ s) = _
  rw [when, hr, hp]
  rfl

/-! ### Merge buffers -/

/-- The mask of an entry with the bits of a new write. -/
def mergedMask (store ln : Nat) (mask : W64) (s : State) : W64 :=
  mask ||| (((s.flt.merge.find? (isLane store ln)).map (·.mask)).getD 0)

theorem partWrite_whole (h0 : mask ≠ 0) (h : mergedMask store ln mask s = BitVec.allOnes 64) :
    partWrite store ln mask s = flipHook store ln { s with flt.merge := s.flt.merge.filter fun e => !isLane store ln e } := by
  unfold partWrite
  rw [if_neg h0]
  exact if_pos h

theorem partWrite_waits (h0 : mask ≠ 0) (h1 : mask ≠ BitVec.allOnes 64) (h : ∀ e ∈ s.flt.merge, isLane store ln e = false)
    (hlen : (s.flt.merge.filter fun e => e.store == store).length < 8) :
    partWrite store ln mask s = { s with flt.merge := s.flt.merge ++ [⟨store, ln, mask, s.time.aon⟩] } := by
  have hnone : s.flt.merge.find? (isLane store ln) = none := List.find?_eq_none.mpr fun e he => by
    rw [h e he]
    exact Bool.false_ne_true
  have hall : (s.flt.merge.filter fun e => !isLane store ln e) = s.flt.merge := List.filter_eq_self.mpr fun e he => by
    rw [h e he]
    rfl
  have hor : mask ||| 0 = mask := BitVec.or_zero
  have hsame : ∀ u : State, { u with flt.merge := u.flt.merge ++ [({ store, lane := ln, mask := mask ||| 0, since := u.time.aon } : Merge)] } =
      { u with flt.merge := u.flt.merge ++ [({ store, lane := ln, mask, since := u.time.aon } : Merge)] } := fun u => by rw [hor]
  unfold partWrite
  rw [if_neg h0, hnone]
  dsimp only [Option.map_none, Option.getD_none]
  rw [if_neg (show ¬ mask ||| 0 = BitVec.allOnes 64 by rw [hor]; exact h1)]
  cases hm : s.flt.merge.filter fun e => e.store == store with
  | nil =>
    dsimp only
    rw [hall]
    exact hsame s
  | cons a l =>
    rw [hm] at hlen
    dsimp only
    rw [if_neg (Nat.not_le.mpr hlen), hall]
    exact hsame s

theorem mergeOut_of_uncorrectable (hx : (s.flt.flipped.find? fun x => x.1 == e.store * 2 ^ 32 + e.lane) = some x) (h2 : 2 ≤ flips x) :
    mergeOut e s = invertChecks e.store e.lane (ueCount e.store e.lane (dropMerge e.store e.lane s)) := by
  have hx' : ((dropMerge e.store e.lane s).flt.flipped.find? fun x => x.1 == e.store * 2 ^ 32 + e.lane) = some x := hx
  unfold mergeOut
  dsimp only
  rw [hx']
  exact if_neg (by omega)

theorem invertChecks_unarmed (h : u.regs.flip.arm = false) : (invertChecks store ln u).regs.eccUe = u.regs.eccUe ∧
    (store * 2 ^ 32 + ln, 0, 0xFF) ∈ (invertChecks store ln u).flt.flipped ∧
    (invertChecks store ln u).flt.merge = u.flt.merge := by
  have hhit : (u.regs.flip.arm && u.regs.flip.store == store) = false := by
    rw [h]
    rfl
  refine ⟨rfl, ?_, rfl⟩
  unfold invertChecks
  dsimp only
  rw [hhit]
  exact List.mem_cons_self

theorem mergeOut_spec (harm : s.regs.flip.arm = false)
    (hx : (s.flt.flipped.find? fun x => x.1 == e.store * 2 ^ 32 + e.lane) = some x) (h2 : 2 ≤ flips x) :
    (mergeOut e s).regs.eccUe = min 0xFFFFFFFF (s.regs.eccUe + 1) ∧
      (e.store * 2 ^ 32 + e.lane, 0, 0xFF) ∈ (mergeOut e s).flt.flipped ∧ e ∉ (mergeOut e s).flt.merge := by
  obtain ⟨hflt, hregs, -, -⟩ := ueCount_spec e.store e.lane (dropMerge e.store e.lane s)
  rw [mergeOut_of_uncorrectable hx h2]
  obtain ⟨hue, hmem, hmerge⟩ := invertChecks_unarmed (store := e.store) (ln := e.lane)
    (u := ueCount e.store e.lane (dropMerge e.store e.lane s)) (by rw [hregs]; exact harm)
  refine ⟨hue.trans (congrArg (·.eccUe) hregs), hmem, ?_⟩
  rw [hmerge, hflt]
  intro hm
  have hne := (List.mem_filter.mp hm).2
  have hself : isLane e.store e.lane e = true := by
    unfold isLane
    rw [beq_self_eq_true, beq_self_eq_true]
    rfl
  rw [hself] at hne
  exact Bool.false_ne_true hne

end LaneErrors

/-- Settles O38: counts and reports leave the stores alone, scans read what is corrupted, and merge entries wait or retire. -/
theorem errorsAndScans : Obligations.ErrorsAndScans := by
  unfold Obligations.ErrorsAndScans
  refine ⟨fun s u site hup hu => ?_, fun s hr hp hm hc => ?_, fun s hr hp hm hc => ?_, fun s x hr hp hx hm hc => ?_,
    fun s x hr hp hx hm hc => ?_, fun s store ln mask h0 => ⟨fun h => partWrite_whole h0 h, fun h1 h hlen => partWrite_waits h0 h1 h hlen⟩,
    fun s e x harm hx h2 => mergeOut_spec harm hx h2⟩
  · have hu' : u = ueCount (siteLane s site).1 (siteLane s site).2 s := hu
    obtain ⟨-, hregs, hcap, -⟩ := ueCount_spec (siteLane s site).1 (siteLane s site).2 s
    rw [← hu'] at hregs hcap
    refine ⟨by rw [exec_eccUe hup, hu'], fun k hk => ?_, fun k hk => ?_, fun a ha => ?_, fun a ha ht => ?_, fun m w hs => ?_,
      fun p hs hc hw => ?_⟩
    · subst hk
      rfl
    · subst hk
      rfl
    · subst ha
      exact seqTrap_rom a u
    · subst ha
      exact seqTrap_first ht
    · subst hs
      rfl
    · subst hs
      have hcoll : s.cap.coll = u.cap.coll := by rw [hcap]
      have hsh : u.regs.shadow = s.regs.shadow := by
        rw [hregs]
        rfl
      change bankWordLost (!s.cap.coll) p u = _
      rw [hcoll]
      refine bankWordLost_captured ?_ ?_
      · unfold capEpoch
        rw [hcap]
        exact hc
      · unfold winFirst winLen sh
        rw [hsh]
        exact hw
  · rw [exec_contextScan hr hp, scanContexts, readLanes_of_none _ _ hm hc]
  · rw [exec_bitmapVerifyPass hr hp, scanBanks, readLanes_of_none _ _ hm hc]
  · obtain ⟨hce, -, hue, -, hstr⟩ := ceCount_spec (x.1 / 2 ^ 32) (x.1 % 2 ^ 32) s
    refine ⟨_, by rw [exec_contextScan hr hp, scanContexts, readLanes_of_corrected _ _ hm hx hc], hce, corrected_notMem,
      by rw [hstr], hue⟩
  · obtain ⟨hce, -, -, hcap, -⟩ := ceCount_spec (x.1 / 2 ^ 32) (x.1 % 2 ^ 32) s
    refine ⟨_, by rw [exec_bitmapVerifyPass hr hp, scanBanks, readLanes_of_corrected _ _ hm hx hc], hce, corrected_notMem,
      by rw [hcap], by rw [hcap]⟩

end Sys2Proof.Machine
end

section
/-! SUPPORT. PREP_DONE, HOLD_ACK, CUT_SLOW and ARM (R108, R110, R114, R335, R336). -/

namespace Sys2Proof.Machine

section Arming

variable {s t u : State} {x y : Epoch} {c : Nat} {ch : Chain}

/-! ### Stages of ARM -/

/-- The state in which the banks have swapped. -/
def bankSwap (e : Nat) (s : State) : State := { s with cap.coll := !s.cap.coll, cap.capOf := e }

/-- The row tables of a launch. -/
def launchTables (x : Epoch) : List (Nat × Bytes) := (liveEntries x.list).filter fun n => eKind n.2 == 2

/-- The state in which the launch's tables are cut. -/
def tablesCut (x : Epoch) (s : State) : State := each (launchTables x) (fun n => cutRegion x.plan n.1 x.num n.2) (bankSwap x.num s)

/-- Tables in the window of a filter are captured in full. -/
def windowResync (n : Nat) (t : State) : State := each (tablesIn t n) (fun e => setResync (eTrack e.2)) t

/-- The state in which the tables of retired filters' windows are captured in full. -/
def tablesResynced (s : State) : State := each ((List.range 8).filter (retired s 8)) windowResync s

/-- The entries of a launch whose tables are captured in full. -/
def resyncEntries (x : Epoch) (s : State) : List Nat :=
  ((launchTables x).filter fun n => (region? s (eTrack n.2)).any (·.resync)).map (·.1)

/-- The epoch with its ingots, once the tables that are captured in full are known. -/
def withIngots (list : Bytes) (res : List Nat) (y : Epoch) : Epoch :=
  { y with
    full := y.full ++ res.filter (fun i => !y.full.contains i), resync := res
    delta := y.delta.filter fun i => !res.contains i
    ingots := (liveEntries list).map fun n =>
      (n.1, { entry := n.1, stream := eStream n.2, delta := y.delta.contains n.1 && !res.contains n.1 }) }

/-- The state of ARM before the filters arm. -/
def armPrepared (x : Epoch) (s : State) : State :=
  onEpoch x.num (withIngots x.list (resyncEntries x (tablesResynced (tablesCut x s)))) (tablesResynced (tablesCut x s))

/-- The filters that arm. -/
def armedFilters (y : Epoch) (s : State) : Tab Filter :=
  (inService s 8).filterMap fun n =>
    let g := segsOf s y.list y.order n
    if g.isEmpty then none else some (n, { segs := g })

/-- The items of the epoch: those under HOLD, and the others. -/
def armParts (y : Epoch) (s : State) : List (List CopyItem × List CopyItem) :=
  (y.order.flatMap (armItem s y)).map (splitWindows s y ((List.range 8).filter (retired s 8)))

/-- The state in which the filters are armed and the chains pulled. -/
def filtersArmed (e : Nat) (y : Epoch) (s : State) : State :=
  setOrder e ((armParts y s).flatMap (·.1) ++ (armParts y s).flatMap (·.2)) { s with
    cap.filters := armedFilters y s
    cap.cut := { s.cap.cut with
      st := .harvest
      stopCopy := (List.range 8).filter fun n => retired s 8 n &&
        ((armParts y s).flatMap (·.1)).any fun i => !(splitWindows s y [n] i).1.isEmpty
      chains := s.cap.cut.chains.map fun c => (c.1, { c.2 with pulls := 1 }) }
    out.pulls := s.out.pulls ++ s.cap.cut.chains.map (·.1) }

/-- A context for the stream of an entry of the chains. -/
def chainStream (e : Nat) (y : Epoch) (n : Nat × Bytes) (t : State) : State :=
  if ctxRoom t e then (newCtx (sourceCtx t y y.q y.seq n.1 5) t).2 else t

/-- The state in which the streams of the epoch start. -/
def armDone (e : Nat) (y : Epoch) (s : State) : State :=
  each ((liveEntries y.list).filter fun n => eKind n.2 == 3) (chainStream e y) (filtersArmed e y s)

theorem arm_eq (h : epoch? (armPrepared x s) x.num = some y) :
    arm x s = settleAll (startStreams x.num (armDone x.num y (armPrepared x s))) := by
  have hm : arm x s = match epoch? (armPrepared x s) x.num with
    | none => armPrepared x s
    | some y => settleAll (startStreams x.num (armDone x.num y (armPrepared x s))) := rfl
  rw [hm, h]

/-! ### What the tables' cut leaves unchanged -/

/-- But for the tables' regions nothing of the capture part differs, nor the pulls and the retired channels. -/
def onlyTables (s t : State) : Prop :=
  t.cap = { s.cap with regions := t.cap.regions } ∧ t.out.pulls = s.out.pulls ∧ t.flt.retired = s.flt.retired

theorem onlyTables_refl (s : State) : onlyTables s s := ⟨rfl, rfl, rfl⟩

theorem onlyTables_trans (h : onlyTables s t) (k : onlyTables t u) : onlyTables s u := by
  obtain ⟨h1, h2, h3⟩ := h
  obtain ⟨k1, k2, k3⟩ := k
  exact ⟨by rw [k1, h1], k2.trans h2, k3.trans h3⟩

theorem onlyTables_onRegion (n : Nat) (f : Region → Region) (s : State) : onlyTables s (onRegion n f s) := ⟨rfl, rfl, rfl⟩

theorem onlyTables_writeHeader (n : Nat) (s : State) : onlyTables s (writeHeader n s) := by
  unfold writeHeader
  split <;> exact ⟨rfl, rfl, rfl⟩

theorem onlyTables_touchRegion (n : Nat) (s : State) : onlyTables s (touchRegion n s) := by
  unfold touchRegion
  split
  · exact onlyTables_refl s
  · split
    · exact onlyTables_refl s
    · dsimp only
      split
      · exact onlyTables_trans (onlyTables_trans (onlyTables_onRegion ..) (onlyTables_onRegion ..)) (onlyTables_writeHeader ..)
      · exact onlyTables_onRegion ..

theorem onlyTables_setResync (n : Nat) (s : State) : onlyTables s (setResync n s) := by
  unfold setResync
  split
  · exact onlyTables_refl s
  · split
    · exact onlyTables_refl s
    · exact onlyTables_trans (onlyTables_onRegion ..) (onlyTables_writeHeader ..)

theorem onlyTables_cutRegion (plan entry e : Nat) (en : Bytes) (s : State) : onlyTables s (cutRegion plan entry e en s) := by
  unfold cutRegion
  dsimp only
  refine onlyTables_trans (onlyTables_touchRegion (eTrack en) s) ?_
  generalize touchRegion (eTrack en) s = v
  split <;> exact onlyTables_trans (t := { v with cap.regions := _ }) ⟨rfl, rfl, rfl⟩ (onlyTables_writeHeader ..)

theorem onlyTables_each {α : Type} {f : α → State → State} (h : ∀ a s, onlyTables s (f a s)) (l : List α) (s : State) :
    onlyTables s (each l f s) := by
  unfold each
  induction l generalizing s with
  | nil => exact onlyTables_refl s
  | cons a l ih => exact onlyTables_trans (h a s) (ih (f a s))

theorem onlyTables_windowResync (n : Nat) (s : State) : onlyTables s (windowResync n s) :=
  onlyTables_each (f := fun e : Nat × Bytes => setResync (eTrack e.2)) (fun e u => onlyTables_setResync (eTrack e.2) u) _ s

theorem onlyTables_tablesResynced (s : State) : onlyTables s (tablesResynced s) := by
  unfold tablesResynced
  generalize (List.range 8).filter (retired s 8) = l
  exact onlyTables_each onlyTables_windowResync l s

theorem onlyTables_tablesCut (x : Epoch) (s : State) : onlyTables (bankSwap x.num s) (tablesCut x s) :=
  onlyTables_each (f := fun n : Nat × Bytes => cutRegion x.plan n.1 x.num n.2)
    (fun n t => onlyTables_cutRegion x.plan n.1 x.num n.2 t) (launchTables x) _

theorem onlyTables_resynced (x : Epoch) (s : State) : onlyTables (bankSwap x.num s) (tablesResynced (tablesCut x s)) :=
  onlyTables_trans (onlyTables_tablesCut x s) (onlyTables_tablesResynced _)

/-! ### What ARM leaves before its streams start -/

theorem armedFilters_spec {f : Nat × Filter} (h : f ∈ armedFilters y s) : f.2.held = [] ∧ retired s 8 f.1 = false := by
  obtain ⟨n, hn, hf⟩ := List.mem_filterMap.mp h
  dsimp only at hf
  split at hf
  · cases hf
  · cases hf
    have hs := (List.mem_filter.mp hn).2
    exact ⟨rfl, by simpa using hs⟩

theorem chainStream_keeps (e : Nat) (y : Epoch) (n : Nat × Bytes) (t : State) :
    ((chainStream e y n t).cap, (chainStream e y n t).out) = (t.cap, t.out) := by
  unfold chainStream
  split
  · obtain ⟨hcap, hout⟩ := newCtx_keeps (sourceCtx t y y.q y.seq n.1 5) t
    rw [hcap, hout]
  · rfl

theorem armDone_keeps (e : Nat) (y : Epoch) (s : State) :
    (armDone e y s).cap = (filtersArmed e y s).cap ∧ (armDone e y s).out = (filtersArmed e y s).out :=
  Prod.mk.inj (each_keeps (p := fun t => (t.cap, t.out)) (chainStream_keeps e y) _ _)

theorem arm_spec (hx : epoch? s x.num = some x) : ∃ u, arm x s = settleAll (startStreams x.num u) ∧ capBank u = collBank s ∧
    collBank u = capBank s ∧ u.cap.capOf = x.num ∧ u.cap.cut.st = .harvest ∧ u.cap.cut.epoch = s.cap.cut.epoch ∧
    u.out.pulls = s.out.pulls ++ s.cap.cut.chains.map (·.1) ∧ (∀ f ∈ u.cap.filters, f.2.held = [] ∧ retired s 8 f.1 = false) := by
  obtain ⟨hcap, hpulls, hret⟩ := onlyTables_resynced x s
  have hep : epoch? (tablesResynced (tablesCut x s)) x.num = some x := by
    rw [epoch?, hcap]
    exact hx
  have hprep := epoch?_onEpoch x.num (withIngots x.list (resyncEntries x (tablesResynced (tablesCut x s)))) hep
  refine ⟨_, arm_eq hprep, ?_⟩
  obtain ⟨hucap, huout⟩ := armDone_keeps x.num (withIngots x.list (resyncEntries x (tablesResynced (tablesCut x s))) x)
    (armPrepared x s)
  generalize withIngots x.list (resyncEntries x (tablesResynced (tablesCut x s))) x = y at hucap huout ⊢
  have hpcap : (armPrepared x s).cap = { (bankSwap x.num s).cap with
      regions := (tablesResynced (tablesCut x s)).cap.regions, epochs := (armPrepared x s).cap.epochs } := by
    change { (tablesResynced (tablesCut x s)).cap with epochs := (armPrepared x s).cap.epochs } = _
    rw [hcap]
  have hppulls : (armPrepared x s).out.pulls = s.out.pulls := hpulls
  have hpret : (armPrepared x s).flt.retired = s.flt.retired := hret
  generalize armPrepared x s = v at hucap huout hpcap hppulls hpret ⊢
  generalize armDone x.num y v = w at hucap huout ⊢
  have hb : (w.cap.bank0, w.cap.bank1, w.cap.coll, w.cap.capOf) = (s.cap.bank0, s.cap.bank1, !s.cap.coll, x.num) := by
    rw [hucap]
    change (v.cap.bank0, v.cap.bank1, v.cap.coll, v.cap.capOf) = _
    rw [hpcap]
    rfl
  simp only [Prod.mk.injEq] at hb
  obtain ⟨hb0, hb1, hcoll, hof⟩ := hb
  have hcut : v.cap.cut = s.cap.cut := by
    rw [hpcap]
    rfl
  refine ⟨?_, ?_, hof, by rw [hucap]; rfl, ?_, ?_, fun f hf => ?_⟩
  · unfold capBank collBank
    rw [hb0, hb1, hcoll]
    cases s.cap.coll <;> rfl
  · unfold capBank collBank
    rw [hb0, hb1, hcoll]
    cases s.cap.coll <;> rfl
  · rw [hucap]
    change v.cap.cut.epoch = _
    rw [hcut]
  · rw [huout]
    change v.out.pulls ++ v.cap.cut.chains.map (·.1) = _
    rw [hppulls, hcut]
  · rw [hucap] at hf
    obtain ⟨hheld, hr⟩ := armedFilters_spec (s := v) (y := y) hf
    refine ⟨hheld, ?_⟩
    rw [retired, hpret] at hr
    exact hr

/-! ### PREP_DONE -/

theorem exec_prepDone (hr : runs s = true) (hst : s.cap.cut.st = .prep) (hx : epoch? s s.cap.cut.epoch = some x) :
    exec .prepDone s = .next (if s.cap.cut.chains.isEmpty then arm x s else { s with cap.cut.st := .holdReq }) := by
  change Host.Outcome.next (when (runs s) prepDone s) = _
  rw [when, if_pos hr, prepDone, if_neg (not_not_intro hst), hx]

/-! ### HOLD_ACK -/

/-- The state in which a chain has acknowledged. -/
def chainAcked (c : Nat) (s : State) : State := onChain c (fun y => { y with ack := true, done := false }) s

theorem allHeld_of_launch (ho : s.cap.cut.owner = none) (hx : epoch? s s.cap.cut.epoch = some x) : allHeld s = arm x s := by
  unfold allHeld
  rw [ho]
  dsimp only
  rw [hx]

theorem exec_holdAck (hup : up s = true) (hst : s.cap.cut.st = .holdReq) (hc : Tab.get? s.cap.cut.chains c = some ch) :
    exec (.holdAck c) s = .next (if ch.ack then s else
      if (onChain c (fun x => { x with ack := true, done := s.cap.cut.owner.isSome && !s.cap.cut.stopCopy.isEmpty }) s).cap.cut.chains.all
          (fun x => x.2.ack) then
        settleAfter (allHeld (onChain c
          (fun x => { x with ack := true, done := s.cap.cut.owner.isSome && !s.cap.cut.stopCopy.isEmpty }) s))
      else onChain c (fun x => { x with ack := true, done := s.cap.cut.owner.isSome && !s.cap.cut.stopCopy.isEmpty }) s) := by
  change Host.Outcome.next (when (up s) (holdAck c) s) = _
  rw [when, if_pos hup, holdAck, if_neg (not_not_intro hst), hc]

theorem exec_holdAck_of_launch (hup : up s = true) (hst : s.cap.cut.st = .holdReq) (hc : Tab.get? s.cap.cut.chains c = some ch)
    (hack : ch.ack = false) (ho : s.cap.cut.owner = none) :
    exec (.holdAck c) s = .next (if (chainAcked c s).cap.cut.chains.all (fun x => x.2.ack) then
      settleAfter (allHeld (chainAcked c s)) else chainAcked c s) := by
  rw [exec_holdAck hup hst hc, hack, ho]
  rfl

/-! ### CUT_SLOW -/

theorem maskOf_single {n : Nat} (p : Nat → Bool) (h : ∀ i, p i = (i == c)) (hn : c < n) : maskOf n p = 2 ^ c := by
  have hp : p = fun i => i == c := funext h
  have hone : (List.range n).count c = 1 := List.count_eq_one_of_mem List.nodup_range (List.mem_range.mpr hn)
  unfold maskOf
  rw [hp, List.filter_beq, hone]
  exact Nat.zero_add _

/-- A chain's answer is still to come. -/
def chainOpen (s : State) (ch : Chain) : Bool := if s.cap.cut.st = .push then !ch.done else !ch.ack

/-- The state in which a chain that is slow is reported. -/
def chainSlow (c : Nat) (s : State) : State :=
  raise0 0x0301 1 (maskOf 64 fun i =>
    (Tab.get? (onChain c (fun x => { x with slow := true }) s).cap.cut.chains i).any fun x => x.slow && chainOpen s x)
    (onChain c (fun x => { x with slow := true }) s)

theorem cutSlow_of_found (hc : Tab.get? s.cap.cut.chains c = some ch) : cutSlow c s =
    if s.cap.cut.st ≠ .holdReq ∧ s.cap.cut.st ≠ .push then s
    else if ch.slow || !chainOpen s ch then s else chainSlow c s := by
  have heq : cutSlow c s = if s.cap.cut.st ≠ .holdReq ∧ s.cap.cut.st ≠ .push then s else
      match Tab.get? s.cap.cut.chains c with
      | none => s
      | some ch => if ch.slow || !chainOpen s ch then s else chainSlow c s := rfl
  rw [heq, hc]

theorem exec_cutSlow_of_slow (hc : Tab.get? s.cap.cut.chains c = some ch) (hs : ch.slow = true) : exec (.cutSlow c) s = .next s := by
  have hcut : cutSlow c s = s := by
    rw [cutSlow_of_found hc, hs, Bool.true_or, if_pos rfl, ite_self]
  change Host.Outcome.next (when (up s) (cutSlow c) s) = _
  rw [when, hcut, ite_self]

theorem chainOpen_of_hold (hst : s.cap.cut.st = .holdReq) : chainOpen s ch = !ch.ack := by
  unfold chainOpen
  rw [hst]
  rfl

theorem cutSlow_of_hold (hst : s.cap.cut.st = .holdReq) (hc : Tab.get? s.cap.cut.chains c = some ch) (hs : ch.slow = false)
    (hack : ch.ack = false) : cutSlow c s = chainSlow c s := by
  rw [cutSlow_of_found hc, if_neg (fun h => h.1 hst), hs, chainOpen_of_hold hst, hack]
  rfl

theorem chainSlow_single (hst : s.cap.cut.st = .holdReq) (hc : s.cap.cut.chains = [(c, ch)]) (h64 : c < 64) (hack : ch.ack = false) :
    chainSlow c s = raise0 0x0301 1 (2 ^ c) { s with cap.cut.chains := [(c, { ch with slow := true })] } := by
  have hslow : onChain c (fun x => { x with slow := true }) s = { s with cap.cut.chains := [(c, { ch with slow := true })] } := by
    unfold onChain
    rw [hc]
    simp [Tab.upd]
  unfold chainSlow
  rw [hslow, maskOf_single _ (fun i => ?_) h64]
  dsimp only [Tab.get?]
  by_cases hi : c = i
  · rw [if_pos hi, hi, beq_self_eq_true]
    exact congrArg (fun b => true && b) ((chainOpen_of_hold hst).trans (by rw [hack]; rfl))
  · rw [if_neg hi, beq_false_of_ne (Ne.symm hi)]
    rfl

end Arming

/-- Settles O39: the stages of ARM, and what one chain's acknowledgement does. -/
theorem cutHoldsAndArm : Obligations.CutHoldsAndArm := by
  unfold Obligations.CutHoldsAndArm
  refine ⟨fun s x hr hst hx hne => ?_, fun s x hr hst hx hnil => ?_, fun s c ch hup hst hc hack ho hopen => ?_,
    fun s c ch x hup hst hc hack ho hx => ?_, fun s c ch hup hst hc hack => ?_, fun s c ch hup hst hc h64 hack hs => ?_,
    fun s c ch hup hc hs => exec_cutSlow_of_slow hc hs, fun s x hx => arm_spec hx⟩
  · rw [exec_prepDone hr hst hx, if_neg (by rwa [List.isEmpty_iff])]
  · rw [exec_prepDone hr hst hx, if_pos (by rwa [List.isEmpty_iff])]
  · obtain ⟨e, he, hne, hea⟩ := hopen
    have hnot : (chainAcked c s).cap.cut.chains.all (fun x => x.2.ack) = false := by
      refine List.all_eq_false.mpr ⟨e, List.mem_map.mpr ⟨e, he, if_neg hne⟩, ?_⟩
      rw [hea]
      exact Bool.false_ne_true
    rw [exec_holdAck_of_launch hup hst hc hack ho, hnot]
    rfl
  · have hget : Tab.get? s.cap.cut.chains c = some ch := by
      rw [hc]
      exact if_pos rfl
    have hacked : chainAcked c s = { s with cap.cut.chains := [(c, { ch with ack := true, done := false })] } := by
      unfold chainAcked onChain
      rw [hc]
      simp [Tab.upd]
    rw [exec_holdAck_of_launch hup hst hget hack ho, hacked, if_pos (by rfl)]
    have hheld := allHeld_of_launch (s := { s with cap.cut.chains := [(c, { ch with ack := true, done := false })] }) ho hx
    rw [hheld]
  · rw [exec_holdAck hup hst hc, if_pos hack]
  · have hget : Tab.get? s.cap.cut.chains c = some ch := by
      rw [hc]
      exact if_pos rfl
    change Host.Outcome.next (when (up s) (cutSlow c) s) = _
    rw [when, if_pos hup, cutSlow_of_hold hst hget hs hack, chainSlow_single hst hc h64 hack]

end Sys2Proof.Machine
end

section
/-! SUPPORT. HARVEST_BEAT (R112, R336) and the answers to a push (R337). -/

namespace Sys2Proof.Machine

section Chains

variable {s t u : State} {c : Nat} {ch : Chain} {beat : Bytes} {q seq : Nat}

/-! ### Beats -/

/-- The state in which a beat of a chain is kept. -/
def beatKept (c : Nat) (ch : Chain) (beat : Bytes) (s : State) : State :=
  lanesWrite 0 (4 * c) 4 (onChain c (fun y => { y with beats := ch.beats ++ [slice beat 0 32] }) s)

theorem harvestBeat_of_found (hst : s.cap.cut.st = .harvest) (hc : Tab.get? s.cap.cut.chains c = some ch) (hd : ch.done = false) :
    harvestBeat c beat s = if (ch.beats ++ [slice beat 0 32]).length < hvLen (beatKept c ch beat s) c then beatKept c ch beat s
      else if chainOk (ch.beats ++ [slice beat 0 32]) then tryRelease (onChain c (fun y => { y with done := true }) (beatKept c ch beat s))
      else tryRelease (chainFailed c { ch with beats := ch.beats ++ [slice beat 0 32] } (beatKept c ch beat s)) := by
  unfold harvestBeat
  rw [if_neg (not_not_intro hst), hc]
  exact if_neg (by rw [hd]; exact Bool.false_ne_true)

theorem beatKept_spec (c : Nat) (ch : Chain) (beat : Bytes) (s : State) :
    (beatKept c ch beat s).cap = (onChain c (fun y => { y with beats := ch.beats ++ [slice beat 0 32] }) s).cap ∧
    (beatKept c ch beat s).ldg = s.ldg ∧ (beatKept c ch beat s).str = s.str ∧ (beatKept c ch beat s).out = s.out ∧
    (beatKept c ch beat s).pins = s.pins := by
  rw [beatKept, lanesWrite_frame]
  exact ⟨rfl, rfl, rfl, rfl, rfl⟩

theorem hvLen_beatKept (k : Nat) : hvLen (beatKept c ch beat s) k = hvLen s k := by
  obtain ⟨-, -, -, -, hpins⟩ := beatKept_spec c ch beat s
  unfold hvLen
  rw [hpins]

theorem get?_onChain (f : Chain → Chain) (k : Nat) (s : State) : Tab.get? (onChain c f s).cap.cut.chains k =
    if k = c then (Tab.get? s.cap.cut.chains k).map f else Tab.get? s.cap.cut.chains k := Tab.get?_upd ..

theorem get?_beatKept (hc : Tab.get? s.cap.cut.chains c = some ch) :
    Tab.get? (beatKept c ch beat s).cap.cut.chains c = some { ch with beats := ch.beats ++ [slice beat 0 32] } := by
  obtain ⟨hcap, -⟩ := beatKept_spec c ch beat s
  rw [hcap, get?_onChain, if_pos rfl, hc]
  rfl

theorem get?_beatKept_ne {k : Nat} (h : k ≠ c) :
    Tab.get? (beatKept c ch beat s).cap.cut.chains k = Tab.get? s.cap.cut.chains k := by
  obtain ⟨hcap, -⟩ := beatKept_spec c ch beat s
  rw [hcap, get?_onChain, if_neg h]

theorem exec_harvestBeat (hup : up s = true) : exec (.harvestBeat c beat) s = .next (harvestBeat c beat s) := by
  change Host.Outcome.next (when (up s) (harvestBeat c beat) s) = _
  rw [when, if_pos hup]

/-- A chain that fails its check for the first time is pulled again. -/
theorem chainFailed_first (hc : Tab.get? s.cap.cut.chains c = some ch) {y : Chain} (hy : y.pulls < 2) :
    Tab.get? (chainFailed c y s).cap.cut.chains c = some { ch with beats := [], pulls := 2, done := false } ∧
      (chainFailed c y s).out.pulls = s.out.pulls ++ [c] := by
  have hf : chainFailed c y s = raise0 0x0302 1 c (onChain c (fun x => { x with beats := [], pulls := 2, done := false })
      { s with out.pulls := s.out.pulls ++ [c] }) := if_pos hy
  rw [hf, raise0_events]
  refine ⟨?_, rfl⟩
  change Tab.get? (onChain c (fun x => { x with beats := [], pulls := 2, done := false })
    { s with out.pulls := s.out.pulls ++ [c] }).cap.cut.chains c = _
  rw [get?_onChain, if_pos rfl]
  change (Tab.get? s.cap.cut.chains c).map _ = _
  rw [hc]
  rfl

/-! ### Bad data leaves the cut -/

theorem cut_onlyEvents (h : onlyEvents s t) : t.cap.cut = s.cap.cut := by
  rw [h]

theorem cut_onlyEnds (h : onlyEnds s t) : t.cap.cut = s.cap.cut := by
  rw [h]

theorem cut_stopStreams (p : Ctx → Bool) (s : State) : (stopStreams p s).cap.cut = s.cap.cut := by
  rw [stopStreams_frame]

theorem cut_spanAbort (ctx : Nat) (s : State) :
    (finish q seq 0x10 0 (stopStreams (fun x => x.q == q && x.seq == seq && x.epoch == 0) (spanAbortEvent ctx q 0 s))).cap.cut =
      s.cap.cut :=
  (cut_onlyEnds (finish_onlyEnds ..)).trans ((cut_stopStreams _ _).trans (cut_onlyEvents (raise_events ..)))

theorem cut_marks (l : List Nat) (s : State) : (each l (fun u => poisonMark q seq u 0) s).cap.cut = s.cap.cut :=
  each_keeps (p := fun t => t.cap.cut) (fun _ _ => cut_onlyEvents (raise_events ..)) l s

theorem badAt_cut (units : List Nat) (code : Nat) (s : State) : (badAt 131072 q seq 0 units 0 code 0 s).cap.cut = s.cap.cut := by
  unfold badAt
  dsimp only
  split
  · rw [if_pos rfl]
    exact cut_spanAbort 131072 s
  · rw [if_pos rfl]
    split
    · exact cut_marks _ s
    · exact cut_marks _ s

/-! ### Pushes -/

/-- The state in which a chain has answered its push. -/
def pushNoted (c : Nat) (bad : Bool) (s : State) : State := onChain c (fun y => { y with done := true, bad }) s

/-- The state in which an answered push is noted, with its bad data. -/
def pushJudged (q seq c : Nat) (bad : Bool) (s : State) : State :=
  if bad then badAt 131072 q seq 0 [c] 0 0x0B 0 (pushNoted c bad s) else pushNoted c bad s

theorem pushAnswered_of_open {bad : Bool} (hst : s.cap.cut.st = .push) (ho : s.cap.cut.owner = some (q, seq))
    (hc : Tab.get? s.cap.cut.chains c = some ch) (hd : ch.done = false) : pushAnswered c bad s =
    if (pushJudged q seq c bad s).cap.cut.chains.all (fun x => x.2.done)
    then settleEverything { pushJudged q seq c bad s with cap.cut := {} } else pushJudged q seq c bad s := by
  unfold pushAnswered
  rw [if_neg (not_not_intro hst), hc, ho]
  exact if_neg (by rw [hd]; exact Bool.false_ne_true)

theorem pushJudged_cut (bad : Bool) : (pushJudged q seq c bad s).cap.cut = (pushNoted c bad s).cap.cut := by
  unfold pushJudged
  split
  · exact badAt_cut ..
  · rfl

theorem exec_harvestPushOk (hup : up s = true) : exec (.harvestPushOk c) s = .next (pushAnswered c false s) := by
  change Host.Outcome.next (when (up s) (pushAnswered c false) s) = _
  rw [when, if_pos hup]

theorem exec_harvestPushErr (hup : up s = true) : exec (.harvestPushErr c) s = .next (pushAnswered c true s) := by
  change Host.Outcome.next (when (up s) (pushAnswered c true) s) = _
  rw [when, if_pos hup]

theorem pushAnswered_of_none {bad : Bool} (h : s.cap.cut.st ≠ .push) : pushAnswered c bad s = s := if_pos h

theorem pushNoted_single {bad : Bool} (hc : s.cap.cut.chains = [(c, ch)]) :
    pushNoted c bad s = { s with cap.cut.chains := [(c, { ch with done := true, bad })] } := by
  unfold pushNoted onChain
  rw [hc]
  simp [Tab.upd]

theorem get?_single (hc : s.cap.cut.chains = [(c, ch)]) : Tab.get? s.cap.cut.chains c = some ch := by
  rw [hc]
  exact if_pos rfl

/-- The answer of the only chain releases it. -/
theorem pushAnswered_of_last {bad : Bool} (hst : s.cap.cut.st = .push) (ho : s.cap.cut.owner = some (q, seq))
    (hc : s.cap.cut.chains = [(c, ch)]) (hd : ch.done = false) :
    pushAnswered c bad s = settleEverything { pushJudged q seq c bad s with cap.cut := {} } := by
  have hall : (pushJudged q seq c bad s).cap.cut.chains.all (fun x => x.2.done) = true := by
    rw [pushJudged_cut, pushNoted_single hc]
    rfl
  rw [pushAnswered_of_open hst ho (get?_single hc) hd, if_pos hall]

theorem pushJudged_ok : pushJudged q seq c false s = pushNoted c false s := rfl

theorem pushJudged_err : pushJudged q seq c true s = badAt 131072 q seq 0 [c] 0 0x0B 0 (pushNoted c true s) := rfl

end Chains

/-- Settles O41: a beat is kept and the last one is checked; the last answer to a push releases the chains. -/
theorem harvest : Obligations.Harvest := by
  unfold Obligations.Harvest
  refine ⟨fun s c beat ch hup hst hc hd hlen => ?_, fun s c beat ch hup hst hc hd hlen hok => ?_,
    fun s c beat ch hup hst hc hd hlen hok hp => ?_, fun s c ch q seq hup hst ho hc hd hopen => ?_,
    fun s c ch q seq hup hst ho hc hd => ?_, fun s c ch q seq hup hst ho hc hd => ?_, fun s c hst => ?_⟩
  · obtain ⟨-, hldg, hstr, hout, -⟩ := beatKept_spec c ch beat s
    refine ⟨beatKept c ch beat s, ?_, get?_beatKept hc, fun k hk => get?_beatKept_ne hk, hldg, hstr, hout⟩
    rw [exec_harvestBeat hup, harvestBeat_of_found hst hc hd, if_pos]
    rw [hvLen_beatKept, List.length_append]
    exact hlen
  · rw [exec_harvestBeat hup, harvestBeat_of_found hst hc hd, if_neg, if_pos hok]
    · rfl
    · rw [hvLen_beatKept, List.length_append]
      exact Nat.not_lt.mpr hlen
  · obtain ⟨hget, hpulls⟩ := chainFailed_first (get?_beatKept (beat := beat) hc)
      (y := { ch with beats := ch.beats ++ [slice beat 0 32] }) hp
    obtain ⟨-, -, -, hout, -⟩ := beatKept_spec c ch beat s
    refine ⟨_, ?_, hget, hpulls.trans (by rw [hout])⟩
    rw [exec_harvestBeat hup, harvestBeat_of_found hst hc hd, if_neg, if_neg (by rw [hok]; exact Bool.false_ne_true)]
    rw [hvLen_beatKept, List.length_append]
    exact Nat.not_lt.mpr hlen
  · obtain ⟨e, he, hne, hed⟩ := hopen
    have hnot : (pushNoted c false s).cap.cut.chains.all (fun x => x.2.done) = false := by
      refine List.all_eq_false.mpr ⟨e, List.mem_map.mpr ⟨e, he, if_neg hne⟩, ?_⟩
      rw [hed]
      exact Bool.false_ne_true
    rw [exec_harvestPushOk hup, pushAnswered_of_open hst ho hc hd, pushJudged_ok, hnot]
    rfl
  · have hout : ({ pushNoted c false s with cap.cut := {} } : State) = { s with cap.cut := {} } := rfl
    rw [exec_harvestPushOk hup, pushAnswered_of_last hst ho hc hd, pushJudged_ok, hout]
  · rw [exec_harvestPushErr hup, pushAnswered_of_last hst ho hc hd, pushJudged_err, pushNoted_single hc]
  · rw [show exec (.harvestPushOk c) s = .next (when (up s) (pushAnswered c false) s) from rfl,
      show exec (.harvestPushErr c) s = .next (when (up s) (pushAnswered c true) s) from rfl, when, when, pushAnswered_of_none hst,
      pushAnswered_of_none hst, ite_self]
    exact ⟨rfl, rfl⟩

end Sys2Proof.Machine
end

section
/-! SUPPORT. Insertion points, dirty-plate banks and tracker groups (R113, R119, R120, R124, R125, R332 to R334). -/

namespace Sys2Proof.Machine

section Banks

variable {s t u : State} {n store : Nat}

/-! ### The capture part under lane writes -/

theorem cap_onlyEvents (h : onlyEvents s t) : t.cap = s.cap := by
  rw [h]

theorem flipHook_cap (store l : Nat) (s : State) : (flipHook store l s).cap = s.cap := by
  rw [flipHook_frame]

theorem ceCount_cap (store l : Nat) (s : State) : (ceCount store l s).cap = s.cap := by
  obtain ⟨-, -, -, hcap, -⟩ := ceCount_spec store l s
  exact hcap

theorem ueCount_cap (store l : Nat) (s : State) : (ueCount store l s).cap = s.cap := by
  obtain ⟨-, -, hcap, -⟩ := ueCount_spec store l s
  exact hcap

theorem invertChecks_cap (store l : Nat) (s : State) : (invertChecks store l s).cap = s.cap := rfl

theorem mergeOut_cap (e : Merge) (s : State) : (mergeOut e s).cap = s.cap := by
  have hdrop : (dropMerge e.store e.lane s).cap = s.cap := rfl
  unfold mergeOut
  dsimp only
  split
  · rw [flipHook_cap, hdrop]
  · split
    · rw [flipHook_cap]
      split
      · rw [ceCount_cap, hdrop]
      · exact hdrop
    · rw [invertChecks_cap, ueCount_cap, hdrop]

theorem partWrite_cap (store l : Nat) (m : W64) (s : State) : (partWrite store l m s).cap = s.cap := by
  unfold partWrite
  split
  · rfl
  · dsimp only
    split
    · unfold laneWrite1
      rw [flipHook_cap]
      rfl
    · split
      · split
        · exact mergeOut_cap ..
        · rfl
      · rfl

theorem diffWrite_cap (store l : Nat) (old new : Bytes) (s : State) : (diffWrite store l old new s).cap = s.cap :=
  each_keeps (p := fun t => t.cap) (fun _ _ => partWrite_cap ..) _ s

theorem bankWrite_cap (base lo hi : Nat) (s : State) : (bankWrite base lo hi s).cap = s.cap := by
  unfold bankWrite
  split
  · rfl
  · dsimp only
    split
    · exact partWrite_cap ..
    · rw [partWrite_cap, lanesWrite_cap, partWrite_cap]

/-! ### The banks under the tracker's work -/

/-- The two banks, and which one collects. -/
def banksOf (s : State) : Iset × Iset × Bool := (s.cap.bank0, s.cap.bank1, s.cap.coll)

theorem banksOf_of_cap (h : t.cap = s.cap) : banksOf t = banksOf s := by
  unfold banksOf
  rw [h]

theorem banksOf_of_tables (h : onlyTables s t) : banksOf t = banksOf s := by
  obtain ⟨hcap, -⟩ := h
  unfold banksOf
  rw [hcap]

theorem collBank_of_banks (h : banksOf t = banksOf s) : collBank t = collBank s ∧ capBank t = capBank s := by
  simp only [banksOf, Prod.mk.injEq] at h
  obtain ⟨h0, h1, hc⟩ := h
  unfold collBank capBank
  rw [h0, h1, hc]
  exact ⟨rfl, rfl⟩

theorem writeCv_banks (a k : Nat) (s : State) : banksOf (writeCv a k s) = banksOf s := by
  unfold writeCv
  split <;> rfl

theorem fetchCv_banks (a k : Nat) (s : State) : banksOf (fetchCv a k s) = banksOf s := by
  unfold fetchCv
  split
  · rfl
  · split <;> rfl

theorem fetchGroup_banks (a g : Nat) (s : State) : banksOf (fetchGroup a g s) = banksOf s := by
  unfold fetchGroup
  split
  · rfl
  · exact banksOf_of_tables (onlyTables_touchRegion a s)

theorem openRegion_banks (a : Nat) (s : State) : banksOf (openRegion a s) = banksOf s := by
  unfold openRegion
  split
  · rfl
  · split
    · rfl
    · exact (banksOf_of_tables (onlyTables_writeHeader ..)).trans rfl

/-- The state in which a change has its group's new content. -/
def opWritten (o : GroupOp) (y : Group) (s : State) : State :=
  if group? s o.region o.group = some y then s
  else diffWrite 7 (16 * o.group) (groupBytes ((group? s o.region o.group).getD y)) (groupBytes y)
    (onRegion o.region (fun r => { r with groups := Tab.put r.groups o.group { y with dirty := true } }) s)

/-- The state in which a change's check values are stored. -/
def valsStored (o : GroupOp) (s : State) : State :=
  onRegion o.region (fun r => { r with check := (opVals o).foldl (fun t v => Tab.put t v.1 v.2) r.check }) s

theorem applyOp_eq {o : GroupOp} {y : Group} (h : opGroup s o = some y) : applyOp o s =
    each (((opVals o).map fun v => v.1 / 16).dedup) (writeCv o.region) (valsStored o (opWritten o y s)) := by
  unfold applyOp
  rw [h]
  rfl

theorem opWritten_banks (o : GroupOp) (y : Group) (s : State) : banksOf (opWritten o y s) = banksOf s := by
  unfold opWritten
  split
  · rfl
  · exact (banksOf_of_cap (diffWrite_cap ..)).trans rfl

theorem applyOp_banks (o : GroupOp) (s : State) : banksOf (applyOp o s) = banksOf s := by
  cases h : opGroup s o with
  | none =>
    unfold applyOp
    rw [h]
  | some y =>
    rw [applyOp_eq h, each_keeps (p := banksOf) (fun a s => writeCv_banks o.region a s)]
    exact opWritten_banks o y s

/-- The state in which what a change lacks of its group is asked for. -/
def opFetched (o : GroupOp) (s : State) : State :=
  if (opGroup (fetchGroup o.region o.group s) o).all fun y => group? (fetchGroup o.region o.group s) o.region o.group == some y
  then fetchGroup o.region o.group s else openRegion o.region (fetchGroup o.region o.group s)

theorem prepareOp_eq (o : GroupOp) (s : State) : prepareOp o s = each (opVals o) (fun v => fetchCv o.region v.1) (opFetched o s) := rfl

theorem prepareOp_banks (o : GroupOp) (s : State) : banksOf (prepareOp o s) = banksOf s := by
  rw [prepareOp_eq, each_keeps (p := banksOf) (fun (v : Nat × Nat) s => fetchCv_banks o.region v.1 s)]
  unfold opFetched
  split
  · exact fetchGroup_banks ..
  · rw [openRegion_banks, fetchGroup_banks]

/-- One waiting change of a region: made when it is ready, else kept. -/
def settleOp (a : Nat) (acc : State × List GroupOp) (o : GroupOp) : State × List GroupOp :=
  if o.region != a || acc.2.any (fun p => p.region == o.region && p.group == o.group) || !opReady acc.1 o then
    (acc.1, acc.2 ++ [o])
  else (applyOp o acc.1, acc.2)

/-- The waiting changes of a region, in order. -/
def opsSettled (a : Nat) (s : State) : State × List GroupOp := s.cap.waiting.foldl (settleOp a) (s, [])

theorem settleOps_eq (a : Nat) (s : State) : settleOps a s =
    each ((opsSettled a s).2.filter fun o => o.region == a) prepareOp { (opsSettled a s).1 with cap.waiting := (opsSettled a s).2 } := rfl

theorem settleOp_foldl_banks (a : Nat) (l : List GroupOp) (acc : State × List GroupOp) :
    banksOf (l.foldl (settleOp a) acc).1 = banksOf acc.1 := by
  induction l generalizing acc with
  | nil => rfl
  | cons o l ih =>
    rw [List.foldl_cons, ih]
    unfold settleOp
    split
    · rfl
    · exact applyOp_banks ..

theorem settleOps_banks (a : Nat) (s : State) : banksOf (settleOps a s) = banksOf s := by
  rw [settleOps_eq, each_keeps (p := banksOf) prepareOp_banks]
  exact settleOp_foldl_banks a _ _

theorem groupOp_banks (o : GroupOp) (s : State) : banksOf (groupOp o s) = banksOf s := by
  unfold groupOp
  dsimp only
  split
  · rfl
  · exact settleOps_banks ..

theorem banksOf_recent (s : State) (r : List (Nat × Nat × Nat)) : banksOf { s with cap.recent := r } = banksOf s := rfl

theorem banksOf_overflow (s : State) (r : List (Nat × Nat × Nat)) (o : Option Nat) :
    banksOf { s with cap.recent := r, cap.overflow := o } = banksOf s := rfl

theorem recentWrite_banks (entry : Nat) (rows : List Nat) (s : State) : banksOf (recentWrite entry rows s) = banksOf s := by
  unfold recentWrite
  dsimp only
  split
  · exact banksOf_overflow ..
  · exact banksOf_recent ..

theorem overtake_banks (a : Nat) (r : Nat × Nat) (s : State) : banksOf (overtake a r s) = banksOf s := rfl

theorem tableWrite_banks (entry : Nat) (en : Bytes) (addr : Nat) (data : Bytes) (s : State) :
    banksOf (tableWrite entry en addr data s) = banksOf s := by
  unfold tableWrite
  dsimp only
  split
  · rfl
  · split
    · rfl
    · refine (each_keeps (p := banksOf) ?_ _ _).trans ?_
      · exact fun m s => groupOp_banks ..
      · rw [overtake_banks, recentWrite_banks]

/-! ### Accepted writes -/

theorem setColl_banks (lo hi : Nat) (s : State) :
    capBank (setColl lo hi s) = capBank s ∧ collBank (setColl lo hi s) = Iset.add (collBank s) lo hi := by
  unfold setColl capBank collBank
  rw [bankWrite_cap]
  cases h : s.cap.coll
  · simp [h]
  · simp [h]

theorem filterWriteAccept_of_inWindow {addr : Nat} {data : Bytes} (hr : retired s 8 n = false) (hd : data ≠ [])
    (hb : plateBase s ≤ addr)
    (hw : max (plateOf s addr) (winFirst s n) < min (plateOf s (addr + data.length - 1) + 1) (winFirst s n + winLen s n)) :
    banksOf (filterWriteAccept n addr data s) = banksOf (setColl (max (plateOf s addr) (winFirst s n))
      (min (plateOf s (addr + data.length - 1) + 1) (winFirst s n + winLen s n)) s) := by
  have hn : ¬ (retired s 8 n = true ∨ data.isEmpty = true) := by
    rintro (h | h)
    · rw [hr] at h
      exact Bool.false_ne_true h
    · exact hd (List.isEmpty_iff.mp h)
  unfold filterWriteAccept
  rw [if_neg hn]
  dsimp only
  rw [if_pos ⟨hb, hw⟩]
  exact each_keeps (p := banksOf) (fun e s => tableWrite_banks ..) _ _

theorem filterWriteAccept_of_retired {addr : Nat} {data : Bytes} (hr : retired s 8 n = true) : filterWriteAccept n addr data s = s :=
  if_pos (.inl hr)

theorem exec_filterWriteAccept {src addr : Nat} {data : Bytes} (hup : up s = true) (hn : n < 8) (hs : src < 65536) :
    exec (.filterWriteAccept n src addr data) s = .next (filterWriteAccept n addr data s) := by
  change Host.Outcome.next (when _ _ s) = _
  rw [when, hup, decide_eq_true hn, decide_eq_true hs]
  rfl

end Banks

end Sys2Proof.Machine
end

section
/-! SUPPORT. Writes and reads at the insertion points, tracker groups and the rows written (R113, R119, R124, R125, R332 to R334). -/

namespace Sys2Proof.Machine

section InsertionPoints

variable {s t : State} {n src addr bytes : Nat} {e : Epoch}

/-! ### Writes presented -/

theorem exec_filterWritePresent (hup : up s = true) :
    exec (.filterWritePresent n src addr bytes) s = .next (filterWritePresent n src addr bytes s) := by
  change Host.Outcome.next (when (up s) (filterWritePresent n src addr bytes) s) = _
  rw [when, if_pos hup]

/-- The plate of a presented write that its copy must come before. -/
def writePlate (n addr : Nat) (s : State) : Option Nat :=
  if pendingPlate s n (plateOf s addr) || s.cap.passants.any fun x =>
    x.2.item == plateOf s addr && !x.2.row && x.2.filter == n && decide (0 < x.2.toAccept) then some (plateOf s addr) else none

/-- The source of a presented write has a write held at the filter. -/
def srcHeld (n src : Nat) (s : State) : Bool := (filterOf s n).held.any fun h => h.src == src

/-- The state in which a presented write is held. -/
def writeHeld (n src addr bytes : Nat) (e : Epoch) (s : State) : State :=
  onFilter n (fun f => { f with held := f.held ++ [{
    src, addr, bytes, plate := writePlate n addr s, rows := rowsTouched s e (filterOf s n).segs addr bytes }] })
    { s with out.vld := s.out.vld ++ [(n, src, true)] }

theorem filterWritePresent_of_armed (hseg : (filterOf s n).segs ≠ []) (hb : bytes ≠ 0) (he : capEpoch s = some e) :
    filterWritePresent n src addr bytes s =
    if !srcHeld n src s && (rowsTouched s e (filterOf s n).segs addr bytes).isEmpty && (writePlate n addr s).isNone then
      { s with out.vld := s.out.vld ++ [(n, src, false)] }
    else if !srcHeld n src s && decide (256 ≤ ((filterOf s n).held.map (·.src)).dedup.length) then s
    else serveFilter n (writeHeld n src addr bytes e s) := by
  have hn : ¬ ((filterOf s n).segs.isEmpty = true ∨ bytes = 0) := by
    rintro (h | h)
    · exact hseg (List.isEmpty_iff.mp h)
    · exact hb h
  unfold filterWritePresent
  dsimp only
  rw [if_neg hn, he]
  rfl

theorem filterWritePresent_of_open (h : (filterOf s n).segs = []) : filterWritePresent n src addr bytes s = s := by
  unfold filterWritePresent
  dsimp only
  rw [h]
  exact if_pos (.inl rfl)

theorem srcHeld_eq_false (h : ∀ x ∈ (filterOf s n).held, x.src ≠ src) : srcHeld n src s = false := by
  unfold srcHeld
  rw [List.any_eq_false]
  exact fun x hx hb => h x hx (beq_iff_eq.mp hb)

theorem srcHeld_of_mem (h : ∃ x ∈ (filterOf s n).held, x.src = src) : srcHeld n src s = true := by
  obtain ⟨x, hx, hs⟩ := h
  exact List.any_eq_true.mpr ⟨x, hx, beq_iff_eq.mpr hs⟩

theorem writePlate_of_free (hp : pendingPlate s n (plateOf s addr) = false)
    (hc : ∀ x ∈ s.cap.passants, x.2.item = plateOf s addr → x.2.row = false → x.2.filter = n → x.2.toAccept = 0) :
    writePlate n addr s = none := by
  refine if_neg ?_
  rw [hp, Bool.false_or]
  · intro h
    obtain ⟨x, hx, hb⟩ := List.any_eq_true.mp h
    simp only [Bool.and_eq_true, beq_iff_eq, Bool.not_eq_true', decide_eq_true_eq] at hb
    obtain ⟨⟨⟨hi, hr⟩, hf⟩, ha⟩ := hb
    have := hc x hx hi hr hf
    omega

theorem writePlate_of_pending (hp : pendingPlate s n (plateOf s addr) = true) : writePlate n addr s = some (plateOf s addr) :=
  if_pos (by rw [hp, Bool.true_or])

/-! ### Injected reads -/

/-- The state in which the oldest injected read of a filter has gone to the fabric. -/
def injected (n : Nat) (i : Inj) (rest : List Inj) (p : Passant) (base : Nat) (s : State) : State :=
  { s with
    cap.filters := Tab.upd s.cap.filters n fun y => { y with inj := rest }
    cap.passants := Tab.put s.cap.passants i.tag { p with toAccept := p.toAccept - 1 }
    out.fab := s.out.fab ++ [{ id := i.id, kind := .passant i.tag (i.addr - base), port := i.port
                               write := false, addr := i.addr, len := i.len, cls := 0, granted := true
                               mover := if i.len ≤ 512 then lightMover s else none }] }

theorem injectedReadAccept_of_more {i : Inj} {rest : List Inj} {f : Filter} {p : Passant}
    (hf : Tab.get? s.cap.filters n = some f) (hi : f.inj = i :: rest) (hp : Tab.get? s.cap.passants i.tag = some p)
    (hr : p.row = false) (ha : 1 < p.toAccept) :
    injectedReadAccept n s = injected n i rest p (plateBase s + 65536 * p.item) s := by
  have hinj : (filterOf s n).inj = i :: rest := by
    rw [filterOf, hf]
    exact hi
  have hp' : Tab.get? (onFilter n (fun f => { f with inj := rest }) s).cap.passants i.tag = some p := hp
  unfold injectedReadAccept
  rw [hinj]
  dsimp only
  rw [hp']
  dsimp only
  rw [if_neg (by omega)]
  cases p
  dsimp only at hr
  subst hr
  rfl

theorem injectedReadAccept_of_none (h : (filterOf s n).inj = []) : injectedReadAccept n s = s := by
  unfold injectedReadAccept
  rw [h]

/-! ### Reads presented -/

/-- A source read of a context for a range that its filter has not seen. -/
def presents (s : State) (addr bytes ctx : Nat) (r : FabReq) : Bool :=
  !r.write && !r.seen && r.addr == addr && r.len == bytes && match r.kind with
    | .source id _ => (blk? s id).any fun b => b.ctx == ctx
    | _ => false

theorem filterReadPresent_of_found {ctx : Nat} {r : FabReq} (h : s.out.fab.find? (presents s addr bytes ctx) = some r) :
    filterReadPresent n addr bytes ctx s =
      fabAnswered r (fun s => if windowOf s addr 1 = some n ∧ !retired s 8 n then sourcePassed r s else s) s := by
  have heq : filterReadPresent n addr bytes ctx s = match s.out.fab.find? (presents s addr bytes ctx) with
      | none => s
      | some r => fabAnswered r (fun s => if windowOf s addr 1 = some n ∧ !retired s 8 n then sourcePassed r s else s) s := rfl
  rw [heq, h]

theorem presents_source {ctx blk off : Nat} {r : FabReq} {b : Blk} (hk : r.kind = .source blk off) (hw : r.write = false)
    (hseen : r.seen = false) (hb : blk? s blk = some b) (hc : b.ctx = ctx) : presents s r.addr r.len ctx r = true := by
  unfold presents
  rw [hw, hseen, hk]
  simp [hb, hc]

theorem filterReadPresent_of_only {ctx blk off : Nat} {r : FabReq} {b : Blk} (hfab : s.out.fab = [r]) (hk : r.kind = .source blk off)
    (hw : r.write = false) (hseen : r.seen = false) (hg : r.granted = true) (hb : blk? s blk = some b) (hc : b.ctx = ctx)
    (hwin : windowOf s r.addr 1 = some n) (hret : retired s 8 n = false) :
    filterReadPresent n r.addr r.len ctx s = sourcePassed r s := by
  have hfind : s.out.fab.find? (presents s r.addr r.len ctx) = some r := by
    rw [hfab, List.find?_singleton, presents_source hk hw hseen hb hc]
    rfl
  rw [filterReadPresent_of_found hfind, fabAnswered_of_granted _ (by rw [hfab]; exact List.mem_singleton_self r) (fun x hx _ => by
    rw [hfab] at hx
    rw [List.mem_singleton.mp hx, hg])]
  exact if_pos ⟨hwin, by rw [hret]; rfl⟩

/-! ### Tracker groups -/

theorem exec_trackerGroupReadReturn {entry g a : Nat} {data : Bytes} (hup : up s = true) (hp : s.pwr.state = 0)
    (ht : trackOf s entry = some a) :
    exec (.trackerGroupReadReturn entry g data) s = .next (trackerGroupReadReturn a g data s) := by
  change Host.Outcome.next (when _ _ s) = _
  rw [when, hup, hp, ht]
  rfl

theorem exec_trackerGroupReadReturn_of_none {entry g : Nat} {data : Bytes} (ht : trackOf s entry = none) :
    exec (.trackerGroupReadReturn entry g data) s = .next s := by
  change Host.Outcome.next (when _ _ s) = _
  rw [when, ht, ite_self]

theorem trackerGroupReadReturn_of_granted {a g : Nat} {data : Bytes} {f : FabReq}
    (hf : (s.out.fab.find? fun f => f.kind == .group a g && !f.write) = some f)
    (hg : ∀ x ∈ s.out.fab, x.id = f.id → x.granted = true) :
    trackerGroupReadReturn a g data s = serveFilters (groupArrives a g data
      { s with out.fab := s.out.fab.filter fun x => x.id != f.id }) := by
  unfold trackerGroupReadReturn
  rw [hf]
  dsimp only
  rw [fabAnswered_of_granted _ (List.mem_of_find?_eq_some hf) hg]

/-! ### A group that arrives, and rows that are written -/

/-- Changes of other regions wait on. -/
theorem settleOp_foldl_others (a : Nat) (l : List GroupOp) (acc : State × List GroupOp) (h : ∀ o ∈ l, o.region ≠ a) :
    l.foldl (settleOp a) acc = (acc.1, acc.2 ++ l) := by
  induction l generalizing acc with
  | nil => rw [List.append_nil]; rfl
  | cons o l ih =>
    obtain ⟨ho, hl⟩ := List.forall_mem_cons.mp h
    have hstep : settleOp a acc o = (acc.1, acc.2 ++ [o]) := by
      unfold settleOp
      rw [bne_iff_ne.mpr ho]
      rfl
    rw [List.foldl_cons, hstep, ih _ hl, List.append_assoc]
    rfl

theorem settleOps_of_others (a : Nat) (h : ∀ o ∈ s.cap.waiting, o.region ≠ a) : settleOps a s = s := by
  have hs : opsSettled a s = (s, s.cap.waiting) := settleOp_foldl_others a s.cap.waiting (s, []) h
  have hnone : (s.cap.waiting.filter fun o => o.region == a) = [] := by
    rw [List.filter_eq_nil_iff]
    exact fun o ho hb => h o ho (beq_iff_eq.mp hb)
  rw [settleOps_eq, hs]
  dsimp only
  rw [hnone]
  rfl

/-- The state in which a region's cache holds a group. -/
def groupCached (a g : Nat) (y : Group) (s : State) : State := onRegion a (fun r => { r with groups := Tab.put r.groups g y }) s

theorem region?_onRegion (a : Nat) (f : Region → Region) {r : Region} (h : region? s a = some r) :
    region? (onRegion a f s) a = some (f r) := by
  change Tab.get? (Tab.upd s.cap.regions a f) a = _
  rw [Tab.get?_upd, if_pos rfl]
  exact (congrArg (Option.map f) h).trans rfl

theorem group?_of_region {a : Nat} {r : Region} (h : region? s a = some r) (g : Nat) : group? s a g = Tab.get? r.groups g := by
  unfold group?
  rw [h]
  rfl

theorem group?_groupCached {a g : Nat} {y : Group} {r : Region} (h : region? s a = some r) :
    group? (groupCached a g y s) a g = some y ∧ ∀ k, k ≠ g → group? (groupCached a g y s) a k = group? s a k := by
  have hr := region?_onRegion a (fun r => { r with groups := Tab.put r.groups g y }) h
  refine ⟨(group?_of_region hr g).trans (Tab.get?_put_self ..), fun k hk => ?_⟩
  rw [group?_of_region h k]
  exact (group?_of_region hr k).trans (Tab.get?_put_ne _ _ hk)

theorem group?_of_cap (h : t.cap = s.cap) (a g : Nat) : group? t a g = group? s a g := by
  unfold group? region?
  rw [h]

theorem evict_of_room (h : cachedGroups s < 8192) : evict s = s := if_pos h

theorem groupArrives_spec {a g : Nat} {data : Bytes} {r : Region} (hr : region? s a = some r) (hroom : cachedGroups s < 8192)
    (hw : ∀ o ∈ s.cap.waiting, o.region ≠ a) : group? (groupArrives a g data s) a g = some (groupOf (slice data 0 128)) ∧
    ∀ k, k ≠ g → group? (groupArrives a g data s) a k = group? s a k := by
  have hcap := lanesWrite_cap 7 (16 * g) 16 s
  have hga : groupArrives a g data s = settleOps a (groupCached a g (groupOf (slice data 0 128)) (lanesWrite 7 (16 * g) 16 s)) := by
    unfold groupArrives
    rw [evict_of_room hroom]
    rfl
  have hwait : ∀ o ∈ (groupCached a g (groupOf (slice data 0 128)) (lanesWrite 7 (16 * g) 16 s)).cap.waiting, o.region ≠ a := by
    change ∀ o ∈ (lanesWrite 7 (16 * g) 16 s).cap.waiting, o.region ≠ a
    rw [hcap]
    exact hw
  rw [hga, settleOps_of_others a hwait]
  have hr' : region? (lanesWrite 7 (16 * g) 16 s) a = some r := by
    rw [region?, hcap]
    exact hr
  obtain ⟨hself, hne⟩ := group?_groupCached (g := g) (y := groupOf (slice data 0 128)) hr'
  exact ⟨hself, fun k hk => (hne k hk).trans (group?_of_cap hcap a k)⟩

/-! ### Rows written -/

/-- The change that sets W for some rows of a group. -/
def wrote (a g w : Nat) : GroupOp := { region := a, group := g, w }

theorem opVals_wrote (a g w : Nat) : opVals (wrote a g w) = [] := by
  have hnone : ∀ i, (0 : Nat).testBit i = false := Nat.zero_testBit
  change [] ++ ((List.range 128).filter (0 : Nat).testBit).map _ = []
  rw [List.filter_eq_nil_iff.mpr fun i _ => by rw [hnone]; exact Bool.false_ne_true]
  rfl

theorem markRows_eq (a g w : Nat) (s : State) : markRows a g w 0 s = groupOp (wrote a g w) s := by
  unfold markRows
  rw [ite_self]
  rfl

/-- A group with W set for some rows. -/
def withWritten (w : Nat) (x : Group) : Group :=
  { x with
    w := x.w ||| maskBits w, done := x.done ||| maskBits 0
    stale := (x.stale ||| maskBits 0) &&& ~~~(maskBits 0) }

theorem opGroup_wrote {a g w : Nat} {r : Region} {x : Group} (hr : region? s a = some r) (hx : group? s a g = some x) :
    opGroup s (wrote a g w) = some (withWritten w (applyCut s r.lastCut x)) := by
  have ht : touched? s a g = some (applyCut s r.lastCut x) := by
    unfold touched?
    rw [hr, hx]
  change (touched? s a g).map (withWritten w) = _
  rw [ht]
  rfl

theorem opReady_wrote {a g w : Nat} {r : Region} {x : Group} (hr : region? s a = some r) (ho : r.isOpen = true)
    (hx : group? s a g = some x) : opReady s (wrote a g w) = true := by
  have hr' : region? s (wrote a g w).region = some r := hr
  unfold opReady
  rw [opGroup_wrote hr hx, hr']
  dsimp only
  rw [ho, opVals_wrote]
  rfl

theorem valsStored_wrote (a g w : Nat) (s : State) (b k : Nat) :
    group? (valsStored (wrote a g w) s) b k = group? s b k := by
  unfold valsStored
  rw [opVals_wrote]
  unfold group? region?
  change (Tab.get? (Tab.upd s.cap.regions a fun r => { r with check := r.check }) b).bind _ = _
  rw [Tab.get?_upd]
  split
  · cases Tab.get? s.cap.regions b <;> rfl
  · rfl

theorem applyOp_wrote {a g w : Nat} {y : Group} (h : opGroup s (wrote a g w) = some y) :
    applyOp (wrote a g w) s = valsStored (wrote a g w) (opWritten (wrote a g w) y s) := by
  rw [applyOp_eq h, opVals_wrote]
  rfl

/-- The group after the change: with its bits, and dirty when they are new. -/
theorem group?_opWritten {a g w : Nat} {y : Group} {r : Region} (hr : region? s a = some r) :
    ∃ d, group? (opWritten (wrote a g w) y s) a g = some { y with dirty := d } := by
  unfold opWritten
  split
  · next h => exact ⟨y.dirty, h⟩
  · exact ⟨true, (group?_of_cap (diffWrite_cap ..) a g).trans (group?_groupCached (y := { y with dirty := true }) hr).1⟩

theorem opsSettled_single {o : GroupOp} (h : s.cap.waiting = [o]) (hready : opReady s o = true) :
    opsSettled o.region s = (applyOp o s, []) := by
  unfold opsSettled
  rw [h]
  change settleOp o.region (s, []) o = _
  unfold settleOp
  rw [bne_self_eq_false, hready]
  rfl

theorem applyCut_gepoch (e : Nat) (x : Group) (s : State) : (applyCut s e x).gepoch = max x.gepoch e := by
  unfold applyCut
  split
  · next h => exact (max_eq_right (Nat.le_of_lt h)).symm
  · next h => exact (max_eq_left (Nat.le_of_not_lt h)).symm

theorem withWritten_spec (w : Nat) (x : Group) : (withWritten w x).w = x.w ||| BitVec.ofNat 128 w ∧ (withWritten w x).d = x.d ∧
    (withWritten w x).done = x.done ∧ (withWritten w x).stale = x.stale ∧ (withWritten w x).gepoch = x.gepoch := by
  refine ⟨rfl, rfl, BitVec.or_zero, ?_, rfl⟩
  change (x.stale ||| 0#128) &&& ~~~0#128 = x.stale
  rw [BitVec.or_zero, BitVec.not_zero, BitVec.and_allOnes]

theorem markRows_spec {a g w : Nat} {r : Region} {x : Group} (hr : region? s a = some r) (ho : r.isOpen = true)
    (hx : group? s a g = some x) (hw : s.cap.waiting = []) :
    (∃ d, group? (markRows a g w 0 s) a g = some { withWritten w (applyCut s r.lastCut x) with dirty := d }) ∧
      (markRows a g w 0 s).cap.waiting = [] := by
  have hstart : markRows a g w 0 s = settleOps a { s with cap.waiting := [wrote a g w] } := by
    rw [markRows_eq]
    unfold groupOp
    dsimp only
    rw [hw]
    rfl
  have hr' : region? { s with cap.waiting := [wrote a g w] } a = some r := hr
  have hx' : group? { s with cap.waiting := [wrote a g w] } a g = some x := hx
  have hcut : applyCut { s with cap.waiting := [wrote a g w] } r.lastCut x = applyCut s r.lastCut x := rfl
  have hop := opGroup_wrote (w := w) hr' hx'
  have hsettled := opsSettled_single (s := { s with cap.waiting := [wrote a g w] }) rfl (opReady_wrote (w := w) hr' ho hx')
  have hend : markRows a g w 0 s =
      { applyOp (wrote a g w) { s with cap.waiting := [wrote a g w] } with cap.waiting := [] } := by
    rw [hstart, settleOps_eq]
    have h2 : opsSettled a { s with cap.waiting := [wrote a g w] } =
        (applyOp (wrote a g w) { s with cap.waiting := [wrote a g w] }, []) := hsettled
    rw [h2]
    rfl
  obtain ⟨d, hd⟩ := group?_opWritten (w := w) (y := withWritten w (applyCut s r.lastCut x)) hr'
  refine ⟨⟨d, ?_⟩, by rw [hend]⟩
  rw [hend, applyOp_wrote hop, hcut]
  exact (valsStored_wrote a g w _ a g).trans hd

end InsertionPoints

/-- Settles O42: writes pass or are held, the banks gain the window's plates, and groups take in what is read and written. -/
theorem filterRows : Obligations.FilterRows := by
  unfold Obligations.FilterRows
  refine ⟨fun s n src addr bytes e hup hseg hb he hrows hp hc hh => ?_, fun s n src addr bytes e hup hseg hb he hp hroom => ?_,
    fun s n src addr bytes hseg => ?_, fun s n src addr data hup hn hs hr hd hbase hprop hw => ?_,
    fun s n src addr data hr => ?_, fun s n i rest f p hup hf hi hp hr ha => ?_, fun s n hi => ?_,
    fun s n addr bytes ctx r blk off b hup hfab hk hw hseen hg haddr hlen hb hc hwin hret => ?_,
    fun s entry g a data f hup hp ht hf hg => ?_, fun s g a data r hr hroom hw => groupArrives_spec hr hroom hw,
    fun s a g w r x hr ho hx hw => ?_, fun s entry g data ht => exec_trackerGroupReadReturn_of_none ht⟩
  · rw [exec_filterWritePresent hup, filterWritePresent_of_armed hseg hb he, srcHeld_eq_false hh, hrows, writePlate_of_free hp hc]
    rfl
  · have hheld : (!srcHeld n src s && decide (256 ≤ ((filterOf s n).held.map (·.src)).dedup.length)) = false := by
      rcases hroom with h | h
      · rw [decide_eq_false (Nat.not_le.mpr h), Bool.and_false]
      · rw [srcHeld_of_mem h]
        rfl
    rw [exec_filterWritePresent hup, filterWritePresent_of_armed hseg hb he, hheld, writePlate_of_pending hp, Option.isNone_some,
      Bool.and_false, if_neg Bool.false_ne_true, if_neg Bool.false_ne_true, writeHeld, writePlate_of_pending hp]
    rfl
  · change Host.Outcome.next (when (up s) (filterWritePresent n src addr bytes) s) = _
    rw [when, filterWritePresent_of_open hseg, ite_self]
  · obtain ⟨hcoll, hcap⟩ := collBank_of_banks (filterWriteAccept_of_inWindow hr hd hbase hw)
    obtain ⟨hcap', hcoll'⟩ := setColl_banks (max (plateOf s addr) (winFirst s n))
      (min (plateOf s (addr + data.length - 1) + 1) (winFirst s n + winLen s n)) s
    refine ⟨_, exec_filterWriteAccept hup hn hs, hcap.trans hcap', fun p => ?_⟩
    rw [hcoll, hcoll', Iset.mem_add hw hprop]
    congr 1
    rw [Bool.eq_iff_iff]
    simp only [Bool.and_eq_true, decide_eq_true_eq]
    omega
  · change Host.Outcome.next (when _ (filterWriteAccept n addr data) s) = _
    rw [when, filterWriteAccept_of_retired hr, ite_self]
  · change Host.Outcome.next (when (up s) (injectedReadAccept n) s) = _
    rw [when, if_pos hup, injectedReadAccept_of_more hf hi hp hr ha]
    rfl
  · change Host.Outcome.next (when (up s) (injectedReadAccept n) s) = _
    rw [when, injectedReadAccept_of_none hi, ite_self]
  · change Host.Outcome.next (when (up s) (fun s => settle (filterReadPresent n addr bytes ctx s)) s) = _
    subst haddr hlen
    rw [when, if_pos hup, filterReadPresent_of_only hfab hk hw hseen hg hb hc hwin hret]
  · rw [exec_trackerGroupReadReturn hup hp ht, trackerGroupReadReturn_of_granted hf hg]
  · obtain ⟨⟨d, hgroup⟩, hwait⟩ := markRows_spec (w := w) hr ho hx hw
    obtain ⟨hw', hd', hdone, hstale, hep⟩ := withWritten_spec w (applyCut s r.lastCut x)
    exact ⟨_, hgroup, hw', hd', hdone, hstale, hep.trans (applyCut_gepoch ..), hwait⟩

end Sys2Proof.Machine
end

section
/-! SUPPORT. The descriptors of streams (R140, R141, R144, R149), the deadlines (R146), and the blocks that lanes take (R16, R164, R165). -/

namespace Sys2Proof.Machine

section Descriptors

/-! ### A mover serves a stream -/

variable {s s' : State} {mover ctx : Nat} {c : Ctx}

/-- A mover that serves a stream does one of its descriptors. -/
theorem exec_moverDescriptor (hrun : streamsRun s = true) (hm : mover < 32) (hr : retired s 2 mover = false)
    (hc : Tab.get? s.str.ctxs ctx = some c) (hst : c.state = 2 ∨ c.state = 3) (hserve : mayServe s mover ctx c = true) :
    exec (.moverDescriptor mover ctx) s = .next (settleAfter (syncCtx ctx (descriptor mover ctx c
      (onCtx ctx (fun y => { y with mover := some mover }) s)))) := by
  have hmover : ¬ (32 ≤ mover ∨ retired s 2 mover = true) := by
    rintro (h | h)
    · omega
    · exact Bool.false_ne_true (hr.symm.trans h)
  have hctx : ¬ ((c.state ≠ 2 ∧ c.state ≠ 3) ∨ (!mayServe s mover ctx c) = true) := by
    rw [hserve]
    rintro (⟨h2, h3⟩ | h)
    · exact hst.elim h2 h3
    · exact Bool.false_ne_true h
  change Host.Outcome.next (when (streamsRun s) (moverDescriptor mover ctx) s) = _
  rw [when, if_pos hrun, moverDescriptor, if_neg hmover, hc]
  exact congrArg Host.Outcome.next (if_neg hctx)

theorem moverDescriptor_refused (h : 32 ≤ mover ∨ retired s 2 mover = true ∨ Tab.get? s.str.ctxs ctx = none ∨
      ∃ c, Tab.get? s.str.ctxs ctx = some c ∧ (c.state ≠ 2 ∧ c.state ≠ 3 ∨ mayServe s mover ctx c = false)) :
    moverDescriptor mover ctx s = s := by
  unfold moverDescriptor
  by_cases hm : 32 ≤ mover ∨ retired s 2 mover = true
  · exact if_pos hm
  rw [if_neg hm]
  obtain h | h | hnone | ⟨c, hc, hc'⟩ := h
  · exact absurd (Or.inl h) hm
  · exact absurd (Or.inr h) hm
  · rw [hnone]
  · rw [hc]
    exact if_pos (hc'.imp_right fun h => by rw [h]; rfl)

theorem descriptor_plate (hopen : openBlock s ctx = none) (hk : c.kind = 0) (hsrc : isSource c = true) :
    descriptor mover ctx c s = plateStep 4096 mover ctx c s := by
  have h2 : ¬ c.kind = 2 := by omega
  rw [descriptor, hopen]
  dsimp only
  rw [if_neg h2, if_pos hsrc, if_pos hk]

theorem descriptor_raw (hopen : openBlock s ctx = none) (hk : c.kind = 0) (hsrc : isSource c = false) :
    descriptor mover ctx c s = rawStep mover ctx c s := by
  have h2 : ¬ c.kind = 2 := by omega
  have hnot : ¬ isSource c = true := by simp [hsrc]
  rw [descriptor, hopen]
  dsimp only
  rw [if_neg h2, if_neg hnot, if_pos hk]

theorem descriptor_job (hopen : openBlock s ctx = none) (hk : c.kind = 3 ∨ c.kind = 4) (hsrc : isSource c = false) :
    descriptor mover ctx c s = jobStep ctx c s := by
  have h2 : ¬ c.kind = 2 := by omega
  have h0 : ¬ c.kind = 0 := by omega
  have h1 : ¬ c.kind = 1 := by omega
  have hnot : ¬ isSource c = true := by simp [hsrc]
  rw [descriptor, hopen]
  dsimp only
  rw [if_neg h2, if_neg hnot, if_neg h0, if_neg h1, if_pos hk]

/-! ### One descriptor of each kind -/

theorem plateStep_of_room {x : Epoch} {i k : Nat} {order : List CopyItem} (hx : epoch? s c.epoch = some x)
    (hi : nextItem s x c = some (i, order)) (hread : readable s x c.entry i = true)
    (hpass : passantOf s x.num c.entry (i + plateOf s (eAddr (entryAt x.list c.entry))) false = none)
    (hnew : (collBank s).mem (i + plateOf s (eAddr (entryAt x.list c.entry))) = false ∨ isLost x c.entry i = true)
    (hroom : windowOpen s ctx c = true) (hdelta : x.delta.contains c.entry = true → 2 ≤ slotsFree s) :
    plateStep (k + 1) mover ctx c s = issueReads 17 s.str.nextBlk mover c.cls (newBlk
      { id := 0, ctx, kind := .enc c.epoch c.entry i, need := 65536, base := itemAddr (entryAt x.list c.entry) i
        lane := freeLane s [], hold := underHold s x c.entry i, bad := b2n (isLost x c.entry i) } false
      (setOrder c.epoch order s)) := by
  have hread' : ¬ (!readable s x c.entry i) = true := by simp [hread]
  have hcopied : ¬ ((collBank s).mem (i + plateOf s (eAddr (entryAt x.list c.entry))) && !isLost x c.entry i) = true := by
    rcases hnew with h | h <;> simp [h]
  have hfull : ¬ (!windowOpen s ctx c || (x.delta.contains c.entry && decide (slotsFree s < 2))) = true := by
    simp only [hroom, Bool.not_true, Bool.false_or, Bool.and_eq_true, decide_eq_true_eq, not_and, not_lt]
    exact hdelta
  unfold plateStep
  rw [hx]
  dsimp only
  rw [hi]
  dsimp only
  rw [if_neg hread', hpass]
  dsimp only
  rw [if_neg hcopied, if_neg hfull]

theorem jobStep_of_room {j : Job} (hlight : isLight s { id := 0, ctx, kind := .dec j, need := 0 } = false)
    (hj : (s.str.jobs.find? fun j => j.ctx == ctx) = some j) (hroom : windowOpen s ctx c = true)
    (hdelta : j.delta = true → 2 ≤ slotsFree s) :
    jobStep ctx c s = startUnit j (freeLane s []) false
      (onCtx ctx (fun y => { y with cursor := j.places.getLastD (j.first + j.count - 1) + 1 })
        { s with str.jobs := s.str.jobs.erase j }) := by
  have hfull : ¬ (true && !(windowOpen s ctx c && !(j.delta && decide (slotsFree s < 2)))) = true := by
    have hd : (j.delta && decide (slotsFree s < 2)) = false := by
      cases hdel : j.delta with
      | false => rfl
      | true => rw [Bool.true_and, decide_eq_false (not_lt.mpr (hdelta hdel))]
    rw [hroom, hd]
    exact Bool.false_ne_true
  unfold jobStep
  rw [hj]
  dsimp only
  rw [hlight, Bool.not_false, if_neg hfull, if_neg Bool.false_ne_true]

theorem rawStep_of_room {m : Cmd} (hrem : c.remain ≠ 0) (hroom : windowOpen s ctx c = true) (hm : cmd? s c.q c.seq = some m) :
    rawStep mover ctx c s = issueReads 18 s.str.nextBlk mover c.cls (newBlk
      { id := 0, ctx, kind := .raw ((c.cursor - fld m.item 16 8) / 65536), need := min 65536 c.remain, base := c.cursor
        lane := freeLane s [] } false
      (onCtx ctx (fun y => { y with cursor := c.cursor + min 65536 c.remain, remain := c.remain - min 65536 c.remain }) s)) := by
  have hnot : ¬ (c.remain = 0 ∨ (!windowOpen s ctx c) = true) := by simp [hrem, hroom]
  unfold rawStep
  rw [if_neg hnot, hm]

/-- The next read of a block: none when its mover has as many as it may keep. -/
theorem issueReads_succ {k id cls : Nat} {b : Blk} (hb : blk? s id = some b) (hlt : b.issued < b.need) :
    (mayRead s mover (min (b.need - b.issued) (4096 - (b.base + b.issued) % 4096)) = false →
      issueReads (k + 1) id mover cls s = s) ∧
    (mayRead s mover (min (b.need - b.issued) (4096 - (b.base + b.issued) % 4096)) = true →
      issueReads (k + 1) id mover cls s = issueReads k id mover cls
        (onBlk id (fun y => { y with issued := y.issued + min (b.need - b.issued) (4096 - (b.base + b.issued) % 4096) })
          (countStop (b.base + b.issued) (min (b.need - b.issued) (4096 - (b.base + b.issued) % 4096))
            (fabReqBy (some mover) (some b.ctx) b.hold (.source id b.issued) false (b.base + b.issued)
              (min (b.need - b.issued) (4096 - (b.base + b.issued) % 4096)) cls [] false s)))) := by
  have hnot : ¬ b.need ≤ b.issued := by omega
  constructor
  · intro hmay
    unfold issueReads
    rw [hb]
    dsimp only
    rw [hmay]
    exact if_pos (Or.inr rfl)
  · intro hmay
    rw [issueReads, hb]
    dsimp only
    rw [hmay]
    exact if_neg (fun h => h.elim hnot Bool.false_ne_true)

end Descriptors

section Deadlines

/-! ### Deadlines (R146) -/

variable {s : State}

theorem deadlines_eq (s : State) (i : Nat) (c : Ctx) : deadlines s i c =
    if c.cls = 4 ∧ c.state = 2 ∧ c.credit = false then
      { c with
        deadline := (s.time.core + ((s.str.blocks.filter fun b => b.ctx == i).foldl (fun a b => a + (blkBytes b).length) 0) /
          rate s.time.core c.drains) % 2 ^ 32
        drainDl := (s.time.core + (2 ^ 21 - ((s.str.blocks.filter fun b => b.ctx == i).foldl
          (fun a b => a + (blkBytes b).length) 0)) / rate s.time.core c.fills) % 2 ^ 32 }
    else c := by
  unfold deadlines
  by_cases h : c.cls = 4 ∧ c.state = 2 ∧ c.credit = false
  · obtain ⟨hcls, hst, hcr⟩ := h
    have hnot : ¬ (c.cls ≠ 4 ∨ c.state ≠ 2 ∨ c.credit = true) := by simp [hcls, hst, hcr]
    rw [if_neg hnot, if_pos ⟨hcls, hst, hcr⟩]
  · have hor : c.cls ≠ 4 ∨ c.state ≠ 2 ∨ c.credit = true := by
      by_contra hn
      push Not at hn
      exact h ⟨hn.1, hn.2.1, by simpa using hn.2.2⟩
    rw [if_pos hor, if_neg h]

theorem exec_deadlineRecompute (h : runs s = true) : exec .deadlineRecompute s = .next (deadlineRecompute s) := by
  change Host.Outcome.next (when (runs s) deadlineRecompute s) = _
  rw [when, if_pos h]

end Deadlines

section LaneBlocks

/-! ### A lane takes a block -/

variable {s : State} {lane : Nat} {pass : Bool} {w : Wait} {b : Blk}

theorem readRecipe_of_clean {slot : Nat} (h : storeClean 12 s) : readRecipe slot s = s := readLanes_of_clean _ _ h

theorem readRecipes_one {en : Bytes} (h : eCodec en = 4 → storeClean 12 s) : readRecipes s [en] = s := by
  unfold readRecipes
  by_cases h4 : eCodec en = 4
  · have hl : ([en].filter fun e => eCodec e == 4) = [en] := by simp [h4]
    rw [hl]
    exact readRecipe_of_clean (h h4)
  · have hl : ([en].filter fun e => eCodec e == 4) = [] := by simp [h4]
    rw [hl, each_nil]

theorem counted_flt (k : Nat) (w : Wait) (s : State) : (counted k w s).flt = s.flt := rfl

/-- A free lane takes the block that its arbiter grants, from a staging area that is clean. -/
theorem crucibleBlock_of_grant (hfree : laneFree s lane = true) (hg : laneGrant s lane = some (w, b)) (hclean : storeClean 0 s)
    (hb : blk? s b.id = some b) :
    crucibleBlock lane pass s = serveFilters (settleAfter (match b.kind with
      | .enc e entry k => encStep lane pass b e entry k (readRecipes (counted (40 + lane) w s)
          ((epoch? (counted (40 + lane) w s) e).toList.map fun x => entryAt x.list entry))
      | .dec j => decStep (some lane) pass b j
          (if j.codec = 4 then readRecipe j.decSlot (counted (40 + lane) w s) else counted (40 + lane) w s)
      | _ => counted (40 + lane) w s)) := by
  have hnot : ¬ (!laneFree s lane) = true := by simp [hfree]
  have hread (p : Nat → Bool) (lost : Nat → State → State) :
      readLanes 0 p lost (counted (40 + lane) w s) = counted (40 + lane) w s :=
    readLanes_of_clean p lost (storeClean_of_flt hclean (counted_flt _ w s))
  have hb' : blk? (counted (40 + lane) w s) b.id = some b := hb
  unfold crucibleBlock
  rw [if_neg hnot, hg]
  dsimp only
  rw [hread, hb'] <;> rfl

theorem exec_crucibleBlock (hrun : streamsRun s = true) :
    exec (.crucibleBlock lane pass) s = .next (crucibleBlock lane pass s) := by
  change Host.Outcome.next (when (streamsRun s) (crucibleBlock lane pass) s) = _
  rw [when, if_pos hrun]

theorem exec_crucibleBlock_enc {e entry k : Nat} {x : Epoch} (hrun : streamsRun s = true) (hfree : laneFree s lane = true)
    (hg : laneGrant s lane = some (w, b)) (hclean : storeClean 0 s) (hb : blk? s b.id = some b) (hk : b.kind = .enc e entry k)
    (hx : epoch? s e = some x) (h12 : eCodec (entryAt x.list entry) = 4 → storeClean 12 s) :
    exec (.crucibleBlock lane pass) s =
      .next (serveFilters (settleAfter (encStep lane pass b e entry k (counted (40 + lane) w s)))) := by
  have hx' : epoch? (counted (40 + lane) w s) e = some x := hx
  have hrec : readRecipes (counted (40 + lane) w s) [entryAt x.list entry] = counted (40 + lane) w s :=
    readRecipes_one fun h => storeClean_of_flt (h12 h) (counted_flt _ w s)
  rw [exec_crucibleBlock hrun, crucibleBlock_of_grant hfree hg hclean hb, hk]
  dsimp only
  rw [hx', Option.toList_some, List.map_singleton, hrec]

theorem exec_crucibleBlock_dec {j : Job} (hrun : streamsRun s = true) (hfree : laneFree s lane = true)
    (hg : laneGrant s lane = some (w, b)) (hclean : storeClean 0 s) (hb : blk? s b.id = some b) (hk : b.kind = .dec j)
    (h12 : j.codec = 4 → storeClean 12 s) :
    exec (.crucibleBlock lane pass) s =
      .next (serveFilters (settleAfter (decStep (some lane) pass b j (counted (40 + lane) w s)))) := by
  have hrec : (if j.codec = 4 then readRecipe j.decSlot (counted (40 + lane) w s) else counted (40 + lane) w s) =
      counted (40 + lane) w s := by
    split
    next h4 => exact readRecipe_of_clean (storeClean_of_flt (h12 h4) (counted_flt _ w s))
    next => rfl
  rw [exec_crucibleBlock hrun, crucibleBlock_of_grant hfree hg hclean hb, hk]
  dsimp only
  rw [hrec]

/-- A lane that is not free, or whose arbiter grants no block, takes none. -/
theorem crucibleBlock_of_none (h : laneFree s lane = false ∨ laneGrant s lane = none) : crucibleBlock lane pass s = s := by
  unfold crucibleBlock
  by_cases hfree : laneFree s lane = true
  · have hg := h.resolve_left (by simp [hfree])
    rw [hg]
    exact ite_self s
  · exact if_pos (by simpa using hfree)

theorem encStep_builtin {e entry k : Nat} {x : Epoch} (hx : epoch? s e = some x) (h4 : eCodec (entryAt x.list entry) ≠ 4) :
    encStep lane pass b e entry k s =
      let sub := subBlock s (entryAt x.list entry) b k
      let o := builtinEnc (entryAt x.list entry) e sub.1 (b.anchor.map fun a => slice a.1 0 sub.2.length) sub.2
      if !pass then checkFailed b [lane] (encDone b x entry sub.1 lane sub.2 o.1 o.2 (some (3, 0x0D, 2))) s
      else encDone b x entry sub.1 lane sub.2 o.1 o.2 (anchorWorst b) (chargeLanes b s) := by
  rw [encStep, hx]
  exact if_neg h4

end LaneBlocks

/-- Settles O43: a mover that serves a stream does one descriptor of its kind, deadlines are replaced context by context, and a
free lane encodes or decodes the block that its arbiter grants. -/
theorem streamsAndLanes : Obligations.StreamsAndLanes := by
  unfold Obligations.StreamsAndLanes
  refine ⟨?plate, ?unit, ?raw, ?reads, ?refused, ?deadline, ?encode, ?builtin, ?decode, ?idle⟩
  case plate =>
    rintro s _ mover ctx c x i order hrun hm hr hc hst hserve hk hsrc rfl hopen hx hi hread p hpass hnew hroom hdelta
    rw [exec_moverDescriptor hrun hm hr hc hst hserve, descriptor_plate hopen hk hsrc,
      plateStep_of_room hx hi hread hpass hnew hroom hdelta]
  case unit =>
    rintro s _ mover ctx c j hrun hm hr hc hst hserve hk hsrc rfl hopen hj hlight hroom hdelta
    rw [exec_moverDescriptor hrun hm hr hc hst hserve, descriptor_job hopen hk hsrc, jobStep_of_room hlight hj hroom hdelta]
    rfl
  case raw =>
    rintro s _ mover ctx c m hrun hm hr hc hst hserve hk hsrc rfl hopen hrem hroom hcmd
    rw [exec_moverDescriptor hrun hm hr hc hst hserve, descriptor_raw hopen hk hsrc, rawStep_of_room hrem hroom hcmd]
    rfl
  case reads => exact fun s k id mover cls b hb hlt => issueReads_succ hb hlt
  case refused =>
    intro s mover ctx h
    change Host.Outcome.next (when (streamsRun s) (moverDescriptor mover ctx) s) = _
    rw [when, moverDescriptor_refused h, ite_self]
  case deadline =>
    intro s hrun
    refine ⟨deadlineRecompute s, exec_deadlineRecompute hrun, rfl, fun i => ?_⟩
    have hget : Tab.get? (deadlineRecompute s).str.ctxs i = (Tab.get? s.str.ctxs i).map (deadlines s i) :=
      get?_mapKeyed _ _ _
    rw [hget]
    exact congrArg (fun f => Option.map f _) (funext (deadlines_eq s i))
  case encode =>
    intro s lane e entry k pass w b x hrun hfree hg hclean hb hk hx h12
    exact exec_crucibleBlock_enc hrun hfree hg hclean hb hk hx h12
  case builtin =>
    intro s lane e entry k b x hx h4
    exact ⟨encStep_builtin hx h4, encStep_builtin hx h4⟩
  case decode =>
    intro s lane pass w b j hrun hfree hg hclean hb hk h12
    exact exec_crucibleBlock_dec hrun hfree hg hclean hb hk h12
  case idle =>
    intro s lane pass h
    change Host.Outcome.next (when (streamsRun s) (crucibleBlock lane pass) s) = _
    rw [when, crucibleBlock_of_none h, ite_self]

end Sys2Proof.Machine
end

section
/-! SUPPORT. The sealing unit: sectors that leave it, wait for escrow or are sealed again (R191 to R194, R265), and the seal
header (R282). -/

namespace Sys2Proof.Machine

section SealingUnit

/-! ### A failed self-check (R194) -/

variable {s t : State}

/-- Captures, journal, fabric requests and streams are those of before. -/
def keepsWork (s t : State) : Prop :=
  t.cap.epochs = s.cap.epochs ∧ t.ldg = s.ldg ∧ t.out.fab = s.out.fab ∧ t.str = s.str

theorem keepsWork.trans {u : State} (h : keepsWork s t) (h' : keepsWork t u) : keepsWork s u := by
  obtain ⟨hc, hl, hf, hs⟩ := h
  obtain ⟨hc', hl', hf', hs'⟩ := h'
  exact ⟨hc'.trans hc, hl'.trans hl, hf'.trans hf, hs'.trans hs⟩

theorem keepsWork_of_events (h : onlyEvents s t) : keepsWork s t := by
  unfold onlyEvents at h
  rw [h]
  exact ⟨rfl, rfl, rfl, rfl⟩

theorem upset_keepsWork (k : Nat) (s : State) : keepsWork s (upset k s) := by
  unfold upset
  dsimp only
  split
  · exact keepsWork.trans (t := { s with flt.upsets := Tab.del s.flt.upsets k, flt.upsetAt := Tab.put s.flt.upsetAt k s.time.aon })
      ⟨rfl, rfl, rfl, rfl⟩ (keepsWork_of_events (raise0_events ..))
  · exact ⟨rfl, rfl, rfl, rfl⟩

/-- A failed self-check, the fourth at most, leaves the payload to be sealed again. -/
theorem sectorSeal_failed {j : SealJob} {rest : List SealJob} {k i : Nat} (hj : s.pun.jobs = j :: rest)
    (hlt : j.failed.length < 4) : ∃ u, sectorSeal (some (k, i)) s =
      { u with pun.jobs := { j with failed := j.failed ++ [(k, i)] } :: rest } ∧ keepsWork s u := by
  have hnot : ¬ 4 ≤ j.failed.length := by omega
  have heq : sectorSeal (some (k, i)) s = match s.pun.jobs with
    | [] => s
    | j :: rest =>
      let n := match epoch? s j.epoch with
        | some x => ((epochVault s x).map fun va => jobSector va.1 va.2 x j).getD 0
        | none => 0
      let s := upset k (raise0 0x0601 1 (k + i * 2 ^ 8 + 2 ^ 32 * (n % 2 ^ 32)) s)
      if 4 ≤ j.failed.length then
        let bad := { j with bad := true, failed := [] }
        sealJob bad rest (poisonEpoch j.epoch { s with pun.jobs := bad :: rest })
      else { s with pun.jobs := { j with failed := j.failed ++ [(k, i)] } :: rest } := rfl
  rw [heq, hj]
  dsimp only
  rw [if_neg hnot]
  exact ⟨_, rfl, (keepsWork_of_events (raise0_events ..)).trans (upset_keepsWork ..)⟩

theorem engineOk_some {k i : Nat} (hk : k = 4 ∨ k = 5 ∨ k = 6) (hi : i < kindCount k) (hr : retired s k i = false) :
    engineOk s (some (k, i)) = true := by
  have hkind : (k == 4 || k == 5 || k == 6) = true := by rcases hk with rfl | rfl | rfl <;> rfl
  change ((k == 4 || k == 5 || k == 6) && decide (i < kindCount k) && !retired s k i) = true
  rw [hkind, hr, decide_eq_true hi]
  rfl

theorem exec_sectorSeal {f : Option (Nat × Nat)} (hrun : runs s = true) (hok : engineOk s f = true) :
    exec (.sectorSeal f) s = .next (serveFilters (sectorSeal f s)) := by
  change Host.Outcome.next (when (runs s && engineOk s f) (fun s => serveFilters (sectorSeal f s)) s) = _
  rw [when, hrun, hok]
  rfl

/-! ### The payload handed over first -/

variable {j : SealJob} {rest : List SealJob} {x : Epoch} {v : Vault} {a : Layout}

theorem sectorSeal_none (hj : s.pun.jobs = j :: rest) : sectorSeal none s = sealJob j rest s := by
  rw [sectorSeal, hj]

theorem chargeEngine_of_none (h : j.failed = []) : chargeEngine j s = s := by
  rw [chargeEngine, h]

/-- What the sealing unit does with a payload whose epoch and vault are known, once its key has been looked at. -/
theorem sealJob_of_vault (hclean : storeClean 13 s) (hx : epoch? s j.epoch = some x) (hv : epochVault s x = some (v, a)) :
    sealJob j rest s = match keyBad s (hDataKey x.list) 2 none with
      | some _ => keyGone j.epoch { s with pun.jobs := rest }
      | none =>
        if j.kind = 5 then
          releaseSeal x v j (jobSector v a x j) (sealedSector (keyBytes s (hDataKey x.list)) (hVault x.list) (jobSector v a x j) x.num
            (sectorHeader 5 false (hDataKey x.list) (hHmac x.list) x.num 0 j.isector) j.payload)
              (chargeEngine j { s with pun.jobs := rest })
        else if !mine x.list (entryAt x.list j.entry) (jobSector v a x j) && decide (escrowSlots s ≤ escrowUsed s) then
          if j.waited then s
          else raise0 0x080A 1 j.epoch { s with pun.jobs := { j with waited := true } :: rest }
        else
          sealRelease x v j (jobSector v a x j) (sealedSector (keyBytes (chargeEngine j s) (hDataKey x.list)) (hVault x.list)
            (jobSector v a x j) j.epoch (sectorHeader j.kind j.bad (hDataKey x.list) (hHmac x.list) j.epoch
              (eStream (entryAt x.list j.entry)) j.isector) j.payload) { chargeEngine j s with pun.jobs := rest } := by
  rw [sealJob, hx]
  dsimp only
  rw [hv]
  dsimp only
  rw [readKeys_of_clean [hDataKey x.list] hclean] <;> rfl

section KeyAtHand

variable (hclean : storeClean 13 s) (hx : epoch? s j.epoch = some x) (hv : epochVault s x = some (v, a))
  (hkey : keyBad s (hDataKey x.list) 2 none = none) (hfail : j.failed = [])

include hclean hx hv hkey

include hfail in
theorem sealJob_releases (hk : j.kind ≠ 5)
    (hroom : mine x.list (entryAt x.list j.entry) (jobSector v a x j) = true ∨ escrowUsed s < escrowSlots s) :
    sealJob j rest s = sealRelease x v j (jobSector v a x j) (sealedSector (keyBytes s (hDataKey x.list)) (hVault x.list)
      (jobSector v a x j) j.epoch (sectorHeader j.kind j.bad (hDataKey x.list) (hHmac x.list) j.epoch
        (eStream (entryAt x.list j.entry)) j.isector) j.payload) { s with pun.jobs := rest } := by
  have hnot : ¬ (!mine x.list (entryAt x.list j.entry) (jobSector v a x j) &&
      decide (escrowSlots s ≤ escrowUsed s)) = true := by
    rcases hroom with h | h
    · simp [h]
    · simp [not_le.mpr h]
  rw [sealJob_of_vault hclean hx hv, hkey]
  dsimp only
  rw [if_neg hk, if_neg hnot, chargeEngine_of_none hfail]

include hfail in
theorem sealJob_releasesSeal (hk : j.kind = 5) :
    sealJob j rest s = releaseSeal x v j (jobSector v a x j) (sealedSector (keyBytes s (hDataKey x.list)) (hVault x.list)
      (jobSector v a x j) x.num (sectorHeader 5 false (hDataKey x.list) (hHmac x.list) x.num 0 j.isector) j.payload)
      { s with pun.jobs := rest } := by
  rw [sealJob_of_vault hclean hx hv, hkey]
  dsimp only
  rw [if_pos hk, chargeEngine_of_none hfail]

/-- A sector of another replica's waits for room in escrow (R265). -/
theorem sealJob_waits (hk : j.kind ≠ 5) (hmine : mine x.list (entryAt x.list j.entry) (jobSector v a x j) = false)
    (hfull : escrowSlots s ≤ escrowUsed s) (hw : j.waited = false) :
    sealJob j rest s = raise0 0x080A 1 j.epoch { s with pun.jobs := { j with waited := true } :: rest } := by
  have hyes : (!mine x.list (entryAt x.list j.entry) (jobSector v a x j) &&
      decide (escrowSlots s ≤ escrowUsed s)) = true := by
    rw [hmine, decide_eq_true hfull]
    rfl
  have hnot : ¬ j.waited = true := by simp [hw]
  rw [sealJob_of_vault hclean hx hv, hkey]
  dsimp only
  rw [if_neg hk, if_pos hyes, if_neg hnot]

end KeyAtHand

theorem sealJob_keyGone {o : Nat} (hclean : storeClean 13 s) (hx : epoch? s j.epoch = some x)
    (hv : epochVault s x = some (v, a)) (hkey : keyBad s (hDataKey x.list) 2 none = some o) :
    sealJob j rest s = abandonEpoch j.epoch (0x0E, 0) { s with pun.jobs := rest } := by
  rw [sealJob_of_vault hclean hx hv, hkey]
  rfl

theorem releaseSeal_header {n : Nat} {b : Bytes} (hbad : j.bad = false) (hi : j.isector = 0) :
    releaseSeal x v j n b s = onEpoch x.num (fun y => { y with sealedHdr := b }) s := by
  have hnot : ¬ j.bad = true := by simp [hbad]
  rw [releaseSeal, if_neg hnot, if_pos hi]

end SealingUnit

section SealHeader

/-! ### The seal header (R32, R282) -/

variable {s : State} {e : Nat} {x : Epoch} {v : Vault} {a : Layout}

theorem headerReady_iff : headerReady s x = true ↔
    x.phase = 4 ∧ x.sealIssued = false ∧ x.sealSent ≤ x.sealAcked ∧ x.sealedHdr ≠ [] ∧ replicasDone s x = true := by
  simp [headerReady, and_assoc]

theorem sealRecordWrite_of_notReady (hx : epoch? s e = some x) (h : ¬ headerReady s x = true) : sealRecordWrite e s = s := by
  rw [sealRecordWrite, hx]
  exact if_pos (by simpa using h)

theorem sealRecordWrite_issues (hx : epoch? s e = some x) (h : headerReady s x = true) (hv : epochVault s x = some (v, a))
    (hw : writerRecords x ≤ 2048) (hd : fld x.header 36 2 = x.disputes.length) :
    sealRecordWrite e s = writeSector (hVault x.list) v (tailBase v a e (hIx x.list)) e x.sealedHdr (.sealHdr e)
      { tag := 0, peer := 0, mtype := 0x10, msg := [], epoch := e, entry := sealMark 1, isectors := [0] } 0 0
      (onEpoch e (fun y => { y with sealIssued := true }) s) := by
  have hnot : ¬ (!headerReady s x) = true := by simp [h]
  have hfew : ¬ 2048 < writerRecords x := by omega
  rw [sealRecordWrite, hx]
  dsimp only
  rw [if_neg hnot, hv]
  dsimp only
  rw [if_neg hfew, if_neg (not_not.mpr hd)]

theorem exec_sealRecordWrite (hrun : runs s = true) : exec (.sealRecordWrite e) s = .next (sealRecordWrite e s) := by
  change Host.Outcome.next (when (runs s) (sealRecordWrite e) s) = _
  rw [when, if_pos hrun]

end SealHeader

/-- Settles O44: the payload in front is sealed and released, waits for escrow, is sealed again or ends its epoch, and the seal
header is written when it is ready. -/
theorem sealing_meets : Obligations.Sealing := by
  unfold Obligations.Sealing
  refine ⟨?release, ?header, ?failed, ?key, ?issue, ?wait⟩
  case release =>
    intro s j rest x v a hrun hclean hj hfail hx hv hkey
    dsimp only
    rw [exec_sectorSeal hrun rfl, sectorSeal_none hj]
    refine ⟨fun hk hroom => ?_, fun hk => ?_, fun hk hmine hfull hw => ?_⟩
    · rw [sealJob_releases hclean hx hv hkey hfail hk hroom]
    · rw [sealJob_releasesSeal hclean hx hv hkey hfail hk]
    · rw [sealJob_waits hclean hx hv hkey hk hmine hfull hw]
  case header => exact fun s x v j n b hbad hi => releaseSeal_header hbad hi
  case failed =>
    intro s j rest k i hrun hj hk hi hr hlt
    obtain ⟨u, heq, hkeep⟩ := sectorSeal_failed (k := k) (i := i) hj hlt
    exact ⟨_, exec_sectorSeal hrun (engineOk_some hk hi hr), by rw [heq], by rw [heq]; exact hkeep⟩
  case key =>
    intro s j rest x v a o hrun hclean hj hx hv hkey
    rw [exec_sectorSeal hrun rfl, sectorSeal_none hj, sealJob_keyGone hclean hx hv hkey]
  case issue =>
    intro s e x v a hrun hx hphase hiss hack hhdr hrep hv hw hd
    rw [exec_sealRecordWrite hrun,
      sealRecordWrite_issues hx (headerReady_iff.mpr ⟨hphase, hiss, hack, hhdr, hrep⟩) hv hw hd]
  case wait =>
    intro s e x hx h
    have hnot : ¬ headerReady s x = true := by
      rw [headerReady_iff]
      rintro ⟨hphase, hiss, hack, hhdr, hrep⟩
      rcases h with h | h | h | h | h
      · exact h hphase
      · exact Bool.false_ne_true (hiss.symm.trans h)
      · exact hhdr h
      · omega
      · exact Bool.false_ne_true (h.symm.trans hrep)
    change Host.Outcome.next (when (runs s) (sealRecordWrite e) s) = _
    rw [when, sealRecordWrite_of_notReady hx hnot, ite_self]

end Sys2Proof.Machine
end

section
/-! SUPPORT. The bring-up of a spill port: training, codeword lock, codewords lost and lane alignment (R242 to R244, R248, R250). -/

namespace Sys2Proof.Machine

section PortRules

/-! ### One port of the table -/

variable {s t : State} {p : Nat} {x : Port} {f : Port → Port}

theorem port?_onPort (f : Port → Port) (hx : port? s p = some x) : port? (onPort p f s) p = some (f x) := by
  change Tab.get? (Tab.upd s.spl.ports p f) p = _
  rw [Tab.get?_upd, if_pos rfl]
  exact congrArg (Option.map f) hx

theorem port?_onPort_ne {k : Nat} (h : k ≠ p) : port? (onPort p f s) k = port? s k := by
  change Tab.get? (Tab.upd s.spl.ports p f) k = _
  rw [Tab.get?_upd, if_neg h]
  rfl

theorem upd_upd {α : Type} (l : Tab α) (k : Nat) (f g : α → α) : Tab.upd (Tab.upd l k f) k g = Tab.upd l k fun y => g (f y) := by
  unfold Tab.upd
  rw [List.map_map]
  refine List.map_congr_left fun e _ => ?_
  change (if (if e.1 = k then (e.1, f e.2) else e).1 = k then _ else _) = _
  by_cases h : e.1 = k
  · simp [h]
  · simp [h]

theorem onPort_onPort (g f : Port → Port) (p : Nat) (s : State) : onPort p g (onPort p f s) = onPort p (fun y => g (f y)) s :=
  congrArg (fun l => { s with spl.ports := l }) (upd_upd s.spl.ports p f g)

theorem ports_onPort (p : Nat) (f : Port → Port) (s : State) : (onPort p f s).spl.ports = Tab.upd s.spl.ports p f := rfl

theorem port?_onlyEvents (h : onlyEvents s t) : port? t p = port? s p := by
  unfold onlyEvents at h
  rw [h]
  rfl

end PortRules

section Training

/-! ### 802.3 training (R250) -/

variable {s : State} {p : Nat} {x : Port} {failed : List Nat}

/-- The receiver of a lane after a training that was its first to fail, or did not fail. -/
def trainedLane (failed : List Nat) (l : Nat) : RxLane := { trainFails := if l ∈ failed then 1 else 0 }

def trainedLanes (failed ls : List Nat) (t : Tab RxLane) : Tab RxLane := ls.foldl (fun t l => Tab.put t l (trainedLane failed l)) t

theorem get?_trainedLanes (ls : List Nat) (t : Tab RxLane) (l : Nat) :
    Tab.get? (trainedLanes failed ls t) l = if l ∈ ls then some (trainedLane failed l) else Tab.get? t l := by
  induction ls generalizing t with
  | nil => rfl
  | cons k ls ih =>
    refine (ih (Tab.put t k (trainedLane failed k))).trans ?_
    by_cases hl : l ∈ ls
    · rw [if_pos hl, if_pos (List.mem_cons_of_mem _ hl)]
    · rw [if_neg hl]
      by_cases hk : l = k
      · rw [hk, Tab.get?_put_self, if_pos List.mem_cons_self]
      · rw [Tab.get?_put_ne _ _ hk, if_neg (by simp [hk, hl])]

/-- A lane that has not failed before is not retired by its training. -/
theorem trainLane_eq {l : Nat} (hx : port? s p = some x)
    (h : l ∈ failed → ∀ o, Tab.get? x.lanes l = some o → o.trainFails = 0) :
    trainLane p failed l s = onPort p (fun y => { y with lanes := Tab.put y.lanes l (trainedLane failed l) }) s := by
  have hn : (if failed.contains l then ((((port? s p).bind fun x => Tab.get? x.lanes l).getD {}).trainFails + 1) else 0) =
      if l ∈ failed then 1 else 0 := by
    by_cases hl : l ∈ failed
    · rw [if_pos (by simpa using hl), if_pos hl, hx, Option.bind_some]
      cases ho : Tab.get? x.lanes l with
      | none => rfl
      | some o => rw [Option.getD_some, h hl o ho]
    · rw [if_neg (by simpa using hl), if_neg hl]
  have hfew : ¬ 2 ≤ if l ∈ failed then 1 else 0 := by split <;> omega
  unfold trainLane
  dsimp only
  rw [hn, if_neg hfew, if_neg hfew]
  rfl

theorem each_trainLane {ls : List Nat} (hnd : ls.Nodup) (hx : port? s p = some x)
    (h : ∀ l ∈ ls, l ∈ failed → ∀ o, Tab.get? x.lanes l = some o → o.trainFails = 0) :
    each ls (trainLane p failed) s = onPort p (fun y => { y with lanes := trainedLanes failed ls y.lanes }) s := by
  induction ls generalizing s x with
  | nil =>
    have hid : (fun y : Port => { y with lanes := trainedLanes failed [] y.lanes }) = id := rfl
    change s = { s with spl.ports := Tab.upd s.spl.ports p (fun y : Port => { y with lanes := trainedLanes failed [] y.lanes }) }
    rw [hid]
    have hl : Tab.upd s.spl.ports p id = s.spl.ports := by
      unfold Tab.upd
      refine (List.map_congr_left fun e _ => ?_).trans (List.map_id _)
      split <;> rfl
    rw [hl]
  | cons l ls ih =>
    obtain ⟨hl, hnd⟩ := List.nodup_cons.mp hnd
    change each ls (trainLane p failed) (trainLane p failed l s) = _
    rw [trainLane_eq hx (h l List.mem_cons_self), ih hnd (port?_onPort _ hx), onPort_onPort]
    · rfl
    · intro k hk hkf o ho
      rw [Tab.get?_put_ne _ _ fun hkl => hl (by rwa [hkl] at hk)] at ho
      exact h k (List.mem_cons_of_mem _ hk) hkf o ho

theorem workLanes_nodup (s : State) (p : Nat) : (workLanes s p).Nodup := List.nodup_range.filter _

/-- The port after a training in which some lane trained. -/
def trainedPort (failed work : List Nat) (y : Port) : Port :=
  { y with
    state := 2
    mask := maskFrom (work.filter fun l => !failed.contains l)
    newMask := maskFrom (work.filter fun l => !failed.contains l)
    lanes := trainedLanes failed work y.lanes }

theorem phyTrained_eq (hx : port? s p = some x) (h1 : x.state = 1)
    (hfirst : ∀ l ∈ failed, ∀ o, Tab.get? x.lanes l = some o → o.trainFails = 0) (hok : ∃ l ∈ workLanes s p, l ∉ failed) :
    phyTrained p failed s = onPort p (trainedPort failed (workLanes s p)) s := by
  have htrain := each_trainLane (workLanes_nodup s p) hx fun l _ hl => hfirst l hl
  have hne : ((workLanes s p).filter fun l => !failed.contains l).isEmpty = false := by
    obtain ⟨l, hl, hlf⟩ := hok
    exact List.isEmpty_eq_false_iff.mpr (List.ne_nil_of_mem (List.mem_filter.mpr ⟨hl, by simpa using hlf⟩))
  have hst : ∀ y : Port, y.state = 1 → ¬ ((some y).all fun x => x.state != 1) = true := by
    intro y hy
    simp [hy]
  unfold phyTrained
  rw [if_neg (by rw [hx]; exact hst x h1), htrain]
  generalize hs' : onPort p (fun y => { y with lanes := trainedLanes failed (workLanes s p) y.lanes }) s = s'
  have hx' : port? s' p = some { x with lanes := trainedLanes failed (workLanes s p) x.lanes } := by
    rw [← hs']
    exact port?_onPort _ hx
  have hw : workLanes s' p = workLanes s p := by
    rw [← hs']
    rfl
  have hgo : ¬ (((port? s' p).all fun x => x.state != 1) = true ∨
      ((workLanes s p).filter fun l => !failed.contains l).isEmpty = true) := by
    rintro (h | h)
    · rw [hx'] at h
      exact hst _ h1 h
    · exact Bool.false_ne_true (hne.symm.trans h)
  dsimp only
  rw [hw, if_neg hgo, ← hs', onPort_onPort]
  rfl

theorem phyTrained_of_other (h : ∀ x, port? s p = some x → x.state ≠ 1) : phyTrained p failed s = s := by
  unfold phyTrained
  refine if_pos ?_
  cases hx : port? s p with
  | none => rfl
  | some x => simpa using h x hx

theorem exec_phyTrainingDone (hup : up s = true) : exec (.phyTrainingDone p failed) s = .next (phyTrained p failed s) := by
  change Host.Outcome.next (when (up s) (phyTrained p failed) s) = _
  rw [when, if_pos hup]

end Training

section Lock

/-! ### Codeword lock (R242) -/

variable {s : State} {p l : Nat} {x : Port}

/-- A lane's receiver with its lock changed. -/
def relocked (l : Nat) (lock : Bool) (old : RxLane) (y : Port) : Port :=
  { y with lanes := Tab.put y.lanes l { old with lock, align := none, good := 0 } }

/-- Every working lane of a port's mask has codeword lock. -/
def allLocked (p : Nat) (mask : Nat) (s : State) : Bool :=
  (workLanes s p).all fun k => !inMask mask k || ((port? s p).bind fun y => Tab.get? y.lanes k).any (·.lock)

theorem exec_codewordLock (lock : Bool) (hup : up s = true) :
    exec (.codewordLock p l lock) s = .next (lockChange p l lock s) := by
  change Host.Outcome.next (when (up s) (lockChange p l lock) s) = _
  rw [when, if_pos hup]

theorem lockChange_acquired (hx : port? s p = some x) (h2 : 2 ≤ x.state) (h7 : x.state ≠ 7) (hl : l < 4) :
    lockChange p l true s =
      if x.state = 2 ∧ allLocked p x.mask (onPort p (relocked l true ((Tab.get? x.lanes l).getD {})) s) = true then
        onPort p (fun y => { y with state := 3 }) (onPort p (relocked l true ((Tab.get? x.lanes l).getD {})) s)
      else onPort p (relocked l true ((Tab.get? x.lanes l).getD {})) s := by
  have hnot : ¬ (x.state < 2 ∨ x.state = 7 ∨ 4 ≤ l) := by omega
  rw [lockChange, hx]
  exact if_neg hnot

theorem allLocked_relocked {old : RxLane} {mask : Nat} (hx : port? s p = some x) :
    allLocked p mask (onPort p (relocked l true old) s) = true ↔
      ∀ k ∈ workLanes s p, k ≠ l → mask.testBit k = true → ∃ o, Tab.get? x.lanes k = some o ∧ o.lock = true := by
  have hlane (k : Nat) : ((port? (onPort p (relocked l true old) s) p).bind fun y => Tab.get? y.lanes k) =
      Tab.get? (Tab.put x.lanes l { old with lock := true, align := none, good := 0 }) k := by
    rw [port?_onPort _ hx]
    rfl
  have hw : workLanes (onPort p (relocked l true old) s) p = workLanes s p := rfl
  rw [allLocked, hw, List.all_eq_true]
  refine forall₂_congr fun k _ => ?_
  rw [hlane]
  by_cases hk : k = l
  · rw [hk, Tab.get?_put_self]
    simp
  · rw [Tab.get?_put_ne _ _ hk]
    have hin : inMask mask k = mask.testBit k := rfl
    rw [hin]
    cases mask.testBit k <;> simp [hk, Option.any_eq_true]

/-! ### Codewords lost (R248) -/

/-- The codewords that a port has lost within 1 ms, with three more of a lane. -/
def moreLost (l now : Nat) (y : Port) : Port :=
  { y with lost := (y.lost.filter fun e => decide (now < e.2 + 100000)) ++ List.replicate 3 (l, now) }

/-- The codewords of a lane that a port has lost within 1 ms. -/
def recentLost (x : Port) (l now : Nat) : Nat := (x.lost.filter fun e => e.1 == l && decide (now < e.2 + 100000)).length

theorem lost_moreLost (l now : Nat) (y : Port) :
    ((moreLost l now y).lost.filter fun e => e.1 == l).length = recentLost y l now + 3 := by
  unfold moreLost recentLost
  rw [List.filter_append, List.filter_filter, List.length_append]
  simp

/-- The state in which the codewords lost are counted. -/
def lossCounted (p l : Nat) (s : State) : State :=
  onPort p (moreLost l s.time.aon) { s with spl.uncorr := satAdd 0xFFFFFFFF s.spl.uncorr 3 }

theorem codewordsLost_eq (hx : port? s p = some x) : codewordsLost p l s =
    if 61 < recentLost x l s.time.aon then retire 0 (4 * p + l) 1 (lossCounted p l s) else lossCounted p l s := by
  have hx' : port? (lossCounted p l s) p = some (moreLost l s.time.aon x) :=
    port?_onPort (s := { s with spl.uncorr := satAdd 0xFFFFFFFF s.spl.uncorr 3 }) _ hx
  have heq : codewordsLost p l s =
      if 64 < ((((port? (lossCounted p l s) p).map Port.lost).getD []).filter fun e => e.1 == l).length then
        retire 0 (4 * p + l) 1 (lossCounted p l s) else lossCounted p l s := rfl
  have hlen : ((((port? (lossCounted p l s) p).map Port.lost).getD []).filter fun e => e.1 == l).length =
      recentLost x l s.time.aon + 3 := by
    rw [hx']
    exact lost_moreLost ..
  rw [heq, hlen]
  by_cases h : 61 < recentLost x l s.time.aon
  · rw [if_pos h, if_pos (by omega)]
  · rw [if_neg h, if_neg (by omega)]

/-! ### A link that goes down -/

/-- A port whose link has gone down. -/
def downPort (state : Nat) (y : Port) : Port :=
  { y with
    state, lanes := Tab.mapv y.lanes fun l => { trainFails := l.trainFails }, nakSent := false, acked := false, rxMask := 15
    aligns := [], ctl := [], tx := [], again := [] }

/-- `t` is `s` but for its ports, which are those named, its peers and what events change. -/
def onlyPorts (ports : Tab Port) (s t : State) : Prop :=
  t.spl.ports = ports ∧ t.spl.uncorr = s.spl.uncorr ∧ t.time = s.time ∧ t.ldg = s.ldg ∧ t.cap = s.cap ∧ t.str = s.str ∧ t.flt = s.flt

theorem onlyPorts_of_events {t u : State} {ports : Tab Port} (h : onlyPorts ports s t) (hev : onlyEvents t u) :
    onlyPorts ports s u := by
  unfold onlyEvents at hev
  rw [hev]
  exact h

theorem linkDown_spec (hx : port? s p = some x) (cause state : Nat) :
    onlyPorts (Tab.upd s.spl.ports p (downPort state)) s (linkDown p cause state s) := by
  have hdown : onlyPorts (Tab.upd s.spl.ports p (downPort state)) s (dropPeers (onPort p (downPort state) s)) :=
    ⟨rfl, rfl, rfl, rfl, rfl, rfl, rfl⟩
  have heq : linkDown p cause state s = if x.state = 5 ∨ x.state = 6 then
      raise0 0x0802 1 (p + cause * 2 ^ 8) (dropPeers (onPort p (downPort state) s))
      else dropPeers (onPort p (downPort state) s) := by
    rw [linkDown, hx]
    rfl
  rw [heq]
  split
  · exact onlyPorts_of_events hdown (raise0_events ..)
  · exact hdown

/-! ### A lane loses its lock -/

/-- The port that has lost the lock of a lane: down to FEC lock, its other lanes as they were. -/
def unlockedPort (l : Nat) (o : RxLane) (lanes : Tab RxLane) (y : Port) : Port :=
  relocked l false o { downPort 2 y with lanes }

theorem lockChange_lost {o : RxLane} (hx : port? s p = some x) (h3 : 3 ≤ x.state) (h7 : x.state ≠ 7) (hl : l < 4)
    (ho : Tab.get? x.lanes l = some o) (hlock : o.lock = true) (hcarry : ∀ a, o.align = some a → x.rxMask.testBit a.1 = true) :
    ∃ u, lockChange p l false s = codewordsLost p l u ∧
      onlyPorts (Tab.upd s.spl.ports p (unlockedPort l o x.lanes)) s u := by
  have hnot : ¬ (x.state < 2 ∨ x.state = 7 ∨ 4 ≤ l) := by omega
  have hc : (o.align.all fun a => inMask x.rxMask a.1) = true := by
    cases ha : o.align with
    | none => rfl
    | some a => exact hcarry a ha
  have hdown : ¬ (x.state = 2 ∨ (!o.align.all fun a => inMask x.rxMask a.1) = true) := by
    rw [hc]
    rintro (h | h)
    · omega
    · exact Bool.false_ne_true h
  have hunlock : ¬ (!o.lock) = true := by simp [hlock]
  refine ⟨onPort p (relocked l false o) (onPort p (fun y => { y with lanes := x.lanes }) (linkDown p 1 2 s)), ?_, ?_⟩
  · rw [lockChange, hx]
    dsimp only
    rw [if_neg hnot, ho, Option.getD_some, if_neg Bool.false_ne_true, if_neg hunlock, if_neg hdown]
    rfl
  · obtain ⟨hports, hkeep⟩ := linkDown_spec hx 1 2
    refine ⟨?_, hkeep⟩
    rw [onPort_onPort, ports_onPort, hports, upd_upd]
    rfl

end Lock

section Retired

/-! ### The retirement of a lane -/

variable {s t u : State}

/-- Lost codewords and channels out of service are those of before. -/
def keepsWear (s t : State) : Prop := t.spl.uncorr = s.spl.uncorr ∧ t.flt.retired = s.flt.retired

theorem keepsWear_trans (h : keepsWear s t) (k : keepsWear t u) : keepsWear s u := ⟨k.1.trans h.1, k.2.trans h.2⟩

theorem keepsWear_of_events (h : onlyEvents s t) : keepsWear s t := by
  unfold onlyEvents at h
  rw [h]
  exact ⟨rfl, rfl⟩

theorem keepsWear_of_journal (h : onlyJournal s t) : keepsWear s t := by
  unfold onlyJournal at h
  rw [h]
  exact ⟨rfl, rfl⟩

theorem journalCompleted_keepsWear (q : Nat) (o : CqOut) (s : State) : keepsWear s (journalCompleted q o s) := by
  have h (a b : Nat) (c : Bytes) (p : Rec → Bool) := keepsWear_of_journal (append_journal 1 a q b c false (kill p s))
  exact ⟨(h _ _ _ _).1, (h _ _ _ _).2⟩

theorem settleCq_keepsWear (k q : Nat) (s : State) : keepsWear s (settleCq k q s) := by
  induction k generalizing s with
  | zero => exact ⟨rfl, rfl⟩
  | succ k ih =>
    unfold settleCq
    split
    · next o rest _ =>
      split
      · refine keepsWear_trans ?_ (ih _)
        have hdone : keepsWear s (if o.last = 0 then s else journalCompleted q o s) := by
          split
          · exact ⟨rfl, rfl⟩
          · exact journalCompleted_keepsWear ..
        exact hdone
      · exact ⟨rfl, rfl⟩
    · exact ⟨rfl, rfl⟩

theorem tidingDropped_keepsWear (m : Bytes) (s : State) : keepsWear s (tidingDropped m s) := by
  unfold tidingDropped
  split
  · have hfall : keepsWear s (tidingFallback (fld m 66 2) (fld m 72 8) (mDst m) s) :=
      keepsWear_of_events (onlyEvents_trans (writeSeqWord_events ..) (raise_events ..))
    refine keepsWear_trans ?_ (settleCq_keepsWear ..)
    exact hfall
  · exact ⟨rfl, rfl⟩

/-- One message of a port that will not carry it goes to another port. -/
theorem moveMessages_keepsWear (p : Nat) (s : State) : keepsWear s (moveMessages p s) := by
  have hone (m : OutMsg) (t : State) : keepsWear t (match bestPort t (mDst m.msg) with
      | none => tidingDropped m.msg t
      | some q => queueMsg q { m with again := false } t) := by
    split
    · exact tidingDropped_keepsWear ..
    · exact ⟨rfl, rfl⟩
  unfold moveMessages
  split
  · exact ⟨rfl, rfl⟩
  · exact ⟨each_keeps (p := fun t => t.spl.uncorr) (fun m t => (hone m t).1) _ _,
      each_keeps (p := fun t => t.flt.retired) (fun m t => (hone m t).2) _ _⟩

theorem linkDown_keepsWear (p c st : Nat) (s : State) : keepsWear s (linkDown p c st s) := by
  cases hx : port? s p with
  | none =>
    rw [linkDown, hx]
    exact ⟨rfl, rfl⟩
  | some x =>
    obtain ⟨-, huncorr, -, -, -, -, hflt⟩ := linkDown_spec hx c st
    exact ⟨huncorr, by rw [hflt]⟩

theorem outOfService_wear (kind ix cause : Nat) (s : State) :
    (outOfService kind ix cause s).spl.uncorr = s.spl.uncorr ∧
    (outOfService kind ix cause s).flt.retired = Tab.put s.flt.retired (32 * kind + ix) cause :=
  keepsWear_trans (keepsWear_of_journal (append_journal ..)) (keepsWear_of_events (raise0_events ..))

/-- The retirement of a lane or a port leaves the lost codewords as they are and takes only channels out of service. -/
theorem retire1_wear {kind : Nat} (hk : kind ≤ 1) (ix cause : Nat) (s : State) :
    (retire1 kind ix cause s).spl.uncorr = s.spl.uncorr ∧ retired (retire1 kind ix cause s) kind ix = true ∧
    ∀ k i, retired s k i = true → retired (retire1 kind ix cause s) k i = true := by
  cases hr : retired s kind ix with
  | true =>
    have hsame : retire1 kind ix cause s = s := if_pos hr
    rw [hsame]
    exact ⟨rfl, hr, fun _ _ h => h⟩
  | false =>
    obtain ⟨huncorr, hret⟩ := outOfService_wear kind ix cause s
    have hwork : keepsWear (outOfService kind ix cause s) (retire1 kind ix cause s) := by
      rw [retire1_of_inService hr]
      have hk' : kind = 0 ∨ kind = 1 := by omega
      rcases hk' with rfl | rfl
      · exact ⟨rfl, rfl⟩
      · exact keepsWear_trans (linkDown_keepsWear ..) (moveMessages_keepsWear ..)
    have hret' : (retire1 kind ix cause s).flt.retired = Tab.put s.flt.retired (32 * kind + ix) cause := hwork.2.trans hret
    refine ⟨hwork.1.trans huncorr, ?_, fun k i h => ?_⟩
    · rw [retired, hret', Tab.get?_put_self]
      rfl
    · rw [retired, hret']
      by_cases hki : 32 * k + i = 32 * kind + ix
      · rw [hki, Tab.get?_put_self]
        rfl
      · rw [Tab.get?_put_ne _ _ hki]
        exact h

theorem retire_wear (ix cause : Nat) (s : State) :
    (retire 0 ix cause s).spl.uncorr = s.spl.uncorr ∧ retired (retire 0 ix cause s) 0 ix = true := by
  obtain ⟨huncorr, hret, -⟩ := retire1_wear (Nat.zero_le 1) ix cause s
  unfold retire
  dsimp only
  split
  · obtain ⟨huncorr', -, hkeep⟩ := retire1_wear (Nat.le_refl 1) (ix / 4) cause (retire1 0 ix cause s)
    exact ⟨huncorr'.trans huncorr, hkeep 0 ix hret⟩
  · exact ⟨huncorr, hret⟩

end Retired

section Alignment

/-! ### ALIGN (R243, R244, R250) -/

variable {s : State} {p l : Nat} {b : Bytes} {x : Port} {o : RxLane}

theorem alignDue_eq (hx : port? s p = some x) (h2 : 2 ≤ x.state) (h7 : x.state ≠ 7) :
    alignDue p s = onPort p (fun y => { y with
      aligns := (workLanes s p).map fun l => (l, ctlBlock ([2] ++ toLE 1 l ++ toLE 1 x.newMask ++ toLE 1 p ++
        toLE 4 (selfDev s) ++ toLE 4 x.count ++ zeros 16))
      mask := x.newMask, count := (x.count + 1) % 2 ^ 32 }) s := by
  have hnot : ¬ (x.state < 2 ∨ x.state = 7) := by omega
  rw [alignDue, hx]
  exact if_neg hnot

/-- A port after an ALIGN block on a lane. -/
def alignHeard (l : Nat) (b : Bytes) (o : RxLane) (z : Port) : Port :=
  { z with
    lanes := Tab.put z.lanes l { o with
      align := some (fld b 1 1, fld b 4 4 % 2 ^ 18, fld b 8 4)
      good := if o.align = some (fld b 1 1, fld b 4 4 % 2 ^ 18, (fld b 8 4 + 2 ^ 32 - 1) % 2 ^ 32) then o.good + 1 else 1 }
    rxMask := if (fld b 2 1 % 16).testBit (fld b 1 1) = true then fld b 2 1 % 16 else z.rxMask }

theorem alignRx_of_bad (h : ctlOk 2 b = false) : alignRx p l b s = s := by
  unfold alignRx
  split
  · rfl
  · exact if_pos (Or.inl (by rw [h]; rfl))

/-- A good ALIGN on a lane with lock is taken in; what the port does then depends on its state. -/
theorem alignRx_eq (hx : port? s p = some x) (hb : ctlOk 2 b = true) (h3 : 3 ≤ x.state) (h7 : x.state ≠ 7)
    (ho : Tab.get? x.lanes l = some o) (hlock : o.lock = true) :
    alignRx p l b s =
      if (alignHeard l b o x).state = 3 ∧
          aligned (alignHeard l b o x) (alignHeard l b o x).rxMask (fld b 4 4 % 2 ^ 18) (fld b 8 4) = true then
        alignDone p (fld b 4 4 % 2 ^ 18) (onPort p (alignHeard l b o) s)
      else firstBlock p (onPort p (alignHeard l b o) s) := by
  have hnot : ¬ ((!ctlOk 2 b) = true ∨ (!o.lock) = true ∨ x.state < 3 ∨ x.state = 7) := by
    rw [hb, hlock]
    rintro (h | h | h | h)
    · exact Bool.false_ne_true h
    · exact Bool.false_ne_true h
    · omega
    · exact h7 h
  have heard : (fun y : Port => { y with
      lanes := Tab.put y.lanes l { o with
        align := some (fld b 1 1, fld b 4 4 % 2 ^ 18, fld b 8 4)
        good := if (o.align == some (fld b 1 1, fld b 4 4 % 2 ^ 18, (fld b 8 4 + 2 ^ 32 - 1) % 2 ^ 32)) = true then o.good + 1 else 1 }
      rxMask := if inMask (fld b 2 1 % 16) (fld b 1 1) = true then fld b 2 1 % 16 else y.rxMask }) = alignHeard l b o := by
    funext y
    simp only [beq_iff_eq]
    rfl
  have hx' := port?_onPort (alignHeard l b o) hx
  rw [alignRx, hx]
  dsimp only
  rw [ho, Option.getD_some, if_neg hnot, heard, hx']

theorem firstBlock_of_other (h : ∀ y, port? s p = some y → y.state ≠ 4 ∨ y.acked = false) : firstBlock p s = s := by
  unfold firstBlock
  refine if_neg ?_
  cases hx : port? s p with
  | none => exact Bool.false_ne_true
  | some x => rcases h x hx with h | h <;> simp [h]

theorem exec_align (hup : up s = true) : exec (.align p l b) s = .next (alignRx p l b s) := by
  change Host.Outcome.next (when (up s) (alignRx p l b) s) = _
  rw [when, if_pos hup]

theorem alignDone_partner {dev : Nat} (hself : dev ≠ selfDev s) (hpeer : (directPeers s p).contains dev = true) :
    alignDone p dev s = onPort p (fun y => { y with partner := dev, state := 4 }) s := by
  unfold alignDone
  dsimp only
  rw [if_neg hself, if_pos hpeer]

/-- A port whose partner is this device, or none that is listed there, stops. -/
theorem alignDone_stops {dev : Nat} (hx : port? s p = some x)
    (h : dev = selfDev s ∨ (directPeers s p).contains dev = false) :
    ∃ z, port? (alignDone p dev s) p = some z ∧ z.state = 7 := by
  have hstop (c : Nat) : ∃ z, port? (raise0 0x0803 1 c (onPort p (fun y => { y with state := 7 }) s)) p = some z ∧ z.state = 7 :=
    ⟨_, (port?_onlyEvents (raise0_events ..)).trans (port?_onPort _ hx), rfl⟩
  unfold alignDone
  dsimp only
  by_cases hself : dev = selfDev s
  · rw [if_pos hself]
    exact hstop _
  · have hno : ¬ (directPeers s p).contains dev = true := by
      rw [h.resolve_left hself]
      exact Bool.false_ne_true
    rw [if_neg hself, if_neg hno]
    exact hstop _

end Alignment

/-- Settles O45: training, lock and alignment change one port as their rows say, and 64 codewords lost retire a lane. -/
theorem linkTraining : Obligations.LinkTraining := by
  unfold Obligations.LinkTraining
  refine ⟨?train, ?notTraining, ?lock, ?loss, ?wear, ?due, ?heard, ?bad⟩
  case train =>
    intro s p x failed hup hx h1 hfirst hok
    refine ⟨_, exec_phyTrainingDone hup, ?_⟩
    rw [phyTrained_eq hx h1 hfirst hok]
    refine ⟨rfl, fun k hk => port?_onPort_ne hk, trainedPort failed (workLanes s p) x, port?_onPort _ hx, rfl, rfl, rfl,
      fun l hl => ?_⟩
    exact (get?_trainedLanes (workLanes s p) x.lanes l).trans (if_pos hl)
  case notTraining =>
    intro s p failed h
    change Host.Outcome.next (when (up s) (phyTrained p failed) s) = _
    rw [when, phyTrained_of_other h, ite_self]
  case lock =>
    intro s p l x hup hx h2 h7 hl
    refine ⟨_, exec_codewordLock true hup, ?_⟩
    rw [lockChange_acquired hx h2 h7 hl]
    by_cases hall : x.state = 2 ∧ allLocked p x.mask (onPort p (relocked l true ((Tab.get? x.lanes l).getD {})) s) = true
    · rw [if_pos hall, onPort_onPort]
      refine ⟨rfl, fun k hk => port?_onPort_ne hk, _, port?_onPort _ hx, rfl, fun hn => absurd hall.1 hn, fun _ _ => rfl, ?_⟩
      rintro - ⟨k, hk, hkl, hmask, hun⟩
      obtain ⟨o, ho, hlock⟩ := (allLocked_relocked hx).mp hall.2 k hk hkl hmask
      exact absurd ((hun o ho).symm.trans hlock) Bool.false_ne_true
    · rw [if_neg hall]
      refine ⟨rfl, fun k hk => port?_onPort_ne hk, _, port?_onPort _ hx, rfl, fun _ => rfl, fun hst hlocked => ?_, fun hst _ => hst⟩
      exact absurd ⟨hst, (allLocked_relocked hx).mpr hlocked⟩ hall
  case loss =>
    intro s p l x o hup hx h3 h7 hl ho hlock hcarry hfew
    obtain ⟨u, heq, hports, huncorr, htime, hldg, hcap, hstr, -⟩ := lockChange_lost hx h3 h7 hl ho hlock hcarry
    have hport (k : Nat) : port? u k = port? (onPort p (unlockedPort l o x.lanes) s) k := congrArg (fun t => Tab.get? t k) hports
    have hu : port? u p = some (unlockedPort l o x.lanes x) := (hport p).trans (port?_onPort _ hx)
    have hno : ¬ 61 < recentLost (unlockedPort l o x.lanes x) l u.time.aon := by
      rw [htime]
      exact not_lt.mpr hfew
    refine ⟨_, exec_codewordLock false hup, ?_⟩
    rw [heq, codewordsLost_eq hu, if_neg hno]
    refine ⟨congrArg (fun n => satAdd 0xFFFFFFFF n 3) huncorr, ⟨_, port?_onPort (s := { u with spl.uncorr := _ }) _ hu, rfl, rfl, rfl,
      ?_, _, Tab.get?_put_self .., rfl⟩, fun k hk => ?_, hldg, hcap, hstr⟩
    · rw [htime]
      rfl
    · exact (port?_onPort_ne (s := { u with spl.uncorr := satAdd 0xFFFFFFFF u.spl.uncorr 3 }) hk).trans
        ((hport k).trans (port?_onPort_ne hk))
  case wear =>
    intro s p l x o hup hx h3 h7 hl ho hlock hcarry hmany
    obtain ⟨u, heq, hports, huncorr, htime, -⟩ := lockChange_lost hx h3 h7 hl ho hlock hcarry
    have hu : port? u p = some (unlockedPort l o x.lanes x) :=
      (congrArg (fun t => Tab.get? t p) hports).trans (port?_onPort (s := s) _ hx)
    have hyes : 61 < recentLost (unlockedPort l o x.lanes x) l u.time.aon := by
      rw [htime]
      exact hmany
    obtain ⟨hkeep, hret⟩ := retire_wear (4 * p + l) 1 (lossCounted p l u)
    refine ⟨_, exec_codewordLock false hup, ?_⟩
    rw [heq, codewordsLost_eq hu, if_pos hyes]
    exact ⟨hkeep.trans (congrArg (fun n => satAdd 0xFFFFFFFF n 3) huncorr), hret⟩
  case due =>
    intro s p x hup hx h2 h7
    refine ⟨alignDue p s, ?_, ?_⟩
    · change Host.Outcome.next (when (up s) (alignDue p) s) = _
      rw [when, if_pos hup]
    · rw [alignDue_eq hx h2 h7]
      exact ⟨rfl, fun k hk => port?_onPort_ne hk, port?_onPort _ hx⟩
  case heard =>
    intro s p l b x o hup hx hb h3 h7 ho hlock
    dsimp only
    rw [exec_align hup, alignRx_eq hx hb h3 h7 ho hlock]
    refine ⟨fun hrest => ?_, fun hst hal hself hpeer => ?_, fun hst hal hwrong => ?_⟩
    · have hnot : ¬ ((alignHeard l b o x).state = 3 ∧
          aligned (alignHeard l b o x) (alignHeard l b o x).rxMask (fld b 4 4 % 2 ^ 18) (fld b 8 4) = true) := by
        rintro ⟨hst, hal⟩
        have hst' : x.state = 3 := hst
        rcases hrest with h | h | ⟨h, -⟩ | ⟨-, h, -⟩
        · omega
        · omega
        · omega
        · exact Bool.false_ne_true (h.symm.trans hal)
      rw [if_neg hnot, firstBlock_of_other]
      · rfl
      · intro y hy
        obtain rfl := Option.some.inj ((port?_onPort (alignHeard l b o) hx).symm.trans hy)
        rcases hrest with h | h | ⟨-, h⟩ | ⟨-, -, h⟩
        · exact .inl fun h4 => absurd (h.symm.trans h4) (by decide)
        · exact .inl fun h4 => absurd (h.symm.trans h4) (by decide)
        · exact .inr h
        · exact .inr h
    · rw [if_pos ⟨hst, hal⟩, alignDone_partner (s := onPort p (alignHeard l b o) s) hself hpeer, onPort_onPort]
      rfl
    · obtain ⟨z, hz, hz7⟩ := alignDone_stops (s := onPort p (alignHeard l b o) s) (port?_onPort _ hx) hwrong
      rw [if_pos ⟨hst, hal⟩]
      exact ⟨_, z, rfl, hz, hz7⟩
  case bad =>
    intro s p l b h
    change Host.Outcome.next (when (up s) (alignRx p l b) s) = _
    rw [when, alignRx_of_bad h, ite_self]

end Sys2Proof.Machine
end

section
/-! SUPPORT. Link initialization (R248, R251), and the frames of a link: acknowledgement, resending, transmit order (R245 to
R249). -/

namespace Sys2Proof.Machine

section Initialization

/-! ### LINIT and LINIT_ACK (R251) -/

variable {s : State} {p : Nat} {b : Bytes} {x : Port}

theorem sendCtl_onPort (f : Port → Port) (b : Bytes) (p : Nat) (s : State) :
    sendCtl p b (onPort p f s) = onPort p (fun y => { f y with ctl := (f y).ctl ++ [ctlBlock b] }) s := onPort_onPort ..

theorem sendLinit_leads (hx : port? s p = some x) (h4 : x.state = 4) (hlead : selfDev s < x.partner) :
    sendLinit p s = onPort p (fun y => { y with ctl := y.ctl ++ [ctlBlock ([0x30] ++ toLE 1 (firstMask s p x) ++ zeros 2 ++
      toLE 4 (selfDev s) ++ limitBytes x.given)] }) s := by
  rw [sendLinit, hx]
  exact if_pos ⟨h4, hlead⟩

theorem sendLinit_of_other (h : ∀ x, port? s p = some x → x.state ≠ 4 ∨ x.partner ≤ selfDev s) : sendLinit p s = s := by
  unfold sendLinit
  cases hx : port? s p with
  | none => rfl
  | some x =>
    refine if_neg fun hn => ?_
    rcases h x hx with h4 | hle
    · exact h4 hn.1
    · omega

theorem linit_follows (hx : port? s p = some x) (hb : ctlOk 0x30 b = true) (hp : fld b 4 4 = x.partner)
    (hself : x.partner < selfDev s) (h4 : x.state = 4) (ha : x.acked = false) :
    linit p b s = sendCtl p ([0x31, 0, 0, 0] ++ toLE 4 (selfDev s) ++ limitBytes x.given)
      (onPort p (fun y => { y with
        cred := limits b, mask := fld b 1 1 % 16, newMask := fld b 1 1 % 16, rxMask := fld b 1 1 % 16, acked := true }) s) := by
  have hnot : ¬ ((!ctlOk 0x30 b) = true ∨ fld b 4 4 ≠ x.partner ∨ selfDev s ≤ x.partner ∨ (!(x.state == 4 || isUp x)) = true) := by
    rw [hb, h4]
    rintro (h | h | h | h)
    · exact Bool.false_ne_true h
    · exact h hp
    · omega
    · exact Bool.false_ne_true h
  rw [linit, hx]
  dsimp only
  rw [if_neg hnot, if_pos ⟨h4, by rw [ha]; rfl⟩]
  rfl

theorem linit_of_bad (h : ctlOk 0x30 b = false) : linit p b s = s := by
  unfold linit
  split
  · rfl
  · exact if_pos (Or.inl (by rw [h]; rfl))

theorem linitAck_leads (hx : port? s p = some x) (hb : ctlOk 0x31 b = true) (hp : fld b 4 4 = x.partner)
    (hself : selfDev s < x.partner) (h4 : x.state = 4) :
    linitAck p b s = linkUp p (onPort p (fun y => { y with
      cred := limits b, mask := firstMask s p x, newMask := firstMask s p x, rxMask := firstMask s p x }) s) := by
  have hnot : ¬ ((!ctlOk 0x31 b) = true ∨ fld b 4 4 ≠ x.partner ∨ x.partner ≤ selfDev s ∨ x.state ≠ 4) := by
    rw [hb]
    rintro (h | h | h | h)
    · exact Bool.false_ne_true h
    · exact h hp
    · omega
    · exact h h4
  rw [linitAck, hx]
  exact if_neg hnot

theorem linitAck_of_bad (h : ctlOk 0x31 b = false) : linitAck p b s = s := by
  unfold linitAck
  split
  · rfl
  · exact if_pos (Or.inl (by rw [h]; rfl))

/-- A port whose link is up: its numbers start again, and what was not acknowledged waits in front. -/
def upPort (unacked : List TxFrame) (y : Port) : Port :=
  { y with
    state := 5, fseq := 0, expect := 0, sent := [0, 0, 0, 0], given := [256, 8204, 16408, 8204], nakSent := false
    acked := false, unacked := [], queued := unacked.map lostFrame ++ y.queued }

theorem directPeers_onlyEvents {t : State} (h : onlyEvents s t) : directPeers t p = directPeers s p := by
  unfold onlyEvents at h
  rw [h]
  rfl

/-- A link that has no direct peer comes up without a HELLO. -/
theorem linkUp_of_noPeer (hx : port? s p = some x) (hd : directPeers s p = []) :
    linkUp p s = raise0 0x0801 0 (p + 2 ^ 4 * x.mask + 2 ^ 8 * x.partner) (onPort p (upPort x.unacked) s) := by
  have heq : linkUp p s = if (directPeers (raise0 0x0801 0 (p + 2 ^ 4 * x.mask + 2 ^ 8 * x.partner)
        (onPort p (upPort x.unacked) s)) p).any (fun d => (Tab.get? (raise0 0x0801 0 (p + 2 ^ 4 * x.mask + 2 ^ 8 * x.partner)
        (onPort p (upPort x.unacked) s)).spl.peers d).any (·.conflict)) then
      onPort p (fun x => { x with state := 6 }) (raise0 0x0801 0 (p + 2 ^ 4 * x.mask + 2 ^ 8 * x.partner)
        (onPort p (upPort x.unacked) s))
      else helloPort p (raise0 0x0801 0 (p + 2 ^ 4 * x.mask + 2 ^ 8 * x.partner) (onPort p (upPort x.unacked) s)) := by
    rw [linkUp, hx]
    rfl
  have hd' : directPeers (raise0 0x0801 0 (p + 2 ^ 4 * x.mask + 2 ^ 8 * x.partner) (onPort p (upPort x.unacked) s)) p = [] :=
    (directPeers_onlyEvents (raise0_events ..)).trans hd
  rw [heq, hd', helloPort, hd']
  rfl

end Initialization

/-- Settles O46: the leader and the follower of a link each do their part, and the link comes up with its lost frames in front. -/
theorem linkInitialization : Obligations.LinkInitialization := by
  unfold Obligations.LinkInitialization
  refine ⟨?lead, ?noLead, ?follow, ?ack, ?up, ?badLinit, ?badAck⟩
  case lead =>
    intro s p x hup hx h4 hlead
    change Host.Outcome.next (when (up s) (sendLinit p) s) = _
    rw [when, if_pos hup, sendLinit_leads hx h4 hlead]
  case noLead =>
    intro s p h
    change Host.Outcome.next (when (up s) (sendLinit p) s) = _
    rw [when, sendLinit_of_other h, ite_self]
  case follow =>
    intro s p b x hup hx hb hp hself h4 ha
    change Host.Outcome.next (when (up s) (linit p b) s) = _
    rw [when, if_pos hup, linit_follows hx hb hp hself h4 ha, sendCtl_onPort]
    rfl
  case ack =>
    intro s p b x hup hx hb hp hself h4
    change Host.Outcome.next (when (up s) (linitAck p b) s) = _
    rw [when, if_pos hup, linitAck_leads hx hb hp hself h4]
    rfl
  case up =>
    intro s p x hx hd
    refine ⟨upPort x.unacked x, ?_, rfl⟩
    rw [linkUp_of_noPeer hx hd, port?_onlyEvents (raise0_events ..)]
    exact port?_onPort _ hx
  case badLinit =>
    intro s p b h
    change Host.Outcome.next (when (up s) (linit p b) s) = _
    rw [when, linit_of_bad h, ite_self]
  case badAck =>
    intro s p b h
    change Host.Outcome.next (when (up s) (linitAck p b) s) = _
    rw [when, linitAck_of_bad h, ite_self]

section FramesReceived

/-! ### Frames and LCTL received (R245, R246) -/

variable {s : State} {p : Nat} {b d : Bytes} {x : Port}

theorem state_of_isUp (h : isUp x = true) : x.state = 5 ∨ x.state = 6 := by simpa [isUp] using h

theorem firstBlock_of_isUp (hx : port? s p = some x) (hup : isUp x = true) : firstBlock p s = s := by
  refine firstBlock_of_other fun y hy => .inl ?_
  obtain rfl := Option.some.inj (hx.symm.trans hy)
  have := state_of_isUp hup
  omega

/-- A frame on a link that is up is accepted when it is the next one and good. -/
theorem frameRx_of_isUp (hx : port? s p = some x) (hup : isUp x = true) : frameRx p b d s =
    if ctlOk 0x10 b = true ∧ fld b 4 4 = x.expect ∧ d.length = 32 * fld b 2 2 ∧ crcN d = fld b 8 4 then acceptFrame p d s
    else discardFrame p s := by
  have hfirst : (if ctlOk 0x10 b then firstBlock p s else s) = s := by rw [firstBlock_of_isUp hx hup, ite_self]
  have hnot : ¬ (!isUp x) = true := by simp [hup]
  unfold frameRx
  dsimp only
  rw [hfirst, hx]
  dsimp only
  rw [if_neg hnot]

theorem acceptFrame_eq (h64 : 64 ≤ mLen d) (hle : mLen d ≤ d.length) (hk : knownType (mType (d.take (mLen d))) = true) :
    acceptFrame p d s = onPort p (fun y => putLctl false { y with
      expect := (y.expect + 1) % 2 ^ 32, nakSent := false, rx := y.rx ++ [d.take (mLen d)] }) s := by
  unfold acceptFrame
  dsimp only
  rw [if_pos (And.intro h64 hle), if_pos hk, sendLctl, onPort_onPort, onPort_onPort]

theorem discardFrame_again (hx : port? s p = some x) (hnak : x.nakSent = true) : discardFrame p s = s := by
  have hno : ¬ ((port? s p).any fun x => isUp x && !x.nakSent) = true := by
    rw [hx]
    simp [hnak]
  rw [discardFrame, if_neg hno]

theorem discardFrame_first (hx : port? s p = some x) (hup : isUp x = true) (hnak : x.nakSent = false) :
    discardFrame p s = onPort p (fun y => putLctl true { y with nakSent := true }) s := by
  have hyes : ((port? s p).any fun x => isUp x && !x.nakSent) = true := by
    rw [hx]
    simp [hnak, hup]
  rw [discardFrame, if_pos hyes, sendLctl, onPort_onPort]

theorem exec_frame (hup : up s = true) : exec (.frame p b d) s = .next (frameRx p b d s) := by
  change Host.Outcome.next (when (up s) (frameRx p b d) s) = _
  rw [when, if_pos hup]

theorem lctl_of_bad (h : ctlOk 0x20 b = false) : lctl p b s = s := by
  unfold lctl
  exact if_pos (by rw [h]; rfl)

theorem tidingAcked_of_other {m : Bytes} (h : mType m ≠ 0x30) : tidingAcked m s = s := by
  rw [tidingAcked]
  exact if_neg fun hn => h hn.1

/-- An LCTL that names the oldest frame frees it. -/
theorem lctl_frees {f : TxFrame} {rest : List TxFrame} (hx : port? s p = some x) (hup : isUp x = true) (hb : ctlOk 0x20 b = true)
    (hun : x.unacked = f :: rest) (hack : fld b 4 4 = f.fseq) (hrest : ∀ g ∈ rest, g.fseq ≠ f.fseq) (hm : mType f.msg ≠ 0x30)
    (hnak : fld b 1 1 % 2 = 0) :
    lctl p b s = settleAfter (settleDeletes (onPort p (fun y => { y with
      cred := limits b, unacked := y.unacked.drop 1 }) s)) := by
  have hgood : ¬ (!ctlOk 0x20 b) = true := by simp [hb]
  have hnot : ¬ (!isUp x) = true := by simp [hup]
  have hdone : (if x.unacked.any (fun f => f.fseq == fld b 4 4) then
      (x.unacked.takeWhile fun f => f.fseq != fld b 4 4) ++ (x.unacked.filter fun f => f.fseq == fld b 4 4) else []) = [f] := by
    have hother : rest.filter (fun g => g.fseq == f.fseq) = [] := by
      rw [List.filter_eq_nil_iff]
      intro g hg
      simpa using hrest g hg
    rw [hun, hack]
    simp [hother]
  have hone : ¬ fld b 1 1 % 2 = 1 := by omega
  unfold lctl
  rw [if_neg hgood]
  dsimp only
  rw [firstBlock_of_isUp hx hup, hx]
  dsimp only
  rw [if_neg hnot, hdone, if_neg hone]
  change settleAfter (settleDeletes (tidingAcked f.msg _)) = _
  rw [tidingAcked_of_other hm]
  rfl

/-! ### Frames that are not acknowledged in time (R248) -/

theorem exec_frameResendTimeout (hup : up s = true) (hx : port? s p = some x) (hx' : isUp x = true) (hun : x.unacked ≠ []) :
    exec (.frameResendTimeout p) s = .next (settleAfter (resend p s)) := by
  have hwait : (up s && (port? s p).any fun x => isUp x && !x.unacked.isEmpty) = true := by
    rw [hup, hx]
    simp [hx', hun]
  change Host.Outcome.next (when (up s && (port? s p).any fun x => isUp x && !x.unacked.isEmpty)
    (fun s => settleAfter (resend p s)) s) = _
  rw [when, if_pos hwait]

theorem resend_of_few (hx : port? s p = some x) (hfew : ∀ f ∈ x.unacked, f.sends < 9) :
    resend p s = onPort p (fun y => { y with
      unacked := y.unacked.map fun f => { f with sends := f.sends + 1 }
      again := y.unacked.map (·.fseq) }) { s with spl.replays := min 0xFFFFFFFF (s.spl.replays + x.unacked.length) } := by
  have hno : ¬ (x.unacked.any fun f => decide (9 ≤ f.sends)) = true := by simpa using hfew
  rw [resend, hx]
  exact if_neg hno

theorem resend_of_ninth (hx : port? s p = some x) (h : ∃ f ∈ x.unacked, 9 ≤ f.sends) : resend p s = retrain p s := by
  rw [resend, hx]
  exact if_pos (by simpa using h)

end FramesReceived

section Acknowledgement

/-! ### The LCTL that a port sends (R246) -/

theorem putLctl_of_none {nak : Bool} {x : Port} (h : ∀ b ∈ x.ctl, fld b 0 1 ≠ 0x20) : putLctl nak x = { x with
    ctl := x.ctl ++ [ctlBlock ([0x20, if nak then 1 else 0, 0, 0] ++ toLE 4 ((x.expect + 2 ^ 32 - 1) % 2 ^ 32) ++
      limitBytes x.given)] } := by
  have hold : (x.ctl.filter fun b => fld b 0 1 == 0x20) = [] := by
    rw [List.filter_eq_nil_iff]
    intro b hb
    simpa using h b hb
  have hrest : (x.ctl.filter fun b => fld b 0 1 != 0x20) = x.ctl := by
    rw [List.filter_eq_self]
    intro b hb
    simpa using h b hb
  unfold putLctl
  dsimp only
  rw [hold, hrest, List.any_nil, Bool.or_false]

theorem fld_ctlBlock_type (a : Byte) (r : Bytes) : fld (ctlBlock (a :: r)) 0 1 = a.toNat := by
  change leNat (slice (a :: _) 0 1) = _
  simp [slice, leNat]

theorem putLctl_one (nak : Bool) (x : Port) : ((putLctl nak x).ctl.filter fun b => fld b 0 1 == 0x20) =
    [ctlBlock ([0x20, if nak = true ∨ (∃ b ∈ x.ctl, fld b 0 1 = 0x20 ∧ bit (fld b 1 1) 0 = true) then 1 else 0, 0, 0] ++
      toLE 4 ((x.expect + 2 ^ 32 - 1) % 2 ^ 32) ++ limitBytes x.given)] := by
  have hnak : (nak || (x.ctl.filter fun b => fld b 0 1 == 0x20).any fun b => bit (fld b 1 1) 0) = true ↔
      nak = true ∨ ∃ b ∈ x.ctl, fld b 0 1 = 0x20 ∧ bit (fld b 1 1) 0 = true := by
    simp
  have hrest : ((x.ctl.filter fun b => fld b 0 1 != 0x20).filter fun b => fld b 0 1 == 0x20) = [] := by
    rw [List.filter_filter, List.filter_eq_nil_iff]
    intro b _
    simp [bne]
  unfold putLctl
  dsimp only
  rw [List.filter_append, hrest, List.nil_append]
  simp only [hnak, List.cons_append, List.filter_cons, fld_ctlBlock_type, List.filter_nil]
  rfl

end Acknowledgement

section TransmitOrder

/-! ### The block of a stripe position (R249) -/

variable {s : State} {p : Port}

/-- The port at the next stripe position, with the time since its last LCTL. -/
def gapped (p : Port) : Port := { p with gap := min 64 (p.gap + 1) }

theorem nextBlock_ctl {b : Bytes} (h : p.ctl.find? (mayGo p) = some b) : nextBlock s p =
    ((true, b), { gapped p with ctl := p.ctl.erase b, gap := if fld b 0 1 = 0x20 then 1 else (gapped p).gap }) := by
  rw [nextBlock, h]
  rfl

theorem nextBlock_frame {b : Bytes} {rest : List Bytes} (h : p.ctl.find? (mayGo p) = none)
    (htx : (begin s (gapped p)).tx = b :: rest) :
    nextBlock s p = ((p.tx.isEmpty, b), { begin s (gapped p) with tx := rest }) := by
  have heq : nextBlock s p = match p.ctl.find? (mayGo p) with
    | some b => ((true, b), { gapped p with ctl := p.ctl.erase b, gap := if fld b 0 1 = 0x20 then 1 else (gapped p).gap })
    | none => match (begin s (gapped p)).tx with
      | b :: rest => ((p.tx.isEmpty, b), { begin s (gapped p) with tx := rest })
      | [] => ((true, idleBlock), begin s (gapped p)) := rfl
  rw [heq, h]
  dsimp only
  rw [htx]

theorem nextBlock_idle (h : p.ctl.find? (mayGo p) = none) (htx : (begin s (gapped p)).tx = []) :
    (nextBlock s p).1 = (true, idleBlock) := by
  have heq : nextBlock s p = match p.ctl.find? (mayGo p) with
    | some b => ((true, b), { gapped p with ctl := p.ctl.erase b, gap := if fld b 0 1 = 0x20 then 1 else (gapped p).gap })
    | none => match (begin s (gapped p)).tx with
      | b :: rest => ((p.tx.isEmpty, b), { begin s (gapped p) with tx := rest })
      | [] => ((true, idleBlock), begin s (gapped p)) := rfl
  rw [heq, h]
  dsimp only
  rw [htx]

theorem begin_of_busy {q : Port} (h : q.tx ≠ [] ∨ q.state ≠ 5) : begin s q = q :=
  if_pos (h.imp_left fun h => by simpa using h)

theorem begin_again {q : Port} {f : Nat} {rest : List Nat} {x : TxFrame} (htx : q.tx = []) (h5 : q.state = 5)
    (ha : q.again = f :: rest) (hx : (q.unacked.find? fun y => y.fseq == f) = some x) :
    begin s q = { q with again := rest, tx := frameBlocksOf x.vc x.fseq x.msg } := by
  have hnot : ¬ ((!q.tx.isEmpty) = true ∨ q.state ≠ 5) := by simp [htx, h5]
  rw [begin, if_neg hnot, ha]
  dsimp only
  rw [hx]

theorem begin_sends {q : Port} {m : OutMsg} (htx : q.tx = []) (h5 : q.state = 5) (ha : q.again = [])
    (hm : nextMsg s q = some m) : begin s q = startFrame m q := by
  have hnot : ¬ ((!q.tx.isEmpty) = true ∨ q.state ≠ 5) := by simp [htx, h5]
  rw [begin, if_neg hnot, ha]
  dsimp only
  rw [hm]

theorem begin_none {q : Port} (htx : q.tx = []) (h5 : q.state = 5) (ha : q.again = []) (hm : nextMsg s q = none) :
    begin s q = q := by
  have hnot : ¬ ((!q.tx.isEmpty) = true ∨ q.state ≠ 5) := by simp [htx, h5]
  rw [begin, if_neg hnot, ha]
  dsimp only
  rw [hm]

/-- A frame has at least its FRAME block. -/
theorem frameBlocksOf_cons (vc fseq : Nat) (msg : Bytes) : ∃ b tl, frameBlocksOf vc fseq msg = b :: tl := by
  have hne : (frameBytes vc fseq msg).isEmpty = false := rfl
  unfold frameBlocksOf
  rw [chunks, if_neg (by rw [hne]; exact Bool.false_ne_true)]
  exact ⟨_, _, rfl⟩

theorem nextMsg_gapped (s : State) (p : Port) : nextMsg s (gapped p) = nextMsg s p := rfl

end TransmitOrder

/-- Settles O47: a link that is up accepts, refuses, acknowledges and resends frames, and sends its blocks in order. -/
theorem frames : Obligations.Frames := by
  unfold Obligations.Frames
  refine ⟨?accept, ?discard, ?due, ?fresh, ?one, ?resend, ?ninth, ?free, ?bad, ?ctl, ?frame, ?again, ?new, ?idle⟩
  case accept =>
    intro s p b d x hup hx hx' hb hseq hlen hcrc h64 hle hk
    rw [exec_frame hup, frameRx_of_isUp hx hx', if_pos ⟨hb, hseq, hlen, hcrc⟩, acceptFrame_eq h64 hle hk]
  case discard =>
    intro s p b d x hup hx hx' hbad
    have hnot : ¬ (ctlOk 0x10 b = true ∧ fld b 4 4 = x.expect ∧ d.length = 32 * fld b 2 2 ∧ crcN d = fld b 8 4) := by
      rintro ⟨hb, hseq, hlen, hcrc⟩
      rcases hbad with h | h | h | h
      · exact Bool.false_ne_true (h.symm.trans hb)
      · exact h hseq
      · exact h hlen
      · exact h hcrc
    rw [exec_frame hup, frameRx_of_isUp hx hx', if_neg hnot]
    exact ⟨fun hnak => by rw [discardFrame_again hx hnak], fun hnak => by rw [discardFrame_first hx hx' hnak]⟩
  case due =>
    intro s p x hup hx hx'
    have hyes : (up s && (port? s p).any isUp) = true := by
      rw [hup, hx]
      exact hx'
    change Host.Outcome.next (when (up s && (port? s p).any isUp) (sendLctl p false) s) = _
    rw [when, if_pos hyes]
    rfl
  case fresh => exact fun nak x h => putLctl_of_none h
  case one => exact putLctl_one
  case resend =>
    intro s p x hup hx hx' hun hfew
    rw [exec_frameResendTimeout hup hx hx' hun, resend_of_few hx hfew]
  case ninth =>
    intro s p x hup hx hx' h
    obtain ⟨f, hf, -⟩ := id h
    rw [exec_frameResendTimeout hup hx hx' (List.ne_nil_of_mem hf), resend_of_ninth hx h]
  case free =>
    intro s p b x f rest hup hx hx' hb hun hack hrest hm hnak
    change Host.Outcome.next (when (up s) (lctl p b) s) = _
    rw [when, if_pos hup, lctl_frees hx hx' hb hun hack hrest hm hnak]
    rfl
  case bad =>
    intro s p b h
    change Host.Outcome.next (when (up s) (lctl p b) s) = _
    rw [when, lctl_of_bad h, ite_self]
  case ctl =>
    intro s p b h
    rw [nextBlock_ctl h]
    exact ⟨rfl, rfl, rfl⟩
  case frame =>
    intro s p b rest h htx
    have hbegin : begin s (gapped p) = gapped p := begin_of_busy (.inl (by rw [gapped, htx]; exact List.cons_ne_nil b rest))
    rw [nextBlock_frame h (by rw [hbegin]; exact htx), hbegin, htx]
    exact ⟨rfl, rfl, rfl⟩
  case again =>
    intro s p f rest x h htx h5 ha hx
    obtain ⟨b, tl, hbs⟩ := frameBlocksOf_cons x.vc x.fseq x.msg
    have hbegin := begin_again (s := s) (q := gapped p) htx h5 ha hx
    rw [nextBlock_frame h (by rw [hbegin]; exact hbs), hbegin, htx]
    exact ⟨tl, hbs, rfl, rfl, rfl, rfl, rfl⟩
  case new =>
    intro s p m h htx h5 ha hm
    obtain ⟨b, tl, hbs⟩ := frameBlocksOf_cons m.vc p.fseq m.msg
    have hbegin := begin_sends (q := gapped p) htx h5 ha ((nextMsg_gapped s p).trans hm)
    rw [nextBlock_frame h (by rw [hbegin]; exact hbs), hbegin, htx]
    exact ⟨tl, hbs, rfl, rfl, rfl, rfl⟩
  case idle =>
    intro s p h htx hnone
    have hbegin : begin s (gapped p) = gapped p := by
      by_cases h5 : p.state = 5
      · obtain ⟨ha, hm⟩ := hnone.resolve_left (not_not.mpr h5)
        exact begin_none (q := gapped p) htx h5 ha ((nextMsg_gapped s p).trans hm)
      · exact begin_of_busy (.inr h5)
    exact nextBlock_idle h (by rw [hbegin]; exact htx)

end Sys2Proof.Machine
end

section
/-! SUPPORT. Messages received (R257, R262), the handshake (R254, R255) and the fenced state (R263). -/

namespace Sys2Proof.Machine

section Reception

/-! ### The rows of messages (R257, R262) -/

variable {i : Instr} {mtype p : Nat} {m : Bytes} {s : State} {f : Bytes → State → State}

/-- Every message row receives the messages of its type and port. -/
theorem exec_messageRow (h : messageRow i = some (mtype, p)) : ∃ f, ∀ s, exec i s = msgRow mtype p f s := by
  unfold messageRow at h
  split at h
  case h_15 => simp at h
  all_goals
    obtain ⟨rfl, rfl⟩ := Prod.mk.inj (Option.some.inj h)
    exact ⟨_, fun _ => rfl⟩

theorem msgRow_of_runs (h : txRuns s = true) : msgRow mtype p f s = .next (receive mtype p f s) := by
  rw [msgRow, when, if_pos h]

theorem receive_of_none (h : ∀ x, port? s p = some x → ∀ m ∈ x.rx, mType m ≠ mtype) : receive mtype p f s = s := by
  have hnone : ((port? s p).bind fun x => x.rx.find? fun m => mType m == mtype) = none := by
    cases hx : port? s p with
    | none => rfl
    | some x =>
      rw [Option.bind_some, List.find?_eq_none]
      intro m hm
      simpa using h x hx m hm
  rw [receive, hnone]

theorem topoDev_unbuffered (d : Nat) : topoDev (unbuffered p m s) d = topoDev s d := rfl

theorem expectedGen_unbuffered (d : Nat) : expectedGen (unbuffered p m s) d = expectedGen s d := rfl

theorem headerOk_unbuffered : headerOk (unbuffered p m s) m = headerOk s m := rfl

/-- What is done with the message of a row's type that has waited longest. -/
theorem receive_of_waiting (hw : waitsOn mtype p m s) : receive mtype p f s =
    if (topoDev s (mSrc m)).isNone then
      if mtype = 1 then sendOn p { mtype := 2, status := 3, dst := mSrc m, tag := mTag m, body := helloBody (unbuffered p m s) (mSrc m) }
        (unbuffered p m s)
      else countRefused (unbuffered p m s)
    else if mGen m < expectedGen s (mSrc m) then fenceDrop p m (unbuffered p m s)
    else if !headerOk s m then refuseMsg p m (hear m (unbuffered p m s))
    else settleAfter (f m (hear m (unbuffered p m s))) := by
  unfold waitsOn at hw
  rw [receive, hw]
  rfl

/-- A sender that carries the generation expected of it is heard. -/
theorem hear_unbuffered (hg : expectedGen s (mSrc m) = mGen m) : hear m (unbuffered p m s) = taken p m s := by
  have hno : ¬ expectedGen (unbuffered p m s) (mSrc m) < mGen m := by
    rw [expectedGen_unbuffered]
    omega
  unfold hear
  dsimp only
  rw [if_neg hno]
  rfl

theorem not_isNone_of_isSome {α : Type} {o : Option α} (h : o.isSome = true) : ¬ o.isNone = true := by
  cases o with
  | none => exact absurd h Bool.false_ne_true
  | some a => exact Bool.false_ne_true

/-- A sound message of a listed sender with its generation takes its effect. -/
theorem msgRow_of_arrives (h : arrives mtype p m s) : msgRow mtype p f s = .next (settleAfter (f m (taken p m s))) := by
  obtain ⟨hrun, hw, hlist, hg, hok⟩ := h
  have hgen : ¬ mGen m < expectedGen s (mSrc m) := by omega
  have hhead : ¬ (!headerOk s m) = true := by simp [hok]
  rw [msgRow_of_runs hrun, receive_of_waiting hw, if_neg (not_isNone_of_isSome hlist), if_neg hgen, if_neg hhead, hear_unbuffered hg]

theorem msgRow_of_unlisted (hrun : txRuns s = true) (hw : waitsOn mtype p m s) (hnone : topoDev s (mSrc m) = none)
    (h1 : mtype ≠ 1) : msgRow mtype p f s = .next (countRefused (unbuffered p m s)) := by
  have hno : (topoDev s (mSrc m)).isNone = true := by rw [hnone]; rfl
  rw [msgRow_of_runs hrun, receive_of_waiting hw, if_pos hno, if_neg h1]

theorem msgRow_of_fenced (hrun : txRuns s = true) (hw : waitsOn mtype p m s) (hlist : (topoDev s (mSrc m)).isSome = true)
    (hg : mGen m < expectedGen s (mSrc m)) : msgRow mtype p f s = .next (fenceDrop p m (unbuffered p m s)) := by
  rw [msgRow_of_runs hrun, receive_of_waiting hw, if_neg (not_isNone_of_isSome hlist), if_pos hg]

theorem msgRow_of_unsound (hrun : txRuns s = true) (hw : waitsOn mtype p m s) (hlist : (topoDev s (mSrc m)).isSome = true)
    (hg : expectedGen s (mSrc m) = mGen m) (hbad : headerOk s m = false) :
    msgRow mtype p f s = .next (refuseMsg p m (taken p m s)) := by
  have hgen : ¬ mGen m < expectedGen s (mSrc m) := by omega
  have hhead : (!headerOk s m) = true := by simp [hbad]
  rw [msgRow_of_runs hrun, receive_of_waiting hw, if_neg (not_isNone_of_isSome hlist), if_neg hgen, if_pos hhead, hear_unbuffered hg]

/-- The state in which a message of a lower generation has been dropped. -/
def fenceDropped (m : Bytes) (s : State) : State :=
  raise0 0x0806 1 (mSrc m + 2 ^ 32 * mGen m) { s with spl.fenceDrops := satAdd 0xFFFFFFFF s.spl.fenceDrops 1 }

theorem fenceDropped_keeps (m : Bytes) (s : State) :
    (fenceDropped m s).spl.fencedAt = s.spl.fencedAt ∧ (fenceDropped m s).time = s.time := by
  have hev := raise0_events 0x0806 1 (mSrc m + 2 ^ 32 * mGen m) { s with spl.fenceDrops := satAdd 0xFFFFFFFF s.spl.fenceDrops 1 }
  unfold onlyEvents at hev
  unfold fenceDropped
  rw [hev]
  exact ⟨rfl, rfl⟩

/-- Within 1 ms of a FENCED no other one goes out (R262). -/
theorem fenceDrop_of_recent {t0 : Nat} (hat : Tab.get? s.spl.fencedAt (mSrc m) = some t0) (ht : s.time.aon < t0 + 100000) :
    fenceDrop p m s = fenceDropped m s := by
  obtain ⟨hf, htime⟩ := fenceDropped_keeps m s
  have hno : ¬ ((Tab.get? (fenceDropped m s).spl.fencedAt (mSrc m)).all fun t =>
      decide (t + 100000 ≤ (fenceDropped m s).time.aon)) = true := by
    rw [hf, htime, hat]
    simp [ht]
  exact if_neg hno

end Reception

section Handshake

theorem get?_upd_self {α : Type} {l : Tab α} {k : Nat} {a : α} (f : α → α) (h : Tab.get? l k = some a) :
    Tab.get? (Tab.upd l k f) k = some (f a) := by
  rw [Tab.get?_upd, if_pos rfl, h]
  rfl

/-! ### HELLO and HELLO_ACK (R254, R255) -/

variable {p : Nat} {m : Bytes} {s : State}

theorem helloRx_won (h : claimLoses s.adm.ringGen s.adm.coord (fld m 68 4) (fld m 72 4) = false) :
    helloRx p m s = sendOn p {
      mtype := 2, status := if claimLoses (fld m 68 4) (fld m 72 4) s.adm.ringGen s.adm.coord = true then 9 else 0
      dst := mSrc m, tag := mTag m, body := helloBody (keepClaim (mSrc m) (fld m 68 4) (fld m 72 4) s) (mSrc m) }
      (keepClaim (mSrc m) (fld m 68 4) (fld m 72 4) s) := by
  have hkeep : (keepClaim (mSrc m) (fld m 68 4) (fld m 72 4) s).adm = s.adm := rfl
  unfold helloRx
  dsimp only
  rw [h, if_neg Bool.false_ne_true, hkeep]
  split <;> rfl

theorem helloRx_lost (h : claimLoses s.adm.ringGen s.adm.coord (fld m 68 4) (fld m 72 4) = true) :
    helloRx p m s = markConflict p (mSrc m) (fld m 68 4) (fld m 72 4) s := by
  unfold helloRx
  dsimp only
  rw [h, if_pos rfl]

theorem claimLoses_self (g c : Nat) : claimLoses g c g c = false := by simp [claimLoses]

theorem helloAckRx_same (hst : mStatus m = 0) (hg : fld m 68 4 = s.adm.ringGen) (hc : fld m 72 4 = s.adm.coord) :
    helloAckRx p m s = peerReady p (mSrc m) (keepClaim (mSrc m) (fld m 68 4) (fld m 72 4) s) := by
  have h3 : ¬ mStatus m = 3 := by omega
  have h9 : ¬ (mStatus m = 9 ∨ claimLoses s.adm.ringGen s.adm.coord (fld m 68 4) (fld m 72 4) = true) := by
    rw [hg, hc, claimLoses_self, hst]
    decide
  unfold helloAckRx
  dsimp only
  rw [if_neg h3, if_neg h9, if_pos ⟨hg, hc⟩]

theorem helloAckRx_conflict (hst : mStatus m = 9) : helloAckRx p m s = markConflict p (mSrc m) (fld m 68 4) (fld m 72 4) s := by
  have h3 : ¬ mStatus m = 3 := by omega
  unfold helloAckRx
  dsimp only
  rw [if_neg h3, if_pos (Or.inl hst)]

/-- A direct peer that was not ready becomes so. -/
theorem peerReady_direct {d : Nat} {x : Peer} (hop : hopOf s d = d) (hx : Tab.get? s.spl.peers d = some x) (hr : x.ready = false) :
    peerReady p d s = resendDurable d (raise0 0x0804 0 (d + 2 ^ 18 * p)
      { s with spl.peers := Tab.upd s.spl.peers d fun x => { x with ready := true, conflict := false, port := p } }) := by
  have hno : ¬ (hopOf s d ≠ d ∨ ((Tab.get? s.spl.peers d).all (·.ready)) = true) := by
    rw [hx]
    rintro (h | h)
    · exact h hop
    · exact Bool.false_ne_true (hr.symm.trans h)
  unfold peerReady
  rw [if_neg hno]

/-- A port whose link is in CONFLICT. -/
def conflictPort (x : Port) : Port := { x with state := if x.state = 5 then 6 else x.state }

theorem markConflict_port {d g c : Nat} {x : Port} (hx : port? s p = some x) :
    port? (markConflict p d g c s) p = some (conflictPort x) :=
  (port?_onlyEvents (raise0_events ..)).trans (port?_onPort conflictPort hx)

theorem exec_hello (h : arrives 1 p m s) : exec (.hello p) s = .next (settleAfter (helloRx p m (taken p m s))) :=
  msgRow_of_arrives (f := helloRx p) h

theorem exec_helloAck (h : arrives 2 p m s) : exec (.helloAck p) s = .next (settleAfter (helloAckRx p m (taken p m s))) :=
  msgRow_of_arrives (f := helloAckRx p) h

end Handshake

section Fencing

/-! ### The fenced state (R263) -/

variable {s : State} {d g : Nat}

theorem enterFenced_of_lower (h : g ≤ s.adm.selfGen) : enterFenced d g s = s := if_pos (Or.inl h)

/-- A message that may leave in the fenced state: HELLO_ACK or FENCED. -/
def staysFenced (m : OutMsg) : Bool := mType m.msg == 2 || mType m.msg == 4

/-- The messages that a device in the fenced state drops. -/
def fencedOut (s : State) : List OutMsg := (Tab.vals s.spl.ports).flatMap fun p => p.queued.filter fun m => !staysFenced m

/-- A device without messages, epochs, streams or requests in flight has nothing to end when it enters the fenced state. -/
theorem enterFenced_idle (hg : s.adm.selfGen < g) (hf : s.adm.fenced = false) (hq : ∀ x ∈ s.spl.ports, x.2.queued = [])
    (he : ∀ x ∈ s.cap.epochs, unresolved x.2 = false) (hctx : s.str.ctxs = []) (hst : s.str.starts = []) (hreq : s.spl.reqs = []) :
    enterFenced d g s = raise0 0x0807 2 (d + 2 ^ 32 * g) { s with adm.fenced := true, adm.fenceBy := g } := by
  have hno : ¬ (g ≤ s.adm.selfGen ∨ (s.adm.fenced = true ∧ g ≤ s.adm.fenceBy)) := by
    rw [hf]
    rintro (h | ⟨h, -⟩)
    · omega
    · exact Bool.false_ne_true h
  have hev := raise0_events 0x0807 2 (d + 2 ^ 32 * g) { s with adm.fenced := true, adm.fenceBy := g }
  generalize hu : raise0 0x0807 2 (d + 2 ^ 32 * g) { s with adm.fenced := true, adm.fenceBy := g } = u at hev
  unfold onlyEvents at hev
  have hspl : u.spl = s.spl := by rw [hev]
  have hcap : u.cap = s.cap := by rw [hev]
  have hstr : u.str = s.str := by rw [hev]
  have hports : (Tab.mapv u.spl.ports fun p : Port => { p with queued := p.queued.filter staysFenced }) = u.spl.ports := by
    rw [hspl]
    unfold Tab.mapv
    refine (List.map_congr_left fun x hx => ?_).trans (List.map_id _)
    have hempty : x.2.queued.filter staysFenced = x.2.queued := by rw [hq x hx]; rfl
    dsimp only
    rw [hempty]
    rfl
  have hout : fencedOut u = [] := by
    rw [fencedOut, hspl, List.flatMap_eq_nil_iff]
    intro y hy
    obtain ⟨x, hx, rfl⟩ := List.mem_map.mp hy
    rw [hq x hx]
    rfl
  have hepochs : ((Tab.vals u.cap.epochs).filter fun x => unresolved x && needsPeers u x) = [] := by
    rw [hcap, List.filter_eq_nil_iff]
    intro y hy
    obtain ⟨x, hx, rfl⟩ := List.mem_map.mp hy
    simp [he x hx]
  have hcmds : u.ldg.cmds.filter (readsPeer u) = [] := by
    rw [List.filter_eq_nil_iff]
    intro c _
    simp [readsPeer, hstr, hctx, hst]
  have hreqs : endRequests (fun _ => true) 8 0 u = u := by
    have hnil : u.spl.reqs = [] := by rw [hspl, hreq]
    unfold endRequests
    rw [hnil]
    dsimp only
    rw [List.filter_nil, List.filter_nil, each_nil]
    conv_rhs => rw [show u = { u with spl.reqs := u.spl.reqs } from rfl, hnil]
  have heq : enterFenced d g s = if g ≤ s.adm.selfGen ∨ (s.adm.fenced ∧ g ≤ s.adm.fenceBy) then s else
      let u := raise0 0x0807 2 (d + 2 ^ 32 * g) { s with adm.fenced := true, adm.fenceBy := g }
      let v := each (fencedOut u) (fun m => tidingDropped m.msg)
        { u with spl.ports := Tab.mapv u.spl.ports fun p => { p with queued := p.queued.filter staysFenced } }
      let w := each (((Tab.vals v.cap.epochs).filter fun x => unresolved x && needsPeers v x).map (·.num))
        (fun e => abandonEpoch e (0x11, 8)) v
      endRequests (fun _ => true) 8 0
        (each (w.ldg.cmds.filter (readsPeer w)) (fun c t => endFor c.q c.seq 8 0 (stopCmd c.q c.seq t)) w) := rfl
  have hsame : { u with spl.ports := u.spl.ports } = u := rfl
  rw [heq, if_neg hno, hu]
  dsimp only
  rw [hout, hports, hsame, each_nil, hepochs, List.map_nil, each_nil, hcmds, each_nil, hreqs]

end Fencing

/-- Settles O48: a message row takes the oldest message of its type, refuses, drops or hears it, and the handshake and the fence
rows do as R254, R255 and R263 say. -/
theorem messagesAndFencing : Obligations.MessagesAndFencing := by
  unfold Obligations.MessagesAndFencing
  refine ⟨?none, ?unlisted, ?fenced, ?unsound, ?won, ?lost, ?ready, ?conflict, ?mark, ?fence, ?fencedRow, ?lower, ?enter⟩
  case none =>
    intro i mtype p s hi hnone
    obtain ⟨f, hf⟩ := exec_messageRow hi
    rw [hf, msgRow, when, receive_of_none hnone, ite_self]
  case unlisted =>
    intro i mtype p m s hi hrun hw hnone h1
    obtain ⟨f, hf⟩ := exec_messageRow hi
    rw [hf, msgRow_of_unlisted hrun hw hnone h1]
    rfl
  case fenced =>
    rintro i mtype p m s hi hrun hw hlist hg ⟨t0, hat, ht⟩
    obtain ⟨f, hf⟩ := exec_messageRow hi
    rw [hf, msgRow_of_fenced hrun hw hlist hg, fenceDrop_of_recent (s := unbuffered p m s) hat ht]
    rfl
  case unsound =>
    intro i mtype p m s hi hrun hw hlist hg hbad
    obtain ⟨f, hf⟩ := exec_messageRow hi
    rw [hf, msgRow_of_unsound hrun hw hlist hg hbad]
  case won =>
    intro s p m h hclaim
    rw [exec_hello h, helloRx_won (s := taken p m s) hclaim]
    rfl
  case lost =>
    intro s p m h hclaim
    rw [exec_hello h, helloRx_lost (s := taken p m s) hclaim]
  case ready =>
    intro s p m x h hst hg hc hx hr hop
    have hx1 : Tab.get? (taken p m s).spl.peers (mSrc m) = some { x with gen := mGen m, heard := true, lost := false } :=
      get?_upd_self (fun y : Peer => { y with gen := mGen m, heard := true, lost := false }) hx
    have hx2 : Tab.get? (keepClaim (mSrc m) (fld m 68 4) (fld m 72 4) (taken p m s)).spl.peers (mSrc m) =
        some { x with gen := mGen m, heard := true, lost := false, ringGen := fld m 68 4, coord := fld m 72 4 } :=
      get?_upd_self (fun y : Peer => { y with ringGen := fld m 68 4, coord := fld m 72 4 }) hx1
    rw [exec_helloAck h, helloAckRx_same (s := taken p m s) hst hg hc, peerReady_direct (by exact hop) hx2 hr]
    unfold keepClaim
    dsimp only
    rw [upd_upd]
  case conflict =>
    intro s p m h hst
    rw [exec_helloAck h, helloAckRx_conflict hst]
  case mark => exact fun p d g c s x hx => ⟨_, markConflict_port hx, rfl⟩
  case fence => exact fun s p m h => msgRow_of_arrives (f := fencedBy) h
  case fencedRow => exact fun s p m h => msgRow_of_arrives (f := fencedBy) h
  case lower => exact fun s d g h => enterFenced_of_lower h
  case enter => exact fun s d g hg hf hq he hctx hst hreq => enterFenced_idle hg hf hq he hctx hst hreq

end Sys2Proof.Machine
end

section
/-! SUPPORT. Messages about exported vaults and their sectors (R259, R261), and the requests that they answer. -/

namespace Sys2Proof.Machine

section ExportedVaults

/-! ### Exported vaults (R261) -/

variable {s : State} {p : Nat} {m : Bytes} {v : Vault}

theorem exported_taken (p : Nat) (m : Bytes) (s : State) : exported (taken p m s) m = exported s m := rfl

theorem isOpen_taken (p : Nat) (m : Bytes) (s : State) : isOpen (taken p m s) m = isOpen s m := rfl

theorem vaultOpenRx_opens (hv : exported s m = some v) (hsize : mArg m ≤ vSectors v) (hopen : isOpen s m = false) :
    vaultOpenRx m s = reply m { mtype := 0xA, dst := 0, vault := mVault m }
      { s with spl.opens := s.spl.opens ++ [(mVault m, mSrc m)] } := by
  have hok : ((exported s m).any fun v => decide (mArg m ≤ vSectors v)) = true := by
    rw [hv]
    exact decide_eq_true hsize
  unfold vaultOpenRx
  dsimp only
  rw [hok, hopen]
  rfl

theorem vaultOpenRx_refuses (h : exported s m = none ∨ ∃ v, exported s m = some v ∧ vSectors v < mArg m) :
    vaultOpenRx m s = reply m { mtype := 0xA, status := 3, dst := 0, vault := mVault m } s := by
  have hno : ((exported s m).any fun v => decide (mArg m ≤ vSectors v)) = false := by
    rcases h with h | ⟨v, h, hlt⟩
    · rw [h]
      rfl
    · rw [h]
      exact decide_eq_false (by omega)
  unfold vaultOpenRx
  dsimp only
  rw [hno]
  rfl

end ExportedVaults

section Answers

/-! ### The request that a response answers -/

variable {s : State} {m : Bytes} {r : Req} {types : List Nat}

theorem answered_one {f : Req → State → State} (hreq : s.spl.reqs = [r]) (ht : r.tag = mTag m) (hp : r.peer = mSrc m)
    (hty : types.contains r.mtype = true) : answered m types f s = f r { s with spl.reqs := [] } := by
  have hfind : (s.spl.reqs.find? fun r => r.tag == mTag m && r.peer == mSrc m && types.contains r.mtype) = some r := by
    rw [hreq]
    simp only [List.find?_cons, ht, hp, hty, beq_self_eq_true, Bool.and_true]
  have hrest : (s.spl.reqs.filter fun x => x.tag != r.tag) = [] := by
    rw [hreq]
    simp
  unfold answered
  rw [hfind]
  dsimp only
  rw [hrest]

theorem vaultReplyRx_ends {q seq : Nat} {c : Cmd} (hreq : s.spl.reqs = [r]) (ht : r.tag = mTag m) (hp : r.peer = mSrc m)
    (hty : r.mtype = 8 ∨ r.mtype = 9) (ho : r.owner = some (q, seq)) (hc : cmd? s q seq = some c) (hst : mStatus m ≠ 3) :
    vaultReplyRx m s = vaultReplied c (mStatus m) 0 { s with spl.reqs := [] } := by
  have hmem : ([8, 9] : List Nat).contains r.mtype = true := by rcases hty with h | h <;> rw [h] <;> rfl
  have hc' : cmd? { s with spl.reqs := [] } q seq = some c := hc
  unfold vaultReplyRx
  rw [answered_one hreq ht hp hmem]
  dsimp only
  rw [ho, Option.bind_some]
  dsimp only
  rw [hc']
  dsimp only
  rw [if_neg hst]

theorem each_getD {α : Type} (f : α → State → State) (l : List α) (d : α) (s : State) :
    each (List.range l.length) (fun i => f (l.getD i d)) s = each l f s := by
  have hmap : (List.range l.length).map (fun i => l.getD i d) = l := by
    apply List.ext_getElem
    · simp
    · intro i hi _
      have hi' : i < l.length := by simpa using hi
      simp [hi']
  conv_rhs => rw [← hmap]
  unfold each
  rw [List.foldl_map]

theorem sectorAckRx_ok (hreq : s.spl.reqs = [r]) (ht : r.tag = mTag m) (hp : r.peer = mSrc m) (hty : r.mtype = 0x10)
    (hst : mStatus m = 0) : sectorAckRx m s = each r.isectors (reqSectorAcked r) { s with spl.reqs := [] } := by
  have hmem : ([0x10] : List Nat).contains r.mtype = true := by rw [hty]; rfl
  have hno : ¬ (mStatus m ≠ 0 ∧ mStatus m ≠ 0x0C) := by omega
  have hgood : ((List.range r.isectors.length).filter fun i => !([] : List Nat).contains i) = List.range r.isectors.length :=
    List.filter_eq_self.mpr fun _ _ => rfl
  unfold sectorAckRx
  rw [answered_one hreq ht hp hmem]
  dsimp only
  rw [if_neg hno, if_pos hst, hgood, each_getD]
  rfl

/-- The sectors of a request, each with its position. -/
def reqSectors (r : Req) : List (Nat × Nat) := (List.range r.isectors.length).map fun k => (k, r.isectors.getD k 0)

theorem sectorDataRx_eq (hreq : s.spl.reqs = [r]) (ht : r.tag = mTag m) (hp : r.peer = mSrc m) (hty : r.mtype = 0x12) :
    sectorDataRx m s = if mStatus m = 0 ∧ mCount m = r.isectors.length then
      each (reqSectors r) (fun p => sectorArrives r.entry p.2 r.again (msgSector m p.1)) { s with spl.reqs := [] }
      else each (reqSectors r) (fun p => keepSector r.entry p.2 [] 1) { s with spl.reqs := [] } := by
  have hmem : ([0x12] : List Nat).contains r.mtype = true := by rw [hty]; rfl
  unfold sectorDataRx
  rw [answered_one hreq ht hp hmem]
  rfl

theorem withChecks_congr {f g : State → State} {fails : List (Nat × Nat)}
    (h : f { s with pun.readFails := fails } = g { s with pun.readFails := fails }) : withChecks fails f s = withChecks fails g s := by
  unfold withChecks
  rw [h]

end Answers

section Sectors

/-! ### SECTOR_READ and SECTOR_WRITE (R259) -/

variable {s : State} {m : Bytes} {v : Vault}

theorem sectorReadRx_answers {sectors : Tab Bytes} (hv : exported s m = some v) (hopen : isOpen s m = true)
    (hin : ∀ n ∈ msgSectors m, n < vSectors v) :
    sectorReadRx sectors m s = reply m { mtype := 0x13, dst := 0, count := mCount m, sector := mSector m, stride := mStride m
                                         body := (msgSectors m).flatMap fun n => slice (Tab.getD sectors n []) 0 4096, cls := 5 }
      (each (msgSectors m) (fun n => readCtl (vBase v + 4096 * n) (vTdid v) 4096 5) s) := by
  have hok : ((exported s m).any fun v => isOpen s m && (msgSectors m).all fun n => decide (n < vSectors v)) = true := by
    rw [hv]
    simpa [hopen] using hin
  unfold sectorReadRx
  dsimp only
  rw [if_pos hok, hv]

theorem sectorReadRx_refuses {sectors : Tab Bytes} (h : exported s m = none ∨ isOpen s m = false) :
    sectorReadRx sectors m s = reply m { mtype := 0x13, status := 3, dst := 0 } s := by
  have hno : ¬ ((exported s m).any fun v => isOpen s m && (msgSectors m).all fun n => decide (n < vSectors v)) = true := by
    rcases h with h | h
    · rw [h]
      exact Bool.false_ne_true
    · simp [h]
  unfold sectorReadRx
  dsimp only
  rw [if_neg hno]

/-- A SECTOR_WRITE to an open vault writes the sectors that pass their check. -/
theorem sectorWriteRx_of_open (hv : exported s m = some v) (hopen : isOpen s m = true) (hin : ∀ n ∈ msgSectors m, n < vSectors v) :
    sectorWriteRx m s =
      let good := (List.range (mCount m)).filter (arrivedOk m)
      let bad := maskOf (mCount m) fun i => !good.contains i
      if good.isEmpty then sectorAck (mSrc m) (mTag m) bad s
      else each good (fun i => hbSector (.peerSec (mSrc m) (mTag m) i) (vBase v + 4096 * (msgSectors m).getD i 0) (vTdid v)
          ((msgSectors m).getD i 0) 4 none (msgSector m i))
        { s with spl.rxWrites := s.spl.rxWrites.filter (fun w => !(w.1 == mSrc m && w.2.1 == mTag m)) ++
          [(mSrc m, mTag m, good.length, bad)] } := by
  have hno : ¬ ((!isOpen s m) = true ∨ ((msgSectors m).any fun n => decide (vSectors v ≤ n)) = true) := by
    rw [hopen]
    rintro (h | h)
    · exact Bool.false_ne_true h
    · obtain ⟨n, hn, hle⟩ := List.any_eq_true.mp h
      exact absurd (of_decide_eq_true hle) (not_le.mpr (hin n hn))
  unfold sectorWriteRx
  rw [hv]
  dsimp only
  rw [if_neg hno]

theorem sectorWriteRx_one (hv : exported s m = some v) (hopen : isOpen s m = true) (hin : ∀ n ∈ msgSectors m, n < vSectors v)
    (h1 : mCount m = 1) (hgood : arrivedOk m 0 = true) (hnew : ∀ w ∈ s.spl.rxWrites, ¬(w.1 = mSrc m ∧ w.2.1 = mTag m)) :
    sectorWriteRx m s = hbSector (.peerSec (mSrc m) (mTag m) 0) (vBase v + 4096 * mSector m) (vTdid v) (mSector m) 4 none
      (msgSector m 0) { s with spl.rxWrites := s.spl.rxWrites ++ [(mSrc m, mTag m, 1, 0)] } := by
  have hlist : (List.range (mCount m)).filter (arrivedOk m) = [0] := by simp [h1, List.range_succ, hgood]
  have hmask : (maskOf (mCount m) fun i => !([0] : List Nat).contains i) = 0 := by rw [h1]; rfl
  have hrest : s.spl.rxWrites.filter (fun w => !(w.1 == mSrc m && w.2.1 == mTag m)) = s.spl.rxWrites := by
    rw [List.filter_eq_self]
    intro w hw
    simpa using not_and_or.mp (hnew w hw)
  have hsec : (msgSectors m).getD 0 0 = mSector m := by simp [msgSectors, h1]
  rw [sectorWriteRx_of_open hv hopen hin]
  dsimp only
  rw [hlist, hmask, hrest]
  change hbSector _ (vBase v + 4096 * (msgSectors m).getD 0 0) _ ((msgSectors m).getD 0 0) _ _ _ _ = _
  rw [hsec]
  rfl

theorem sectorWriteRx_bad (hv : exported s m = some v) (hopen : isOpen s m = true) (hin : ∀ n ∈ msgSectors m, n < vSectors v)
    (h1 : mCount m = 1) (hbad : arrivedOk m 0 = false) :
    sectorWriteRx m s = send { mtype := 0x11, status := 0x0C, dst := mSrc m, tag := mTag m, arg := 1 } s := by
  have hlist : (List.range (mCount m)).filter (arrivedOk m) = [] := by simp [h1, List.range_succ, hbad]
  have hmask : (maskOf (mCount m) fun i => !([] : List Nat).contains i) = 1 := by rw [h1]; rfl
  rw [sectorWriteRx_of_open hv hopen hin]
  dsimp only
  rw [hlist, hmask]
  rfl

end Sectors

/-- Settles O49: the vault and sector messages open, close, read and write exported vaults, and end the requests they answer. -/
theorem vaultMessages : Obligations.VaultMessages := by
  unfold Obligations.VaultMessages
  refine ⟨?opens, ?refused, ?close, ?reply, ?read, ?readRefused, ?write, ?writeBad, ?ack, ?data, ?dataRefused⟩
  case opens =>
    intro s p m v h hv hsize hopen
    refine (msgRow_of_arrives (f := vaultOpenRx) h).trans ?_
    rw [vaultOpenRx_opens ((exported_taken p m s).trans hv) hsize ((isOpen_taken p m s).trans hopen)]
    rfl
  case refused =>
    intro s p m h href
    refine (msgRow_of_arrives (f := vaultOpenRx) h).trans ?_
    rw [vaultOpenRx_refuses (s := taken p m s) href]
  case close =>
    exact fun s p m h => msgRow_of_arrives (f := vaultCloseRx) h
  case reply =>
    intro s p m r q seq c h hreq ht hp hty ho hc hst
    refine (msgRow_of_arrives (f := vaultReplyRx) h).trans ?_
    rw [vaultReplyRx_ends (s := taken p m s) hreq ht hp hty ho hc hst]
  case read =>
    intro s p m v sectors h hv hopen hin
    refine (msgRow_of_arrives (f := sectorReadRx sectors) h).trans ?_
    rw [sectorReadRx_answers (s := taken p m s) hv hopen hin]
  case readRefused =>
    intro s p m sectors h href
    refine (msgRow_of_arrives (f := sectorReadRx sectors) h).trans ?_
    rw [sectorReadRx_refuses (s := taken p m s) href]
  case write =>
    intro s p m v h hv hopen hin h1 hgood hnew
    refine (msgRow_of_arrives (f := sectorWriteRx) h).trans ?_
    rw [sectorWriteRx_one (s := taken p m s) hv hopen hin h1 hgood hnew]
    rfl
  case writeBad =>
    intro s p m v h hv hopen hin h1 hbad
    refine (msgRow_of_arrives (f := sectorWriteRx) h).trans ?_
    rw [sectorWriteRx_bad (s := taken p m s) hv hopen hin h1 hbad]
  case ack =>
    intro s p m r h hreq ht hp hty hst
    refine (msgRow_of_arrives (f := sectorAckRx) h).trans ?_
    rw [sectorAckRx_ok (s := taken p m s) hreq ht hp hty hst]
  case data =>
    intro s p fails m r h hreq ht hp hty hst hcount
    refine (msgRow_of_arrives (f := fun m => withChecks fails (sectorDataRx m)) h).trans ?_
    refine congrArg (fun u => Host.Outcome.next (settleAfter u)) (withChecks_congr ?_)
    exact (sectorDataRx_eq (s := { taken p m s with pun.readFails := fails }) hreq ht hp hty).trans (if_pos ⟨hst, hcount⟩)
  case dataRefused =>
    intro s p fails m r h hreq ht hp hty hst
    refine (msgRow_of_arrives (f := fun m => withChecks fails (sectorDataRx m)) h).trans ?_
    refine congrArg (fun u => Host.Outcome.next (settleAfter u)) (withChecks_congr ?_)
    exact (sectorDataRx_eq (s := { taken p m s with pun.readFails := fails }) hreq ht hp hty).trans (if_neg fun hn => hst hn.1)

end Sys2Proof.Machine
end

section
/-! SUPPORT. Digests compared (R196, R266, R267), tidings (R260), and requests and digests that are sent again (R254, R258, R266). -/

namespace Sys2Proof.Machine

section Compared

/-! ### Digests compared (R196, R266) -/

variable {s : State} {dev sector epoch mine : Nat} {own d : Bytes}

/-- The state in which a verdict has been given. -/
def verdictGiven (dev sector epoch v : Nat) (s : State) : State :=
  { s with
    spl.given := s.spl.given ++ [(dev, sector, epoch, v)]
    pun.own := Tab.upd s.pun.own sector fun o => (o.1, o.2.1, o.2.2 ++ [dev]) }

/-- An epoch whose digest of a sector differs from a replica's. -/
def divergedEpoch (s : State) (mine sector : Nat) (x : Epoch) : Epoch :=
  { x with
    diverged := true
    disputes := if (epoch? s mine).any (fun x => x.disputes.all fun y => y.1 != sector) then x.disputes ++ [(sector, 2 ^ 64 - 1)]
      else x.disputes }

theorem compareDigest_equal (h : own = d) (he : epoch = mine) :
    compareDigest dev sector epoch mine own d s = verdictGiven dev sector epoch 0 s := by
  unfold compareDigest
  dsimp only
  rw [if_pos (And.intro h he)]
  rfl

theorem compareDigest_differs (h : ¬ (own = d ∧ epoch = mine)) :
    compareDigest dev sector epoch mine own d s = raise0 0x0809 2 (sector % 2 ^ 40 + 2 ^ 40 * dev)
      (assayCount 8 1 (onEpoch mine (divergedEpoch (verdictGiven dev sector epoch 1 s) mine sector)
        (verdictGiven dev sector epoch 1 s))) := by
  unfold compareDigest
  dsimp only
  rw [if_neg h]
  rfl

theorem spl_onlyEvents {t : State} (h : onlyEvents s t) : t.spl = s.spl := by
  unfold onlyEvents at h
  rw [h]

theorem pun_onlyEvents {t : State} (h : onlyEvents s t) : t.pun = s.pun := by
  unfold onlyEvents at h
  rw [h]

theorem compareDigest_keeps (dev sector epoch mine : Nat) (own d : Bytes) (s : State) :
    (compareDigest dev sector epoch mine own d s).pun.digMsgs = s.pun.digMsgs ∧
    (compareDigest dev sector epoch mine own d s).pun.stored = s.pun.stored ∧
    (compareDigest dev sector epoch mine own d s).spl.given =
      s.spl.given ++ [(dev, sector, epoch, if own = d ∧ epoch = mine then 0 else 1)] := by
  by_cases h : own = d ∧ epoch = mine
  · rw [compareDigest_equal h.1 h.2, if_pos h]
    exact ⟨rfl, rfl, rfl⟩
  · rw [compareDigest_differs h, pun_onlyEvents (raise0_events ..), spl_onlyEvents (raise0_events ..), if_neg h]
    exact ⟨rfl, rfl, rfl⟩

theorem compareDigest_diverged {x : Epoch} (h : ¬ (own = d ∧ epoch = mine)) (hx : epoch? s mine = some x) :
    ∃ y, epoch? (compareDigest dev sector epoch mine own d s) mine = some y ∧ y.diverged = true := by
  rw [compareDigest_differs h, epoch?, cap_onlyEvents (raise0_events ..)]
  exact ⟨_, epoch?_onEpoch mine _ (s := verdictGiven dev sector epoch 1 s) hx, rfl⟩

end Compared

section DigestMessages

/-! ### DIGEST (R266) -/

variable {s : State} {m : Bytes}

/-- The digest of a DIGEST message that carries one. -/
theorem digestIn_own {o : Nat × Bytes × List Nat} (hv : verdictOf s (mSrc m) (mSector m) (mEpoch m) = none)
    (hown : Tab.get? s.pun.own (mSector m) = some o) (his : isOwn s (mSrc m) (mEpoch m) o = true) :
    digestIn m 0 s = compareDigest (mSrc m) (mSector m) (mEpoch m) o.1 o.2.1 (slice m 64 32) s := by
  have hno : ¬ (verdictOf s (mSrc m) (mSector m) (mEpoch m)).isSome = true := by rw [hv]; exact Bool.false_ne_true
  unfold digestIn
  simp only [Nat.zero_mul, Nat.add_zero, Nat.mul_zero]
  rw [if_neg hno, hown, Option.filter_some, if_pos his]

theorem digestIn_kept (hv : verdictOf s (mSrc m) (mSector m) (mEpoch m) = none) (hown : Tab.get? s.pun.own (mSector m) = none)
    (hpast : ((epoch? s (mEpoch m)).any fun x => !unresolved x) = false) (hst : s.pun.stored = [])
    (hroom : s.pun.escrow.length + 1 ≤ escrowSlots s) :
    digestIn m 0 s = { s with pun.stored := [⟨mSector m, mSrc m, mTag m, mEpoch m, slice m 64 32⟩] } := by
  have hno : ¬ (verdictOf s (mSrc m) (mSector m) (mEpoch m)).isSome = true := by rw [hv]; exact Bool.false_ne_true
  have hone : cdiv (([] : List DigIn).length + 1) 128 = 1 := rfl
  have hkeep : ¬ (((epoch? s (mEpoch m)).any fun x => !unresolved x) = true ∨
      escrowSlots s < s.pun.escrow.length + cdiv (s.pun.stored.length + 1) 128) := by
    rw [hpast, hst, hone]
    rintro (h | h)
    · exact Bool.false_ne_true h
    · omega
  unfold digestIn
  simp only [Nat.zero_mul, Nat.add_zero, Nat.mul_zero]
  rw [if_neg hno, hown]
  dsimp only [Option.filter_none]
  rw [if_neg hkeep, hst]
  rfl

theorem digestRx_one (hmsg : s.pun.digMsgs = []) (h1 : mCount m = 1) (hkeep : (digestIn m 0 s).pun.digMsgs = []) :
    digestRx m s = answerReady { digestIn m 0 s with pun.digMsgs := [m] } := by
  have hno : ¬ (s.pun.digMsgs.any fun x => mTag x == mTag m && mSrc x == mSrc m) = true := by
    rw [hmsg]
    exact Bool.false_ne_true
  unfold digestRx
  rw [if_neg hno, h1]
  change answerReady { digestIn m 0 s with pun.digMsgs := (digestIn m 0 s).pun.digMsgs ++ [m] } = _
  rw [hkeep]
  rfl

/-- A message none of whose digests waits is answered. -/
theorem answerReady_answers (hst : s.pun.stored = []) :
    answerReady { s with pun.digMsgs := [m] } = answerDigest m { s with pun.digMsgs := [] } := by
  unfold answerReady
  dsimp only
  rw [hst]
  rfl

theorem answerReady_waits {x : DigIn} (hst : s.pun.stored = [x]) (htag : x.tag = mTag m) (hdev : x.dev = mSrc m) :
    answerReady { s with pun.digMsgs := [m] } = { s with pun.digMsgs := [m] } := by
  have hwait : (s.pun.stored.any fun x => x.tag == mTag m && x.dev == mSrc m) = true := by
    rw [hst]
    simp [htag, hdev]
  unfold answerReady
  dsimp only
  simp only [List.filter_cons, hwait]
  rfl

theorem digestRx_own {o : Nat × Bytes × List Nat} (hmsg : s.pun.digMsgs = []) (hst : s.pun.stored = []) (h1 : mCount m = 1)
    (hv : verdictOf s (mSrc m) (mSector m) (mEpoch m) = none)
    (hown : Tab.get? s.pun.own (mSector m) = some o) (his : isOwn s (mSrc m) (mEpoch m) o = true) :
    digestRx m s = answerDigest m { compareDigest (mSrc m) (mSector m) (mEpoch m) o.1 o.2.1 (slice m 64 32) s with
      pun.digMsgs := [] } := by
  obtain ⟨hdig, hstored, -⟩ := compareDigest_keeps (mSrc m) (mSector m) (mEpoch m) o.1 o.2.1 (slice m 64 32) s
  have hin := digestIn_own hv hown his
  rw [digestRx_one hmsg h1 (by rw [hin, hdig, hmsg]), hin, answerReady_answers (hstored.trans hst)]

theorem isOwn_same (devs : List Nat) (d e : Nat) (own : Bytes) : isOwn s d e (e, own, devs) = true := by simp [isOwn]

theorem isOwn_other {x : Epoch} {devs : List Nat} {d e e' : Nat} {own : Bytes} (hnone : epoch? s e = none)
    (hx : epoch? s e' = some x) (hu : unresolved x = true) (hd : d ∉ devs) : isOwn s d e (e', own, devs) = true := by
  simp [isOwn, hnone, hx, hu, hd]

end DigestMessages

section Verdicts

/-! ### DIGEST_VERDICT (R266, R267) -/

variable {s : State} {m : Bytes} {r : Req}

/-- The digests of a sector that has its verdict wait for none any more. -/
def undisputed (e n : Nat) (s : State) : State :=
  { s with
    pun.sentDig := s.pun.sentDig.filter fun d => !(d.1 == e && d.2.1 == n)
    pun.later := s.pun.later.filter fun d => !(d.1 == e && d.2.1 == n) }

theorem verdictRx_one (hreq : s.spl.reqs = [r]) (ht : r.tag = mTag m) (hp : r.peer = mSrc m) (hty : r.mtype = 0x20)
    (hst : mStatus m = 0) (h1 : mCount r.msg = 1) :
    verdictRx m s = verdictIn (mSrc m) r.epoch (mSector r.msg) (fld m 64 1 % 4) { s with spl.reqs := [] } := by
  have hmem : ([0x20] : List Nat).contains r.mtype = true := by rw [hty]; rfl
  have hsec : msgSectors r.msg = [mSector r.msg] := by simp [msgSectors, h1, List.range_succ]
  have hbits : bits (fld m (64 + 0 / 4) 1) (2 * (0 % 4) + 1) (2 * (0 % 4)) = fld m 64 1 % 4 := by simp [bits]
  unfold verdictRx
  rw [answered_one hreq ht hp hmem]
  dsimp only
  rw [if_neg (not_not.mpr hst), hsec]
  change verdictIn (mSrc m) r.epoch (mSector r.msg) (bits (fld m (64 + 0 / 4) 1) (2 * (0 % 4) + 1) (2 * (0 % 4))) _ = _
  rw [hbits]

theorem verdictIn_same (dev e n : Nat) (s : State) :
    verdictIn dev e n 0 s = { undisputed e n s with pun.escrow := Tab.del s.pun.escrow n } := rfl

theorem verdictIn_differ (dev e n : Nat) (s : State) : verdictIn dev e n 1 s = differ dev e n (undisputed e n s) := rfl

theorem verdictIn_later (dev e n : Nat) {v : Nat} (h : 2 ≤ v) (s : State) :
    (verdictIn dev e n v s).pun.escrow = s.pun.escrow ∧ (verdictIn dev e n v s).pun.sentDig = s.pun.sentDig ∧
    ∃ w, (e, n, w, s.time.aon) ∈ (verdictIn dev e n v s).pun.later := by
  obtain ⟨k, rfl⟩ := Nat.exists_eq_add_of_le h
  rw [Nat.add_comm]
  exact ⟨rfl, rfl, _, List.mem_append_right _ List.mem_cons_self⟩

end Verdicts

section Tidings

/-! ### Tidings (R260) -/

variable {s : State} {m : Bytes}

theorem tidingRx_new (hk : fld m 64 1 = 0) (h : Tab.getD s.spl.tidHigh (mSrc m * 65536 + fld m 66 2) 0 < fld m 72 8) :
    tidingRx m s = raise 0x080B 0 (fld m 66 2) (fld m 72 8) (fld m 80 4 + 2 ^ 32 * mSrc m + 2 ^ 50 * fld m 65 1)
      { s with spl.tidHigh := Tab.put s.spl.tidHigh (mSrc m * 65536 + fld m 66 2) (fld m 72 8) } := by
  unfold tidingRx
  dsimp only
  rw [if_pos hk, if_neg (not_le.mpr h)]

theorem tidingRx_old (hk : fld m 64 1 = 0) (h : fld m 72 8 ≤ Tab.getD s.spl.tidHigh (mSrc m * 65536 + fld m 66 2) 0) :
    tidingRx m s = s := by
  unfold tidingRx
  dsimp only
  rw [if_pos hk, if_pos h]

theorem tidingRx_durable (hk : fld m 64 1 = 1) (h : (mSrc m, fld m 84 4) ∉ s.spl.durSeen) :
    tidingRx m s = { s with spl.durSeen := s.spl.durSeen ++ [(mSrc m, fld m 84 4)] } := by
  have h0 : ¬ fld m 64 1 = 0 := by omega
  have hnew : ¬ s.spl.durSeen.contains (mSrc m, fld m 84 4) = true := by simpa using h
  unfold tidingRx
  dsimp only
  rw [if_neg h0, if_pos hk, if_neg hnew]

end Tidings

section Resending

/-! ### Requests and digests sent again (R254, R258, R266) -/

variable {s : State} {tag d p : Nat} {r : Req}

theorem exec_requestTimeout (hrun : txRuns s = true) (hf : s.adm.fenced = false) :
    exec (.requestTimeout tag) s = .next (requestTimeout tag s) := by
  change Host.Outcome.next (when (txRuns s && !s.adm.fenced) (requestTimeout tag) s) = _
  rw [when, hrun, hf]
  rfl

theorem find_tag (hreq : s.spl.reqs = [r]) (ht : r.tag = tag) : (s.spl.reqs.find? fun r => r.tag == tag) = some r := by
  rw [hreq]
  simp [ht]

theorem requestTimeout_again (hreq : s.spl.reqs = [r]) (ht : r.tag = tag) (h8 : r.sends < 8) (hp : bestPort s r.peer = some p) :
    requestTimeout tag s = queueMsg p { vc := vcOf r.mtype, msg := r.msg, cls := r.cls, ctx := r.ctx }
      { s with spl.reqs := [{ r with sends := r.sends + 1 }] } := by
  have hupd : updWhere (fun x : Req => x.tag == tag) (fun x => { x with sends := x.sends + 1 }) s.spl.reqs =
      [{ r with sends := r.sends + 1 }] := by
    rw [hreq]
    simp [updWhere, ht]
  have hport (l : List Req) : bestPort { s with spl.reqs := l } r.peer = some p := hp
  unfold requestTimeout
  rw [find_tag hreq ht]
  dsimp only
  rw [if_pos h8, hupd, hport]

theorem requestTimeout_lost (hreq : s.spl.reqs = [r]) (ht : r.tag = tag) (h8 : 8 ≤ r.sends) :
    requestTimeout tag s = settleAfter (requestLost r (0x0F, 1)
      { raise0 0x080C 2 (r.peer + 2 ^ 18 * r.mtype)
          { s with spl.peers := Tab.upd s.spl.peers r.peer fun x => { x with lost := true } } with spl.reqs := [] }) := by
  have hno : ¬ r.sends < 8 := by omega
  have hspl := spl_onlyEvents (raise0_events 0x080C 2 (r.peer + 2 ^ 18 * r.mtype)
    { s with spl.peers := Tab.upd s.spl.peers r.peer fun x => { x with lost := true } })
  unfold requestTimeout
  rw [find_tag hreq ht]
  dsimp only
  rw [if_neg hno, hspl, hreq]
  simp only [List.filter_cons, List.filter_nil, beq_self_eq_true, bne_self_eq_false]
  rfl

theorem requestTimeout_none (h : ∀ r ∈ s.spl.reqs, r.tag ≠ tag) : requestTimeout tag s = s := by
  have hnone : (s.spl.reqs.find? fun r => r.tag == tag) = none := by
    rw [List.find?_eq_none]
    intro r hr
    simpa using h r hr
  rw [requestTimeout, hnone]

theorem helloRepeat_eq {x : Peer} (hx : Tab.get? s.spl.peers d = some x) (hp : bestPort s d = some p) :
    helloRepeat d s = if x.ready = true ∨ hopOf s d ≠ d then s else sendHello p d s := by
  rw [helloRepeat, hx, hp]

theorem exec_helloRepeat (hrun : txRuns s = true) : exec (.helloRepeat d) s = .next (helloRepeat d s) := by
  change Host.Outcome.next (when (txRuns s) (helloRepeat d) s) = _
  rw [when, if_pos hrun]

theorem laterResend_one {e n w t0 dev : Nat} {x : Epoch} {esc : Nat × Nat × Bytes} (hl : s.pun.later = [(e, n, w, t0)])
    (hdue : t0 + 100000 ≤ s.time.aon) (hx : epoch? s e = some x) (hesc : Tab.get? s.pun.escrow n = some esc)
    (hdev : replicaDev s w = some dev) :
    laterResend s = request { mtype := 0x20, dst := dev, vault := hVault x.list, epoch := e, count := 1, sector := n
                              stride := max 1 (hReplicas x.list), body := sha256 esc.2.2, cls := 4 }
      { tag := 0, peer := dev, mtype := 0x20, msg := [], epoch := e } { s with pun.later := [] } := by
  have hgo : (s.pun.later.filter fun d => decide (d.2.2.2 + 100000 ≤ s.time.aon)) = [(e, n, w, t0)] := by
    rw [hl]
    simp [hdue]
  have hrest : (s.pun.later.filter fun d => !([(e, n, w, t0)] : List (Nat × Nat × Nat × Nat)).contains d) = [] := by
    rw [hl]
    simp
  have hx' : epoch? { s with pun.later := [] } e = some x := hx
  have hesc' : Tab.get? ({ s with pun.later := [] } : State).pun.escrow n = some esc := hesc
  have hdev' : replicaDev { s with pun.later := [] } w = some dev := hdev
  unfold laterResend
  dsimp only
  rw [hgo, hrest]
  unfold each
  rw [List.foldl_cons, List.foldl_nil]
  dsimp only
  rw [hx', hesc, hdev']

theorem laterResend_early (h : ∀ d ∈ s.pun.later, s.time.aon < d.2.2.2 + 100000) : laterResend s = s := by
  have hgo : (s.pun.later.filter fun d => decide (d.2.2.2 + 100000 ≤ s.time.aon)) = [] := by
    rw [List.filter_eq_nil_iff]
    intro d hd
    simpa using h d hd
  have hrest : (s.pun.later.filter fun d => !([] : List (Nat × Nat × Nat × Nat)).contains d) = s.pun.later :=
    List.filter_eq_self.mpr fun _ _ => rfl
  unfold laterResend
  dsimp only
  rw [hgo, hrest]
  rfl

end Resending

/-- Settles O50: digests are compared, kept or answered, verdicts and tidings take effect once, and what is not answered goes
again. -/
theorem digestsAndResending : Obligations.DigestsAndResending := by
  unfold Obligations.DigestsAndResending
  refine ⟨?own, ?other, ?kept, ?verdict, ?tiding, ?tidingOld, ?durable, ?again, ?lost, ?noRequest, ?hello, ?later, ?early⟩
  case own =>
    intro s p m own devs h hmsg hst h1 hv hown
    dsimp only
    refine ⟨?_, ?_, fun heq => ?_⟩
    · refine (msgRow_of_arrives (f := digestRx) h).trans ?_
      rw [digestRx_own (s := taken p m s) hmsg hst h1 hv hown (isOwn_same ..)]
    · rw [(compareDigest_keeps ..).2.2]
      simp only [and_true]
      rfl
    · rw [compareDigest_equal heq rfl]
      exact ⟨rfl, rfl⟩
  case other =>
    intro s p e m own devs x h hmsg hst h1 hv hown hne hnone hx hu hd
    have hdiff : ¬ (own = slice m 64 32 ∧ mEpoch m = e) := fun hn => hne hn.2.symm
    dsimp only
    refine ⟨?_, ?_, compareDigest_diverged (s := taken p m s) hdiff hx⟩
    · refine (msgRow_of_arrives (f := digestRx) h).trans ?_
      rw [digestRx_own (s := taken p m s) hmsg hst h1 hv hown (isOwn_other (s := taken p m s) hnone hx hu hd)]
    · rw [(compareDigest_keeps ..).2.2, if_neg hdiff]
      rfl
  case kept =>
    intro s p m h hmsg hst h1 hv hown hpast hroom
    have hin := digestIn_kept (s := taken p m s) hv hown hpast hst hroom
    refine (msgRow_of_arrives (f := digestRx) h).trans ?_
    rw [digestRx_one (s := taken p m s) hmsg h1 (by rw [hin]; exact hmsg), hin, answerReady_waits rfl rfl rfl]
  case verdict =>
    intro s p m r h hreq ht hp hty hst h1
    have hrow : exec (.digestVerdict p) s = .next (settleAfter (verdictIn (mSrc m) r.epoch (mSector r.msg) (fld m 64 1 % 4)
        { taken p m s with spl.reqs := [] })) := by
      refine (msgRow_of_arrives (f := verdictRx) h).trans ?_
      rw [verdictRx_one (s := taken p m s) hreq ht hp hty hst h1]
    dsimp only
    rw [hrow]
    refine ⟨fun h0 => ?_, fun h1 => ?_, fun h2 => ?_⟩
    · rw [h0, verdictIn_same]
      rfl
    · rw [h1, verdictIn_differ]
      rfl
    · obtain ⟨hesc, hsent, hlater⟩ := verdictIn_later (mSrc m) r.epoch (mSector r.msg) h2 { taken p m s with spl.reqs := [] }
      exact ⟨_, rfl, hesc, hlater, hsent⟩
  case tiding =>
    intro s p m h hk hnew
    refine (msgRow_of_arrives (f := tidingRx) h).trans ?_
    rw [tidingRx_new (s := taken p m s) hk hnew]
    rfl
  case tidingOld =>
    intro s p m h hk hold
    refine (msgRow_of_arrives (f := tidingRx) h).trans ?_
    rw [tidingRx_old (s := taken p m s) hk hold]
  case durable =>
    intro s p m h hk hnew
    refine (msgRow_of_arrives (f := tidingRx) h).trans ?_
    rw [tidingRx_durable (s := taken p m s) hk hnew]
    rfl
  case again =>
    intro s tag p r hrun hf hreq ht h8 hp
    rw [exec_requestTimeout hrun hf, requestTimeout_again hreq ht h8 hp]
    rfl
  case lost =>
    intro s tag r hrun hf hreq ht h8
    rw [exec_requestTimeout hrun hf, requestTimeout_lost hreq ht h8]
  case noRequest =>
    intro s tag h
    change Host.Outcome.next (when (txRuns s && !s.adm.fenced) (requestTimeout tag) s) = _
    rcases h with hf | hnone
    · rw [hf, Bool.not_true, Bool.and_false, when, if_neg Bool.false_ne_true]
    · rw [when, requestTimeout_none hnone, ite_self]
  case hello =>
    intro s d p x hrun hx hp
    rw [exec_helloRepeat hrun, helloRepeat_eq hx hp]
    refine ⟨fun hr hop => ?_, fun hr => by rw [if_pos (Or.inl hr)]⟩
    rw [hr, if_neg (by rintro (h | h); exacts [Bool.false_ne_true h, h hop])]
  case later =>
    intro s e n w t0 dev x esc hrun hl hdue hx hesc hdev
    change Host.Outcome.next (when (txRuns s) laterResend s) = _
    rw [when, if_pos hrun, laterResend_one hl hdue hx hesc hdev]
  case early =>
    intro s h
    change Host.Outcome.next (when (txRuns s) laterResend s) = _
    rw [when, laterResend_early h, ite_self]

end Sys2Proof.Machine
end

section
/-! SUPPORT. Tiles of the tensor taps: START, operand rows and END (R214, R218, R219, R221), and the verdict that the last row sum
gives (R215, R222 to R224). -/

namespace Sys2Proof.Machine

section Verdicts

/-! ### Verdicts driven (R222) -/

variable {s : State} {t : Tile}

/-- The state in which a verdict has been driven and counted. -/
def verdictDriven (id code : Nat) (req : Bool) (s : State) : State :=
  if code = 2 then assayCount 1 1 (assayCount 0 1 { s with asy.verdicts := s.asy.verdicts ++ [⟨id, code, req⟩] })
  else assayCount 0 1 { s with asy.verdicts := s.asy.verdicts ++ [⟨id, code, req⟩] }

/-- A tile that has nothing outstanding. -/
def tileOver (t : Tile) : Bool := t.ended && (t.driven || !t.on) && decide (t.rows ≤ t.sums)

/-- The assay part once the verdict of a checked tile has been driven and the tile has left. -/
def verdictAsy (id code : Nat) (req : Bool) (a : Assay) : Assay :=
  { a with
    tiles := [], verdicts := a.verdicts ++ [⟨id, code, req⟩]
    counts := a.counts.modify 0 fun n => min 0xFFFFFFFF (n + 1) }

theorem verdictDriven_checked {id code : Nat} {req : Bool} (h : code ≠ 2) :
    { verdictDriven id code req s with asy.tiles := [] } = { s with asy := verdictAsy id code req s.asy } := by
  rw [verdictDriven, if_neg h]
  rfl

theorem onlyEvents_withAsy {u : State} (h : onlyEvents s u) (a : Assay) : onlyEvents { s with asy := a } { u with asy := a } := by
  unfold onlyEvents at *
  exact congrArg (fun v : State => { v with asy := a }) h

theorem driveTiles_off {l : List Tile} (h : ∀ t ∈ l, t.on = false) (s : State) : driveTiles l s = (l, s) := by
  induction l with
  | nil => rfl
  | cons t l ih =>
    have ht : (!t.on || t.driven) = true := by rw [h t List.mem_cons_self]; rfl
    rw [driveTiles, if_pos ht, ih fun x hx => h x (List.mem_cons_of_mem _ hx)]

/-- A tile that has no verdict yet, or whose verdict is out, drives none. -/
theorem driveTiles_waits (h : t.verdict = none) (s : State) : driveTiles [t] s = ([t], s) := by
  unfold driveTiles
  split
  · rfl
  · rw [h]

theorem driveTiles_one {code : Nat} {req : Bool} (hon : t.on = true) (hd : t.driven = false) (hv : t.verdict = some (code, req))
    (s : State) : driveTiles [t] s = ([{ t with driven := true }], verdictDriven t.id code req s) := by
  have hno : ¬ (!t.on || t.driven) = true := by simp [hon, hd]
  unfold driveTiles
  rw [if_neg hno, hv]
  dsimp only [driveTiles]
  rfl

theorem settleTiles_eq (s : State) : settleTiles s = { (driveTiles s.asy.tiles s).2 with
    asy.tiles := (driveTiles s.asy.tiles s).1.filter fun t => !tileOver t } := rfl

theorem settleTiles_waits (ht : s.asy.tiles = [t]) (hv : t.verdict = none) (hover : tileOver t = false) : settleTiles s = s := by
  have hkeep : ([t] : List Tile).filter (fun t => !tileOver t) = s.asy.tiles := by
    rw [ht]
    simp [hover]
  rw [settleTiles_eq, ht, driveTiles_waits hv]
  dsimp only
  rw [hkeep]

theorem settleTiles_drives {code : Nat} {req : Bool} (ht : s.asy.tiles = [t]) (hon : t.on = true) (hd : t.driven = false)
    (hv : t.verdict = some (code, req)) : settleTiles s = { verdictDriven t.id code req s with
      asy.tiles := [{ t with driven := true }].filter fun t => !tileOver t } := by
  rw [settleTiles_eq, ht, driveTiles_one hon hd hv]

/-- A tile that has everything leaves with its verdict. -/
theorem settleTiles_ends {code : Nat} {req : Bool} (ht : s.asy.tiles = [t]) (hon : t.on = true) (hd : t.driven = false)
    (hv : t.verdict = some (code, req)) (he : t.ended = true) (hsums : t.rows ≤ t.sums) :
    settleTiles s = { verdictDriven t.id code req s with asy.tiles := [] } := by
  have hover : tileOver { t with driven := true } = true := by
    unfold tileOver
    rw [he, decide_eq_true hsums]
    rfl
  rw [settleTiles_drives ht hon hd hv, List.filter_cons, hover]
  rfl

end Verdicts

section TileWords

/-! ### START, operand rows and END -/

variable {s : State} {w : W64}

theorem closeOpen_of_ended (h : ∀ t ∈ s.asy.tiles, t.ended = true) : closeOpen s = s := by
  have hnone : (s.asy.tiles.find? fun t => !t.ended) = none := by
    rw [List.find?_eq_none]
    intro t ht
    simp [h t ht]
  rw [closeOpen, hnone]

theorem readHandle_of_clean {h : Nat} (hm : ∀ e ∈ s.flt.merge, e.store ≠ 6) (hc : corrupted s 6 (· == h) = [])
    (lost : Nat → State → State) : readLanes 6 (· == h) lost s = s := by
  have hnone : (s.flt.merge.filter fun e => e.store == 6 && e.lane == h) = [] := by
    rw [List.filter_eq_nil_iff]
    intro e he
    simp [hm e he]
  rw [readLanes, mergeDrain, hnone, each_nil, hc, each_nil]

/-- The rows that a START of a replay captures (R223). -/
def capturedRows (w : W64) (s : State) : List Nat :=
  if twReplay w && assayCtl s 3 then ((s.asy.failed.find? fun f => f.id == twTile w).map (·.rows)).getD [] else []

/-- The tile that a START opens. -/
def startedTile (w : W64) (on skip : Bool) (s : State) : Tile :=
  { id := twTile w, handle := twHandle w, fmt := twFmt w, replay := twReplay w, dual := twDual w, ctl := sh s 0x700, on
    slices := slicesIn s, rot := ((handle? s (twHandle w)).map (·.rot)).getD 0, skip, capture := capturedRows w s }

section Start

variable (hop : twOp w = 0) (hon : assayCtl s 0 = true) (hend : ∀ t ∈ s.asy.tiles, t.ended = true)
  (hm : ∀ e ∈ s.flt.merge, e.store ≠ 6) (hc : corrupted s 6 (· == twHandle w) = [])

include hop hon hend hm hc

/-- A START without an error, where enough slices are in service, opens its tile. -/
theorem tileStart_opens (herr : startError w s = none) (hslices : checked (slicesIn s).length (twFmt w) (twTile w) = true) :
    tileStart w s = nameHandle (twHandle w) (onTiles (fun l => l ++ [startedTile w true false s]) s) := by
  unfold tileStart
  rw [if_neg (not_not.mpr hop), closeOpen_of_ended hend, readHandle_of_clean hm hc]
  dsimp only
  rw [hon, if_pos rfl, herr, hslices]
  rfl

/-- A START with an error opens a tile that is skipped. -/
theorem tileStart_refused {c : Nat} (herr : startError w s = some c) : tileStart w s = tapProtocol (twTile w) c
    (nameHandle (twHandle w) (onTiles (fun l => l ++ [startedTile w true true s]) s)) := by
  unfold tileStart
  rw [if_neg (not_not.mpr hop), closeOpen_of_ended hend, readHandle_of_clean hm hc]
  dsimp only
  rw [hon, if_pos rfl, herr]
  rfl

end Start

theorem startError_none {h : Handle} (hbad : twBad w = false) (hfew : (s.asy.tiles.filter fun t => t.on).length < 4)
    (hh : handle? s (twHandle w) = some h) (hf : h.fmt = twFmt w) : startError w s = none := by
  have hno : ¬ ((handle? s (twHandle w)).all fun h => h.fmt != twFmt w) = true := by
    rw [hh]
    simp [hf]
  rw [startError, hbad, if_neg Bool.false_ne_true, if_neg (not_le.mpr hfew), if_neg hno]

theorem startError_some (h : twBad w = true ∨ (s.asy.tiles.filter fun t => t.on).length < 4 ∧
      (∀ h, handle? s (twHandle w) = some h → h.fmt ≠ twFmt w)) :
    startError w s = some (if twBad w = true then 3 else 1) := by
  by_cases hbad : twBad w = true
  · rw [startError, if_pos hbad, if_pos hbad]
  · obtain ⟨hfew, hh⟩ := h.resolve_left hbad
    have hyes : ((handle? s (twHandle w)).all fun h => h.fmt != twFmt w) = true := by
      cases ho : handle? s (twHandle w) with
      | none => rfl
      | some h => simpa using hh h ho
    rw [startError, if_neg hbad, if_neg (not_le.mpr hfew), if_pos hyes, if_neg hbad]

theorem exec_tileStart (hrun : tapsRun s = true) : exec (.tileStart w) s = .next (tileStart w s) := by
  change Host.Outcome.next (when (tapsRun s) (tileStart w) s) = _
  rw [when, if_pos hrun]

theorem updWhere_head {α : Type} {q : α → Bool} {f : α → α} {a : α} {l : List α} (ha : q a = true) (hl : ∀ y ∈ l, q y = false) :
    updWhere q f (a :: l) = f a :: l := by
  have htail : l.map (fun x => if q x then f x else x) = l :=
    (List.map_congr_left fun y hy => if_neg (by rw [hl y hy]; exact Bool.false_ne_true)).trans (List.map_id _)
  unfold updWhere
  rw [List.map_cons, htail, if_pos ha]

/-- The open tile of a list whose other tiles have ended. -/
theorem updWhere_open {t x : Tile} {rest : List Tile} (h : t.ended = false) (hrest : ∀ y ∈ rest, y.ended = true) :
    updWhere (fun y : Tile => !y.ended) (fun _ => x) (t :: rest) = x :: rest :=
  updWhere_head (by rw [h]; rfl) fun y hy => by rw [hrest y hy]; rfl

theorem find_open {t : Tile} {rest : List Tile} (ht : s.asy.tiles = t :: rest) (h : t.ended = false) :
    (s.asy.tiles.find? fun t => !t.ended) = some t := by
  rw [ht, List.find?_cons, h]
  rfl

theorem addRow_eq {d e : Bytes} {r : Byte} {h : Handle} {t : Tile} (hcap : t.capture = [])
    (hshift : badShift ((tapExps e).take (kRows t.fmt / 32)) (sext 8 r.toNat) = false) :
    addRow d e r h t s = ({ t with
      rows := t.rows + 1
      rhs := t.rhs ++ [rowParts (elems (fmtWidth t.fmt) (slice d 0 1024)) ((tapExps e).take (kRows t.fmt / 32)) (sext 8 r.toNat) h.w]
      sig := crcFold t.sig (slice d 0 1024 ++ slice e 0 128 ++ [r]) }, s) := by
  unfold addRow
  dsimp only
  rw [hshift, hcap, if_neg Bool.false_ne_true]
  rfl

theorem operandRow_adds {d e : Bytes} {r : Byte} {t : Tile} {rest : List Tile} {h : Handle} (ht : s.asy.tiles = t :: rest)
    (hopen : t.ended = false) (hon : t.on = true) (hskip : t.skip = false)
    (hh : handle? s t.handle = some h) :
    operandRow d e r s = { (addRow d e r h t s).2 with
      asy.tiles := updWhere (fun y : Tile => !y.ended) (fun _ => (addRow d e r h t s).1) (addRow d e r h t s).2.asy.tiles } := by
  have hyes : (t.on && !t.skip) = true := by rw [hon, hskip]; rfl
  unfold operandRow
  rw [find_open ht hopen]
  dsimp only
  rw [hh]
  dsimp only
  rw [if_pos hyes]
  rfl

theorem operandRow_of_ended {d e : Bytes} {r : Byte} (h : ∀ t ∈ s.asy.tiles, t.ended = true) : operandRow d e r s = s := by
  have hnone : (s.asy.tiles.find? fun t => !t.ended) = none := by
    rw [List.find?_eq_none]
    intro t ht
    simp [h t ht]
  rw [operandRow, hnone]

/-- The error of an END. -/
def endError (w : W64) (t : Tile) : Option Nat :=
  if !t.on || t.skip then none else if twBad w then some 3 else if t.rows = 0 ∨ 1048576 < t.rows then some 2 else none

/-- A tile that its END has closed. -/
def endedTile (w : W64) (t : Tile) : Tile :=
  if t.on && (t.skip || (endError w t).isSome) then skipTile { t with ended := true } else { t with ended := true }

/-- An END without an error, of a tile that has not everything yet, closes it. -/
theorem tileEnd_settles {t : Tile} (hop : twOp w = 1) (ht : s.asy.tiles = [t]) (hopen : t.ended = false) (hid : t.id = twTile w)
    (herr : endError w t = none) (hready : tileReady (endedTile w t) = false) :
    tileEnd w s = settleTiles { s with asy.tiles := [endedTile w t] } := by
  have hfind : (s.asy.tiles.find? fun t => !t.ended && t.id == twTile w) = some t := by
    rw [ht]
    simp [hopen, hid]
  have hput : updWhere (fun y => !y.ended) (fun _ => endedTile w t) s.asy.tiles = [endedTile w t] := by
    rw [ht, updWhere_open hopen (by simp)]
  have heq : tileEnd w s = if twOp w ≠ 1 then s else match s.asy.tiles.find? fun t => !t.ended && t.id == twTile w with
    | none => s
    | some t =>
      let u := onTiles (updWhere (fun y => !y.ended) fun _ => endedTile w t) s
      let v := match endError w t with
        | some c => tapProtocol t.id c u
        | none => u
      if tileReady (endedTile w t) then decideTile (endedTile w t) v else settleTiles v := rfl
  rw [heq, if_neg (not_not.mpr hop), hfind]
  dsimp only
  rw [herr, hready, if_neg Bool.false_ne_true, onTiles, hput]

theorem exec_tileEnd (hrun : tapsRun s = true) : exec (.tileEnd w) s = .next (tileEnd w s) := by
  change Host.Outcome.next (when (tapsRun s) (tileEnd w) s) = _
  rw [when, if_pos hrun]

end TileWords

section RowSums

/-! ### One row compared (R215, R224) -/

variable {s : State} {t : Tile} {sums ps : List W32}

theorem computeOn_nil (slices : List Nat) (rot : Nat) (parts : List W32) (s : State) :
    computeOn slices rot [] parts s = (parts, s) := rfl

theorem computeOn_free (slices : List Nat) (rot : Nat) (faulty : List Nat) (parts : List W32) (s : State) :
    ∃ n, (computeOn slices rot faulty parts s).2 = { s with time.free := n } := by
  unfold computeOn
  split
  · exact ⟨_, rfl⟩
  · exact ⟨_, rfl⟩

theorem badGroup_free (slices : List Nat) (rot : Nat) (faulty : List Nat) (l : List (List W32)) (g : Nat) (s : State) :
    ∃ n, (badGroup slices rot faulty sums g l s).2 = { s with time.free := n } := by
  induction l generalizing g s with
  | nil => exact ⟨_, rfl⟩
  | cons p l ih =>
    obtain ⟨n, hn⟩ := computeOn_free slices rot faulty p s
    unfold badGroup
    dsimp only
    split
    · obtain ⟨k, hk⟩ := ih (g + 1) (computeOn slices rot faulty p s).2
      exact ⟨k, by rw [hk, hn]⟩
    · exact ⟨n, hn⟩

/-- A tile whose next row has been compared. -/
def rowDone (sums : List W32) (t : Tile) (fails : List RowFail) : Tile :=
  { t with
    sums := t.sums + 1, rhs := t.rhs.drop 1, sig := crcFold t.sig ((sums.take 16).flatMap fun x => toLE 4 x.toNat), fails }

theorem compareRow_agrees (hrhs : t.rhs = [ps]) (heq : (sums.take 16).foldl (· + ·) 0 = ps.foldl (· + ·) 0) :
    compareRow sums [] t s = (rowDone sums t t.fails, s) := by
  have hbad : (sumW ps != sumW (sums.take 16) || sumW ps != sumW (sums.take 16)) = false := by
    rw [sumW, sumW, heq]
    simp
  unfold compareRow rowDone
  dsimp only
  rw [hrhs, List.headD_cons, computeOn_nil]
  dsimp only
  rw [hbad]
  cases Tab.get? t.groups t.sums <;> rfl

/-- The failing row of a tile: the parts of R_i, what the slices computed first, and the array's sum. -/
def failedRow (sums ps first : List W32) (faulty : List Nat) (group : Nat) (t : Tile) : RowFail :=
  { row := t.sums, parts := ps, first, total := sumW (sums.take 16), faulty, group }

theorem compareRow_differs (faulty : List Nat) (hrhs : t.rhs = [ps]) (hfails : t.fails = [])
    (hne : (sums.take 16).foldl (· + ·) 0 ≠ ps.foldl (· + ·) 0) :
    ∃ g n, compareRow sums faulty t s =
      (rowDone sums t [failedRow sums ps (computeOn t.slices t.rot faulty ps s).1 faulty g t], { s with time.free := n }) := by
  have hbad : (sumW (computeOn t.slices t.rot faulty ps s).1 != sumW (sums.take 16) || sumW ps != sumW (sums.take 16)) = true := by
    have hne' : (sumW ps != sumW (sums.take 16)) = true := by simpa [sumW] using Ne.symm hne
    rw [hne', Bool.or_true]
  obtain ⟨n, hn⟩ := computeOn_free t.slices t.rot faulty ps s
  cases hg : Tab.get? t.groups t.sums with
  | none =>
    refine ⟨0xF0, n, ?_⟩
    unfold compareRow rowDone
    dsimp only
    rw [hrhs, List.headD_cons, hbad, hg, hfails]
    exact Prod.ext rfl hn
  | some l =>
    obtain ⟨k, hk⟩ := badGroup_free (sums := sums) t.slices (t.rot + 1) faulty l 0 (computeOn t.slices t.rot faulty ps s).2
    refine ⟨(badGroup t.slices (t.rot + 1) faulty sums 0 l (computeOn t.slices t.rot faulty ps s).2).1, k, ?_⟩
    unfold compareRow rowDone
    dsimp only
    rw [hrhs, List.headD_cons, hbad, hg, hfails]
    exact Prod.ext rfl (hk.trans (by rw [hn]))

/-! ### The verdict of the last row -/

/-- The state in which the last row of the only tile has been compared. -/
def rowTaken (t t' : Tile) (n : Nat) (s : State) : State :=
  { s with asy.lastSum := t.id, asy.tiles := [t'], time.free := n }

/-- What the last row sum of the only tile finds: the tile runs, is checked and has ended, and one sum is left. -/
def lastRow (s : State) (t : Tile) (ps : List W32) : Prop :=
  s.asy.tiles = [t] ∧ t.on = true ∧ t.skip = false ∧ t.ended = true ∧ t.verdict = none ∧ t.driven = false ∧
    t.rows = t.sums + 1 ∧ t.rhs = [ps] ∧ t.fails = []

theorem rowSum_last {faulty : List Nat} {fails : List RowFail} {n : Nat} (h : lastRow s t ps)
    (hcmp : compareRow sums faulty t { s with asy.lastSum := t.id } =
      (rowDone sums t fails, { s with asy.lastSum := t.id, time.free := n })) :
    rowSum sums faulty s = decideTile (rowDone sums t fails) (rowTaken t (rowDone sums t fails) n s) := by
  obtain ⟨ht, hon, hskip, hend, hv, -, hrows, -, -⟩ := h
  have hfind : (s.asy.tiles.find? fun t => decide (t.sums < t.rows)) = some t := by
    rw [ht, List.find?_cons, decide_eq_true (by omega)]
  have hyes : (t.on && !t.skip) = true := by rw [hon, hskip]; rfl
  have hready : tileReady (rowDone sums t fails) = true := by
    simp [tileReady, rowDone, hon, hskip, hend, hv, hrows]
  have hput : updWhere (fun x => x == t) (fun _ => rowDone sums t fails) s.asy.tiles = [rowDone sums t fails] := by
    rw [ht]
    simp [updWhere]
  unfold rowSum
  rw [hfind]
  dsimp only
  rw [if_pos hyes, hcmp]
  dsimp only [onTiles]
  rw [if_pos hready, hput]
  rfl

/-- The verdict of the only tile, without a dual run: it is driven, and the tile leaves. -/
theorem decideTile_one (ht : (rowVerdict t s).2.asy.tiles = [t]) (hon : t.on = true) (hd : t.driven = false) (he : t.ended = true)
    (hsums : t.rows ≤ t.sums) (hdual : bit t.ctl 2 = false) :
    decideTile t s = { verdictDriven t.id (rowVerdict t s).1.1 (rowVerdict t s).1.2 (rowVerdict t s).2 with asy.tiles := [] } := by
  have hcheck : dualCheck t s = (false, s) := by rw [dualCheck, hdual]; rfl
  have hput : updWhere (fun x => x == t) (fun x : Tile => { x with verdict := some (rowVerdict t s).1 })
      (rowVerdict t s).2.asy.tiles = [{ t with verdict := some (rowVerdict t s).1 }] := by
    rw [ht]
    simp [updWhere]
  unfold decideTile
  rw [hcheck]
  dsimp only
  rw [if_neg Bool.false_ne_true, settleTiles_ends (t := { t with verdict := some (rowVerdict t s).1 }) hput hon hd rfl he hsums]
  unfold verdictDriven
  split <;> rfl

theorem asy_mismatch (tile row group cls : Nat) (s : State) : (mismatch tile row group cls s).asy = s.asy :=
  asy_onlyEvents (raise0_events ..)

theorem rowVerdict_pass (hr : t.replay = false) (hf : t.fails = []) : rowVerdict t s = ((0, false), s) := by
  rw [rowVerdict, hr, hf]
  rfl

theorem rowVerdict_fail {r : RowFail} (hr : t.replay = false) (hf : t.fails = [r]) :
    rowVerdict t s = ((1, true), firstFail t r.row s) := by
  rw [rowVerdict, hr, hf]
  rfl

/-- The state in which a tile waits as failed. -/
def failureKept (t : Tile) (s : State) : State :=
  { s with asy.failed := (s.asy.failed.filter fun f => f.id != t.id) ++ [⟨t.id, 0, t.fails.map (·.row)⟩] }

/-- With fewer than four failed tiles none is evicted. -/
theorem firstFail_few (row : Nat) (h : (s.asy.failed.filter fun f => f.id != t.id).length < 4) :
    firstFail t row s = mismatch t.id row 0xF0 0 (failureKept t s) := by
  have hkeep : (match (dropFailed t.id s).asy.failed with
      | f :: rest => if 4 ≤ (dropFailed t.id s).asy.failed.length then
          mismatch f.id (f.rows.headD 0) 0xF0 3 (assayCount 3 1 { dropFailed t.id s with asy.failed := rest }) else dropFailed t.id s
      | [] => dropFailed t.id s) = dropFailed t.id s := by
    split
    · exact if_neg (not_le.mpr h)
    · rfl
  have heq : firstFail t row s = (fun u : State => mismatch t.id row 0xF0 0
      { u with asy.failed := u.asy.failed ++ [⟨t.id, 0, t.fails.map (·.row)⟩] })
      (match (dropFailed t.id s).asy.failed with
      | f :: rest => if 4 ≤ (dropFailed t.id s).asy.failed.length then
          mismatch f.id (f.rows.headD 0) 0xF0 3 (assayCount 3 1 { dropFailed t.id s with asy.failed := rest }) else dropFailed t.id s
      | [] => dropFailed t.id s) := rfl
  rw [heq, hkeep]
  rfl

section Replay

variable {f : Failed} {rest : List Failed} (hfailed : s.asy.failed = f :: rest) (hid : f.id = t.id) (hrest : ∀ g ∈ rest, g.id ≠ t.id)

include hfailed hid

theorem find_failed : (s.asy.failed.find? fun f => f.id == t.id) = some f := by
  rw [hfailed, List.find?_cons, hid, beq_self_eq_true]

include hrest in
theorem dropFailed_eq : dropFailed t.id s = { s with asy.failed := rest } := by
  have htail : rest.filter (fun f => f.id != t.id) = rest := List.filter_eq_self.mpr fun g hg => by simpa using hrest g hg
  rw [dropFailed, hfailed, List.filter_cons, hid, bne_self_eq_false, if_neg Bool.false_ne_true, htail]

include hrest in
theorem rowVerdict_replayed (hr : t.replay = true) (hf : t.fails = []) :
    rowVerdict t s = ((0, false), mismatch t.id (f.rows.headD 0) 0xF0 1 (assayCount 2 1 { s with asy.failed := rest })) := by
  rw [rowVerdict, hr, hf, if_pos rfl, find_failed hfailed hid]
  dsimp only
  rw [dropFailed_eq hfailed hid hrest]

include hrest in
theorem rowVerdict_again {r : RowFail} (hr : t.replay = true) (hf : t.fails = [r]) (hlim : f.replays + 1 < bits t.ctl 5 4) :
    rowVerdict t s = ((1, true), { s with asy.failed := ⟨t.id, f.replays + 1, [r.row]⟩ :: rest }) := by
  have hupd : updWhere (fun x : Failed => x.id == t.id) (fun _ => ⟨t.id, f.replays + 1, [r].map (·.row)⟩) s.asy.failed =
      ⟨t.id, f.replays + 1, [r.row]⟩ :: rest := by
    rw [hfailed]
    exact updWhere_head (by rw [hid]; exact beq_self_eq_true _) fun g hg => by simpa using hrest g hg
  rw [rowVerdict, hr, hf, if_pos rfl, find_failed hfailed hid]
  dsimp only
  rw [if_pos hlim, hupd]

theorem rowVerdict_limit {r : RowFail} (hr : t.replay = true) (hf : t.fails = [r]) (hlim : bits t.ctl 5 4 ≤ f.replays + 1) :
    rowVerdict t s = atLimit t s := by
  rw [rowVerdict, hr, hf, if_pos rfl, find_failed hfailed hid]
  dsimp only
  rw [if_neg (not_lt.mpr hlim)]

end Replay

/-- A row that the array has wrong, by slices that compute right, fails on every slice set. -/
theorem recompute_wrong {r : RowFail} (hfaulty : r.faulty = []) (hfirst : r.first = r.parts) (hne : sumW r.parts ≠ r.total) :
    recompute t r s = (true, s) := by
  unfold recompute
  split
  · rfl
  · rw [hfaulty, computeOn_nil]
    dsimp only
    rw [if_pos hfirst.symm]
    refine Prod.ext ?_ rfl
    simp [hne]

theorem atLimit_persistent {r : RowFail} (hf : t.fails = [r]) (hfaulty : r.faulty = []) (hfirst : r.first = r.parts)
    (hne : sumW r.parts ≠ r.total) : atLimit t s = persistent t r (dropFailed t.id s) := by
  have hstill : stillFailing t [r] (dropFailed t.id s) = ([r], dropFailed t.id s) := by
    rw [stillFailing, recompute_wrong hfaulty hfirst hne]
    rfl
  unfold atLimit
  rw [hf, hstill]

theorem exec_rowSum {faulty : List Nat} (hrun : tapsRun s = true) : exec (.rowSum sums faulty) s = .next (rowSum sums faulty s) := by
  change Host.Outcome.next (when (tapsRun s) (rowSum sums faulty) s) = _
  rw [when, if_pos hrun]

/-- The last row of a tile decides it. -/
theorem rowSum_decides {faulty : List Nat} {fails : List RowFail} {n : Nat} (h : lastRow s t ps) (hdual : bit t.ctl 2 = false)
    (hcmp : compareRow sums faulty t { s with asy.lastSum := t.id } =
      (rowDone sums t fails, { s with asy.lastSum := t.id, time.free := n }))
    {code : Nat} {req : Bool} {u : State} (hver : rowVerdict (rowDone sums t fails) (rowTaken t (rowDone sums t fails) n s) =
      ((code, req), u)) (htiles : u.asy.tiles = [rowDone sums t fails]) (hcode : code ≠ 2) :
    rowSum sums faulty s = { u with asy := verdictAsy t.id code req u.asy } := by
  obtain ⟨-, hon, -, hend, -, hd, hrows, -, -⟩ := id h
  have hdecide := decideTile_one (t := rowDone sums t fails) (s := rowTaken t (rowDone sums t fails) n s) (by rw [hver]; exact htiles) hon hd hend
    (le_of_eq hrows) hdual
  rw [rowSum_last h hcmp, hdecide, hver]
  exact verdictDriven_checked hcode

/-! ### A row sum too many (R221) -/

theorem rowSum_surplus {faulty : List Nat} (ht : s.asy.tiles = [t]) (hopen : t.ended = false) (hon : t.on = true)
    (hskip : t.skip = false) (hle : t.rows ≤ t.sums) :
    rowSum sums faulty s = raise0 0x0706 1 (t.id + 2 ^ 32 * 2)
      { s with asy.tiles := [{ t with sums := t.sums + 1, skip := true, verdict := none }] } := by
  have hnone : (s.asy.tiles.find? fun t => decide (t.sums < t.rows)) = none := by
    rw [ht]
    simp [hle]
  have hyes : (t.on && !t.skip) = true := by rw [hon, hskip]; rfl
  have hput : updWhere (fun x : Tile => !x.ended) (fun x => skipTile { x with sums := x.sums + 1 }) s.asy.tiles =
      [{ t with sums := t.sums + 1, skip := true, verdict := none }] := by
    rw [ht]
    simp [updWhere, skipTile, hopen]
  rw [rowSum, hnone]
  dsimp only
  rw [surplusSum, find_open ht hopen]
  dsimp only
  rw [if_pos hyes, onTiles, hput]
  rfl

theorem rowSum_noTile {faulty : List Nat} (ht : s.asy.tiles = []) (hon : assayCtl s 0 = true) :
    rowSum sums faulty s = raise0 0x0706 1 (s.asy.lastSum + 2 ^ 32 * 2) s := by
  have hnone (q : Tile → Bool) : s.asy.tiles.find? q = none := by rw [ht]; rfl
  rw [rowSum, hnone]
  dsimp only
  rw [surplusSum, hnone]
  exact if_pos hon

/-- A row sum of a tile that ENABLE did not let in is only counted. -/
theorem rowSum_off {rest : List Tile} (ht : s.asy.tiles = t :: rest) (hon : t.on = false) (hlt : t.sums + 1 < t.rows)
    (hmem : t ∉ rest) (hrest : ∀ x ∈ rest, x.on = false ∧ x.ended = false) :
    rowSum sums [] s = { s with asy.lastSum := t.id, asy.tiles := { t with sums := t.sums + 1 } :: rest } := by
  have hfind : (s.asy.tiles.find? fun t => decide (t.sums < t.rows)) = some t := by
    rw [ht, List.find?_cons, decide_eq_true (by omega)]
  have hno : ¬ (t.on && !t.skip) = true := by rw [hon]; exact Bool.false_ne_true
  have hready : ¬ tileReady { t with sums := t.sums + 1 } = true := by simp [tileReady, hon]
  have hput : updWhere (fun x => x == t) (fun _ => { t with sums := t.sums + 1 }) s.asy.tiles =
      { t with sums := t.sums + 1 } :: rest := by
    rw [ht]
    refine updWhere_head (beq_self_eq_true t) fun x hx => ?_
    have hxt : x ≠ t := fun h => hmem (by rwa [h] at hx)
    simpa using hxt
  have hoff : ∀ x ∈ { t with sums := t.sums + 1 } :: rest, x.on = false := by
    intro x hx
    rcases List.mem_cons.mp hx with rfl | hx
    · exact hon
    · exact (hrest x hx).1
  have hkeep : ({ t with sums := t.sums + 1 } :: rest).filter (fun t => !tileOver t) = { t with sums := t.sums + 1 } :: rest := by
    rw [List.filter_eq_self]
    intro x hx
    rcases List.mem_cons.mp hx with rfl | hx
    · simp [tileOver, hlt]
    · simp [tileOver, (hrest x hx).2]
  unfold rowSum
  rw [hfind]
  dsimp only
  rw [if_neg hno]
  dsimp only [onTiles]
  rw [if_neg hready, hput, settleTiles_eq]
  dsimp only
  rw [driveTiles_off hoff, hkeep]

/-- Of three values of a block, two that agree show the odd one's slice; where none agree all three are suspected (R224). -/
theorem disagree_spec (slices : List Nat) (rot b : Nat) {x y : W32} (z : W32) (hxy : x ≠ y) :
    (∀ k ∈ disagree slices rot b x y z, k ∈ [sliceOf slices rot b, sliceOf slices (rot + 1) b, sliceOf slices (rot + 2) b]) ∧
    (z = y → disagree slices rot b x y z = [sliceOf slices rot b]) ∧
    (z = x → disagree slices rot b x y z = [sliceOf slices (rot + 1) b]) ∧
    (z ≠ x → z ≠ y → (disagree slices rot b x y z).length = 3) := by
  have hzx (h : z = x) : z ≠ y := fun hn => hxy (h.symm.trans hn)
  refine ⟨?_, fun h => by rw [disagree, if_neg hxy, if_pos h], fun h => by rw [disagree, if_neg hxy, if_neg (hzx h), if_pos h],
    fun h h' => by rw [disagree, if_neg hxy, if_neg h', if_neg h]; rfl⟩
  rw [disagree, if_neg hxy]
  intro k hk
  split at hk
  · exact List.mem_cons.mpr (.inl (List.mem_singleton.mp hk))
  · split at hk
    · exact List.mem_cons.mpr (.inr (List.mem_cons.mpr (.inl (List.mem_singleton.mp hk))))
    · exact hk

end RowSums

/-- Settles O51: START, operand rows and END open and close a tile, and its last row sum gives its verdict, a replay or its end. -/
theorem tileVerdicts : Obligations.TileVerdicts := by
  unfold Obligations.TileVerdicts
  refine ⟨?start, ?refused, ?row, ?noRow, ?close, ?closeSkipped, ?pass, ?fail, ?replayed, ?replayFails, ?surplus, ?noTile, ?slices,
    ?off⟩
  case start =>
    intro s w h hrun hon hop hbad hrep hend hfew hh hf hm hc hslices
    have hcap : capturedRows w s = [] := by rw [capturedRows, hrep]; rfl
    rw [exec_tileStart hrun, tileStart_opens hop hon hend hm hc (startError_none hbad hfew hh hf) hslices]
    unfold startedTile
    rw [hcap, hh, hrep]
    rfl
  case refused =>
    intro s w hrun hon hop hend hm hc herr
    rw [exec_tileStart hrun, tileStart_refused hop hon hend hm hc (startError_some herr)]
    exact ⟨_, startedTile w true true s, rfl, rfl, rfl, rfl, rfl, rfl, rfl, rfl, rfl, rfl⟩
  case row =>
    intro s d e r t rest h hrun ht hopen hrest hon hskip hh hcap hshift
    change Host.Outcome.next (when (tapsRun s) (operandRow d e r) s) = _
    rw [when, if_pos hrun, operandRow_adds ht hopen hon hskip hh, addRow_eq hcap hshift]
    dsimp only
    rw [ht, updWhere_open hopen hrest]
  case noRow =>
    intro s d e r h
    change Host.Outcome.next (when (tapsRun s) (operandRow d e r) s) = _
    rw [when, operandRow_of_ended h, ite_self]
  case close =>
    intro s w t hrun hop hbad ht hopen hid hon hskip h0 hmax hsums hv
    have herr : endError w t = none := by simp [endError, hon, hskip, hbad, h0, not_lt.mpr hmax]
    have hended : endedTile w t = { t with ended := true } := by
      rw [endedTile, herr, hskip, Option.isSome_none, Bool.or_false, Bool.and_false, if_neg Bool.false_ne_true]
    have hready : tileReady (endedTile w t) = false := by
      rw [hended]
      simp [tileReady, Nat.ne_of_lt hsums]
    have hover : tileOver { t with ended := true } = false := by simp [tileOver, hsums]
    rw [exec_tileEnd hrun, tileEnd_settles hop ht hopen hid herr hready, hended,
      settleTiles_waits (t := { t with ended := true }) rfl hv hover]
  case closeSkipped =>
    intro s w t hrun hop ht hopen hid hon hskip hd
    have herr : endError w t = none := by simp [endError, hskip]
    have hended : endedTile w t = skipTile { t with ended := true } := by
      rw [endedTile, hon, hskip]
      rfl
    have hready : tileReady (endedTile w t) = false := by
      rw [hended]
      simp [tileReady, skipTile]
    rw [exec_tileEnd hrun, tileEnd_settles hop ht hopen hid herr hready, hended,
      settleTiles_drives (t := skipTile { t with ended := true }) rfl hon hd rfl]
    exact ⟨_, rfl, rfl, rfl⟩
  case pass =>
    intro s sums ps t hrun ht hon hskip hend hv hd hrows hrhs hfails hrep hdual heq
    have hlast : lastRow s t ps := ⟨ht, hon, hskip, hend, hv, hd, hrows, hrhs, hfails⟩
    have hcmp := compareRow_agrees (s := { s with asy.lastSum := t.id }) hrhs heq
    have hver := rowVerdict_pass (t := rowDone sums t t.fails) (s := rowTaken t (rowDone sums t t.fails) s.time.free s) hrep hfails
    rw [exec_rowSum hrun, rowSum_decides (n := s.time.free) hlast hdual hcmp hver rfl (by decide)]
    rfl
  case fail =>
    intro s sums ps faulty t hrun ht hon hskip hend hv hd hrows hrhs hfails hrep hdual hne hfew
    have hlast : lastRow s t ps := ⟨ht, hon, hskip, hend, hv, hd, hrows, hrhs, hfails⟩
    obtain ⟨g, n, hcmp⟩ := compareRow_differs (s := { s with asy.lastSum := t.id }) faulty hrhs hfails hne
    generalize hrow : failedRow sums ps (computeOn t.slices t.rot faulty ps { s with asy.lastSum := t.id }).1 faulty g t = row at hcmp
    have hpos : row.row = t.sums := by rw [← hrow]; rfl
    have hver := rowVerdict_fail (t := rowDone sums t [row]) (s := rowTaken t (rowDone sums t [row]) n s) hrep rfl
    rw [firstFail_few (t := rowDone sums t [row]) (s := rowTaken t (rowDone sums t [row]) n s) _ hfew] at hver
    have hev : onlyEvents (failureKept (rowDone sums t [row]) (rowTaken t (rowDone sums t [row]) n s))
      (mismatch t.id row.row 0xF0 0 (failureKept (rowDone sums t [row]) (rowTaken t (rowDone sums t [row]) n s))) :=
      raise0_events ..
    change _ = (_, mismatch t.id row.row 0xF0 0 (failureKept (rowDone sums t [row]) (rowTaken t (rowDone sums t [row]) n s))) at hver
    generalize mismatch t.id row.row 0xF0 0 (failureKept (rowDone sums t [row]) (rowTaken t (rowDone sums t [row]) n s)) = u
      at hver hev
    have hasy := asy_onlyEvents hev
    have hfree : u.time.free = n := by
      unfold onlyEvents at hev
      rw [hev]
      rfl
    rw [exec_rowSum hrun, rowSum_decides hlast hdual hcmp hver (by rw [hasy]; rfl) (by decide)]
    refine ⟨_, rfl, ?_, ?_⟩
    · dsimp only
      rw [hasy, ← hpos]
      rfl
    · dsimp only
      rw [hfree]
      exact onlyEvents_withAsy hev _
  case replayed =>
    intro s sums ps t f rest hrun ht hon hskip hend hv hd hrows hrhs hfails hrep hfailed hid hrest hdual heq
    have hlast : lastRow s t ps := ⟨ht, hon, hskip, hend, hv, hd, hrows, hrhs, hfails⟩
    have hcmp := compareRow_agrees (s := { s with asy.lastSum := t.id }) hrhs heq
    have hver := rowVerdict_replayed (t := rowDone sums t t.fails) (s := rowTaken t (rowDone sums t t.fails) s.time.free s)
      hfailed hid hrest hrep hfails
    rw [exec_rowSum hrun, rowSum_decides (n := s.time.free) hlast hdual hcmp hver (by rw [asy_mismatch]; rfl) (by decide)]
    rw [asy_mismatch]
    exact ⟨_, rfl, rfl, rfl, rfl⟩
  case replayFails =>
    intro s sums ps t f rest hrun ht hon hskip hend hv hd hrows hrhs hfails hrep hfailed hid hrest hdual hne
    have hlast : lastRow s t ps := ⟨ht, hon, hskip, hend, hv, hd, hrows, hrhs, hfails⟩
    obtain ⟨g, n, hcmp⟩ := compareRow_differs (s := { s with asy.lastSum := t.id }) [] hrhs hfails hne
    rw [computeOn_nil] at hcmp
    rw [exec_rowSum hrun]
    refine ⟨fun hlim => ?_, fun hlim => ?_⟩
    · have hver := rowVerdict_again (t := rowDone sums t [failedRow sums ps ps [] g t])
        (s := rowTaken t (rowDone sums t [failedRow sums ps ps [] g t]) n s) hfailed hid hrest hrep rfl hlim
      rw [rowSum_decides hlast hdual hcmp hver rfl (by decide)]
      exact ⟨_, rfl, rfl, rfl⟩
    · have hver := (rowVerdict_limit (t := rowDone sums t [failedRow sums ps ps [] g t])
        (s := rowTaken t (rowDone sums t [failedRow sums ps ps [] g t]) n s) hfailed hid hrep rfl hlim).trans
        (atLimit_persistent rfl rfl rfl (Ne.symm hne))
      rw [dropFailed_eq (t := rowDone sums t [failedRow sums ps ps [] g t])
        (s := rowTaken t (rowDone sums t [failedRow sums ps ps [] g t]) n s) hfailed hid hrest, persistent] at hver
      rw [rowSum_decides hlast hdual hcmp hver (by rw [asy_mismatch]; rfl) (by decide), asy_mismatch]
      exact ⟨_, rfl, rfl, rfl, rfl, rfl⟩
  case surplus =>
    intro s sums faulty t hrun ht hopen hon hskip hle _
    rw [exec_rowSum hrun, rowSum_surplus ht hopen hon hskip hle]
  case noTile =>
    intro s sums faulty hrun ht hon
    rw [exec_rowSum hrun, rowSum_noTile ht hon]
  case slices => exact fun slices rot b x y z hxy => disagree_spec slices rot b z hxy
  case off =>
    intro s sums t rest hrun ht hon hlt hmem hrest
    rw [exec_rowSum hrun, rowSum_off ht hon hlt hmem hrest]

end Sys2Proof.Machine
end

section
/-! SUPPORT. Weight loads (R216, R217, R219) and pooled lookups (R225 to R228). -/

namespace Sys2Proof.Machine

section Loads

/-! ### Weight loads -/

variable {s : State} {w : W64}

theorem tilesNaming_eq_nil (h : ∀ t ∈ s.asy.tiles, t.on = true → t.handle ≠ twHandle w) : tilesNaming s (twHandle w) = [] := by
  rw [tilesNaming, List.filter_eq_nil_iff]
  intro t ht
  simpa using h t ht

theorem mem_evictHandles (fuel need h : Nat) (named : Nat → Bool) (l : List (Nat × Handle)) {x : Nat × Handle}
    (hx : x ∈ evictHandles fuel need h named l) : x ∈ l := by
  induction fuel generalizing l with
  | zero => exact hx
  | succ k ih =>
    unfold evictHandles at hx
    split at hx
    · exact hx
    · split at hx
      · exact hx
      · exact List.mem_of_mem_filter (ih _ hx)

/-- The handles once a load has made room for its own, which is named last. -/
def loadHandles (w : W64) (s : State) : List (Nat × Handle) :=
  let l := evictHandles 31 (units (twFmt w)) (twHandle w) (fun k => !(tilesNaming s k).isEmpty) s.asy.handles
  (l.filter fun x => x.1 != twHandle w) ++ l.filter fun x => x.1 == twHandle w

theorem mem_loadHandles {x : Nat × Handle} (h : x ∈ loadHandles w s) : x ∈ s.asy.handles := by
  rcases List.mem_append.mp h with h | h
  · exact mem_evictHandles _ _ _ _ _ (List.mem_of_mem_filter h)
  · exact mem_evictHandles _ _ _ _ _ (List.mem_of_mem_filter h)

theorem loadWord_loads {op : Nat} (hop : twOp w = op) (hbad : twBad w = false)
    (h : ∀ t ∈ s.asy.tiles, t.on = true → t.handle ≠ twHandle w) : loadWord op w s = { s with
      asy.load := some { handle := twHandle w, verify := op == 3, cur := { fmt := twFmt w, rot := s.asy.loads % 16 } }
      asy.loads := s.asy.loads + 1
      asy.handles := loadHandles w s } := by
  unfold loadWord
  rw [if_neg (not_not.mpr hop), hbad, if_neg Bool.false_ne_true]
  dsimp only
  rw [tilesNaming_eq_nil h]
  rfl

theorem loadWord_of_other {op : Nat} (h : twOp w ≠ op) : loadWord op w s = s := if_pos h

variable {l : WLoad}

theorem weightExponents_eq {e : Bytes} {r : Byte} (hl : s.asy.load = some l) (hlt : l.exps.length < 4096) :
    weightExponents e r s = { s with asy.load := some { l with
      eref := if l.exps.isEmpty && l.cur.w.isEmpty then sext 8 r.toNat else l.eref
      exps := l.exps ++ tapExps (slice e 0 128) } } := by
  rw [weightExponents, hl]
  exact if_neg (not_le.mpr hlt)

theorem chunks_length {α : Type} {n : Nat} (hn : 0 < n) (k : Nat) {fuel : Nat} (hf : k ≤ fuel) {l : List α} (hl : l.length = n * k) :
    (chunks fuel n l).length = k := by
  induction k generalizing fuel l with
  | zero =>
    obtain rfl : l = [] := List.eq_nil_of_length_eq_zero hl
    cases fuel <;> rfl
  | succ k ih =>
    obtain ⟨f, rfl⟩ := Nat.exists_eq_add_of_le' (Nat.le_of_lt_succ (Nat.lt_succ_of_le hf) |>.trans' (Nat.succ_le_succ (Nat.zero_le k)))
    have hne : ¬ l.isEmpty = true := by
      rw [List.isEmpty_iff]
      rintro rfl
      rw [List.length_nil, Nat.mul_succ] at hl
      omega
    rw [chunks, if_neg hne, List.length_cons, ih (by omega) (by rw [List.length_drop, hl, Nat.mul_succ]; omega)]

theorem toBits_length (b : Bytes) : (toBits b).length = 8 * b.length := by
  induction b with
  | nil => rfl
  | cons x b ih =>
    have hx : (byteBits x).length = 8 := by simp [byteBits]
    rw [toBits, List.flatMap_cons, List.length_append, hx, List.length_cons, Nat.mul_succ, Nat.add_comm]
    exact congrArg (· + 8) ih

theorem elems_length {w k : Nat} (hw : 0 < w) {b : Bytes} (h : 8 * b.length = w * k) : (elems w b).length = k := by
  rw [elems, List.length_map, chunks_length hw k ?_ ((toBits_length b).trans h)]
  rw [h, Nat.mul_div_cancel_left k hw]
  omega

/-- A row of weights has as many elements as the beat's width gives. -/
theorem weightElems_length {d : Bytes} {fmt k : Nat} (hw : 0 < fmtWidth fmt) (h : 8192 = fmtWidth fmt * k) :
    (elems (fmtWidth fmt) (slice d 0 1024)).length = k := elems_length hw (by rw [slice_length]; exact h)

/-- The first beat of weights of a row, with exponents that R214 allows. -/
theorem weightData_first {d : Bytes} {k : Nat} (hl : s.asy.load = some l) (hfull : l.exps.length = 4096) (hhalf : l.half = none)
    (hlen : (elems (fmtWidth l.cur.fmt) (slice d 0 1024)).length = k) (hshift : badShift (l.exps.take k) l.eref = false) :
    weightData d s =
      if l.cur.fmt = 2 then { s with asy.load := some { l with
        half := some (groupSums (elems (fmtWidth l.cur.fmt) (slice d 0 1024)) l.exps l.eref) } }
      else weightRow l (groupSums (elems (fmtWidth l.cur.fmt) (slice d 0 1024)) l.exps l.eref) s := by
  have hno : ¬ l.exps.length < 4096 := by omega
  have hbad : ¬ badShift (l.exps.take k) l.eref = true := by rw [hshift]; exact Bool.false_ne_true
  unfold weightData
  rw [hl]
  dsimp only
  rw [if_neg hno, hhalf, hlen]
  dsimp only [Option.isSome_none]
  simp only [Bool.false_eq_true, if_false, if_neg hbad]

theorem weightRow_goesOn (g : List W32) (hhalf : l.half = none) (hlt : l.cur.w.length + 1 ≠ kRows l.cur.fmt) :
    weightRow l g s = { s with asy.load := some { l with
      cur := { l.cur with w := l.cur.w ++ [g.foldl (· + ·) 0], wg := l.cur.wg ++ [g] }
      exps := if (l.cur.w.length + 1) % 32 = 0 then [] else l.exps } } := by
  have hlen : (l.cur.w ++ [g.foldl (· + ·) 0]).length = l.cur.w.length + 1 := by simp
  unfold weightRow
  dsimp only
  rw [hlen, if_neg hlt, ← hhalf]

theorem loadDone_differs {o : Handle} {k : Nat} (hv : l.verify = true) (ho : handle? s l.handle = some o)
    (hd : firstDiff l.cur o = some k) : loadDone l s = lanesWrite 6 l.handle 1 { raise0 0x0703 2 (l.handle + 2 ^ 16 * k)
        (assayCount 9 1 s) with
      asy.load := none
      asy.handles := (s.asy.handles.filter fun x => x.1 != l.handle) ++ [(l.handle, l.cur)] } := by
  have hasy : (raise0 0x0703 2 (l.handle + 2 ^ 16 * k) (assayCount 9 1 s)).asy.handles = s.asy.handles := by
    rw [asy_onlyEvents (raise0_events ..)]
    rfl
  unfold loadDone
  dsimp only
  rw [hv, if_pos rfl, ho, Option.bind_some, hd]
  dsimp only
  rw [hasy]

end Loads

section Pools

/-! ### Pooled lookups -/

variable {s : State} {b : Bag} {en : Bytes}

theorem poolHeader_eq (d : Bytes) (s : State) : poolHeader d s = { s with
    asy.bag := if assayCtl s 1 = true ∧ fld d 2 2 ≠ 0 ∧ fld d 2 2 ≤ 4096 then
      some { entry := fld d 0 2, n := fld d 2 2, id := fld d 4 4 } else none } := by
  unfold poolHeader
  dsimp only
  by_cases h : assayCtl s 1 = true ∧ fld d 2 2 ≠ 0 ∧ fld d 2 2 ≤ 4096
  · obtain ⟨hctl, h0, hmax⟩ := id h
    have hno : ¬ ((!assayCtl s 1) = true ∨ fld d 2 2 = 0 ∨ 4096 < fld d 2 2) := by
      rw [hctl]
      rintro (h | h | h)
      · exact Bool.false_ne_true h
      · exact h0 h
      · omega
    rw [if_neg hno, if_pos h]
  · have hyes : (!assayCtl s 1) = true ∨ fld d 2 2 = 0 ∨ 4096 < fld d 2 2 := by
      by_contra hn
      push Not at hn
      exact h ⟨by simpa using hn.1, hn.2.1, hn.2.2⟩
    rw [if_pos hyes, if_neg h]

theorem askBag_none {rows : List Nat} (h : bagEntry s b = none) : askBag b rows s = s := by rw [askBag, h]

theorem askBag_some {rows : List Nat} (h : bagEntry s b = some en) : askBag b rows s =
    each (rows.filter fun r => decide (r < eSize en)) (fetchCv (eTrack en)) (openTable (sh s 0x704) b.entry en s) := by
  rw [askBag, h]

theorem poolIndices_eq (d : Bytes) (hb : s.asy.bag = some b) : poolIndices d s =
    askBag b ((List.range (min 128 (b.n - b.rows.length))).map fun i => fld d (8 * i) 8) { s with asy.bag := some { b with
      rows := b.rows ++ (List.range (min 128 (b.n - b.rows.length))).map fun i => fld d (8 * i) 8 } } := by
  rw [poolIndices, hb]

theorem pooledVector_eq (d e : Bytes) (hb : s.asy.bag = some b) (hn : b.n ≤ b.rows.length) : pooledVector d e s =
    { s with asy.bag := some { b with
      elems := b.elems ++ elems 32 (slice d 0 1024), exps := b.exps ++ tapExps (slice e 0 8) } } := by
  rw [pooledVector, hb]
  exact if_neg (not_lt.mpr hn)

/-- The elements that a bag's pooled vector needs. -/
def bagNeed (s : State) (b : Bag) : Nat := ((bagEntry s b).map rowElems).getD 0

theorem bagNeed_some (h : bagEntry s b = some en) : bagNeed s b = rowElems en := by rw [bagNeed, h]; rfl

theorem poolCheck_waits (hb : s.asy.bag = some b) (h : b.rows.length < b.n ∨ b.elems.length < bagNeed s b) :
    poolCheck s = s := by
  rw [poolCheck, hb]
  exact if_pos h

section Whole

variable (hb : s.asy.bag = some b) (hn : b.n ≤ b.rows.length) (hneed : bagNeed s b ≤ b.elems.length)

include hb hn hneed

theorem poolCheck_asks (hw : bagWaits s b ≠ []) : poolCheck s = askBag b (bagWaits s b) s := by
  have hno : ¬ (b.rows.length < b.n ∨ b.elems.length < bagNeed s b) := by omega
  have hyes : (!(bagWaits s b).isEmpty) = true := by simpa using hw
  rw [poolCheck, hb]
  exact (if_neg hno).trans (if_pos hyes)

theorem poolCheck_skips {c : Nat} (hw : bagWaits s b = []) (hskip : poolSkip s b = some c) :
    poolCheck s = assayCount 6 1 { s with asy.bag := none } := by
  have hno : ¬ (b.rows.length < b.n ∨ b.elems.length < ((bagEntry s b).map rowElems).getD 0) :=
    fun h => h.elim (not_lt.mpr hn) (not_lt.mpr hneed)
  rw [poolCheck, hb]
  dsimp only
  rw [if_neg hno, hw, hskip]
  rfl

theorem poolCheck_compares (hw : bagWaits s b = []) (hskip : poolSkip s b = none) (he : bagEntry s b = some en) :
    poolCheck s = if bagSum s en b = bagCv en b then assayCount 4 1 { s with asy.bag := none }
      else raise0 0x0704 2 (b.id + 2 ^ 32 * b.entry) (assayCount 5 1 (assayCount 4 1 { s with asy.bag := none })) := by
  have hno : ¬ (b.rows.length < b.n ∨ b.elems.length < ((bagEntry s b).map rowElems).getD 0) :=
    fun h => h.elim (not_lt.mpr hn) (not_lt.mpr hneed)
  rw [poolCheck, hb]
  dsimp only
  rw [if_neg hno, hw, hskip, he]
  rfl

end Whole

/-- Every row that a bag waits for is a row of its entry. -/
theorem bagWaits_filter (he : bagEntry s b = some en) :
    (bagWaits s b).filter (fun r => decide (r < eSize en)) = bagWaits s b := by
  rw [bagWaits, he, List.filter_eq_self]
  intro r hr
  obtain ⟨-, hr⟩ := List.mem_filter.mp hr
  exact (Bool.and_eq_true _ _ ▸ hr).1

theorem exec_poolCheck (hrun : tapsRun s = true) : exec .poolCheck s = .next (poolCheck s) := by
  change Host.Outcome.next (when (tapsRun s) poolCheck s) = _
  rw [when, if_pos hrun]

end Pools

/-- Settles O52: weight loads gather the checksums of a handle, and a bag is filled, asked for, compared or skipped. -/
theorem weightsAndPools : Obligations.WeightsAndPools := by
  unfold Obligations.WeightsAndPools
  refine ⟨?load, ?verify, ?otherOp, ?exps, ?firstExps, ?half, ?row, ?differs, ?noLoad, ?header, ?indices, ?vector, ?compare, ?skip,
    ?ask, ?wait, ?noBag⟩
  case load =>
    intro s w hrun hop hbad h
    change ∃ u, Host.Outcome.next (when (tapsRun s) (loadWord 2 w) s) = _ ∧ _
    rw [when, if_pos hrun, loadWord_loads hop hbad h]
    exact ⟨_, rfl, rfl, fun x hx => mem_loadHandles hx⟩
  case verify =>
    intro s w hrun hop hbad h
    change ∃ u, Host.Outcome.next (when (tapsRun s) (loadWord 3 w) s) = _ ∧ _
    rw [when, if_pos hrun, loadWord_loads hop hbad h]
    exact ⟨_, rfl, rfl, rfl, rfl⟩
  case otherOp =>
    intro s w
    refine ⟨fun h => ?_, fun h => ?_⟩
    · change Host.Outcome.next (when (tapsRun s) (loadWord 2 w) s) = _
      rw [when, loadWord_of_other h, ite_self]
    · change Host.Outcome.next (when (tapsRun s) (loadWord 3 w) s) = _
      rw [when, loadWord_of_other h, ite_self]
  case exps =>
    intro s e r l hrun hl hlt hlater
    have hno : ¬ (l.exps.isEmpty && l.cur.w.isEmpty) = true := by
      rcases hlater with h | h <;> simp [h]
    change Host.Outcome.next (when (tapsRun s) (weightExponents e r) s) = _
    rw [when, if_pos hrun, weightExponents_eq hl hlt, if_neg hno]
  case firstExps =>
    intro s e r l hrun hl he hw
    have hyes : (l.exps.isEmpty && l.cur.w.isEmpty) = true := by rw [he, hw]; rfl
    change Host.Outcome.next (when (tapsRun s) (weightExponents e r) s) = _
    rw [when, if_pos hrun, weightExponents_eq hl (by rw [he]; decide), if_pos hyes, he]
    rfl
  case half =>
    intro s d l hrun hl hfull hfmt hhalf hshift
    have hlen := weightElems_length (d := d) (fmt := l.cur.fmt) (k := 2048) (by rw [hfmt]; decide) (by rw [hfmt]; decide)
    change Host.Outcome.next (when (tapsRun s) (weightData d) s) = _
    rw [when, if_pos hrun, weightData_first hl hfull hhalf hlen hshift, if_pos hfmt]
  case row =>
    intro s d l hrun hl hfull hfmt hhalf hshift hlt
    have hlen := weightElems_length (d := d) (fmt := l.cur.fmt) (k := 4096) (by rw [hfmt]; decide) (by rw [hfmt]; decide)
    have htake : l.exps.take 4096 = l.exps := List.take_of_length_le (le_of_eq hfull)
    have hrows : l.cur.w.length + 1 ≠ kRows l.cur.fmt := by
      rw [hfmt]
      change l.cur.w.length + 1 ≠ 4096
      omega
    change Host.Outcome.next (when (tapsRun s) (weightData d) s) = _
    rw [when, if_pos hrun, weightData_first hl hfull hhalf hlen (by rw [htake]; exact hshift), if_neg (by rw [hfmt]; decide),
      weightRow_goesOn _ hhalf hrows]
  case differs =>
    exact fun s l o k hv ho hd => ⟨_, loadDone_differs hv ho hd, rfl⟩
  case noLoad =>
    intro s d e r hl
    refine ⟨?_, ?_⟩
    · change Host.Outcome.next (when (tapsRun s) (weightExponents e r) s) = _
      rw [when, weightExponents, hl, ite_self]
    · change Host.Outcome.next (when (tapsRun s) (weightData d) s) = _
      rw [when, weightData, hl, ite_self]
  case header =>
    intro s d hrun
    change Host.Outcome.next (when (tapsRun s) (poolHeader d) s) = _
    rw [when, if_pos hrun, poolHeader_eq]
  case indices =>
    intro s d b hrun hb
    dsimp only
    change (_ → Host.Outcome.next (when (tapsRun s) (poolIndices d) s) = _) ∧
      ∀ e, _ → Host.Outcome.next (when (tapsRun s) (poolIndices d) s) = _
    rw [when, if_pos hrun, poolIndices_eq d hb]
    exact ⟨fun he => congrArg Host.Outcome.next (askBag_none he), fun e he => congrArg Host.Outcome.next (askBag_some he)⟩
  case vector =>
    intro s d e b hrun hb hn
    change Host.Outcome.next (when (tapsRun s) (pooledVector d e) s) = _
    rw [when, if_pos hrun, pooledVector_eq d e hb hn]
  case compare =>
    intro s b en hrun hb hn he hneed hw hskip
    dsimp only
    rw [exec_poolCheck hrun, poolCheck_compares hb hn (by rw [bagNeed_some he]; exact hneed) hw hskip he]
    exact ⟨fun heq => by rw [if_pos heq]; rfl, fun hne => by rw [if_neg hne]; rfl⟩
  case skip =>
    intro s b c hrun hb hn hneed hw hskip
    rw [exec_poolCheck hrun, poolCheck_skips hb hn hneed hw hskip]
    rfl
  case ask =>
    intro s b en hrun hb hn he hneed hw
    rw [exec_poolCheck hrun, poolCheck_asks hb hn (by rw [bagNeed_some he]; exact hneed) hw, askBag_some he, bagWaits_filter he]
  case wait =>
    intro s b hb h
    have hwait : b.rows.length < b.n ∨ b.elems.length < bagNeed s b :=
      h.imp_right fun ⟨en, he, hlt⟩ => by rw [bagNeed_some he]; exact hlt
    change Host.Outcome.next (when (tapsRun s) poolCheck s) = _
    rw [when, poolCheck_waits hb hwait, ite_self]
  case noBag =>
    intro s d e hb
    refine ⟨?_, ?_, ?_⟩
    · change Host.Outcome.next (when (tapsRun s) (poolIndices d) s) = _
      rw [when, poolIndices, hb, ite_self]
    · change Host.Outcome.next (when (tapsRun s) (pooledVector d e) s) = _
      rw [when, pooledVector, hb, ite_self]
    · change Host.Outcome.next (when (tapsRun s) poolCheck s) = _
      rw [when, poolCheck, hb, ite_self]

end Sys2Proof.Machine
end

section
/-! SUPPORT. Resets and their release (R349, R353 to R355), the clocks of the SoC (R350, R351). -/

namespace Sys2Proof.Machine

section Resets

/-! ### Assertion and release -/

variable {s : State}

theorem assertReset_eq {k : Nat} (h : k ≠ 1 ∨ s.pwr.state ≠ 3) : assertReset k s = dropOutputs { s with
    pins.rst := max s.pins.rst (if k = 1 ∧ (!s.ldg.live) = true then 2 else k)
    pins.rstOff := if s.pins.rst = 0 then s.pwr.state == 3 else s.pins.rstOff } := by
  have hno : ¬ (k = 1 ∧ s.pwr.state = 3) := fun hk => h.elim (· hk.1) (· hk.2)
  exact if_neg hno

theorem assertReset_off (h : s.pwr.state = 3) : assertReset 1 s = s := if_pos ⟨rfl, h⟩

/-- The reset that a warm reset asserts: a cold one before the macros hold the journal. -/
theorem warmKind (s : State) :
    (if (1 : Nat) = 1 ∧ (!s.ldg.live) = true then 2 else 1) = if s.ldg.live = true then 1 else 2 := by
  cases s.ldg.live <;> rfl

theorem rootLockLoss_on (h : s.pwr.state ≠ 3) : rootLockLoss s =
    assertReset 2 { s with regs.clk.rootLock := false, regs.clk.rootLost := true, pins.rstRoot := true } := if_neg h

/-- Every key slot but the root slot is what the reset leaves of the key store. -/
theorem get?_rootKey {n : Nat} (h : n ≠ 255) (pins : Pins) (off : Bool) (t : Tab Key) :
    Tab.get? (rootKey pins off t) n = Tab.get? t n := by
  unfold rootKey
  cases pins.otpRoot with
  | none => exact Tab.get?_del_ne t h
  | some b =>
    cases off with
    | true => exact Tab.get?_del_ne t h
    | false => exact Tab.get?_put_ne t _ h

theorem queue?_released (k q : Nat) (s : State) : queue? (released k s) q = (queue? s q).map queueAfter :=
  get?_mapKeyed s.ring.queues (fun _ => queueAfter) q

theorem resetRelease_plain {k : Nat} (hk : s.pins.rst = k) (hcold : 2 ≤ k) (hroot : (s.pins.rstRoot && k == 2) = false) :
    resetRelease [] s = released k s := by
  unfold resetRelease
  rw [hk]
  dsimp only
  rw [if_neg (by omega), if_neg (by omega), hroot]
  rfl

theorem resetRelease_root (hk : s.pins.rst = 2) (hroot : s.pins.rstRoot = true) :
    resetRelease [] s = raise0 0x0B01 2 5 (released 2 s) := by
  unfold resetRelease
  rw [hk, hroot]
  rfl

theorem resetRelease_warm (failed : List (Nat × Nat)) (hk : s.pins.rst = 1) :
    resetRelease failed s = sweepAll (released 1 s) := by
  unfold resetRelease
  rw [hk]
  rfl

theorem resetRelease_none (failed : List (Nat × Nat)) (hk : s.pins.rst = 0) : resetRelease failed s = s := if_pos hk

end Resets

section Clocks

/-! ### Clocks -/

variable {s : State} {c : Nat}

theorem exec_clockLost (hrst : s.pins.rst = 0) : exec (.clockLost c) s = .next (clockLost c s) := by
  change Host.Outcome.next (when (s.pins.rst == 0) (clockLost c) s) = _
  rw [when, hrst]
  rfl

theorem clockLost_allowed (hc : c < 4) (h : mayStop c s = true) : clockLost c s = { s with regs.clk := setRun c false s.regs.clk } := by
  unfold clockLost
  rw [if_neg (by omega), h]
  rfl

theorem clockLost_reported (hc : c < 4) (h : mayStop c s = false) :
    clockLost c s = raise0 0x0B01 2 c { s with regs.clk := setLost c (setRun c false s.regs.clk) } := by
  unfold clockLost
  rw [if_neg (by omega), h]
  rfl

/-- A slip of a port with no write outstanding spoils the reads of the port. -/
theorem fabSlip_reads {p : Nat} (h : ∀ r ∈ s.out.fab, r.port = p → r.write = false) : fabSlip p s = raise0 0x0B01 2 4 { s with
    regs.clk.fabSlip := true
    out.fab := s.out.fab.map fun r => if r.port = p then { r with err := fabWorse r.err 1 } else r } := by
  have hw : (s.out.fab.filter fun r => r.port == p && r.write) = [] := by
    rw [List.filter_eq_nil_iff]
    intro r hr hand
    obtain ⟨hp, hwr⟩ := (Bool.and_eq_true _ _).mp hand
    rw [h r hr (beq_iff_eq.mp hp)] at hwr
    exact Bool.false_ne_true hwr
  have hmap : (s.out.fab.map fun r => if r.port = p ∧ (!r.write) = true then { r with err := fabWorse r.err 1 } else r) =
      s.out.fab.map fun r => if r.port = p then { r with err := fabWorse r.err 1 } else r := by
    refine List.map_congr_left fun r hr => ?_
    by_cases hp : r.port = p
    · rw [if_pos hp, if_pos ⟨hp, by rw [h r hr hp]; rfl⟩]
    · rw [if_neg hp, if_neg fun hn => hp hn.1]
  unfold fabSlip
  rw [hw, hmap]
  rfl

end Clocks

/-- Settles O53: resets assert and release as R353 to R355 say, and the clocks report their loss. -/
theorem resetsAndClocks : Obligations.ResetsAndClocks := by
  unfold Obligations.ResetsAndClocks
  refine ⟨?assert, ?warmOff, ?rootLost, ?rootOff, ?powerOn, ?cold, ?root, ?warm, ?every, ?warmKeeps, ?noReset, ?stops, ?lost,
    ?running, ?noClock, ?slip, ?noPort⟩
  case assert =>
    rintro s i k (⟨rfl, rfl⟩ | ⟨rfl, rfl⟩ | ⟨rfl, hon, rfl⟩)
    · exact ⟨_, congrArg Host.Outcome.next (assertReset_eq (.inl (by decide))), rfl, ⟨rfl, rfl, rfl⟩,
        rfl, rfl, rfl, rfl, rfl, rfl, rfl, rfl, rfl, rfl, rfl, rfl⟩
    · exact ⟨_, congrArg Host.Outcome.next (assertReset_eq (.inl (by decide))), rfl, ⟨rfl, rfl, rfl⟩,
        rfl, rfl, rfl, rfl, rfl, rfl, rfl, rfl, rfl, rfl, rfl, rfl⟩
    · rw [← warmKind s]
      exact ⟨_, congrArg Host.Outcome.next (assertReset_eq (.inr hon)), rfl, ⟨rfl, rfl, rfl⟩,
        rfl, rfl, rfl, rfl, rfl, rfl, rfl, rfl, rfl, rfl, rfl, rfl⟩
  case warmOff => exact fun s h => congrArg Host.Outcome.next (assertReset_off h)
  case rootLost =>
    exact fun s h => ⟨_, congrArg Host.Outcome.next ((rootLockLoss_on h).trans (assertReset_eq (.inl (by decide)))), rfl, rfl, rfl, rfl⟩
  case rootOff => exact fun s h => congrArg Host.Outcome.next (if_pos h)
  case powerOn =>
    intro s hk
    exact ⟨_, congrArg Host.Outcome.next (resetRelease_plain hk (by decide) (Bool.and_false _)),
      ⟨rfl, rfl, rfl, rfl, rfl, rfl, rfl, rfl, rfl⟩, fun n hn => get?_rootKey hn _ _ _, rfl, rfl, rfl, rfl, rfl, rfl, rfl, rfl, rfl, rfl⟩
  case cold =>
    intro s hk hroot
    refine ⟨_, congrArg Host.Outcome.next (resetRelease_plain hk (by decide) (by rw [hroot]; rfl)),
      ⟨rfl, rfl, rfl, rfl, ?_, rfl, rfl, rfl, rfl⟩, fun n hn => get?_rootKey hn _ _ _, fun q x hx => ?_⟩
    · change causeOf 2 s.pins.rstRoot = 1
      rw [hroot]
      rfl
    · exact ⟨queueAfter x, by rw [queue?_released, hx]; rfl, rfl, rfl, rfl, rfl, rfl, rfl, rfl⟩
  case root =>
    intro s hk hroot
    refine ⟨_, congrArg Host.Outcome.next (resetRelease_root hk hroot), ?_, rfl⟩
    rw [raise0_ldg]
    change causeOf 2 s.pins.rstRoot = 3
    rw [hroot]
    rfl
  case warm => exact fun s failed hk => congrArg Host.Outcome.next (resetRelease_warm failed hk)
  case every => exact fun k s => ⟨rfl, rfl, rfl, rfl⟩
  case warmKeeps =>
    exact fun s => ⟨rfl, rfl, rfl, rfl, rfl, rfl, rfl, rfl, rfl, rfl, rfl, fun n hn => get?_rootKey hn _ _ _⟩
  case noReset => exact fun s failed hk => congrArg Host.Outcome.next (resetRelease_none failed hk)
  case stops =>
    intro s c hrst hc h
    rw [exec_clockLost hrst, clockLost_allowed hc h]
  case lost =>
    intro s c hrst hc h
    rw [exec_clockLost hrst, clockLost_reported hc h]
  case running => exact fun s c hc => congrArg Host.Outcome.next (if_neg (not_le.mpr hc))
  case noClock =>
    rintro s c (hc | hrst)
    · change Host.Outcome.next (when (s.pins.rst == 0) (clockLost c) s) = _
      rw [when, clockLost, if_pos hc, ite_self]
    · exact congrArg Host.Outcome.next (if_neg (by simpa using hrst))
  case slip =>
    intro s p hup hp h
    change Host.Outcome.next (when (up s && decide (p < 16)) (fabSlip p) s) = _
    rw [when, hup, decide_eq_true hp, fabSlip_reads h]
    rfl
  case noPort =>
    intro s p hp
    have hno : (up s && decide (p < 16)) = false := by rw [decide_eq_false (not_lt.mpr hp), Bool.and_false]
    exact congrArg Host.Outcome.next (if_neg (by rw [hno]; exact Bool.false_ne_true))

end Sys2Proof.Machine
end

section
/-! SUPPORT. Requests of the debug port, halting and stepping (R188, R382, R388, R389). -/

namespace Sys2Proof.Machine

section Requests

/-! ### Requests that are taken -/

variable {s : State} {r : DbgReq} {u : Bool}

theorem dbgReq_of_takes (op : Nat) (f : State → State) (h : dbgTakes u r s) : dbgReq op u r f s = f (dbgTaken op r s) := by
  obtain ⟨hfree, hrsvd, hlocked⟩ := h
  unfold dbgReq
  dsimp only
  rw [if_neg fun hb => hfree hb.1, if_neg (not_not.mpr hrsvd), if_neg fun hl => hlocked hl.1 hl.2]
  rfl

end Requests

section Halting

/-! ### Halts -/

variable {s : State}

theorem enterHalt_ctl (s : State) : ctl (enterHalt s) = { ctl s with dbg := 2 } := by
  rw [enterHalt, serveFilters_ctl, haltAnswered_ctl]
  rfl

theorem haltWith_ctl (slot kind : Nat) (s : State) : ctl (haltWith slot kind s) = { ctl s with dbg := 2 } := by
  rw [haltWith, raise0_ctl, enterHalt_ctl]

/-- What a halted block shows of its control part. -/
theorem halted_of_ctl {t : State} (h : ctl t = { ctl s with dbg := 2 }) :
    t.dbg.state = 2 ∧ t.pending = s.pending ∧ t.regs.shadow = s.regs.shadow :=
  ⟨congrArg Ctl.dbg h, congrArg Ctl.pending h, congrArg Ctl.shadow h⟩

theorem dbgHalt_waits (hup : up s = true) (hrun : s.dbg.state ≠ 2) (hstep : s.dbg.stepping = false) :
    dbgHalt s = { s with dbg := { s.dbg with haltReq := some 0xFF, ansStatus := 1 } } := by
  unfold dbgHalt
  rw [hup, if_neg (by decide), if_neg hrun, hstep]
  rfl

theorem dbgHalt_halted (hup : up s = true) (h : s.dbg.state = 2) : dbgHalt s = s := by
  unfold dbgHalt
  rw [hup, if_neg (by decide), if_pos h]

theorem endHalt_of_halted (h : s.dbg.state = 2) (hlate : s.dbg.late = []) :
    endHalt s = { s with dbg := { s.dbg with state := 1, stepping := false, haltReq := none, late := [], sram := [] } } := by
  unfold endHalt
  rw [hlate, h]
  rfl

theorem resume_of_halted (h : s.dbg.state = 2) (hlate : s.dbg.late = []) :
    resume s = raise0 0x0C03 0 (min (s.time.aon - s.dbg.haltedAt) 0xFFFFFFFF) { s with
      dbg := { s.dbg with state := 1, stepping := false, haltReq := none, late := [], sram := [] } } := by
  unfold resume
  rw [endHalt_of_halted h hlate, h]
  rfl

theorem dbgStep_eq (hup : up s = true) (hlate : s.dbg.late = []) : dbgStep s = { s with dbg := { s.dbg with
    state := 1, stepping := true, stepFrom := s.dbg.recs, late := [], sram := [], ansStatus := 1 } } := by
  unfold dbgStep
  rw [hup, if_neg (by decide), hlate]
  rfl

end Halting

section HaltedLanes

/-! ### Halted recipe lanes -/

variable {s : State} {n : Nat}

theorem lane_setLane (x : Lane) (s : State) : lane (setLane n x s) n = x := by
  rw [lane, Tab.getD, setLane]
  dsimp only
  rw [Tab.get?_put_self]
  rfl

theorem onHaltedLane_of_halted (f : State → State) (hn : n < 32) (h : s.dbg.lanes.contains n = true) :
    onHaltedLane n f s = laneEnded n (f s) := by
  unfold onHaltedLane
  rw [if_neg (not_le.mpr hn), h]
  rfl

theorem onHaltedLane_of_running (f : State → State) (hn : n < 32) (h : s.dbg.lanes.contains n = false) :
    onHaltedLane n f s = status 3 s := by
  unfold onHaltedLane
  rw [if_neg (not_le.mpr hn), h]
  rfl

theorem laneEnded_of_running (h : (lane s n).trap = 0) : laneEnded n s = s := if_pos h

end HaltedLanes

/-- Settles O55: halts, steps and halted lanes go as R388 and R389 say. -/
theorem debugHalting : Obligations.DebugHalting := by
  unfold Obligations.DebugHalting
  refine ⟨?halt, ?again, ?reached, ?notReached, ?resumes, ?steps, ?stepDone, ?noStep, ?rstep, ?rresume, ?running⟩
  case halt =>
    exact fun s r htake hup hrun hstep => congrArg Host.Outcome.next
      ((dbgReq_of_takes 8 dbgHalt htake).trans (dbgHalt_waits hup hrun hstep))
  case again =>
    exact fun s r htake hup h => congrArg Host.Outcome.next ((dbgReq_of_takes 8 dbgHalt htake).trans (dbgHalt_halted hup h))
  case reached =>
    intro s hup hreq hcut
    have hyes : (up s && s.dbg.haltReq.isSome && !cutHolds s) = true := by rw [hup, hreq, hcut]; rfl
    exact ⟨_, congrArg Host.Outcome.next (if_pos hyes), halted_of_ctl (haltWith_ctl 0xFF 0 s)⟩
  case notReached =>
    intro s h
    have hno : (up s && s.dbg.haltReq.isSome && !cutHolds s) = false := by
      rcases h with h | h
      · rw [h, Option.isSome_none, Bool.and_false, Bool.false_and]
      · rw [h, Bool.not_true, Bool.and_false]
    exact congrArg Host.Outcome.next (if_neg (by rw [hno]; exact Bool.false_ne_true))
  case resumes =>
    exact fun s r htake h hlate => congrArg Host.Outcome.next
      ((dbgReq_of_takes 9 resume htake).trans (resume_of_halted (s := dbgTaken 9 r s) h hlate))
  case steps =>
    exact fun s r htake hup hlate => congrArg Host.Outcome.next
      ((dbgReq_of_takes 0x0A dbgStep htake).trans (dbgStep_eq (s := dbgTaken 0x0A r s) hup hlate))
  case stepDone =>
    intro s hstep hrec
    have hyes : (s.dbg.stepping && s.dbg.recs != s.dbg.stepFrom) = true := by rw [hstep, bne_iff_ne.mpr hrec]; rfl
    exact ⟨_, congrArg Host.Outcome.next (if_pos hyes), halted_of_ctl (enterHalt_ctl s)⟩
  case noStep =>
    intro s h
    have hno : (s.dbg.stepping && s.dbg.recs != s.dbg.stepFrom) = false := by
      rcases h with h | h
      · rw [h, Bool.false_and]
      · rw [h, bne_self_eq_false, Bool.and_false]
    exact congrArg Host.Outcome.next (if_neg (by rw [hno]; exact Bool.false_ne_true))
  case rstep =>
    intro s r htake hlane hhalt htrap
    have hrun : (lane (rstep r.sel (dbgTaken 0x0B r s)) r.sel).trap = 0 := by
      rw [rstep, lane_setLane]
      exact htrap
    exact congrArg Host.Outcome.next ((dbgReq_of_takes 0x0B _ htake).trans
      ((onHaltedLane_of_halted (s := dbgTaken 0x0B r s) _ hlane hhalt).trans (laneEnded_of_running hrun)))
  case rresume =>
    exact fun s r htake hlane hhalt => congrArg Host.Outcome.next
      ((dbgReq_of_takes 0x0C _ htake).trans (onHaltedLane_of_halted _ hlane hhalt))
  case running =>
    exact fun s r htake hrun hlane => ⟨
      congrArg Host.Outcome.next ((dbgReq_of_takes 0x0B _ htake).trans (onHaltedLane_of_running _ hlane hrun)),
      congrArg Host.Outcome.next ((dbgReq_of_takes 0x0C _ htake).trans (onHaltedLane_of_running _ hlane hrun))⟩

end Sys2Proof.Machine
end

section
/-! SUPPORT. Breakpoints, memory access through the debug port and one-time-programmable fields (R384, R385, R387, R390). -/

namespace Sys2Proof.Machine

section Breakpoints

/-! ### Breakpoints -/

variable {s : State} {slot : Nat}

theorem bpSet_eq {arg : Nat} (data : W64) (hslot : slot < 8) (hlo : 1 ≤ arg / 2 ^ 20 % 16) (hhi : arg / 2 ^ 20 % 16 ≤ 6) :
    bpSet slot arg data s = { s with dbg := { s.dbg with
      bps := Tab.put s.dbg.bps slot { kind := arg / 2 ^ 20 % 16, arg := arg % 2 ^ 20, data := data.toNat }
      hits := s.dbg.hits.filter (· != slot) } } := by
  have hkind : bits arg 23 20 = arg / 2 ^ 20 % 16 := rfl
  have harg : bits arg 19 0 = arg % 2 ^ 20 := by rw [bits, Nat.pow_zero, Nat.div_one]
  unfold bpSet
  rw [hkind, harg]
  exact if_neg (by omega)

theorem bpSet_beyond (arg : Nat) (data : W64) (h : 8 ≤ slot) : bpSet slot arg data s = status 4 s := if_pos (.inl h)

theorem bpClear_eq (h : slot < 8) : bpClear slot s = { s with dbg := { s.dbg with
    bps := Tab.del s.dbg.bps slot, hits := s.dbg.hits.filter (· != slot) } } := if_neg (not_le.mpr h)

theorem bpClear_beyond (h : 8 ≤ slot) : bpClear slot s = status 4 s := if_pos h

theorem breakpointFire_ctl {b : Bp} (hb : Tab.get? s.dbg.bps slot = some b) (hhit : s.dbg.hits.contains slot = true)
    (hrun : s.dbg.state ≠ 2) (hcut : cutHolds s = false) : ctl (breakpointFire slot s) = { ctl s with dbg := 2 } := by
  have heq : breakpointFire slot s = haltWith slot b.kind { s with
      dbg := { s.dbg with hits := s.dbg.hits.filter (· != slot), lastBp := slot } } := by
    unfold breakpointFire
    rw [hb]
    dsimp only
    rw [hhit, if_neg (by decide), if_neg hrun, hcut, if_neg Bool.false_ne_true]
  rw [heq, haltWith_ctl]
  rfl

theorem breakpointFire_unmet (hhit : s.dbg.hits.contains slot = false) : breakpointFire slot s = s := by
  unfold breakpointFire
  cases Tab.get? s.dbg.bps slot with
  | none => rfl
  | some b =>
    dsimp only
    rw [hhit]
    rfl

end Breakpoints

section Reads

/-! ### Reads -/

variable {s : State}

theorem mergeDrain_of_none {p : Merge → Bool} (h : ∀ e ∈ s.flt.merge, p e = false) : mergeDrain p s = s := by
  have hnone : s.flt.merge.filter p = [] := List.filter_eq_nil_iff.mpr fun e he hp => by
    rw [h e he] at hp
    exact Bool.false_ne_true hp
  rw [mergeDrain, hnone, each_nil]

theorem sramRead_clean {space ln w : Nat} (hsram : Tab.get? s.dbg.sram (space * 2 ^ 32 + ln) = none)
    (hw : laneWord s space ln = some w) (hclean : corrupted s space (· == ln) = [])
    (hmerge : ∀ e ∈ s.flt.merge, isLane space ln e = false) : sramRead space ln s = datum w s := by
  have hread : laneRead s space ln = (w, s) := by
    unfold laneRead
    rw [hsram, hw]
  unfold sramRead
  rw [hread]
  dsimp only
  rw [mergeDrain_of_none hmerge, hclean]

theorem dbgRead_sram {w : Nat} (hup : up s = true) (hspace : s.dbg.space ≤ 12)
    (hin : inSpace s.dbg.addr (storeBytes s.dbg.space) 8 = true)
    (hread : sramRead s.dbg.space (s.dbg.addr / 8) s = datum w s) : dbgRead s = nextAddr 8 (datum w s) := by
  unfold dbgRead
  dsimp only
  rw [if_pos hspace, hup, hin, hread]
  rfl

theorem dbgRead_register {v : Nat} (hup : up s = true) (hspace : s.dbg.space = 17) (haddr : s.dbg.addr ≠ 0x18)
    (hv : readReg s s.dbg.addr = some v) : dbgRead s = nextAddr 4 (datum v s) := by
  have hread : (if up s = true then readReg s s.dbg.addr else none) = some v := by rw [hup, if_pos rfl, hv]
  unfold dbgRead
  dsimp only
  rw [hread, if_neg (by omega), if_neg (by omega), if_neg (by omega), if_pos hspace]
  dsimp only
  rw [if_neg haddr]

/-- A register does not read what a debug request changes. -/
theorem readReg_dbgTaken (op : Nat) (r : DbgReq) (s : State) (off : Nat) : readReg (dbgTaken op r s) off = readReg s off := rfl

end Reads

section Writes

/-! ### Writes -/

variable {s : State} {w : W64}

theorem sramWrite_refused (h : s.dbg.state ≠ 2) : sramWrite w s = status 3 s := if_pos (.inr (.inr (.inr h)))

theorem dbgWrite_refused (h : 13 = s.dbg.space ∨ s.dbg.space ≤ 12 ∧ s.dbg.state ≠ 2) : dbgWrite w s = status 3 s := by
  unfold dbgWrite
  dsimp only
  rcases h with h | ⟨hspace, hrun⟩
  · rw [if_neg (by omega), if_pos (.inl h.symm)]
  · rw [if_pos hspace, sramWrite_refused hrun]

theorem laneWrite1_adm (store ln : Nat) (s : State) : (laneWrite1 store ln s).adm = s.adm := by
  unfold laneWrite1 flipHook
  dsimp only
  split <;> rfl

theorem laneWrite1_dbg (store ln : Nat) (s : State) : (laneWrite1 store ln s).dbg = s.dbg := by
  unfold laneWrite1 flipHook
  dsimp only
  split <;> rfl

/-- The words of a recipe slot once one of them is written. -/
def recipeWords (p : List Nat) (i v : Nat) : List Nat :=
  (List.range (max p.length (i + 1))).map fun k => if k = i then v else p.getD k 0

theorem recipeWords_getD (p : List Nat) (i v k : Nat) : (recipeWords p i v).getD k 0 = if k = i then v else p.getD k 0 := by
  by_cases hk : k < max p.length (i + 1)
  · simp [recipeWords, List.getD_eq_getElem?_getD, hk]
  · have hlen : p.length ≤ k ∧ k ≠ i := by omega
    have hp : p.getD k 0 = 0 := List.getD_eq_default _ _ hlen.1
    rw [if_neg hlen.2, hp]
    exact List.getD_eq_default _ _ (by simpa [recipeWords] using hk)

theorem laneWrite_recipe (ln : Nat) (w : W64) (s : State) : laneWrite 12 ln w s =
    { s with adm.recipes := Tab.put s.adm.recipes (ln / 256) (recipeWords (recipe s (ln / 256)) (ln % 256) w.toNat) } := rfl

/-- A lane of the recipe store after a write of one of them. -/
theorem laneWord_laneWrite (ln n : Nat) (w : W64) (s : State) :
    laneWord (laneWrite 12 ln w s) 12 n = if n = ln then some w.toNat else laneWord s 12 n := by
  change some ((recipe (laneWrite 12 ln w s) (n / 256)).getD (n % 256) 0) = _
  by_cases hslot : n / 256 = ln / 256
  · have hrec : recipe (laneWrite 12 ln w s) (n / 256) = recipeWords (recipe s (ln / 256)) (ln % 256) w.toNat := by
      rw [laneWrite_recipe, recipe, Tab.getD]
      dsimp only
      rw [hslot, Tab.get?_put_self]
      rfl
    rw [hrec, recipeWords_getD]
    by_cases hn : n = ln
    · rw [if_pos (by rw [hn]), if_pos hn]
    · rw [if_neg (by omega), if_neg hn, ← hslot]
      rfl
  · have hrec : recipe (laneWrite 12 ln w s) (n / 256) = recipe s (n / 256) := by
      rw [laneWrite_recipe, recipe, Tab.getD]
      dsimp only
      rw [Tab.get?_put_ne _ _ hslot]
      rfl
    rw [hrec, if_neg fun hn => hslot (by rw [hn])]
    rfl

theorem laneWord_congr {t : State} (h : t.adm = s.adm) (n : Nat) : laneWord t 12 n = laneWord s 12 n := by
  change some ((Tab.getD t.adm.recipes (n / 256) []).getD (n % 256) 0) = some ((Tab.getD s.adm.recipes (n / 256) []).getD (n % 256) 0)
  rw [h]

theorem adm_onlyEvents {t : State} (h : onlyEvents s t) : t.adm = s.adm := by
  rw [onlyEvents] at h
  rw [h]

theorem dbgAddr_onlyEvents {t : State} (h : onlyEvents s t) : t.dbg.addr = s.dbg.addr := by
  rw [onlyEvents] at h
  rw [h]

theorem dbgWrite_recipe (hup : up s = true) (hhalt : s.dbg.state = 2) (hspace : s.dbg.space = 12)
    (hin : inSpace s.dbg.addr 131072 8 = true) : dbgWrite w s = nextAddr 8 (raise0 0x0C04 2 (12 + 2 ^ 8 * (s.dbg.addr / 8))
      (laneWrite1 12 (s.dbg.addr / 8) (laneWrite 12 (s.dbg.addr / 8) w s))) := by
  have hsize : storeBytes 12 = 131072 := by decide
  have hok : ¬ (!(up s && inSpace s.dbg.addr (storeBytes 12) 8)) = true := by
    rw [hup, hsize, hin]
    decide
  unfold dbgWrite sramWrite
  dsimp only
  rw [hspace, if_pos (by decide), if_neg (by rw [hhalt]; decide), if_neg hok]

/-- The recipe store and the address after a write of a recipe's lane. -/
theorem dbgWrite_recipe_spec (hup : up s = true) (hhalt : s.dbg.state = 2) (hspace : s.dbg.space = 12)
    (hin : inSpace s.dbg.addr 131072 8 = true) : (dbgWrite w s).dbg.addr = s.dbg.addr + 8 ∧
      ∀ n, laneWord (dbgWrite w s) 12 n = if n = s.dbg.addr / 8 then some w.toNat else laneWord s 12 n := by
  rw [dbgWrite_recipe hup hhalt hspace hin]
  generalize s.dbg.addr / 8 = ln
  have hev := raise0_events 0x0C04 2 (12 + 2 ^ 8 * ln) (laneWrite1 12 ln (laneWrite 12 ln w s))
  generalize raise0 0x0C04 2 (12 + 2 ^ 8 * ln) (laneWrite1 12 ln (laneWrite 12 ln w s)) = t at hev
  refine ⟨?_, fun n => ?_⟩
  · change t.dbg.addr + 8 = _
    rw [dbgAddr_onlyEvents hev, laneWrite1_dbg]
    rfl
  · rw [← laneWord_laneWrite ln n w s]
    exact laneWord_congr ((adm_onlyEvents hev).trans (laneWrite1_adm ..)) n

theorem dbgWrite_flip (hup : up s = true) (hspace : s.dbg.space = 17) (haddr : s.dbg.addr = 0xA00) :
    dbgWrite w s = { s with regs.flip.lo := w.setWidth 32, dbg.addr := 0xA04 } := by
  have hset : setupWrite 0xA00 (w.setWidth 32) s = { s with regs.flip.lo := w.setWidth 32 } := rfl
  have hread : (up s && (readReg s s.dbg.addr).isSome) = true := by
    rw [hup, haddr]
    rfl
  have hnext : s.dbg.addr + 4 = 0xA04 := by rw [haddr]
  unfold dbgWrite
  dsimp only
  rw [if_neg (by omega), if_neg (by omega), if_neg (by omega), if_pos hspace, if_pos hread, ← hnext, haddr, hset, ← haddr]
  rfl

end Writes

section Fields

/-! ### One-time-programmable fields -/

variable {s : State} {f : Nat}

theorem onOtp_free (g : State → State) (hf : f < 2) (h : otpField s f = none) : onOtp f g s = g s := by
  unfold onOtp
  rw [if_neg (not_le.mpr hf), h]
  rfl

theorem onOtp_programmed (g : State → State) (hf : f < 2) (h : (otpField s f).isSome = true) : onOtp f g s = status 3 s := by
  unfold onOtp
  rw [if_neg (not_le.mpr hf), if_pos h]

theorem otpField_setField (b : Bytes) (s : State) (hf : f < 2) :
    otpField (setField f b s) f = some b ∧ otpField (setField f b s) (1 - f) = otpField s (1 - f) := by
  interval_cases f <;> exact ⟨rfl, rfl⟩

theorem setField_dbg (f : Nat) (b : Bytes) (s : State) : (setField f b s).dbg = s.dbg := by
  unfold setField
  split <;> rfl

end Fields

/-- Settles O56: breakpoints, memory and one-time-programmable fields answer as R384 to R390 say. -/
theorem debugAccess : Obligations.DebugAccess := by
  unfold Obligations.DebugAccess
  refine ⟨?set, ?clear, ?beyond, ?fires, ?unmet, ?setaddr, ?readRegister, ?readSram, ?writeRefused, ?writeRecipe, ?writeFlip,
    ?burn, ?burnt⟩
  case set =>
    exact fun s r htake hslot hlo hhi => congrArg Host.Outcome.next
      ((dbgReq_of_takes 0x10 _ htake).trans (bpSet_eq r.data hslot hlo hhi))
  case clear =>
    exact fun s r htake hslot => congrArg Host.Outcome.next ((dbgReq_of_takes 0x11 _ htake).trans (bpClear_eq hslot))
  case beyond =>
    exact fun s r htake hslot => ⟨
      congrArg Host.Outcome.next ((dbgReq_of_takes 0x10 _ htake).trans (bpSet_beyond r.arg r.data hslot)),
      congrArg Host.Outcome.next ((dbgReq_of_takes 0x11 _ htake).trans (bpClear_beyond hslot))⟩
  case fires =>
    exact fun s n b hup hb hhit hrun hcut => ⟨_, congrArg Host.Outcome.next (if_pos hup),
      halted_of_ctl (breakpointFire_ctl hb hhit hrun hcut)⟩
  case unmet =>
    intro s n hhit
    change Host.Outcome.next (when (up s) (breakpointFire n) s) = _
    rw [when, breakpointFire_unmet hhit, ite_self]
  case setaddr =>
    exact fun s r htake hspace => congrArg Host.Outcome.next ((dbgReq_of_takes 0x18 _ htake).trans (if_pos hspace))
  case readRegister =>
    exact fun s r v htake hup hspace haddr hv => congrArg Host.Outcome.next ((dbgReq_of_takes 0x19 _ htake).trans
      (dbgRead_register (s := dbgTaken 0x19 r s) hup hspace haddr ((readReg_dbgTaken ..).trans hv)))
  case readSram =>
    exact fun s r w htake hup hspace hin hsram hw hclean hmerge => congrArg Host.Outcome.next
      ((dbgReq_of_takes 0x19 _ htake).trans (dbgRead_sram (s := dbgTaken 0x19 r s) hup hspace hin
        (sramRead_clean (s := dbgTaken 0x19 r s) hsram hw hclean hmerge)))
  case writeRefused =>
    exact fun s r htake h => congrArg Host.Outcome.next
      ((dbgReq_of_takes 0x1A _ htake).trans (dbgWrite_refused (s := dbgTaken 0x1A r s) h))
  case writeRecipe =>
    intro s r htake hup hhalt hspace hin
    obtain ⟨haddr, hword⟩ := dbgWrite_recipe_spec (s := dbgTaken 0x1A r s) (w := r.data) hup hhalt hspace hin
    exact ⟨_, congrArg Host.Outcome.next (dbgReq_of_takes 0x1A _ htake), haddr, (hword _).trans (if_pos rfl),
      fun n hn => (hword n).trans (if_neg hn)⟩
  case writeFlip =>
    exact fun s r htake hup hspace haddr => congrArg Host.Outcome.next
      ((dbgReq_of_takes 0x1A _ htake).trans (dbgWrite_flip (s := dbgTaken 0x1A r s) hup hspace haddr))
  case burn =>
    rintro s r f htake rfl hf hfree
    have hburn : dbgReq 0x21 true r (onOtp r.sel (otpBurn r.sel true)) s =
        otpBurn r.sel true (dbgTaken 0x21 r s) := (dbgReq_of_takes 0x21 _ htake).trans (onOtp_free _ hf hfree)
    obtain ⟨hset, hother⟩ := otpField_setField ((List.range 4).flatMap fun i =>
      toLE 8 (Tab.getD s.pins.otpStage (4 * r.sel + i) 0).toNat) (dbgTaken 0x21 r s) hf
    exact ⟨congrArg Host.Outcome.next ((dbgReq_of_takes 0x20 _ htake).trans (onOtp_free _ hf hfree)),
      _, congrArg Host.Outcome.next hburn, hset, congrArg Debug.ansStatus (setField_dbg ..), hother⟩
  case burnt =>
    exact fun s r b htake hf hdone => ⟨
      congrArg Host.Outcome.next ((dbgReq_of_takes 0x20 _ htake).trans (onOtp_programmed _ hf hdone)),
      congrArg Host.Outcome.next ((dbgReq_of_takes 0x21 _ htake).trans (onOtp_programmed _ hf hdone))⟩

end Sys2Proof.Machine
end
